-- ==== Sys2Proof/Word.lean ====
section
/-! DEFINITION. Words, bytes and the plainest arithmetic on them; ordered tables of plain data. -/

namespace Sys2Proof

/-- A double: 64 bits (00 R1). -/
abbrev Word := BitVec 64
/-- A vector register: 1,024 bits (03 R68). -/
abbrev Vec := BitVec 1024
/-- A mask register: 128 bits (03 R69). -/
abbrev MaskV := BitVec 128

/-- The field of `n` bits of `w` whose lowest bit is bit `lo`. -/
abbrev fld (w lo n : Nat) : Nat := w / 2 ^ lo % 2 ^ n

/-- Bit `i` of `w`. -/
abbrev bit (w i : Nat) : Bool := w / 2 ^ i % 2 == 1

/-- A table from numbers to plain data, kept with its keys strictly rising. -/
abbrev Tab (α : Type) := List (Nat × α)

/-- What the table holds at a key. -/
def Tab.get? {α : Type} (t : Tab α) (k : Nat) : Option α := (List.find? (fun e => e.1 == k) t).map Prod.snd

/-- What the table holds at a key, or the value of an absent key. -/
def Tab.getD {α : Type} (t : Tab α) (k : Nat) (d : α) : α := (Tab.get? t k).getD d

/-- The table with a key set. -/
def Tab.put {α : Type} : Tab α → Nat → α → Tab α
  | [], k, v => [(k, v)]
  | e :: t, k, v =>
    if k < e.1 then (k, v) :: e :: t
    else if k == e.1 then (k, v) :: t
    else e :: Tab.put t k v

/-- The table without a key. -/
def Tab.del {α : Type} (t : Tab α) (k : Nat) : Tab α := List.filter (fun e => e.1 != k) t

/-- The table with a key set, the value of an absent key being left out. -/
def Tab.set {α : Type} [DecidableEq α] (t : Tab α) (k : Nat) (v d : α) : Tab α :=
  if v = d then Tab.del t k else Tab.put t k v

end Sys2Proof
end

