-- ==== Sys2Proof/Types.lean ====
section
/-! DEFINITION. The names that instructions and messages are made of: operands, type codes, rounding modes, and the
messages of the mesh. -/

namespace Sys2Proof

/-- The legal codes of an 8-bit operand field (03 R56). -/
inductive Operand where
  | g (n : Fin 128)
  | h (n : Fin 4)
  | lc
  | la
  | k (n : Fin 16)
  | q (n : Fin 8)
  | zero
deriving DecidableEq, Repr

/-- Type codes 0 to 14 (07 R159); a .b suffix is the .n type of its width. -/
inductive Ty where
  | s8 | s16 | s32 | s64 | n8 | n16 | n32 | n64 | f32 | bf16 | f16 | e4m3 | e5m2 | e3m2 | e2m1
deriving DecidableEq, Repr

/-- Rounding modes (06 R137). -/
inductive RMode where
  | rne | rz | rdn | rup
deriving DecidableEq, Repr

/-- Kinds of PCYC (11 R280). -/
inductive CycKind where
  | cycles | fixed | longest | order | through
deriving DecidableEq, Repr

/-- Formats of a described block (06 R141). -/
inductive BlockFmt where
  | xe4m3 | e3m2 | e2m1 | int4
deriving DecidableEq, Repr

/-- A travel message, a fork child, a wake or a recovery thread: R40's header and payload; a wake has kind 5 (log 24). `j` holds the entry index of
a J form whose block the directory does not hold (08 R174): `dest` then names the block at offset 0. `regs` and `masks`
are the carried registers with their numbers. Beside the message itself: the sender's thread id, by which R38 chooses a
holder when the message is sent again (log 22; for a wake its destination core), and the context of a fork's parent that
still waits (for a wake the hedge and operation of its drain). -/
structure Travel where
  pt : Nat
  asid : Nat
  dest : Nat
  j : Option Nat
  origin : Nat
  link : Nat
  live : Nat
  full : Nat
  maskLive : Nat
  kind : Nat
  cls : Nat
  redun : Bool
  rolled : Bool
  regs : List (Nat × Word)
  masks : List (Nat × MaskV)
  cut : Bool
  tid : Nat
  parent : Option (Nat × Nat)
  /-- Of a stolen child that waits for placement: the thief, onto which Ozine loads the block (02 R49). -/
  thief : Option Nat := none
  /-- Of a message on its way back: the core that was sealed when it came there (02 R52). -/
  back : Option Nat := none
deriving DecidableEq, Repr

/-- A SEND or SENDU in flight (08 R182). -/
structure SendMsg where
  unaddressed : Bool
  tgt : Word
  v : Word
  tid : Nat
  asid : Nat
  cls : Nat
  ts : Nat
  cut : Bool
deriving DecidableEq, Repr

/-- Where a landing packet comes from: the issuing core, channel, transfer id and packet number (09 R223). -/
structure LandFrom where
  core : Nat
  chan : Nat
  id : Nat
  pkt : Nat
deriving DecidableEq, Repr

/-- A remote private store or atomic that another chip's active message carries (04 R98): the operation (0 a store, 1 to
12 the atomics in the order of their codes, 13 a copy's write to the hedge scratchpad) and the value that ACAS compares. -/
structure RemoteWrite where
  offset : Nat
  bytes : Nat
  value : Nat
  op : Nat
  h : Nat
deriving DecidableEq, Repr

/-- A handler that the porter is to run: an active message (08 R185), a landing packet (09 R223), or another chip's
remote private write (04 R98). For a landing packet `off` is the
handler's entry index. -/
structure PorterItem where
  blk : Nat
  off : Nat
  asid : Nat
  cls : Nat
  pt : Nat
  regs : List (Nat × Word)
  cut : Bool
  land : Option LandFrom
  msg : Option SendMsg
  wr : Option RemoteWrite
deriving DecidableEq, Repr

/-- A TRAP record (08 R193, 17 R376). -/
structure TrapRec where
  tid : Nat
  asid : Nat
  cls : Nat
  next : Nat
  arg : Word
deriving DecidableEq, Repr

/-- A host command of 64 bytes, with the die and queue slot that carried it (17 R375). -/
structure HostCmd where
  die : Nat
  queue : Nat
  d : List Word
deriving DecidableEq, Repr

/-- Messages between the packages of a job over the management links (17 R371). -/
inductive MgmtMsg where
  /-- To chip 0: a package has a launch command that joins the job, with its chip number and chip count. -/
  | join (job chip chips : Nat)
  /-- Chip 0's answer to a join: the launch class, the features that the header names, a status of R375. -/
  | answer (job cls features status : Nat)
  /-- A whole-job command forwarded by another package. -/
  | command (c : HostCmd)
  /-- A chip has stopped or ended a job as another chip asked (17 R402). -/
  | stopped (job chip : Nat)
  /-- The new digest of a migrated chip, and the next hop toward it (17 R372). -/
  | digest (job chip : Nat) (digest nextHop : Word)
deriving DecidableEq, Repr

/-- Error messages that return to a core (14 R330). -/
inductive ErrMsg where
  /-- A thread's remote access: the core, slot and the owner's logical id. -/
  | access (core slot owner : Nat)
  /-- A transfer of a channel toward a core that is sealed or lost. -/
  | transfer (core chan id : Nat)
  /-- A drain toward a core that is sealed or lost. -/
  | drain (hedge op : Nat)
  /-- A QMAXX group with a member that is sealed or lost. -/
  | qmaxx (core asid g tag owner : Nat)
deriving DecidableEq, Repr

/-- A boot image (17 R378): Ozine's code, the die configuration (of which the mode of the host port is what this model
reads), the Ozine version; the root public key it names; its signature; and where an owner signs, the owner key with the
root key's certificate of it. Keys, code and signatures are lists of bytes. -/
structure BootImage where
  code : List Nat := []
  config : List Nat := []
  cxlMode : Bool := false
  ozine : Nat := 0
  rootKey : List Nat := []
  signature : List Nat := []
  owner : Option (List Nat × List Nat) := none
deriving DecidableEq, Repr

/-- What the boot of the package meets (17 R377): a failure of a step but the verification, or an image that it fetches. -/
inductive BootResult where
  | failed (step : Nat)
  | fetched (image : BootImage)
deriving DecidableEq, Repr

/-- An entry of the placed-image cache (17 R383): its key, and where the images of the portable object lie. -/
structure PlacedImage where
  digest : Nat := 0
  feat0 : Nat := 0
  feat1 : Nat := 0
  addr : Nat := 0
  bytes : Nat := 0
deriving DecidableEq, Repr

/-- One copy of a versioned ring control block (05 R113). -/
structure RingCopy where
  base : Nat
  log2cap : Nat
  version : Nat
  hwm : Nat
deriving DecidableEq, Repr

/-- Which ring a control block governs (05 R113, R116, R117, 02 R44). -/
inductive RingName where
  | spill (core : Nat)
  | deque (core : Nat)
  | task (die cls : Nat)
  | hold (die cls : Nat)
  | overflow (die : Nat)
deriving DecidableEq, Repr

/-- What an Ozine write through the management window names (03 R74, 04 R106, 05 R126, 02 R33, 17 R367). -/
inductive MgmtWrite where
  /-- A status register of a core by its number. -/
  | coreCsr (core csr : Nat) (v : Word)
  /-- MECHECK of a hedge. -/
  | hedgeCsr (hedge csr : Nat) (v : Word)
  /-- SPAREFREE of a die. -/
  | dieCsr (die csr : Nat) (v : Word)
  /-- An ASID descriptor of a die: its 32 bytes as one number. -/
  | asidEntry (die desc : Nat)
  /-- A steal-domain table entry of a die. -/
  | stealDomain (die index : Nat) (v : Nat)
  /-- A BAR2 window that Ozine opens to a host function: base and length. -/
  | openWindow (fn base len : Nat)
  /-- The ASIDs that are open to a host function. -/
  | functionAsids (fn : Nat) (asids : List Nat)
  /-- A far-memory port's window in GiB, and whether it is shared read-only. -/
  | farWindow (port gib : Nat) (ro : Bool)
  /-- A double of memory that Ozine writes: page tables, control blocks, rings. -/
  | memory (addr : Nat) (v : Word)
  /-- A byte of an instruction store (space 5), into bytes that hold no placed block. -/
  | istore (core addr v : Nat)
  /-- The pending copy of a rename entry (05 R124). -/
  | renameCopy (die entry st phys : Nat)
  /-- The copies of versioned blocks that no commit word names yet: a slot table (slot and ASID granted), the scheduler's and
  Yew's configurations, a ring's (05 R125, R113; 13 R302; 15 R336). -/
  | slotCopy (hedge version : Nat) (slots : List (Nat × Nat))
  | schedCopy (die version : Nat) (class0 : Option Nat) (queues holds : List Nat)
  | yewCopy (die base size version hwm : Nat) (asids : List Nat)
  | ringCopy (ring : RingName) (copy : RingCopy)
  | dirCopy (die base log2buckets version : Nat)
  /-- Where the control block of a core's or a die's ring stands (05 R113; log 83). -/
  | ringBlock (ring : RingName) (addr : Nat)
  /-- What `.place` and `.colocate` ask for the blocks of a job: block and core, block and block (02 R35). -/
  | blockRequests (job : Nat) (places colocs : List (Nat × Nat))
  /-- An entry of the placed-image cache that the placer writes (17 R383). -/
  | placedImage (e : PlacedImage)
  /-- A queue slot of a die set up for a host function, with bits [103:0] of its ring capabilities, which the sealing unit
  seals (17 R373, R374). -/
  | hostQueue (die queue fn cmd cpl save : Nat)
  /-- A command to the Yews of a job: its two doubles (15 R349). -/
  | yewCommand (job : Nat) (d0 d1 : Word)
  /-- The generation of an object type of a queue slot raised, which revokes its capabilities (17 R373). -/
  | queueGen (die queue type : Nat)
  /-- The identity digest of the package at the other end of an Ibyel link (17 R370). -/
  | linkPeer (link : Nat) (digest : Word)
deriving DecidableEq, Repr

/-- A link of the package (14 R323). -/
inductive Link where
  | mesh (die : Nat)
  | dieToDie (a b : Nat)
  | ibyel (n : Nat)
deriving DecidableEq, Repr

end Sys2Proof
end

