-- ==== Sys2Proof/Syntax.lean ====
section
/-! DEFINITION. The instructions and events of the part: one constructor for each row of the opcode table. A word's L and
S bits belong to its bundle (07 R150) and are not part of the instruction. -/

namespace Sys2Proof

inductive Instr where
  -- CTL (07 R163, 08 R177)
  | nop | ksync | idle | endThread | ret
  | jmpr (a : Operand) | callr (a : Operand) | forkr (a : Operand) | join (a : Operand)
  | rdw (d : Operand) (a : Fin 128) | rdwc (d : Operand) (a : Fin 128)
  | trap (a : Operand) | fenceb | snap (a : Operand) | yield
  | waitx (a : Operand) (c : Fin 4)
  -- BR (08 R173)
  | br (off : Fin 512)
  | beqz (a : Operand) (off : Fin 512) | bnez (a : Operand) (off : Fin 512)
  | bltz (a : Operand) (off : Fin 512) | bgez (a : Operand) (off : Fin 512)
  | bgtz (a : Operand) (off : Fin 512) | blez (a : Operand) (off : Fin 512)
  | bfull (a : Fin 128) (off : Fin 512) | bempty (a : Fin 128) (off : Fin 512)
  -- J forms (08 R174)
  | jmp (entry : Fin 16) (delta : BitVec 20) | call (entry : Fin 16) (delta : BitVec 20)
  | fork (entry : Fin 16) (delta : BitVec 20)
  -- SEND, CSR
  | send (a b : Operand) | sendu (a b : Operand)
  | csrrd (x : Operand) (csr : BitVec 12) | csrwr (x : Operand) (csr : BitVec 12)
  -- scalar loads and stores (09 R209)
  | ldN (x : Operand) (bf : Fin 64) (sz : Fin 4) (i : Operand)
  | ldS (x : Operand) (bf : Fin 64) (sz : Fin 4) (i : Operand)
  | ldeN (x : Operand) (bf : Fin 64) (sz : Fin 4) (i : Operand)
  | ldeS (x : Operand) (bf : Fin 64) (sz : Fin 4) (i : Operand)
  | ldxN (x : Operand) (bf : Fin 64) (sz : Fin 4) (i : Operand)
  | ldxS (x : Operand) (bf : Fin 64) (sz : Fin 4) (i : Operand)
  | st (x : Operand) (bf : Fin 64) (sz : Fin 4) (i : Operand)
  | ste (x : Operand) (bf : Fin 64) (sz : Fin 4) (i : Operand)
  | stx (x : Operand) (bf : Fin 64) (sz : Fin 4) (i : Operand)
  -- atomics (09 R215)
  | aswap (x : Operand) (bf : Fin 16) (i : Operand) | aadd (x : Operand) (bf : Fin 16) (i : Operand)
  | aand (x : Operand) (bf : Fin 16) (i : Operand) | aor (x : Operand) (bf : Fin 16) (i : Operand)
  | axor (x : Operand) (bf : Fin 16) (i : Operand)
  | aminS64 (x : Operand) (bf : Fin 16) (i : Operand) | amaxS64 (x : Operand) (bf : Fin 16) (i : Operand)
  | aminN64 (x : Operand) (bf : Fin 16) (i : Operand) | amaxN64 (x : Operand) (bf : Fin 16) (i : Operand)
  | acas (x : Operand) (bf : Fin 16) (i : Operand)
  | aamaxF32 (x : Operand) (bf : Fin 16) (i : Operand) | amaxswapF32 (x : Operand) (bf : Fin 16) (i : Operand)
  -- buffer records (09 R213), copies (09 R218)
  | bfld (a : Operand) (bf : Fin 64) | bfclr (bf : Fin 64)
  | cpy (d : Operand) (a : Fin 128) | cpyNb (d : Operand) (a : Fin 128)
  -- vector memory (10 R241, R242), QPACK (10 R247); `vp` is half the number of the group's first register
  | vld (sz : Fin 4) (m : Fin 8) (v : Fin 32) (bf : Fin 64) (i : Operand)
  | vst (sz : Fin 4) (m : Fin 8) (v : Fin 32) (bf : Fin 64) (i : Operand)
  | vldpE2m1 (m : Fin 8) (v : Fin 32) (bf : Fin 64) (i : Operand)
  | vldpE3m2 (m : Fin 8) (v : Fin 32) (bf : Fin 64) (i : Operand)
  | vstpE2m1 (m : Fin 8) (v : Fin 32) (bf : Fin 64) (i : Operand)
  | vstpE3m2 (m : Fin 8) (v : Fin 32) (bf : Fin 64) (i : Operand)
  | qpackE4m3 (vp : Fin 16) (bf : Fin 64) (i : Operand) | qpackE3m2 (vp : Fin 16) (bf : Fin 64) (i : Operand)
  | qpackE2m1 (vp : Fin 16) (bf : Fin 64) (i : Operand) | qpacki (vp : Fin 16) (bf : Fin 64) (i : Operand)
  -- MTX (11 R266); `vq` is a quarter of the number of the group's first register
  | accld (t : Fin 4) (vq : Fin 8) (s : Operand) | accst (t : Fin 4) (vq : Fin 8) (s : Operand)
  | drain (t : Fin 4) (s : Fin 128)
  -- scalar arithmetic (09 R204 to R208)
  | add (d a b : Operand) | sub (d a b : Operand) | mul (d a b : Operand)
  | mulhS64 (d a b : Operand) | mulhN64 (d a b : Operand)
  | and (d a b : Operand) | or (d a b : Operand) | xor (d a b : Operand)
  | shl (d a b : Operand) | shrN64 (d a b : Operand) | shrS64 (d a b : Operand)
  | sltS64 (d a b : Operand) | sltN64 (d a b : Operand) | seq (d a b : Operand)
  | addi (d a : Operand) (imm : BitVec 8)
  | shli (d a : Operand) (n : Fin 64) | shriN64 (d a : Operand) (n : Fin 64)
  | shriS64 (d a : Operand) (n : Fin 64) | rotri (d a : Operand) (n : Fin 64)
  | li (d : Operand) (imm : BitVec 16) | lis (d : Operand) (imm : BitVec 16)
  | bfx (d a b : Operand) | bfi (d a b : Operand)
  | mov (d a : Operand) | not (d a : Operand) | neg (d a : Operand) | absS64 (d a : Operand)
  | popc (d a : Operand) | clz (d a : Operand) | ctz (d a : Operand)
  | bswap (d a : Operand) | brev (d a : Operand)
  | sextS8 (d a : Operand) | sextS16 (d a : Operand) | sextS32 (d a : Operand)
  | zextN8 (d a : Operand) | zextN16 (d a : Operand) | zextN32 (d a : Operand)
  -- quantisation and width (10 R229, R244, R246)
  | qmaxx (d a : Operand)
  | qscaleE4m3 (d a : Operand) | qscaleE3m2 (d a : Operand) | qscaleE2m1 (d a : Operand) | qscalei (d a : Operand)
  | vlq (d : Operand) | vlane (d : Operand) (ty : Ty)
  -- vector element-wise (10 R232)
  | vadd (ty : Ty) (m : Fin 8) (vd va vb : Fin 32) | vsub (ty : Ty) (m : Fin 8) (vd va vb : Fin 32)
  | vmul (ty : Ty) (m : Fin 8) (vd va vb : Fin 32) | vfma (ty : Ty) (m : Fin 8) (vd va vb : Fin 32)
  | vmin (ty : Ty) (m : Fin 8) (vd va vb : Fin 32) | vmax (ty : Ty) (m : Fin 8) (vd va vb : Fin 32)
  | vaddsat (ty : Ty) (m : Fin 8) (vd va vb : Fin 32) | vsubsat (ty : Ty) (m : Fin 8) (vd va vb : Fin 32)
  | vand (ty : Ty) (m : Fin 8) (vd va vb : Fin 32) | vor (ty : Ty) (m : Fin 8) (vd va vb : Fin 32)
  | vxor (ty : Ty) (m : Fin 8) (vd va vb : Fin 32) | vandn (ty : Ty) (m : Fin 8) (vd va vb : Fin 32)
  | vceq (ty : Ty) (m md : Fin 8) (va vb : Fin 32) | vclt (ty : Ty) (m md : Fin 8) (va vb : Fin 32)
  | vcle (ty : Ty) (m md : Fin 8) (va vb : Fin 32) | vcne (ty : Ty) (m md : Fin 8) (va vb : Fin 32)
  | vcvt (dt st : Ty) (rm : RMode) (sat : Bool) (m : Fin 8) (vd va : Fin 32)
  | vbcast (ty : Ty) (m : Fin 8) (vd : Fin 32) (s : Operand) | vaddx (ty : Ty) (m : Fin 8) (vd : Fin 32) (s : Operand)
  | vmulx (ty : Ty) (m : Fin 8) (vd : Fin 32) (s : Operand) | vmaxx (ty : Ty) (m : Fin 8) (vd : Fin 32) (s : Operand)
  | vrsum (ty : Ty) (m : Fin 8) (va : Fin 32) (d : Operand) | vrmax (ty : Ty) (m : Fin 8) (va : Fin 32) (d : Operand)
  | vrmin (ty : Ty) (m : Fin 8) (va : Fin 32) (d : Operand) | vramax (ty : Ty) (m : Fin 8) (va : Fin 32) (d : Operand)
  | vcompress (ty : Ty) (m : Fin 8) (vd va : Fin 32) (h : Fin 4)
  | vexpand (ty : Ty) (m : Fin 8) (vd va : Fin 32) (h : Fin 4)
  | vrowmv (ty : Ty) (m : Fin 8) (vd va : Fin 32) (w : Fin 8)
  | vsel (ty : Ty) (m : Fin 8) (vd va : Fin 32)
  -- masks (10 R230, R231)
  | mand (md ma mb : Fin 8) | mor (md ma mb : Fin 8) | mxor (md ma mb : Fin 8) | mandn (md ma mb : Fin 8)
  | mnot (md ma : Fin 8) | mmov (md ma : Fin 8)
  | mpop (ma : Fin 8) (s : Operand) | mfrom (md : Fin 8) (s : Operand)
  | mtolo (ma : Fin 8) (s : Operand) | mtohi (ma : Fin 8) (s : Operand)
  | bound (md : Fin 8) (ty : Ty) (a b : Operand)
  -- permutations (11 R275)
  | pload (wd : Fin 8) (s : Operand) | pcomp (wd wa wb : Fin 8) | pinv (wd wa : Fin 8)
  | prand (wd : Fin 8) (s : Fin 128) | pcompact (wd : Fin 8) (m : Fin 8) (s : Operand)
  | pcyc (wa : Fin 8) (kind : CycKind) (s : Operand) | pstore (wa : Fin 8) (s : Operand)
  | pidx (wa : Fin 8) (s : Operand)
  -- events: threads and travel (02); `c` is a physical core of the package, `dst` and `thief` logical core ids
  | freeContextHint (c asid blk holder : Nat) (free : Bool)
  | travelMessageArrival (dst : Nat) (m : Travel)
  | returnedTravelMessage (m : Travel)
  | blockDirectoryReadReturn (c asid blk : Nat) (m : Option Travel)
  | gatheringWindowClose (c blk off asid cls : Nat)
  | forkChildArrival (dst : Nat) (m : Travel)
  | stolenChildArrival (dst : Nat) (m : Travel)
  | contextSave (c slot : Nat)
  | coreResume (c : Nat)
  -- memory (12)
  | loadReturn (c slot seq : Nat)
  | atomicReturn (c slot seq : Nat)
  | fillRequest (c slot line : Nat)
  | leaseRenewal (c slot line : Nat)
  | ownershipRequest (c slot line : Nat)
  | ownershipGrant (c slot line : Nat)
  | recall (line owner : Nat)
  | recallReply (line wts rts : Nat) (data : Option Nat) (poison : Nat)
  | writeback (line wts rts data poison : Nat) (dirty : Bool)
  | pageWalkComplete (die asid va : Nat)
  | shootdownAck (die hedge asid va : Nat)
  | remotePrivateRequest (c slot : Nat)
  -- messages (08)
  | sendArrival (m : SendMsg)
  | senduArrival (m : SendMsg)
  | returnedSend (m : SendMsg)
  | activeMessageArrival (dst : Nat) (m : PorterItem)
  | porterHandlerStart (c : Nat)
  | trapRecordAccept (c slot : Nat) (r : TrapRec)
  | snapRequest (c slot tag : Nat)
  | snapAnswer (c slot : Nat)
  | idleTimeout (c slot : Nat)
  | joinWake (die addr : Nat)
  -- copies and the row exchange (09, 10)
  | copyAccept (c : Nat)
  | copyPacketStart (c : Nat)
  | copyPacketLanding (c chan id pkt : Nat)
  | landingPacketArrival (dst : Nat) (m : PorterItem)
  | qmaxxContribution (dst asid g tag source : Nat) (amax : BitVec 32) (cut : Bool)
  | qmaxxTimeout (c asid g tag : Nat)
  | chainCommandAccept (c : Nat)
  | chainCommandComplete (c : Nat)
  -- the matrix engine (11); `h` is a hedge of the package, `op` an accepted operation
  | mma (h op : Nat)
  | mmac (h op : Nat)
  | zero (h op : Nat)
  | kStepBoundary (h : Nat)
  | matrixCommandComplete (h op : Nat)
  | accldComplete (h op : Nat)
  | accstComplete (h op : Nat)
  | drainStart (h op : Nat)
  | drainLineWrite (h op line : Nat)
  | drainComplete (h op : Nat)
  | wakeArrival (dst : Nat) (m : Travel)
  | hornbeamSolveStart (h : Nat)
  | hornbeamSolveComplete (h : Nat)
  -- the task scheduler and engine arbitration (13)
  | tkqAccept (c : Nat)
  | counterZeroWake (die record : Nat)
  | taskSelect (die : Nat)
  | tileOffer (die record i : Nat)
  | engineCandidateStart (h : Nat)
  | tileSpillComplete (h tile : Nat)
  | tileRefillComplete (h tile : Nat)
  | frameStart (h : Nat)
  -- faults and containment (14)
  | coreKill (c cause : Nat)
  -- snapshots (15)
  | snapshotOpen (job tag : Nat)
  | snapshotMarker (c tag : Nat)
  | snapPageCopy (die asid va : Nat)
  | sramPageCopy (page : Nat)
  | snapshotFinish (job tag : Nat)
  | lsplit (c : Nat) (v : Word)
  | managementMessage (m : MgmtMsg)
  -- host, firmware and boot (17)
  | meshInterrupt (c : Nat)
  | borrowReturn (h : Nat)
  | errorMessageArrival (m : ErrMsg)
  | snapshotLeafRewrite (die asid va : Nat)
  | cutLineCopy (line : Nat)
  | pinnedPageCopy (page : Nat)
  | queuePageIn (die queue : Nat)
  | stop (cmd : HostCmd)
  -- the issue stage and the rest
  | blockMapInvalidation (c asid blk : Nat)
  | slotBoundary (h : Nat)
  | ksyncResume (c slot : Nat)
  | pcycPidxResume (c slot : Nat)
  | migrateOut (cmd : HostCmd)
  | illegalEncoding (c slot word : Nat)
  -- steps of parties outside the cores (Ozine, the host, the environment): only the script names them (log 4)
  | blockPlacement (die asid blk dst : Nat) (image : Option Nat)
  | entryFaultAtFetch (c slot : Nat)
  | threadDeparture (c slot : Nat)
  | steal (thief owner : Nat)
  | pageInComplete (die asid va : Nat) (leaf : Option Word)
  | tlbShootdown (die asid va : Nat) (hedges : List Nat)
  | trapAllocate (r : TrapRec) (frame : Option Nat)
  | trapFree (r : TrapRec)
  | trapLog (r : TrapRec)
  | trapUnknownService (r : TrapRec)
  | channelResume (c chan : Nat)
  | channelFlush (c chan : Nat)
  | frozenThreadReissue (c slot : Nat)
  | frozenThreadEnd (c slot : Nat)
  | frozenThreadFaultEntry (c slot entry : Nat)
  | heartbeatTimeout (c : Nat)
  | spareRemap (c : Nat) (chosen : Nat)
  | flitCrcError (link : Link)
  | packageReset (b : BootResult)
  | wakeWordStore (fn die queue tail : Nat)
  | yewRelease (job tag : Nat)
  | hostBar2Request (fn addr bytes : Nat) (write : Option Nat)
  | functionLevelReset (fn : Nat)
  | drvfeat (v : Word)
  | firmwareUpdate (version : Nat)
  | thermalThrottle (die : Nat)
  | thermalRestore (die : Nat)
  | thermalStop (die : Nat)
  | renameCommit (die : Nat) (word : Word)
  | slotTableCommit (h : Nat) (word : Word)
  | schedulerConfigCommit (die : Nat) (word : Word)
  | yewConfigCommit (die : Nat) (word : Word)
  | ringGrowthCommit (ring : RingName) (word : Word)
  | blockDirectoryCommit (die copy version : Nat)
  | yewRollback (job tag : Nat)
  | vgroup (c : Nat) (v : Word)
  | dbgctl (c : Nat) (v : Word)
  | shasid (c : Nat) (v : Word)
  | mecheck (h : Nat) (v : Word)
  | managementWindowWrite (w : MgmtWrite)
  | queueUnmap (die queue : Nat)
  | queueRepair (die queue : Nat)
  | watchdogFires (die : Nat)
  | launch (cmd : HostCmd)
  | hostSnapshot (cmd : HostCmd)
  | hostRollback (cmd : HostCmd)
  | hostRelease (cmd : HostCmd)
  | attest (cmd : HostCmd)
  | heartbeat (c : Nat)
  | migrateIn (cmd : HostCmd) (cls : Nat)
deriving DecidableEq, Repr

end Sys2Proof
end

