-- ==== Sys2Proof/WellFormed.lean ====
section
/-! DEFINITION. Which instructions the encoding rules allow beyond their bit layout: operand codes that a field may not
hold, type ranges, groups (03 R56, R65, R69, R74; 07 R158, R168; 09 R203, R210, R215, R218; 10 R228, R237; 11 R266, R275).
An instruction that is not well-formed raises the illegal-encoding fault. -/

namespace Sys2Proof

/-- A code that a source field may hold: a pop only of MSQ, EVQ, INQ or q7 (03 R65). -/
def Operand.isSource : Operand → Bool
  | .q n => n.val == 1 || n.val == 4 || n.val == 5 || n.val == 7
  | _ => true

/-- A code that a destination field may hold: lc and la may not, and a push only to MEQ, CHQ or TKQ; CPQ is pushed by
CPY alone (03 R56, R65; DEDUCED, log 13). -/
def Operand.isDest : Operand → Bool
  | .lc => false
  | .la => false
  | .q n => n.val == 0 || n.val == 3 || n.val == 6
  | _ => true

/-- A queue register. -/
def Operand.isQueue : Operand → Bool
  | .q _ => true
  | _ => false

/-- A source field that may not name a queue register. -/
def Operand.plainSource (a : Operand) : Bool := !a.isQueue

/-- The destination of a load, or the x of an atomic when zero is out: g0-g127 or h0-h3 (09 R210, R215). -/
def Operand.isGH : Operand → Bool
  | .g _ => true
  | .h _ => true
  | _ => false

/-- A main register, h0-h3 or zero (09 R210, 10 R237). -/
def Operand.isGHZ : Operand → Bool
  | .zero => true
  | a => a.isGH

/-- g, h, k or zero: the d of CPY (09 R218) and the s of PERM (11 R275). -/
def Operand.isGHKZ : Operand → Bool
  | .k _ => true
  | a => a.isGHZ

/-- The code number of a type (07 R159). -/
def Ty.code : Ty → Nat
  | .s8 => 0 | .s16 => 1 | .s32 => 2 | .s64 => 3 | .n8 => 4 | .n16 => 5 | .n32 => 6 | .n64 => 7
  | .f32 => 8 | .bf16 => 9 | .f16 => 10 | .e4m3 => 11 | .e5m2 => 12 | .e3m2 => 13 | .e2m1 => 14

/-- Register width e of a type in bits (10 R228). -/
def Ty.bits : Ty → Nat
  | .s8 => 8 | .n8 => 8 | .e4m3 => 8 | .e5m2 => 8 | .e3m2 => 8 | .e2m1 => 8
  | .s16 => 16 | .n16 => 16 | .bf16 => 16 | .f16 => 16
  | .s32 => 32 | .n32 => 32 | .f32 => 32
  | .s64 => 64 | .n64 => 64

/-- Types 0 to 10, 0 to 7, and 8 to 10 (07 R168). -/
def Ty.arith (t : Ty) : Bool := t.code ≤ 10
def Ty.integer (t : Ty) : Bool := t.code ≤ 7
def Ty.wideFloat (t : Ty) : Bool := 8 ≤ t.code && t.code ≤ 10

/-- The status register numbers of 03 R75. -/
def csrListed (n : Nat) : Bool :=
  n ≤ 0x008 || (0x100 ≤ n && n ≤ 0x107) || (0x110 ≤ n && n ≤ 0x112) || n == 0x200 || n == 0x300
    || (0xF00 ≤ n && n ≤ 0xF04)

/-- The group sizes of a conversion: registers of the destination and of the source (10 R235). -/
def cvtGroup (dt st : Ty) : Nat × Nat :=
  if st.bits < dt.bits then (dt.bits / st.bits, 1)
  else if dt.bits < st.bits then (1, st.bits / dt.bits) else (1, 1)

/-- Scalar A-class form: destination and two sources (09 R203). -/
def wf3 (d a b : Operand) : Bool := d.isDest && a.isSource && b.isSource
/-- Scalar A-class form: destination and one source. -/
def wf2 (d a : Operand) : Bool := d.isDest && a.isSource
/-- A load (09 R210). -/
def wfLoad (x i : Operand) : Bool := x.isGHZ && i.plainSource
/-- A store (09 R210). -/
def wfStore (x i : Operand) : Bool := x.plainSource && i.plainSource
/-- An atomic (09 R215). -/
def wfAtomic (x i : Operand) : Bool := x.isGH && i.plainSource

/-- The encoding rules on one instruction. Events are not words and are always admitted. -/
def wellFormed : Instr → Bool
  | .jmpr a | .callr a | .forkr a | .join a | .trap a | .snap a | .waitx a _ => a.isSource
  | .rdw d _ | .rdwc d _ => d.isDest
  | .beqz a _ | .bnez a _ | .bltz a _ | .bgez a _ | .bgtz a _ | .blez a _ => a.isSource
  | .send a b | .sendu a b => a.isSource && b.isSource
  | .csrrd x c => x.isDest && csrListed c.toNat
  | .csrwr x c => x.isSource && csrListed c.toNat
  | .ldN x _ _ i | .ldS x _ _ i | .ldeN x _ _ i | .ldeS x _ _ i | .ldxN x _ _ i | .ldxS x _ _ i => wfLoad x i
  | .st x _ _ i | .ste x _ _ i | .stx x _ _ i => wfStore x i
  | .aswap x _ i | .aadd x _ i | .aand x _ i | .aor x _ i | .axor x _ i | .aminS64 x _ i | .amaxS64 x _ i
  | .aminN64 x _ i | .amaxN64 x _ i | .acas x _ i | .aamaxF32 x _ i | .amaxswapF32 x _ i => wfAtomic x i
  | .bfld a _ => a.plainSource
  | .cpy d a | .cpyNb d a => d.isGHKZ && a.val + 3 ≤ 127
  | .vld _ _ _ _ i | .vst _ _ _ _ i => i.plainSource
  | .vldpE2m1 _ _ _ i | .vldpE3m2 _ _ _ i | .vstpE2m1 _ _ _ i | .vstpE3m2 _ _ _ i => i.plainSource
  | .qpackE4m3 _ _ i | .qpackE3m2 _ _ i | .qpackE2m1 _ _ i | .qpacki _ _ i => i.plainSource
  | .accld _ _ s | .accst _ _ s => s.plainSource
  | .drain _ s => s.val ≤ 0x7E
  | .add d a b | .sub d a b | .mul d a b | .mulhS64 d a b | .mulhN64 d a b | .and d a b | .or d a b | .xor d a b
  | .shl d a b | .shrN64 d a b | .shrS64 d a b | .sltS64 d a b | .sltN64 d a b | .seq d a b | .bfx d a b => wf3 d a b
  | .bfi d a b => wf3 d a b && !d.isQueue
  | .addi d a _ | .shli d a _ | .shriN64 d a _ | .shriS64 d a _ | .rotri d a _ => wf2 d a
  | .li d _ => d.isDest
  | .lis d _ => d.isDest && !d.isQueue
  | .mov d a | .not d a | .neg d a | .absS64 d a | .popc d a | .clz d a | .ctz d a | .bswap d a | .brev d a
  | .sextS8 d a | .sextS16 d a | .sextS32 d a | .zextN8 d a | .zextN16 d a | .zextN32 d a => wf2 d a
  | .qmaxx d a | .qscaleE4m3 d a | .qscaleE3m2 d a | .qscaleE2m1 d a | .qscalei d a => d.isDest && a.plainSource
  | .vlq d => d.isDest
  | .vlane d _ => d.isDest
  | .vadd t _ _ _ _ | .vsub t _ _ _ _ | .vmul t _ _ _ _ | .vfma t _ _ _ _ | .vmin t _ _ _ _ | .vmax t _ _ _ _ => t.arith
  | .vaddsat t _ _ _ _ | .vsubsat t _ _ _ _ | .vand t _ _ _ _ | .vor t _ _ _ _ | .vxor t _ _ _ _
  | .vandn t _ _ _ _ => t.integer
  | .vceq t _ md _ _ | .vclt t _ md _ _ | .vcle t _ md _ _ | .vcne t _ md _ _ => t.arith && md.val != 0
  | .vcvt dt st _ _ _ vd va => vd.val % (cvtGroup dt st).1 == 0 && va.val % (cvtGroup dt st).2 == 0
  | .vbcast t _ _ s | .vaddx t _ _ s | .vmulx t _ _ s | .vmaxx t _ _ s => t.arith && s.plainSource
  | .vrsum t _ _ d | .vrmax t _ _ d | .vrmin t _ _ d => t.arith && d.isGHZ
  | .vramax t _ _ d => t.wideFloat && d.isGHZ
  | .mand md _ _ | .mor md _ _ | .mxor md _ _ | .mandn md _ _ | .mnot md _ | .mmov md _ => md.val != 0
  | .mfrom md s => md.val != 0 && s.plainSource
  | .mpop _ s | .mtolo _ s | .mtohi _ s => s.isDest
  | .bound md _ a b => md.val != 0 && a.plainSource && b.plainSource
  | .pload _ s | .pcompact _ _ s | .pcyc _ _ s | .pstore _ s | .pidx _ s => s.isGHKZ
  | .prand _ s => s.val ≤ 0x7E
  | _ => true

end Sys2Proof
end

