-- ==== Sys2Proof/Machine/Numbers.lean ====
section
/-! DEFINITION. Number formats and arithmetic (06): exact values, rounding, described blocks and their encoder. -/

namespace Sys2Proof

/-- A value: NaN, an infinity with its sign, or (-1)^neg m 2^e. -/
inductive Num where
  | nan
  | inf (neg : Bool)
  | fin (neg : Bool) (m : Nat) (e : Int)
deriving DecidableEq, Repr

/-- Which codes of a floating format are special (06 R131). -/
inductive Specials where
  | ieee | e4m3 | finite
deriving DecidableEq, Repr

/-- A floating format (06 R131): exponent and mantissa widths, bias, special codes. -/
structure Fmt where
  eb : Nat
  mb : Nat
  bias : Int
  sp : Specials
deriving DecidableEq, Repr

def fp32 : Fmt := { eb := 8, mb := 23, bias := 127, sp := .ieee }
def fp16 : Fmt := { eb := 5, mb := 10, bias := 15, sp := .ieee }
def bfloat : Fmt := { eb := 8, mb := 7, bias := 127, sp := .ieee }
def fpE5m2 : Fmt := { eb := 5, mb := 2, bias := 15, sp := .ieee }
def fpE4m3 : Fmt := { eb := 4, mb := 3, bias := 7, sp := .e4m3 }
def fpE3m2 : Fmt := { eb := 3, mb := 2, bias := 3, sp := .finite }
def fpE2m1 : Fmt := { eb := 2, mb := 1, bias := 1, sp := .finite }

/-- The floating format of a type code, none for an integer. -/
def Ty.fmt : Ty → Option Fmt
  | .f32 => some fp32 | .bf16 => some bfloat | .f16 => some fp16
  | .e4m3 => some fpE4m3 | .e5m2 => some fpE5m2 | .e3m2 => some fpE3m2 | .e2m1 => some fpE2m1
  | _ => none

/-- Signed integer types (07 R159). -/
def Ty.signed : Ty → Bool
  | .s8 => true | .s16 => true | .s32 => true | .s64 => true | _ => false

/-- The value of a code of a format (06 R131). -/
def Fmt.decode (f : Fmt) (c : Nat) : Num :=
  let m := c % 2 ^ f.mb
  let e := fld c f.mb f.eb
  let neg := bit c (f.eb + f.mb)
  if f.sp = .ieee ∧ e = 2 ^ f.eb - 1 then (if m = 0 then .inf neg else .nan)
  else if f.sp = .e4m3 ∧ e = 15 ∧ m = 7 then .nan
  else if e = 0 then .fin neg m (1 - f.bias - f.mb)
  else .fin neg (2 ^ f.mb + m) (e - f.bias - f.mb)

/-- The canonical NaN of a format (06 R139); +0 for a format without one (06 R138). -/
def Fmt.nanCode (f : Fmt) : Nat :=
  match f.sp with
  | .ieee => (2 ^ f.eb - 1) * 2 ^ f.mb + 2 ^ (f.mb - 1)
  | .e4m3 => 0x7F
  | .finite => 0

/-- The code of the largest finite magnitude (06 R138). -/
def Fmt.maxCode (f : Fmt) : Nat :=
  match f.sp with
  | .ieee => (2 ^ f.eb - 1) * 2 ^ f.mb - 1
  | .e4m3 => 0x7E
  | .finite => 2 ^ (f.eb + f.mb) - 1

/-- A sign bit on a magnitude code. -/
def Fmt.signed (f : Fmt) (neg : Bool) (c : Nat) : Nat := if neg then 2 ^ (f.eb + f.mb) + c else c

/-- What an infinite magnitude becomes without and with .sat (06 R138). -/
def Fmt.infCode (f : Fmt) (neg sat : Bool) : Nat :=
  if sat then f.signed neg f.maxCode
  else match f.sp with
    | .ieee => f.signed neg ((2 ^ f.eb - 1) * 2 ^ f.mb)
    | .e4m3 => 0x7F
    | .finite => f.signed neg f.maxCode

/-- A finite overflow, by mode, sign and .sat (06 R138). -/
def Fmt.overflow (f : Fmt) (rm : RMode) (neg sat : Bool) : Nat :=
  if sat then f.signed neg f.maxCode
  else match rm with
    | .rne => f.infCode neg false
    | .rz => f.signed neg f.maxCode
    | .rdn => if neg then f.infCode neg false else f.signed neg f.maxCode
    | .rup => if neg then f.signed neg f.maxCode else f.infCode neg false

/-- m / 2^k rounded to an integer under a mode, the value being negative or not (06 R137). -/
def roundShift (rm : RMode) (neg : Bool) (m k : Nat) : Nat :=
  let q := m / 2 ^ k
  let r := m % 2 ^ k
  let up := match rm with
    | .rne => 2 * r > 2 ^ k || (2 * r == 2 ^ k && q % 2 == 1)
    | .rz => false
    | .rdn => neg && r != 0
    | .rup => !neg && r != 0
  if up then q + 1 else q

/-- m 2^e as an integer at the scale 2^q, rounded. -/
def atScale (rm : RMode) (neg : Bool) (m : Nat) (e q : Int) : Nat :=
  if q ≤ e then m * 2 ^ (e - q).toNat else roundShift rm neg m (q - e).toNat

/-- The code of a finite value in a format: rounded, then limited (06 R137, R138). -/
def Fmt.encodeFin (f : Fmt) (rm : RMode) (sat neg : Bool) (m : Nat) (e : Int) : Nat :=
  if m = 0 then f.signed neg 0 else
  let emin : Int := 1 - f.bias
  let q : Int := max ((Nat.log2 m : Int) + e) emin - f.mb
  let r := atScale rm neg m e q
  let (r, q) := if r = 2 ^ (f.mb + 1) then (2 ^ f.mb, q + 1) else (r, q)
  let code : Int := if r < 2 ^ f.mb then r else (q + f.mb + f.bias) * 2 ^ f.mb + (r - 2 ^ f.mb : Nat)
  if code.toNat > f.maxCode then f.overflow rm neg sat else f.signed neg code.toNat

/-- The code of a value in a format (06 R138). -/
def Fmt.encode (f : Fmt) (rm : RMode) (sat : Bool) : Num → Nat
  | .nan => f.nanCode
  | .inf neg => f.infCode neg sat
  | .fin neg m e => f.encodeFin rm sat neg m e

/-! ### Exact arithmetic -/

/-- The signed integer m of a finite value at a scale no greater than its own. -/
def scaled (neg : Bool) (m : Nat) (e q : Int) : Int :=
  let v : Int := m * 2 ^ (e - q).toNat
  if neg then -v else v

/-- A sum, exact; a zero sum is -0 only of two -0 (06 R147, IEEE 754 at nearest even). -/
def Num.add : Num → Num → Num
  | .nan, _ => .nan
  | _, .nan => .nan
  | .inf a, .inf b => if a == b then .inf a else .nan
  | .inf a, _ => .inf a
  | _, .inf b => .inf b
  | .fin a m e, .fin b n f =>
    if m = 0 ∧ n = 0 then .fin (a && b) 0 0
    else
      let q := min e f
      let v := scaled a m e q + scaled b n f q
      .fin (v < 0) v.natAbs q

/-- A product, exact. -/
def Num.mul : Num → Num → Num
  | .nan, _ => .nan
  | _, .nan => .nan
  | .inf a, .inf b => .inf (a != b)
  | .inf a, .fin b n _ => if n = 0 then .nan else .inf (a != b)
  | .fin a m _, .inf b => if m = 0 then .nan else .inf (a != b)
  | .fin a m e, .fin b n f => .fin (a != b) (m * n) (e + f)

/-- The negative of a value. -/
def Num.neg : Num → Num
  | .nan => .nan
  | .inf a => .inf (!a)
  | .fin a m e => .fin (!a) m e

/-- A value times 2^k. -/
def Num.scale (x : Num) (k : Int) : Num :=
  match x with
  | .fin a m e => .fin a m (e + k)
  | x => x

def Num.isNan : Num → Bool
  | .nan => true | _ => false

/-- x < y; false of a NaN; zeros are equal (10 R233). -/
def Num.lt : Num → Num → Bool
  | .nan, _ => false
  | _, .nan => false
  | .inf a, .inf b => a && !b
  | .inf a, _ => a
  | _, .inf b => !b
  | .fin a m e, .fin b n f => scaled a m e (min e f) < scaled b n f (min e f)

/-- x = y as values; zeros are equal (10 R233). -/
def Num.same : Num → Num → Bool
  | .nan, _ => false
  | _, .nan => false
  | .inf a, .inf b => a == b
  | .inf _, _ => false
  | _, .inf _ => false
  | .fin a m e, .fin b n f => scaled a m e (min e f) == scaled b n f (min e f)

/-- x before y in the order of 06 R139, -0 below +0; neither is a NaN. -/
def Num.below (x y : Num) : Bool :=
  if x.same y then
    match x, y with
    | .fin a _ _, .fin b _ _ => a && !b
    | _, _ => false
  else x.lt y

/-- Minimum and maximum (06 R139). -/
def Num.min (x y : Num) : Num := if x.isNan || y.isNan then .nan else if y.below x then y else x
def Num.max (x y : Num) : Num := if x.isNan || y.isNan then .nan else if x.below y then y else x

/-- |x|, a NaN staying one. -/
def Num.abs : Num → Num
  | .nan => .nan
  | .inf _ => .inf false
  | .fin _ m e => .fin false m e

/-- amax of two values: the larger magnitude (06 R139, 09 R217). -/
def Num.amax (x y : Num) : Num := x.abs.max y.abs

/-- amax32 on codes (09 R217). -/
def amax32 (p q : Nat) : Nat := fp32.encode .rne false ((fp32.decode p).amax (fp32.decode q))

/-! ### Integers -/

/-- The integer that a code of an integer type stands for. -/
def Ty.toInt (t : Ty) (c : Nat) : Int :=
  let c := c % 2 ^ t.bits
  if t.signed && 2 * c ≥ 2 ^ t.bits then (c : Int) - 2 ^ t.bits else c

/-- The code of an integer, wrapped (06 R140). -/
def Ty.wrap (t : Ty) (v : Int) : Nat := (v % (2 ^ t.bits : Int)).toNat

/-- The range of an integer type. -/
def Ty.minInt (t : Ty) : Int := if t.signed then -(2 ^ (t.bits - 1) : Int) else 0
def Ty.maxInt (t : Ty) : Int := if t.signed then 2 ^ (t.bits - 1) - 1 else 2 ^ t.bits - 1

/-- An integer clamped into a range. -/
def clampInt (lo hi v : Int) : Int := if v < lo then lo else if hi < v then hi else v

/-- The integer nearest to a value under a mode, clamped to a range; a NaN gives 0 (06 R138). -/
def Num.toIntIn (rm : RMode) (lo hi : Int) : Num → Int
  | .nan => 0
  | .inf neg => if neg then lo else hi
  | .fin neg m e =>
    let v : Int := atScale rm neg m e 0
    clampInt lo hi (if neg then -v else v)

/-- The exact value of an element of a type (10 R236): the 6- and 4-bit types from the low bits of their byte. -/
def Ty.toNum (t : Ty) (c : Nat) : Num :=
  match Ty.fmt t with
  | some f => f.decode (c % 2 ^ (1 + f.eb + f.mb))
  | none => let v := t.toInt c; .fin (v < 0) v.natAbs 0

/-- The code of a value in a type (06 R138). -/
def Ty.ofNum (t : Ty) (rm : RMode) (sat : Bool) (x : Num) : Nat :=
  match Ty.fmt t with
  | some f => f.encode rm sat x
  | none => t.wrap (x.toIntIn rm t.minInt t.maxInt)

/-- A code as a floating operation hands it on: a NaN becomes the canonical one (06 R139). -/
def Ty.canon (t : Ty) (c : Nat) : Nat :=
  match Ty.fmt t with
  | some f => if (f.decode (c % 2 ^ (1 + f.eb + f.mb))).isNan then f.nanCode else c
  | none => c

/-! ### SIGMOID (10 R249): 1 / (1 + e^-x) rounded once -/

/-- The terms t^i / i! of the exponential at 2^-p, summed from term `i` on. -/
def expTerms (p : Nat) (t : Nat) : Nat → Nat → Nat → Nat
  | 0, _, _ => 0
  | fuel + 1, i, term => term + expTerms p t fuel (i + 1) (term * t / 2 ^ p / (i + 1))

/-- A number at 2^-p squared k times. -/
def squares (p : Nat) : Nat → Nat → Nat
  | 0, v => v
  | k + 1, v => squares p k (v * v / 2 ^ p)

/-- e^y at 2^-400 for y = m 2^e with 0 ≤ y < 128: the series at y / 2^16, squared 16 times. -/
def expFixed (m : Nat) (e : Int) : Nat :=
  let y := if 0 ≤ e + 384 then m * 2 ^ (e + 384).toNat else m / 2 ^ (-(e + 384)).toNat
  squares 400 16 (expTerms 400 y 60 0 (2 ^ 400))

/-- 1 / (1 + e^-x), with 400 more bits than FP32 keeps (DEDUCED, log 15). -/
def Num.sigmoid : Num → Num
  | .nan => .nan
  | .inf neg => if neg then .fin false 0 0 else .fin false 1 0
  | .fin neg m e =>
    if m = 0 then .fin false 1 (-1)
    else if (Num.fin false m e).lt (.fin false 127 0) then
      let ey := expFixed m e
      let num := if neg then 2 ^ 400 else ey
      .fin false (2 * (num * 2 ^ 400 / (2 ^ 400 + ey)) + 1) (-401)
    else if neg then .fin false 0 0 else .fin false 1 0

/-! ### Described blocks (06 R141 to R146) -/

/-- F of a block format (06 R144). -/
def BlockFmt.limit : BlockFmt → Nat
  | .xe4m3 => 448 | .e3m2 => 28 | .e2m1 => 6 | .int4 => 7

def BlockFmt.code : BlockFmt → Nat
  | .xe4m3 => 1 | .e3m2 => 2 | .e2m1 => 3 | .int4 => 4

def blockFmtOf : Nat → BlockFmt
  | 0 => .xe4m3 | 1 => .e3m2 | 2 => .e2m1 | _ => .int4

/-- The scale code of 06 R144 for a finite amax: the smallest c ≥ 0 with a ≤ F 2^(c - 127). -/
def scaleCode (f : BlockFmt) (a : Num) : Nat :=
  (List.find? (fun (c : Nat) => !(Num.fin false f.limit ((c : Int) - 127)).lt a) (List.range 255)).getD 254

/-- q_i of 06 R145 line 12: x / 2^(c - 127) rounded to the format and limited (06 R138, 10 R247). -/
def quantise (f : BlockFmt) (c : Nat) (x : Num) : Nat :=
  let y := x.scale (127 - c)
  match f with
  | .xe4m3 => fpE4m3.encode .rne true y
  | .e3m2 => fpE3m2.encode .rne true y
  | .e2m1 => fpE2m1.encode .rne true y
  | .int4 => ((y.toIntIn .rne (-8) 7) % 16).toNat

/-- The length of an XE4M3 exponent code (06 R143, R146) of an E4M3 code. -/
def xLen (q : Nat) : Nat :=
  if q % 128 = 0 then 3
  else
    let d := 15 - q / 8 % 16
    if d = 0 then 1 else if d = 1 then 2 else if d < 4 then 5 else if d < 8 then 7 else 9

/-- The position of the non-zero element of least magnitude, the highest among equals (06 R146). -/
def fitVictim (q : List Nat) : Nat :=
  ((List.range q.length).foldl (fun (best : Nat × Nat) i =>
    let a := q.getD i 0 % 128
    if a != 0 && a ≤ best.2 then (i, a) else best) (0, 128)).1

/-- The fit rule (06 R146), at most one zeroing per element. -/
def fitLoop : Nat → List Nat → List Nat
  | 0, q => q
  | fuel + 1, q => if (q.map xLen).sum > 240 then fitLoop fuel (q.set (fitVictim q) 0) else q

/-- The bits of an element's exponent code, in stream order (06 R143). -/
def xBits (q : Nat) : List Bool :=
  if q % 128 = 0 then [true, true, false]
  else
    let d := 15 - q / 8 % 16
    if d = 0 then [false]
    else if d = 1 then [true, false]
    else if d < 4 then [true, true, true, false, bit (d - 2) 0]
    else if d < 8 then [true, true, true, true, false, bit (d - 4) 1, bit (d - 4) 0]
    else [true, true, true, true, true, bit (d - 8) 3, bit (d - 8) 2, bit (d - 8) 1, bit (d - 8) 0]

/-- A number from its bits, lowest first. -/
def ofBits (l : List Bool) : Nat := l.foldr (fun b acc => 2 * acc + b.toNat) 0

/-- Elements of n bits packed from bit 0 on (06 R135). -/
def pack (n : Nat) (l : List Nat) : Nat := l.foldr (fun x acc => 2 ^ n * acc + x % 2 ^ n) 0

/-- A block of a format from its quantised elements: 512 bits (06 R141, R143). -/
def writeBlock (f : BlockFmt) (c : Nat) (q : List Nat) : Nat :=
  let payload := match f with
    | .xe4m3 => pack 4 (q.map fun x => x / 128 * 8 + x % 8)
        + ofBits (q.flatMap xBits) * 2 ^ 256
    | .e3m2 => pack 6 q
    | .e2m1 => pack 4 q
    | .int4 => pack 4 q
  f.code + c * 256 + payload * 65536

/-- The poisoned block and the zero block, as the encoder writes them (06 R145). -/
def poisonedBlock : Nat := 0xFFFF
def zeroBlock : Nat := 0

/-- The encoder (06 R145) on FP32 codes, with its own scale or a given one (10 R247). -/
def encodeBlock (f : BlockFmt) (scale : Option Nat) (xs : List Nat) : Nat :=
  let v := xs.map fp32.decode
  if v.any (fun x => match x with | .fin _ _ _ => false | _ => true) then poisonedBlock
  else
    let a : Num := List.foldl Num.amax (Num.fin false 0 0) v
    if a.same (.fin false 0 0) then zeroBlock
    else
      let c := scale.getD (scaleCode f a)
      if c = 255 then poisonedBlock
      else
        let q := v.map (quantise f c)
        writeBlock f c (if f = .xe4m3 then fitLoop 64 q else q)

/-- The exponent codes of an XE4M3 stream, element by element: none for a zero, d otherwise; the whole is none when it
is malformed (06 R142, R143). -/
def xDecode (stream : Nat) : Nat → Nat → Option (List (Option Nat))
  | 0, _ => some []
  | fuel + 1, pos =>
    let b := fun i => bit stream (pos + i)
    let r : Option (Option Nat × Nat) :=
      if !b 0 then some (some 0, 1)
      else if !b 1 then some (some 1, 2)
      else if !b 2 then some (none, 3)
      else if !b 3 then some (some (2 + (b 4).toNat), 5)
      else if !b 4 then some (some (4 + 2 * (b 5).toNat + (b 6).toNat), 7)
      else if b 5 then none
      else some (some (8 + 4 * (b 6).toNat + 2 * (b 7).toNat + (b 8).toNat), 9)
    match r with
    | none => none
    | some (d, n) =>
      if pos + n > 240 then none
      else (xDecode stream fuel (pos + n)).map (d :: ·)

/-- What a consumer finds in a block (06 R142). -/
inductive BlockRead where
  | values (l : List Num)
  | poisoned
  | badFormat
deriving DecidableEq, Repr

/-- The 64 values of a described block of 512 bits (06 R141 to R143). -/
def readBlock (b : Nat) : BlockRead :=
  let code := b % 256
  let c := b / 256 % 256
  let payload := b / 65536
  let sc := fun (x : Num) => x.scale ((c : Int) - 127)
  if code = 0 then .values (List.replicate 64 (.fin false 0 0))
  else if code = 0xFF then .poisoned
  else if 4 < code then .badFormat
  else if c = 255 then .poisoned
  else if code = 1 then
    match xDecode (payload / 2 ^ 256) 64 0 with
    | none => .badFormat
    | some ds => .values ((List.range 64).map fun i =>
        let nib := fld payload (4 * i) 4
        match ds.getD i none with
        | none => sc (.fin (bit nib 3) 0 0)
        | some d => sc (fpE4m3.decode (nib / 8 * 128 + (15 - d) * 8 + nib % 8)))
  else .values ((List.range 64).map fun i =>
    if code = 2 then sc (fpE3m2.decode (fld payload (6 * i) 6))
    else if code = 3 then sc (fpE2m1.decode (fld payload (4 * i) 4))
    else
      let v := fld payload (4 * i) 4
      sc (if v ≥ 8 then .fin true (16 - v) 0 else .fin false v 0))

/-- QSCALE (10 R246). -/
def qscale (f : BlockFmt) (x : Nat) : Nat :=
  match (fp32.decode (x % 2 ^ 32)).abs with
  | .fin _ 0 _ => 0x300
  | .fin s m e => 0x100 + scaleCode f (.fin s m e)
  | _ => 0x5FF

/-! ### Trees and groups -/

/-- One level of the reduction tree (06 R148). -/
def treeLevel {α : Type} (op : α → α → α) : List (Option α) → List (Option α)
  | a :: b :: t =>
    (match a, b with
      | some x, some y => some (op x y)
      | some x, none => some x
      | none, y => y) :: treeLevel op t
  | l => l

/-- The reduction of 06 R148, level by level. -/
def reduceTree {α : Type} (op : α → α → α) : Nat → List (Option α) → Option α
  | 0, l => (l.head?).join
  | fuel + 1, l => reduceTree op fuel (treeLevel op l)

/-- The exact sum of the 8 products of a group in the order of 06 R147. -/
def groupSum : List Num → Num
  | [p0, p1, p2, p3, p4, p5, p6, p7] =>
    ((p0.add p1).add (p2.add p3)).add ((p4.add p5).add (p6.add p7))
  | l => l.foldl Num.add (.fin false 0 0)

/-- C := round_fp32(C + S) over the groups of 8 of one k-step (06 R147). -/
def accumulate : Nat → Nat → List Num → Nat
  | 0, c, _ => c
  | fuel + 1, c, ps =>
    accumulate fuel (fp32.encode .rne false ((fp32.decode c).add (groupSum (ps.take 8)))) (ps.drop 8)

/-! ### Element-wise operations (10 R232) -/

/-- Operations of VA0, VA1, VA2. -/
inductive VOp where
  | add | sub | mul | fma | min | max | addsat | subsat | and | or | xor | andn
deriving DecidableEq, Repr

/-- One element of a vector operation: a, b, the old vd, as codes of the type (10 R232). -/
def VOp.eval (op : VOp) (t : Ty) (a b d : Nat) : Nat :=
  match Ty.fmt t with
  | some f =>
    let r := f.encode .rne false
    let x := f.decode a
    let y := f.decode b
    match op with
    | .add => r (x.add y)
    | .sub => r (x.add y.neg)
    | .mul => r (x.mul y)
    | .fma => r ((x.mul y).add (f.decode d))
    | .min => r (x.min y)
    | .max => r (x.max y)
    | _ => 0
  | none =>
    let x := t.toInt a
    let y := t.toInt b
    match op with
    | .add => t.wrap (x + y)
    | .sub => t.wrap (x - y)
    | .mul => t.wrap (x * y)
    | .fma => t.wrap (x * y + t.toInt d)
    | .min => t.wrap (if x ≤ y then x else y)
    | .max => t.wrap (if x ≤ y then y else x)
    | .addsat => t.wrap (clampInt t.minInt t.maxInt (x + y))
    | .subsat => t.wrap (clampInt t.minInt t.maxInt (x - y))
    | .and => a &&& b
    | .or => a ||| b
    | .xor => a ^^^ b
    | .andn => a &&& (a ^^^ b)

/-- Comparisons of VCMP (10 R233). -/
inductive CmpOp where
  | eq | lt | le | ne
deriving DecidableEq, Repr

def CmpOp.eval (op : CmpOp) (t : Ty) (a b : Nat) : Bool :=
  match Ty.fmt t with
  | some f =>
    let x := f.decode a
    let y := f.decode b
    match op with
    | .eq => x.same y
    | .lt => x.lt y
    | .le => x.lt y || x.same y
    | .ne => !x.same y
  | none =>
    let x := t.toInt a
    let y := t.toInt b
    match op with
    | .eq => x == y
    | .lt => x < y
    | .le => x ≤ y
    | .ne => x != y

/-- Reductions of VRED (10 R237). -/
inductive RedOp where
  | sum | max | min | amax
deriving DecidableEq, Repr

/-- One combination of a reduction. -/
def RedOp.eval (op : RedOp) (t : Ty) (a b : Nat) : Nat :=
  match op with
  | .sum => VOp.eval .add t a b 0
  | .max => VOp.eval .max t a b 0
  | .min => VOp.eval .min t a b 0
  | .amax =>
    match Ty.fmt t with
    | some f => f.encode .rne false ((f.decode a).amax (f.decode b))
    | none => 0

/-- The identity of a reduction with no active element and no initial value (06 R148). -/
def RedOp.identity (op : RedOp) (t : Ty) : Nat :=
  match op with
  | .sum => 0
  | .amax => 0
  | .max => match Ty.fmt t with
    | some f => f.infCode true false
    | none => t.wrap t.minInt
  | .min => match Ty.fmt t with
    | some f => f.infCode false false
    | none => t.wrap t.maxInt

end Sys2Proof
end

