-- ==== Sys2Proof/Machine/Alu.lean ====
section
/-! DEFINITION. What the scalar A-class instructions compute from their source values (09 R204 to R208; 10 R229, R246). -/

namespace Sys2Proof.Machine

/-- 1 or 0. -/
def ofBool (b : Bool) : Word := if b then 1 else 0

/-- The high double of a product of signed or unsigned operands (09 R204). -/
def mulHigh (signed : Bool) (x y : Word) : Word :=
  if signed then BitVec.ofInt 64 (x.toInt * y.toInt / 2 ^ 64) else BitVec.ofNat 64 (x.toNat * y.toNat / 2 ^ 64)

/-- The number of 1 bits. -/
def popcount (n x : Nat) : Nat := ((List.range n).filter fun i => bit x i).length

/-- Leading and trailing zeros of a double; 64 of zero (09 R208). -/
def countLead (x : Word) : Nat := if x = 0 then 64 else 63 - Nat.log2 x.toNat
def countTrail (x : Word) : Nat := ((List.range 64).find? fun i => bit x.toNat i).getD 64

/-- A number's n chunks of w bits in reverse order. -/
def reverseChunks (w n x : Nat) : Nat :=
  (List.range n).foldl (fun acc i => acc + fld x (w * i) w * 2 ^ (w * (n - 1 - i))) 0

/-- The low n bits of a double, sign- or zero-extended (00 R3). -/
def sext (n : Nat) (x : Word) : Word := ((x.truncate n : BitVec n).signExtend 64)
def zext (n : Nat) (x : Word) : Word := ((x.truncate n : BitVec n).zeroExtend 64)

/-- The width of a field, cut at bit 63 (09 R207): the descriptor's [11:6] + 1, and its lowest bit [5:0]. -/
def fieldLow (b : Word) : Nat := fld b.toNat 0 6
def fieldWidth (b : Word) : Nat := min (fld b.toNat 6 6 + 1) (64 - fieldLow b)

/-- BFX (09 R207). -/
def bfxWord (a b : Word) : Word :=
  let f := fld a.toNat (fieldLow b) (fieldWidth b)
  if bit b.toNat 12 && bit f (fieldWidth b - 1) then BitVec.ofInt 64 ((f : Int) - 2 ^ fieldWidth b)
  else BitVec.ofNat 64 f

/-- BFI (09 R207). -/
def bfiWord (d a b : Word) : Word :=
  let m := (2 ^ fieldWidth b - 1) * 2 ^ fieldLow b
  BitVec.ofNat 64 (blendNat d.toNat (a.toNat * 2 ^ fieldLow b) m)
where
  /-- A number with the bits of a mask replaced. -/
  blendNat (old new mask : Nat) : Nat := (old &&& (old ^^^ mask)) ||| (new &&& mask)

/-- Rotation right by n (09 R205). -/
def rotr (x : Word) (n : Nat) : Word := x.rotateRight n

/-- The result of a scalar A-class instruction on its source values, in operand order (LIS and BFI read d last). -/
def scalarEval : Instr → List Word → Option Word
  | .add _ _ _, [x, y] => some (x + y)
  | .sub _ _ _, [x, y] => some (x - y)
  | .mul _ _ _, [x, y] => some (x * y)
  | .mulhS64 _ _ _, [x, y] => some (mulHigh true x y)
  | .mulhN64 _ _ _, [x, y] => some (mulHigh false x y)
  | .and _ _ _, [x, y] => some (x &&& y)
  | .or _ _ _, [x, y] => some (x ||| y)
  | .xor _ _ _, [x, y] => some (x ^^^ y)
  | .shl _ _ _, [x, y] => some (x <<< fld y.toNat 0 6)
  | .shrN64 _ _ _, [x, y] => some (x >>> fld y.toNat 0 6)
  | .shrS64 _ _ _, [x, y] => some (x.sshiftRight (fld y.toNat 0 6))
  | .sltS64 _ _ _, [x, y] => some (ofBool (x.slt y))
  | .sltN64 _ _ _, [x, y] => some (ofBool (x.ult y))
  | .seq _ _ _, [x, y] => some (ofBool (x == y))
  | .addi _ _ imm, [x] => some (x + imm.signExtend 64)
  | .shli _ _ n, [x] => some (x <<< n.val)
  | .shriN64 _ _ n, [x] => some (x >>> n.val)
  | .shriS64 _ _ n, [x] => some (x.sshiftRight n.val)
  | .rotri _ _ n, [x] => some (rotr x n.val)
  | .li _ imm, [] => some (imm.signExtend 64)
  | .lis _ imm, [d] => some (d <<< 16 ||| imm.zeroExtend 64)
  | .bfx _ _ _, [x, y] => some (bfxWord x y)
  | .bfi _ _ _, [x, y, d] => some (bfiWord d x y)
  | .mov _ _, [x] => some x
  | .not _ _, [x] => some (~~~x)
  | .neg _ _, [x] => some (0 - x)
  | .absS64 _ _, [x] => some (if x.slt 0 then 0 - x else x)
  | .popc _ _, [x] => some (BitVec.ofNat 64 (popcount 64 x.toNat))
  | .clz _ _, [x] => some (BitVec.ofNat 64 (countLead x))
  | .ctz _ _, [x] => some (BitVec.ofNat 64 (countTrail x))
  | .bswap _ _, [x] => some (BitVec.ofNat 64 (reverseChunks 8 8 x.toNat))
  | .brev _ _, [x] => some (BitVec.ofNat 64 (reverseChunks 1 64 x.toNat))
  | .sextS8 _ _, [x] => some (sext 8 x)
  | .sextS16 _ _, [x] => some (sext 16 x)
  | .sextS32 _ _, [x] => some (sext 32 x)
  | .zextN8 _ _, [x] => some (zext 8 x)
  | .zextN16 _ _, [x] => some (zext 16 x)
  | .zextN32 _ _, [x] => some (zext 32 x)
  | .qscaleE4m3 _ _, [x] => some (BitVec.ofNat 64 (qscale .xe4m3 x.toNat))
  | .qscaleE3m2 _ _, [x] => some (BitVec.ofNat 64 (qscale .e3m2 x.toNat))
  | .qscaleE2m1 _ _, [x] => some (BitVec.ofNat 64 (qscale .e2m1 x.toNat))
  | .qscalei _ _, [x] => some (BitVec.ofNat 64 (qscale .int4 x.toNat))
  | .vlq _, [] => some 1024
  | .vlane _ ty, [] => some (BitVec.ofNat 64 (1024 / ty.bits))
  | _, _ => none

end Sys2Proof.Machine
end

