-- ==== Sys2Proof/Decode.lean ====
section
/-! DEFINITION. The decoder, total on any bytes, and the encoder (07 R150 to R170, with the encoding tables of 08 to 11). -/

namespace Sys2Proof

/-- Why a word is not an instruction; each raises the illegal-encoding fault (07 R151, R157 to R170). -/
inductive DecodeError where
  | unassignedMajor
  | unassignedFunction
  | reservedField
  | illegalOperand
  | reservedType
  | tooShort
deriving DecidableEq, Repr

/-- The operand that an 8-bit code names (03 R56). -/
def decOperand (c : Nat) : Option Operand :=
  if c < 0x80 then some (.g (Fin.ofNat 128 c))
  else if c < 0x84 then some (.h (Fin.ofNat 4 (c - 0x80)))
  else if c == 0x84 then some .lc
  else if c == 0x85 then some .la
  else if 0x90 ≤ c && c < 0xA0 then some (.k (Fin.ofNat 16 (c - 0x90)))
  else if 0xA0 ≤ c && c < 0xA8 then some (.q (Fin.ofNat 8 (c - 0xA0)))
  else if c == 0xFF then some .zero
  else none

/-- The 8-bit code of an operand (03 R56). -/
def Operand.code : Operand → Nat
  | .g n => n.val
  | .h n => 0x80 + n.val
  | .lc => 0x84
  | .la => 0x85
  | .k n => 0x90 + n.val
  | .q n => 0xA0 + n.val
  | .zero => 0xFF

/-- The type of a 4-bit code (07 R159). -/
def decTy : Nat → Option Ty
  | 0 => some .s8 | 1 => some .s16 | 2 => some .s32 | 3 => some .s64
  | 4 => some .n8 | 5 => some .n16 | 6 => some .n32 | 7 => some .n64
  | 8 => some .f32 | 9 => some .bf16 | 10 => some .f16
  | 11 => some .e4m3 | 12 => some .e5m2 | 13 => some .e3m2 | 14 => some .e2m1
  | _ => none

/-- The rounding mode of a 2-bit code (06 R137). -/
def decRm : Nat → RMode
  | 0 => .rne | 1 => .rz | 2 => .rdn | _ => .rup

def RMode.code : RMode → Nat
  | .rne => 0 | .rz => 1 | .rdn => 2 | .rup => 3

def decCyc : Nat → Option CycKind
  | 0 => some .cycles | 1 => some .fixed | 2 => some .longest | 3 => some .order | 4 => some .through
  | _ => none

def CycKind.code : CycKind → Nat
  | .cycles => 0 | .fixed => 1 | .longest => 2 | .order => 3 | .through => 4

abbrev Dec := Except DecodeError

/-- The operand at bits [lo + 7 : lo]. -/
def opAt (w lo : Nat) : Dec Operand :=
  match decOperand (fld w lo 8) with
  | some a => .ok a
  | none => .error .illegalOperand

/-- The "g only" operand at bits [lo + 7 : lo] (07 R158). -/
def gAt (w lo : Nat) : Dec (Fin 128) :=
  if fld w lo 8 < 0x80 then .ok (Fin.ofNat 128 (fld w lo 8)) else .error .illegalOperand

/-- The type code at bits [lo + 3 : lo]. -/
def tyAt (w lo : Nat) : Dec Ty :=
  match decTy (fld w lo 4) with
  | some t => .ok t
  | none => .error .reservedType

/-- A field that must be zero (07 R157, R163). -/
def zeroAt (w lo n : Nat) : Dec Unit :=
  if fld w lo n = 0 then .ok () else .error .reservedField

abbrev finAt (n : Nat) [NeZero n] (w lo bits : Nat) : Fin n := Fin.ofNat n (fld w lo bits)

/-- CTL, format TF (07 R163). -/
def decCtl (w : Nat) : Dec Instr := do
  match fld w 0 8 with
  | 0x00 => zeroAt w 8 16; .ok .nop
  | 0x01 => zeroAt w 8 16; .ok .ksync
  | 0x02 => zeroAt w 8 16; .ok .idle
  | 0x03 => zeroAt w 8 16; .ok .endThread
  | 0x04 => zeroAt w 8 16; .ok .ret
  | 0x05 => zeroAt w 16 8; .ok (.jmpr (← opAt w 8))
  | 0x06 => zeroAt w 16 8; .ok (.callr (← opAt w 8))
  | 0x07 => zeroAt w 16 8; .ok (.forkr (← opAt w 8))
  | 0x08 => zeroAt w 16 8; .ok (.join (← opAt w 8))
  | 0x09 => .ok (.rdw (← opAt w 16) (← gAt w 8))
  | 0x0A => .ok (.rdwc (← opAt w 16) (← gAt w 8))
  | 0x0B => zeroAt w 16 8; .ok (.trap (← opAt w 8))
  | 0x0C => zeroAt w 8 16; .ok .fenceb
  | 0x0D => zeroAt w 16 8; .ok (.snap (← opAt w 8))
  | 0x0E => zeroAt w 8 16; .ok .yield
  | 0x10 => zeroAt w 16 8; .ok (.waitx (← opAt w 8) 0)
  | 0x11 => zeroAt w 16 8; .ok (.waitx (← opAt w 8) 1)
  | 0x12 => zeroAt w 16 8; .ok (.waitx (← opAt w 8) 2)
  | 0x13 => zeroAt w 16 8; .ok (.waitx (← opAt w 8) 3)
  | _ => .error .unassignedFunction

/-- BR, format B (08 R173). -/
def decBr (w : Nat) : Dec Instr := do
  zeroAt w 9 3
  match fld w 12 4 with
  | 0 => zeroAt w 16 8; .ok (.br (finAt 512 w 0 9))
  | 1 => .ok (.beqz (← opAt w 16) (finAt 512 w 0 9))
  | 2 => .ok (.bnez (← opAt w 16) (finAt 512 w 0 9))
  | 3 => .ok (.bltz (← opAt w 16) (finAt 512 w 0 9))
  | 4 => .ok (.bgez (← opAt w 16) (finAt 512 w 0 9))
  | 5 => .ok (.bgtz (← opAt w 16) (finAt 512 w 0 9))
  | 6 => .ok (.blez (← opAt w 16) (finAt 512 w 0 9))
  | 7 => .ok (.bfull (← gAt w 16) (finAt 512 w 0 9))
  | 8 => .ok (.bempty (← gAt w 16) (finAt 512 w 0 9))
  | _ => .error .unassignedFunction

/-- SEND, format S2 (08 R181). -/
def decSend (w : Nat) : Dec Instr := do
  match fld w 0 8 with
  | 0x00 => .ok (.send (← opAt w 16) (← opAt w 8))
  | 0x01 => .ok (.sendu (← opAt w 16) (← opAt w 8))
  | _ => .error .unassignedFunction

/-- CSR, format CS (08 R188). -/
def decCsr (w : Nat) : Dec Instr := do
  match fld w 12 4 with
  | 0 => .ok (.csrrd (← opAt w 16) (BitVec.ofNat 12 (fld w 0 12)))
  | 1 => .ok (.csrwr (← opAt w 16) (BitVec.ofNat 12 (fld w 0 12)))
  | _ => .error .unassignedFunction

/-- A scalar load or store, format M (09 R209). -/
def decM (mk : Operand → Fin 64 → Fin 4 → Operand → Instr) (w : Nat) : Dec Instr := do
  .ok (mk (← opAt w 16) (finAt 64 w 10 6) (finAt 4 w 8 2) (← opAt w 0))

/-- ATOM, format AT (09 R215). -/
def decAtom (w : Nat) : Dec Instr := do
  let x ← opAt w 16
  let i ← opAt w 0
  let bf := finAt 16 w 8 4
  match fld w 12 4 with
  | 0 => .ok (.aswap x bf i)
  | 1 => .ok (.aadd x bf i)
  | 2 => .ok (.aand x bf i)
  | 3 => .ok (.aor x bf i)
  | 4 => .ok (.axor x bf i)
  | 5 => .ok (.aminS64 x bf i)
  | 6 => .ok (.amaxS64 x bf i)
  | 7 => .ok (.aminN64 x bf i)
  | 8 => .ok (.amaxN64 x bf i)
  | 9 => .ok (.acas x bf i)
  | 10 => .ok (.aamaxF32 x bf i)
  | 11 => .ok (.amaxswapF32 x bf i)
  | _ => .error .unassignedFunction

/-- BFL, format BFF (09 R213). -/
def decBfl (w : Nat) : Dec Instr := do
  zeroAt w 0 8
  match fld w 14 2 with
  | 0 => .ok (.bfld (← opAt w 16) (finAt 64 w 8 6))
  | 1 => zeroAt w 16 8; .ok (.bfclr (finAt 64 w 8 6))
  | _ => .error .unassignedFunction

/-- CPY, format CP (09 R218). -/
def decCpy (w : Nat) : Dec Instr := do
  zeroAt w 1 7
  let d ← opAt w 16
  let a ← gAt w 8
  if fld w 0 1 = 0 then .ok (.cpy d a) else .ok (.cpyNb d a)

/-- VLD and VST, format VM (10 R241). -/
def decVmem (mk : Fin 4 → Fin 8 → Fin 32 → Fin 64 → Operand → Instr) (w : Nat) : Dec Instr := do
  .ok (mk (finAt 4 w 22 2) (finAt 8 w 19 3) (finAt 32 w 14 5) (finAt 64 w 8 6) (← opAt w 0))

/-- VLDP, format VM (10 R242). -/
def decVldp (w : Nat) : Dec Instr := do
  let m := finAt 8 w 19 3
  let v := finAt 32 w 14 5
  let bf := finAt 64 w 8 6
  let i ← opAt w 0
  match fld w 22 2 with
  | 0 => .ok (.vldpE2m1 m v bf i)
  | 1 => .ok (.vldpE3m2 m v bf i)
  | 2 => .ok (.vstpE2m1 m v bf i)
  | _ => .ok (.vstpE3m2 m v bf i)

/-- QPACK, format VM with m = 0 and v even (10 R247). -/
def decQpack (w : Nat) : Dec Instr := do
  zeroAt w 19 3
  zeroAt w 14 1
  let v := finAt 16 w 15 4
  let bf := finAt 64 w 8 6
  let i ← opAt w 0
  match fld w 22 2 with
  | 0 => .ok (.qpackE4m3 v bf i)
  | 1 => .ok (.qpackE3m2 v bf i)
  | 2 => .ok (.qpackE2m1 v bf i)
  | _ => .ok (.qpacki v bf i)

/-- MTX, format MX (11 R266). -/
def decMtx (w : Nat) : Dec Instr := do
  zeroAt w 8 5
  match fld w 20 4 with
  | 0 => zeroAt w 13 2; .ok (.accld (finAt 4 w 18 2) (finAt 8 w 15 3) (← opAt w 0))
  | 1 => zeroAt w 13 2; .ok (.accst (finAt 4 w 18 2) (finAt 8 w 15 3) (← opAt w 0))
  | 2 => zeroAt w 13 5; .ok (.drain (finAt 4 w 18 2) (← gAt w 0))
  | _ => .error .unassignedFunction

/-- Format T (09 R202). -/
def decT (mk : Operand → Operand → Operand → Instr) (w : Nat) : Dec Instr := do
  .ok (mk (← opAt w 16) (← opAt w 8) (← opAt w 0))

/-- SHI, format TI (09 R205). -/
def decShi (w : Nat) : Dec Instr := do
  let d ← opAt w 16
  let a ← opAt w 8
  let n := finAt 64 w 0 6
  match fld w 6 2 with
  | 0 => .ok (.shli d a n)
  | 1 => .ok (.shriN64 d a n)
  | 2 => .ok (.shriS64 d a n)
  | _ => .ok (.rotri d a n)

/-- The VLANE codes of UN: d, with the a field zero and the type in fn (10 R229). -/
def decVlane (w : Nat) : Dec Instr := do
  zeroAt w 8 8
  .ok (.vlane (← opAt w 16) (← tyAt w 0))

/-- UN, format TF (07 R167). -/
def decUn (w : Nat) : Dec Instr := do
  match fld w 0 8 with
  | 0x00 => .ok (.mov (← opAt w 16) (← opAt w 8))
  | 0x01 => .ok (.not (← opAt w 16) (← opAt w 8))
  | 0x02 => .ok (.neg (← opAt w 16) (← opAt w 8))
  | 0x03 => .ok (.absS64 (← opAt w 16) (← opAt w 8))
  | 0x04 => .ok (.popc (← opAt w 16) (← opAt w 8))
  | 0x05 => .ok (.clz (← opAt w 16) (← opAt w 8))
  | 0x06 => .ok (.ctz (← opAt w 16) (← opAt w 8))
  | 0x07 => .ok (.bswap (← opAt w 16) (← opAt w 8))
  | 0x08 => .ok (.brev (← opAt w 16) (← opAt w 8))
  | 0x09 => .ok (.sextS8 (← opAt w 16) (← opAt w 8))
  | 0x0A => .ok (.sextS16 (← opAt w 16) (← opAt w 8))
  | 0x0B => .ok (.sextS32 (← opAt w 16) (← opAt w 8))
  | 0x0C => .ok (.zextN8 (← opAt w 16) (← opAt w 8))
  | 0x0D => .ok (.zextN16 (← opAt w 16) (← opAt w 8))
  | 0x0E => .ok (.zextN32 (← opAt w 16) (← opAt w 8))
  | 0x10 => .ok (.qmaxx (← opAt w 16) (← opAt w 8))
  | 0x11 => .ok (.qscaleE4m3 (← opAt w 16) (← opAt w 8))
  | 0x12 => .ok (.qscaleE3m2 (← opAt w 16) (← opAt w 8))
  | 0x13 => .ok (.qscaleE2m1 (← opAt w 16) (← opAt w 8))
  | 0x14 => .ok (.qscalei (← opAt w 16) (← opAt w 8))
  | 0x1F => zeroAt w 8 8; .ok (.vlq (← opAt w 16))
  | n => if n / 16 == 2 then decVlane w else .error .unassignedFunction

/-- An element-wise vector form, format V (10 R232). -/
def decV (mk : Ty → Fin 8 → Fin 32 → Fin 32 → Fin 32 → Instr) (w : Nat) : Dec Instr := do
  .ok (mk (← tyAt w 20) (finAt 8 w 15 3) (finAt 32 w 10 5) (finAt 32 w 5 5) (finAt 32 w 0 5))

/-- VCMP, format V with md (10 R233). -/
def decVcmp (mk : Ty → Fin 8 → Fin 8 → Fin 32 → Fin 32 → Instr) (w : Nat) : Dec Instr := do
  zeroAt w 13 2
  .ok (mk (← tyAt w 20) (finAt 8 w 15 3) (finAt 8 w 10 3) (finAt 32 w 5 5) (finAt 32 w 0 5))

/-- VX, format VX (10 R234). -/
def decVx (mk : Ty → Fin 8 → Fin 32 → Operand → Instr) (w : Nat) : Dec Instr := do
  zeroAt w 8 2
  .ok (mk (← tyAt w 20) (finAt 8 w 15 3) (finAt 32 w 10 5) (← opAt w 0))

/-- VPK, format VP (10 R238). -/
def decVpk (w : Nat) : Dec Instr := do
  let t ← tyAt w 20
  let m := finAt 8 w 15 3
  let vd := finAt 32 w 10 5
  let va := finAt 32 w 5 5
  match fld w 18 2 with
  | 0 => zeroAt w 0 3; .ok (.vcompress t m vd va (finAt 4 w 3 2))
  | 1 => zeroAt w 0 3; .ok (.vexpand t m vd va (finAt 4 w 3 2))
  | 2 => zeroAt w 3 2; .ok (.vrowmv t m vd va (finAt 8 w 0 3))
  | _ => zeroAt w 0 5; .ok (.vsel t m vd va)

/-- MK, format MK (10 R231). -/
def decMk (w : Nat) : Dec Instr := do
  zeroAt w 8 1
  let md := finAt 8 w 15 3
  let ma := finAt 8 w 12 3
  let mb := finAt 8 w 9 3
  match fld w 18 6 with
  | 0 => zeroAt w 0 8; .ok (.mand md ma mb)
  | 1 => zeroAt w 0 8; .ok (.mor md ma mb)
  | 2 => zeroAt w 0 8; .ok (.mxor md ma mb)
  | 3 => zeroAt w 0 8; .ok (.mandn md ma mb)
  | 4 => zeroAt w 0 8; zeroAt w 9 3; .ok (.mnot md ma)
  | 5 => zeroAt w 0 8; zeroAt w 9 3; .ok (.mmov md ma)
  | 6 => zeroAt w 15 3; zeroAt w 9 3; .ok (.mpop ma (← opAt w 0))
  | 7 => zeroAt w 9 6; .ok (.mfrom md (← opAt w 0))
  | 8 => zeroAt w 15 3; zeroAt w 9 3; .ok (.mtolo ma (← opAt w 0))
  | 9 => zeroAt w 15 3; zeroAt w 9 3; .ok (.mtohi ma (← opAt w 0))
  | _ => .error .unassignedFunction

/-- BOUND, format BD (10 R230). -/
def decBound (w : Nat) : Dec Instr := do
  zeroAt w 16 1
  .ok (.bound (finAt 8 w 21 3) (← tyAt w 17) (← opAt w 8) (← opAt w 0))

/-- PCYC (11 R280). -/
def decPcyc (w : Nat) : Dec Instr := do
  zeroAt w 17 3
  match decCyc (fld w 11 3) with
  | some k => .ok (.pcyc (finAt 8 w 14 3) k (← opAt w 0))
  | none => .error .unassignedFunction

/-- PERM, format PM (11 R275). -/
def decPerm (w : Nat) : Dec Instr := do
  zeroAt w 8 3
  let wd := finAt 8 w 17 3
  let wa := finAt 8 w 14 3
  let wb := finAt 8 w 11 3
  match fld w 20 4 with
  | 0 => zeroAt w 11 6; .ok (.pload wd (← opAt w 0))
  | 1 => zeroAt w 0 8; .ok (.pcomp wd wa wb)
  | 2 => zeroAt w 0 8; zeroAt w 11 3; .ok (.pinv wd wa)
  | 3 => zeroAt w 11 6; .ok (.prand wd (← gAt w 0))
  | 4 => zeroAt w 11 3; .ok (.pcompact wd wa (← opAt w 0))
  | 5 => decPcyc w
  | 6 => zeroAt w 17 3; zeroAt w 11 3; .ok (.pstore wa (← opAt w 0))
  | 7 => zeroAt w 17 3; zeroAt w 11 3; .ok (.pidx wa (← opAt w 0))
  | _ => .error .unassignedFunction

/-- The C-class majors (07 R161). -/
def decC (w : Nat) : Dec Instr := do
  match fld w 24 6 with
  | 0x00 => decCtl w
  | 0x01 => decBr w
  | 0x02 => .ok (.jmp (finAt 16 w 20 4) (BitVec.ofNat 20 (fld w 0 20)))
  | 0x03 => .ok (.call (finAt 16 w 20 4) (BitVec.ofNat 20 (fld w 0 20)))
  | 0x04 => .ok (.fork (finAt 16 w 20 4) (BitVec.ofNat 20 (fld w 0 20)))
  | 0x05 => decSend w
  | 0x06 => decCsr w
  | 0x07 => decM .ldN w
  | 0x08 => decM .ldS w
  | 0x09 => decM .ldeN w
  | 0x0A => decM .ldeS w
  | 0x0B => decM .ldxN w
  | 0x0C => decM .ldxS w
  | 0x0D => decM .st w
  | 0x0E => decM .ste w
  | 0x0F => decM .stx w
  | 0x10 => decAtom w
  | 0x11 => decBfl w
  | 0x12 => decCpy w
  | 0x13 => decVmem .vld w
  | 0x14 => decVmem .vst w
  | 0x15 => decVldp w
  | 0x16 => decQpack w
  | 0x17 => decMtx w
  | _ => .error .unassignedMajor

/-- The element-wise vector majors, by their 2-bit op (07 R168). -/
def decVec (w : Nat) : Dec Instr := do
  match fld w 24 6, fld w 18 2 with
  | 0x35, 0 => decV .vadd w
  | 0x35, 1 => decV .vsub w
  | 0x35, 2 => decV .vmul w
  | 0x35, _ => decV .vfma w
  | 0x36, 0 => decV .vmin w
  | 0x36, 1 => decV .vmax w
  | 0x36, 2 => decV .vaddsat w
  | 0x36, _ => decV .vsubsat w
  | 0x37, 0 => decV .vand w
  | 0x37, 1 => decV .vor w
  | 0x37, 2 => decV .vxor w
  | 0x37, _ => decV .vandn w
  | 0x38, 0 => decVcmp .vceq w
  | 0x38, 1 => decVcmp .vclt w
  | 0x38, 2 => decVcmp .vcle w
  | 0x38, _ => decVcmp .vcne w
  | 0x3A, 0 => decVx .vbcast w
  | 0x3A, 1 => decVx .vaddx w
  | 0x3A, 2 => decVx .vmulx w
  | 0x3A, _ => decVx .vmaxx w
  | 0x3B, 0 => decVred .vrsum w
  | 0x3B, 1 => decVred .vrmax w
  | 0x3B, 2 => decVred .vrmin w
  | 0x3B, _ => decVred .vramax w
  | _, _ => .error .unassignedMajor
where
  /-- VRED, format VRD (10 R237). -/
  decVred (mk : Ty → Fin 8 → Fin 32 → Operand → Instr) (w : Nat) : Dec Instr := do
    zeroAt w 8 2
    .ok (mk (← tyAt w 20) (finAt 8 w 15 3) (finAt 32 w 10 5) (← opAt w 0))

/-- The A-class majors (07 R162). -/
def decA (w : Nat) : Dec Instr := do
  match fld w 24 6 with
  | 0x20 => decT .add w
  | 0x21 => decT .sub w
  | 0x22 => decT .mul w
  | 0x23 => decT .mulhS64 w
  | 0x24 => decT .mulhN64 w
  | 0x25 => decT .and w
  | 0x26 => decT .or w
  | 0x27 => decT .xor w
  | 0x28 => decT .shl w
  | 0x29 => decT .shrN64 w
  | 0x2A => decT .shrS64 w
  | 0x2B => decT .sltS64 w
  | 0x2C => decT .sltN64 w
  | 0x2D => decT .seq w
  | 0x2E => .ok (.addi (← opAt w 16) (← opAt w 8) (BitVec.ofNat 8 (fld w 0 8)))
  | 0x2F => decShi w
  | 0x30 => .ok (.li (← opAt w 16) (BitVec.ofNat 16 (fld w 0 16)))
  | 0x31 => .ok (.lis (← opAt w 16) (BitVec.ofNat 16 (fld w 0 16)))
  | 0x32 => decT .bfx w
  | 0x33 => decT .bfi w
  | 0x34 => decUn w
  | 0x39 => .ok (.vcvt (← tyAt w 20) (← tyAt w 16) (decRm (fld w 14 2)) (fld w 13 1 == 1) (finAt 8 w 10 3)
      (finAt 32 w 5 5) (finAt 32 w 0 5))
  | 0x3C => decVpk w
  | 0x3D => decMk w
  | 0x3E => decBound w
  | 0x3F => decPerm w
  | _ => decVec w

/-- The instruction that a 32-bit word holds; L and S, bits 31 and 30, belong to the bundle. -/
def decode (w : Nat) : Dec Instr :=
  if fld w 29 1 = 0 then decC w else decA w

/-- The little-endian word of four bytes (00 R4). -/
def wordOfBytes (a b c d : BitVec 8) : Nat := a.toNat + 256 * b.toNat + 65536 * c.toNat + 16777216 * d.toNat

/-- The instruction at the head of a list of bytes, with the rest. -/
def decodeBytes : List (BitVec 8) → Dec (Instr × List (BitVec 8))
  | a :: b :: c :: d :: rest =>
    match decode (wordOfBytes a b c d) with
    | .ok i => .ok (i, rest)
    | .error e => .error e
  | _ => .error .tooShort

/-- The four bytes of a word, as the instruction store holds them (07 R150). -/
def bytesOfWord (w : Nat) : List (BitVec 8) :=
  [BitVec.ofNat 8 w, BitVec.ofNat 8 (w / 256), BitVec.ofNat 8 (w / 65536), BitVec.ofNat 8 (w / 16777216)]

/-- The decoder on a word numbered as the opcode table numbers it. Every word-encoded row has 32 bits. -/
def decodeTableWord (nbits w : Nat) : Option Instr :=
  if nbits ≤ 32 then
    match decodeBytes (bytesOfWord (w % 2 ^ nbits)) with
    | .ok (i, _) => some i
    | .error _ => none
  else none

/-- C-class: op[5] = 0 (07 R150). -/
def isCWord (w : Nat) : Bool := fld w 29 1 == 0

/-- A bundle (07 R151): paired, lone, or breaking the table (with the word at fault). -/
inductive Bundle where
  | paired (w0 w1 : Nat)
  | lone (w0 w1 : Nat)
  | broken (w : Nat)
deriving DecidableEq, Repr

/-- The kind of a bundle from its 64 bits (07 R151). -/
def decodeBundle (b : Nat) : Bundle :=
  let w0 := b % 2 ^ 32
  let w1 := b / 2 ^ 32 % 2 ^ 32
  if fld w0 31 1 = 0 then
    if !isCWord w0 then .broken w0
    else if isCWord w1 || fld w1 31 1 = 1 || fld w1 30 1 = 1 then .broken w1
    else .paired w0 w1
  else if fld w1 31 1 = 0 then .broken w1
  else .lone w0 w1

/-- A word from its major opcode and its 24 operand bits. -/
abbrev wd (op rest : Nat) : Nat := op * 2 ^ 24 + rest

/-- The T layout: three 8-bit fields. -/
abbrev w3 (op : Nat) (d a b : Nat) : Nat := wd op (d * 2 ^ 16 + a * 2 ^ 8 + b)
/-- The M layout (09 R209). -/
abbrev wM (op : Nat) (x : Operand) (bf : Fin 64) (sz : Fin 4) (i : Operand) : Nat :=
  wd op (x.code * 2 ^ 16 + bf.val * 2 ^ 10 + sz.val * 2 ^ 8 + i.code)
/-- The AT layout (09 R215). -/
abbrev wAT (fn : Nat) (x : Operand) (bf : Fin 16) (i : Operand) : Nat :=
  wd 0x10 (x.code * 2 ^ 16 + fn * 2 ^ 12 + bf.val * 2 ^ 8 + i.code)
/-- The B layout (08 R173). -/
abbrev wB (cond a : Nat) (off : Fin 512) : Nat := wd 0x01 (a * 2 ^ 16 + cond * 2 ^ 12 + off.val)
/-- The J layout (08 R174). -/
abbrev wJ (op : Nat) (entry : Fin 16) (delta : BitVec 20) : Nat := wd op (entry.val * 2 ^ 20 + delta.toNat)
/-- The VM layout (10 R241). -/
abbrev wVM (op fn m v : Nat) (bf : Fin 64) (i : Operand) : Nat :=
  wd op (fn * 2 ^ 22 + m * 2 ^ 19 + v * 2 ^ 14 + bf.val * 2 ^ 8 + i.code)
/-- The MX layout (11 R266). -/
abbrev wMX (fn : Nat) (t : Fin 4) (v s : Nat) : Nat := wd 0x17 (fn * 2 ^ 20 + t.val * 2 ^ 18 + v * 2 ^ 13 + s)
/-- The V layout (10 R232). -/
abbrev wV (op fn : Nat) (ty : Ty) (m : Fin 8) (vd va vb : Nat) : Nat :=
  wd op (ty.code * 2 ^ 20 + fn * 2 ^ 18 + m.val * 2 ^ 15 + vd * 2 ^ 10 + va * 2 ^ 5 + vb)
/-- The MK layout (10 R231). -/
abbrev wMK (fn md ma mb s : Nat) : Nat := wd 0x3D (fn * 2 ^ 18 + md * 2 ^ 15 + ma * 2 ^ 12 + mb * 2 ^ 9 + s)
/-- The PM layout (11 R275). -/
abbrev wPM (fn wd' wa wb s : Nat) : Nat := wd 0x3F (fn * 2 ^ 20 + wd' * 2 ^ 17 + wa * 2 ^ 14 + wb * 2 ^ 11 + s)

/-- The word of an instruction with L = S = 0; an event has none. -/
def encode : Instr → Option Nat
  | .nop => some (w3 0 0 0 0x00)
  | .ksync => some (w3 0 0 0 0x01)
  | .idle => some (w3 0 0 0 0x02)
  | .endThread => some (w3 0 0 0 0x03)
  | .ret => some (w3 0 0 0 0x04)
  | .jmpr a => some (w3 0 0 a.code 0x05)
  | .callr a => some (w3 0 0 a.code 0x06)
  | .forkr a => some (w3 0 0 a.code 0x07)
  | .join a => some (w3 0 0 a.code 0x08)
  | .rdw d a => some (w3 0 d.code a.val 0x09)
  | .rdwc d a => some (w3 0 d.code a.val 0x0A)
  | .trap a => some (w3 0 0 a.code 0x0B)
  | .fenceb => some (w3 0 0 0 0x0C)
  | .snap a => some (w3 0 0 a.code 0x0D)
  | .yield => some (w3 0 0 0 0x0E)
  | .waitx a c => some (w3 0 0 a.code (0x10 + c.val))
  | .br off => some (wB 0 0 off)
  | .beqz a off => some (wB 1 a.code off)
  | .bnez a off => some (wB 2 a.code off)
  | .bltz a off => some (wB 3 a.code off)
  | .bgez a off => some (wB 4 a.code off)
  | .bgtz a off => some (wB 5 a.code off)
  | .blez a off => some (wB 6 a.code off)
  | .bfull a off => some (wB 7 a.val off)
  | .bempty a off => some (wB 8 a.val off)
  | .jmp e d => some (wJ 0x02 e d)
  | .call e d => some (wJ 0x03 e d)
  | .fork e d => some (wJ 0x04 e d)
  | .send a b => some (w3 0x05 a.code b.code 0)
  | .sendu a b => some (w3 0x05 a.code b.code 1)
  | .csrrd x c => some (wd 0x06 (x.code * 2 ^ 16 + c.toNat))
  | .csrwr x c => some (wd 0x06 (x.code * 2 ^ 16 + 1 * 2 ^ 12 + c.toNat))
  | .ldN x bf sz i => some (wM 0x07 x bf sz i)
  | .ldS x bf sz i => some (wM 0x08 x bf sz i)
  | .ldeN x bf sz i => some (wM 0x09 x bf sz i)
  | .ldeS x bf sz i => some (wM 0x0A x bf sz i)
  | .ldxN x bf sz i => some (wM 0x0B x bf sz i)
  | .ldxS x bf sz i => some (wM 0x0C x bf sz i)
  | .st x bf sz i => some (wM 0x0D x bf sz i)
  | .ste x bf sz i => some (wM 0x0E x bf sz i)
  | .stx x bf sz i => some (wM 0x0F x bf sz i)
  | .aswap x bf i => some (wAT 0 x bf i)
  | .aadd x bf i => some (wAT 1 x bf i)
  | .aand x bf i => some (wAT 2 x bf i)
  | .aor x bf i => some (wAT 3 x bf i)
  | .axor x bf i => some (wAT 4 x bf i)
  | .aminS64 x bf i => some (wAT 5 x bf i)
  | .amaxS64 x bf i => some (wAT 6 x bf i)
  | .aminN64 x bf i => some (wAT 7 x bf i)
  | .amaxN64 x bf i => some (wAT 8 x bf i)
  | .acas x bf i => some (wAT 9 x bf i)
  | .aamaxF32 x bf i => some (wAT 10 x bf i)
  | .amaxswapF32 x bf i => some (wAT 11 x bf i)
  | .bfld a bf => some (wd 0x11 (a.code * 2 ^ 16 + bf.val * 2 ^ 8))
  | .bfclr bf => some (wd 0x11 (1 * 2 ^ 14 + bf.val * 2 ^ 8))
  | .cpy d a => some (w3 0x12 d.code a.val 0)
  | .cpyNb d a => some (w3 0x12 d.code a.val 1)
  | .vld sz m v bf i => some (wVM 0x13 sz.val m.val v.val bf i)
  | .vst sz m v bf i => some (wVM 0x14 sz.val m.val v.val bf i)
  | .vldpE2m1 m v bf i => some (wVM 0x15 0 m.val v.val bf i)
  | .vldpE3m2 m v bf i => some (wVM 0x15 1 m.val v.val bf i)
  | .vstpE2m1 m v bf i => some (wVM 0x15 2 m.val v.val bf i)
  | .vstpE3m2 m v bf i => some (wVM 0x15 3 m.val v.val bf i)
  | .qpackE4m3 vp bf i => some (wVM 0x16 0 0 (vp.val * 2) bf i)
  | .qpackE3m2 vp bf i => some (wVM 0x16 1 0 (vp.val * 2) bf i)
  | .qpackE2m1 vp bf i => some (wVM 0x16 2 0 (vp.val * 2) bf i)
  | .qpacki vp bf i => some (wVM 0x16 3 0 (vp.val * 2) bf i)
  | .accld t vq s => some (wMX 0 t (vq.val * 4) s.code)
  | .accst t vq s => some (wMX 1 t (vq.val * 4) s.code)
  | .drain t s => some (wMX 2 t 0 s.val)
  | .add d a b => some (w3 0x20 d.code a.code b.code)
  | .sub d a b => some (w3 0x21 d.code a.code b.code)
  | .mul d a b => some (w3 0x22 d.code a.code b.code)
  | .mulhS64 d a b => some (w3 0x23 d.code a.code b.code)
  | .mulhN64 d a b => some (w3 0x24 d.code a.code b.code)
  | .and d a b => some (w3 0x25 d.code a.code b.code)
  | .or d a b => some (w3 0x26 d.code a.code b.code)
  | .xor d a b => some (w3 0x27 d.code a.code b.code)
  | .shl d a b => some (w3 0x28 d.code a.code b.code)
  | .shrN64 d a b => some (w3 0x29 d.code a.code b.code)
  | .shrS64 d a b => some (w3 0x2A d.code a.code b.code)
  | .sltS64 d a b => some (w3 0x2B d.code a.code b.code)
  | .sltN64 d a b => some (w3 0x2C d.code a.code b.code)
  | .seq d a b => some (w3 0x2D d.code a.code b.code)
  | .addi d a imm => some (w3 0x2E d.code a.code imm.toNat)
  | .shli d a n => some (w3 0x2F d.code a.code n.val)
  | .shriN64 d a n => some (w3 0x2F d.code a.code (64 + n.val))
  | .shriS64 d a n => some (w3 0x2F d.code a.code (128 + n.val))
  | .rotri d a n => some (w3 0x2F d.code a.code (192 + n.val))
  | .li d imm => some (wd 0x30 (d.code * 2 ^ 16 + imm.toNat))
  | .lis d imm => some (wd 0x31 (d.code * 2 ^ 16 + imm.toNat))
  | .bfx d a b => some (w3 0x32 d.code a.code b.code)
  | .bfi d a b => some (w3 0x33 d.code a.code b.code)
  | .mov d a => some (w3 0x34 d.code a.code 0x00)
  | .not d a => some (w3 0x34 d.code a.code 0x01)
  | .neg d a => some (w3 0x34 d.code a.code 0x02)
  | .absS64 d a => some (w3 0x34 d.code a.code 0x03)
  | .popc d a => some (w3 0x34 d.code a.code 0x04)
  | .clz d a => some (w3 0x34 d.code a.code 0x05)
  | .ctz d a => some (w3 0x34 d.code a.code 0x06)
  | .bswap d a => some (w3 0x34 d.code a.code 0x07)
  | .brev d a => some (w3 0x34 d.code a.code 0x08)
  | .sextS8 d a => some (w3 0x34 d.code a.code 0x09)
  | .sextS16 d a => some (w3 0x34 d.code a.code 0x0A)
  | .sextS32 d a => some (w3 0x34 d.code a.code 0x0B)
  | .zextN8 d a => some (w3 0x34 d.code a.code 0x0C)
  | .zextN16 d a => some (w3 0x34 d.code a.code 0x0D)
  | .zextN32 d a => some (w3 0x34 d.code a.code 0x0E)
  | .qmaxx d a => some (w3 0x34 d.code a.code 0x10)
  | .qscaleE4m3 d a => some (w3 0x34 d.code a.code 0x11)
  | .qscaleE3m2 d a => some (w3 0x34 d.code a.code 0x12)
  | .qscaleE2m1 d a => some (w3 0x34 d.code a.code 0x13)
  | .qscalei d a => some (w3 0x34 d.code a.code 0x14)
  | .vlq d => some (w3 0x34 d.code 0 0x1F)
  | .vlane d ty => some (w3 0x34 d.code 0 (0x20 + ty.code))
  | .vadd t m d a b => some (wV 0x35 0 t m d a b)
  | .vsub t m d a b => some (wV 0x35 1 t m d a b)
  | .vmul t m d a b => some (wV 0x35 2 t m d a b)
  | .vfma t m d a b => some (wV 0x35 3 t m d a b)
  | .vmin t m d a b => some (wV 0x36 0 t m d a b)
  | .vmax t m d a b => some (wV 0x36 1 t m d a b)
  | .vaddsat t m d a b => some (wV 0x36 2 t m d a b)
  | .vsubsat t m d a b => some (wV 0x36 3 t m d a b)
  | .vand t m d a b => some (wV 0x37 0 t m d a b)
  | .vor t m d a b => some (wV 0x37 1 t m d a b)
  | .vxor t m d a b => some (wV 0x37 2 t m d a b)
  | .vandn t m d a b => some (wV 0x37 3 t m d a b)
  | .vceq t m d a b => some (wV 0x38 0 t m d a b)
  | .vclt t m d a b => some (wV 0x38 1 t m d a b)
  | .vcle t m d a b => some (wV 0x38 2 t m d a b)
  | .vcne t m d a b => some (wV 0x38 3 t m d a b)
  | .vcvt dt st rm sat m vd va =>
    some (wd 0x39 (dt.code * 2 ^ 20 + st.code * 2 ^ 16 + rm.code * 2 ^ 14 + sat.toNat * 2 ^ 13 + m.val * 2 ^ 10
      + vd.val * 2 ^ 5 + va.val))
  | .vbcast t m d s => some (wd 0x3A (t.code * 2 ^ 20 + 0 * 2 ^ 18 + m.val * 2 ^ 15 + d.val * 2 ^ 10 + s.code))
  | .vaddx t m d s => some (wd 0x3A (t.code * 2 ^ 20 + 1 * 2 ^ 18 + m.val * 2 ^ 15 + d.val * 2 ^ 10 + s.code))
  | .vmulx t m d s => some (wd 0x3A (t.code * 2 ^ 20 + 2 * 2 ^ 18 + m.val * 2 ^ 15 + d.val * 2 ^ 10 + s.code))
  | .vmaxx t m d s => some (wd 0x3A (t.code * 2 ^ 20 + 3 * 2 ^ 18 + m.val * 2 ^ 15 + d.val * 2 ^ 10 + s.code))
  | .vrsum t m a d => some (wd 0x3B (t.code * 2 ^ 20 + 0 * 2 ^ 18 + m.val * 2 ^ 15 + a.val * 2 ^ 10 + d.code))
  | .vrmax t m a d => some (wd 0x3B (t.code * 2 ^ 20 + 1 * 2 ^ 18 + m.val * 2 ^ 15 + a.val * 2 ^ 10 + d.code))
  | .vrmin t m a d => some (wd 0x3B (t.code * 2 ^ 20 + 2 * 2 ^ 18 + m.val * 2 ^ 15 + a.val * 2 ^ 10 + d.code))
  | .vramax t m a d => some (wd 0x3B (t.code * 2 ^ 20 + 3 * 2 ^ 18 + m.val * 2 ^ 15 + a.val * 2 ^ 10 + d.code))
  | .vcompress t m d a h => some (wV 0x3C 0 t m d a (h.val * 2 ^ 3))
  | .vexpand t m d a h => some (wV 0x3C 1 t m d a (h.val * 2 ^ 3))
  | .vrowmv t m d a w => some (wV 0x3C 2 t m d a w)
  | .vsel t m d a => some (wV 0x3C 3 t m d a 0)
  | .mand d a b => some (wMK 0 d a b 0)
  | .mor d a b => some (wMK 1 d a b 0)
  | .mxor d a b => some (wMK 2 d a b 0)
  | .mandn d a b => some (wMK 3 d a b 0)
  | .mnot d a => some (wMK 4 d a 0 0)
  | .mmov d a => some (wMK 5 d a 0 0)
  | .mpop a s => some (wMK 6 0 a 0 s.code)
  | .mfrom d s => some (wMK 7 d 0 0 s.code)
  | .mtolo a s => some (wMK 8 0 a 0 s.code)
  | .mtohi a s => some (wMK 9 0 a 0 s.code)
  | .bound md t a b => some (wd 0x3E (md.val * 2 ^ 21 + t.code * 2 ^ 17 + a.code * 2 ^ 8 + b.code))
  | .pload d s => some (wPM 0 d 0 0 s.code)
  | .pcomp d a b => some (wPM 1 d a b 0)
  | .pinv d a => some (wPM 2 d a 0 0)
  | .prand d s => some (wPM 3 d 0 0 s.val)
  | .pcompact d m s => some (wPM 4 d m 0 s.code)
  | .pcyc a k s => some (wPM 5 0 a k.code s.code)
  | .pstore a s => some (wPM 6 0 a 0 s.code)
  | .pidx a s => some (wPM 7 0 a 0 s.code)
  | _ => none

/-- The word of an instruction in its bundle, with its L and S bits (07 R150). -/
def encodeWord (i : Instr) (lone mark : Bool) : Option Nat :=
  (encode i).map fun w => lone.toNat * 2 ^ 31 + mark.toNat * 2 ^ 30 + w

end Sys2Proof
end

