-- ==== Sys2Proof/Config.lean ====
section
/-! DEFINITION. What the part fixes once (sizes, periods), and the free values: constants without a body, of which
nothing can be proved (assumption log 5). -/

namespace Sys2Proof.Config

/-- A free number: the `n`-th value that the spec leaves open, of any width. DESIGN CHOICE (log 5). -/
opaque freeValue : Nat → Nat
/-- A free choice between two outcomes that the spec allows. DESIGN CHOICE (log 5). -/
opaque freeBit : Nat → Bool
/-- The sealing unit's keyed check over bits [103:0] of a capability, with the key drawn at the n-th reset (17 R373). -/
opaque sealOf : Nat → Nat → Nat
/-- The settings of the 13 x 64 network that realise an index vector (11 R276: any are correct). -/
opaque settingsOf : List Nat → Nat
/-- Of the package identity key of the n-th enrolment: the signature over a message with a given leaf, and the public key (17 R379,
R380). -/
opaque signatureOf : Nat → Nat → List Nat → List Nat
opaque publicKey : Nat → List Nat
/-- The SHAKE256 digest of the boot image in force, which FVER names (17 R380). -/
opaque imageDigest : Nat → Nat
/-- SHAKE256 of bytes, the digest of Bilfort's root public key in the mask ROM, and whether a key verifies a signature over
bytes (17 R377, R378). -/
opaque shake256 : List Nat → Nat
opaque romDigest : Nat
opaque verifies : List Nat → List Nat → List Nat → Bool

/-- LEASE, 1,024 units of logical time (12 R285). -/
abbrev lease : Nat := 1024
/-- Cycles of a gathering window (02 R45). -/
abbrev gatherCycles : Nat := 64
/-- Cycles after which a k write is visible (03 R63). -/
abbrev kVisible : Nat := 8
/-- The bound of IDLE (08 R191). -/
abbrev idleCycles : Nat := 1024
/-- The period of the heartbeat, and the silence that kills (14 R328). -/
abbrev heartbeatPeriod : Nat := 65536
abbrev heartbeatLimit : Nat := 196608
/-- The timeout of a QMAXX round (10 R245), and the quiet time before class-0 borrowings return (13 R310). -/
abbrev qmaxxTimeout : Nat := 65536
abbrev borrowTimeout : Nat := 65536
/-- The ageing step of the task scheduler and of engine candidates (13 R304). -/
abbrev ageing : Nat := 486400
/-- Cycles of a slot and slots of a frame (05 R125). -/
abbrev slotCycles : Nat := 1024
abbrev frameSlots : Nat := 64
/-- Cycles of one k-step (11 R258). -/
abbrev kStepCycles : Nat := 64
/-- The limit on outstanding results (03 R66), and on incomplete transfers of a channel (05 R120). -/
abbrev outstandingLimit : Nat := 8
abbrev transferLimit : Nat := 4096
/-- Capacities of the queue registers (03 R65). -/
abbrev meqDepth : Nat := 8
abbrev msqDepth : Nat := 8
abbrev cpqDepth : Nat := 16
abbrev chqDepth : Nat := 4
abbrev evqDepth : Nat := 32
abbrev inqDepth : Nat := 16
abbrev tkqDepth : Nat := 8
/-- Entries of the on-chip deque, and how many move at an overflow or a refill (05 R112). -/
abbrev dequeDepth : Nat := 64
abbrev dequeMove : Nat := 32
/-- Windows of the gathering table (05 R115), members of a gang (02 R45). -/
abbrev gatherWindows : Nat := 8
abbrev gangSize : Nat := 8
/-- Entries of the L1 TLB and the hedge TLB (04 R107). -/
abbrev l1TlbEntries : Nat := 1024
abbrev l2TlbEntries : Nat := 8192
/-- L2 slices of a die, sets and ways of a slice's directory (04 R92, 19 R388). -/
abbrev slices : Nat := 96
abbrev dirSets : Nat := 1024
abbrev dirWays : Nat := 16
/-- Sets and ways of a slice's 1 MiB of lines (04 R81). -/
abbrev l2Sets : Nat := 512
abbrev l2Ways : Nat := 16
/-- Page walkers of a die (04 R107), entries of a block-directory bucket (05 R122), of the steal-domain table (05 R121). -/
abbrev walkers : Nat := 32
abbrev bucketSize : Nat := 8
abbrev stealEntries : Nat := 256
/-- Ways of a cache portion (04 R85). -/
abbrev cacheWays : Nat := 8
/-- Bytes of a hedge scratchpad (04 R89), of an instruction store (04 R81), of a core's SRAM (04 R85). -/
abbrev hedgeBytes : Nat := 2097152
abbrev istoreBytes : Nat := 65536
abbrev sramBytes : Nat := 589824

end Sys2Proof.Config
end

