-- ==== Sys2Proof/Machine/State.lean ====
section
/-! DEFINITION. The state of one package: plain data holding every piece of state the spec gives the machine. A field's
default value is its value at reset. Times, counts, addresses and identifiers are numbers; register contents are words. -/

namespace Sys2Proof.Machine

/-- Memory: (address, byte) pairs, addresses strictly rising, no byte 0 listed: an unlisted byte reads 0 (04 R83; far and
host memory by log 3). Addresses below 2^48 are physical (04 R91). The memories without a physical address have numbers
of the model's own above them (log 2): scratchpads of cores, hedge scratchpads, instruction stores. -/
abbrev Memory := List Host.Cell

/-- A stop of the machine itself. -/
inductive Fault where
  /-- Raised by step when the package is halted after a failed boot (17 R377: a failure halts the package). Safe: no
  later state is claimed. -/
  | halted
deriving DecidableEq, Repr

/-- A refusal. -/
inductive Refusal where
  /-- An instruction that has no meaning yet, by its mnemonic; raised by exec. Safe: nothing is claimed of it. -/
  | notModelled (mnemonic : String)
deriving DecidableEq, Repr

/-- The place of the next word: block, bundle offset, word of a lone bundle (02 R30, 07 R153). -/
structure PC where
  blk : Nat := 0
  off : Nat := 0
  word : Nat := 0
deriving DecidableEq, Repr

/-- A thread's windows (03 R58, R78): bases, and the codes n of 8(n + 1) main and 4n vector registers. -/
structure Win where
  mainBase : Nat := 0
  mainCode : Nat := 0
  vecBase : Nat := 0
  vecCode : Nat := 0
deriving DecidableEq, Repr

/-- Where a result goes that is outstanding (03 R66, 09 R214): g and v are window-relative. -/
inductive Dest where
  | g (n : Nat) | h (n : Nat) | k (n : Nat) | v (n : Nat) | bf (n : Nat) | discard
deriving DecidableEq, Repr

/-- What leaves a result outstanding. -/
inductive PendKind where
  | load | atomic | pop | bfld
deriving DecidableEq, Repr

/-- One outstanding result (03 R66, 07 R154 to R156). `left` counts the line accesses not yet performed; `acc` gathers
their bits; `mask` are the bits of the destination that are written (a vector load's active elements), in elements of
`ebits`. After the return, `alt` is the other value that a read before the marker may give, and `clash` says that another
write met it, so that the marker too may leave either. -/
structure Pending where
  seq : Nat := 0
  kind : PendKind := .load
  dest : Dest := .discard
  bytes : Nat := 8
  signed : Bool := false
  left : Nat := 0
  acc : Nat := 0
  mask : Nat := 0
  ebits : Nat := 64
  returned : Bool := false
  alt : Option Nat := none
  clash : Bool := false
  pop : Option Instr := none
  /-- For a pair's load the leader's sequence number and 1; for PLOAD's or BFLD's load the w register or entry and 1. -/
  queue : Nat := 0
  vals : List Word := []
  asid : Nat := 0
  pc : PC := {}
deriving DecidableEq, Repr

/-- Atomic operations (07 R165). -/
inductive AtomOp where
  | swap | add | and | or | xor | minS | maxS | minN | maxN | cas | amax32 | amaxswap32
deriving DecidableEq, Repr

/-- What an access does to its line. -/
inductive AccKind where
  | load | store | atomic (op : AtomOp) (bytes : Nat) (v h : Word) | none
deriving DecidableEq, Repr

/-- One access of a thread to one 128-byte line, or one that touches no memory (12 R283, 10 R243). `segs` are the pieces
of a load: bit in the line, number of bits, bit in the destination. `mask` and `data` are over the line's 1,024 bits. -/
structure Access where
  seq : Nat := 0
  line : Nat := 0
  kind : AccKind := .none
  pol : Nat := 0
  mask : Nat := 0
  data : Nat := 0
  segs : List (Nat × Nat × Nat) := []
  posted : Bool := false
  forced : Bool := false
  owner : Option Nat := none
  asid : Nat := 0
  va : Nat := 0
  join : Option Nat := none
  pc : PC := {}
  /-- Of an observation that waits for its turn (12 R283, R292, R293): the time observed. -/
  observe : Option Nat := none
deriving DecidableEq, Repr

/-- Why a thread is out of the rotation (02 R29), with its wake condition. `retry` waits end by issuing the instruction
again; `resume` waits continue at the program address already set. -/
inductive Wait where
  /-- A switch marker: until every outstanding result has returned (07 R154). -/
  | marker
  /-- R39 step 1: results returned and stores accepted; then the instruction issues again. -/
  | settle
  /-- FENCEB (08 R192) of an instruction that then issues again. -/
  | fence
  /-- A departure to an address, with its kind and, for a J form not in the directory, its entry index (02 R39). -/
  | depart (t kind : Nat) (j : Option Nat)
  /-- A room in a queue register, an entry of one, one of the 8 outstanding results (03 R66). -/
  | room (q : Nat) | entry (q : Nat) | limit
  /-- Main register n full (08 R180). -/
  | full (n : Nat)
  /-- A join counter at an address (08 R179). -/
  | join (addr : Nat)
  /-- A copy channel's watermark (08 R190). -/
  | watermark (c g : Nat)
  /-- IDLE until a cycle or an event (08 R191). -/
  | idle (until_ : Nat)
  /-- Until a cycle: KSYNC (03 R63), PCYC and PIDX (11 R280). -/
  | cycle (until_ : Nat)
  /-- A move of the thread's windows, until a cycle (02 R37). -/
  | moving (until_ : Nat)
  /-- A page walk, a page-in, a snapshot's page copy (04 R105, R107): ASID and virtual address. -/
  | walk (va : Nat) | pageIn (va : Nat) | pageCopy (va : Nat)
  /-- A first write to a shared page of an SRAM, or an uncopied tile or pinned page (15 R341, R342). -/
  | sramCopy (page : Nat)
  /-- A block-map miss (02 R36). -/
  | blockMap (blk : Nat)
  /-- The acceptance of a fork child, a trap record, Yew's answer (08 R178, R193, R195). -/
  | accept
  /-- The matrix engine: an operand's staging, ACCLD, ACCST (11 R259, R267). -/
  | engine
  /-- A Hornbeam solve (11 R276), or a loading permutation register n (03 R71). -/
  | solve | loading (n : Nat)
  /-- A QMAXX round of a key, or a free round (10 R244). -/
  | round (g tag : Nat) | rounds (g tag : Nat)
  /-- The partner of a redundant pair (08 R199). -/
  | partner
  /-- Room in a deque overflow ring (05 R114). -/
  | ring
  /-- An index vector's or a record's load (11 R277, 09 R213). -/
  | vector
  /-- Until the accesses of the thread, and of its redundant partner, have been performed. -/
  | performed
deriving DecidableEq, Repr

/-- The state of a context (02 R29). -/
inductive Status where
  | free
  | ready
  | parked (w : Wait)
  /-- Admitted into a gathering window that is still open (02 R45). -/
  | gathering
  /-- Frozen by a fault, until Ozine's release (14 R317). -/
  | frozen
  /-- Frozen by a stop of its job, with the state it had (17 R402). -/
  | stopped
  /-- Saved by a pre-emption (02 R51). -/
  | saved
deriving DecidableEq, Repr

/-- One context and the thread in it (02 R28, 03 R55). -/
structure Ctx where
  status : Status := .free
  pc : PC := {}
  asid : Nat := 0
  cls : Nat := 0
  pt : Nat := 0
  link : Nat := 0
  /-- TSTAT (03 R77): NONE [8], GANG [3], TRAIL [2], REDUN [1], RB [0]. -/
  tstat : Nat := 0
  fcode : Nat := 0
  faddr : Nat := 0
  win : Win := {}
  h : Tab Word := []
  lc : Word := 0
  la : Word := 0
  masks : Tab MaskV := []
  out : List Pending := []
  pipe : List Access := []
  /-- Transfers issued (channel, id), chain and matrix commands pushed and not yet ended, by id: what FENCEB awaits (08
  R192). -/
  copies : List (Nat × Nat) := []
  cmds : List Nat := []
  /-- The greatest completion time of ended commands that FENCEB observes (12 R292). -/
  cmdTc : Nat := 0
  /-- The cycle of the last issue (13 R312), and whether the thread has issued since its admission. -/
  lastIssue : Nat := 0
  issued : Bool := false
  /-- How far an instruction of several waits has come (JOIN woken, a round joined, a record accepted). -/
  phase : Nat := 0
  /-- Slots of its gang, in ascending order (02 R46). -/
  gang : List Nat := []
  /-- The other context of a redundant pair (14 R326), its loads whose values it has not yet taken (09 R225): what
  each names and reads, the result it left, the value, its posted instruction. -/
  pair : Option Nat := none
  loadq : List (Instr × List Word × Pending × Option Nat) := []
  posted : Option (Instr × List Word) := none
  /-- Source values already taken by a popping instruction, or by word 0 of a bundle, that parked, by field position;
  and whether word 1 of the bundle has already taken effect (log 7). -/
  latch : List (Nat × Word) := []
  w1done : Bool := false
  /-- In a paired bundle, how far the other word has come: its phase and latch; and whether it is word 1 whose progress
  `phase` and `latch` hold. -/
  phase1 : Nat := 0
  latch1 : List (Nat × Word) := []
  swapped : Bool := false
  /-- Pages, with fault codes, whose walk failed or for which Ozine found no mapping while the instruction waited. -/
  badPages : List (Nat × Nat) := []
  /-- What a stop or a save found the thread doing, restored when it resumes. -/
  prior : Option Status := none
deriving DecidableEq, Repr

/-- A permutation register (03 R70). -/
structure PermReg where
  settings : Nat := 0
  idx : List Nat := []
  n : Nat := 0
  valid : Bool := false
  loading : Bool := false
deriving DecidableEq, Repr

/-- A buffer-table entry (03 R72): the 256-bit record, valid, the ASID that loaded it. -/
structure Buf where
  r : Nat := 0
  valid : Bool := false
  asid : Nat := 0
deriving DecidableEq, Repr

/-- A core-shared value just replaced: which (k register, or 64 + buffer entry), the old value, by which slot, when. -/
structure Recent (α : Type) where
  n : Nat
  old : α
  slot : Nat
  at_ : Nat
deriving DecidableEq, Repr

/-- Kinds of engine operations (11 R255). -/
inductive OpKind where
  | mma | mmac | zero | accld | accst | drain
deriving DecidableEq, Repr

/-- One engine operation, from MEQ or from the task scheduler, to its end (11 R255 to R273, 13 R300, R301). -/
structure EngOp where
  id : Nat := 0
  kind : OpKind := .zero
  core : Nat := 0
  slot : Nat := 0
  asid : Nat := 0
  cls : Nat := 0
  redun : Bool := false
  /-- The start time t0 (12 R291), and the greatest time of its accesses. -/
  t0 : Nat := 0
  tc : Nat := 0
  /-- The command double, or the drain request s; the drain request s + 1. -/
  d0 : Word := 0
  d1 : Word := 0
  /-- Scratchpad operands: the register pairs (11 R260). -/
  aPair : Word × Word := (0, 0)
  bPair : Word × Word := (0, 0)
  /-- The index vector of the permutation select, empty for none (11 R263). -/
  perm : List Nat := []
  tile : Nat := 0
  row : Nat := 0
  v : Nat := 0
  /-- Staged vector operands: A's registers, then B's; or the rows of ACCST. -/
  aRegs : List Vec := []
  bRegs : List Vec := []
  staged : Bool := false
  /-- The physical tile taken (13 R310), whether it has started, the next k-step, the status when ended. -/
  phys : Option Nat := none
  started : Bool := false
  k : Nat := 0
  status : Option Nat := none
  check : Bool := false
  /-- A tile task: the die, the record, the tile index (13 R301). -/
  task : Option (Nat × Nat × Nat) := none
  /-- When it became a candidate (13 R304), and a drain's output lines not yet written: line number, 1,024 bits. -/
  since : Nat := 0
  lines : List (Nat × Nat) := []
  base : Nat := 0
  orphan : Bool := false
  /-- A tile task's descriptor doubles (13 R300), and the page that an operand waits at, if any. -/
  desc : List Word := []
  wait : Option Nat := none
deriving DecidableEq, Repr

/-- A CPQ entry: request, records and index vectors copied at issue, transfer id (09 R218). -/
structure CopyReq where
  rq : List Word := []
  src : Nat := 0
  dst : Nat := 0
  srcIdx : List Nat := []
  dstIdx : List Nat := []
  chan : Nat := 0
  id : Nat := 0
  asid : Nat := 0
  cls : Nat := 0
  t0 : Nat := 0
  slot : Nat := 0
deriving DecidableEq, Repr

/-- A packet in flight (09 R221): its number, destination line, bit mask and data; for a landing handler the offset and
the number of its bytes; the owner of a remote destination; whether a porter has taken it. -/
structure Packet where
  pkt : Nat := 0
  line : Nat := 0
  mask : Nat := 0
  data : Nat := 0
  offset : Nat := 0
  bytes : Nat := 0
  remote : Option Nat := none
  handed : Bool := false
deriving DecidableEq, Repr

/-- An accepted transfer (09 R221): the next packet, its row and first byte, packets not yet complete, the status that ended
it, its greatest time, the page or line it waits at, the SRAM lines it has pinned and not yet finished writing (04 R90). -/
structure Transfer where
  req : CopyReq := {}
  next : Nat := 0
  row : Nat := 0
  byte : Nat := 0
  flying : List Packet := []
  status : Option Nat := none
  tc : Nat := 0
  done : Bool := false
  wait : Option Nat := none
  lines : List Nat := []
deriving DecidableEq, Repr

/-- A CHQ entry: descriptor address and the pushing thread (10 R248), with an id for FENCEB. -/
structure ChainReq where
  id : Nat := 0
  addr : Nat := 0
  asid : Nat := 0
  cls : Nat := 0
  t0 : Nat := 0
  slot : Nat := 0
deriving DecidableEq, Repr

/-- The chain command that runs: descriptor doubles, records read at acceptance, next element, amax, status (10 R250); the
destination line gathered so far (12 R287); the SRAM lines it has pinned and not yet written (04 R90). -/
structure ChainRun where
  req : ChainReq := {}
  d : List Nat := []
  src : Nat := 0
  src2 : Nat := 0
  dst : Nat := 0
  next : Nat := 0
  amax : Nat := 0
  tc : Nat := 0
  line : Nat := 0
  data : Nat := 0
  mask : Nat := 0
  /-- What it waits for, if anything. -/
  wait : Option Nat := none
  lines : List Nat := []
deriving DecidableEq, Repr

/-- A QMAXX round (10 R244): its key, contributions by source core, the local thread, its opening, its result; and of one that
failed while its thread was saved the fault that the thread takes as it resumes, with the detail (10 R245). -/
structure Round where
  asid : Nat := 0
  g : Nat := 0
  tag : Nat := 0
  got : List (Nat × Nat) := []
  slot : Option Nat := none
  contributed : Bool := false
  opened : Nat := 0
  result : Option Nat := none
  failed : Option (Nat × Nat) := none
deriving DecidableEq, Repr

/-- States of a cached copy: leased, exclusive clean, exclusive dirty (12 R285, R287). -/
inductive LineState where
  | s | x | m
deriving DecidableEq, Repr

/-- A line in a cache portion or victim cache (04 R85): data, write time, lease end, poison per word, cut bit (15 R341). `struck`
are the poisoned words whose error struck this copy (14 R324). -/
structure CacheLine where
  line : Nat := 0
  data : Nat := 0
  wts : Nat := 0
  rts : Nat := 0
  st : LineState := .s
  poison : Nat := 0
  used : Nat := 0
  streaming : Bool := false
  cut : Bool := false
  struck : Nat := 0
deriving DecidableEq, Repr

/-- States of a home directory entry (12 R287). -/
inductive HomeState where
  | s | x | m | p
deriving DecidableEq, Repr

/-- A home directory entry (04 R92): owner (a core, or 2^20 + hedge for a victim cache, or 2^21 + an engine), times. -/
structure HomeEntry where
  line : Nat := 0
  st : HomeState := .s
  owner : Nat := 0
  wts : Nat := 0
  rts : Nat := 0
  stamp : Nat := 0
  recalling : Bool := false
deriving DecidableEq, Repr

/-- A line in an L2 slice (04 R81, R92), whose bytes memory shows (log 42): modified since its fill, its last use. -/
structure L2Line where
  line : Nat := 0
  dirty : Bool := false
  used : Nat := 0
deriving DecidableEq, Repr

/-- A home: an L2 slice's directory, a far port's, the host port's, with its high-water time (12 R288). -/
structure Home where
  entries : List HomeEntry := []
  high : Nat := 0
  /-- The lines that an L2 slice caches (04 R81, R92). -/
  l2 : List L2Line := []
deriving DecidableEq, Repr

/-- A TLB entry (04 R107): ASID, virtual page number of 64 KiB, the leaf or large entry, large, last use. -/
structure TlbEntry where
  asid : Nat := 0
  vpn : Nat := 0
  pte : Nat := 0
  large : Bool := false
  used : Nat := 0
deriving DecidableEq, Repr

/-- A block-map cache entry (05 R123): descriptors, number of holders, the first eight as ranked, those whose hint is set. -/
structure MapEntry where
  asid : Nat := 0
  blk : Nat := 0
  descs : List Nat := []
  nholders : Nat := 0
  holders : List Nat := []
  hints : List Nat := []
  used : Nat := 0
deriving DecidableEq, Repr

/-- A block placed in an instruction store (04 R84, 02 R31): where its text begins, and its header's fields. -/
structure Placed where
  asid : Nat := 0
  blk : Nat := 0
  addr : Nat := 0
  count : Nat := 1
  mainCode : Nat := 0
  vecCode : Nat := 0
  descs : List Nat := []
deriving DecidableEq, Repr

/-- What a slot of a deque, spill queue or overflow buffer holds (05 R111). -/
inductive SlotBody where
  | travel (m : Travel) | send (m : SendMsg) | wake (m : Travel)
deriving DecidableEq, Repr

/-- A slot (05 R111): its body, arrival time, the returned bit, and for an overflow buffer the core it was bound to. -/
structure QSlot where
  body : SlotBody
  arrival : Nat := 0
  returned : Bool := false
  core : Nat := 0
deriving DecidableEq, Repr

/-- A ring under a versioned control block (05 R113, R114). `old` holds the entries of the old ring while two are live, with
its own base, capacity and indices. Before Ozine commits a ring the capacity is 2^10 slots with H = 768 (DESIGN CHOICE, log
12), base 0 saying that no DRAM holds it; version 0 of copy 0 is in force, and the old ring counts as drained (DESIGN
CHOICE, log 82). `block` is where the control block stands, 0 for nowhere (log 83). -/
structure Ring (α : Type) where
  entries : List α := []
  old : List α := []
  base : Nat := 0
  log2cap : Nat := 10
  hwm : Nat := 768
  version : Nat := 0
  pending : RingCopy := { base := 0, log2cap := 10, version := 0, hwm := 768 }
  copy : Nat := 0
  head : Nat := 0
  tail : Nat := 0
  signalled : Bool := false
  drained : Bool := true
  block : Nat := 0
  oldBase : Nat := 0
  oldLog2cap : Nat := 10
  oldHead : Nat := 0
  oldTail : Nat := 0
deriving DecidableEq, Repr

/-- An open gathering window (02 R45): entry, ASID, class, the cycle it closes, its members. -/
structure Gather where
  blk : Nat := 0
  off : Nat := 0
  asid : Nat := 0
  cls : Nat := 0
  close : Nat := 0
  members : List Nat := []
deriving DecidableEq, Repr

/-- A solve request (11 R276): destination w register, index vector, the thread. -/
structure Solve where
  wd : Nat := 0
  idx : List Nat := []
  slot : Nat := 0
deriving DecidableEq, Repr

/-- A saved context (02 R51): the thread with its window contents and full bits. -/
structure SavedCtx where
  ctx : Ctx := {}
  /-- The slot whose save area holds it. -/
  slot : Nat := 0
  main : List Word := []
  empty : List Nat := []
  vec : List Vec := []
deriving DecidableEq, Repr

/-- Core-shared registers (03 R63, R70, R72). -/
structure CoreRegs where
  k : Tab Word := []
  w : Tab PermReg := []
  bufs : Tab Buf := []
  kOld : List (Recent Word) := []
  bufOld : List (Recent Buf) := []
deriving DecidableEq, Repr

/-- Queue registers (03 R65): records carry the logical time that their pop observes. `held` are completions and INQ
words held at their source for want of room; `waiters` are threads that pop an empty queue, in issue order (R67). -/
structure CoreQueues where
  meq : List EngOp := []
  msq : List (Word × Nat) := []
  cpq : List CopyReq := []
  chq : List ChainReq := []
  evq : List (Word × Nat) := []
  inq : List (Word × Nat) := []
  tkq : List (Nat × Nat × Nat × Nat) := []
  held : List (Nat × Word × Nat) := []
  waiters : List (Nat × Nat × Nat) := []
deriving DecidableEq, Repr

/-- The copy engine, the chain unit, QMAXX rounds and Hornbeam requests of a core. -/
structure CoreUnits where
  transfers : List Transfer := []
  nextId : Tab Nat := []
  cpdone : Tab Nat := []
  cpTc : Tab Nat := []
  frozen : List Nat := []
  lastChan : Nat := 3
  chain : Option ChainRun := none
  /-- Chain commands that a rollback restored while the unit ran another's; they go before CHQ. -/
  chains : List ChainRun := []
  rounds : List Round := []
  heldRounds : List (Nat × Nat × Nat × Nat × Nat) := []
  dropped : List (Nat × Nat × Nat) := []
  solves : List Solve := []
deriving DecidableEq, Repr

/-- Threads of a core beside its contexts: deque, spill queue, gathering table, block-map cache, instruction store,
porter, pre-emption. -/
structure CoreWork where
  deque : List QSlot := []
  overflow : Ring QSlot := {}
  spill : Ring QSlot := {}
  gathers : List Gather := []
  map : List MapEntry := []
  placed : List Placed := []
  porterQ : List PorterItem := []
  porter : Option PorterItem := none
  /-- Handlers that a rollback restored while the porter ran another's; they go before its queue. -/
  porters : List (PorterItem × SavedCtx) := []
  saved : Tab SavedCtx := []
  preempted : Bool := false
deriving DecidableEq, Repr

/-- Status registers of a core (03 R75) that are not held elsewhere, and its health (14 R327 to R329). `cycle0` is the
package cycle at which CYCLE was 0; `dbgOld` are the values of DBGCTL that writes replaced, newest first, with the cycle of
each write (03 R80). -/
structure CoreCsr where
  lsplit : Nat := 2
  vgroup : Nat := 0
  dbgctl : Nat := 0
  dbgOld : List (Nat × Nat) := []
  shasid : Nat := 0
  cycle0 : Nat := 0
  stopped : Bool := false
  hbFail : Bool := false
  lastHb : Nat := 0
  /-- What its kill left to its restart (14 R329, R332): the cause, and each job's number with the place of its record. -/
  killCause : Nat := 0
  killed : List (Nat × Nat) := []
deriving DecidableEq, Repr

/-- One physical core (01 R15). -/
structure Core where
  /-- The main file: 2,048 entries, zeros left out; the entries whose full bit is 0; entries with bad parity (03 R58). -/
  file : Tab Word := []
  empty : List Nat := []
  badMain : List Nat := []
  vfile : Tab Vec := []
  badVec : List Nat := []
  ctxs : Tab Ctx := []
  lastSlot : Nat := 63
  regs : CoreRegs := {}
  q : CoreQueues := {}
  units : CoreUnits := {}
  work : CoreWork := {}
  csr : CoreCsr := {}
  cache : List CacheLine := []
  tlb : List TlbEntry := []
deriving DecidableEq, Repr

/-- An accumulator tile (03 R73, 13 R310): elements 128 i + j, zeros left out; poisoned elements; the clear bit. -/
structure Tile where
  elems : Tab (BitVec 32) := []
  poison : List Nat := []
  clear : Bool := true
  /-- The greatest completion time of the operations that have ended on it (12 R292). -/
  tc : Nat := 0
deriving DecidableEq, Repr

/-- A class-0 borrowing, or a lower-class scheduler tile's (13 R310): whose, tile number, physical tile, what was
spilled, whether the spill or the refill is under way. -/
structure Borrow where
  asid : Nat := 0
  num : Nat := 0
  phys : Nat := 0
  spilled : Option Tile := none
  busy : Bool := false
  op : Option Nat := none
deriving DecidableEq, Repr

/-- One hedge: its matrix engine, tiles, victim cache, hedge TLB, Hornbeam (11, 04 R88, R107). -/
structure Hedge where
  tiles : Tab Tile := []
  mecheck : Nat := 64
  checks : Nat := 0
  /-- Processing elements (row, column) that compute wrongly: a fault that the script places (11 R265). -/
  badPe : List (Nat × Nat) := []
  slots : Tab Nat := []
  nextSlots : Option (Tab Nat) := none
  pendSlots : Tab Nat × Nat := ([], 0)
  slotVersion : Nat := 0
  slotCopy : Nat := 0
  ops : List EngOp := []
  running : Option Nat := none
  overtaken : List Nat := []
  borrows : List Borrow := []
  lastClass0 : Nat := 0
  nextOp : Nat := 1
  victim : List CacheLine := []
  l2tlb : List TlbEntry := []
  horn : Option Nat := none
  hornLast : Nat := 16
  hornAt : Nat := 0
deriving DecidableEq, Repr

/-- A block-directory entry (05 R122). -/
structure DirBlock where
  asid : Nat := 0
  blk : Nat := 0
  placing : Bool := false
  holders : List Nat := []
  descs : List Nat := []
  image : Nat := 0
deriving DecidableEq, Repr

/-- What an ASID descriptor names (04 R106): the root table, the far window's base and limit. -/
structure AsidEntry where
  root : Nat := 0
  farBase : Nat := 0
  farLimit : Nat := 0
deriving DecidableEq, Repr

/-- States of a record in the scheduler's view (13 R303). -/
inductive RecState where
  | waiting | queued | issuing | running | retiring | done
deriving DecidableEq, Repr

/-- A record in the view (13 R303): its address below 2^48 with its origin's ASID above; its origin (header address, and
ASID and class of header or pusher), class, when it became queued, its tiles or children, what remains, its final status,
and for a retiring one 1 + the successors released once its result is written. -/
structure Rec where
  addr : Nat := 0
  asid : Nat := 0
  header : Nat := 0
  origAsid : Nat := 0
  origCls : Nat := 0
  st : RecState := .waiting
  cls : Nat := 0
  since : Nat := 0
  ts : Nat := 0
  count : Nat := 0
  offered : Nat := 0
  ended : Nat := 0
  outcome : Nat := 0
  status : Nat := 0
  /-- The time of its selection; 0 before it (14 R320). -/
  sel : Nat := 0
  released : Nat := 0
  redun : Bool := false
  desc : List Word := []
  /-- The page, or the task queue, at which the scheduler waits for it, if any; of a releasing record the successor whose address
  has yet to find a place in a ring (05 R117). -/
  wait : Option Nat := none
  awaits : Option Nat := none
deriving DecidableEq, Repr

/-- A root list whose placement has not come to its end (13 R297; 05 R117): its header, class and redundant bit, list and count, the
next root, the page it waits at, the record whose address has yet to find a place in a ring. -/
structure RootRun where
  asid : Nat := 0
  header : Nat := 0
  cls : Nat := 0
  redun : Bool := false
  list : Nat := 0
  count : Nat := 0
  next : Nat := 0
  wait : Option Nat := none
  awaits : Option Nat := none
deriving DecidableEq, Repr

/-- A copy of the task scheduler's configuration (13 R302): version, which copy, class-0 ASID, addresses. -/
structure SchedCfg where
  version : Nat := 0
  copy : Nat := 0
  class0 : Option Nat := none
  queues : List Nat := []
  holds : List Nat := []
deriving DecidableEq, Repr

/-- A copy of Yew's configuration of a die (15 R336). -/
structure YewCfg where
  version : Nat := 0
  copy : Nat := 0
  base : Nat := 0
  size : Nat := 0
  hwm : Nat := 0
  asids : List Nat := []
deriving DecidableEq, Repr

/-- A rename-table entry (05 R124): 0 in service, 1 sealed, 2 lost; the physical core. -/
structure Rename where
  st : Nat := 0
  phys : Nat := 0
deriving DecidableEq, Repr

/-- A holder that Ozine removes from a block's entry once every cached copy's invalidation is acknowledged (02 R33). -/
structure Removal where
  asid : Nat := 0
  blk : Nat := 0
  holder : Nat := 0
  sent : Nat := 0
  acked : Nat := 0
deriving DecidableEq, Repr

/-- The block directory's configuration (05 R122): a copy under R109. -/
structure DirCfg where
  version : Nat := 0
  copy : Nat := 0
  base : Nat := 0
  log2 : Nat := 4
deriving DecidableEq, Repr

/-- A shootdown under way (04 R108). -/
structure Shoot where
  asid : Nat := 0
  va : Nat := 0
  sent : Nat := 0
  acked : Nat := 0
deriving DecidableEq, Repr

/-- One die: tables, homes' joiners, scheduler, Yew, Boxwood. The overflow buffer's high-water mark at reset is 3,840 slots
(DESIGN CHOICE, log 12). Version 0 and copy 0 of every versioned block are in force at reset (DESIGN CHOICE, log 82). `walks`
are the page walks asked for, in arrival order: the first 32 run (04 R107). -/
structure Die where
  rename : Tab Rename := []
  pendRename : Tab Rename := []
  renameVersion : Nat := 0
  blocks : List DirBlock := []
  dir : DirCfg := {}
  pendDir : DirCfg := {}
  removals : List Removal := []
  steal : Tab Nat := []
  asids : Tab AsidEntry := []
  hold : List Travel := []
  overflow : Ring QSlot := { log2cap := 12, hwm := 3840 }
  tasks : Tab (Ring Nat) := []
  holds : Tab (Ring Nat) := []
  sched : SchedCfg := {}
  pendSched : SchedCfg := {}
  recs : List Rec := []
  roots : List RootRun := []
  lastSelect : Nat := 0
  walks : List (Nat × Nat) := []
  shoots : List Shoot := []
  sparefree : Nat := 32
  errlog : List (Word × Word) := []
  /-- Trap records that the Boxwood cores have accepted and not yet served (08 R193, 17 R376). -/
  traps : List TrapRec := []
  stopped : Bool := false
  clockDown : Nat := 0
  yew : YewCfg := {}
  pendYew : YewCfg := {}
  /-- Yew has told Ozine that the store is past its high-water mark (15 R343). -/
  yewSignalled : Bool := false
  joiners : List (Nat × Nat × Nat × Nat) := []
deriving DecidableEq, Repr

/-- A fault-record entry: four doubles (14 R320). -/
structure FaultRec where
  d0 : Nat := 0
  d1 : Nat := 0
  d2 : Nat := 0
  d3 : Nat := 0
deriving DecidableEq, Repr

/-- States of a job (17 R402). -/
inductive JobState where
  | running | stopped | ended
deriving DecidableEq, Repr

/-- A job (17 R371, R375): what its launch on this package named, and its fault record. -/
structure Job where
  num : Nat := 0
  asids : List Nat := []
  chip : Nat := 0
  chips : Nat := 1
  cls : Nat := 0
  header : Nat := 0
  policy : Nat := 0
  recovery : Nat := 0
  recoveryEntry : Nat := 0
  redun : Bool := false
  ring : Nat := 0
  log2ring : Nat := 6
  faults : List FaultRec := []
  written : Nat := 0
  kept : List Travel := []
  st : JobState := .running
  /-- The dies whose routers discard the job's messages, and how many were discarded (02 R44). -/
  discarding : List Nat := []
  discarded : Nat := 0
  joined : List Nat := []
  started : Bool := false
  digests : Tab (Word × Word) := []
  allocs : List (Nat × Nat) := []
  features : Nat := 0
  /-- What its blocks' `.place` and `.colocate` directives ask (02 R35): block and core, block and block. -/
  places : List (Nat × Nat) := []
  colocs : List (Nat × Nat) := []
  /-- The launch command of a join that chip 0 has not yet answered. -/
  cmd : Option HostCmd := none
deriving DecidableEq, Repr

/-- The part of a snapshot that a participant's cut captured (15 R339). -/
structure CoreCut where
  core : Nat := 0
  /-- The logical core, without the chip number. -/
  name : Nat := 0
  image : Core := {}
deriving DecidableEq, Repr

/-- What the cut of a task scheduler captured: its records, its root lists under way, and the addresses in its rings by class. -/
structure SchedCut where
  recs : List Rec := []
  roots : List RootRun := []
  tasks : Tab (List Nat) := []
  holds : Tab (List Nat) := []
deriving DecidableEq, Repr

/-- A snapshot (15 R346): status 0 open, 1 finished, 2 failed, 3 released; cut cores and hedges; pages copied since the
cut (base, bytes, poisoned words), pages not yet copied of DRAM (by base) and SRAM (by number), pinned pages not yet
copied, leaves that Yew has yet to rewrite (die, ASID, address), hedges to be cut at their next k-step boundary;
channel records as the arrivals that redeliver them, in acceptance order, the greatest time recorded, pages still shared. -/
structure Snap where
  job : Nat := 0
  tag : Nat := 0
  status : Nat := 0
  parent : Option Nat := none
  cores : List CoreCut := []
  hedges : Tab Hedge := []
  scheds : Tab SchedCut := []
  pages : List (Nat × Memory × Tab Bool) := []
  uncopied : List Nat := []
  shared : List Nat := []
  pinned : List Nat := []
  wantHedges : List Nat := []
  leaves : List (Nat × Nat × Nat) := []
  channel : List Instr := []
  opened : Nat := 0
  finished : Nat := 0
  maxTime : Nat := 0
  wantCores : List Nat := []
  used : Nat := 0
deriving DecidableEq, Repr

/-- A request for a snapshot that Yew holds (08 R195): job, tag. -/
structure SnapReq where
  job : Nat := 0
  tag : Nat := 0
deriving DecidableEq, Repr

/-- The message counts of 15 R345, of a job on this package: sent and accepted with cut bit 0, and with 1. -/
structure Counts where
  sent0 : Nat := 0
  got0 : Nat := 0
  sent1 : Nat := 0
  got1 : Nat := 0
deriving DecidableEq, Repr

/-- Yew of the package: snapshots, held requests, the message counts by job. -/
structure Yew where
  snaps : List Snap := []
  held : List SnapReq := []
  counts : Tab Counts := []
deriving DecidableEq, Repr

/-- A hardware queue slot (17 R374): the function, mapped or being paged, the ring's and completion ring's capabilities,
its indices, generations per object type, frozen. -/
structure HQueue where
  fn : Nat := 0
  mapped : Bool := false
  frozen : Bool := false
  cmdCap : Nat := 0
  cplCap : Nat := 0
  saveCap : Nat := 0
  head : Nat := 0
  tail : Nat := 0
  cplTail : Nat := 0
  gens : Tab Nat := []
  wake : Bool := false
deriving DecidableEq, Repr

/-- A host function (17 R367): frozen, windows opened to it, ASIDs open to it. -/
structure HostFn where
  frozen : Bool := false
  windows : List (Nat × Nat) := []
  asids : List Nat := []
deriving DecidableEq, Repr

/-- A copy of the identity key's next unused leaf in the reserved region of the storage device: its sequence number, the end of the run
reserved, and whether its own check holds (17 R379). -/
structure LeafCopy where
  seq : Nat := 0
  end_ : Nat := 0
  good : Bool := true
deriving DecidableEq, Repr

/-- A stop command that waits for the other chips of its job (17 R402). -/
structure PendingStop where
  cmd : HostCmd := { die := 0, queue := 0, d := [] }
  job : Nat := 0
  chips : List Nat := []
deriving DecidableEq, Repr

/-- The host side and firmware of the package (17). -/
structure Hostside where
  queues : Tab HQueue := []
  fns : Tab HostFn := []
  drvfeat : Nat := 0
  bootstat : Nat := 0
  halted : Bool := false
  cxl : Bool := false
  fver : Nat := 0
  keyDraw : Nat := 0
  /-- The identity key (17 R379): the next leaf, the two copies in storage, whether its helper data stands there, and how often Boxwood has
  enrolled anew. -/
  leaf : Nat := 0
  leafA : LeafCopy := {}
  leafB : LeafCopy := {}
  helper : Bool := true
  enrolled : Nat := 0
  stops : List PendingStop := []
  answers : List (Nat × Nat × Word × Nat) := []
  bar2 : List (Nat × Nat × Option Nat) := []
  logs : List (Nat × List (BitVec 8)) := []
  farWindows : Tab (Nat × Bool) := []
  links : Tab Word := []
  failedLinks : List Link := []
  /-- The boot image in force (17 R378), and the placed-image cache (17 R383). -/
  image : Option BootImage := none
  placedImages : List PlacedImage := []
  crc : List (Link × Nat) := []
  signals : List (Nat × Nat × Nat) := []
deriving DecidableEq, Repr

/-- A message that leaves the package for another chip of a job (17 R371): the chip and the step that it asks for there. -/
structure OutMsg where
  chip : Nat := 0
  msg : Instr := .nop
deriving DecidableEq, Repr

/-- A turn that an outside party or an order left open by the spec takes next (log 4): a step of an outside agent, the
i-th message in flight, the i-th timed step, an issue of a slot, an error striking a word, a register entry, a word of a
cached copy, a processing element, a home directory entry (14 R324, R333, R398), a word of a snapshot's store (15 R352), a copy of the leaf
state (0, 1) or the helper data (2) in storage (17 R379), a corrected error (04 R82). -/
inductive Turn where
  | event (i : Instr)
  | message (i : Nat)
  | timer (i : Nat)
  | issue (core slot : Nat)
  | poison (word : Nat) (origin : Bool)
  | badMain (core entry : Nat)
  | badVec (core entry : Nat)
  | badLine (core word : Nat)
  | badPe (hedge row col : Nat)
  | badEntry (line : Nat)
  | badStore (snap word : Nat)
  | badRegion (part : Nat)
  | corrected (source die hedge unit addr : Nat)
deriving DecidableEq, Repr

/-- How a word is placed in the bundle that issues it (07 R152, R153). -/
inductive Slotting where
  | first | second | lone0 | lone1
deriving DecidableEq, Repr

/-- The issue in progress: core, slot, the word's place in its bundle, its S bit, its bits; for a paired bundle the core
as it stood before the bundle, from which both words read; the word that holds the transfer comes last. -/
structure Issue where
  core : Nat := 0
  slot : Nat := 0
  place : Slotting := .lone0
  mark : Bool := false
  word : Nat := 0
  view : Option Core := none
  /-- How the word ended: 0 not yet, 1 took effect, 2 waits to issue again, 3 faulted, with four times the code added; of a
  fault its rank (07 R171), its detail, and whether poison lies in the core itself. -/
  res : Nat := 0
  rank : Nat := 0
  detail : Nat := 0
  origin : Bool := false
deriving DecidableEq, Repr

/-- The package. -/
structure State where
  now : Nat := 0
  mem : Memory := []
  /-- Poison marks: word numbers (address / 8), with the origin bit (04 R82, 14 R324). -/
  poison : Tab Bool := []
  /-- Pinned lines of SRAMs (04 R90), times of lines homed at an SRAM (12 R284), homes of the rest. -/
  pins : List Nat := []
  sramT : Tab (Nat × Nat) := []
  homes : Tab Home := []
  cores : Tab Core := []
  hedges : Tab Hedge := []
  dies : Tab Die := []
  jobs : List Job := []
  yew : Yew := {}
  host : Hostside := {}
  /-- Messages in flight and timed steps, oldest first; the script of turns; messages to other packages. -/
  net : List Instr := []
  timers : List (Nat × Instr) := []
  script : List Turn := []
  outbox : List OutMsg := []
  iss : Issue := {}
  /-- How many free values have been taken (log 5). -/
  free : Nat := 0
  lastCore : Nat := 0
deriving DecidableEq, Repr

/-- The package right after reset: every field at the value its structure gives (03 R54, R75; 04 R81, R83). -/
def State.reset : State := {}

end Sys2Proof.Machine
end

