-- ==== Sys2Proof/Machine/Ops.lean ====
section
/-! DEFINITION. The named operations: memory, names of cores and lines, access to the parts of the state, posting of steps,
the fault record, taking a fault and returning from one (14 R317). -/

namespace Sys2Proof.Machine

/-! ### Memory -/

/-- The byte at an address; an unlisted one is 0. -/
def Memory.byte (m : Memory) (a : Nat) : BitVec 8 := ((List.find? (fun c => c.1 == a) m).map Prod.snd).getD 0

/-- The little-endian number in the `n` bytes at an address (00 R4). -/
def Memory.read (m : Memory) (a n : Nat) : Nat :=
  (List.filter (fun c => a ≤ c.1 && c.1 < a + n) m).foldl (fun acc c => acc + c.2.toNat * 256 ^ (c.1 - a)) 0

/-- The cells of the `n` low bytes of a number from an address on, zero bytes left out. -/
def cellsOf (a n v : Nat) : Memory :=
  (List.range n).filterMap fun i =>
    if BitVec.ofNat 8 (v / 256 ^ i) = 0#8 then none else some (a + i, BitVec.ofNat 8 (v / 256 ^ i))

/-- Memory with the `n` low bytes of a number written at an address. -/
def Memory.write (m : Memory) (a n v : Nat) : Memory :=
  List.filter (fun c => c.1 < a) m ++ (cellsOf a n v ++ List.filter (fun c => a + n ≤ c.1) m)

/-- The canonical form: addresses strictly rising, no zero byte listed. -/
def Memory.wf (m : Memory) : Bool :=
  decide (List.Pairwise (fun a b : Host.Cell => a.1 < b.1) m) && m.all fun c => c.2 != 0#8

/-- The bits of a 128-byte line. -/
abbrev lineBits : Nat := 1024

/-- The `n` low bits set. -/
abbrev ones (n : Nat) : Nat := 2 ^ n - 1

/-- A number with the bits of a mask replaced. -/
def blend (old new mask : Nat) : Nat := (old &&& (old ^^^ mask)) ||| (new &&& mask)

/-- Which 64-bit words of a line a bit mask touches, and which it covers. -/
def wordsTouched (mask : Nat) : List Nat := (List.range 16).filter fun w => mask / 2 ^ (64 * w) % 2 ^ 64 != 0
def wordsCovered (mask : Nat) : List Nat := (List.range 16).filter fun w => mask / 2 ^ (64 * w) % 2 ^ 64 == 2 ^ 64 - 1

/-! ### Numbers of the memories without a physical address (log 2) -/

def sramAt (core off : Nat) : Nat := 2 ^ 48 + core / 8 * 2 ^ 20 + off
def hedgeAt (h off : Nat) : Nat := 2 ^ 49 + h * 2 ^ 21 + off
def istoreAt (core off : Nat) : Nat := 2 ^ 50 + core / 8 * 2 ^ 16 + off

/-- A line homed at the SRAM that holds it (12 R284). -/
def isSramLine (line : Nat) : Bool := 2 ^ 41 ≤ line

/-! ### Core ids (01 R20 to R22) -/

def chipOf (id : Nat) : Nat := id / 65536 % 256
def dieOf (id : Nat) : Nat := id / 8192 % 8
def hedgeOf (id : Nat) : Nat := id / 256 % 32
def coreOf (id : Nat) : Nat := id / 8 % 32
/-- The hedge's number in the package, and the core key of a hedge's physical core. -/
def hedgeKey (id : Nat) : Nat := id / 256 % 256
def coreKey (die hedge core : Nat) : Nat := die * 8192 + hedge * 256 + core * 8

/-- Mesh coordinates of a logical core (01 R22). -/
def meshX (id : Nat) : Nat := 4 * (hedgeOf id % 8) + coreOf id % 4
def meshY (id : Nat) : Nat := 4 * (hedgeOf id / 8) + coreOf id / 4

/-- |a - b|. -/
def dist (a b : Nat) : Nat := (a - b) + (b - a)

/-- Distance of two dies in the grid of 01 R11: two rows of four. -/
def dieDist (a b : Nat) : Nat := dist (a % 4) (b % 4) + dist (a / 4) (b / 4)

/-- The rank of a holder as seen from a core (02 R38): own die, package, other chips; then distances, but of holders on
other chips; then the id. -/
def rankOf (own holder : Nat) : Nat :=
  let mesh := dist (meshX own) (meshX holder) + dist (meshY own) (meshY holder)
  if chipOf own != chipOf holder then 128 * 256 * 2 ^ 24 + holder
  else if dieOf own != dieOf holder then ((64 + dieDist (dieOf own) (dieOf holder)) * 256 + mesh) * 2 ^ 24 + holder
  else mesh * 2 ^ 24 + holder

/-! ### Ports and links of the dies (01 R11, R18, R19; 17 R370) -/

/-- A die has a die-to-die port to its neighbours in its row and column, and to no other die. -/
def neighbours (a b : Nat) : Bool := a < 8 && b < 8 && dieDist a b == 1

/-- The die that carries a far-memory port, and an Ibyel link: the end dies carry two links, the middle dies one, in
ascending order. -/
def farDie (port : Nat) : Nat := [1, 2, 5, 6].getD port 0
def ibyelDie (n : Nat) : Nat := [0, 0, 1, 2, 3, 3, 4, 4, 5, 6, 7, 7].getD n 0

/-- The links that the package has. -/
def linkExists (l : Link) : Bool :=
  match l with
  | .mesh d => d < 8
  | .dieToDie a b => neighbours a b
  | .ibyel n => n < 12

/-- A number inserted into a list that rises by a key. -/
def insertBy {α : Type} (key : α → Nat) (x : α) : List α → List α
  | [] => [x]
  | y :: t => if key x < key y then x :: y :: t else y :: insertBy key x t

/-- A list sorted by a key, equal keys in their order. -/
def sortBy {α : Type} (key : α → Nat) (l : List α) : List α := l.foldl (fun acc x => insertBy key x acc) []

/-! ### Parts of the state -/

def State.core (s : State) (c : Nat) : Core := Tab.getD s.cores c {}
def State.setCore (s : State) (c : Nat) (k : Core) : State := { s with cores := Tab.put s.cores c k }
def State.modCore (s : State) (c : Nat) (f : Core → Core) : State := s.setCore c (f (s.core c))
def State.hedge (s : State) (h : Nat) : Hedge := Tab.getD s.hedges h {}
def State.setHedge (s : State) (h : Nat) (k : Hedge) : State := { s with hedges := Tab.put s.hedges h k }
def State.modHedge (s : State) (h : Nat) (f : Hedge → Hedge) : State := s.setHedge h (f (s.hedge h))
def State.die (s : State) (d : Nat) : Die := Tab.getD s.dies d {}
def State.setDie (s : State) (d : Nat) (k : Die) : State := { s with dies := Tab.put s.dies d k }
def State.modDie (s : State) (d : Nat) (f : Die → Die) : State := s.setDie d (f (s.die d))

/-- The porter's fixed windows (03 R58). -/
def porterWin : Win := { mainBase := 2016, mainCode := 3, vecBase := 252, vecCode := 1 }

def Core.ctx (k : Core) (slot : Nat) : Ctx := Tab.getD k.ctxs slot {}
def Core.setCtx (k : Core) (slot : Nat) (x : Ctx) : Core := { k with ctxs := Tab.put k.ctxs slot x }
def Core.modCtx (k : Core) (slot : Nat) (f : Ctx → Ctx) : Core := k.setCtx slot (f (k.ctx slot))
def State.ctx (s : State) (c slot : Nat) : Ctx := (s.core c).ctx slot
def State.modCtx (s : State) (c slot : Nat) (f : Ctx → Ctx) : State := s.modCore c fun k => k.modCtx slot f

/-- The byte that memory holds at an address: the newest value, which a modified copy's owner shares with its home. -/
def State.byte (s : State) (a : Nat) : BitVec 8 := s.mem.byte a

/-- A step posted behind the messages in flight, or due after some cycles. -/
def State.post (s : State) (i : Instr) : State := { s with net := s.net ++ [i] }
def State.after (s : State) (cycles : Nat) (i : Instr) : State :=
  { s with timers := insertBy Prod.fst (s.now + cycles, i) s.timers }

/-- A signal to Ozine: what kind, about what, in which space (R44, R105, R114, R343). -/
def State.signal (s : State) (kind a b : Nat) : State :=
  { s with host := { s.host with signals := s.host.signals ++ [(kind, a, b)] } }

/-- The next free choice, and the state with it taken (log 5). -/
def State.takeBit (s : State) : Bool × State := (Config.freeBit s.free, { s with free := s.free + 1 })
def State.takeNat (s : State) : Nat × State := (Config.freeValue s.free, { s with free := s.free + 1 })

/-! ### Jobs and logical names -/

/-- The job of an ASID on this package. -/
def State.jobOf (s : State) (asid : Nat) : Option Job := s.jobs.find? fun j => j.st != .ended && j.asids.contains asid
def State.job (s : State) (num : Nat) : Option Job := s.jobs.find? fun j => j.st != .ended && j.num == num
def State.modJob (s : State) (num : Nat) (f : Job → Job) : State :=
  { s with jobs := s.jobs.map fun j => if j.st != .ended && j.num == num then f j else j }
/-- The chip number of this package in an ASID's job, and the job's chip count (01 R20, R21). -/
def State.chip (s : State) (asid : Nat) : Nat := ((s.jobOf asid).map Job.chip).getD 0
def State.chips (s : State) (asid : Nat) : Nat := ((s.jobOf asid).map Job.chips).getD 1
/-- A job that is stopped, or whose messages the routers discard (02 R44, 17 R402). -/
def State.jobStopped (s : State) (asid : Nat) : Bool := ((s.jobOf asid).map fun j => j.st == .stopped).getD false
def State.jobDiscards (s : State) (die asid : Nat) : Bool := ((s.jobOf asid).map fun j => j.discarding.contains die).getD false

/-- The routers of a die discard the messages of an ended job, and of one stopped by the die's full overflow buffer (02
R44, 17 R402). -/
def State.dropsFor (s : State) (die asid : Nat) : Bool :=
  s.jobDiscards die asid || ((s.jobOf asid).isNone && s.jobs.any fun j => j.asids.contains asid)

/-- The link toward a chip of a job: the one whose peer is the next hop that the job's chip map names (17 R370, R371). -/
def State.linkTo (s : State) (j : Job) (chip : Nat) : Option Nat :=
  (Tab.get? j.digests chip).bind fun e => (s.host.links.find? fun l => l.2 == e.2).map Prod.fst

/-- The link by which an ASID's messages leave for another chip has failed (14 R325). -/
def State.linkDown (s : State) (asid id : Nat) : Bool :=
  (s.jobOf asid).any fun j => (s.linkTo j (chipOf id)).any fun n => s.host.failedLinks.contains (.ibyel n)

/-- Validity of a logical core id (01 R21). -/
def State.validCore (s : State) (asid id : Nat) : Bool :=
  id % 8 == 0 && coreOf id ≤ 15 && id < 2 ^ 24 && chipOf id < s.chips asid

/-- The committed rename entry of a logical core of this package (05 R124). -/
def State.rename (s : State) (id : Nat) : Rename :=
  Tab.getD (s.die (dieOf id)).rename (16 * hedgeOf id + coreOf id) { st := 0, phys := coreOf id }

/-- The physical core that holds a logical name (01 R25). -/
def State.phys (s : State) (id : Nat) : Nat := coreKey (dieOf id) (hedgeOf id) (s.rename id).phys

/-- The logical name of a physical core of this package, without the chip number. -/
def State.logical (s : State) (c : Nat) : Nat :=
  match (List.range 16).find? fun n => s.phys (coreKey (dieOf c) (hedgeOf c) n) == c with
  | some n => coreKey (dieOf c) (hedgeOf c) n
  | none => c % 65536

/-- The logical core id of a physical core as a job numbers it (01 R20). -/
def State.coreId (s : State) (asid c : Nat) : Nat := s.chip asid * 65536 + s.logical c

/-- The thread id of a context (03 R76): both contexts of a pair report the leader's (08 R199). -/
def State.tid (s : State) (c slot : Nat) : Nat :=
  let x := s.ctx c slot
  let lead := if bit x.tstat 2 then x.pair.getD slot else slot
  s.coreId x.asid c * 64 + lead

/-! ### Program addresses -/

/-- pa(x, y) (08 R172). -/
def pa (blk off : Nat) : Nat := blk % 2 ^ 24 * 512 + off % 512

/-- The block that a core's instruction store holds for an ASID (04 R84). -/
def Core.placedBlock (k : Core) (asid blk : Nat) : Option Placed :=
  k.work.placed.find? fun p => p.asid == asid && p.blk == blk

/-- count(b) of a block held on the core (02 R31). -/
def Core.blockCount (k : Core) (asid blk : Nat) : Nat := ((k.placedBlock asid blk).map Placed.count).getD 0

/-- An entry descriptor's fields (02 R31). -/
def descLive (d : Nat) : Nat := fld d 16 16
def descMasks (d : Nat) : Nat := fld d 9 7
def descOff (d : Nat) : Nat := fld d 0 9

/-- The descriptor with an offset, among a block's. -/
def entryAt (descs : List Nat) (off : Nat) : Option Nat := descs.find? fun d => descOff d == off

/-- The bundle at a program address, from the instruction store (04 R84). -/
def State.bundle (s : State) (c : Nat) (p : Placed) (off : Nat) : Nat :=
  s.mem.read (istoreAt c (p.addr + 8 * off)) 8

/-! ### The fault record (14 R320) -/

/-- The leaf entry that maps a virtual address, by a walk that changes nothing (04 R103, R104); none when absent. -/
def walkPure (m : Memory) (root va : Nat) : Option (Nat × Bool) :=
  let e0 := m.read (root + 8 * fld va 34 14) 8
  if fld e0 61 3 != 1 then none else
  let e1 := m.read (fld e0 16 32 * 65536 + 8 * fld va 21 13) 8
  if fld e1 61 3 == 0 then none
  else if bit e1 60 then some (e1, true)
  else
    let e2 := m.read (fld e1 16 32 * 65536 + 8 * fld va 16 5) 8
    if fld e2 61 3 == 0 then none else some (e2, false)

/-- The physical address under a leaf or large entry. -/
def pteAddr (pte : Nat) (large : Bool) (va : Nat) : Nat :=
  if large then fld pte 21 27 * 2 ^ 21 + va % 2 ^ 21 else fld pte 16 32 * 65536 + va % 65536

/-- The physical address of a virtual one of an ASID, as Ozine sees it on a die. -/
def State.ozineAddr (s : State) (die asid va : Nat) : Option Nat :=
  match Tab.get? (s.die die).asids asid with
  | none => none
  | some e => (walkPure s.mem e.root va).map fun w => pteAddr w.1 w.2 va

/-- A fault-record entry's doubles (14 R320). -/
def faultRec (kind asid tid d1 d2 d3 : Nat) : FaultRec :=
  { d0 := kind * 2 ^ 60 + asid * 2 ^ 30 + tid, d1 := d1, d2 := d2, d3 := d3 }

/-- Boxwood enters a record in a job's fault record: whole, then double 1 of the head (14 R320). -/
def State.record (s : State) (num : Nat) (r : FaultRec) : State :=
  match s.job num with
  | none => s
  | some j =>
    let s := s.modJob num fun j => { j with faults := j.faults ++ [r], written := j.written + 1 }
    match s.ozineAddr 0 (j.asids.headD 0) j.ring with
    | none => s
    | some p =>
      let at_ := p + 64 + 32 * (j.written % 2 ^ j.log2ring)
      let m := (((s.mem.write at_ 8 r.d0).write (at_ + 8) 8 r.d1).write (at_ + 16) 8 r.d2).write (at_ + 24) 8 r.d3
      { s with mem := (m.write p 8 j.log2ring).write (p + 8) 8 (j.written + 1) }

/-- The same, for the job of an ASID. -/
def State.recordFor (s : State) (asid : Nat) (r : FaultRec) : State :=
  match s.jobOf asid with
  | some j => s.record j.num r
  | none => s

/-! ### Gangs (02 R46) -/

/-- A member leaves its gang for good: its GANG flag clears, and the others go on without it (log 14). -/
def Core.leaveGang (k : Core) (slot : Nat) : Core :=
  let rest := (k.ctx slot).gang.filter (· != slot)
  let k := k.modCtx slot fun x => { x with gang := [], tstat := x.tstat &&& (x.tstat ^^^ 8) }
  rest.foldl (fun k n => k.modCtx n fun x => { x with gang := rest }) k

/-! ### Taking a fault -/

/-- The fault codes of 14 R316. -/
abbrev fcIllegal : Nat := 0x01
abbrev fcPrivilege : Nat := 0x02
abbrev fcWindow : Nat := 0x03
abbrev fcHazard : Nat := 0x04
abbrev fcEntry : Nat := 0x05
abbrev fcCoreId : Nat := 0x06
abbrev fcBufRec : Nat := 0x07
abbrev fcAddrSpace : Nat := 0x08
abbrev fcBounds : Nat := 0x09
abbrev fcTranslation : Nat := 0x0A
abbrev fcAlignment : Nat := 0x0B
abbrev fcProtection : Nat := 0x0C
abbrev fcPage : Nat := 0x0D
abbrev fcPoison : Nat := 0x0E
abbrev fcRemote : Nat := 0x0F
abbrev fcMismatch : Nat := 0x10
abbrev fcCopyReq : Nat := 0x11
abbrev fcPermInvalid : Nat := 0x12
abbrev fcPermValidity : Nat := 0x13
abbrev fcOperand : Nat := 0x14
abbrev fcTimeout : Nat := 0x15
abbrev fcFormat : Nat := 0x16
abbrev fcParity : Nat := 0x17

/-- The status with which a landing handler's fault ends its transfer (14 R333). -/
def handlerStatus (code : Nat) : Nat :=
  if code == fcPoison then 0x01 else if code == fcTranslation then 0x02
  else if code == fcBounds then 0x04 else 0x03

/-- The end of a landing packet, with a status, told to the core that issued its transfer. -/
def State.postLanding (s : State) (asid : Nat) (l : LandFrom) (status : Nat) : State :=
  let i := Instr.copyPacketLanding (s.phys l.core) l.chan l.id (l.pkt + 2 ^ 32 * status)
  if chipOf l.core = s.chip asid then s.post i else { s with outbox := s.outbox ++ [OutMsg.mk (chipOf l.core) i] }

/-- A step posted unless it already waits. -/
def State.postOnce (s : State) (i : Instr) : State := if s.net.contains i then s else s.post i

/-- The context without the load of an instruction's own that has not come to its end: a BFLD's or PLOAD's. -/
def Ctx.dropLoads (x : Ctx) : Ctx := { x with out := x.out.filter fun p => !(p.kind == .bfld && p.dest == .discard) }

/-- The progress of the two words of a paired bundle, exchanged; and with word 0's in its place. -/
def Ctx.swap (x : Ctx) : Ctx :=
  { x with phase := x.phase1, latch := x.latch1, phase1 := x.phase, latch1 := x.latch, swapped := !x.swapped }
def Ctx.unswap (x : Ctx) : Ctx := if x.swapped then x.swap else x

/-- The context that takes a fault: FCODE, FADDR, frozen (14 R317 steps 1 to 3). `second` is bit [8] of FCODE. Entries that the
instruction has popped stay with it for its reissue (log 8). -/
def Ctx.takeFault (x : Ctx) (code : Nat) (second : Bool) : Ctx :=
  let x := x.dropLoads.unswap
  { x with fcode := code + (if second then 256 else 0), faddr := pa x.pc.blk x.pc.off, status := .frozen,
           phase := 0, phase1 := 0, posted := none, badPages := [] }

/-- A thread takes a fault (14 R316 to R318): its context freezes, its partner with it, it leaves its gang, a kind-0
record goes to Boxwood, and with the job's fault policy 0 Ozine ends the job. A register-parity fault, and a mismatch of a
redundant pair, kill the core (R324, R326); `origin` says the same of a poison fault. -/
def State.threadFault (s : State) (c slot code detail : Nat) (second origin : Bool) : State :=
  let x := s.ctx c slot
  let rec0 := faultRec 0 x.asid (s.tid c slot)
    ((code + (if second then 256 else 0)) * 2 ^ 48 + pa x.pc.blk x.pc.off) detail x.pt
  let s := s.modCtx c slot fun x => x.takeFault code second
  let s := match x.pair with
    | some p => s.modCtx c p fun y => { y.takeFault code second with faddr := pa x.pc.blk x.pc.off }
    | none => s
  let s := s.modCore c fun k => k.leaveGang slot
  let s := s.recordFor x.asid rec0
  let s := match s.jobOf x.asid with
    | some j => if j.policy == 0 then
        s.post (.stop { die := 0, queue := 64, d := [BitVec.ofNat 64 (2 * 2 ^ 56 + x.asid), 0] }) else s
    | none => s
  if code == fcParity || origin then s.post (.coreKill c 1)
  else if code == fcMismatch then s.post (.coreKill c 3) else s

/-- A porter handler takes a fault (14 R333): a kind-6 record; a landing packet's transfer ends with a status; the porter
moves on to its next item. -/
def State.porterFault (s : State) (c code detail : Nat) (second origin : Bool) : State :=
  let x := s.ctx c 63
  let item := (s.core c).work.porter
  let s := s.recordFor x.asid (faultRec 6 x.asid (s.tid c 63)
    ((code + (if second then 256 else 0)) * 2 ^ 48 + pa x.pc.blk x.pc.off) detail x.pt)
  let s := s.modCore c fun k =>
    { k.setCtx 63 {} with work := { k.work with porter := none } }
  let s := match item.bind PorterItem.land with
    | some l => s.postLanding x.asid l (handlerStatus code)
    | none => s
  let s := s.post (.porterHandlerStart c)
  if code == fcParity || origin then s.post (.coreKill c 1) else s

/-- A fault of whatever thread a slot holds. -/
def State.takeFault (s : State) (c slot code detail : Nat) (second origin : Bool) : State :=
  if slot == 63 then s.porterFault c code detail second origin else s.threadFault c slot code detail second origin

/-- The return from a fault by reissue: Ozine releases the frozen thread at the faulting word (14 R317). -/
def Ctx.reissue (x : Ctx) : Ctx :=
  { x with status := .ready, pc := { x.pc with word := x.fcode / 256 % 2 } }

end Sys2Proof.Machine
end

