-- ==== Sys2Proof/Machine/Flags.lean ====
section
/-! DEFINITION. The flags of TSTAT (03 R77), the last results (03 R62), and what CSRRD reads (03 R75 to R80). -/

namespace Sys2Proof.Machine

/-- A flag of TSTAT set to a value. -/
def Ctx.setFlag (x : Ctx) (b : Nat) (v : Bool) : Ctx :=
  let cleared := x.tstat &&& (x.tstat ^^^ 2 ^ b)
  { x with tstat := if v then cleared ||| 2 ^ b else cleared }

/-- NONE: the last VCOMPRESS found an empty mask (10 R238). -/
def Ctx.setNone (x : Ctx) (v : Bool) : Ctx := x.setFlag 8 v

/-- A C-class result goes to lc, an A-class result to la (03 R62). -/
def Ctx.lastResult (x : Ctx) (cClass : Bool) (v : Word) : Ctx :=
  if cClass then { x with lc := v } else { x with la := v }

/-- WINDOW (03 R78); of the porter its fixed windows, whatever the block of its handler declares (R58, 08 R186). -/
def Win.word (w : Win) : Nat := w.vecBase * 2 ^ 24 + w.vecCode * 2 ^ 16 + w.mainBase * 2 ^ 4 + w.mainCode

/-- CYCLE of a core: cycles since its last reset (03 R75). -/
def State.cycle (s : State) (c : Nat) : Nat := s.now - (s.core c).csr.cycle0

/-- CPDONE of a channel (05 R120). -/
def Core.cpdone (k : Core) (ch : Nat) : Nat := Tab.getD k.units.cpdone ch 0

/-- FEAT0 and FEAT1 (17 R381), QDEPTH (03 R75). -/
def feat0 : Nat := 0x040203FF
def feat1 : Nat := 0x02400040_0C102008
def qdepth : Nat := 0x0808102004100808

/-- The value of a status register (03 R75). -/
def State.csr (s : State) (c slot n : Nat) : Nat :=
  let k := s.core c
  let x := k.ctx slot
  match n with
  | 0x000 => s.tid c slot
  | 0x001 => x.pt
  | 0x002 => x.asid
  | 0x003 => x.cls
  | 0x004 => x.link
  | 0x005 => x.tstat
  | 0x006 => if slot = 63 then porterWin.word else x.win.word
  | 0x007 => x.fcode
  | 0x008 => x.faddr
  | 0x100 => k.csr.lsplit
  | 0x101 => k.csr.vgroup
  | 0x102 => k.csr.dbgctl
  | 0x103 => k.csr.shasid
  | 0x104 => k.cpdone 0
  | 0x105 => k.cpdone 1
  | 0x106 => k.cpdone 2
  | 0x107 => k.cpdone 3
  | 0x110 => 1024
  | 0x111 => qdepth
  | 0x112 => s.cycle c
  | 0x200 => (s.hedge (hedgeKey c)).mecheck
  | 0x300 => (s.die (dieOf c)).sparefree
  | 0xF00 => feat0
  | 0xF01 => feat1
  | 0xF04 => s.host.fver
  | _ => 0

end Sys2Proof.Machine
end

