-- ==== Sys2Proof/Machine/Operands.lean ====
section
/-! DEFINITION. Operand forms: what an instruction names, the checks of ranks 1 to 4 (07 R171), reading and writing main,
operand-file, core-shared, vector and mask registers (03), outstanding results (07 R154 to R156). -/

namespace Sys2Proof.Machine

/-- Sizes of a thread's windows (03 R58). -/
def Ctx.mainSize (x : Ctx) : Nat := 8 * (x.win.mainCode + 1)
def Ctx.vecSize (x : Ctx) : Nat := 4 * x.win.vecCode

/-- What an instruction names: an operand, a group of k main or vector registers, a buffer entry, a w register. -/
inductive Use where
  | src (o : Operand) | dst (o : Operand)
  | gs (n k : Nat) (src : Bool)
  | v (n k : Nat) (src : Bool)
  | bf (n : Nat)
  | w (n : Nat)
deriving DecidableEq, Repr

/-- The source operand fields of an instruction, in field order (07 R157, 03 R57). -/
def sources : Instr → List Operand
  | .jmpr a | .callr a | .forkr a | .join a | .trap a | .snap a | .waitx a _ => [a]
  | .beqz a _ | .bnez a _ | .bltz a _ | .bgez a _ | .bgtz a _ | .blez a _ => [a]
  | .send a b | .sendu a b => [a, b]
  | .csrwr x _ => [x]
  | .ldN _ _ _ i | .ldS _ _ _ i | .ldeN _ _ _ i | .ldeS _ _ _ i | .ldxN _ _ _ i | .ldxS _ _ _ i => [i]
  | .st x _ _ i | .ste x _ _ i | .stx x _ _ i => [x, i]
  | .aswap x _ i | .aadd x _ i | .aand x _ i | .aor x _ i | .axor x _ i | .aminS64 x _ i | .amaxS64 x _ i
  | .aminN64 x _ i | .amaxN64 x _ i | .acas x _ i | .aamaxF32 x _ i | .amaxswapF32 x _ i => [x, i]
  | .bfld a _ => [a]
  | .vld _ _ _ _ i | .vst _ _ _ _ i | .vldpE2m1 _ _ _ i | .vldpE3m2 _ _ _ i | .vstpE2m1 _ _ _ i
  | .vstpE3m2 _ _ _ i | .qpackE4m3 _ _ i | .qpackE3m2 _ _ i | .qpackE2m1 _ _ i | .qpacki _ _ i => [i]
  | .accld _ _ s | .accst _ _ s => [s]
  | .add _ a b | .sub _ a b | .mul _ a b | .mulhS64 _ a b | .mulhN64 _ a b | .and _ a b | .or _ a b | .xor _ a b
  | .shl _ a b | .shrN64 _ a b | .shrS64 _ a b | .sltS64 _ a b | .sltN64 _ a b | .seq _ a b | .bfx _ a b => [a, b]
  | .bfi d a b => [a, b, d]
  | .addi _ a _ | .shli _ a _ | .shriN64 _ a _ | .shriS64 _ a _ | .rotri _ a _ => [a]
  | .lis d _ => [d]
  | .mov _ a | .not _ a | .neg _ a | .absS64 _ a | .popc _ a | .clz _ a | .ctz _ a | .bswap _ a | .brev _ a
  | .sextS8 _ a | .sextS16 _ a | .sextS32 _ a | .zextN8 _ a | .zextN16 _ a | .zextN32 _ a => [a]
  | .qmaxx _ a | .qscaleE4m3 _ a | .qscaleE3m2 _ a | .qscaleE2m1 _ a | .qscalei _ a => [a]
  | .vbcast _ _ _ s | .vaddx _ _ _ s | .vmulx _ _ _ s | .vmaxx _ _ _ s => [s]
  | .vrsum _ _ _ d | .vrmax _ _ _ d | .vrmin _ _ _ d | .vramax _ _ _ d => [d]
  | .mfrom _ s => [s]
  | .bound _ _ a b => [a, b]
  | .pload _ s | .pcompact _ _ s | .pstore _ s | .pidx _ s => [s]
  | .pcyc _ k s => if k = .through then [s] else []
  | _ => []

/-- The destination operand field of an instruction. -/
def destination : Instr → Option Operand
  | .rdw d _ | .rdwc d _ | .csrrd d _ => some d
  | .ldN x _ _ _ | .ldS x _ _ _ | .ldeN x _ _ _ | .ldeS x _ _ _ | .ldxN x _ _ _ | .ldxS x _ _ _ => some x
  | .aswap x _ _ | .aadd x _ _ | .aand x _ _ | .aor x _ _ | .axor x _ _ | .aminS64 x _ _ | .amaxS64 x _ _
  | .aminN64 x _ _ | .amaxN64 x _ _ | .acas x _ _ | .aamaxF32 x _ _ | .amaxswapF32 x _ _ => some x
  | .cpy d _ | .cpyNb d _ => some d
  | .add d _ _ | .sub d _ _ | .mul d _ _ | .mulhS64 d _ _ | .mulhN64 d _ _ | .and d _ _ | .or d _ _ | .xor d _ _
  | .shl d _ _ | .shrN64 d _ _ | .shrS64 d _ _ | .sltS64 d _ _ | .sltN64 d _ _ | .seq d _ _ | .bfx d _ _
  | .bfi d _ _ => some d
  | .addi d _ _ | .shli d _ _ | .shriN64 d _ _ | .shriS64 d _ _ | .rotri d _ _ | .li d _ | .lis d _ => some d
  | .mov d _ | .not d _ | .neg d _ | .absS64 d _ | .popc d _ | .clz d _ | .ctz d _ | .bswap d _ | .brev d _
  | .sextS8 d _ | .sextS16 d _ | .sextS32 d _ | .zextN8 d _ | .zextN16 d _ | .zextN32 d _ => some d
  | .qmaxx d _ | .qscaleE4m3 d _ | .qscaleE3m2 d _ | .qscaleE2m1 d _ | .qscalei d _ | .vlq d | .vlane d _ => some d
  | .vrsum _ _ _ d | .vrmax _ _ _ d | .vrmin _ _ _ d | .vramax _ _ _ d => some d
  | .vcompress _ _ _ _ h | .vexpand _ _ _ _ h => some (.h h)
  | .mpop _ s | .mtolo _ s | .mtohi _ s => some s
  | .pcyc _ _ s | .pidx _ s => some s
  | _ => none

/-- Registers that an instruction names beside its operand fields: groups, vector registers, buffer entries, w registers. -/
def otherUses : Instr → List Use
  | .ldN _ b _ _ | .ldS _ b _ _ | .ldeN _ b _ _ | .ldeS _ b _ _ | .ldxN _ b _ _ | .ldxS _ b _ _
  | .st _ b _ _ | .ste _ b _ _ | .stx _ b _ _ => [.bf b]
  | .aswap _ b _ | .aadd _ b _ | .aand _ b _ | .aor _ b _ | .axor _ b _ | .aminS64 _ b _ | .amaxS64 _ b _
  | .aminN64 _ b _ | .amaxN64 _ b _ | .aamaxF32 _ b _ | .amaxswapF32 _ b _ | .acas _ b _ => [.bf b]
  | .bfld _ b | .bfclr b => [.bf b]
  | .rdw _ a | .rdwc _ a | .bfull a _ | .bempty a _ => [.gs a 1 true]
  | .cpy _ a | .cpyNb _ a => [.gs a 4 true]
  | .vld _ _ v b _ | .vldpE2m1 _ v b _ | .vldpE3m2 _ v b _ => [.v v 1 false, .bf b]
  | .vst _ _ v b _ | .vstpE2m1 _ v b _ | .vstpE3m2 _ v b _ => [.v v 1 true, .bf b]
  | .qpackE4m3 v b _ | .qpackE3m2 v b _ | .qpackE2m1 v b _ | .qpacki v b _ => [.v (2 * v) 2 true, .bf b]
  | .accld _ v _ => [.v (4 * v) 4 false]
  | .accst _ v _ => [.v (4 * v) 4 true]
  | .drain _ s => [.gs s 2 true]
  | .vadd _ _ d a b | .vsub _ _ d a b | .vmul _ _ d a b | .vmin _ _ d a b | .vmax _ _ d a b | .vaddsat _ _ d a b
  | .vsubsat _ _ d a b | .vand _ _ d a b | .vor _ _ d a b | .vxor _ _ d a b | .vandn _ _ d a b =>
    [.v d 1 false, .v a 1 true, .v b 1 true]
  | .vfma _ _ d a b => [.v d 1 true, .v a 1 true, .v b 1 true]
  | .vceq _ _ _ a b | .vclt _ _ _ a b | .vcle _ _ _ a b | .vcne _ _ _ a b => [.v a 1 true, .v b 1 true]
  | .vcvt dt st _ _ _ d a => [.v d (cvtGroup dt st).1 false, .v a (cvtGroup dt st).2 true]
  | .vbcast _ _ d _ => [.v d 1 false]
  | .vaddx _ _ d _ | .vmulx _ _ d _ | .vmaxx _ _ d _ => [.v d 1 true]
  | .vrsum _ _ a _ | .vrmax _ _ a _ | .vrmin _ _ a _ | .vramax _ _ a _ => [.v a 1 true]
  | .vcompress _ _ d a _ | .vexpand _ _ d a _ | .vsel _ _ d a => [.v d 1 false, .v a 1 true]
  | .vrowmv _ _ d a n => [.v d 1 false, .v a 1 true, .w n]
  | .pload d _ | .pcompact d _ _ => [.w d]
  | .prand d s => [.w d, .gs s 2 true]
  | .pcomp d a b => [.w d, .w a, .w b]
  | .pinv d a => [.w d, .w a]
  | .pcyc a _ _ | .pstore a _ | .pidx a _ => [.w a]
  | _ => []

/-- Instructions that read h0, which no field of theirs names (09 R217, 10 R247). -/
def readsH0 : Instr → Bool
  | .acas _ _ _ | .qpackE4m3 _ _ _ | .qpackE3m2 _ _ _ | .qpackE2m1 _ _ _ | .qpacki _ _ _ => true
  | _ => false

/-- Everything an instruction names. -/
def uses (i : Instr) : List Use :=
  (sources i).map Use.src ++ (destination i).toList.map Use.dst ++ otherUses i

/-! ### The checks of ranks 1 to 4 -/

/-- A use of a register that belongs to the owner of SHASID (03 R64). -/
def Use.shared : Use → Bool
  | .src (.k _) => true
  | .dst (.k _) => true
  | .bf n => n != 0
  | .w _ => true
  | _ => false

/-- An instruction that pushes to a queue register. -/
def pushes (i : Instr) (n : Nat) : Bool :=
  match destination i with
  | some (.q m) => m.val == n
  | _ => false

/-- An engine use: MTX instructions, pushes to MEQ and TKQ (11 R254). -/
def engineUse (i : Instr) : Bool :=
  match i with
  | .accld _ _ _ | .accst _ _ _ | .drain _ _ => true
  | i => pushes i 0 || pushes i 6

/-- Instructions that the porter thread may not run (08 R198); transfers are decided in their procedure. -/
def porterForbids : Instr → Bool
  | .fork _ _ | .forkr _ | .join _ | .rdw _ _ | .rdwc _ _ | .waitx _ _ | .idle | .yield | .snap _ => true
  | _ => false

/-- A write of a status register that a thread may not make (03 R74). -/
def csrForbidden : Instr → Bool
  | .csrwr _ n => n.toNat != 0x004 && n.toNat != 0x005
  | _ => false

/-- The class-0 ASID of a die (13 R302). -/
def State.class0 (s : State) (c : Nat) : Option Nat := (s.die (dieOf c)).sched.class0

/-- Rank 2: privilege (03 R64, R74; 08 R198). BFLD and BFCLR need the owner whichever entry they name (09 R213). -/
def privilegeFault (s : State) (c slot : Nat) (i : Instr) : Bool :=
  let x := s.ctx c slot
  let owner := x.asid == (s.core c).csr.shasid
  (!owner && ((uses i).any Use.shared || (match i with | .bfld _ _ => true | .bfclr _ => true | _ => false)))
    || csrForbidden i
    || (slot == 63 && porterForbids i)

/-- An engine use by a thread that neither owns the shared registers nor is of the class-0 ASID: the first fault that its
instruction's chapter lists (11 R254, R282). -/
def engineFault (s : State) (c slot : Nat) (i : Instr) : Bool :=
  let x := s.ctx c slot
  engineUse i && x.asid != (s.core c).csr.shasid && s.class0 c != some x.asid

/-- The main registers of a use, window-relative, with the number of the first. -/
def Use.mains : Use → List Nat
  | .src (.g n) => [n.val]
  | .dst (.g n) => [n.val]
  | .gs n k _ => (List.range k).map (n + ·)
  | _ => []

/-- The vector registers of a use. -/
def Use.vecs : Use → List Nat
  | .v n k _ => (List.range k).map (n + ·)
  | _ => []

/-- Rank 3: the first register named outside its window (03 R58). -/
def windowFault (x : Ctx) (i : Instr) : Option Nat :=
  (uses i).findSome? fun u =>
    match (u.mains.find? fun n => x.mainSize ≤ n) with
    | some n => some n
    | none => u.vecs.find? fun n => x.vecSize ≤ n

/-- Whether a use names the destination of an outstanding result (07 R156), with the operand code or number named. -/
def Use.names (u : Use) : Dest → Option Nat
  | .g n => if u.mains.contains n then some n else none
  | .v n => if u.vecs.contains n then some n else none
  | .h n => (match u with
    | .src (.h m) => if m.val = n then some (0x80 + n) else none
    | .dst (.h m) => if m.val = n then some (0x80 + n) else none
    | _ => none)
  | .k n => (match u with
    | .src (.k m) => if m.val = n then some (0x90 + n) else none
    | .dst (.k m) => if m.val = n then some (0x90 + n) else none
    | _ => none)
  | .bf n => (match u with
    | .bf m => if m = n then some n else none
    | _ => none)
  | .discard => none

/-- A value as the writes of the last 8 cycles found it, newest first (03 R80). -/
def inForce (now cur : Nat) : List (Nat × Nat) → Nat
  | [] => cur
  | e :: t => if now < e.2 + 8 then inForce now e.1 t else cur

/-- DBGCTL as it governs an instruction that issues now: a change takes 8 cycles (03 R80). -/
def State.debugMode (s : State) (c : Nat) : Bool :=
  let k := (s.core c).csr
  bit (inForce s.now k.dbgctl k.dbgOld) 0

/-- Rank 4: in debug mode, a name of an outstanding result before the marker (07 R156). -/
def hazardFault (x : Ctx) (i : Instr) : Option Nat :=
  (uses i).findSome? fun u => x.out.findSome? fun p => u.names p.dest

/-- The first main or vector entry with bad parity among those an instruction reads (03 R58). -/
def parityFault (k : Core) (x : Ctx) (i : Instr) : Option Nat :=
  (uses i).findSome? fun u =>
    let ms := match u with
      | .dst _ => []
      | .gs _ _ false => []
      | u => u.mains.map (x.win.mainBase + ·)
    let vs := match u with
      | .v _ _ true => u.vecs.map (x.win.vecBase + ·)
      | _ => []
    match ms.find? k.badMain.contains with
    | some e => some e
    | none => vs.find? k.badVec.contains

/-- The fault of ranks 1 to 4, of R254, or of parity, that an instruction meets, with its detail double. An instruction that
has come past its first issue does not meet its own result as a hazard. -/
def earlyFault (s : State) (c slot : Nat) (i : Instr) (word : Nat) : Option (Nat × Nat) :=
  let k := s.iss.view.getD (s.core c)
  let x := k.ctx slot
  if !wellFormed i then some (fcIllegal, word)
  else if privilegeFault s c slot i then some (fcPrivilege, 0)
  else match windowFault x i with
    | some n => some (fcWindow, n)
    | none =>
      match (if s.debugMode c && (s.ctx c slot).phase == 0 then hazardFault x i else none) with
      | some n => some (fcHazard, n)
      | none => if engineFault s c slot i then some (fcPrivilege, 0) else (parityFault k x i).map fun e => (fcParity, e)

/-! ### Reading -/

/-- The outstanding result that a register waits for, among those not replaced by a later one. -/
def Ctx.pendFor (x : Ctx) (d : Dest) : Option Pending := x.out.find? fun p => p.dest == d && p.alt.isSome

/-- After a read has given the returned value, later reads give it too (07 R155). -/
def Ctx.seen (x : Ctx) (seq : Nat) : Ctx :=
  { x with out := x.out.map fun p => if p.seq == seq && !p.clash then { p with alt := none } else p }

/-- A read of a register that may still give another value: a free choice (07 R155, log 5). -/
def State.readEither (s : State) (c slot : Nat) (d : Dest) (now_ : Word) (view : Ctx) : Word × State :=
  match view.pendFor d with
  | none => (now_, s)
  | some p =>
    let (b, s) := s.takeBit
    if b then (BitVec.ofNat 64 (p.alt.getD 0), s) else (now_, s.modCtx c slot fun x => x.seen p.seq)

/-- A core-shared scalar: within 8 cycles of a write, the old or the new value, and of several writes any value that one of
them replaced (03 R63, log 5). -/
def State.readK (s : State) (n : Nat) (view : Core) : Word × State :=
  let cur := Tab.getD view.regs.k n 0
  match view.regs.kOld.filter fun r => r.n == n && s.now < r.at_ + Config.kVisible with
  | [] => (cur, s)
  | [r] =>
    let (b, s) := s.takeBit
    (if b then r.old else cur, s)
  | l =>
    let (f, s) := s.takeNat
    ((l.map Recent.old).getD (f % (l.length + 1)) cur, s)

/-- Main register n of a window. -/
def Core.readMain (k : Core) (x : Ctx) (n : Nat) : Word := Tab.getD k.file (x.win.mainBase + n) 0

/-- The core from which the sources of the issue in progress are read (07 R152). -/
def State.view (s : State) (c : Nat) : Core := s.iss.view.getD (s.core c)

/-- The outcome of reading a source operand. -/
inductive Got where
  | val (w : Word) (s : State)
  | wait (q : Nat)

/-- A queue register's entries as (value, logical time) (03 R65). -/
def CoreQueues.entries (q : CoreQueues) (n : Nat) : List (Word × Nat) :=
  match n with
  | 1 => q.msq
  | 4 => q.evq
  | 5 => q.inq
  | _ => []

/-- The queues with the entries of one replaced. -/
def CoreQueues.setEntries (q : CoreQueues) (n : Nat) (l : List (Word × Nat)) : CoreQueues :=
  match n with
  | 1 => { q with msq := l }
  | 4 => { q with evq := l }
  | 5 => { q with inq := l }
  | _ => q

/-- The popper of a queue that waits first, among those in their contexts: a saved one keeps its place, under its slot's
number and 64, and is passed over until it resumes (03 R67; log 84). -/
def CoreQueues.firstWaiter (q : CoreQueues) (n : Nat) : Option (Nat × Nat × Nat) :=
  q.waiters.find? fun w => w.1 == n && w.2.1 < 64

/-- Whether a thread may pop a queue now: an entry is there and no earlier popper waits (03 R67). -/
def CoreQueues.ready (q : CoreQueues) (n slot : Nat) : Bool :=
  !(q.entries n).isEmpty &&
    (match q.firstWaiter n with
      | some w => w.2.1 == slot && w.2.2 == 0
      | none => true)

/-- Observing a completion or a message at its time (12 R292, R293): a load at max(PT, T), which takes its turn behind the
accesses of the thread that have not been performed (R283). -/
def Ctx.observe (x : Ctx) (t : Nat) : Ctx :=
  if x.pipe.isEmpty then { x with pt := max x.pt t + 1 }
  else { x with pipe := x.pipe ++ [{ observe := some t, asid := x.asid, pc := x.pc }] }

/-- The value of a source operand at a field position; a pop is remembered until the instruction completes. -/
def State.readOp (s : State) (c slot pos : Nat) (o : Operand) : Got :=
  let x := s.ctx c slot
  match Tab.get? x.latch pos with
  | some v => .val v s
  | none =>
    let k := s.view c
    let y := k.ctx slot
    match o with
    | .g n =>
      let (v, s) := s.readEither c slot (.g n.val) (k.readMain y n.val) y
      .val v s
    | .h n =>
      let (v, s) := s.readEither c slot (.h n.val) (Tab.getD y.h n.val 0) y
      .val v s
    | .lc => .val y.lc s
    | .la => .val y.la s
    | .k n =>
      let (v, s) := s.readK n.val k
      let (v, s) := s.readEither c slot (.k n.val) v y
      .val v s
    | .zero => .val 0 s
    | .q n =>
      if n.val == 7 then .val 0 s
      else if (s.core c).q.ready n.val slot then
        match (s.core c).q.entries n.val with
        | [] => .wait n.val
        | e :: rest =>
          let s := s.modCore c fun k =>
            { k with q := { (k.q.setEntries n.val rest) with
                waiters := k.q.waiters.eraseP fun w => w.1 == n.val && w.2.1 == slot && w.2.2 == 0 } }
          .val e.1 (s.modCtx c slot fun x => { x.observe e.2 with latch := Tab.put x.latch pos e.1 })
      else .wait n.val

/-- The values of source operands in field order, or the queue on which the thread must wait. -/
def State.readOps (s : State) (c slot : Nat) : Nat → List Operand → Except (Nat × State) (List Word × State)
  | _, [] => .ok ([], s)
  | pos, o :: t =>
    match s.readOp c slot pos o with
    | .wait q => .error (q, s)
    | .val v s =>
      match s.readOps c slot (pos + 1) t with
      | .error e => .error e
      | .ok (vs, s) => .ok (v :: vs, s)

/-- A vector register, with R155's free choice element by element while a load of it is outstanding (10 R243). -/
def State.readVec (s : State) (c slot n : Nat) : Vec × State :=
  let k := s.view c
  let y := k.ctx slot
  let cur := Tab.getD k.vfile (y.win.vecBase + n) 0
  match y.pendFor (.v n) with
  | none => (cur, s)
  | some p =>
    let (f, s) := s.takeNat
    let keep := (List.range (1024 / p.ebits)).foldl
      (fun acc e => if bit f e then acc + ones p.ebits * 2 ^ (p.ebits * e) else acc) 0
    (BitVec.ofNat 1024 (blend cur.toNat (p.alt.getD 0) keep), s.modCtx c slot fun x =>
      { x with out := x.out.map fun q => if q.seq == p.seq then
          { q with alt := q.alt.map fun a => blend a cur.toNat (ones 1024 ^^^ keep) } else q })

/-- Vector registers n to n + k - 1. -/
def State.readVecs (s : State) (c slot n : Nat) : Nat → List Vec × State
  | 0 => ([], s)
  | k + 1 =>
    let (v, s) := s.readVec c slot n
    let (vs, s) := s.readVecs c slot (n + 1) k
    (v :: vs, s)

/-- A mask register; m0 is all ones (03 R69). -/
def Ctx.mask (x : Ctx) (n : Nat) : MaskV := if n = 0 then BitVec.allOnes 128 else Tab.getD x.masks n 0
def State.readMask (s : State) (c slot n : Nat) : Nat := (((s.view c).ctx slot).mask n).toNat

/-- A main register group's values. -/
def State.readMains (s : State) (c slot n : Nat) : Nat → List Word × State
  | 0 => ([], s)
  | k + 1 =>
    let core := s.view c
    let y := core.ctx slot
    let (v, s) := s.readEither c slot (.g n) (core.readMain y n) y
    let (vs, s) := s.readMains c slot (n + 1) k
    (v :: vs, s)

/-! ### Writing -/

/-- Another write meets an outstanding result (07 R155): after the marker the register holds the written value or the
returned result. -/
def Ctx.clash (x : Ctx) (d : Dest) (new : Nat) : Ctx :=
  { x with out := x.out.map fun p =>
      if p.dest == d then
        { p with clash := true, alt := if !p.returned then none
            else some (match d with | .v _ => blend new p.acc p.mask | _ => p.acc) }
      else p }

/-- Main register n of a slot written, its full bit set, its parity good (03 R59). -/
def Core.writeMain (k : Core) (slot n : Nat) (v : Word) : Core :=
  let e := (k.ctx slot).win.mainBase + n
  { k with file := Tab.set k.file e v 0, empty := k.empty.filter (· != e), badMain := k.badMain.filter (· != e) }

/-- A full bit set to a value. -/
def Core.setFull (k : Core) (slot n : Nat) (full : Bool) : Core :=
  let e := (k.ctx slot).win.mainBase + n
  { k with empty := if full then k.empty.filter (· != e) else insertBy id e (k.empty.filter (· != e)) }

/-- The full bit of main register n. -/
def Core.isFull (k : Core) (slot n : Nat) : Bool := !k.empty.contains ((k.ctx slot).win.mainBase + n)

/-- Vector register n of a slot written. -/
def Core.writeVec (k : Core) (slot n : Nat) (v : Vec) : Core :=
  let e := (k.ctx slot).win.vecBase + n
  { k with vfile := Tab.set k.vfile e v 0, badVec := k.badVec.filter (· != e) }

/-- A k register written at a cycle (03 R63). -/
def Core.writeK (k : Core) (n slot now : Nat) (v : Word) : Core :=
  { k with regs := { k.regs with
      kOld := (k.regs.kOld.filter fun r => now < r.at_ + Config.kVisible) ++ [⟨n, Tab.getD k.regs.k n 0, slot, now⟩],
      k := Tab.set k.regs.k n v 0 } }

/-- A mask register written; a write of m0 does not come here (03 R69). -/
def Ctx.setMask (x : Ctx) (n : Nat) (v : MaskV) : Ctx := { x with masks := Tab.set x.masks n v 0 }

/-- The outstanding-result name of a destination operand. -/
def destOf : Operand → Dest
  | .g n => .g n.val
  | .h n => .h n.val
  | .k n => .k n.val
  | _ => .discard

/-- The register that a place of an outstanding result names, written, without any word on the result itself. -/
def Core.putDest (k : Core) (slot now : Nat) (d : Dest) (v : Word) : Core :=
  match d with
  | .g n => k.writeMain slot n v
  | .h n => k.modCtx slot fun x => { x with h := Tab.set x.h n v 0 }
  | .k n => k.writeK n slot now v
  | _ => k

/-- What the register of a place holds. -/
def Core.getDest (k : Core) (slot : Nat) (d : Dest) : Word :=
  let x := k.ctx slot
  match d with
  | .g n => k.readMain x n
  | .h n => Tab.getD x.h n 0
  | .k n => Tab.getD k.regs.k n 0
  | _ => 0

/-- A destination operand written at writeback; zero discards, and a queue is pushed elsewhere (03 R56). -/
def State.writeOp (s : State) (c slot : Nat) (o : Operand) (v : Word) : State :=
  s.modCore c fun k =>
    let d := destOf o
    (k.modCtx slot fun x => x.clash d v.toNat).putDest slot s.now d v

/-- The active elements of a vector register written: `mask` are bits of the register. -/
def State.writeVecBits (s : State) (c slot n : Nat) (v mask : Nat) : State :=
  s.modCore c fun k =>
    let cur := (Tab.getD k.vfile ((k.ctx slot).win.vecBase + n) 0).toNat
    let new := blend cur v mask
    (k.modCtx slot fun x => x.clash (.v n) new).writeVec slot n (BitVec.ofNat 1024 new)

/-- A mask register written by the issue. -/
def State.writeMask (s : State) (c slot n : Nat) (v : Nat) : State :=
  s.modCtx c slot fun x => x.setMask n (BitVec.ofNat 128 v)

/-- A buffer-table entry changed by a slot (03 R72). -/
def Core.putBuf (k : Core) (n slot now : Nat) (b : Buf) : Core :=
  { k with regs := { k.regs with
      bufOld := (k.regs.bufOld.filter fun r => now < r.at_ + Config.kVisible) ++ [⟨n, Tab.getD k.regs.bufs n {}, slot, now⟩],
      bufs := Tab.set k.regs.bufs n b {} } }

/-! ### Matrix commands (11 R257, R258) -/

def cmdKind (d : Nat) : Nat := fld d 61 3
def cmdTile (d : Nat) : Nat := fld d 59 2
def cmdFmt (d : Nat) (b : Bool) : Nat := if b then fld d 53 3 else fld d 56 3
def cmdSparse (d : Nat) : Bool := bit d 52
def cmdPad (d : Nat) (b : Bool) : Bool := if b then bit d 50 else bit d 51
def rowsOf (code : Nat) : Nat := match code with | 0 => 128 | 1 => 32 | 2 => 16 | _ => 8
def cmdRows (d : Nat) (b : Bool) : Nat := rowsOf (if b then fld d 46 2 else fld d 48 2)
def cmdSteps (d : Nat) : Nat := fld d 40 6 + 1
def cmdPerm (d : Nat) : Nat := fld d 36 4
def cmdEvent (d : Nat) : Bool := bit d 35
def cmdReg (d : Nat) (b : Bool) : Nat := if b then fld d 19 8 else fld d 27 8
def cmdTag (d : Nat) : Nat := fld d 0 12

/-- Bytes of one stored row for one k-step. -/
def kBytes (fmt : Nat) (sparse b : Bool) : Nat :=
  if fmt = 2 then 48 else if sparse && fmt < 2 then (if b then 128 else 80) else 64

/-- The k-step class of a format. -/
def kClass (fmt : Nat) (sparse : Bool) : Nat := if fmt = 3 || sparse then 128 else if fmt = 4 then 32 else 64

/-- The registers a multiplying command names: main pairs and vector groups. -/
def cmdUses (d : Nat) : List Use :=
  if 2 ≤ cmdKind d then [] else [false, true].map fun b =>
    if cmdPad d b then .gs (cmdReg d b) 2 true else .v (cmdReg d b) (cmdRows d b / 2) true

/-! ### Outstanding results -/

/-- Results outstanding against the limit of 8: those not yet returned (03 R66). -/
def Ctx.outstanding (x : Ctx) : Nat := (x.out.filter fun p => !p.returned).length

/-- The next sequence number of a thread's results. -/
def Ctx.nextSeq (x : Ctx) : Nat := x.out.foldl (fun m p => max m p.seq) 0 + 1

/-- At the marker every result has returned: what still admits two values is settled freely (07 R155). -/
def settlePend (s : State) (c slot : Nat) (p : Pending) : State :=
  match p.alt with
  | some a =>
    if p.clash then
      let (b, s) := s.takeBit
      if !b then s
      else match p.dest with
        | .v n => s.modCore c fun k => k.writeVec slot n (BitVec.ofNat 1024 a)
        | .bf n => s.modCore c fun k => k.putBuf n slot s.now { r := a % 2 ^ 256, valid := 2 ^ 256 ≤ a, asid := p.asid }
        | d => s.modCore c fun k => k.putDest slot s.now d (BitVec.ofNat 64 a)
    else s
  | none => s

/-- The marker passes (07 R154): no result is outstanding any more. -/
def State.passMarker (s : State) (c slot : Nat) : State :=
  let s := (s.ctx c slot).out.foldl (fun s p => settlePend s c slot p) s
  s.modCtx c slot fun x => { x with out := [] }

/-- Whether every outstanding result has returned, a record being visible across the core 8 cycles after its return (09 R214):
`left` then holds the cycle of the return. -/
def Ctx.allReturned (x : Ctx) (now : Nat) : Bool :=
  x.out.all fun p => p.returned && (p.kind != .bfld || p.left + Config.kVisible ≤ now)

/-- R39 step 1: results returned, stores accepted by their homes (the pipeline is empty). -/
def Ctx.settled (x : Ctx) (now : Nat) : Bool := x.allReturned now && x.pipe.isEmpty

end Sys2Proof.Machine
end

