-- ==== Sys2Proof/Machine/Queues.lean ====
section
/-! DEFINITION. Queue registers: arrival of records, held completions, threads that wait, deferred pops and their results
(03 R65 to R67), the return of outstanding results (07 R155), watermarks (05 R120). -/

namespace Sys2Proof.Machine

/-- The state of a context with its status changed. -/
def State.setStatus (s : State) (c slot : Nat) (st : Status) : State := s.modCtx c slot fun x => { x with status := st }

/-- The contexts of a core that are parked on a wait that satisfies a test become ready. -/
def Core.wakeIf (k : Core) (p : Nat → Ctx → Wait → Bool) : Core :=
  { k with ctxs := k.ctxs.map fun e =>
      match e.2.status with
      | .parked w => if p e.1 e.2 w then (e.1, { e.2 with status := .ready }) else e
      | _ => e }

/-- An event that ends every IDLE of a core (08 R191). -/
def Core.idleWake (k : Core) : Core := k.wakeIf fun _ _ w => match w with | .idle _ => true | _ => false

/-- The greatest number of entries of a queue register (03 R65). -/
def qdepthOf (n : Nat) : Nat :=
  match n with
  | 0 => Config.meqDepth | 1 => Config.msqDepth | 2 => Config.cpqDepth | 3 => Config.chqDepth
  | 4 => Config.evqDepth | 5 => Config.inqDepth | 6 => Config.tkqDepth | _ => 0

/-- How many entries a queue register's queue holds. -/
def CoreQueues.count (q : CoreQueues) (n : Nat) : Nat :=
  match n with
  | 0 => q.meq.length | 1 => q.msq.length | 2 => q.cpq.length | 3 => q.chq.length
  | 4 => q.evq.length | 5 => q.inq.length | 6 => q.tkq.length | _ => 0

def CoreQueues.hasRoom (q : CoreQueues) (n : Nat) : Bool := q.count n < qdepthOf n

/-! ### The return of an outstanding result -/

/-- The last outstanding result has returned: a thread parked at a switch marker goes on (07 R154). -/
def State.release (s : State) (c slot : Nat) : State :=
  let x := s.ctx c slot
  if x.status == .parked .marker && x.allReturned s.now then (s.passMarker c slot).setStatus c slot .ready else s

/-- A result reaches its register before the marker: the register takes it, and reads may still give the old value until
one has given the new one (07 R155). -/
def State.deliver (s : State) (c slot seq v : Nat) : State :=
  let x := s.ctx c slot
  match x.out.find? fun p => p.seq == seq with
  | none => s
  | some p =>
    let k := s.core c
    let twin := x.out.any fun r => r.dest == p.dest && r.seq != seq && p.dest != .discard
    let old := match p.dest with
      | .v n => (Tab.getD k.vfile (x.win.vecBase + n) 0).toNat
      | d => (k.getDest slot d).toNat
    let s := s.modCore c fun k =>
      match p.dest with
      | .v n => k.writeVec slot n (BitVec.ofNat 1024 (blend old v p.mask))
      | .discard => k
      | .bf _ => k
      | d => k.putDest slot s.now d (BitVec.ofNat 64 v)
    let s := s.modCtx c slot fun x => { x with out := x.out.map fun r =>
      if r.seq == seq then
        { r with returned := true, acc := v, alt := if p.dest == .discard then none else some old,
                 clash := r.clash || twin, left := s.now }
      else if r.dest == p.dest && r.alt != some r.acc then { r with alt := none }
      else r }
    s.release c slot

/-! ### Deferred pops (03 R66) -/

/-- The field position at which a deferred pop still waits for a queue. -/
def Pending.missing (p : Pending) (n : Nat) : Option Nat :=
  match p.pop with
  | none => none
  | some i => (List.range 3).find? fun pos => bit p.acc pos && (sources i)[pos]? == (Fin.ofNat 8 n |> Operand.q)

/-- An entry handed to a deferred pop: the last missing source completes the instruction. -/
def State.fillPop (s : State) (c slot seq n : Nat) (v : Word) (t : Nat) : State :=
  let s := s.modCtx c slot fun x => x.observe t
  match (s.ctx c slot).out.find? fun p => p.seq == seq with
  | none => s
  | some p =>
    match p.missing n, p.pop with
    | some pos, some i =>
      let vals := p.vals.set pos v
      let left := p.acc - 2 ^ pos
      let s := s.modCtx c slot fun x => { x with out := x.out.map fun r =>
        if r.seq == seq then { r with vals := vals, acc := left } else r }
      if left = 0 then s.deliver c slot seq ((scalarEval i vals).getD 0).toNat else s
    | _, _ => s

/-- Entries of a queue handed to the deferred pops that stand first among its waiters, in issue order (03 R67). -/
def State.serve (s : State) (c n : Nat) : Nat → State
  | 0 => s
  | fuel + 1 =>
    let k := s.core c
    match k.q.firstWaiter n, k.q.entries n with
    | some w, e :: rest =>
      if w.2.2 = 0 then s
      else
        let s := s.modCore c fun k =>
          { k with q := { (k.q.setEntries n rest) with waiters := k.q.waiters.eraseP (· == w) } }
        (s.fillPop c w.2.1 w.2.2 n e.1 e.2).serve c n fuel
    | _, _ => s

/-! ### Watermarks (05 R120) -/

/-- A completion record (05 R118). -/
def completionRecord (source chan status tag : Nat) : Word :=
  BitVec.ofNat 64 (source * 2 ^ 60 + chan * 2 ^ 58 + status * 2 ^ 48 + tag % 2 ^ 48)

/-- The watermark of a channel passes the transfers that are complete and whose record, if any, has entered EVQ. -/
def Core.advance (k : Core) (ch : Nat) : Nat → Core
  | 0 => k
  | fuel + 1 =>
    let d := k.cpdone ch
    match k.units.transfers.find? fun t => t.req.chan == ch && t.req.id == d && t.done with
    | none => k
    | some t =>
      if k.q.held.any fun h => h.1 == 4 && h.2.1 == completionRecord 0 ch (t.status.getD 0) d then k
      else
        let k := { k with units := { k.units with
          cpdone := Tab.set k.units.cpdone ch ((d + 1) % 2 ^ 48) 0,
          cpTc := Tab.put k.units.cpTc ch (max (Tab.getD k.units.cpTc ch 0) t.tc),
          transfers := k.units.transfers.filter fun u => !(u.req.chan == ch && u.req.id == d) } }
        k.idleWake.advance ch fuel

def State.advance (s : State) (c ch : Nat) : State :=
  s.modCore c fun k => k.advance ch (k.units.transfers.length + 1)

/-- Transfer t of a channel is complete (05 R120). -/
def reached (cpdone g : Nat) : Bool := (cpdone + 2 ^ 48 - g % 2 ^ 48) % 2 ^ 48 < 2 ^ 47

/-! ### Arrival of entries -/

/-- A record enters MSQ, EVQ or INQ, or is held at its source while the queue is full (03 R65). -/
def State.arrive (s : State) (c n : Nat) (v : Word) (t : Nat) : State :=
  let k := s.core c
  if k.q.hasRoom n && !(k.q.held.any fun h => h.1 == n) then
    let s := s.modCore c fun k =>
      { k with q := k.q.setEntries n (k.q.entries n ++ [(v, t)]) }.idleWake
    s.serve c n (k.q.waiters.length + 1)
  else s.modCore c fun k => { k with q := { k.q with held := k.q.held ++ [(n, v, t)] } }

/-! ### Rings (05 R111 to R114, R127) -/

def Ring.capacity {α : Type} (r : Ring α) : Nat := 2 ^ r.log2cap
def Ring.occupancy {α : Type} (r : Ring α) : Nat := r.entries.length + r.old.length
def Ring.all {α : Type} (r : Ring α) : List α := r.old ++ r.entries
def Ring.full {α : Type} (r : Ring α) : Bool := r.capacity ≤ r.entries.length

/-- Entries written at the tail; the flag says that the occupancy has just passed the high-water mark. -/
def Ring.push {α : Type} (r : Ring α) (l : List α) : Ring α × Bool :=
  let r' := { r with entries := r.entries ++ l, tail := r.tail + l.length }
  let high := r.hwm < r'.occupancy
  ({ r' with signalled := high }, high && !r.signalled)

/-- The ring after entries have left, each live ring's head going on by its own; the old ring is drained when it is empty, the
signal is withdrawn at H or below. -/
def Ring.settle {α : Type} (r : Ring α) (old entries : List α) : Ring α :=
  { r with old := old, entries := entries, head := r.head + (r.entries.length - entries.length),
           oldHead := r.oldHead + (r.old.length - old.length),
           drained := r.drained || old.isEmpty, signalled := r.signalled && r.hwm < old.length + entries.length }

/-- One entry removed. -/
def Ring.remove {α : Type} [BEq α] (r : Ring α) (q : α) : Ring α :=
  if r.old.contains q then r.settle (r.old.erase q) r.entries else r.settle r.old (r.entries.erase q)

/-- The newest `n` entries of the ring taken back from its tail (05 R112). -/
def Ring.takeNewest {α : Type} (r : Ring α) (n : Nat) : List α × Ring α :=
  let keep := r.entries.length - n
  let left := r.entries.take keep
  (r.entries.drop keep, { r with entries := left, tail := r.tail - (r.entries.length - keep),
                                 signalled := r.signalled && r.hwm < r.old.length + left.length })

/-- A slot of an unaddressed message that waits for room in INQ. -/
def QSlot.isSendu (q : QSlot) : Bool := match q.body with | .send m => m.unaddressed && !q.returned | _ => false

/-- The oldest unaddressed message that waits in a core's spill queue, and the ring without it (08 R184). -/
def takeSendu (r : Ring QSlot) : Option (SendMsg × Ring QSlot) :=
  match r.all.find? QSlot.isSendu with
  | some q => match q.body with
    | .send m => some (m, r.remove q)
    | _ => none
  | none => none

/-- Room that a pop left is filled: held completions in order, then spilled unaddressed messages for INQ. -/
def State.refill (s : State) (c : Nat) : Nat → State
  | 0 => s
  | fuel + 1 =>
    let k := s.core c
    match k.q.held.find? fun h => k.q.hasRoom h.1 with
    | some h =>
      let s := s.modCore c fun k =>
        { k with q := { (k.q.setEntries h.1 (k.q.entries h.1 ++ [(h.2.1, h.2.2)])) with held := k.q.held.erase h } }.idleWake
      let s := (List.range 4).foldl (fun s ch => s.advance c ch) s
      (s.serve c h.1 (k.q.waiters.length + 1)).refill c fuel
    | none =>
      if k.q.hasRoom 5 then
        match takeSendu k.work.spill with
        | some (m, r) =>
          let s := s.modCore c fun k => { k with work := { k.work with spill := r } }
          (s.arrive c 5 m.v m.ts).refill c fuel
        | none => s
      else s

/-- A thread that pops an empty queue waits there behind the earlier poppers; `seq` is 0 for a parked thread. -/
def State.enlist (s : State) (c n slot seq : Nat) : State :=
  s.modCore c fun k =>
    if k.q.waiters.contains (n, slot, seq) then k
    else { k with q := { k.q with waiters := k.q.waiters ++ [(n, slot, seq)] } }

/-- What names the slot of a thread outside its context names another: its waits on queues and its QMAXX rounds. -/
def Core.reslot (k : Core) (a b : Nat) : Core :=
  { k with
    q := { k.q with waiters := k.q.waiters.map fun w => if w.2.1 == a then (w.1, b, w.2.2) else w }
    units := { k.units with
      rounds := k.units.rounds.map fun r => if r.slot == some a then { r with slot := some b } else r
      heldRounds := k.units.heldRounds.map fun e =>
        if e.2.2.2.1 == 2 ^ 32 + a then (e.1, e.2.1, e.2.2.1, 2 ^ 32 + b, e.2.2.2.2) else e } }

/-- A thread that is saved keeps its place under its slot's number and 64; it resumes in a slot (03 R67; 10 R245). -/
def Core.shelve (k : Core) (slot : Nat) : Core := k.reslot slot (slot + 64)
def Core.unshelve (k : Core) (old slot : Nat) : Core := k.reslot (old + 64) slot

/-- A thread's waits on queues, forgotten when it leaves its context for good. -/
def Core.delist (k : Core) (slot : Nat) : Core :=
  { k with q := { k.q with waiters := k.q.waiters.filter fun w => !(w.2.1 == slot && w.2.2 == 0) } }

end Sys2Proof.Machine
end

