-- ==== Sys2Proof/Machine/Access.lean ====
section
/-! DEFINITION. Where an access goes: buffer records (04 R94 to R96), address spaces and views (R87, R97, R98), bounds and
alignment (R99 to R101), translation (R103 to R107), and the faults of an access with their ranks (09 R227, 10 R253). -/

namespace Sys2Proof.Machine

/-! ### Buffer records -/

/-- A field of 32 bits read as signed. -/
def signed32 (v : Nat) : Int := if v % 2 ^ 32 < 2 ^ 31 then (v % 2 ^ 32 : Nat) else (v % 2 ^ 32 : Nat) - 2 ^ 32

def recBase (r : Nat) : Nat := fld r 0 64
def recExtent (r : Nat) : Nat := fld r 64 40
def recStride0 (r : Nat) : Int := signed32 (fld r 104 32)
def recStride1 (r : Nat) : Int := signed32 (fld r 136 32)
def recFormat (r : Nat) : Nat := fld r 168 8
def recBounds (r : Nat) : Nat := fld r 176 2
def recSpace (r : Nat) : Nat := fld r 178 4
def recPolicy (r : Nat) : Nat := fld r 182 3
def recPerm (r : Nat) : Nat := fld r 185 4
def recOwner (r : Nat) : Nat := fld r 189 24

/-- bf0 (03 R72): base 0, extent all ones, stride 0 of 1, everything else 0. -/
def flatRecord : Nat := (2 ^ 40 - 1) * 2 ^ 64 + 2 ^ 104

/-- The element formats that are not reserved (04 R96). -/
def formatListed (f : Nat) : Bool :=
  f == 0 || (0x10 ≤ f && f ≤ 0x16) || f == 0x20 || f == 0x21 || f == 0x30

/-- What BFLD rejects (04 R95; 06 R141). -/
def State.recordBreaks (s : State) (asid r : Nat) : Bool :=
  fld r 213 43 != 0 || 9 ≤ recPerm r || !formatListed (recFormat r) || 6 ≤ recSpace r || 4 ≤ recPolicy r
    || (recSpace r != 2 && recOwner r != 0) || (recSpace r == 2 && !s.validCore asid (recOwner r))
    || (recFormat r == 0x30 && recBase r % 64 != 0)
    || (recPolicy r != 0 && (recSpace r == 1 || recSpace r == 2 || recSpace r == 3 || recSpace r == 5))

/-- An entry as one number, bit 256 for valid, for the old value of an outstanding BFLD. -/
def Buf.word (b : Buf) : Nat := b.r + (if b.valid then 2 ^ 256 else 0)

/-- The table entry as it stands. -/
def Core.buf (k : Core) (n : Nat) : Buf := Tab.getD k.regs.bufs n {}

/-- An entry as a thread sees it at issue: bf0; within 8 cycles of another context's change, and for the thread's own
BFLD until its marker, the old or the new one (03 R72; 09 R214, R226; log 5). -/
def State.record? (s : State) (c slot n : Nat) : Option Nat × State :=
  if n = 0 then (some flatRecord, s)
  else
    let k := s.view c
    let cur := k.buf n
    let now_ := if cur.valid then some cur.r else none
    match (k.ctx slot).pendFor (.bf n) with
    | some p =>
      let (b, s) := s.takeBit
      if b then (if 2 ^ 256 ≤ p.alt.getD 0 then some (p.alt.getD 0 % 2 ^ 256) else none, s)
      else (now_, s.modCtx c slot fun x => x.seen p.seq)
    | none =>
      match k.regs.bufOld.find? fun r => r.n == n && r.slot != slot && s.now < r.at_ + Config.kVisible with
      | none => (now_, s)
      | some r =>
        let old := if r.old.valid then some r.old.r else none
        if s.now = r.at_ then (old, s)
        else
          let (b, s) := s.takeBit
          (if b then old else now_, s)

/-! ### Private views (04 R85, R87) -/

def cacheCode (lsplit : Nat) : Nat := min (fld lsplit 0 3) 4
def scratchSize (lsplit : Nat) : Nat := (384 - 64 * cacheCode lsplit) * 1024
def reserveSize (lsplit : Nat) : Nat := fld lsplit 8 8 * 4096

/-- The view that a class selects: where its offset 0 lies in the scratchpad, and its extent. -/
def privateView (lsplit cls : Nat) : Nat × Nat :=
  if cls = 0 then (scratchSize lsplit - reserveSize lsplit, reserveSize lsplit)
  else (0, scratchSize lsplit - reserveSize lsplit)

/-- Whether a core's view of a class is open to an ASID. -/
def State.viewOpen (s : State) (core asid cls : Nat) : Bool :=
  if cls = 0 then s.class0 core == some asid else (s.core core).csr.shasid == asid

/-! ### Physical memory (04 R91) -/

/-- Bytes of far memory attached, and the port that holds an offset. -/
def State.farSize (s : State) : Nat := s.host.farWindows.foldl (fun n w => n + w.2.1 * 2 ^ 30) 0
def portAt : List (Nat × Nat × Bool) → Nat → Nat × Bool
  | [], _ => (0, false)
  | w :: t, a => if a < w.2.1 * 2 ^ 30 then (w.1, w.2.2) else portAt t (a - w.2.1 * 2 ^ 30)

/-- A physical address that a user access may reach. -/
def State.physOk (s : State) (a : Nat) : Bool :=
  (a < 2 ^ 39 && a % 2 ^ 36 < 48 * 2 ^ 30)
    || (2 ^ 43 ≤ a && a < 2 ^ 44 && a - 2 ^ 43 < s.farSize)
    || (2 ^ 44 ≤ a && a < 2 ^ 45 && s.host.cxl)

/-! ### Translation (04 R103 to R107) -/

/-- Whether a TLB entry translates a virtual address of an ASID. -/
def TlbEntry.hits (e : TlbEntry) (asid va : Nat) : Bool :=
  (e.asid == asid || bit e.pte 3) && e.vpn == (if e.large then va / 2 ^ 21 else va / 65536)

/-- The translation in the core's L1 TLB or the hedge's L2 TLB. -/
def State.tlb (s : State) (c asid va : Nat) : Option TlbEntry :=
  match (s.core c).tlb.find? fun e => e.hits asid va with
  | some e => some e
  | none => (s.hedge (hedgeKey c)).l2tlb.find? fun e => e.hits asid va

/-- An entry put into a TLB of a size, the least recently used one leaving a full one. -/
def tlbPut (size : Nat) (l : List TlbEntry) (e : TlbEntry) : List TlbEntry :=
  let l := l.filter fun f => !(f.asid == e.asid && f.vpn == e.vpn && f.large == e.large)
  if l.length < size then l ++ [e]
  else
    match (sortBy TlbEntry.used l).head? with
    | none => [e]
    | some old => l.erase old ++ [e]

/-- Both TLBs hold an entry, used now. -/
def State.fillTlb (s : State) (c : Nat) (e : TlbEntry) : State :=
  let e := { e with used := s.now }
  let s := s.modCore c fun k => { k with tlb := tlbPut Config.l1TlbEntries k.tlb e }
  s.modHedge (hedgeKey c) fun h => { h with l2tlb := tlbPut Config.l2TlbEntries h.l2tlb e }

/-- The use of a translation. -/
def State.useTlb (s : State) (c asid va : Nat) : State :=
  match s.tlb c asid va with
  | some e => s.fillTlb c e
  | none => s

/-! ### The outcome of locating an access -/

/-- What an access does. -/
inductive Purpose where
  | load | store | atomic
deriving DecidableEq, Repr

/-- Where an access goes: a byte address with its policy and remote owner; an owner on another chip; no memory (a zero
return or a dropped store); a fault, with its rank in R227's order; a wait, with the rank at which it stands. -/
inductive Found where
  | at_ (addr pol : Nat) (owner : Option Nat)
  | chip (owner off : Nat)
  | drop
  | fault (rank code detail : Nat) (origin : Bool)
  | hold (rank : Nat) (w : Wait)
deriving DecidableEq, Repr

/-- An address as a 64-bit double. -/
def wrap64 (v : Int) : Nat := (v % 2 ^ 64).toNat

/-- A 4 KiB page of an SRAM that a snapshot still shares (15 R341). -/
def State.sharedPage (s : State) (addr : Nat) : Bool :=
  s.yew.snaps.any fun n => n.status ≤ 1 && n.shared.contains (addr / 4096)

/-- A page of DRAM that has not been written since the latest cut: the controller's written bit is clear (15 R340). -/
def State.unwritten (s : State) (addr : Nat) : Bool :=
  s.yew.snaps.any fun n => n.status ≤ 1 && (n.uncopied ++ n.pinned).contains (addr / 65536 * 65536)

/-- The translation of a virtual address and the page's state (04 R91, R104, R105; in the order of 09 R227): only normal and
pinned pages ask for the write bit. -/
def State.translate (s : State) (c asid va : Nat) (kind : Purpose) (pol : Nat) : Found :=
  match s.tlb c asid va with
  | none => .hold 6 (.walk va)
  | some e =>
    let st := fld e.pte 61 3
    let write := kind != .load
    let read := kind != .store
    let pa := pteAddr e.pte e.large va
    if !s.physOk pa then .fault 6 fcTranslation va false
    else if !bit e.pte 2 || (write && st ≤ 2 && !bit e.pte 1) || (read && !bit e.pte 0) then .fault 7 fcProtection va false
    else if st = 5 then .fault 9 fcPoison va false
    else if write && (st = 3 || s.unwritten pa) then .hold 11 (.pageCopy va)
    else .at_ pa pol none

/-- R211 lines 4 to 8 for one access of `n` bytes at offset `e`, aligned to `align`, by the thread or transfer of an ASID
and class on a core; `clamp` is the offset read in its place under clamp, `inb` whether it lies in the record. Where another
core of the package owns the record, the checks here are the owner's answer (04 R98; 09 R227): the owner repeats them when the
access is performed, and `State.ownerFound` is then where it goes. -/
def State.locateAt (s : State) (c asid cls r : Nat) (e : Int) (n align : Nat) (kind : Purpose) (byteForm : Bool)
    (inb : Bool) (clamp : Option Int) : Found :=
  let sp := recSpace r
  let owner := recOwner r
  let own := s.coreId asid c
  let far := (Tab.get? (s.die (dieOf c)).asids asid).getD {}
  let inb := inb && (sp != 4 || (0 ≤ e && e + n ≤ far.farLimit))
  let addr0 := wrap64 (recBase r + e)
  let remote := sp == 2 && owner != own
  let onChip := !remote || chipOf owner == s.chip asid
  let target := if remote then s.phys owner else c
  let view := privateView (s.core target).csr.lsplit cls
  if sp = 5 then .fault 1 fcPrivilege 0 false
  else if remote && onChip && (s.rename owner).st != 0 then .fault 1 fcRemote owner false
  else if (sp == 1 || sp == 2) && onChip && !s.viewOpen target asid cls then .fault 1 fcPrivilege 0 false
  else if sp == 3 && (s.core c).csr.shasid != asid then .fault 1 fcPrivilege 0 false
  else if sp == 4 && far.farLimit == 0 then .fault 2 fcAddrSpace addr0 false
  else if !onChip && kind == .load then .fault 2 fcAddrSpace addr0 false
  else if (sp == 1 || sp == 2) && onChip && view.2 == 0 then .fault 2 fcAddrSpace addr0 false
  else
    let e' := if inb || recBounds r < 2 then some e
      else if kind == .load && recBounds r == 2 then clamp else none
    match e' with
    | none => .drop
    | some e' =>
      let addr := wrap64 (recBase r + e')
      if (sp == 1 || sp == 2) && onChip && view.2 < addr + n then .fault 2 fcAddrSpace addr false
      else if sp == 3 && Config.hedgeBytes < addr + n then .fault 2 fcAddrSpace addr false
      else if !inb && recBounds r == 1 then .fault 3 fcBounds (wrap64 e) false
      else if sp == 0 && 2 ^ 48 ≤ addr then .fault 4 fcTranslation addr false
      else if addr % align != 0 then .fault 5 fcAlignment addr false
      else if byteForm && 1 ≤ sp && sp ≤ 4 && e' % align != 0 then .fault 5 fcAlignment (wrap64 e') false
      else if !onChip then .chip owner addr
      else if sp == 0 then s.translate c asid addr kind (recPolicy r)
      else if sp == 4 then
        let pa := 2 ^ 43 + far.farBase + addr
        if !s.physOk pa then .fault 6 fcTranslation addr false
        else if kind != .load && (portAt s.host.farWindows (pa - 2 ^ 43)).2 then .fault 7 fcProtection addr false
        else .at_ pa (recPolicy r) none
      else
        let a := if sp == 3 then hedgeAt (hedgeKey c) addr else sramAt target (view.1 + addr)
        if kind != .load && s.sharedPage a then .hold 11 (.sramCopy (a / 4096))
        else .at_ a 3 (if target = c then none else some target)

/-- The same for an access of whole bytes (04 R99, R100). In space 4 a clamped load reads the last bytes that both the extent
and the far window hold (DEDUCED, log 43). -/
def State.locate (s : State) (c asid cls r : Nat) (e : Int) (n align : Nat) (kind : Purpose) (byteForm : Bool) : Found :=
  let far := (Tab.get? (s.die (dieOf c)).asids asid).getD {}
  let limit := if recSpace r = 4 then min (recExtent r) far.farLimit else recExtent r
  s.locateAt c asid cls r e n align kind byteForm (0 ≤ e && e + n ≤ recExtent r)
    (if n ≤ limit then some (limit - n : Nat) else none)

/-- The 128-byte line of an address. -/
def lineOf (addr : Nat) : Nat := addr / 128

/-- Poisoned words of memory, by word number; the origin bit counts on the core whose SRAM holds the word (14 R324). -/
def State.poisonAt (s : State) (addr n : Nat) : Option Bool :=
  (List.range ((addr + n + 7) / 8 - addr / 8)).findSome? fun i => Tab.get? s.poison (addr / 8 + i)

/-- Poisoned words that a thread's load or atomic would consume: those of its leased copy while that serves it, else of
memory (04 R82; 12 R285). -/
def State.consumes (s : State) (c slot addr n pol : Nat) (kind : Purpose) : Option Bool :=
  match (s.core c).cache.find? fun l => l.line == lineOf addr with
  | some l =>
    if kind == .load && pol < 2 && l.st == .s && (s.ctx c slot).pt ≤ l.rts then
      let words := (List.range ((addr + n + 7) / 8 - addr / 8)).map (addr / 8 % 16 + ·)
      if words.any fun w => bit l.poison w then some (words.any fun w => bit l.struck w) else none
    else s.poisonAt addr n
  | none => s.poisonAt addr n

/-- The rank of a fault that a page's walk gives (09 R227). -/
def walkRank (code : Nat) : Nat := if code = fcTranslation then 6 else if code = fcPage then 8 else 9

/-- What becomes of a located access of a thread. A page whose walk has failed for this instruction gives its fault (04
R105). Poison adds its fault or a wait to a load or atomic: an earlier access of the thread that has not been performed may
yet clear the mark, so the thread settles first. An owner meets poison when it performs the access (04 R98). -/
def State.withPoison (s : State) (c slot n : Nat) (kind : Purpose) (detail : Nat) (f : Found) : Found :=
  match f with
  | .at_ addr pol owner =>
    if kind == .store || owner.isSome then f
    else match s.consumes c slot addr n pol kind with
      | none => f
      | some origin =>
        if (s.ctx c slot).pipe.isEmpty then .fault 9 fcPoison detail (origin && 2 ^ 48 ≤ addr && addr < 2 ^ 49)
        else .hold 9 .performed
  | .hold 6 (.walk va) =>
    match Tab.get? (s.ctx c slot).badPages (va / 65536) with
    | some code => .fault (walkRank code) code va false
    | none => f
  | f => f

/-- The rank at which an outcome stands, faults and waits first. -/
def Found.rank : Found → Nat
  | .fault r _ _ _ => r
  | .hold r _ => r
  | _ => 100

/-- Among the accesses of one instruction, the first fault or wait in rank, and among equals in order (10 R241). -/
def firstFault (l : List Found) : Option Found :=
  match (sortBy Found.rank l).head? with
  | some f => if f.rank < 100 then some f else none
  | none => none

end Sys2Proof.Machine
end

