-- ==== Sys2Proof/Machine/Coherence.lean ====
section
/-! DEFINITION. Homes, leases and ownership (12 R283 to R288; 19 R388, R389), cache portions and victim caches (04 R85, R88),
pins (R90), and the performing of a thread's accesses in order. -/

namespace Sys2Proof.Machine

/-! ### Lines -/

/-- The 1,024 bits of a line, as memory holds them. -/
def State.line (s : State) (line : Nat) : Nat := s.mem.read (line * 128) 128

/-- The home of a line: a slice, a far port, the host port (12 R284). -/
def State.homeKey (s : State) (line : Nat) : Nat :=
  let a := line * 128
  if a < 2 ^ 39 then a / 2 ^ 36 * Config.slices + a % 2 ^ 36 / 128 % Config.slices
  else if a < 2 ^ 44 then 1000 + (portAt s.host.farWindows (a - 2 ^ 43)).1
  else 2000

/-- The set of a line in its home's directory (19 R388); of far and host directories by DESIGN CHOICE, log 16. -/
def homeSet (line : Nat) : Nat :=
  if line * 128 < 2 ^ 39 then line * 128 % 2 ^ 36 / 128 / Config.slices % Config.dirSets else 4096 + line % 4096

def State.home (s : State) (key : Nat) : Home := Tab.getD s.homes key {}
def State.setHome (s : State) (key : Nat) (h : Home) : State := { s with homes := Tab.put s.homes key h }
def State.entry? (s : State) (line : Nat) : Option HomeEntry :=
  (s.home (s.homeKey line)).entries.find? fun e => e.line == line
def State.setEntry (s : State) (e : HomeEntry) : State :=
  let k := s.homeKey e.line
  let h := s.home k
  s.setHome k { h with entries := h.entries.filter (fun f => f.line != e.line) ++ [e] }

/-- A time and the new times of a line at which an access at PT is performed (12 R285, R286). -/
def stampOf (pt wts rts : Nat) (excl writes : Bool) : Nat × Nat × Nat :=
  if excl then
    let ts := max pt (rts + 1)
    (ts, if writes then (ts, ts) else (wts, max rts ts))
  else
    let ts := max pt wts
    (ts, wts, max rts ts)

/-- What stands for the task scheduler among the waiters at a counter's home, with its record in the place of the address
(13 R303). -/
def schedWaiter : Nat := 2 ^ 40

/-- Threads that JOIN a counter are woken when a store or atomic leaves it zero (05 R129). -/
def State.joinCheck (s : State) (line : Nat) : State :=
  let parked := fun (d : Die) => d.joiners.filter fun j => lineOf j.1 == line && s.mem.read j.1 8 == 0
  s.dies.foldl (fun s e => ((parked e.2).map Prod.fst).eraseDups.foldl (fun s a => s.post (.joinWake e.1 a)) s) s

/-- A core has taken its local cut of the open snapshot (15 R338): its messages carry cut bit 1. -/
def State.cutTaken (s : State) (c : Nat) : Bool :=
  s.yew.snaps.any fun n => n.status == 0 && n.cores.any fun k => k.core == c

/-- The cut bit of a message that a core sends for an ASID: 1 for the job of the open snapshot, once the core has cut. -/
def State.cutBit (s : State) (c asid : Nat) : Bool :=
  s.cutTaken c && s.yew.snaps.any fun n => n.status == 0 && (s.jobOf asid).any fun j => j.num == n.job

/-- Bytes of the page at an address: 4 KiB in an SRAM, 64 KiB elsewhere (04 R103, 15 R341). -/
def pageSpan (addr : Nat) : Nat := if 2 ^ 48 ≤ addr then 4096 else 65536

/-- A write that carries cut bit 0 to a page already copied for the open snapshot is channel state (15 R344): it is
applied to the page's image as well, which is what its redelivery after a rollback would do (log 19). -/
def State.imageWrite (s : State) (c line data mask : Nat) : State :=
  if s.yew.snaps.any (fun n => n.status == 0) && !s.cutTaken c then
    { s with yew := { s.yew with snaps := s.yew.snaps.map fun n =>
        if n.status = 0 then
          { n with pages := n.pages.map fun p =>
              if p.1 ≤ line * 128 && line * 128 < p.1 + pageSpan p.1 then
                (p.1, p.2.1.write (line * 128) 128 (blend (p.2.1.read (line * 128) 128) data mask), p.2.2)
              else p }
        else n } }
  else s

/-- Bits of a line written by a core's access or engine: memory takes them, and words wholly written lose their poison
(04 R82). -/
def State.putLine (s : State) (c line data mask : Nat) : State :=
  let old := s.line line
  let full := wordsCovered mask
  let s := s.imageWrite c line data mask
  let s := { s with mem := s.mem.write (line * 128) 128 (blend old data mask),
                    poison := s.poison.filter fun p => !(p.1 / 16 == line && full.contains (p.1 % 16)) }
  s.joinCheck line

/-! ### Cache portions and victim caches -/

def Core.cacheSets (k : Core) : Nat := 192 + 64 * cacheCode k.csr.lsplit

/-- Lines of a hedge's victim cache: the sum of the shares that its cores lend (04 R88). -/
def State.victimLines (s : State) (h : Nat) : Nat :=
  (List.range 17).foldl (fun n i =>
    let k := s.core (h / 32 * 8192 + h % 32 * 256 + i * 8)
    n + (match fld k.csr.vgroup 0 2 with
      | 1 => 2 * k.cacheSets
      | 2 => 4 * k.cacheSets
      | _ => 0)) 0

/-- Who a home entry names: a core's key, or a hedge's victim cache. -/
def victimOwner (h : Nat) : Nat := 2 ^ 20 + h
def engineOwner (h : Nat) : Nat := 2 ^ 21 + h

/-- Poison marks of a line's words, as a mask. -/
def State.linePoison (s : State) (line : Nat) : Nat :=
  (List.range 16).foldl (fun m w => if (Tab.get? s.poison (16 * line + w)).isSome then m + 2 ^ w else m) 0

/-- The words that an owner's copy reports as poisoned: of a clean copy those that an error struck in it, which its home
does not share. -/
def CacheLine.marks (l : CacheLine) : Nat := if l.st = .m then l.poison else l.struck

/-- A copy leaves the last cache that held it: a leased one silently, an owned one with its times and data (12 R288). -/
def State.dropLine (s : State) (l : CacheLine) : State :=
  if l.st = .s then s else s.post (.writeback l.line l.wts l.rts l.data l.marks (l.st == .m))

/-- The home entry of a line that moves between caches names its new owner. -/
def State.moveOwner (s : State) (l : CacheLine) (owner : Nat) : State :=
  if l.st = .s then s
  else match s.entry? l.line with
    | some e => s.setEntry { e with owner := owner }
    | none => s

/-- A line leaves a core's cache portion: to the victim cache where there is one and the line may be lent (04 R88). The
victim cache keeps one copy of a line, an owned one before a leased one. -/
def State.evictLine (s : State) (h : Nat) (l : CacheLine) : State :=
  let size := s.victimLines h
  let owned := (s.hedge h).victim.any fun e => e.line == l.line && e.st != .s
  if size = 0 || l.streaming then s.dropLine l
  else if owned then s
  else
    let sets := size / 8
    let v := (s.hedge h).victim.filter fun e => e.line != l.line
    let same := v.filter fun e => e.line % sets == l.line % sets
    let out := if same.length < Config.cacheWays then none else (sortBy CacheLine.used same).head?
    let l := { l with used := s.now, struck := if l.st = .s then 0 else l.struck }
    let s := s.modHedge h fun x => { x with victim := (match out with | some o => v.erase o | none => v) ++ [l] }
    let s := { s with poison := s.poison.map fun (p : Nat × Bool) => if p.1 / 16 == l.line then (p.1, false) else p }
    let s := s.moveOwner l (victimOwner h)
    match out with
    | some o => s.dropLine o
    | none => s

/-- The ways of each set that a core keeps of its cache portion, the share that it lends being two or four of the eight (04
R88). -/
def Core.ownWays (k : Core) : Nat := Config.cacheWays - 2 * fld k.csr.vgroup 0 2

/-- A line enters a core's cache portion, the least recently used of its set leaving a full set (04 R85). -/
def State.cacheLine (s : State) (c : Nat) (l : CacheLine) : State :=
  let k := s.core c
  let rest := k.cache.filter fun e => e.line != l.line
  let same := rest.filter fun e => e.line % k.cacheSets == l.line % k.cacheSets
  let out := if same.length < k.ownWays then none else (sortBy CacheLine.used same).head?
  let s := s.modCore c fun k => { k with cache := (match out with | some o => rest.erase o | none => rest) ++ [l] }
  match out with
  | some o => s.evictLine (hedgeKey c) o
  | none => s

def Core.cached (k : Core) (line : Nat) : Option CacheLine := k.cache.find? fun l => l.line == line

/-- A miss that hits in the victim cache moves the line back (04 R88). -/
def State.fromVictim (s : State) (c line : Nat) : State :=
  let h := hedgeKey c
  match (s.hedge h).victim.find? fun l => l.line == line with
  | none => s
  | some l =>
    let s := s.modHedge h fun x => { x with victim := x.victim.filter fun e => e.line != line }
    (s.moveOwner l c).cacheLine c { l with used := s.now }

/-! ### The home directory -/

/-- The slice that is a bonded-DRAM line's home caches it (04 R81, R92, R102): a fill allocates it, the least recently used
line of its set leaving a full set, which writes it back to DRAM; other uses touch only what is there. Which set of the 512 a
line takes is the model's choice, after the directory's (log 42). -/
def l2Set (line : Nat) : Nat := line * 128 % 2 ^ 36 / 128 / Config.slices % Config.l2Sets
def Home.l2Touch (h : Home) (line now : Nat) (fill dirty : Bool) : Home :=
  let rest := h.l2.filter fun e => e.line != line
  match h.l2.find? fun e => e.line == line with
  | some e => { h with l2 := rest ++ [{ e with dirty := e.dirty || dirty, used := now }] }
  | none =>
    if !fill then h
    else
      let same := rest.filter fun e => l2Set e.line == l2Set line
      let out := if same.length < Config.l2Ways then none else (sortBy L2Line.used same).head?
      { h with l2 := (match out with | some o => rest.erase o | none => rest) ++ [{ line := line, dirty := dirty, used := now }] }
/-- A line whose directory entry leaves is written back (12 R288). -/
def Home.l2Clean (h : Home) (line : Nat) : Home :=
  { h with l2 := h.l2.map fun e => if e.line == line then { e with dirty := false } else e }
def State.l2Touch (s : State) (line : Nat) (fill dirty : Bool) : State :=
  let key := s.homeKey line
  if 1000 ≤ key then s else s.setHome key ((s.home key).l2Touch line s.now fill dirty)

/-- An entry from which a request may be served: created where the line has none, the set's least recently requested
entry being evicted (12 R287, R288; 19 R388). Otherwise the request waits, with a recall begun where one is needed. -/
def State.homeTake (s : State) (line : Nat) (who : Option Nat) : Except State (HomeEntry × State) :=
  let recallOf := fun (s : State) (e : HomeEntry) => (s.setEntry { e with recalling := true }).post (.recall e.line e.owner)
  match s.entry? line with
  | some e =>
    if e.recalling || e.st = .p then .error s
    else if (e.st == .x || e.st == .m) && some e.owner != who then .error (recallOf s e)
    else .ok ({ e with stamp := s.now }, s)
  | none =>
    let key := s.homeKey line
    let h := s.home key
    let same := h.entries.filter fun e => homeSet e.line == homeSet line
    if same.length < Config.dirWays then
      .ok ({ line := line, wts := h.high, rts := h.high, stamp := s.now }, s)
    else
      match (sortBy HomeEntry.stamp (same.filter fun e => !e.recalling && e.st != .p)).head? with
      | none => .error s
      | some v =>
        if v.st = .x || v.st = .m then .error (recallOf s v)
        else
          let high := max h.high (max v.rts v.wts)
          .ok ({ line := line, wts := high, rts := high, stamp := s.now },
            s.setHome key { (h.l2Clean v.line) with entries := h.entries.filter (fun e => e.line != v.line), high := high })

/-! ### What an access does to its line -/

/-- The least bit of a mask. -/
def lowBit (m : Nat) : Nat := ((List.range 1024).find? fun i => bit m i).getD 0

/-- The value an atomic writes, if it writes (09 R216, R217). -/
def AtomOp.eval (op : AtomOp) (old v h : Nat) : Option Nat :=
  let sv := (BitVec.ofNat 64 v).toInt
  let so := (BitVec.ofNat 64 old).toInt
  match op with
  | .swap => some v
  | .add => some ((old + v) % 2 ^ 64)
  | .and => some (old &&& v)
  | .or => some (old ||| v)
  | .xor => some (old ^^^ v)
  | .minS => some (if sv < so then v else old)
  | .maxS => some (if so < sv then v else old)
  | .minN => some (min old v)
  | .maxN => some (max old v)
  | .cas => if old = h then some v else none
  | .amax32 => some (Sys2Proof.amax32 old (v % 2 ^ 32))
  | .amaxswap32 => some (v % 2 ^ 32)

/-- An access's operation as a remote message names it: 0 a store, 1 and up the atomics. -/
def AccKind.code : AccKind → Nat
  | .atomic .swap _ _ _ => 1 | .atomic .add _ _ _ => 2 | .atomic .and _ _ _ => 3 | .atomic .or _ _ _ => 4
  | .atomic .xor _ _ _ => 5 | .atomic .minS _ _ _ => 6 | .atomic .maxS _ _ _ => 7 | .atomic .minN _ _ _ => 8
  | .atomic .maxN _ _ _ => 9 | .atomic .cas _ _ _ => 10 | .atomic .amax32 _ _ _ => 11 | .atomic .amaxswap32 _ _ _ => 12
  | _ => 0
def atomOfCode (n : Nat) : Option AtomOp :=
  match n with
  | 1 => some .swap | 2 => some .add | 3 => some .and | 4 => some .or | 5 => some .xor | 6 => some .minS
  | 7 => some .maxS | 8 => some .minN | 9 => some .maxN | 10 => some .cas | 11 => some .amax32
  | 12 => some .amaxswap32 | _ => none

/-- Whether an access needs ownership; whether it writes, the new line, and the bits it returns. -/
def Access.excl (a : Access) : Bool := match a.kind with | .load => false | .none => false | _ => true

def Access.apply (a : Access) (line : Nat) : Bool × Nat × Nat :=
  match a.kind with
  | .load => (false, line, a.segs.foldl (fun acc g => acc + fld line g.1 g.2.1 * 2 ^ g.2.2) 0)
  | .store => (true, blend line a.data a.mask, 0)
  | .atomic op bytes v h =>
    let lo := lowBit a.mask
    let old := fld line lo (8 * bytes)
    match op.eval old v.toNat h.toNat with
    | some new => (true, blend line (new * 2 ^ lo) a.mask, old)
    | none => (false, line, old)
  | .none => (false, line, 0)

/-- The access at the head of a thread's pipeline has been performed at a time: PT moves past it, its bits reach the
result, and a JOIN's load decides the wait (12 R283; 09 R212, R216; 08 R179): a thread that joins on a count which a leased
copy showed, and which the home already holds as zero, is woken at once (log 25). -/
def State.finishAccess (s : State) (c slot : Nat) (a : Access) (ts got : Nat) : State :=
  let s := s.modCtx c slot fun x =>
    { x with pt := ts + 1, pipe := x.pipe.drop 1, out := x.out.map fun p =>
        if p.seq == a.seq && a.seq != 0 then { p with left := p.left - 1, acc := p.acc + got } else p }
  let s := match a.join with
    | none => s
    | some addr =>
      if got = 0 then s.modCtx c slot fun x => { x with phase := 2, status := .ready }
      else
        let s := s.modDie (dieOf c) fun d => { d with joiners := d.joiners ++ [(addr, c, slot, a.va)] }
        if s.mem.read addr 8 = 0 then s.post (.joinWake (dieOf c) addr) else s
  match (s.ctx c slot).out.find? fun p => p.seq == a.seq && a.seq != 0 with
  | some p =>
    if p.left = 0 then
      s.post (if p.kind == .atomic then .atomicReturn c slot p.seq else .loadReturn c slot p.seq)
    else s
  | none => s

/-- The loading bit of a w register (03 R70). -/
def Core.setLoading (k : Core) (n : Nat) (b : Bool) : Core :=
  { k with regs := { k.regs with w := Tab.put k.regs.w n { (Tab.getD k.regs.w n {}) with loading := b } } }

/-- A fault that an access at the head of a thread's pipeline meets as it is performed: poison on a word that carried no mark
at issue, or what the owner of another core's memory finds (04 R98). It is reported with the access's own program address (log
17). -/
def State.accessFault (s : State) (c slot : Nat) (a : Access) (code detail : Nat) (origin : Bool) : State :=
  let wd := ((s.ctx c slot).out.find? fun p => p.seq == a.seq && a.seq != 0 && p.bytes == 128).map Pending.queue
  let s := match wd with
    | some (n + 1) => s.modCore c fun k => k.setLoading n false
    | _ => s
  let s := s.modCtx c slot fun x => { x with pc := a.pc, pipe := x.pipe.drop 1, out := x.out.filter fun p => p.seq != a.seq || a.seq == 0 }
  s.takeFault c slot code detail (a.pc.word == 1) origin
def State.poisonedAccess (s : State) (c slot : Nat) (a : Access) (origin : Bool) : State :=
  s.accessFault c slot a fcPoison a.va origin

/-- The bits of a line that an access consumes. -/
def Access.reads (a : Access) : Nat :=
  match a.kind with
  | .load => a.segs.foldl (fun m g => m ||| (ones g.2.1 * 2 ^ g.1)) 0
  | .atomic _ _ _ _ => a.mask
  | _ => 0

/-- The offset behind the last byte that an access touches. -/
def Access.end_ (a : Access) : Nat :=
  128 * a.line + Nat.log2 (match a.kind with | .load => a.reads | _ => a.mask) / 8 + 1

/-- A consumed word of memory that carries a poison mark. -/
def State.poisonHit (s : State) (a : Access) : Option Bool :=
  (wordsTouched a.reads).findSome? fun w => Tab.get? s.poison (16 * a.line + w)

/-- An access performed on memory itself, under given times of its line; the new times. -/
def State.performAt (s : State) (c slot : Nat) (a : Access) (wts rts : Nat) : State × Nat × Nat :=
  let r := a.apply (s.line a.line)
  let t := stampOf (s.ctx c slot).pt wts rts a.excl r.1
  let s := if r.1 then s.putLine c a.line r.2.1 a.mask else s
  (s.finishAccess c slot a t.1 r.2.2, t.2.1, t.2.2)

/-- A line homed at an SRAM (12 R284). -/
def State.performSram (s : State) (c slot : Nat) (a : Access) : State :=
  match s.poisonHit a with
  | some o => s.poisonedAccess c slot a (o && a.owner.isNone)
  | none =>
    let t := Tab.getD s.sramT a.line (0, 0)
    let r := s.performAt c slot a t.1 t.2
    { r.1 with sramT := Tab.set r.1.sramT a.line (r.2.1, r.2.2) (0, 0) }

/-- A line that the core's cache portion owns (12 R285, R286). -/
def State.performOwned (s : State) (c slot : Nat) (a : Access) (l : CacheLine) : State :=
  match s.poisonHit a with
  | some o => s.poisonedAccess c slot a o
  | none =>
    let r := s.performAt c slot a l.wts l.rts
    let wrote := (a.apply (s.line a.line)).1
    let st := if wrote then LineState.m else l.st
    let s := r.1.modCore c fun k => { k with cache := k.cache.map fun e =>
      if e.line == a.line then
        { e with wts := r.2.1, rts := r.2.2, data := r.1.line a.line, used := s.now, st := st, poison := r.1.linePoison a.line,
                 struck := l.struck &&& r.1.linePoison a.line }
      else e }
    if wrote then
      match s.entry? a.line with
      | some e => s.setEntry { e with st := .m }
      | none => s
    else s

/-- A load from a leased copy (12 R285). -/
def State.performLeased (s : State) (c slot : Nat) (a : Access) (l : CacheLine) : State :=
  if (wordsTouched a.reads).any fun w => bit l.poison w then
    s.poisonedAccess c slot a ((wordsTouched a.reads).any fun w => bit l.struck w)
  else
    let s := s.modCore c fun k => { k with cache := k.cache.map fun e => if e.line == a.line then { e with used := s.now } else e }
    s.finishAccess c slot a (max (s.ctx c slot).pt l.wts) (a.apply l.data).2.2

/-- The active message that carries a store or atomic to an owner on another chip (04 R98): the bytes that its mask spans
from the owner's offset on; for a store of parts of them, `h` is the mask. -/
def Access.message (a : Access) (x : Ctx) (cut : Bool) : PorterItem :=
  let lo := lowBit a.mask / 8 * 8
  let bytes := (Nat.log2 a.mask - lo) / 8 + 1
  let part := if a.mask / 2 ^ lo = ones (8 * bytes) then 0 else a.mask / 2 ^ lo
  { blk := 0, off := 0, asid := a.asid, cls := x.cls, pt := x.pt, regs := [], cut := cut, land := none, msg := none,
    wr := some { offset := a.line * 128 + lo / 8, bytes := bytes,
                 value := (match a.kind with | .atomic _ _ v _ => v.toNat % 2 ^ (8 * bytes) | _ => a.data / 2 ^ lo), op := a.kind.code,
                 h := (match a.kind with | .atomic _ _ _ h => h.toNat | _ => part) } }

/-- The head of a thread's pipeline: performed where it can be, else its request is sent, once (12 R283). The flag says
that it was performed. -/
def State.headAccess (s : State) (c slot : Nat) : State × Bool :=
  match (s.ctx c slot).pipe with
  | [] => (s, false)
  | a :: rest =>
    let ask := fun (s : State) (i : Instr) =>
      if a.posted then (s, false)
      else ((s.modCtx c slot fun x => { x with pipe := { a with posted := true } :: rest }).post i, false)
    if a.kind = .none then (s.finishAccess c slot a (max (s.ctx c slot).pt (a.observe.getD 0)) 0, true)
    else match a.owner with
      | some o =>
        if 2 ^ 30 ≤ o && s.linkDown a.asid (o - 2 ^ 30) then ask s (.errorMessageArrival (.access c slot (o - 2 ^ 30)))
        else if 2 ^ 30 ≤ o then
          let item := a.message (s.ctx c slot) (s.cutBit c a.asid)
          let bytes := (item.wr.map RemoteWrite.bytes).getD 0
          let s := { s with outbox := s.outbox ++ [(OutMsg.mk (chipOf (o - 2 ^ 30)) (.activeMessageArrival (o - 2 ^ 30) item))] }
          let (v, s) := if a.seq = 0 then (0, s) else s.takeNat
          (s.finishAccess c slot a (s.ctx c slot).pt (v % 2 ^ (8 * bytes)), true)
        else ask s (.remotePrivateRequest c slot)
      | none =>
        if isSramLine a.line then
          if s.pins.contains a.line then (s, false) else (s.performSram c slot a, true)
        else
          let s := if ((s.core c).cached a.line).isNone && a.pol < 2 then s.fromVictim c a.line else s
          match (s.core c).cached a.line with
          | some l =>
            if a.pol < 2 && l.st != .s && !a.forced then (s.performOwned c slot a l, true)
            else if a.excl then ask s (.ownershipRequest c slot a.line)
            else if a.pol < 2 && l.st == .s && !a.forced && (s.ctx c slot).pt ≤ l.rts then (s.performLeased c slot a l, true)
            else if a.pol < 2 then ask s (.leaseRenewal c slot a.line)
            else ask s (.fillRequest c slot a.line)
          | none =>
            if a.excl then ask s (.ownershipRequest c slot a.line) else ask s (.fillRequest c slot a.line)

/-- A thread's accesses performed in order until one must wait. -/
def State.pump (s : State) (c slot : Nat) : Nat → State
  | 0 => s
  | fuel + 1 =>
    match s.headAccess c slot with
    | (s, true) => s.pump c slot fuel
    | (s, false) => s

def State.pumpAll (s : State) (c slot : Nat) : State := s.pump c slot ((s.ctx c slot).pipe.length + 1)

/-- The accesses of an instruction join the thread's pipeline. -/
def State.access (s : State) (c slot : Nat) (l : List Access) : State :=
  (s.modCtx c slot fun x => { x with pipe := x.pipe ++ l }).pumpAll c slot

/-- A change of a core's split that waits for its porter: until it is done the core's router holds landing packets and
remote private accesses (04 R86 steps 1 and 5). -/
def State.splitWaits (s : State) (c : Nat) : Bool :=
  s.timers.any fun e => match e.2 with | .lsplit k _ => k == c | _ => false

/-- The due time of what a router holds: never. -/
def heldTime : Nat := 2 ^ 64

/-- A message held at its router while the split waits, behind the others there; and what routers hold let in again, in its
order, before later messages. -/
def State.hold (s : State) (i : Instr) : State := { s with timers := insertBy Prod.fst (heldTime, i) s.timers }
def State.letIn (s : State) : State :=
  { s with net := (s.timers.filter fun e => heldTime ≤ e.1).map Prod.snd ++ s.net, timers := s.timers.filter fun e => e.1 < heldTime }

/-! ### Pins (04 R90) -/

/-- Threads whose next access waits on an SRAM line go on. -/
def State.pumpLine (s : State) (line : Nat) : State :=
  s.cores.foldl (fun s e => e.2.ctxs.foldl (fun s x =>
    match x.2.pipe with
    | a :: _ => if a.line == line && a.owner.isNone then s.pumpAll e.1 x.1 else s
    | [] => s) s) s

def State.pin (s : State) (line : Nat) : State := { s with pins := s.pins ++ [line] }
def State.unpin (s : State) (line : Nat) : State :=
  State.pumpLine { s with pins := s.pins.filter (· != line) } line

end Sys2Proof.Machine
end

