-- ==== Sys2Proof/Machine/Threads.lean ====
section
/-! DEFINITION. Threads as they arrive, wait, leave and move: windows (03 R58, 02 R37), travel messages (R39 to R42), admission
(R43 to R45, R48), spill queues and deques (05 R110 to R114), the choice of a holder (R38) and placement (R35). -/

namespace Sys2Proof.Machine

/-! ### Windows -/

/-- Main and vector runs in use on a core, but for one slot. -/
def Core.mainRuns (k : Core) (but : Nat) : List (Nat × Nat) :=
  k.ctxs.filterMap fun e => if e.1 == but || e.2.status == .free || e.1 == 63 then none
    else some (e.2.win.mainBase, 8 * (e.2.win.mainCode + 1))
def Core.vecRuns (k : Core) (but : Nat) : List (Nat × Nat) :=
  k.ctxs.filterMap fun e => if e.1 == but || e.2.status == .free || e.1 == 63 then none
    else some (e.2.win.vecBase, 4 * e.2.win.vecCode)

/-- The lowest free run of a size among runs in use: bases are multiples of `step`, below `limit`. Which of several is taken
the spec leaves open (DESIGN CHOICE, log 85). -/
def freeRun (used : List (Nat × Nat)) (size step limit : Nat) : Option Nat :=
  ((List.range (limit / step)).map (· * step)).find? fun b =>
    b + size ≤ limit && used.all fun u => b + size ≤ u.1 || u.1 + u.2 ≤ b

/-- The free slot of lowest number, but for one. -/
def Core.freeSlot (k : Core) (but : Option Nat) : Option Nat :=
  (List.range 63).find? fun n => (k.ctx n).status == .free && some n != but

/-- The windows of a new thread of a block. -/
def Core.newWindow (k : Core) (p : Placed) (slot : Nat) : Option Win :=
  match freeRun (k.mainRuns slot) (8 * (p.mainCode + 1)) 8 2016, freeRun (k.vecRuns slot) (4 * p.vecCode) 4 252 with
  | some m, some v => some { mainBase := m, mainCode := p.mainCode, vecBase := v, vecCode := p.vecCode }
  | _, _ => none

/-- A run of main entries made zero and full, and of vector entries made zero. -/
def Core.clearMain (k : Core) (base size : Nat) : Core :=
  let inside := fun (e : Nat) => base ≤ e && e < base + size
  { k with file := k.file.filter (fun e => !inside e.1), empty := k.empty.filter (fun e => !inside e),
           badMain := k.badMain.filter fun e => !inside e }
def Core.clearVec (k : Core) (base size : Nat) : Core :=
  let inside := fun (e : Nat) => base ≤ e && e < base + size
  { k with vfile := k.vfile.filter (fun e => !inside e.1), badVec := k.badVec.filter fun e => !inside e }

/-! ### Blocks and holders -/

/-- A block-map entry (05 R123). -/
def Core.mapEntry (k : Core) (asid blk : Nat) : Option MapEntry := k.work.map.find? fun e => e.asid == asid && e.blk == blk

/-- An entry is looked up (05 R123): it is the set's most recently used. -/
def Core.mapUse (k : Core) (asid blk now : Nat) : Core :=
  { k with work := { k.work with map := k.work.map.map fun e => if e.asid == asid && e.blk == blk then { e with used := now } else e } }
def State.mapUse (s : State) (c asid blk : Nat) : State := s.modCore c fun k => k.mapUse asid blk s.now

/-- An entry enters the block-map cache of 32 sets of 8 ways. -/
def Core.mapPut (k : Core) (e : MapEntry) : Core :=
  let rest := k.work.map.filter fun f => !(f.asid == e.asid && f.blk == e.blk)
  let same := rest.filter fun f => f.blk % 32 == e.blk % 32
  let rest := if same.length < 8 then rest else
    match (sortBy MapEntry.used same).head? with
    | some o => rest.erase o
    | none => rest
  { k with work := { k.work with map := rest ++ [e] } }

/-- An entry leaves the block-map cache. -/
def Core.mapDrop (k : Core) (asid blk : Nat) : Core :=
  { k with work := { k.work with map := k.work.map.filter fun f => !(f.asid == asid && f.blk == blk) } }

/-- The block directory's entry on a die (05 R122). -/
def State.dirBlock (s : State) (die asid blk : Nat) : Option DirBlock :=
  (s.die die).blocks.find? fun b => b.asid == asid && b.blk == blk

/-- The bucket of a block in a directory of 2^k buckets, and whether a die's directory has the block, or a place in its bucket for
it (05 R122). -/
def dirBucket (k asid blk : Nat) : Nat := (blk ^^^ (asid * 256)) % 2 ^ k
def Die.bucketTakes (d : Die) (asid blk : Nat) : Bool :=
  d.blocks.any (fun b => b.asid == asid && b.blk == blk)
    || (d.blocks.filter fun b => dirBucket d.dir.log2 b.asid b.blk == dirBucket d.dir.log2 asid blk).length < Config.bucketSize

/-- Ozine is placing a block that has no holder (05 R122). -/
def Die.setPlacing (d : Die) (asid blk : Nat) : Die :=
  if d.blocks.any fun b => b.asid == asid && b.blk == blk then
    { d with blocks := d.blocks.map fun b =>
        if b.asid == asid && b.blk == blk then { b with placing := b.placing || b.holders.isEmpty } else b }
  else if d.bucketTakes asid blk then { d with blocks := d.blocks ++ [{ asid := asid, blk := blk, placing := true }] }
  else d

/-- What a core caches of a directory entry: its first eight holders as ranked from it (05 R123). -/
def State.mapOf (s : State) (c asid blk : Nat) : MapEntry :=
  match s.dirBlock (dieOf c) asid blk with
  | none => { asid := asid, blk := blk, used := s.now }
  | some b =>
    { asid := asid, blk := blk, descs := b.descs, nholders := b.holders.length,
      holders := (sortBy (rankOf (s.coreId asid c)) b.holders).take 8, used := s.now }

/-- The holder a travelling transfer goes to (02 R38): the first ranked one whose hint is set, else holder t mod n by id;
none when that holder must be read from the directory (05 R123). -/
def MapEntry.choose (e : MapEntry) (tid : Nat) : Option Nat :=
  match e.holders.find? e.hints.contains with
  | some h => some h
  | none => if e.nholders ≤ 8 then (sortBy id e.holders)[tid % e.nholders]? else none

/-! ### Messages -/

/-- The travel message of a thread for an entry (02 R39, R40): a register outside the window is carried as zero, full. -/
def State.packTravel (s : State) (c slot t kind desc link : Nat) (j : Option Nat) : Travel :=
  let k := s.core c
  let x := k.ctx slot
  let live := (List.range 16).filter fun i => bit (descLive desc) i
  let masks := (List.range 7).filter fun j => bit (descMasks desc) j
  let full := (List.range 16).foldl (fun acc i => if x.mainSize ≤ i || k.isFull slot i then acc + 2 ^ i else acc) 0
  { pt := x.pt, asid := x.asid, dest := t, j := j, origin := s.coreId x.asid c, link := link,
    live := descLive desc, full := full, maskLive := descMasks desc, kind := kind, cls := x.cls,
    redun := bit x.tstat 1, rolled := false,
    regs := live.map fun i => (i, if i < x.mainSize then k.readMain x i else 0),
    masks := masks.map fun j => (j + 1, x.mask (j + 1)), cut := s.cutBit c x.asid, tid := s.tid c slot, parent := none }

/-- The first live register of an entry whose parity is bad (02 R39). -/
def State.packParity (s : State) (c slot desc : Nat) : Option Nat :=
  let k := s.core c
  let x := k.ctx slot
  ((List.range 16).filter fun i => bit (descLive desc) i && i < x.mainSize).findSome? fun i =>
    if k.badMain.contains (x.win.mainBase + i) then some (x.win.mainBase + i) else none

/-- Every register live: what a message carries for a block of which the directory has no entry, and what its packing then
checks for parity (DESIGN CHOICE, log 18). -/
def allLive : Nat := (2 ^ 16 - 1) * 2 ^ 16 + (2 ^ 7 - 1) * 2 ^ 9

/-- A message of a job leaves a participant, or reaches one, counted by its cut bit (15 R345). -/
def State.count (s : State) (asid : Nat) (f : Counts → Counts) : State :=
  match s.jobOf asid with
  | none => s
  | some j => { s with yew := { s.yew with counts := Tab.put s.yew.counts j.num (f (Tab.getD s.yew.counts j.num {})) } }
def State.countSent (s : State) (asid : Nat) (cut : Bool) : State :=
  s.count asid fun n => if cut then { n with sent1 := n.sent1 + 1 } else { n with sent0 := n.sent0 + 1 }
def State.countGot (s : State) (asid : Nat) (cut : Bool) : State :=
  s.count asid fun n => if cut then { n with got1 := n.got1 + 1 } else { n with got0 := n.got0 + 1 }

/-- What comes back to the sender of a message whose link has failed (14 R325). -/
def returned (dst : Nat) (i : Instr) : Option Instr :=
  match i with
  | .travelMessageArrival _ m | .forkChildArrival _ m | .stolenChildArrival _ m | .wakeArrival _ m =>
    some (.returnedTravelMessage { m with back := some dst })
  | .sendArrival m | .senduArrival m => some (.returnedSend m)
  | .activeMessageArrival _ p | .landingPacketArrival _ p =>
    match p.msg, p.land with
    | some m, _ => some (.returnedSend m)
    | none, some l => some (.errorMessageArrival (.transfer (l.core % 65536) l.chan l.id))
    | none, none => none
  | _ => none

/-- A message for a logical core: over the mesh, or to another package of the job (17 R371); over a failed link it returns. -/
def State.sendTo (s : State) (asid dst : Nat) (cut : Bool) (i : Instr) : State :=
  if chipOf dst = s.chip asid then (s.countSent asid cut).post i
  else if s.linkDown asid dst then
    match returned dst i with
    | some j => (s.countSent asid cut).post j
    | none => s
  else { s with outbox := s.outbox ++ [OutMsg.mk (chipOf dst) i] }

/-- A thread handed to a die's Boxwood cores, held until Ozine places the block (02 R35): on its way until then. -/
def State.holdPlacement (s : State) (die : Nat) (m : Travel) : State :=
  ((s.countSent m.asid m.cut).modDie die fun d =>
    { (d.setPlacing m.asid (m.dest / 512)) with hold := d.hold ++ [m] }).signal 1 m.asid (m.dest / 512)

/-- The cut bit of a message that left its core a while ago: cleared by the finish of the snapshot (15 R345). -/
def State.stillCut (s : State) (m : Travel) : Bool :=
  m.cut && s.yew.snaps.any fun n => n.status == 0 && (s.jobOf m.asid).any fun j => j.num == n.job

/-! ### Spill queues, overflow buffers, deques -/

/-- A slot of a spill queue or deque holds a travel message that waits for a context of this core (02 R43). -/
def QSlot.waits (q : QSlot) : Option Travel :=
  if q.returned then none else
  match q.body with
  | .travel m => some m
  | .wake m => some m
  | .send _ => none

/-- The class group of an arrival: class 0, or classes 1 to 3 (02 R43). -/
def groupOf (cls : Nat) : Nat := if cls = 0 then 0 else 1

/-- The job of an ASID stops for want of room in the overflow buffer (02 R44): its threads freeze, its messages are
discarded from then on, and the fault record gets an entry of kind 8. -/
def State.freezeJob (s : State) (asids : List Nat) : State :=
  let stopOne := fun (x : Nat × Ctx) =>
    if asids.contains x.2.asid && x.1 != 63 && x.2.status != .free && x.2.status != .stopped then
      (x.1, { x.2 with prior := some x.2.status, status := .stopped })
    else x
  { s with cores := s.cores.map fun e => (e.1, { e.2 with ctxs := e.2.ctxs.map stopOne }) }

/-- A record that stands in a job's fault record takes another value of double 2, in the ring too unless it has been
overwritten there (14 R320). -/
def State.recount (s : State) (j : Job) (i v : Nat) : State :=
  let s := s.modJob j.num fun j => { j with faults := j.faults.modify i fun r => { r with d2 := v } }
  let n := j.written - j.faults.length + i
  match s.ozineAddr 0 (j.asids.headD 0) j.ring with
  | some p => if n + 2 ^ j.log2ring < j.written then s
    else { s with mem := s.mem.write (p + 64 + 32 * (n % 2 ^ j.log2ring) + 16) 8 v }
  | none => s

/-- A message of a discarding job is counted and dropped; the job's latest record of kind 8 holds the count (02 R44). -/
def State.discard (s : State) (asid : Nat) : State :=
  match s.jobOf asid with
  | none => s
  | some j =>
    let s := s.modJob j.num fun j => { j with discarded := j.discarded + 1 }
    match j.faults.reverse.findIdx? fun r => r.d0 / 2 ^ 60 == 8 with
    | some i => if j.discarding.isEmpty then s else s.recount j (j.faults.length - 1 - i) (j.discarded + 1)
    | none => s

/-- The same for one that a router discards, which is no longer on its way (15 R345). -/
def State.discardMsg (s : State) (asid : Nat) (cut : Bool) : State := (s.countGot asid cut).discard asid

/-- The routers of a die begin to discard the messages of a job, with the one that found the buffer full. -/
def State.overflowStop (s : State) (die asid : Nat) : State :=
  match s.jobOf asid with
  | none => s
  | some j =>
    let add := fun (s : State) => s.modJob j.num fun j =>
      { j with discarding := j.discarding ++ [die], discarded := j.discarded, st := .stopped }
    if !j.discarding.isEmpty then (add s).discard asid
    else
      let s := (s.freezeJob j.asids).modJob j.num fun j => { j with discarded := 1 }
      add (s.recordFor asid (faultRec 8 asid 0 0 1 0))

/-- The overflow buffer's slots that are bound to a core (02 R44). -/
def State.diverted (s : State) (c : Nat) : List QSlot := (s.die (dieOf c)).overflow.all.filter fun o => o.core == c

/-- A slot enters a core's spill queue; a full ring raises the resource fault and diverts to the die's overflow buffer; a
full buffer stops the job (02 R44, 05 R114). -/
def State.spill (s : State) (c asid : Nat) (q : QSlot) : State :=
  let k := s.core c
  if !k.work.spill.full && (s.diverted c).isEmpty then
    let r := k.work.spill.push [q]
    let s := s.modCore c fun k => { k with work := { k.work with spill := r.1 } }
    if r.2 then s.signal 2 c 0 else s
  else
    let d := s.die (dieOf c)
    if d.overflow.full then s.overflowStop (dieOf c) asid
    else
      let r := d.overflow.push [{ q with core := c }]
      let s := (s.modDie (dieOf c) fun d => { d with overflow := r.1 }).signal 3 c asid
      if r.2 then s.signal 4 (dieOf c) 0 else s

/-- A child goes onto a core's deque: a full one first moves its 32 oldest entries to the overflow area (05 R112). None
when the overflow ring has no room for them. -/
def State.pushDeque (s : State) (c : Nat) (m : Travel) : Option State :=
  let k := s.core c
  let q : QSlot := { body := .travel m, arrival := s.cycle c }
  if k.work.deque.length < Config.dequeDepth then
    some (s.modCore c fun k => { k with work := { k.work with deque := k.work.deque ++ [q] } })
  else if k.work.overflow.capacity < k.work.overflow.entries.length + Config.dequeMove then none
  else
    let r := k.work.overflow.push (k.work.deque.take Config.dequeMove)
    let s := s.modCore c fun k => { k with work := { k.work with
      overflow := r.1, deque := k.work.deque.drop Config.dequeMove ++ [q] } }
    some (if r.2 then s.signal 5 c 0 else s)

/-- The on-chip deque refilled from the overflow area: by its newest entries (05 R112), but while an old ring holds any, by the
oldest of it, for R114 empties it before anything of the new ring is taken (DESIGN CHOICE, log 87). -/
def Core.refillDeque (k : Core) : Core :=
  let o := k.work.overflow
  if o.old.isEmpty then
    let r := o.takeNewest Config.dequeMove
    { k with work := { k.work with deque := r.1, overflow := r.2 } }
  else { k with work := { k.work with deque := o.old.take Config.dequeMove, overflow := o.settle (o.old.drop Config.dequeMove) o.entries } }

/-- The owner's end of the deque, refilled from the overflow area when the on-chip part is empty (05 R112). -/
def Core.takeDeque (k : Core) : Option (QSlot × Core) :=
  let k := if k.work.deque.isEmpty && k.work.overflow.occupancy != 0 then k.refillDeque else k
  match k.work.deque.getLast? with
  | none => none
  | some q => some (q, { k with work := { k.work with deque := k.work.deque.dropLast } })

/-! ### Addressed messages (08 R181, R183) -/

/-- The fields of a target descriptor (08 R181). -/
def sendCore (m : SendMsg) : Nat := fld m.tgt.toNat 14 24
def sendSlot (m : SendMsg) : Nat := fld m.tgt.toNat 8 6
def sendReg (m : SendMsg) : Nat := fld m.tgt.toNat 0 7

/-- A message that cannot be delivered travels back to the sending core (08 R184). -/
def State.returnSend (s : State) (m : SendMsg) : State :=
  let home := m.tid / 64
  if chipOf home != s.chip m.asid then { s with outbox := s.outbox ++ [OutMsg.mk (chipOf home) (.returnedSend m)] }
  else s.post (.returnedSend m)

/-- An addressed message writes its register: full, observed by the target at the message's time, its waiting read and its
IDLE ended (08 R183, R191; 12 R293; 07 R155). -/
def State.sendWrite (s : State) (c slot : Nat) (m : SendMsg) : State :=
  let n := sendReg m
  s.modCore c fun k =>
    let k := k.modCtx slot fun x => (x.clash (.g n) m.v.toNat).observe m.ts
    (k.writeMain slot n m.v).wakeIf fun t _ w => t == slot && match w with
      | .full r => r == n
      | .idle _ => true
      | _ => false

/-- An addressed message delivered to the thread of a slot, and to its redundant partner; returned where its register lies
outside the window. -/
def State.sendInto (s : State) (c slot : Nat) (m : SendMsg) : State :=
  let x := s.ctx c slot
  if sendReg m < x.mainSize then
    let s := s.sendWrite c slot m
    match x.pair with
    | some p => s.sendWrite c p m
    | none => s
  else s.returnSend m

/-- The addressed message that a spill-queue slot holds for a saved thread. -/
def QSlot.sendOf (q : QSlot) : Option SendMsg :=
  match q.body with
  | .send m => if m.unaddressed || q.returned then none else some m
  | _ => none

/-- What waits for a core in DRAM, oldest first: its spill queue, then what was diverted from it (02 R44); and one slot taken
out. -/
def State.waitingSlots (s : State) (c : Nat) : List QSlot := (s.core c).work.spill.all ++ s.diverted c
def State.dropSlot (s : State) (c : Nat) (q : QSlot) : State :=
  if (s.core c).work.spill.all.contains q then s.modCore c fun k => { k with work := { k.work with spill := k.work.spill.remove q } }
  else s.modDie (dieOf c) fun d => { d with overflow := d.overflow.remove q }

/-- The addressed messages that wait for a saved thread leave the spill queue, in order, for the slot to which it returns. -/
def State.redeliverTo (s : State) (c old asid slot : Nat) : State :=
  (s.waitingSlots c).foldl (fun s q =>
    match q.sendOf with
    | some m => if sendSlot m == old && m.asid == asid then (s.dropSlot c q).sendInto c slot m else s
    | none => s) s

/-! ### Admission (02 R42, R43, R45) -/

/-- A context with the state of R42, in given windows. -/
def newCtx (m : Travel) (w : Win) (trail : Bool) (pair : Option Nat) : Ctx :=
  { status := .ready, pc := { blk := m.dest / 512, off := m.dest % 512 }, asid := m.asid, cls := m.cls, pt := m.pt,
    link := m.link, win := w, masks := m.masks.filter fun e => e.2 != 0,
    tstat := (if m.rolled then 1 else 0) + (if m.redun then 2 else 0) + (if trail then 4 else 0), pair := pair }

/-- A context filled from a message: the live registers with their full bits, every other register zero and full. -/
def Core.fillCtx (k : Core) (slot : Nat) (m : Travel) (w : Win) (trail : Bool) (pair : Option Nat) : Core :=
  let k := (k.clearMain w.mainBase (8 * (w.mainCode + 1))).clearVec w.vecBase (4 * w.vecCode)
  let k := k.setCtx slot (newCtx m w trail pair)
  m.regs.foldl (fun k r =>
    if r.1 < 8 * (w.mainCode + 1) then (k.writeMain slot r.1 r.2).setFull slot r.1 (bit m.full r.1) else k) k

/-- A gathering window that is open at a cycle: it closes with the cycle that R45 names, and when it is full (05 R115). -/
def Gather.isOpen (g : Gather) (now : Nat) : Bool := now ≤ g.close && g.members.length < Config.gangSize

/-- An admitted arrival joins or opens a gathering window, or issues alone when 8 are open (02 R45, 05 R115). -/
def State.gather (s : State) (c slot : Nat) (m : Travel) : State :=
  let blk := m.dest / 512
  let off := m.dest % 512
  let k := s.core c
  let mine := fun (g : Gather) => g.blk == blk && g.off == off && g.asid == m.asid && g.cls == m.cls
  match k.work.gathers.find? fun g => mine g && g.isOpen s.now with
  | some g =>
    let join := fun (h : Gather) =>
      if mine h && h.isOpen s.now then { h with members := h.members ++ [slot] } else h
    let s := s.modCore c fun k =>
      { (k.modCtx slot fun x => { x with status := .gathering }) with
        work := { k.work with gathers := k.work.gathers.map join } }
    if g.members.length + 1 = Config.gangSize then s.post (.gatheringWindowClose c blk off m.asid m.cls) else s
  | none =>
    if (k.work.gathers.filter fun g => g.isOpen s.now).length < Config.gatherWindows then
      let s := s.modCore c fun k =>
        { (k.modCtx slot fun x => { x with status := .gathering }) with
          work := { k.work with gathers := k.work.gathers ++
            [{ blk := blk, off := off, asid := m.asid, cls := m.cls, close := s.now + Config.gatherCycles, members := [slot] }] } }
      s.after Config.gatherCycles (.gatheringWindowClose c blk off m.asid m.cls)
    else s

/-- Admission of an arrival into a free context, or two for a redundant pair; none when there is no room (02 R43). An arrival
that waits here for a block that has been removed to make room stays, and its group behind it, until the block is placed here
again (DESIGN CHOICE, log 86). -/
def State.takeIn (s : State) (c : Nat) (m : Travel) : Option State :=
  let k := s.core c
  match k.placedBlock m.asid (m.dest / 512), k.freeSlot none with
  | some p, some slot =>
    match k.newWindow p slot with
    | none => none
    | some w =>
      if !m.redun then some ((s.setCore c (k.fillCtx slot m w false none)).gather c slot m)
      else
        let k1 := k.fillCtx slot m w false none
        match k1.freeSlot none with
        | none => none
        | some slot2 =>
          match k1.newWindow p slot2 with
          | none => none
          | some w2 =>
            let k2 := (k1.fillCtx slot2 m w2 true (some slot)).modCtx slot fun x => { x with pair := some slot2 }
            some (((s.setCore c k2).gather c slot m).gather c slot2 m)
  | _, _ => none

/-- Threads that a move of windows saved wait as the oldest arrivals of their class (02 R37); keys from 1,000 on. They come before
every other arrival of their group, whatever its class (DESIGN CHOICE, log 81). -/
def Core.savedMoves (k : Core) (group : Nat) : Option (Nat × SavedCtx) :=
  k.work.saved.find? fun e => 1000 ≤ e.1 && groupOf e.2.ctx.cls == group

/-- A saved context returns to a slot and windows: every saved register as it was (02 R37, R51). -/
def Core.restoreCtx (k : Core) (slot : Nat) (v : SavedCtx) (w : Win) : Core :=
  let k := (k.clearMain w.mainBase (8 * (w.mainCode + 1))).clearVec w.vecBase (4 * w.vecCode)
  let k := k.setCtx slot { v.ctx with win := w }
  let k := (v.main.zipIdx.filter fun e => e.2 < 8 * (w.mainCode + 1)).foldl (fun k e =>
    (k.writeMain slot e.2 e.1).setFull slot e.2 (!v.empty.contains e.2)) k
  (v.vec.zipIdx.filter fun e => e.2 < 4 * w.vecCode).foldl (fun k e => k.writeVec slot e.2 e.1) k

/-- What a save area holds of a context. -/
def Core.saveCtx (k : Core) (slot : Nat) : SavedCtx :=
  let x := k.ctx slot
  { ctx := x, slot := slot, main := (List.range x.mainSize).map fun i => k.readMain x i,
    empty := (List.range x.mainSize).filter fun i => !k.isFull slot i,
    vec := (List.range x.vecSize).map fun i => Tab.getD k.vfile (x.win.vecBase + i) 0 }

/-- A context freed, with its windows and its waits. -/
def State.freeCtx (s : State) (c slot : Nat) : State :=
  s.modCore c fun k => ((k.leaveGang slot).delist slot).setCtx slot {}

/-- A restored thread's accesses, and the returns of its outstanding loads and atomics, are asked for again (15 R351). -/
def State.resumeThread (s : State) (c slot : Nat) : State :=
  (s.ctx c slot).out.foldl (fun s p =>
    if p.left != 0 || p.returned || p.kind == .pop then s
    else s.post (if p.kind == .atomic then .atomicReturn c slot p.seq else .loadReturn c slot p.seq)) (s.pumpAll c slot)

/-- The oldest arrival that waits in a core's spill queue in a group (02 R43). -/
def State.oldestWaiting (s : State) (c group : Nat) : Option QSlot :=
  (s.core c).work.spill.all.find? fun q =>
    match q.waits with
    | some m => groupOf m.cls == group
    | none => false

/-- One waiting arrival of a group admitted, saved ones first; a saved one goes on at once, outside every gathering window
(DESIGN CHOICE, log 81). A stopped job's arrival stays, and its group behind it (02 R43; 17 R402). -/
def State.readmitGroup (s : State) (c group : Nat) : Option State :=
  let k := s.core c
  if k.work.preempted && group == 1 then none
  else match k.savedMoves group with
    | some e =>
      match k.freeSlot none, k.placedBlock e.2.ctx.asid e.2.ctx.pc.blk with
      | some slot, some p =>
        match k.newWindow p slot with
        | some w =>
          let s := s.modCore c fun k =>
            { (k.restoreCtx slot { e.2 with ctx := { e.2.ctx with status := e.2.ctx.prior.getD .ready, prior := none } } w) with
              work := { k.work with saved := Tab.del k.work.saved e.1 } }
          some ((s.resumeThread c slot).redeliverTo c e.2.slot e.2.ctx.asid slot)
        | none => none
      | _, _ => none
    | none =>
      match s.oldestWaiting c group with
      | none => none
      | some q =>
        match q.waits with
        | none => none
        | some m => if s.jobStopped m.asid then none else
          (s.takeIn c m).map fun s => s.modCore c fun k => { k with work := { k.work with spill := k.work.spill.remove q } }

/-- The newest entry of the core's own deque admitted (02 R48). -/
def State.readmitDeque (s : State) (c : Nat) : Option State :=
  if (s.core c).work.preempted then none else
  match (s.core c).takeDeque with
  | none => none
  | some (q, k) =>
    match q.waits with
    | none => none
    | some m => if s.jobStopped m.asid then none else (s.setCore c k).takeIn c m

/-- A free context is filled: class-0 arrivals, other arrivals, then the newest deque entry (02 R48). -/
def State.readmit (s : State) (c : Nat) : Nat → State
  | 0 => s
  | fuel + 1 =>
    match s.readmitGroup c 0 with
    | some t => t.readmit c fuel
    | none =>
      match s.readmitGroup c 1 with
      | some t => t.readmit c fuel
      | none =>
        match s.readmitDeque c with
        | some t => t.readmit c fuel
        | none => s

/-- A pre-empted core that holds no class-0 thread, and for which no class-0 arrival waits, may resume (13 R313). -/
def State.mayResume (s : State) (c : Nat) : Bool :=
  let k := s.core c
  k.work.preempted && !(k.ctxs.any fun e => e.2.status != .free && e.1 != 63) && (s.oldestWaiting c 0).isNone && (k.savedMoves 0).isNone

/-- A thread leaves its context for good, and the core admits work that waits (02 R48). -/
def State.vacate (s : State) (c slot : Nat) : State :=
  let s := (s.freeCtx c slot).readmit c 63
  if s.mayResume c then s.post (.coreResume c) else s

/-- An arrival of a core accepted (02 R43, R44, R51, R313): admitted, or spilled behind older arrivals of its group, for
want of a context, or because the core is pre-empted; a class-0 arrival without a context pre-empts the core. -/
def State.accept (s : State) (c : Nat) (m : Travel) (body : Travel → SlotBody) : State :=
  let q : QSlot := { body := body m, arrival := s.cycle c }
  let k := s.core c
  let behind := (s.oldestWaiting c (groupOf m.cls)).isSome || (k.savedMoves (groupOf m.cls)).isSome || !(s.diverted c).isEmpty
  if behind || s.jobStopped m.asid || (k.work.preempted && m.cls != 0) then s.spill c m.asid q
  else match s.takeIn c m with
    | some t => t
    | none =>
      let s := s.spill c m.asid q
      if m.cls = 0 && !k.work.preempted then s.post (.meshInterrupt c) else s

/-! ### Moving a thread's windows (02 R37) -/

/-- How one window of a thread settles: in place at a base, moved to a base, or by saving the context. -/
inductive Settle where
  | stay (base : Nat) | move (base : Nat) | save
deriving DecidableEq, Repr

/-- A window of `old` entries at `base` settles to `new` entries among the runs of the other threads. -/
def settleWindow (used : List (Nat × Nat)) (base old new step limit : Nat) : Settle :=
  if new ≤ old then .stay base
  else if base + new ≤ limit && used.all fun u => base + new ≤ u.1 || u.1 + u.2 ≤ base then .stay base
  else match freeRun ((base, old) :: used) new step limit with
    | some b => .move b
    | none => .save

/-- A main window moved or resized: registers keep their values and full bits, added ones are zero and full. -/
def Core.moveMain (k : Core) (slot dst size : Nat) : Core :=
  let x := k.ctx slot
  let keep := (List.range (min size x.mainSize)).map fun i => (i, k.readMain x i, k.isFull slot i)
  let k := (k.clearMain x.win.mainBase x.mainSize).clearMain dst size
  let k := k.modCtx slot fun x => { x with win := { x.win with mainBase := dst, mainCode := size / 8 - 1 } }
  keep.foldl (fun k r => (k.writeMain slot r.1 r.2.1).setFull slot r.1 r.2.2) k

def Core.moveVec (k : Core) (slot dst size : Nat) : Core :=
  let x := k.ctx slot
  let keep := (List.range (min size x.vecSize)).map fun i => (i, Tab.getD k.vfile (x.win.vecBase + i) 0)
  let k := (k.clearVec x.win.vecBase x.vecSize).clearVec dst size
  let k := k.modCtx slot fun x => { x with win := { x.win with vecBase := dst, vecCode := size / 4 } }
  keep.foldl (fun k r => k.writeVec slot r.1 r.2) k

end Sys2Proof.Machine
end

