-- ==== Sys2Proof/Machine/Issue.lean ====
section
/-! DEFINITION. The issue of one word: the checks of ranks 1 to 4, the sources, the instruction's own effect, and how it ends
(07 R150 to R155, R171); deferred pops (03 R66); redundant pairs (08 R199, 09 R225). -/

namespace Sys2Proof.Machine

/-- How an instruction's own effect ends. -/
inductive Act where
  /-- It is complete; the thread goes on at the next word. -/
  | next (s : State)
  /-- It is complete; the thread goes on at a program address. -/
  | goto (t : Nat) (s : State)
  /-- It is complete; the thread goes on at the next word (or an address) once a wait ends. -/
  | park (w : Wait) (t : Option Nat) (s : State)
  /-- It waits, and issues again once the wait ends. -/
  | hold (w : Wait) (s : State)
  /-- The thread has left its context. -/
  | gone (s : State)
  /-- A precise fault, with its detail double; `origin` for poison found in the core itself. -/
  | fault (code detail : Nat) (origin : Bool)

/-- C-class instructions: the majors below 0x20 (07 R150). -/
def isC : Instr → Bool
  | .add _ _ _ | .sub _ _ _ | .mul _ _ _ | .mulhS64 _ _ _ | .mulhN64 _ _ _ | .and _ _ _ | .or _ _ _ | .xor _ _ _
  | .shl _ _ _ | .shrN64 _ _ _ | .shrS64 _ _ _ | .sltS64 _ _ _ | .sltN64 _ _ _ | .seq _ _ _
  | .addi _ _ _ | .shli _ _ _ | .shriN64 _ _ _ | .shriS64 _ _ _ | .rotri _ _ _ | .li _ _ | .lis _ _
  | .bfx _ _ _ | .bfi _ _ _ | .mov _ _ | .not _ _ | .neg _ _ | .absS64 _ _ | .popc _ _ | .clz _ _ | .ctz _ _
  | .bswap _ _ | .brev _ _ | .sextS8 _ _ | .sextS16 _ _ | .sextS32 _ _ | .zextN8 _ _ | .zextN16 _ _ | .zextN32 _ _
  | .qmaxx _ _ | .qscaleE4m3 _ _ | .qscaleE3m2 _ _ | .qscaleE2m1 _ _ | .qscalei _ _ | .vlq _ | .vlane _ _
  | .vadd _ _ _ _ _ | .vsub _ _ _ _ _ | .vmul _ _ _ _ _ | .vfma _ _ _ _ _ | .vmin _ _ _ _ _ | .vmax _ _ _ _ _
  | .vaddsat _ _ _ _ _ | .vsubsat _ _ _ _ _ | .vand _ _ _ _ _ | .vor _ _ _ _ _ | .vxor _ _ _ _ _
  | .vandn _ _ _ _ _ | .vceq _ _ _ _ _ | .vclt _ _ _ _ _ | .vcle _ _ _ _ _ | .vcne _ _ _ _ _
  | .vcvt _ _ _ _ _ _ _ | .vbcast _ _ _ _ | .vaddx _ _ _ _ | .vmulx _ _ _ _ | .vmaxx _ _ _ _
  | .vrsum _ _ _ _ | .vrmax _ _ _ _ | .vrmin _ _ _ _ | .vramax _ _ _ _ | .vcompress _ _ _ _ _
  | .vexpand _ _ _ _ _ | .vrowmv _ _ _ _ _ | .vsel _ _ _ _ | .mand _ _ _ | .mor _ _ _ | .mxor _ _ _
  | .mandn _ _ _ | .mnot _ _ | .mmov _ _ | .mpop _ _ | .mfrom _ _ | .mtolo _ _ | .mtohi _ _ | .bound _ _ _ _
  | .pload _ _ | .pcomp _ _ _ | .pinv _ _ | .prand _ _ | .pcompact _ _ _ | .pcyc _ _ _ | .pstore _ _
  | .pidx _ _ => false
  | _ => true

/-- An instruction with a source field that pops (09 R203). -/
def popping (i : Instr) : Bool := (sources i).any Operand.isQueue

/-- A pop of this instruction is deferred when the queue is empty (03 R66). -/
def defers (i : Instr) : Bool :=
  !isC i && match destination i with
    | some (.g _) => true
    | some (.h _) => true
    | some (.k _) => true
    | some .zero => true
    | _ => false

/-- The place after a word (07 R153). -/
def PC.next (p : PC) (place : Slotting) : PC :=
  match place with
  | .lone0 => { p with word := 1 }
  | _ => { p with off := p.off + 1, word := 0 }

/-- The program address of the following instruction (08 R172). -/
def PC.addr (p : PC) : Nat := pa p.blk p.off
def PC.at_ (t : Nat) : PC := { blk := t / 512, off := t % 512 }

/-! ### The end of an issue -/

/-- A marked word has issued: the thread parks until every outstanding result has returned (07 R154). -/
def State.markerAt (s : State) (c slot : Nat) (mark : Bool) : State :=
  let x := s.ctx c slot
  if !mark || x.status != .ready then s
  else if x.allReturned s.now then s.passMarker c slot
  else s.setStatus c slot (.parked .marker)

/-- The instruction is complete and the thread stands at a place. -/
def Ctx.complete (x : Ctx) (pc : PC) : Ctx := 
  { x with pc := pc, latch := [], badPages := [], phase := 0, w1done := false, phase1 := 0, latch1 := [], swapped := false, posted := none }

def State.complete (s : State) (c slot : Nat) (i : Instr) (pc : PC) (mark : Bool) : State :=
  let s := s.modCtx c slot fun x => x.complete pc
  let s := if popping i then s.refill c 64 else s
  s.markerAt c slot mark

/-- The waits that an event or another unit must serve are asked for. -/
def State.request (s : State) (c slot : Nat) (w : Wait) : State :=
  let x := s.ctx c slot
  match w with
  | .walk va =>
    let d := s.die (dieOf c)
    if d.walks.contains (x.asid, va / 65536) then s
    else
      let t := s.modDie (dieOf c) fun d => { d with walks := d.walks ++ [(x.asid, va / 65536)] }
      if d.walks.length < Config.walkers then t.post (.pageWalkComplete (dieOf c) x.asid va) else t
  | .pageCopy va => s.post (.snapPageCopy (dieOf c) x.asid va)
  | .sramCopy page => s.post (.sramPageCopy page)
  | .blockMap blk => s.post (.blockDirectoryReadReturn c x.asid blk none)
  | .entry q => s.enlist c q slot 0
  | _ => s

/-- The loading bit of a PLOAD whose vector has come and breaks R277 clears. -/
def State.unload (s : State) (c slot : Nat) (i : Instr) : State :=
  match i with
  | .pload wd _ => if (s.ctx c slot).phase = 1 then s.modCore c fun k => k.setLoading wd false else s
  | _ => s

/-- The instructions that transfer. -/
def transfers : Instr → Bool
  | .jmp _ _ | .call _ _ | .jmpr _ | .callr _ | .ret => true
  | _ => false

/-- The rank of an instruction's fault (07 R171): a porter's transfer away from its core is a matter of privilege (08 R198),
and so is a register that a command names outside the window one of rank 3. -/
def State.faultRank (s : State) (c slot : Nat) (i : Instr) (code : Nat) : Nat :=
  if code == fcIllegal then 1
  else if code == fcPrivilege && (privilegeFault s c slot i || (slot == 63 && transfers i)) then 2
  else if code == fcWindow then 3
  else if code == fcHazard then 4
  else 5

/-- How an issue ends, from the state before it and its act. -/
def State.conclude (s : State) (c slot : Nat) (i : Instr) (a : Act) : State :=
  let place := s.iss.place
  let mark := s.iss.mark
  let x := s.ctx c slot
  let res := fun (t : State) (n : Nat) => { t with iss := { t.iss with res := n } }
  match a with
  | .next t => res (t.complete c slot i (x.pc.next place) mark) 1
  | .goto d t => res (t.complete c slot i (PC.at_ d) mark) 1
  | .park w d t =>
    let pc := match d with | some d => PC.at_ d | none => x.pc.next place
    res ((t.complete c slot i pc mark).setStatus c slot (.parked w)) 1
  | .hold w t => res ((t.request c slot w).modCtx c slot fun y => { y with pc := x.pc, status := .parked w }) 2
  | .gone t => res t 1
  | .fault code detail origin =>
    let t := res ((s.unload c slot i).takeFault c slot code detail (place == .lone1) origin) (3 + 4 * code)
    { t with iss := { t.iss with rank := s.faultRank c slot i code, detail := detail, origin := origin } }

/-! ### Deferred pops -/

/-- Sources read for a deferred pop: values, the missing positions, and their queues. -/
def State.readDefer (s : State) (c slot : Nat) : Nat → List Operand → List Word × Nat × List Nat × State
  | _, [] => ([], 0, [], s)
  | pos, o :: t =>
    match s.readOp c slot pos o with
    | .wait q =>
      let (vs, m, qs, s) := s.readDefer c slot (pos + 1) t
      (0 :: vs, m + 2 ^ pos, q :: qs, s)
    | .val v s =>
      let (vs, m, qs, s) := s.readDefer c slot (pos + 1) t
      (v :: vs, m, qs, s)

/-- An instruction whose pop finds an empty queue leaves its result outstanding; the thread goes on (03 R66). -/
def State.deferPop (s : State) (c slot : Nat) (i : Instr) : Act :=
  let x := s.ctx c slot
  if Config.outstandingLimit ≤ x.outstanding then .hold .limit s
  else
    let (vs, m, qs, s) := s.readDefer c slot 0 (sources i)
    let p : Pending := { seq := x.nextSeq, kind := .pop, dest := (destination i).elim .discard destOf, pop := some i,
                         vals := vs, acc := m, asid := x.asid, pc := x.pc }
    let s := s.modCtx c slot fun x => { x with out := x.out ++ [p] }
    .next (s.modCore c fun k => { k with q := { k.q with waiters := k.q.waiters ++ qs.map fun q => (q, slot, p.seq) } })

/-! ### Redundant pairs -/

/-- The leading context performs it, and the trailing one receives its value (09 R225). -/
def pairLoad : Instr → Bool
  | .ldN _ _ _ _ | .ldS _ _ _ _ | .ldeN _ _ _ _ | .ldeS _ _ _ _ | .ldxN _ _ _ _ | .ldxS _ _ _ _
  | .vld _ _ _ _ _ | .vldpE2m1 _ _ _ _ | .vldpE3m2 _ _ _ _ => true
  | _ => false

/-- What takes effect once for a pair (08 R199; 09 R225; 10 R245, R251; 11 R256); END frees both contexts together. -/
def pairOnce (i : Instr) : Bool :=
  pushes i 0 || pushes i 3 || pushes i 6 ||
  match i with
  | .send _ _ | .sendu _ _ | .fork _ _ | .forkr _ | .trap _ | .snap _ | .endThread
  | .st _ _ _ _ | .ste _ _ _ _ | .stx _ _ _ _
  | .aswap _ _ _ | .aadd _ _ _ | .aand _ _ _ | .aor _ _ _ | .axor _ _ _ | .aminS64 _ _ _ | .amaxS64 _ _ _
  | .aminN64 _ _ _ | .amaxN64 _ _ _ | .acas _ _ _ | .aamaxF32 _ _ _ | .amaxswapF32 _ _ _
  | .bfld _ _ | .bfclr _ | .cpy _ _ | .cpyNb _ _ | .vst _ _ _ _ _ | .vstpE2m1 _ _ _ _ | .vstpE3m2 _ _ _ _
  | .qpackE4m3 _ _ _ | .qpackE3m2 _ _ _ | .qpackE2m1 _ _ _ | .qpacki _ _ _
  | .accld _ _ _ | .accst _ _ _ | .drain _ _ | .qmaxx _ _ => true
  | _ => false

/-- The words that an instruction reads beside its operand fields, and the buffer records it names: what a pair compares. -/
def State.extraVals (s : State) (c slot : Nat) (i : Instr) : List Word :=
  let k := s.view c
  let x := k.ctx slot
  let groups := (otherUses i).flatMap fun u =>
    match u with
    | .gs n m true => (List.range m).map fun j => k.readMain x (n + j)
    | .v n m true => (List.range m).flatMap fun j =>
        let v := (Tab.getD k.vfile (x.win.vecBase + n + j) 0).toNat
        (List.range 16).map fun w => BitVec.ofNat 64 (v / 2 ^ (64 * w))
    | .bf n =>
      let b := Tab.getD k.regs.bufs n {}
      BitVec.ofNat 64 b.valid.toNat :: (List.range 4).map fun w => BitVec.ofNat 64 (b.r / 2 ^ (64 * w))
    | _ => []
  let mask := match i with
    | .vst _ m _ _ _ | .vstpE2m1 m _ _ _ | .vstpE3m2 m _ _ _ => [BitVec.ofNat 64 (x.mask m).toNat, BitVec.ofNat 64 ((x.mask m).toNat / 2 ^ 64)]
    | _ => []
  groups ++ mask ++ if readsH0 i then [Tab.getD x.h 0 0] else []

/-- The operands of the matrix command that a context has just pushed are what its partner's registers hold (11 R256). -/
def State.commandAgrees (t u : State) (c p : Nat) : Bool :=
  let k := u.core c
  let y := k.ctx p
  if k.q.meq.length ≤ (t.core c).q.meq.length then true
  else match k.q.meq.getLast? with
    | none => true
    | some o =>
      let d := o.d0.toNat
      let mine := fun (n : Nat) => k.readMain (k.ctx o.slot) n == k.readMain y n
      let mineV := fun (n : Nat) => Tab.getD k.vfile ((k.ctx o.slot).win.vecBase + n) 0 == Tab.getD k.vfile (y.win.vecBase + n) 0
      (cmdUses d).all fun g => g.mains.all mine && g.vecs.all mineV

/-- The other context of a pair takes the effect's results and goes on at its own next word. -/
def State.share (s u : State) (c slot p : Nat) (i : Instr) : State :=
  let old := s.ctx c slot
  let x := u.ctx c slot
  let k := u.core c
  let place := s.iss.place
  let fresh := x.out.filter fun q => !(old.out.any fun o => o.seq == q.seq && o.dest == q.dest)
  let u := match i with
    | .accld _ v _ => u.modCore c fun k' => (List.range 4).foldl (fun k' j =>
        k'.writeVec p (4 * v + j) (Tab.getD k.vfile (x.win.vecBase + 4 * v + j) 0)) k'
    | _ => match destination i with
      | some (.g n) => if fresh.isEmpty then u.modCore c fun k' => k'.writeMain p n (k.readMain x n) else u
      | some (.h n) => u.modCtx c p fun y => { y with h := Tab.set y.h n.val (Tab.getD x.h n.val 0) 0 }
      | _ => u
  let u := u.modCtx c p fun y =>
    { (y.complete (y.pc.next place)) with
      status := .ready, lc := x.lc, la := x.la, pt := max y.pt x.pt, out := y.out ++ fresh,
      cmds := y.cmds ++ x.cmds.filter (fun n => !old.cmds.contains n), copies := y.copies ++ x.copies.filter (fun n => !old.copies.contains n) }
  u.markerAt c p s.iss.mark

/-- A pair's load: the leader performs it and queues its value, the trailer takes it (09 R225). -/
def State.pairLoadAct (t : State) (c slot p : Nat) (i : Instr) (vals : List Word) (body : State → Act) : Act :=
  let x := t.ctx c slot
  if bit x.tstat 2 then
    match (t.ctx c p).loadq with
    | [] => .hold .partner t
    | e :: rest =>
      if e.1 != i || e.2.1 != vals then .fault fcMismatch 0 false
      else if Config.outstandingLimit ≤ x.outstanding then .hold .limit t
      else
        let q : Pending :=
          { e.2.2.1 with seq := x.nextSeq, queue := e.2.2.1.seq + 1, left := 1, returned := false, alt := none,
                         clash := false, pc := x.pc }
        let t := t.modCtx c p fun y => { y with loadq := rest }
        let t := t.modCtx c slot fun y => { y with out := y.out ++ [q], pt := max y.pt (t.ctx c p).pt }
        match e.2.2.2 with
        | some v => .next (t.deliver c slot q.seq v)
        | none => .next t
  else if 64 ≤ x.loadq.length then .hold .partner t
  else
    match body t with
    | .next u =>
      let p := ((u.ctx c slot).out.find? fun q => q.seq == x.nextSeq).getD {}
      .next (u.modCtx c slot fun y => { y with loadq := y.loadq ++ [(i, vals, p, none)] })
    | a => a

/-- What leaves the pair, or ends it, once all that both contexts have asked for is there (08 R178, R182, R193, R195). -/
def settles : Instr → Bool
  | .send _ _ | .sendu _ _ | .fork _ _ | .forkr _ | .trap _ | .snap _ | .endThread => true
  | _ => false

/-- An instruction of a redundant pair: the first context to issue it waits for the other, and what the pair does once
follows the accesses of both (12 R283). -/
def State.pairAct (s t : State) (c slot : Nat) (i : Instr) (vals : List Word) (body : State → Act) : Act :=
  match (t.ctx c slot).pair with
  | none => body t
  | some p =>
    let all := vals ++ s.extraVals c slot i
    let lead := !bit (t.ctx c slot).tstat 2
    if pairLoad i then
      if lead && !(t.ctx c p).pipe.isEmpty then .hold .performed t else t.pairLoadAct c slot p i all body
    else if !pairOnce i then body t
    else
      match (t.ctx c p).posted with
      | none => .hold .partner (t.modCtx c slot fun x => { x with posted := some (i, all) })
      | some o =>
        if settles i && !(t.ctx c p).settled t.now then .hold .settle t
        else if !(t.ctx c p).pipe.isEmpty then .hold .performed t
        else match body t with
        | .fault code d g => .fault code d g
        | a =>
          let agrees := match a with
            | .next u => t.commandAgrees u c p
            | .hold _ u => t.commandAgrees u c p
            | _ => true
          if o != (i, all) || !agrees then .fault fcMismatch 0 false
          else match a with
            | .next u => .next (s.share u c slot p i)
            | .goto d u => .goto d (s.share u c slot p i)
            | .park w d u => .park w d ((s.share u c slot p i).setStatus c p (.parked w))
            | .gone u => .gone (u.vacate c p)
            | a => a

/-! ### The issue of a word -/

/-- One word issued by the thread that State.iss names: its faults in rank, its sources, its effect (07 R171). At phase 3 its
accesses have been performed by another core, and it is complete. -/
def State.issue (s : State) (i : Instr) (body : List Word → State → Act) : State :=
  let c := s.iss.core
  let slot := s.iss.slot
  if (s.ctx c slot).status != .ready then s
  else if (s.ctx c slot).phase = 3 then s.conclude c slot i (.next s)
  else
    s.conclude c slot i <|
      match earlyFault s c slot i s.iss.word with
      | some f => .fault f.1 f.2 false
      | none =>
        match s.readOps c slot 0 (sources i) with
        | .error e => if defers i then s.deferPop c slot i else .hold (.entry e.1) s
        | .ok (vals, t) => s.pairAct t c slot i vals (body vals)

end Sys2Proof.Machine
end

