-- ==== Sys2Proof/Machine/Transfer.lean ====
section
/-! DEFINITION. Transfers (08 R172 to R178): targets, local transfers with their windows (02 R37), departures (R38, R39), fork
children (R47). -/

namespace Sys2Proof.Machine

/-- A 20-bit signed block distance. -/
def signed20 (d : BitVec 20) : Int := d.toInt

/-- The J-form detail word (08 R174). -/
def jDetail (entry : Nat) (bt : Int) : Nat := 2 ^ 63 + entry * 2 ^ 36 + (bt % 2 ^ 36).toNat

/-- A transfer's target: the program address as a double, and for a J form into a block whose entries are not known the
entry index; of a bad one, the block it names, 0 for none, and the fault's detail double. -/
inductive Target where
  | addr (t : Nat)
  | index (bt entry : Nat)
  | miss (blk : Nat)
  | bad (blk detail : Nat)
deriving DecidableEq, Repr

/-- The block that a target names, 0 for none. -/
def Target.block : Target → Nat
  | .addr t => if t < 2 ^ 33 then t / 512 else 0
  | .index b _ => b
  | .miss b => b
  | .bad b _ => b

/-- What a core knows of a block other than the current one, once its block-map lookup hits (02 R36): its entry descriptors,
those of the text it holds itself first, and whether the block is held nowhere. -/
def Core.known (k : Core) (asid blk : Nat) : Option (List Nat × Bool) :=
  (k.mapEntry asid blk).map fun e =>
    match k.placedBlock asid blk with
    | some p => (p.descs, false)
    | none => (e.descs, e.nholders == 0)

/-- The target of a J form (08 R174). -/
def Core.jTarget (k : Core) (x : Ctx) (entry : Nat) (delta : BitVec 20) : Target :=
  let bt : Int := x.pc.blk + signed20 delta
  if bt < 1 || 0xFFFFFF < bt then .bad 0 (jDetail entry bt)
  else
    let b := bt.toNat
    match (if b = x.pc.blk then (k.placedBlock x.asid b).map fun p => (p.descs, false) else k.known x.asid b) with
    | none => .miss b
    | some (descs, nowhere) =>
      match descs[entry]? with
      | some d => .addr (pa b (descOff d))
      | none => if nowhere then .index b entry else .bad b (jDetail entry bt)

/-- LINK as a transfer of a kind leaves it (08 R175 line 10). -/
def Ctx.linked (x : Ctx) (kind : Nat) : Nat := if kind = 1 then pa x.pc.blk (x.pc.off + 1) else x.link
def State.setLink (s : State) (c slot kind : Nat) : State :=
  if kind = 1 then s.modCtx c slot fun x => { x with link := x.linked kind } else s

/-- The thread's windows settle to those of a block held on the core, and it goes on there (02 R36, R37). One that must be saved
leaves its gang (R46). -/
def State.settleAt (s : State) (c slot kind : Nat) (p : Placed) (t : Nat) : Act :=
  let k := s.core c
  let x := k.ctx slot
  let newMain := 8 * (p.mainCode + 1)
  let newVec := 4 * p.vecCode
  if newMain = x.mainSize && newVec = x.vecSize || slot = 63 then .goto t (s.setLink c slot kind)
  else if !x.allReturned s.now then .hold .marker s
  else
    let m := settleWindow (k.mainRuns slot) x.win.mainBase x.mainSize newMain 8 2016
    let v := settleWindow (k.vecRuns slot) x.win.vecBase x.vecSize newVec 4 252
    let badM := k.badMain.find? fun e => x.win.mainBase ≤ e && e < x.win.mainBase + x.mainSize
    let badV := k.badVec.find? fun e => x.win.vecBase ≤ e && e < x.win.vecBase + x.vecSize
    if m = .save || v = .save then
      if badM.isSome || badV.isSome then .hold .settle (s.post (.coreKill c 4))
      else if !x.pipe.isEmpty then .hold .performed s
      else
        let s := ((s.setLink c slot kind).passMarker c slot).modCore c fun k => k.leaveGang slot
        let v := (s.core c).saveCtx slot
        let w : Win := { v.ctx.win with mainCode := p.mainCode, vecCode := p.vecCode }
        let v := { v with ctx := { v.ctx with pc := PC.at_ t, win := w, out := [], latch := [], badPages := [], phase := 0, w1done := false } }
        let key := k.work.saved.foldl (fun n e => max n e.1) 999 + 1
        let s := s.modCore c fun k => { k with work := { k.work with saved := Tab.put k.work.saved key v } }
        .gone (s.vacate c slot)
    else
      let mb := match m with | .move b => b | .stay b => b | .save => 0
      let vb := match v with | .move b => b | .stay b => b | .save => 0
      let movedM := m != .stay x.win.mainBase
      let movedV := v != .stay x.win.vecBase
      match (if movedM then badM else none), (if movedV then badV else none) with
      | some e, _ => .fault fcParity e false
      | none, some e => .fault fcParity e false
      | none, none =>
        let s := (s.setLink c slot kind).passMarker c slot
        let s := s.modCore c fun k => (k.moveMain slot mb newMain).moveVec slot vb newVec
        let cost := (if movedM then min newMain x.mainSize else 0) + (if movedV then 8 * min newVec x.vecSize else 0)
        if cost = 0 then .goto t s else .park (.moving (s.now + cost)) (some t) s

/-- The entry descriptors of a block, as a core knows them; none of a block held nowhere that it does not hold itself. -/
def Core.descsOf (k : Core) (asid blk : Nat) : Option (List Nat) :=
  match k.placedBlock asid blk with
  | some p => some p.descs
  | none => (k.mapEntry asid blk).bind fun e => if e.nholders = 0 then none else some e.descs

/-- The entry descriptor of an address in a block, as the core knows it; every register where it does not (log 18). -/
def Core.descOf (k : Core) (asid t : Nat) : Nat :=
  match k.descsOf asid (t / 512) with
  | none => allLive + t % 512
  | some descs => (entryAt descs (t % 512)).getD (t % 512)

/-- Where a message goes that names an entry by its address, or by its index in a block held nowhere: the address, the
descriptor, and the index while the entry is not known; or the detail double of the entry fault (08 R174, R175 line 8). -/
def resolveEntry (descs : Option (List Nat)) (t : Nat) (j : Option Nat) : Except Nat (Nat × Nat × Option Nat) :=
  match descs, j with
  | none, some _ => .ok (t, allLive, j)
  | none, none => .ok (t, allLive + t % 512, none)
  | some l, some i => match l[i]? with
    | some d => .ok (pa (t / 512) (descOff d), d, none)
    | none => .error (jDetail i (t / 512 : Nat))
  | some l, none => match entryAt l (t % 512) with
    | some d => .ok (t, d, none)
    | none => .error t

/-- A fork child created and sent (08 R178, 02 R47). -/
def State.forkChild (s : State) (c slot t : Nat) (j : Option Nat) : Act :=
  let k := s.core c
  let x := k.ctx slot
  if x.phase = 2 then .next s
  else if !x.settled s.now then .hold .settle s
  else
    let desc := k.descOf x.asid t
    match s.packParity c slot desc with
    | some e => .fault fcParity e false
    | none =>
      let m := s.packTravel c slot t 3 desc 0 j
      if (k.placedBlock x.asid (t / 512)).isSome then
        match s.pushDeque c m with
        | some s => .next (s.readmit c 63)
        | none => .hold .ring (s.signal 2 c 1)
      else match k.mapEntry x.asid (t / 512) with
        | none => .hold (.blockMap (t / 512)) s
        | some e =>
          if e.nholders = 0 then
            .next ((s.modCore c fun k => k.mapDrop x.asid (t / 512)).holdPlacement (dieOf c) m)
          else
            let s := s.modCtx c slot fun x => { x with phase := 1 }
            match e.choose (s.tid c slot) with
            | some h => .hold .accept (s.sendTo x.asid h m.cut (.forkChildArrival h { m with parent := some (c, slot) }))
            | none => .hold .accept ((s.countSent x.asid m.cut).post (.blockDirectoryReadReturn c x.asid (t / 512) (some { m with parent := some (c, slot) })))

/-- What the porter may not transfer to: a block that its core does not hold, or one too large for its windows (08 R186,
R198). -/
def Core.porterBars (k : Core) (x : Ctx) (slot blk : Nat) : Bool :=
  slot == 63 && blk != 0 && blk != x.pc.blk && match k.placedBlock x.asid blk with
    | none => true
    | some p => 3 < p.mainCode || 1 < p.vecCode

/-- transfer(t, kind) (08 R175), the porter's privilege of rank 2 coming first (R198; 07 R171). A thread that is to leave waits at
its transfer (02 R39); its message takes the LINK of line 10 with it. -/
def State.transfer (s : State) (c slot kind : Nat) (tg : Target) : Act :=
  let k := s.core c
  let x := k.ctx slot
  let b := x.pc.blk
  let count := k.blockCount x.asid b
  let last := kind == 1 && count ≤ x.pc.off + 1
  if k.porterBars x slot tg.block then .fault fcPrivilege 0 false
  else match tg with
  | .bad _ d => .fault fcEntry d false
  | .miss bt => .hold (.blockMap bt) s
  | .index bt e =>
    if last then .fault fcEntry (jDetail e bt) false
    else if kind = 3 then (s.mapUse c x.asid bt).forkChild c slot (pa bt 0) (some e)
    else .hold (.depart (pa bt 0) kind (some e)) (s.mapUse c x.asid bt)
  | .addr t =>
    let bt := t / 512
    let ot := t % 512
    if 2 ^ 33 ≤ t || bt = 0 then .fault fcEntry t false
    else if last then .fault fcEntry t false
    else if bt = b then
      if count ≤ ot then .fault fcEntry t false
      else if kind = 3 then s.forkChild c slot t none
      else .goto t (s.setLink c slot kind)
    else match k.known x.asid bt with
      | none => .hold (.blockMap bt) s
      | some (descs, nowhere) =>
        let s := s.mapUse c x.asid bt
        if !nowhere && (entryAt descs ot).isNone then .fault fcEntry t false
        else if kind = 3 then s.forkChild c slot t none
        else match k.placedBlock x.asid bt with
          | some p => s.settleAt c slot kind p t
          | none => .hold (.depart t kind none) s

/-- Whether two messages of a redundant pair ask the same (08 R199). -/
def travelAgrees (a b : Travel) : Bool := { a with pt := b.pt } == b

/-- A packed message of a thread that has left its context goes on its way: to the holder that the core's block-map entry gives,
behind a read of the directory, or to Boxwood for a block held nowhere (02 R35, R38; 05 R123). -/
def State.sendOff (s : State) (c : Nat) (e : Option MapEntry) (m : Travel) : State :=
  let blk := m.dest / 512
  let read := (s.countSent m.asid m.cut).post (.blockDirectoryReadReturn c m.asid blk (some m))
  match e with
  | none => read
  | some e =>
    if e.nholders = 0 then (s.modCore c fun k => k.mapDrop m.asid blk).holdPlacement (dieOf c) m
    else match e.choose m.tid with
      | some h => s.sendTo m.asid h m.cut (.travelMessageArrival h m)
      | none => read

/-- The departure of a thread that waits for it (02 R39): packed, freed, sent to a holder or to Boxwood. A block that has come to
be held meanwhile has its entry checked now, and one held on this core makes the transfer issue again (R36). -/
def State.depart (s : State) (c slot : Nat) : State :=
  let k := s.core c
  let x := k.ctx slot
  match x.status with
  | .parked (.depart t kind j) =>
    let second := x.pc.word == 1
    let partnerReady := match x.pair with
      | none => true
      | some p => (match (k.ctx p).status with | .parked (.depart _ _ _) => (k.ctx p).settled s.now | _ => false)
    if !x.settled s.now || !partnerReady then s
    else if (k.placedBlock x.asid (t / 512)).isSome then
      (match x.pair with | some p => s.setStatus c p .ready | none => s).setStatus c slot .ready
    else match resolveEntry (k.descsOf x.asid (t / 512)) t j with
      | .error d => s.takeFault c slot fcEntry d second false
      | .ok (t', desc, j') =>
        match s.packParity c slot desc with
        | some e => s.takeFault c slot fcParity e second false
        | none =>
          let pack := fun (n : Nat) => s.packTravel c n t' kind desc ((k.ctx n).linked kind) j'
          let m := pack slot
          let agree := match x.pair with
            | none => true
            | some p => travelAgrees m (pack p) &&
                (match (k.ctx p).status with | .parked (.depart u _ i) => u == t && i == j | _ => false)
          if !agree then s.takeFault c slot fcMismatch 0 second false
          else
            let s := match x.pair with
              | some p => s.freeCtx c p
              | none => s
            (s.vacate c slot).sendOff c (k.mapEntry x.asid (t / 512)) m
  | _ => s

/-! ### Saving a context (02 R51) -/

/-- What FENCEB waits for (08 R192): results, stores, transfers, chain and matrix commands of the thread. -/
def Core.fenced (k : Core) (slot now : Nat) : Bool :=
  let x := k.ctx slot
  x.settled now && x.cmds.isEmpty && x.copies.all fun t =>
    reached (k.cpdone t.1) (t.2 + 1) || k.units.transfers.any fun u => u.req.chan == t.1 && u.req.id == t.2 && u.done

/-- What a save finds a thread doing, as the thread resumes: a parked one reissues its instruction, a departure is abandoned
(02 R51, R52). A QMAXX keeps its round; a FORK, TRAP or SNAP whose message has left waits on for its answer (log 23), a
command for its operands to be taken (11 R259), and a remote access to be performed. -/
def Status.resumes : Status → Status
  | .gathering => .ready
  | .parked .marker => .parked .marker
  | .parked (.round g t) => .parked (.round g t)
  | .parked .accept => .parked .accept
  | .parked .engine => .parked .engine
  | .parked .performed => .parked .performed
  | .parked _ => .ready
  | st => st

/-- Whether a thread begins its instruction anew when it resumes: one that is parked on a wait that its save abandons. What a
ready thread's instruction has already done stays done. -/
def Status.restarts (st : Status) : Bool := match st with | .parked _ => st.resumes == .ready | _ => false

/-- A context goes to its slot's save area (02 R51). -/
def Ctx.saved (x : Ctx) : Ctx :=
  let y := if x.status.restarts then { x.dropLoads.unswap with phase := 0, phase1 := 0 } else x
  { y with prior := some x.status.resumes, status := .saved }

/-- The save leaves the core's waiting sets and its gathering table as they stand (03 R67; 05 R110): a popper keeps its place,
and a window that closes passes a member over that is no longer there. A joiner is forgotten by its counter's home. -/
def State.saveContext (s : State) (c slot : Nat) : State :=
  let s := s.modCore c fun k =>
    let k := k.leaveGang slot
    let v := k.saveCtx slot
    let k := { k with work := { k.work with saved := Tab.put k.work.saved slot { v with ctx := v.ctx.saved } } }
    (k.shelve slot).setCtx slot {}
  { s with dies := s.dies.map fun d => (d.1, { d.2 with joiners := d.2.joiners.filter fun j => !(j.2.1 == c && j.2.2.1 == slot) }) }

end Sys2Proof.Machine
end

