-- ==== Sys2Proof/Machine/Cut.lean ====
section
/-! DEFINITION. The local cut (15 R337 to R342): what each participant's cut captures; the acceptance of messages by their cut
bits (R338, R344, R345). -/

namespace Sys2Proof.Machine

/-- The open snapshot: at most one (15 R337). -/
def State.openSnap (s : State) : Option Snap := s.yew.snaps.find? fun n => n.status == 0
def State.modSnap (s : State) (job tag : Nat) (f : Snap → Snap) : State :=
  { s with yew := { s.yew with snaps := s.yew.snaps.map fun n =>
      if n.job == job && n.tag == tag && n.status == 0 then f n else n } }

/-- The ASIDs of a snapshot's job on this package. -/
def State.snapAsids (s : State) (n : Snap) : List Nat := ((s.job n.job).map Job.asids).getD []

/-! ### What a cut captures (15 R339) -/

/-- A context as a cut records it: parked instructions are recorded at their addresses, to issue again (02 R52; 11 R276);
accesses not yet performed are asked for anew when it is restored. -/
def Ctx.atCut (x : Ctx) : Ctx :=
  let y := x.saved
  let keep := fun (a : Access) => a.seq == 0 || y.out.any fun p => p.seq == a.seq
  { y with status := if x.status = .gathering then .gathering else y.prior.getD .ready, prior := x.prior,
           pipe := (y.pipe.filter fun a => a.join.isNone && keep a).map fun a => { a with posted := false } }

/-- The ASID of a waiting message, its time, and the thread that it brings. -/
def QSlot.asid (q : QSlot) : Nat :=
  match q.body with
  | .travel m => m.asid
  | .wake m => m.asid
  | .send m => m.asid
def QSlot.time (q : QSlot) : Nat :=
  match q.body with
  | .travel m => m.pt
  | .wake m => m.pt
  | .send m => m.ts
def QSlot.thread (q : QSlot) : Option Travel :=
  match q.body with
  | .travel m => some m
  | .wake m => some m
  | .send _ => none

/-- A core's part in a snapshot of some ASIDs: every register of the core (03 R55), of which k, w and the buffer table only where
SHASID is one of them, and MSQ, EVQ and INQ whole (15 R339); of what belongs to threads and requests, the job's. -/
def Core.atCut (k : Core) (asids : List Nat) : Core :=
  let mine := asids.contains
  let own := mine k.csr.shasid
  let ctxs := (k.ctxs.filter fun e => e.2.status != .free && mine e.2.asid).map fun e => (e.1, e.2.atCut)
  let slotMine := fun (n : Nat) => ctxs.any fun e => e.1 == n
  let qMine := fun (q : QSlot) => mine q.asid
  let ring := fun (r : Ring QSlot) => { r with entries := r.entries.filter qMine, old := r.old.filter qMine }
  let q := k.q
  let u := k.units
  { k with
    ctxs := ctxs,
    regs := if own then { k.regs with w := k.regs.w.map fun e => (e.1, { e.2 with loading := false }), kOld := [], bufOld := [] } else {},
    q := { meq := q.meq.filter fun o => mine o.asid, cpq := q.cpq.filter fun r => mine r.asid,
           chq := q.chq.filter fun r => mine r.asid, tkq := q.tkq.filter fun r => mine r.2.1,
           msq := q.msq, evq := q.evq, inq := q.inq, held := q.held, waiters := q.waiters.filter fun w => slotMine w.2.1 && w.2.2 != 0 },
    units := { u with transfers := u.transfers.filter fun t => mine t.req.asid,
                      chain := u.chain.bind fun r => if mine r.req.asid then some r else none,
                      chains := u.chains.filter fun r => mine r.req.asid,
                      rounds := u.rounds.filter fun r => mine r.asid,
                      heldRounds := u.heldRounds.filter fun e => mine e.1 && e.2.2.2.1 < 2 ^ 32,
                      dropped := u.dropped.filter fun e => mine e.1, solves := [] },
    work := { k.work with deque := k.work.deque.filter qMine, overflow := ring k.work.overflow, spill := ring k.work.spill,
                          gathers := k.work.gathers.filter fun g => mine g.asid,
                          porterQ := k.work.porterQ.filter fun i => mine i.asid,
                          porter := k.work.porter.bind fun i => if mine i.asid then some i else none,
                          porters := k.work.porters.filter fun e => mine e.1.asid,
                          saved := k.work.saved.filter fun e => mine e.2.ctx.asid, map := [], placed := [] },
    cache := [], tlb := [] }

/-- A hedge's part: the engine's operations and borrowings of the ASIDs, and every tile. -/
def Hedge.atCut (h : Hedge) (asids : List Nat) : Hedge :=
  { h with ops := h.ops.filter fun o => asids.contains o.asid, borrows := h.borrows.filter fun b => asids.contains b.asid,
           victim := [], l2tlb := [] }

/-- A scheduler's part: the job's records and their places in the rings. -/
def Die.atCut (d : Die) (asids : List Nat) : SchedCut :=
  let recs := d.recs.filter fun r => asids.contains r.asid || asids.contains r.origAsid
  let mine := fun (a : Nat) => recs.any fun r => r.addr == a
  { recs := recs, roots := d.roots.filter fun q => asids.contains q.asid, tasks := d.tasks.map fun e => (e.1, (Ring.all e.2).filter mine),
    holds := d.holds.map fun e => (e.1, (Ring.all e.2).filter mine) }

/-! ### Times (15 R346: double 5 of a manifest) -/

def maxOf (l : List Nat) : Nat := l.foldl max 0

/-- Times recorded with a core's part: of threads, of messages, and of its units' work. -/
def Core.partTime (k : Core) : Nat :=
  maxOf (k.ctxs.map (fun e => e.2.pt) ++ (k.work.saved.map Prod.snd ++ k.work.porters.map Prod.snd).map (fun v => v.ctx.pt)
    ++ (k.work.deque ++ k.work.overflow.all ++ k.work.spill.all).map QSlot.time ++ (k.q.msq ++ k.q.evq ++ k.q.inq).map Prod.snd
    ++ k.q.held.map (fun e => e.2.2) ++ k.q.tkq.map (fun e => e.2.2.2) ++ k.work.porterQ.map PorterItem.pt
    ++ k.units.transfers.map (fun t => max t.tc t.req.t0) ++ (k.units.chain.toList ++ k.units.chains).map ChainRun.tc)

/-- With a hedge's part: of its engine's operations and tiles. -/
def Hedge.partTime (x : Hedge) : Nat := maxOf (x.ops.map (fun o => max o.t0 o.tc) ++ x.tiles.map fun t => t.2.tc)

/-- The page of a line; the times of lines, and of their homes' entries, on pages at some bases. -/
def pageOf (line : Nat) : Nat := line * 128 / 65536 * 65536
def lineTimes (l : List CacheLine) (bases : List Nat) : Nat := maxOf ((l.filter fun l => bases.contains (pageOf l.line)).map fun l => max l.wts l.rts)
def homeTimes (l : Tab Home) (bases : List Nat) : Nat :=
  maxOf (l.flatMap fun h => (h.2.entries.filter fun e => bases.contains (pageOf e.line)).map fun e => max e.wts e.rts)

/-- The ASID and the logical time of a message in flight (15 R338). -/
def msgOf (i : Instr) : Option (Nat × Nat) :=
  match i with
  | .travelMessageArrival _ m => some (m.asid, m.pt)
  | .returnedTravelMessage m => some (m.asid, m.pt)
  | .blockDirectoryReadReturn _ _ _ (some m) => some (m.asid, m.pt)
  | .forkChildArrival _ m => some (m.asid, m.pt)
  | .stolenChildArrival _ m => some (m.asid, m.pt)
  | .wakeArrival _ m => some (m.asid, m.pt)
  | .sendArrival m => some (m.asid, m.ts)
  | .senduArrival m => some (m.asid, m.ts)
  | .returnedSend m => some (m.asid, m.ts)
  | .activeMessageArrival _ i => some (i.asid, i.pt)
  | .landingPacketArrival _ i => some (i.asid, i.pt)
  | .qmaxxContribution _ a _ _ _ _ _ => some (a, 0)
  | _ => none

/-! ### Pages -/

/-- The entries present in a table of page-table entries, with their indices. -/
def tableEntries (m : Memory) (base n : Nat) : List (Nat × Nat) :=
  let idx := ((List.filter (fun c => base ≤ c.1 && c.1 < base + 8 * n) m).map fun c => (c.1 - base) / 8).eraseDups
  idx.map fun i => (i, m.read (base + 8 * i) 8)

/-- The leaves of a root table: virtual page address, address of the entry, entry (04 R103). -/
def leavesOf (m : Memory) (root : Nat) : List (Nat × Nat × Nat) :=
  (tableEntries m root 16384).flatMap fun e0 =>
    if fld e0.2 61 3 != 1 then []
    else (tableEntries m (fld e0.2 16 32 * 65536) 8192).flatMap fun e1 =>
      if fld e1.2 61 3 != 1 || bit e1.2 60 then []
      else (tableEntries m (fld e1.2 16 32 * 65536) 32).map fun e2 =>
        (e0.1 * 2 ^ 34 + e1.1 * 2 ^ 21 + e2.1 * 65536, fld e1.2 16 32 * 65536 + 8 * e2.1, e2.2)

/-- Every leaf of some ASIDs on the package: die, ASID, and the leaf. -/
def State.jobLeaves (s : State) (asids : List Nat) : List (Nat × Nat × Nat × Nat × Nat) :=
  s.dies.flatMap fun d => asids.flatMap fun a =>
    match Tab.get? d.2.asids a with
    | none => []
    | some e => (leavesOf s.mem e.root).map fun l => (d.1, a, l)

/-- The 4 KiB pages of the views that a job's ASIDs have of a core's scratchpad, and of its hedge's (04 R87, R89). -/
def State.viewPages (s : State) (c : Nat) (asids : List Nat) : List Nat :=
  let lsplit := (s.core c).csr.lsplit
  let pages := fun (v : Nat × Nat) => (List.range (v.2 / 4096)).map fun i => sramAt c (v.1 + 4096 * i) / 4096
  (if asids.contains (s.core c).csr.shasid then pages (privateView lsplit 1) else [])
    ++ (if (s.class0 c).any asids.contains then pages (privateView lsplit 0) else [])
def State.hedgePages (s : State) (h : Nat) (asids : List Nat) : List Nat :=
  if (List.range 17).any (fun i => asids.contains (s.core (h / 32 * 8192 + h % 32 * 256 + i * 8)).csr.shasid) then
    (List.range (Config.hedgeBytes / 4096)).map fun i => hedgeAt h (4096 * i) / 4096
  else []

/-! ### Taking the cut -/

/-- What a core's cut records: its part, and the arrivals for it that its full spill queue diverted (02 R44, R52). -/
def State.cutImage (s : State) (c : Nat) (asids : List Nat) : Core :=
  let img := (s.core c).atCut asids
  let away := (s.diverted c).filter fun q => asids.contains q.asid
  { img with work := { img.work with spill := { img.work.spill with entries := img.work.spill.entries ++ away.map fun q => { q with core := 0 } } } }

/-- The pages of memory that a snapshot covers. -/
def Snap.listed (n : Snap) : List Nat := n.uncopied ++ n.pinned ++ n.pages.map Prod.fst

/-- A hedge's cut of the open snapshot. -/
def State.cutHedge (s : State) (h : Nat) : State :=
  match s.openSnap with
  | none => s
  | some n =>
    let image := (s.hedge h).atCut (s.snapAsids n)
    let time := max image.partTime (lineTimes (s.hedge h).victim n.listed)
    s.modSnap n.job n.tag fun n =>
      { n with hedges := Tab.put n.hedges h image, wantHedges := n.wantHedges.filter (· != h), maxTime := max n.maxTime time }

/-- A core's cut of the open snapshot, and with the first core of a hedge the hedge's, which falls at the engine's next
k-step boundary when a command runs (15 R339). Dirty lines of the job's pages take their cut bits, and SRAM pages are
shared again (R341). -/
def State.cutCore (s : State) (c : Nat) : State :=
  match s.openSnap with
  | none => s
  | some n =>
    if n.cores.any (fun k => k.core == c) then s
    else
      let asids := s.snapAsids n
      let k := s.core c
      let h := hedgeKey c
      let firstOfHedge := !(n.cores.any fun (k : CoreCut) => hedgeKey k.core == h)
      let pages := s.viewPages c asids ++ (if firstOfHedge then s.hedgePages h asids else [])
      let listed := n.listed
      let image := s.cutImage c asids
      let time := max image.partTime (lineTimes k.cache listed)
      let s := s.modSnap n.job n.tag fun n =>
        { n with cores := n.cores ++ [{ core := c, name := s.logical c, image := image }],
                 wantCores := n.wantCores.filter (· != c), shared := n.shared ++ pages, maxTime := max n.maxTime time,
                 opened := if n.cores.isEmpty then s.cycle c else n.opened,
                 wantHedges := if firstOfHedge then n.wantHedges ++ [h] else n.wantHedges }
      let older := fun (o : Snap) =>
        if o.job == n.job && o.status == 1 then { o with shared := o.shared.filter fun p => !pages.contains p } else o
      let s := { s with yew := { s.yew with snaps := s.yew.snaps.map older } }
      let mark := fun (l : CacheLine) =>
        if l.st = .m && listed.contains (l.line * 128 / 65536 * 65536) then { l with cut := true } else l
      let s := s.modCore c fun k => { k with cache := k.cache.map mark }
      if firstOfHedge && (s.hedge h).running.isNone then s.cutHedge h else s

/-- A message of an ASID reaches a participant: it is counted; a set cut bit makes a core cut first; a clear one after the
core's cut is recorded as channel state, as the arrival that redelivers it. -/
def State.accepting (s : State) (c asid : Nat) (cut : Bool) (again : Instr) : State :=
  let s := s.countGot asid cut
  match s.openSnap with
  | none => s
  | some n =>
    if !(s.snapAsids n).contains asid then s
    else if cut then s.cutCore c
    else if s.cutTaken c then
      let time := ((msgOf again).map Prod.snd).getD 0
      s.modSnap n.job n.tag fun n => { n with channel := n.channel ++ [again], maxTime := max n.maxTime time }
    else s

end Sys2Proof.Machine
end

