-- ==== Sys2Proof/Machine/Push.lean ====
section
/-! DEFINITION. Pushes to MEQ, CHQ and TKQ (03 R65, R66; 10 R248; 11 R257 to R261, R274), and where a scalar result goes (03 R62, 09 R203). -/

namespace Sys2Proof.Machine

/-! ### Scratchpad operands (11 R260) -/

def padBase (p : Word × Word) : Nat := fld p.1.toNat 0 21
def padRot (p : Word × Word) : Nat := fld p.2.toNat 32 3
def padTile (p : Word × Word) : Nat := fld p.2.toNat 16 16
def padRow (p : Word × Word) : Nat := fld p.2.toNat 0 16

/-- The offset of byte p of k-step q of stored row i. -/
def padOffset (w : Word × Word) (kb i q p : Nat) : Nat :=
  let row := padRow w
  let kpt := 128 * row / kb
  let p' := q % kpt * kb + p
  padBase w + q / kpt * 128 * padTile w + i * 128 * row + (p' / 128 + padRot w * i) % row * 128 + p' % 128

/-- The greatest offset of an operand: the last byte of each line it touches is looked at. -/
def padGreatest (w : Word × Word) (kb rows steps : Nat) : Nat :=
  (List.range rows).foldl (fun m i => (List.range steps).foldl (fun m q =>
    let kpt := 128 * padRow w / kb
    let first := q % kpt * kb
    let last := first + kb - 1
    let turn := if first / 128 = last / 128 then kb - 1 else 127 - first % 128
    max m (max (padOffset w kb i q turn) (padOffset w kb i q (kb - 1)))) m) 0

/-- What makes a scratchpad pair break R260. -/
def padBreaks (w : Word × Word) (kb rows steps : Nat) : Bool :=
  fld w.1.toNat 21 43 != 0 || padBase w % 128 != 0 || fld w.2.toNat 35 29 != 0 || padRow w == 0 || 16384 < padRow w
    || 128 * padRow w % kb != 0 || Config.hedgeBytes ≤ padGreatest w kb rows steps

/-- The checks that need only the double (11 R257 to R259, R261). -/
def cmdBreaks (d : Nat) : Bool :=
  let side := fun (b : Bool) =>
    let f := cmdFmt d b
    5 < f
      || (if cmdPad d b then 0x7E < cmdReg d b
          else cmdSteps d != 1 || cmdRows d b == 128 || !(f == 0 || f == 1 || f == 4 || f == 5) || cmdSparse d
            || 31 < cmdReg d b || cmdReg d b % (cmdRows d b / 2) != 0)
  if cmdKind d = 2 then fld d 36 23 != 0 || fld d 12 23 != 0
  else 2 < cmdKind d || fld d 12 7 != 0 || 8 < cmdPerm d || side false || side true
    || kClass (cmdFmt d false) (cmdSparse d) != kClass (cmdFmt d true) (cmdSparse d)
    || (cmdSparse d && (1 < cmdFmt d false || 1 < cmdFmt d true || !cmdPad d false || !cmdPad d true))

/-- The first register of a command outside the thread's window. -/
def cmdWindow (x : Ctx) (d : Nat) : Option Nat :=
  (cmdUses d).findSome? fun u =>
    match u.mains.find? fun n => x.mainSize ≤ n with
    | some n => some n
    | none => u.vecs.find? fun n => x.vecSize ≤ n

/-- An engine operation entered in MEQ, with a fresh id (11 R255). -/
def State.pushOp (s : State) (c slot : Nat) (op : EngOp) : State :=
  let h := hedgeKey c
  let x := s.ctx c slot
  let op := { op with id := (s.hedge h).nextOp, core := c, slot := slot, asid := x.asid, cls := x.cls,
                      redun := bit x.tstat 1, t0 := x.pt, tc := x.pt }
  let s := s.modHedge h fun y => { y with nextOp := y.nextOp + 1 }
  (s.modCore c fun k => { k with q := { k.q with meq := k.q.meq ++ [{ op with since := s.now }] } }).post (.engineCandidateStart h)

/-- A w register named by an operation: its index vector copied at issue, or the fault or wait it gives (03 R70, R71). -/
def State.permOf (s : State) (c sel : Nat) : Except Act (List Nat) :=
  if sel = 0 then .ok []
  else
    let w := Tab.getD (s.core c).regs.w (sel - 1) {}
    if w.loading then .error (.hold (.loading (sel - 1)) s)
    else if !w.valid then .error (.fault fcPermInvalid (sel - 1) false)
    else .ok (w.idx.take w.n)

/-- A push to MEQ: a matrix command (11 R261). The registers it names must lie in the window (07 R171 rank 3) before R257's
checks count. -/
def State.pushMatrix (s : State) (c slot : Nat) (v : Word) : Act :=
  let d := v.toNat
  let x := s.ctx c slot
  let owner := x.asid == (s.core c).csr.shasid
  if x.phase = 2 then .next s
  else if cmdKind d < 2 && cmdPerm d != 0 && cmdPerm d < 9 && !owner then .fault fcPrivilege 0 false
  else match cmdWindow x d with
    | some n => .fault fcWindow n false
    | none =>
      if cmdBreaks d then .fault fcOperand d false
      else if cmdKind d = 2 then
        if !(s.core c).q.hasRoom 0 then .hold (.room 0) s
        else
          let id := (s.hedge (hedgeKey c)).nextOp
          .next ((s.pushOp c slot { kind := .zero, d0 := v, tile := cmdTile d }).modCtx c slot fun x => { x with cmds := x.cmds ++ [id] })
      else
        let pair := fun (b : Bool) (s : State) =>
          if cmdPad d b then
            let (l, s) := s.readMains c slot (cmdReg d b) 2
            ((l[0]?.getD 0, l[1]?.getD 0), s)
          else ((0, 0), s)
        let (pa, s) := pair false s
        let (pb, s) := pair true s
        let bad := fun (b : Bool) (w : Word × Word) =>
          cmdPad d b && padBreaks w (kBytes (cmdFmt d b) (cmdSparse d) b) (cmdRows d b) (cmdSteps d)
        let w := Tab.getD (s.core c).regs.w (cmdPerm d - 1) {}
        if bad false pa || bad true pb then .fault fcOperand d false
        else if cmdPerm d != 0 && w.valid && !w.loading && cmdRows d false % w.n != 0 then .fault fcOperand d false
        else match s.permOf c (cmdPerm d) with
          | .error a => a
          | .ok perm =>
            if !(s.core c).q.hasRoom 0 then .hold (.room 0) s
            else
              let id := (s.hedge (hedgeKey c)).nextOp
              let kind := if cmdKind d = 0 then OpKind.mma else OpKind.mmac
              let s := s.pushOp c slot { kind := kind, d0 := v, tile := cmdTile d, aPair := pa, bPair := pb, perm := perm }
              let s := s.modCtx c slot fun x => { x with cmds := x.cmds ++ [id] }
              if cmdPad d false && cmdPad d true then .next s
              else .hold .engine (s.modCtx c slot fun x => { x with phase := 1 })

/-- A vector operand of a command copied to the engine's staging; its thread rejoins the rotation (11 R259). -/
def State.stageOp (s : State) (op : EngOp) : EngOp × State :=
  let d := op.d0.toNat
  let multiplies := op.kind == .mma || op.kind == .mmac
  if !multiplies || op.task.isSome || op.staged then (op, s)
  else
    let k := s.core op.core
    let x := k.ctx op.slot
    let regs := fun (b : Bool) => if cmdPad d b then [] else
      (List.range (cmdRows d b / 2)).map fun i => Tab.getD k.vfile (x.win.vecBase + cmdReg d b + i) 0
    let op := { op with aRegs := regs false, bRegs := regs true, staged := true }
    (op, if cmdPad d false && cmdPad d true then s else s.modCtx op.core op.slot fun x =>
      if x.status == .parked .engine then { x with phase := 2, status := .ready } else x)

/-- A command of a saved context that still waits in MEQ is staged at once (13 R313). -/
def State.stageWaiting (s : State) (c slot : Nat) : State :=
  (s.core c).q.meq.foldl (fun s o =>
    if o.slot = slot && !o.staged then
      let (p, s) := s.stageOp o
      s.modCore c fun k => { k with q := { k.q with meq := k.q.meq.map fun e => if e.id == o.id then p else e } }
    else s) s

/-- A push to CHQ (10 R248). -/
def State.pushChain (s : State) (c slot : Nat) (v : Word) : Act :=
  if !(s.core c).q.hasRoom 3 then .hold (.room 3) s
  else
    let x := s.ctx c slot
    let id := (s.hedge (hedgeKey c)).nextOp
    let s := s.modHedge (hedgeKey c) fun y => { y with nextOp := y.nextOp + 1 }
    let s := s.modCtx c slot fun x => { x with cmds := x.cmds ++ [id] }
    let e : ChainReq := { id := id, addr := v.toNat, asid := x.asid, cls := x.cls, t0 := x.pt, slot := slot }
    .next ((s.modCore c fun k => { k with q := { k.q with chq := k.q.chq ++ [e] } }).post (.chainCommandAccept c))

/-- A push to TKQ (11 R274). -/
def State.pushTask (s : State) (c slot : Nat) (v : Word) : Act :=
  let a := v.toNat
  if 2 ^ 48 ≤ a || a % 64 != 0 then .fault fcOperand a false
  else if !(s.core c).q.hasRoom 6 then .hold (.room 6) s
  else
    let x := s.ctx c slot
    .next ((s.modCore c fun k => { k with q := { k.q with tkq := k.q.tkq ++ [(a, x.asid, x.cls, x.pt)] } }).post (.tkqAccept c))

/-- A result reaches its destination at writeback: a register, a queue, or nowhere; and lc or la by the instruction's
class, unless the instruction pops (03 R62; 09 R203). A push follows the thread's accesses (10 R251; 11 R274; 12 R291). A
command whose push is made, and which waits for its vector operands
to be taken, has given its result. -/
def State.result (s : State) (c slot : Nat) (i : Instr) (o : Operand) (v : Word) : Act :=
  let pushed := o.isQueue && (s.ctx c slot).phase == 2
  let last := fun (t : State) => if popping i || pushed then t else t.modCtx c slot fun x => x.lastResult (isC i) v
  let a := match o with
    | .q n =>
      if !pushed && !(s.ctx c slot).pipe.isEmpty then Act.hold .performed s
      else if n.val = 0 then s.pushMatrix c slot v else if n.val = 3 then s.pushChain c slot v else s.pushTask c slot v
    | o => .next (s.writeOp c slot o v)
  match a with
  | .next t => .next (last t)
  | .park w d t => .park w d (last t)
  | .hold w t => .hold w (if w == .engine then last t else t)
  | a => a

/-- A result given behind another effect of its instruction: where its push must wait, the instruction waits with nothing done,
but a command that waits for its vector operands has been pushed. -/
def Act.orBack (a : Act) (t : State) : Act :=
  match a with
  | .hold w u => .hold w (if w == .engine then u else t)
  | a => a

/-- An act of a thread once its accesses have been performed: an engine's or a unit's own accesses follow them (10 R251; 12 R291). -/
def State.behindPipe (s : State) (c slot : Nat) (a : Act) : Act :=
  if (s.ctx c slot).pipe.isEmpty then a else .hold .performed s

end Sys2Proof.Machine
end

