-- ==== Sys2Proof/Machine/Control.lean ====
section
/-! DEFINITION. The meanings of the control instructions (08): branches, jumps, calls, forks, waits, requests to Ozine and Yew,
status registers. -/

namespace Sys2Proof.Machine

abbrev Out := Host.Outcome State Fault Refusal

/-- The state that a meaning leaves: each answers with one. -/
def Out.state (o : Out) (s : State) : State :=
  match o with
  | .next t => t
  | _ => s

/-- The first of an instruction's source values. -/
def val0 (l : List Word) : Word := l.headD 0
def val1 (l : List Word) : Word := (l.drop 1).headD 0

/-- NOP (08 R197). -/
def execNop (s : State) : Out := .next (s.issue .nop fun _ t => .next t)

/-- The cycle from which every k write, BFLD and BFCLR made on the core so far is visible (03 R63, R72). -/
def Core.visibleAt (k : Core) : Nat :=
  let a := k.regs.kOld.foldl (fun m r => max m (r.at_ + Config.kVisible)) 0
  k.regs.bufOld.foldl (fun m r => max m (r.at_ + Config.kVisible)) a

/-- KSYNC (03 R63, 08 R189). -/
def execKsync (s : State) : Out := .next <| s.issue .ksync fun _ t =>
  let c := t.iss.core
  let slot := t.iss.slot
  let until_ := (t.core c).visibleAt
  if (t.ctx c slot).phase = 1 || until_ ≤ t.now then .next t
  else .hold (.cycle until_) ((t.modCtx c slot fun x => { x with phase := 1 }).after (until_ - t.now) (.ksyncResume c slot))

/-- IDLE (08 R191). -/
def execIdle (s : State) : Out := .next <| s.issue .idle fun _ t =>
  let c := t.iss.core
  let slot := t.iss.slot
  let q := (t.core c).q
  if (t.ctx c slot).phase = 1 || !q.inq.isEmpty || !q.evq.isEmpty || !q.msq.isEmpty then .next t
  else .hold (.idle (t.now + Config.idleCycles))
    ((t.modCtx c slot fun x => { x with phase := 1 }).after Config.idleCycles (.idleTimeout c slot))

/-- A porter handler has come to its END: a landing packet completes at the core that issued the transfer, covering the
handler's stores, and the porter takes its next item (08 R198, 09 R223, 12 R293). -/
def State.porterEnd (s : State) (c : Nat) : State :=
  let x := s.ctx c 63
  let item := (s.core c).work.porter
  let s := s.modCore c fun k => { k.setCtx 63 {} with work := { k.work with porter := none } }
  let s := match item.bind PorterItem.land with
    | some l =>
      let issuer := s.phys l.core
      let cover := fun (t : Transfer) => if t.req.chan == l.chan && t.req.id == l.id then { t with tc := max t.tc (x.pt - 1) } else t
      let s := if chipOf l.core = s.chip x.asid then
          s.modCore issuer fun k => { k with units := { k.units with transfers := k.units.transfers.map cover } }
        else s
      s.postLanding x.asid l 0
    | none => s
  s.post (.porterHandlerStart c)

/-- END (08 R178, R198). -/
def execEndThread (s : State) : Out := .next <| s.issue .endThread fun _ t =>
  let c := t.iss.core
  let slot := t.iss.slot
  if !(t.ctx c slot).settled t.now then .hold .settle t
  else if slot = 63 then .gone (t.porterEnd c)
  else .gone (t.vacate c slot)

/-- A transfer to a target held in an operand or in LINK (08 R174). -/
def transferTo (kind : Nat) (v : Word) (t : State) : Act := t.transfer t.iss.core t.iss.slot kind (.addr v.toNat)

/-- A transfer of a J form (08 R174). -/
def transferJ (kind entry : Nat) (delta : BitVec 20) (t : State) : Act :=
  let c := t.iss.core
  t.transfer c t.iss.slot kind ((t.core c).jTarget (t.ctx c t.iss.slot) entry delta)

/-- RET (08 R176). -/
def execRet (s : State) : Out := .next <| s.issue .ret fun _ t =>
  transferTo 2 (BitVec.ofNat 64 (t.ctx t.iss.core t.iss.slot).link) t
/-- JMPR (08 R174). -/
def execJmpr (a : Operand) (s : State) : Out := .next <| s.issue (.jmpr a) fun v t => transferTo 0 (val0 v) t
/-- CALLR (08 R174). -/
def execCallr (a : Operand) (s : State) : Out := .next <| s.issue (.callr a) fun v t => transferTo 1 (val0 v) t
/-- FORKR (08 R178). -/
def execForkr (a : Operand) (s : State) : Out := .next <| s.issue (.forkr a) fun v t => transferTo 3 (val0 v) t
/-- JMP (08 R174). -/
def execJmp (e : Fin 16) (d : BitVec 20) (s : State) : Out := .next <| s.issue (.jmp e d) fun _ t => transferJ 0 e d t
/-- CALL (08 R174). -/
def execCall (e : Fin 16) (d : BitVec 20) (s : State) : Out := .next <| s.issue (.call e d) fun _ t => transferJ 1 e d t
/-- FORK (08 R178). -/
def execFork (e : Fin 16) (d : BitVec 20) (s : State) : Out := .next <| s.issue (.fork e d) fun _ t => transferJ 3 e d t

/-- The load of a join counter at a physical address. -/
def joinAccess (pa va : Nat) (x : Ctx) (forced : Bool) : Access :=
  { line := lineOf pa, kind := .load, segs := [(pa % 128 * 8, 64, 0)], join := some pa, va := va, asid := x.asid,
    forced := forced, pc := x.pc }

/-- JOIN (08 R179, 05 R129). -/
def execJoin (a : Operand) (s : State) : Out := .next <| s.issue (.join a) fun v t =>
  let c := t.iss.core
  let slot := t.iss.slot
  let x := t.ctx c slot
  let va := (val0 v).toNat
  if x.phase = 2 then .next t
  else match t.withPoison c slot 8 .load va (t.locate c x.asid x.cls flatRecord (val0 v).toInt 8 8 .load true) with
    | .fault _ code d g => .fault code d g
    | .hold _ w => .hold w t
    | .at_ pa _ _ =>
      let t := (t.modCtx c slot fun x => { x with phase := 1 }).useTlb c x.asid va
      .hold (.join pa) (t.access c slot [joinAccess pa va x false])
    | _ => .next t

/-- A waiting read (08 R180). A result that must wait for room leaves the register as it was; a command that has entered MEQ
and waits only for its operands (11 R259) has been read. -/
def waitingRead (i : Instr) (clear : Bool) (d : Operand) (a : Fin 128) (t : State) : Act :=
  let c := t.iss.core
  let slot := t.iss.slot
  if (t.ctx c slot).phase = 2 then t.result c slot i d 0
  else if !(t.core c).isFull slot a then .hold (.full a) t
  else
    let (l, t) := t.readMains c slot a 1
    let u := if clear then t.modCore c fun k => k.setFull slot a false else t
    (u.result c slot i d (val0 l)).orBack t

/-- RDW (08 R180). -/
def execRdw (d : Operand) (a : Fin 128) (s : State) : Out := .next <| s.issue (.rdw d a) fun _ t => waitingRead (.rdw d a) false d a t
/-- RDWC (08 R180). -/
def execRdwc (d : Operand) (a : Fin 128) (s : State) : Out := .next <| s.issue (.rdwc d a) fun _ t => waitingRead (.rdwc d a) true d a t

/-- FENCEB's wait is over: the thread has observed what ended (08 R192, 12 R292). -/
def State.fenceDone (s : State) (c slot : Nat) : State :=
  let k := s.core c
  let x := k.ctx slot
  if x.copies.isEmpty && x.cmdTc = 0 then s
  else
    let tc := x.copies.foldl (fun m t => max m (Tab.getD k.units.cpTc t.1 0)) x.cmdTc
    s.modCtx c slot fun x => { x.observe tc with copies := [], cmdTc := 0 }

/-- FENCEB (08 R192). -/
def execFenceb (s : State) : Out := .next <| s.issue .fenceb fun _ t =>
  let c := t.iss.core
  let slot := t.iss.slot
  if (t.core c).fenced slot t.now then .next (t.fenceDone c slot) else .hold .fence t

/-- TRAP (08 R193). -/
def execTrap (a : Operand) (s : State) : Out := .next <| s.issue (.trap a) fun v t =>
  let c := t.iss.core
  let slot := t.iss.slot
  let x := t.ctx c slot
  if x.phase = 2 then .next t
  else if !(t.core c).fenced slot t.now then .hold .fence t
  else
    let r : TrapRec := { tid := t.tid c slot, asid := x.asid, cls := x.cls, next := (x.pc.next t.iss.place).addr, arg := val0 v }
    let t := (t.fenceDone c slot).modCtx c slot fun x => { x with phase := 1 }
    .hold .accept (t.post (.trapRecordAccept c slot r))

/-- SNAP (08 R195). -/
def execSnap (a : Operand) (s : State) : Out := .next <| s.issue (.snap a) fun v t =>
  let c := t.iss.core
  let slot := t.iss.slot
  let x := t.ctx c slot
  if x.phase = 2 then .next t
  else if !x.allReturned t.now then .hold .marker t
  else .hold .accept ((t.modCtx c slot fun x => { x with phase := 1 }).post (.snapRequest c slot (fld (val0 v).toNat 0 32)))

/-- YIELD (08 R194). -/
def execYield (s : State) : Out := .next <| s.issue .yield fun _ t =>
  let c := t.iss.core
  let slot := t.iss.slot
  let x := t.ctx c slot
  if !x.allReturned t.now then .hold .marker t
  else if t.net.contains (.meshInterrupt c) && x.cls != 0 then
    .gone ((t.modCtx c slot fun x => x.complete (x.pc.next t.iss.place)).saveContext c slot)
  else .next t

/-- WAITX (08 R190, 12 R292). -/
def execWaitx (a : Operand) (ch : Fin 4) (s : State) : Out := .next <| s.issue (.waitx a ch) fun v t =>
  let c := t.iss.core
  let slot := t.iss.slot
  let k := t.core c
  let g := fld (val0 v).toNat 0 48
  if reached (k.cpdone ch) g then .next (t.modCtx c slot fun x => x.observe (Tab.getD k.units.cpTc ch 0))
  else .hold (.watermark ch g) t

/-! ### Branches (08 R173) -/

/-- A branch within the current block. -/
def branch (taken : Bool) (off : Fin 512) (t : State) : Act :=
  let c := t.iss.core
  let x := t.ctx c t.iss.slot
  if !taken then .next t
  else if (t.core c).blockCount x.asid x.pc.blk ≤ off then .fault fcEntry (pa x.pc.blk off) false
  else .goto (pa x.pc.blk off) t

/-- BR (08 R173). -/
def execBr (off : Fin 512) (s : State) : Out := .next <| s.issue (.br off) fun _ t => branch true off t
/-- BEQZ (08 R173). -/
def execBeqz (a : Operand) (off : Fin 512) (s : State) : Out :=
  .next <| s.issue (.beqz a off) fun v t => branch (val0 v == 0) off t
/-- BNEZ (08 R173). -/
def execBnez (a : Operand) (off : Fin 512) (s : State) : Out :=
  .next <| s.issue (.bnez a off) fun v t => branch (val0 v != 0) off t
/-- BLTZ (08 R173). -/
def execBltz (a : Operand) (off : Fin 512) (s : State) : Out :=
  .next <| s.issue (.bltz a off) fun v t => branch ((val0 v).slt 0) off t
/-- BGEZ (08 R173). -/
def execBgez (a : Operand) (off : Fin 512) (s : State) : Out :=
  .next <| s.issue (.bgez a off) fun v t => branch (!(val0 v).slt 0) off t
/-- BGTZ (08 R173). -/
def execBgtz (a : Operand) (off : Fin 512) (s : State) : Out :=
  .next <| s.issue (.bgtz a off) fun v t => branch ((0 : Word).slt (val0 v)) off t
/-- BLEZ (08 R173). -/
def execBlez (a : Operand) (off : Fin 512) (s : State) : Out :=
  .next <| s.issue (.blez a off) fun v t => branch (!(0 : Word).slt (val0 v)) off t
/-- BFULL (08 R173). -/
def execBfull (a : Fin 128) (off : Fin 512) (s : State) : Out :=
  .next <| s.issue (.bfull a off) fun _ t => branch ((t.view t.iss.core).isFull t.iss.slot a) off t
/-- BEMPTY (08 R173). -/
def execBempty (a : Fin 128) (off : Fin 512) (s : State) : Out :=
  .next <| s.issue (.bempty a off) fun _ t => branch (!(t.view t.iss.core).isFull t.iss.slot a) off t

/-! ### Messages and status registers -/

/-- SEND and SENDU (08 R182): performed as a store at PT once the thread has settled (12 R293). -/
def sendWord (unaddressed : Bool) (v : List Word) (t : State) : Act :=
  let c := t.iss.core
  let slot := t.iss.slot
  let x := t.ctx c slot
  let tgt := val0 v
  let dst := fld tgt.toNat 14 24
  if !t.validCore x.asid dst then .fault fcCoreId dst false
  else if !x.settled t.now then .hold .settle t
  else
    let m : SendMsg := { unaddressed := unaddressed, tgt := tgt, v := val1 v, tid := t.tid c slot, asid := x.asid, cls := x.cls,
                         ts := x.pt, cut := t.cutBit c x.asid }
    let t := t.modCtx c slot fun x => { x with pt := x.pt + 1 }
    .next (t.sendTo x.asid dst m.cut (if unaddressed then .senduArrival m else .sendArrival m))

/-- SEND (08 R182). -/
def execSend (a b : Operand) (s : State) : Out := .next <| s.issue (.send a b) fun v t => sendWord false v t
/-- SENDU (08 R182). -/
def execSendu (a b : Operand) (s : State) : Out := .next <| s.issue (.sendu a b) fun v t => sendWord true v t

/-- CSRRD (08 R188); a read of a watermark observes the completions it shows (12 R292). -/
def execCsrrd (x : Operand) (n : BitVec 12) (s : State) : Out := .next <| s.issue (.csrrd x n) fun _ t =>
  let c := t.iss.core
  let slot := t.iss.slot
  let v := BitVec.ofNat 64 (t.csr c slot n.toNat)
  let ch := n.toNat - 0x104
  let t := if 0x104 ≤ n.toNat && n.toNat ≤ 0x107 then
      match Tab.get? (t.core c).units.cpTc ch with
      | some tc => t.modCtx c slot fun x => x.observe tc
      | none => t
    else t
  t.result c slot (.csrrd x n) x v

/-- CSRWR (08 R188). -/
def execCsrwr (x : Operand) (n : BitVec 12) (s : State) : Out := .next <| s.issue (.csrwr x n) fun v t =>
  .next <| t.modCtx t.iss.core t.iss.slot fun y =>
    if n.toNat = 4 then { y with link := fld (val0 v).toNat 0 33 }
    else if (val0 v).toNat % 2 = 1 then y.setFlag 0 false else y

end Sys2Proof.Machine
end

