-- ==== Sys2Proof/Machine/Scalar.lean ====
section
/-! DEFINITION. The meanings of the scalar A-class instructions (09 R202 to R208; 10 R229, R246): one shared issue over what
Machine/Alu.lean computes. -/

namespace Sys2Proof.Machine

/-- A scalar instruction computes from its source values and its result goes to d (09 R203). -/
def scalarIssue (i : Instr) (d : Operand) (s : State) : State :=
  s.issue i fun v t => t.result t.iss.core t.iss.slot i d ((scalarEval i v).getD 0)

/-- ADD (09 R204). -/
def execAdd (d a b : Operand) (s : State) : Out := .next (scalarIssue (.add d a b) d s)
/-- SUB (09 R204). -/
def execSub (d a b : Operand) (s : State) : Out := .next (scalarIssue (.sub d a b) d s)
/-- MUL (09 R204). -/
def execMul (d a b : Operand) (s : State) : Out := .next (scalarIssue (.mul d a b) d s)
/-- MULH.s64 (09 R204). -/
def execMulhS64 (d a b : Operand) (s : State) : Out := .next (scalarIssue (.mulhS64 d a b) d s)
/-- MULH.n64 (09 R204). -/
def execMulhN64 (d a b : Operand) (s : State) : Out := .next (scalarIssue (.mulhN64 d a b) d s)
/-- AND (09 R204). -/
def execAnd (d a b : Operand) (s : State) : Out := .next (scalarIssue (.and d a b) d s)
/-- OR (09 R204). -/
def execOr (d a b : Operand) (s : State) : Out := .next (scalarIssue (.or d a b) d s)
/-- XOR (09 R204). -/
def execXor (d a b : Operand) (s : State) : Out := .next (scalarIssue (.xor d a b) d s)
/-- SHL (09 R204). -/
def execShl (d a b : Operand) (s : State) : Out := .next (scalarIssue (.shl d a b) d s)
/-- SHR.n64 (09 R204). -/
def execShrN64 (d a b : Operand) (s : State) : Out := .next (scalarIssue (.shrN64 d a b) d s)
/-- SHR.s64 (09 R204). -/
def execShrS64 (d a b : Operand) (s : State) : Out := .next (scalarIssue (.shrS64 d a b) d s)
/-- SLT.s64 (09 R204). -/
def execSltS64 (d a b : Operand) (s : State) : Out := .next (scalarIssue (.sltS64 d a b) d s)
/-- SLT.n64 (09 R204). -/
def execSltN64 (d a b : Operand) (s : State) : Out := .next (scalarIssue (.sltN64 d a b) d s)
/-- SEQ (09 R204). -/
def execSeq (d a b : Operand) (s : State) : Out := .next (scalarIssue (.seq d a b) d s)
/-- ADDI (09 R205). -/
def execAddi (d a : Operand) (imm : BitVec 8) (s : State) : Out := .next (scalarIssue (.addi d a imm) d s)
/-- SHLI (09 R205). -/
def execShli (d a : Operand) (n : Fin 64) (s : State) : Out := .next (scalarIssue (.shli d a n) d s)
/-- SHRI.n64 (09 R205). -/
def execShriN64 (d a : Operand) (n : Fin 64) (s : State) : Out := .next (scalarIssue (.shriN64 d a n) d s)
/-- SHRI.s64 (09 R205). -/
def execShriS64 (d a : Operand) (n : Fin 64) (s : State) : Out := .next (scalarIssue (.shriS64 d a n) d s)
/-- ROTRI (09 R205). -/
def execRotri (d a : Operand) (n : Fin 64) (s : State) : Out := .next (scalarIssue (.rotri d a n) d s)
/-- LI (09 R206). -/
def execLi (d : Operand) (imm : BitVec 16) (s : State) : Out := .next (scalarIssue (.li d imm) d s)
/-- LIS (09 R206). -/
def execLis (d : Operand) (imm : BitVec 16) (s : State) : Out := .next (scalarIssue (.lis d imm) d s)
/-- BFX (09 R207). -/
def execBfx (d a b : Operand) (s : State) : Out := .next (scalarIssue (.bfx d a b) d s)
/-- BFI (09 R207). -/
def execBfi (d a b : Operand) (s : State) : Out := .next (scalarIssue (.bfi d a b) d s)
/-- MOV (09 R208). -/
def execMov (d a : Operand) (s : State) : Out := .next (scalarIssue (.mov d a) d s)
/-- NOT (09 R208). -/
def execNot (d a : Operand) (s : State) : Out := .next (scalarIssue (.not d a) d s)
/-- NEG (09 R208). -/
def execNeg (d a : Operand) (s : State) : Out := .next (scalarIssue (.neg d a) d s)
/-- ABS.s64 (09 R208). -/
def execAbsS64 (d a : Operand) (s : State) : Out := .next (scalarIssue (.absS64 d a) d s)
/-- POPC (09 R208). -/
def execPopc (d a : Operand) (s : State) : Out := .next (scalarIssue (.popc d a) d s)
/-- CLZ (09 R208). -/
def execClz (d a : Operand) (s : State) : Out := .next (scalarIssue (.clz d a) d s)
/-- CTZ (09 R208). -/
def execCtz (d a : Operand) (s : State) : Out := .next (scalarIssue (.ctz d a) d s)
/-- BSWAP (09 R208). -/
def execBswap (d a : Operand) (s : State) : Out := .next (scalarIssue (.bswap d a) d s)
/-- BREV (09 R208). -/
def execBrev (d a : Operand) (s : State) : Out := .next (scalarIssue (.brev d a) d s)
/-- SEXT.s8 (09 R208). -/
def execSextS8 (d a : Operand) (s : State) : Out := .next (scalarIssue (.sextS8 d a) d s)
/-- SEXT.s16 (09 R208). -/
def execSextS16 (d a : Operand) (s : State) : Out := .next (scalarIssue (.sextS16 d a) d s)
/-- SEXT.s32 (09 R208). -/
def execSextS32 (d a : Operand) (s : State) : Out := .next (scalarIssue (.sextS32 d a) d s)
/-- ZEXT.n8 (09 R208). -/
def execZextN8 (d a : Operand) (s : State) : Out := .next (scalarIssue (.zextN8 d a) d s)
/-- ZEXT.n16 (09 R208). -/
def execZextN16 (d a : Operand) (s : State) : Out := .next (scalarIssue (.zextN16 d a) d s)
/-- ZEXT.n32 (09 R208). -/
def execZextN32 (d a : Operand) (s : State) : Out := .next (scalarIssue (.zextN32 d a) d s)
/-- QSCALE.e4m3 (10 R246). -/
def execQscaleE4m3 (d a : Operand) (s : State) : Out := .next (scalarIssue (.qscaleE4m3 d a) d s)
/-- QSCALE.e3m2 (10 R246). -/
def execQscaleE3m2 (d a : Operand) (s : State) : Out := .next (scalarIssue (.qscaleE3m2 d a) d s)
/-- QSCALE.e2m1 (10 R246). -/
def execQscaleE2m1 (d a : Operand) (s : State) : Out := .next (scalarIssue (.qscaleE2m1 d a) d s)
/-- QSCALEI (10 R246). -/
def execQscalei (d a : Operand) (s : State) : Out := .next (scalarIssue (.qscalei d a) d s)
/-- VLQ (10 R229). -/
def execVlq (d : Operand) (s : State) : Out := .next (scalarIssue (.vlq d) d s)
/-- VLANE (10 R229). -/
def execVlane (d : Operand) (ty : Ty) (s : State) : Out := .next (scalarIssue (.vlane d ty) d s)

end Sys2Proof.Machine
end

