-- ==== Sys2Proof/Machine/LoadStore.lean ====
section
/-! DEFINITION. Elements of an access and the line accesses they make (09 R211, 10 R243); the meanings of scalar loads and
stores (09 R209 to R212) and of BFLD and BFCLR (R213, R214). -/

namespace Sys2Proof.Machine

/-- One element of an access: where it goes, its first bit there, its size in bits, its place in the register and, for a
store, its value; the address that a fault would name. -/
structure Elem where
  found : Found
  bitOff : Nat := 0
  bits : Nat
  pos : Nat := 0
  val : Nat := 0
  va : Nat := 0

/-- The pieces of an element, one for each line it lies in: line, bit in the line, number of bits, bit of the element. -/
def piecesOf (addr bitOff bits : Nat) : List (Nat × Nat × Nat × Nat) :=
  let b := addr * 8 + bitOff
  let first := min bits (1024 - b % 1024)
  if first = bits then [(b / 1024, b % 1024, bits, 0)]
  else [(b / 1024, b % 1024, first, 0), (b / 1024 + 1, 0, bits - first, first)]

/-- An access that names a line and an owner takes a piece; later elements win where elements overlap (10 R241). -/
def addPiece (a : Access) (g : Nat × Nat × Nat × Nat) (e : Elem) : Access :=
  let mask := ones g.2.2.1 * 2 ^ g.2.1
  match a.kind with
  | .load => { a with segs := a.segs ++ [(g.2.1, g.2.2.1, e.pos + g.2.2.2)] }
  | _ => { a with mask := a.mask ||| mask, data := blend a.data (fld e.val g.2.2.2 g.2.2.1 * 2 ^ g.2.1) mask }

/-- A piece joins the access to its line, or begins one behind the accesses before it. -/
def placePiece (like : Access) (owner : Option Nat) (e : Elem) (l : List Access) (g : Nat × Nat × Nat × Nat) : List Access :=
  let mine := fun (a : Access) => a.line == g.1 && a.owner == owner && a.kind != .none
  if l.any mine then l.map fun a => if mine a then addPiece a g e else a
  else l ++ [addPiece { like with line := g.1, owner := owner, va := e.va } g e]

/-- The accesses of an instruction's elements in order: one for each line, one that touches no memory for each element
that is dropped or reads as zero (04 R100, 10 R243). One that another core of the package owns names the owner by its logical
id, and the line of its offset in the owner's view (04 R98; 01 R25). -/
def State.accessesOf (s : State) (like : Access) (cls : Nat) (l : List Elem) : List Access :=
  l.foldl (fun acc e =>
    match e.found with
    | .at_ addr pol none => (piecesOf addr e.bitOff e.bits).foldl (placePiece { like with pol := pol } none e) acc
    | .at_ addr pol (some o) =>
      let off := addr - sramAt o (privateView (s.core o).csr.lsplit cls).1
      (piecesOf off e.bitOff e.bits).foldl (placePiece { like with pol := pol } (some (s.coreId like.asid o)) e) acc
    | .chip owner off => (piecesOf off e.bitOff e.bits).foldl (placePiece like (some (2 ^ 30 + owner)) e) acc
    | _ => acc ++ [{ like with kind := .none }]) []

/-! ### Scalar loads and stores -/

/-- The forms of an offset (09 R209). -/
inductive OffForm where
  | byte | one | two
deriving DecidableEq, Repr

/-- The offset of an access under a record (04 R99). -/
def OffForm.offset (f : OffForm) (r : Nat) (v : Word) : Int :=
  match f with
  | .byte => v.toInt
  | .one => v.toInt * recStride0 r
  | .two => signed32 v.toNat * recStride0 r + signed32 (v.toNat / 2 ^ 32) * recStride1 r

/-- The address or offset that a fault of a located access names: base + e', e' being the clamped offset where the bounds
mode clamps a load (09 R211 line 6). -/
def State.accessAddr (s : State) (c asid r : Nat) (e : Int) (n : Nat) (kind : Purpose) : Nat :=
  let far := (Tab.get? (s.die (dieOf c)).asids asid).getD {}
  let limit := if recSpace r = 4 then min (recExtent r) far.farLimit else recExtent r
  let inb := 0 ≤ e && e + n ≤ limit
  wrap64 (recBase r + (if inb || recBounds r != 2 || kind != .load then e else ((limit - n : Nat) : Int)))

/-- One located element of an access of whole bytes. -/
def State.element (s : State) (c slot r : Nat) (e : Int) (n align : Nat) (kind : Purpose) (byteForm : Bool) (pos val : Nat) : Elem :=
  let x := s.ctx c slot
  { found := s.withPoison c slot n kind (s.accessAddr c x.asid r e n kind) (s.locate c x.asid x.cls r e n align kind byteForm),
    bits := 8 * n, pos := pos, val := val, va := s.accessAddr c x.asid r e n kind }

/-- The translations that located elements used. -/
def State.useTlbs (s : State) (c asid r : Nat) (l : List Int) : State :=
  if recSpace r = 0 then l.foldl (fun s e => s.useTlb c asid (wrap64 (recBase r + e))) s else s

/-- The accesses of a thread's instruction are on their way. Where the owner of one is another core of the package, the thread
issues the instruction again, at phase 3, once they have been performed, so that a fault that the owner finds is precise (04
R98; 14 R316). -/
def State.sendAccesses (s : State) (c slot : Nat) (es : List Elem) (l : List Access) : Act :=
  let away : Bool := es.any fun e => match e.found with | .at_ _ _ (some _) => true | _ => false
  if away && (s.ctx c slot).pair.isNone then
    .hold .performed ((s.modCtx c slot fun x => { x with phase := 3 }).access c slot l)
  else .next (s.access c slot l)

/-- A load's elements become accesses, and its result is outstanding (09 R212, 10 R243). An instruction without a single
access returns at once. -/
def State.loadElems (s : State) (c slot : Nat) (p : Pending) (es : List Elem) : Act :=
  match firstFault (es.map Elem.found) with
  | some (.fault _ code d g) => .fault code d g
  | some (.hold _ w) => .hold w s
  | _ =>
    let x := s.ctx c slot
    if Config.outstandingLimit ≤ x.outstanding then .hold .limit s
    else
      let seq := x.nextSeq
      let like : Access := { seq := seq, kind := .load, asid := x.asid, pc := x.pc }
      let l := s.accessesOf like x.cls es
      let p := { p with seq := seq, left := l.length, asid := x.asid, pc := x.pc }
      let s := s.modCtx c slot fun x => { x with out := x.out ++ [p] }
      if l.isEmpty then .next (s.post (.loadReturn c slot seq)) else s.sendAccesses c slot es l

/-- A store's elements become accesses; nothing is outstanding (09 R212). -/
def State.storeElems (s : State) (c slot : Nat) (es : List Elem) : Act :=
  match firstFault (es.map Elem.found) with
  | some (.fault _ code d g) => .fault code d g
  | some (.hold _ w) => .hold w s
  | _ =>
    let x := s.ctx c slot
    s.sendAccesses c slot es (s.accessesOf { kind := .store, asid := x.asid, pc := x.pc } x.cls es)

/-- A scalar load (09 R211). -/
def loadBody (f : OffForm) (signed : Bool) (x : Operand) (bf sz : Nat) (v : List Word) (t : State) : Act :=
  let c := t.iss.core
  let slot := t.iss.slot
  match t.record? c slot bf with
  | (none, _) => .fault fcBufRec bf false
  | (some r, t) =>
    let n := 2 ^ sz
    let e := f.offset r (val0 v)
    let t := t.useTlbs c (t.ctx c slot).asid r [e]
    t.loadElems c slot { kind := .load, dest := destOf x, bytes := n, signed := signed }
      [t.element c slot r e n n .load (f == .byte) 0 0]

/-- A scalar store (09 R211). -/
def storeBody (f : OffForm) (bf sz : Nat) (v : List Word) (t : State) : Act :=
  let c := t.iss.core
  let slot := t.iss.slot
  match t.record? c slot bf with
  | (none, _) => .fault fcBufRec bf false
  | (some r, t) =>
    let n := 2 ^ sz
    let e := f.offset r (val1 v)
    let t := t.useTlbs c (t.ctx c slot).asid r [e]
    t.storeElems c slot [t.element c slot r e n n .store (f == .byte) 0 ((val0 v).toNat % 2 ^ (8 * n))]

/-- LD.n (09 R209). -/
def execLdN (x : Operand) (bf : Fin 64) (sz : Fin 4) (i : Operand) (s : State) : Out :=
  .next <| s.issue (.ldN x bf sz i) (loadBody .byte false x bf sz)
/-- LD.s (09 R209). -/
def execLdS (x : Operand) (bf : Fin 64) (sz : Fin 4) (i : Operand) (s : State) : Out :=
  .next <| s.issue (.ldS x bf sz i) (loadBody .byte true x bf sz)
/-- LDE.n (09 R209). -/
def execLdeN (x : Operand) (bf : Fin 64) (sz : Fin 4) (i : Operand) (s : State) : Out :=
  .next <| s.issue (.ldeN x bf sz i) (loadBody .one false x bf sz)
/-- LDE.s (09 R209). -/
def execLdeS (x : Operand) (bf : Fin 64) (sz : Fin 4) (i : Operand) (s : State) : Out :=
  .next <| s.issue (.ldeS x bf sz i) (loadBody .one true x bf sz)
/-- LDX.n (09 R209). -/
def execLdxN (x : Operand) (bf : Fin 64) (sz : Fin 4) (i : Operand) (s : State) : Out :=
  .next <| s.issue (.ldxN x bf sz i) (loadBody .two false x bf sz)
/-- LDX.s (09 R209). -/
def execLdxS (x : Operand) (bf : Fin 64) (sz : Fin 4) (i : Operand) (s : State) : Out :=
  .next <| s.issue (.ldxS x bf sz i) (loadBody .two true x bf sz)
/-- ST (09 R209). -/
def execSt (x : Operand) (bf : Fin 64) (sz : Fin 4) (i : Operand) (s : State) : Out :=
  .next <| s.issue (.st x bf sz i) (storeBody .byte bf sz)
/-- STE (09 R209). -/
def execSte (x : Operand) (bf : Fin 64) (sz : Fin 4) (i : Operand) (s : State) : Out :=
  .next <| s.issue (.ste x bf sz i) (storeBody .one bf sz)
/-- STX (09 R209). -/
def execStx (x : Operand) (bf : Fin 64) (sz : Fin 4) (i : Operand) (s : State) : Out :=
  .next <| s.issue (.stx x bf sz i) (storeBody .two bf sz)

/-! ### Buffer records (09 R213, R214) -/

/-- A load of some bytes through bf0 that holds its thread until its bits have returned, and then issues again at phase 1
with the loaded bits in the result of its own sequence number: BFLD's record, PLOAD's index vector (11 R277). -/
def State.fetchBytes (s : State) (c slot : Nat) (v : Word) (n align : Nat) (p : Pending) : Act :=
  let s := s.useTlbs c (s.ctx c slot).asid flatRecord [v.toInt]
  match s.loadElems c slot p [s.element c slot flatRecord v.toInt n align .load true 0 0] with
  | .next t => .hold .vector (t.modCtx c slot fun x => { x with phase := 1 })
  | a => a

/-- The result that such a load left, and the thread without it. -/
def Ctx.fetched (x : Ctx) : Nat := ((x.out.getLast?).map Pending.acc).getD 0
def Ctx.dropFetched (x : Ctx) : Ctx := { x with out := x.out.dropLast }

/-- BFLD (09 R213): the record is loaded and stands in the entry from its return on; once it is checked the result is
outstanding until the marker that the record's visibility ends. Of two results that name one entry either may stand after the
marker (07 R155). -/
def execBfld (a : Operand) (bf : Fin 64) (s : State) : Out := .next <| s.issue (.bfld a bf) fun v t =>
  let c := t.iss.core
  let slot := t.iss.slot
  let x := t.ctx c slot
  if bf.val = 0 then .fault fcBufRec 0 false
  else if x.phase = 0 then t.fetchBytes c slot (val0 v) 32 32 { kind := .bfld, bytes := 32, queue := bf.val + 1 }
  else
    let r := x.fetched
    if t.recordBreaks x.asid r then .fault fcBufRec bf false
    else
      let twin := x.out.any fun p => p.dest == .bf bf
      let set := fun (p : Pending) => { p with dest := .bf bf, acc := r + 2 ^ 256, clash := twin, queue := 0 }
      .next (t.modCtx c slot fun x =>
        { x with out := (x.dropFetched.clash (.bf bf) (r + 2 ^ 256)).out ++ (x.out.getLast?.map set).toList })

/-- BFCLR (09 R213, R214). -/
def execBfclr (bf : Fin 64) (s : State) : Out := .next <| s.issue (.bfclr bf) fun _ t =>
  let c := t.iss.core
  let slot := t.iss.slot
  if bf.val = 0 then .fault fcBufRec 0 false
  else .next (t.modCore c fun k =>
    let b := { (k.buf bf) with valid := false }
    (k.modCtx slot fun x => x.clash (.bf bf) b.word).putBuf bf slot t.now b)

end Sys2Proof.Machine
end

