-- ==== Sys2Proof/Machine/Atomic.lean ====
section
/-! DEFINITION. The meanings of the atomics (09 R215 to R217). -/

namespace Sys2Proof.Machine

/-- An atomic (09 R216): one access that reads and writes its location; the old value is its outstanding result. -/
def atomicBody (op : AtomOp) (n : Nat) (x : Operand) (bf : Nat) (v : List Word) (t : State) : Act :=
  let c := t.iss.core
  let slot := t.iss.slot
  match t.record? c slot bf with
  | (none, _) => .fault fcBufRec bf false
  | (some r, t) =>
    let view := (t.view c).ctx slot
    let (h, t) := if op == .cas then t.readEither c slot (.h 0) (Tab.getD view.h 0 0) view else (0, t)
    let e := (val1 v).toInt
    let y := t.ctx c slot
    let t := t.useTlbs c y.asid r [e]
    let el := t.element c slot r e n n .atomic true 0 ((val0 v).toNat % 2 ^ (8 * n))
    match el.found with
    | .fault _ code d g => .fault code d g
    | .hold _ w => .hold w t
    | _ =>
      if Config.outstandingLimit ≤ y.outstanding then .hold .limit t
      else
        let p : Pending := { seq := y.nextSeq, kind := .atomic, dest := destOf x, bytes := n, left := 1, asid := y.asid, pc := y.pc }
        let like : Access := { seq := y.nextSeq, kind := .atomic op n (val0 v) h, asid := y.asid, pc := y.pc }
        let t := t.modCtx c slot fun z => { z with out := z.out ++ [p] }
        t.sendAccesses c slot [el] (t.accessesOf like y.cls [el])

/-- ASWAP (09 R216). -/
def execAswap (x : Operand) (bf : Fin 16) (i : Operand) (s : State) : Out :=
  .next <| s.issue (.aswap x bf i) (atomicBody .swap 8 x bf)
/-- AADD (09 R216). -/
def execAadd (x : Operand) (bf : Fin 16) (i : Operand) (s : State) : Out :=
  .next <| s.issue (.aadd x bf i) (atomicBody .add 8 x bf)
/-- AAND (09 R216). -/
def execAand (x : Operand) (bf : Fin 16) (i : Operand) (s : State) : Out :=
  .next <| s.issue (.aand x bf i) (atomicBody .and 8 x bf)
/-- AOR (09 R216). -/
def execAor (x : Operand) (bf : Fin 16) (i : Operand) (s : State) : Out :=
  .next <| s.issue (.aor x bf i) (atomicBody .or 8 x bf)
/-- AXOR (09 R216). -/
def execAxor (x : Operand) (bf : Fin 16) (i : Operand) (s : State) : Out :=
  .next <| s.issue (.axor x bf i) (atomicBody .xor 8 x bf)
/-- AMIN.s64 (09 R216). -/
def execAminS64 (x : Operand) (bf : Fin 16) (i : Operand) (s : State) : Out :=
  .next <| s.issue (.aminS64 x bf i) (atomicBody .minS 8 x bf)
/-- AMAX.s64 (09 R216). -/
def execAmaxS64 (x : Operand) (bf : Fin 16) (i : Operand) (s : State) : Out :=
  .next <| s.issue (.amaxS64 x bf i) (atomicBody .maxS 8 x bf)
/-- AMIN.n64 (09 R216). -/
def execAminN64 (x : Operand) (bf : Fin 16) (i : Operand) (s : State) : Out :=
  .next <| s.issue (.aminN64 x bf i) (atomicBody .minN 8 x bf)
/-- AMAX.n64 (09 R216). -/
def execAmaxN64 (x : Operand) (bf : Fin 16) (i : Operand) (s : State) : Out :=
  .next <| s.issue (.amaxN64 x bf i) (atomicBody .maxN 8 x bf)
/-- ACAS (09 R216). -/
def execAcas (x : Operand) (bf : Fin 16) (i : Operand) (s : State) : Out :=
  .next <| s.issue (.acas x bf i) (atomicBody .cas 8 x bf)
/-- AAMAX.f32 (09 R216). -/
def execAamaxF32 (x : Operand) (bf : Fin 16) (i : Operand) (s : State) : Out :=
  .next <| s.issue (.aamaxF32 x bf i) (atomicBody .amax32 4 x bf)
/-- AMAXSWAP.f32 (09 R216). -/
def execAmaxswapF32 (x : Operand) (bf : Fin 16) (i : Operand) (s : State) : Out :=
  .next <| s.issue (.amaxswapF32 x bf i) (atomicBody .amaxswap32 4 x bf)

end Sys2Proof.Machine
end

