-- ==== Sys2Proof/Machine/Copy.lean ====
section
/-! DEFINITION. CPY and CPY.nb: copy requests, their checks and their push onto CPQ (09 R218 to R220). -/

namespace Sys2Proof.Machine

/-! ### The fields of a copy request (09 R219) -/

def rqDouble (rq : List Word) (n : Nat) : Nat := (rq[n]?.getD 0).toNat
def rqFar (rq : List Word) : Bool := bit (rqDouble rq 0) 62
def rqChan (rq : List Word) : Nat := fld (rqDouble rq 0) 60 2
def rqEvent (rq : List Word) : Bool := bit (rqDouble rq 0) 59
def rqBarrier (rq : List Word) : Bool := bit (rqDouble rq 0) 58
def rqRows (rq : List Word) : Bool := bit (rqDouble rq 0) 57
def rqDst (rq : List Word) : Nat := fld (rqDouble rq 0) 51 6
def rqSrc (rq : List Word) : Nat := fld (rqDouble rq 0) 45 6
def rqEntry (rq : List Word) : Nat := fld (rqDouble rq 0) 41 4
def rqLength (rq : List Word) : Nat := fld (rqDouble rq 0) 0 40
def rqSrcOff (rq : List Word) : Int := (rq[1]?.getD 0).toInt
def rqDstOff (rq : List Word) : Int := (rq[2]?.getD 0).toInt
def rqCount (rq : List Word) : Nat := fld (rqDouble rq 3) 48 16 + 1
def rqCore (rq : List Word) : Nat := fld (rqDouble rq 3) 24 24
def rqHandler (rq : List Word) : Nat := fld (rqDouble rq 3) 0 24

/-- Offset, length and row stride that a described block cannot have (09 R220). -/
def describedBreaks (rq : List Word) (r : Nat) (off : Int) : Bool :=
  recFormat r == 0x30 &&
    (off % 64 != 0 || rqLength rq % 64 != 0 || (rqRows rq && recStride0 r % 64 != 0))

/-- A w register as the row-count check of 09 R220 sees it: the count of rows is a multiple of its n. -/
def Core.rowsFit (k : Core) (sel count : Nat) : Bool :=
  let w := Tab.getD k.regs.w (sel - 1) {}
  sel == 0 || !w.valid || w.loading || count % w.n == 0

/-- What raises the copy-request fault (09 R220). -/
def State.copyBreaks (s : State) (c asid : Nat) (rq : List Word) (src dst : Nat) : Bool :=
  let d0 := rqDouble rq 0
  let d3 := rqDouble rq 3
  bit d0 63 || bit d0 40 || rqLength rq == 0 || (!rqRows rq && fld d3 48 16 != 0)
    || (rqHandler rq == 0 && rqEntry rq != 0)
    || (rqFar rq && recSpace dst != 3) || (!rqFar rq && rqCore rq != 0)
    || (!rqRows rq && (recPerm src != 0 || recPerm dst != 0))
    || !(s.core c).rowsFit (recPerm src) (rqCount rq) || !(s.core c).rowsFit (recPerm dst) (rqCount rq)
    || (rqHandler rq != 0 && recSpace dst != 1 && recSpace dst != 2)
    || (recSpace src == 2 && chipOf (recOwner src) != s.chip asid)
    || describedBreaks rq src (rqSrcOff rq) || describedBreaks rq dst (rqDstOff rq)

/-- CPY and CPY.nb (09 R218). -/
def copyBody (i : Instr) (nb : Bool) (d : Operand) (a : Nat) (t : State) : Act :=
  let c := t.iss.core
  let slot := t.iss.slot
  let x := t.ctx c slot
  let owner := x.asid == (t.core c).csr.shasid
  let (rq, t) := t.readMains c slot a 4
  if x.phase = 2 then .next t else
  match t.record? c slot (rqSrc rq) with
  | (none, _) => .fault fcBufRec (rqSrc rq) false
  | (some src, t) =>
    match t.record? c slot (rqDst rq) with
    | (none, _) => .fault fcBufRec (rqDst rq) false
    | (some dst, t) =>
      if (!owner && (rqSrc rq != 0 || rqDst rq != 0)) || recSpace src == 5 || recSpace dst == 5 then .fault fcPrivilege 0 false
      else if rqFar rq && !t.validCore x.asid (rqCore rq) then .fault fcCoreId (rqCore rq) false
      else if t.copyBreaks c x.asid rq src dst then .fault fcCopyReq 0 false
      else match t.permOf c (recPerm src), t.permOf c (recPerm dst) with
        | .error e, _ => e
        | .ok _, .error e => e
        | .ok si, .ok di =>
          let ch := rqChan rq
          if !(t.core c).q.hasRoom 2 then
            if nb then t.result c slot i d (BitVec.allOnes 64) else .hold (.room 2) t
          else t.behindPipe c slot <|
            let id := Tab.getD (t.core c).units.nextId ch 0
            let e : CopyReq := { rq := rq, src := src, dst := dst, srcIdx := si, dstIdx := di, chan := ch, id := id,
                                 asid := x.asid, cls := x.cls, t0 := x.pt, slot := slot }
            let u := t.modCore c fun k =>
              { k with q := { k.q with cpq := k.q.cpq ++ [e] },
                       units := { k.units with nextId := Tab.set k.units.nextId ch ((id + 1) % 2 ^ 48) 0 } }
            let u := (u.modCtx c slot fun y => { y with copies := y.copies ++ [(ch, id)] }).post (.copyAccept c)
            (u.result c slot i d (BitVec.ofNat 64 id)).orBack t

/-- CPY (09 R218). -/
def execCpy (d : Operand) (a : Fin 128) (s : State) : Out :=
  .next <| s.issue (.cpy d a) fun _ t => copyBody (.cpy d a) false d a t
/-- CPY.nb (09 R218). -/
def execCpyNb (d : Operand) (a : Fin 128) (s : State) : Out :=
  .next <| s.issue (.cpyNb d a) fun _ t => copyBody (.cpyNb d a) true d a t

end Sys2Proof.Machine
end

