-- ==== Sys2Proof/Machine/Vector.lean ====
section
/-! DEFINITION. The meanings of the element-wise and moving vector instructions (10 R228, R232 to R240). -/

namespace Sys2Proof.Machine

/-! ### Elements -/

/-- The bits of an element that carry its value: 6 and 4 bits of the byte of E3M2 and E2M1 (06 R136). -/
def Ty.width (t : Ty) : Nat := match t with | .e3m2 => 6 | .e2m1 => 4 | t => t.bits

/-- N of a type (10 R228). -/
def lanes (t : Ty) : Nat := 1024 / t.bits

/-- Element i of a register, or of a group of registers held as one number. -/
def elemOf (t : Ty) (v i : Nat) : Nat := fld v (t.bits * i) (Ty.width t)

/-- A register of n elements of e bits from their values, and the bits of the elements that a mask selects. -/
def buildElems (e n : Nat) (f : Nat → Nat) : Nat := (List.range n).foldl (fun acc i => acc + f i % 2 ^ e * 2 ^ (e * i)) 0
def maskBits (e n m : Nat) : Nat := buildElems e n fun i => if bit m i then ones e else 0

/-- The active elements of register vd written from a function of their index. -/
def State.writeElems (s : State) (c slot vd : Nat) (t : Ty) (m : Nat) (f : Nat → Nat) : State :=
  s.writeVecBits c slot vd (buildElems t.bits (lanes t) f) (maskBits t.bits (lanes t) m)

/-! ### Shared meanings -/

/-- VA0, VA1, VA2 (10 R232). -/
def elementWise (op : VOp) (ty : Ty) (m vd va vb : Nat) (t : State) : Act :=
  let c := t.iss.core
  let slot := t.iss.slot
  let (d, t) := if op == .fma then t.readVec c slot vd else (0, t)
  let (a, t) := t.readVec c slot va
  let (b, t) := t.readVec c slot vb
  .next (t.writeElems c slot vd ty (t.readMask c slot m) fun i =>
    op.eval ty (elemOf ty a.toNat i) (elemOf ty b.toNat i) (elemOf ty d.toNat i))

/-- VCMP (10 R233). -/
def compareElems (op : CmpOp) (ty : Ty) (m md va vb : Nat) (t : State) : Act :=
  let c := t.iss.core
  let slot := t.iss.slot
  let (a, t) := t.readVec c slot va
  let (b, t) := t.readVec c slot vb
  let g := t.readMask c slot m
  .next (t.writeMask c slot md (buildElems 1 (lanes ty) fun i =>
    if bit g i && op.eval ty (elemOf ty a.toNat i) (elemOf ty b.toNat i) then 1 else 0))

/-- VX (10 R234): none for VBCAST, else the operation of each element with the scalar. -/
def withScalar (op : Option VOp) (ty : Ty) (m vd : Nat) (v : List Word) (t : State) : Act :=
  let c := t.iss.core
  let slot := t.iss.slot
  let x := (val0 v).toNat % 2 ^ ty.bits
  let (d, t) := if op.isSome then t.readVec c slot vd else (0, t)
  .next (t.writeElems c slot vd ty (t.readMask c slot m) fun i =>
    match op with
    | some o => o.eval ty (elemOf ty d.toNat i) x 0
    | none => x)

/-- A group of registers as one number. -/
def groupNat (l : List Vec) : Nat := l.foldr (fun v acc => acc * 2 ^ 1024 + v.toNat) 0

/-- Registers n, n + 1, ... of a group written from one number and one mask. -/
def State.writeGroup (s : State) (c slot n v mask : Nat) : Nat → State
  | 0 => s
  | k + 1 => (s.writeGroup c slot n v mask k).writeVecBits c slot (n + k) (fld v (1024 * k) 1024) (fld mask (1024 * k) 1024)

/-- VCVT (10 R235, R236). -/
def convert (dt st : Ty) (rm : RMode) (sat : Bool) (m vd va : Nat) (t : State) : Act :=
  let c := t.iss.core
  let slot := t.iss.slot
  let g := cvtGroup dt st
  let n := 1024 / min dt.bits st.bits
  let (l, t) := t.readVecs c slot va g.2
  let src := groupNat l
  let out := buildElems dt.bits n fun i => Ty.ofNum dt rm sat (Ty.toNum st (elemOf st src i))
  .next (t.writeGroup c slot vd out (maskBits dt.bits n (t.readMask c slot m)) g.1)

/-- VRED (10 R237). -/
def reduce (i : Instr) (op : RedOp) (ty : Ty) (m va : Nat) (d : Operand) (v : List Word) (t : State) : Act :=
  let c := t.iss.core
  let slot := t.iss.slot
  let (a, t) := t.readVec c slot va
  let g := t.readMask c slot m
  let init := if d != .zero then some ((val0 v).toNat % 2 ^ ty.bits)
    else if op == .sum || op == .amax then some 0 else none
  let tree := reduceTree (op.eval ty) 7 ((List.range (lanes ty)).map fun k => if bit g k then some (elemOf ty a.toNat k) else none)
  let r := match tree, init with
    | none, none => op.identity ty
    | none, some x => x
    | some x, none => ty.canon x
    | some x, some y => op.eval ty x y
  t.result c slot i d (if ty.signed then BitVec.ofInt 64 (ty.toInt r) else BitVec.ofNat 64 r)

/-- Indices of the active elements below N, ascending. -/
def activeOf (n m : Nat) : List Nat := (List.range n).filter fun i => bit m i

/-- VCOMPRESS (10 R238). -/
def compress (i : Instr) (ty : Ty) (m vd va : Nat) (h : Fin 4) (t : State) : Act :=
  let c := t.iss.core
  let slot := t.iss.slot
  let (a, t) := t.readVec c slot va
  let act := activeOf (lanes ty) (t.readMask c slot m)
  let t := t.writeElems c slot vd ty (ones 128) fun k => (act[k]?.map fun j => elemOf ty a.toNat j).getD 0
  let t := t.modCtx c slot fun x => x.setNone act.isEmpty
  t.result c slot i (.h h) (BitVec.ofNat 64 act.length)

/-- VEXPAND (10 R238). -/
def expand (i : Instr) (ty : Ty) (m vd va : Nat) (h : Fin 4) (t : State) : Act :=
  let c := t.iss.core
  let slot := t.iss.slot
  let (a, t) := t.readVec c slot va
  let g := t.readMask c slot m
  let t := t.writeElems c slot vd ty g fun k => elemOf ty a.toNat (activeOf k g).length
  t.result c slot i (.h h) (BitVec.ofNat 64 (activeOf (lanes ty) g).length)

/-- VROWMV (10 R239). -/
def rowMove (ty : Ty) (m vd va w : Nat) (t : State) : Act :=
  let c := t.iss.core
  let slot := t.iss.slot
  match t.permOf c (w + 1) with
  | .error a => a
  | .ok idx =>
    if lanes ty < idx.length then .fault fcPermInvalid w false
    else
      let (a, t) := t.readVec c slot va
      .next (t.writeElems c slot vd ty (t.readMask c slot m) fun i => elemOf ty a.toNat (idx[i]?.getD i))

/-! ### One meaning for each instruction -/

/-- VADD (10 R232). -/
def execVadd (ty : Ty) (m : Fin 8) (vd va vb : Fin 32) (s : State) : Out :=
  .next <| s.issue (.vadd ty m vd va vb) fun _ t => elementWise .add ty m vd va vb t
/-- VSUB (10 R232). -/
def execVsub (ty : Ty) (m : Fin 8) (vd va vb : Fin 32) (s : State) : Out :=
  .next <| s.issue (.vsub ty m vd va vb) fun _ t => elementWise .sub ty m vd va vb t
/-- VMUL (10 R232). -/
def execVmul (ty : Ty) (m : Fin 8) (vd va vb : Fin 32) (s : State) : Out :=
  .next <| s.issue (.vmul ty m vd va vb) fun _ t => elementWise .mul ty m vd va vb t
/-- VFMA (10 R232). -/
def execVfma (ty : Ty) (m : Fin 8) (vd va vb : Fin 32) (s : State) : Out :=
  .next <| s.issue (.vfma ty m vd va vb) fun _ t => elementWise .fma ty m vd va vb t
/-- VMIN (10 R232). -/
def execVmin (ty : Ty) (m : Fin 8) (vd va vb : Fin 32) (s : State) : Out :=
  .next <| s.issue (.vmin ty m vd va vb) fun _ t => elementWise .min ty m vd va vb t
/-- VMAX (10 R232). -/
def execVmax (ty : Ty) (m : Fin 8) (vd va vb : Fin 32) (s : State) : Out :=
  .next <| s.issue (.vmax ty m vd va vb) fun _ t => elementWise .max ty m vd va vb t
/-- VADDSAT (10 R232). -/
def execVaddsat (ty : Ty) (m : Fin 8) (vd va vb : Fin 32) (s : State) : Out :=
  .next <| s.issue (.vaddsat ty m vd va vb) fun _ t => elementWise .addsat ty m vd va vb t
/-- VSUBSAT (10 R232). -/
def execVsubsat (ty : Ty) (m : Fin 8) (vd va vb : Fin 32) (s : State) : Out :=
  .next <| s.issue (.vsubsat ty m vd va vb) fun _ t => elementWise .subsat ty m vd va vb t
/-- VAND (10 R232). -/
def execVand (ty : Ty) (m : Fin 8) (vd va vb : Fin 32) (s : State) : Out :=
  .next <| s.issue (.vand ty m vd va vb) fun _ t => elementWise .and ty m vd va vb t
/-- VOR (10 R232). -/
def execVor (ty : Ty) (m : Fin 8) (vd va vb : Fin 32) (s : State) : Out :=
  .next <| s.issue (.vor ty m vd va vb) fun _ t => elementWise .or ty m vd va vb t
/-- VXOR (10 R232). -/
def execVxor (ty : Ty) (m : Fin 8) (vd va vb : Fin 32) (s : State) : Out :=
  .next <| s.issue (.vxor ty m vd va vb) fun _ t => elementWise .xor ty m vd va vb t
/-- VANDN (10 R232). -/
def execVandn (ty : Ty) (m : Fin 8) (vd va vb : Fin 32) (s : State) : Out :=
  .next <| s.issue (.vandn ty m vd va vb) fun _ t => elementWise .andn ty m vd va vb t
/-- VCEQ (10 R233). -/
def execVceq (ty : Ty) (m md : Fin 8) (va vb : Fin 32) (s : State) : Out :=
  .next <| s.issue (.vceq ty m md va vb) fun _ t => compareElems .eq ty m md va vb t
/-- VCLT (10 R233). -/
def execVclt (ty : Ty) (m md : Fin 8) (va vb : Fin 32) (s : State) : Out :=
  .next <| s.issue (.vclt ty m md va vb) fun _ t => compareElems .lt ty m md va vb t
/-- VCLE (10 R233). -/
def execVcle (ty : Ty) (m md : Fin 8) (va vb : Fin 32) (s : State) : Out :=
  .next <| s.issue (.vcle ty m md va vb) fun _ t => compareElems .le ty m md va vb t
/-- VCNE (10 R233). -/
def execVcne (ty : Ty) (m md : Fin 8) (va vb : Fin 32) (s : State) : Out :=
  .next <| s.issue (.vcne ty m md va vb) fun _ t => compareElems .ne ty m md va vb t
/-- VCVT (10 R235). -/
def execVcvt (dt st : Ty) (rm : RMode) (sat : Bool) (m : Fin 8) (vd va : Fin 32) (s : State) : Out :=
  .next <| s.issue (.vcvt dt st rm sat m vd va) fun _ t => convert dt st rm sat m vd va t
/-- VBCAST (10 R234). -/
def execVbcast (ty : Ty) (m : Fin 8) (vd : Fin 32) (a : Operand) (s : State) : Out :=
  .next <| s.issue (.vbcast ty m vd a) fun v t => withScalar none ty m vd v t
/-- VADDX (10 R234). -/
def execVaddx (ty : Ty) (m : Fin 8) (vd : Fin 32) (a : Operand) (s : State) : Out :=
  .next <| s.issue (.vaddx ty m vd a) fun v t => withScalar (some .add) ty m vd v t
/-- VMULX (10 R234). -/
def execVmulx (ty : Ty) (m : Fin 8) (vd : Fin 32) (a : Operand) (s : State) : Out :=
  .next <| s.issue (.vmulx ty m vd a) fun v t => withScalar (some .mul) ty m vd v t
/-- VMAXX (10 R234). -/
def execVmaxx (ty : Ty) (m : Fin 8) (vd : Fin 32) (a : Operand) (s : State) : Out :=
  .next <| s.issue (.vmaxx ty m vd a) fun v t => withScalar (some .max) ty m vd v t
/-- VRSUM (10 R237). -/
def execVrsum (ty : Ty) (m : Fin 8) (va : Fin 32) (d : Operand) (s : State) : Out :=
  .next <| s.issue (.vrsum ty m va d) fun v t => reduce (.vrsum ty m va d) .sum ty m va d v t
/-- VRMAX (10 R237). -/
def execVrmax (ty : Ty) (m : Fin 8) (va : Fin 32) (d : Operand) (s : State) : Out :=
  .next <| s.issue (.vrmax ty m va d) fun v t => reduce (.vrmax ty m va d) .max ty m va d v t
/-- VRMIN (10 R237). -/
def execVrmin (ty : Ty) (m : Fin 8) (va : Fin 32) (d : Operand) (s : State) : Out :=
  .next <| s.issue (.vrmin ty m va d) fun v t => reduce (.vrmin ty m va d) .min ty m va d v t
/-- VRAMAX (10 R237). -/
def execVramax (ty : Ty) (m : Fin 8) (va : Fin 32) (d : Operand) (s : State) : Out :=
  .next <| s.issue (.vramax ty m va d) fun v t => reduce (.vramax ty m va d) .amax ty m va d v t
/-- VCOMPRESS (10 R238). -/
def execVcompress (ty : Ty) (m : Fin 8) (vd va : Fin 32) (h : Fin 4) (s : State) : Out :=
  .next <| s.issue (.vcompress ty m vd va h) fun _ t => compress (.vcompress ty m vd va h) ty m vd va h t
/-- VEXPAND (10 R238). -/
def execVexpand (ty : Ty) (m : Fin 8) (vd va : Fin 32) (h : Fin 4) (s : State) : Out :=
  .next <| s.issue (.vexpand ty m vd va h) fun _ t => expand (.vexpand ty m vd va h) ty m vd va h t
/-- VROWMV (10 R239). -/
def execVrowmv (ty : Ty) (m : Fin 8) (vd va : Fin 32) (w : Fin 8) (s : State) : Out :=
  .next <| s.issue (.vrowmv ty m vd va w) fun _ t => rowMove ty m vd va w t
/-- VSEL (10 R240). -/
def execVsel (ty : Ty) (m : Fin 8) (vd va : Fin 32) (s : State) : Out :=
  .next <| s.issue (.vsel ty m vd va) fun _ t =>
    let c := t.iss.core
    let slot := t.iss.slot
    let (a, t) := t.readVec c slot va
    .next (t.writeElems c slot vd ty (t.readMask c slot m) fun i => elemOf ty a.toNat i)

end Sys2Proof.Machine
end

