-- ==== Sys2Proof/Machine/Mask.lean ====
section
/-! DEFINITION. The meanings of the mask instructions (10 R230, R231). -/

namespace Sys2Proof.Machine

/-- A logical operation on two whole masks (10 R231). -/
def maskOp (f : Nat → Nat → Nat) (md ma mb : Nat) (t : State) : Act :=
  let c := t.iss.core
  let slot := t.iss.slot
  .next (t.writeMask c slot md (f (t.readMask c slot ma) (t.readMask c slot mb)))

/-- A number taken from a whole mask to an operand (10 R231). -/
def fromMask (i : Instr) (f : Nat → Nat) (ma : Nat) (d : Operand) (t : State) : Act :=
  let c := t.iss.core
  let slot := t.iss.slot
  t.result c slot i d (BitVec.ofNat 64 (f (t.readMask c slot ma)))

/-- MAND (10 R231). -/
def execMand (md ma mb : Fin 8) (s : State) : Out :=
  .next <| s.issue (.mand md ma mb) fun _ t => maskOp (fun a b => a &&& b) md ma mb t
/-- MOR (10 R231). -/
def execMor (md ma mb : Fin 8) (s : State) : Out :=
  .next <| s.issue (.mor md ma mb) fun _ t => maskOp (fun a b => a ||| b) md ma mb t
/-- MXOR (10 R231). -/
def execMxor (md ma mb : Fin 8) (s : State) : Out :=
  .next <| s.issue (.mxor md ma mb) fun _ t => maskOp (fun a b => a ^^^ b) md ma mb t
/-- MANDN (10 R231). -/
def execMandn (md ma mb : Fin 8) (s : State) : Out :=
  .next <| s.issue (.mandn md ma mb) fun _ t => maskOp (fun a b => a &&& (a ^^^ b)) md ma mb t
/-- MNOT (10 R231). -/
def execMnot (md ma : Fin 8) (s : State) : Out :=
  .next <| s.issue (.mnot md ma) fun _ t => maskOp (fun a _ => ones 128 ^^^ a) md ma ma t
/-- MMOV (10 R231). -/
def execMmov (md ma : Fin 8) (s : State) : Out :=
  .next <| s.issue (.mmov md ma) fun _ t => maskOp (fun a _ => a) md ma ma t
/-- MPOP (10 R231). -/
def execMpop (ma : Fin 8) (d : Operand) (s : State) : Out :=
  .next <| s.issue (.mpop ma d) fun _ t => fromMask (.mpop ma d) (popcount 128) ma d t
/-- MTOLO (10 R231). -/
def execMtolo (ma : Fin 8) (d : Operand) (s : State) : Out :=
  .next <| s.issue (.mtolo ma d) fun _ t => fromMask (.mtolo ma d) (fun a => fld a 0 64) ma d t
/-- MTOHI (10 R231). -/
def execMtohi (ma : Fin 8) (d : Operand) (s : State) : Out :=
  .next <| s.issue (.mtohi ma d) fun _ t => fromMask (.mtohi ma d) (fun a => fld a 64 64) ma d t
/-- MFROM (10 R231). -/
def execMfrom (md : Fin 8) (a : Operand) (s : State) : Out :=
  .next <| s.issue (.mfrom md a) fun v t => .next (t.writeMask t.iss.core t.iss.slot md (val0 v).toNat)
/-- BOUND (10 R230). -/
def execBound (md : Fin 8) (ty : Ty) (a b : Operand) (s : State) : Out :=
  .next <| s.issue (.bound md ty a b) fun v t =>
    .next (t.writeMask t.iss.core t.iss.slot md (buildElems 1 (lanes ty) fun k =>
      if (val0 v).toInt + k < (val1 v).toInt then 1 else 0))

end Sys2Proof.Machine
end

