-- ==== Sys2Proof/Machine/VectorMem.lean ====
section
/-! DEFINITION. The meanings of vector loads and stores (10 R241 to R243) and of QPACK (R247). -/

namespace Sys2Proof.Machine

/-- The active elements of a mask below n. -/
def State.active (s : State) (c slot n m : Nat) : List Nat := activeOf n (s.readMask c slot m)

/-- VLD and VST: the located active elements of N elements of s bytes, from an offset on with stride 0 (10 R241). -/
def State.stridedElems (s : State) (c slot r : Nat) (e0 : Int) (n : Nat) (kind : Purpose) (act : List Nat) (v : Nat) : List Elem :=
  act.map fun (k : Nat) => s.element c slot r (e0 + k * recStride0 r) n n kind true (8 * n * k : Nat) (fld v (8 * n * k : Nat) (8 * n : Nat))

/-- The position of packed element j of w bits: its byte offset, first bit and number of bytes (06 R135). -/
def packedAt (e0 : Int) (w j : Nat) : Int × Nat × Nat := (e0 + (w * j / 8 : Nat), w * j % 8, (w * j % 8 + w + 7) / 8)

/-- The greatest index of a packed region whose bits all lie in [0, limit) bytes (04 R100). The region begins at the offset; that
it goes on without an end, and so past the elements of the instruction or command, is the model's choice (DESIGN CHOICE, log
88). -/
def packedLast (e0 : Int) (w limit : Nat) : Option Nat :=
  let room : Int := 8 * limit - 8 * e0
  if room < w then none
  else
    let j := (room / w - 1).toNat
    if 0 ≤ e0 + (w * j / 8 : Nat) then some j else none

/-- The bytes of a packed element that a translation each must find: one that lies over the end of a 64 KiB page in space 0 is
accessed byte by byte, as offset from its first byte, first bit, bits and bits before it; any other at once (04 R103). -/
def packedParts (r : Nat) (at_ : Int × Nat × Nat) (w : Nat) : List (Nat × Nat × Nat × Nat × Nat) :=
  if recSpace r = 0 && at_.2.2 = 2 && wrap64 (recBase r + at_.1) % 65536 = 65535 then
    [(0, 1, at_.2.1, 8 - at_.2.1, 0), (1, 1, 0, w - (8 - at_.2.1), 8 - at_.2.1)]
  else [(0, at_.2.2, at_.2.1, w, 0)]

/-- One packed element, located (10 R242). -/
def State.packedElem (s : State) (c slot r : Nat) (e0 : Int) (w : Nat) (kind : Purpose) (v k : Nat) : List Elem :=
  let x := s.ctx c slot
  let far := (Tab.get? (s.die (dieOf c)).asids x.asid).getD {}
  let limit := if recSpace r = 4 then min (recExtent r) far.farLimit else recExtent r
  let own := packedAt e0 w k
  let inb := 0 ≤ own.1 && own.1 + own.2.2 ≤ limit
  let clamp := if inb || recBounds r != 2 || kind != .load then none else (packedLast e0 w limit).map (packedAt e0 w)
  let use := clamp.getD own
  (packedParts r use w).map fun g =>
    let va := wrap64 (recBase r + use.1 + g.1)
    let f := s.locateAt c x.asid x.cls r (own.1 + g.1) g.2.1 1 kind false inb (clamp.map fun o => o.1 + g.1)
    { found := s.withPoison c slot g.2.1 kind va f, bitOff := g.2.2.1, bits := g.2.2.2.1, pos := 8 * k + g.2.2.2.2,
      val := fld v (8 * k + g.2.2.2.2) g.2.2.2.1, va := va }

/-- The offsets whose translations the packed elements use. -/
def packedTouched (e0 : Int) (w : Nat) (act : List Nat) : List Int :=
  act.flatMap fun k =>
    let p := packedAt e0 w k
    [p.1, p.1 + p.2.2 - 1]

/-- VLD (10 R241). -/
def execVld (sz : Fin 4) (m : Fin 8) (v : Fin 32) (bf : Fin 64) (i : Operand) (s : State) : Out :=
  .next <| s.issue (.vld sz m v bf i) fun vals t =>
    let c := t.iss.core
    let slot := t.iss.slot
    match t.record? c slot bf with
    | (none, _) => .fault fcBufRec bf false
    | (some r, t) =>
      let n := 2 ^ sz.val
      let e0 := (val0 vals).toInt
      let act := t.active c slot (128 / n) m
      let t := t.useTlbs c (t.ctx c slot).asid r (act.map fun (k : Nat) => e0 + (k : Int) * recStride0 r)
      t.loadElems c slot { dest := .v v, bytes := 128, ebits := 8 * n, mask := maskBits (8 * n) (128 / n) (t.readMask c slot m) }
        (t.stridedElems c slot r e0 n .load act 0)

/-- VST (10 R241). -/
def execVst (sz : Fin 4) (m : Fin 8) (v : Fin 32) (bf : Fin 64) (i : Operand) (s : State) : Out :=
  .next <| s.issue (.vst sz m v bf i) fun vals t =>
    let c := t.iss.core
    let slot := t.iss.slot
    match t.record? c slot bf with
    | (none, _) => .fault fcBufRec bf false
    | (some r, t) =>
      let n := 2 ^ sz.val
      let e0 := (val0 vals).toInt
      let (d, t) := t.readVec c slot v
      let act := t.active c slot (128 / n) m
      let t := t.useTlbs c (t.ctx c slot).asid r (act.map fun (k : Nat) => e0 + (k : Int) * recStride0 r)
      t.storeElems c slot (t.stridedElems c slot r e0 n .store act d.toNat)

/-- VLDP (10 R242). -/
def packedLoad (w m v bf : Nat) (vals : List Word) (t : State) : Act :=
  let c := t.iss.core
  let slot := t.iss.slot
  match t.record? c slot bf with
  | (none, _) => .fault fcBufRec bf false
  | (some r, t) =>
    let e0 := (val0 vals).toInt
    let act := t.active c slot 128 m
    let t := t.useTlbs c (t.ctx c slot).asid r (packedTouched e0 w act)
    t.loadElems c slot { dest := .v v, bytes := 128, ebits := 8, mask := maskBits 8 128 (t.readMask c slot m) }
      (act.flatMap fun k => t.packedElem c slot r e0 w .load 0 k)

/-- VSTP (10 R242). -/
def packedStore (w m v bf : Nat) (vals : List Word) (t : State) : Act :=
  let c := t.iss.core
  let slot := t.iss.slot
  match t.record? c slot bf with
  | (none, _) => .fault fcBufRec bf false
  | (some r, t) =>
    let e0 := (val0 vals).toInt
    let (d, t) := t.readVec c slot v
    let act := t.active c slot 128 m
    let t := t.useTlbs c (t.ctx c slot).asid r (packedTouched e0 w act)
    t.storeElems c slot (act.flatMap fun k => t.packedElem c slot r e0 w .store d.toNat k)

/-- VLDP.e2m1 (10 R242). -/
def execVldpE2m1 (m : Fin 8) (v : Fin 32) (bf : Fin 64) (i : Operand) (s : State) : Out :=
  .next <| s.issue (.vldpE2m1 m v bf i) (packedLoad 4 m v bf)
/-- VLDP.e3m2 (10 R242). -/
def execVldpE3m2 (m : Fin 8) (v : Fin 32) (bf : Fin 64) (i : Operand) (s : State) : Out :=
  .next <| s.issue (.vldpE3m2 m v bf i) (packedLoad 6 m v bf)
/-- VSTP.e2m1 (10 R242). -/
def execVstpE2m1 (m : Fin 8) (v : Fin 32) (bf : Fin 64) (i : Operand) (s : State) : Out :=
  .next <| s.issue (.vstpE2m1 m v bf i) (packedStore 4 m v bf)
/-- VSTP.e3m2 (10 R242). -/
def execVstpE3m2 (m : Fin 8) (v : Fin 32) (bf : Fin 64) (i : Operand) (s : State) : Out :=
  .next <| s.issue (.vstpE3m2 m v bf i) (packedStore 6 m v bf)

/-- The block that QPACK writes for 64 FP32 codes under h0 (10 R247). -/
def packBlock (f : BlockFmt) (h0 : Nat) (xs : List Nat) : Nat :=
  let v := xs.map fp32.decode
  let finite := v.all fun x => match x with | .fin _ _ _ => true | _ => false
  let zero := v.all fun x => x.same (.fin false 0 0)
  if !bit h0 8 then encodeBlock f none xs
  else if !finite then poisonedBlock
  else if zero then zeroBlock
  else match fld h0 9 2 with
    | 0 => encodeBlock f (some (fld h0 0 8)) xs
    | 1 => zeroBlock
    | _ => poisonedBlock

/-- QPACK (10 R247): one store of 64 bytes. In space 0 too, where R101 checks the address only, an offset that is no multiple of
64 raises the alignment fault, as R247 has it (DEDUCED, log 89). -/
def qpackBody (f : BlockFmt) (vp bf : Nat) (vals : List Word) (t : State) : Act :=
  let c := t.iss.core
  let slot := t.iss.slot
  let view := (t.view c).ctx slot
  let (h, t) := t.readEither c slot (.h 0) (Tab.getD view.h 0 0) view
  let h0 := h.toNat
  if bit h0 8 && fld h0 9 2 == 3 then .fault fcOperand h0 false
  else match t.record? c slot bf with
    | (none, _) => .fault fcBufRec bf false
    | (some r, t) =>
      let e := (val0 vals).toInt
      let (l, t) := t.readVecs c slot (2 * vp) 2
      let src := groupNat l
      let block := packBlock f h0 ((List.range 64).map fun k => fld src (32 * k) 32)
      let t := t.useTlbs c (t.ctx c slot).asid r [e]
      let el := t.element c slot r e 64 64 .store true 0 block
      let bad := e % 64 != 0 && (match el.found with | .fault k _ _ _ => 5 < k | .drop => false | _ => true)
      t.storeElems c slot [if bad then { el with found := .fault 5 fcAlignment (wrap64 e) false } else el]

/-- QPACK.e4m3 (10 R247). -/
def execQpackE4m3 (vp : Fin 16) (bf : Fin 64) (i : Operand) (s : State) : Out :=
  .next <| s.issue (.qpackE4m3 vp bf i) (qpackBody .xe4m3 vp bf)
/-- QPACK.e3m2 (10 R247). -/
def execQpackE3m2 (vp : Fin 16) (bf : Fin 64) (i : Operand) (s : State) : Out :=
  .next <| s.issue (.qpackE3m2 vp bf i) (qpackBody .e3m2 vp bf)
/-- QPACK.e2m1 (10 R247). -/
def execQpackE2m1 (vp : Fin 16) (bf : Fin 64) (i : Operand) (s : State) : Out :=
  .next <| s.issue (.qpackE2m1 vp bf i) (qpackBody .e2m1 vp bf)
/-- QPACKI (10 R247). -/
def execQpacki (vp : Fin 16) (bf : Fin 64) (i : Operand) (s : State) : Out :=
  .next <| s.issue (.qpacki vp bf i) (qpackBody .int4 vp bf)

end Sys2Proof.Machine
end

