-- ==== Sys2Proof/Machine/Matrix.lean ====
section
/-! DEFINITION. The meanings of ACCLD, ACCST and DRAIN as a thread issues them (11 R254, R266 to R270); the engine's work is in
Machine/Engine.lean. -/

namespace Sys2Proof.Machine

/-- ACCLD (11 R267): the row that the engine read stands in the latch from position 100 on when the thread resumes; where the
thread did not wait in its slot when the engine met poison, position 99 says so. -/
def execAccld (tl : Fin 4) (vq : Fin 8) (a : Operand) (s : State) : Out :=
  .next <| s.issue (.accld tl vq a) fun v t =>
    let c := t.iss.core
    let slot := t.iss.slot
    let x := t.ctx c slot
    let row := (val0 v).toNat
    if x.phase = 2 && (Tab.get? x.latch 99).isSome then .fault fcPoison row false
    else if x.phase = 2 then
      let word := fun (n : Nat) => (Tab.getD x.latch (100 + n) 0).toNat
      let reg := fun (j : Nat) => (List.range 16).foldl (fun acc n => acc + word (16 * j + n) * 2 ^ (64 * n)) 0
      .next ((List.range 4).foldl (fun t j => t.writeVecBits c slot (4 * vq + j) (reg j) (ones 1024)) t)
    else if 128 ≤ row then .fault fcOperand row false
    else if !(t.core c).q.hasRoom 0 then .hold (.room 0) t
    else t.behindPipe c slot <| .hold .engine ((t.pushOp c slot { kind := .accld, tile := tl, row := row, v := 4 * vq }).modCtx c slot fun x => { x with phase := 1 })

/-- ACCST (11 R267). -/
def execAccst (tl : Fin 4) (vq : Fin 8) (a : Operand) (s : State) : Out :=
  .next <| s.issue (.accst tl vq a) fun v t =>
    let c := t.iss.core
    let slot := t.iss.slot
    let row := (val0 v).toNat
    if (t.ctx c slot).phase = 2 then .next t
    else if 128 ≤ row then .fault fcOperand row false
    else if !(t.core c).q.hasRoom 0 then .hold (.room 0) t
    else t.behindPipe c slot <|
      let (l, t) := t.readVecs c slot (4 * vq) 4
      .hold .engine ((t.pushOp c slot { kind := .accst, tile := tl, row := row, v := 4 * vq, aRegs := l, staged := true }).modCtx c slot
        fun x => { x with phase := 1 })

/-! ### Drain requests (11 R268) -/

def drainEvent (d0 : Nat) : Bool := bit d0 36
def drainPerm (d0 : Nat) : Nat := fld d0 32 4
def drainFmt (d0 : Nat) : Nat := fld d0 29 3
def drainMode (d0 : Nat) : Nat := fld d0 27 2
def drainDst (d0 : Nat) : Nat := fld d0 0 24
def drainBlock (d1 : Nat) : Nat := fld d1 40 24
def drainEntry (d1 : Nat) : Nat := fld d1 36 4
def drainOffset (d1 : Nat) : Nat := fld d1 0 32

/-- What makes the first double of a request break R270, and the second. -/
def drainBreaks0 (d0 : Nat) : Bool :=
  fld d0 37 27 != 0 || 8 < drainPerm d0 || drainFmt d0 == 7 || drainMode d0 == 3 || fld d0 24 3 != 0
    || (drainMode d0 != 0 && (drainFmt d0 == 0 || drainFmt d0 == 1 || drainFmt d0 == 6))
def drainBreaks1 (d1 : Nat) : Bool :=
  fld d1 32 4 != 0 || (drainBlock d1 == 0 && drainEntry d1 != 0) || drainOffset d1 % 128 != 0

/-- DRAIN (11 R268 to R270). -/
def execDrain (tl : Fin 4) (a : Fin 128) (s : State) : Out :=
  .next <| s.issue (.drain tl a) fun _ t =>
    let c := t.iss.core
    let slot := t.iss.slot
    let (l, t) := t.readMains c slot a 2
    let d0 := (l[0]?.getD 0).toNat
    let d1 := (l[1]?.getD 0).toNat
    let owner := (t.ctx c slot).asid == (t.core c).csr.shasid
    let w := Tab.getD (t.core c).regs.w (drainPerm d0 - 1) {}
    if drainPerm d0 != 0 && drainPerm d0 < 9 && !owner then .fault fcPrivilege 0 false
    else if drainBreaks0 d0 || (drainPerm d0 != 0 && w.valid && !w.loading && 128 % w.n != 0) then .fault fcOperand d0 false
    else if drainBreaks1 d1 then .fault fcOperand d1 false
    else if !t.validCore (t.ctx c slot).asid (drainDst d0) then .fault fcCoreId (drainDst d0) false
    else match t.permOf c (drainPerm d0) with
      | .error e => e
      | .ok perm =>
        if !(t.core c).q.hasRoom 0 then .hold (.room 0) t
        else t.behindPipe c slot <| .next (t.pushOp c slot
          { kind := .drain, d0 := BitVec.ofNat 64 d0, d1 := BitVec.ofNat 64 d1, perm := perm, tile := tl })

end Sys2Proof.Machine
end

