-- ==== Sys2Proof/Machine/Perm.lean ====
section
/-! DEFINITION. The meanings of the permutation instructions (11 R275 to R280). -/

namespace Sys2Proof.Machine

/-- A w register as an instruction reads it: its index vector, or the wait or fault it gives (03 R70, R71). -/
def State.readW (s : State) (c n : Nat) : Except Act (List Nat) := s.permOf c (n + 1)

/-- The loading bit of a register that an instruction writes: it waits while another write is under way (03 R71). -/
def State.wBusy (s : State) (c n : Nat) : Bool := (Tab.getD (s.core c).regs.w n {}).loading

/-- A new index vector goes to Hornbeam, and the thread waits for the solve (11 R276). -/
def State.solve (s : State) (c slot wd : Nat) (idx : List Nat) : Act :=
  let s := s.modCore c fun k =>
    let k := k.setLoading wd true
    { k with units := { k.units with solves := k.units.solves ++ [{ wd := wd, idx := idx, slot := slot }] } }
  .hold .solve ((s.modCtx c slot fun x => { x with phase := 2 }).post (.hornbeamSolveStart (hedgeKey c)))

/-- The 128 bytes of an index vector, the first n of them, from their number; and back (11 R277, R280). -/
def idxOfBytes (n v : Nat) : List Nat := (List.range n).map fun i => fld v (8 * i) 8
def bytesOfIdx (idx : List Nat) : Nat := pack 8 idx

/-- The detail word of the first position that breaks the bijection (11 R277). -/
def validityDetail (idx : List Nat) : Option Nat :=
  let n := idx.length
  let bad := (List.range n).find? fun i => n ≤ idx.getD i 0 || (idx.take i).contains (idx.getD i 0)
  bad.map fun i =>
    let missing := ((List.range n).find? fun v => !idx.contains v).getD 0
    (if n ≤ idx.getD i 0 then 2 ^ 16 else 0) + i * 256 + missing

/-- PLOAD (11 R277): the load of the index vector, its check, the solve. Its n is the one of its issue, which the load's result
keeps. -/
def execPload (wd : Fin 8) (a : Operand) (s : State) : Out := .next <| s.issue (.pload wd a) fun v t =>
  let c := t.iss.core
  let slot := t.iss.slot
  let x := t.ctx c slot
  let w := (val0 v).toNat
  let n := fld w 48 8
  if x.phase = 2 then .next t
  else if x.phase = 1 then
    let idx := idxOfBytes (((x.out.getLast?).map Pending.mask).getD 0) x.fetched
    match validityDetail idx with
    | some d => .fault fcPermValidity d false
    | none => (t.modCtx c slot Ctx.dropFetched).solve c slot wd idx
  else if fld w 56 8 != 0 || n == 0 || 128 < n then .fault fcOperand w false
  else if t.wBusy c wd then .hold (.loading wd) t
  else
    match t.fetchBytes c slot (BitVec.ofNat 64 (fld w 0 48)) 128 128 { kind := .bfld, bytes := 128, mask := n, queue := wd.val + 1 } with
    | .hold .vector t => .hold .vector (t.modCore c fun k => k.setLoading wd true)
    | r => r

/-- A solving instruction whose index vector comes from registers: `idx` answers it, or a fault or a wait. -/
def solveBody (wd : Nat) (idx : State → Except Act (List Nat)) (t : State) : Act :=
  let c := t.iss.core
  let slot := t.iss.slot
  if (t.ctx c slot).phase = 2 then .next t
  else match idx t with
    | .error a => a
    | .ok l => if t.wBusy c wd then .hold (.loading wd) t else t.solve c slot wd l

/-- The composition: apply wa, then wb (11 R278). -/
def composeIdx (a b : List Nat) : List Nat := b.map fun j => a.getD j 0

/-- PCOMP (11 R278). Registers of unequal n raise the operand-value fault; its detail is wb's n (log 20). -/
def execPcomp (wd wa wb : Fin 8) (s : State) : Out := .next <| s.issue (.pcomp wd wa wb) fun _ t =>
  solveBody wd (fun t =>
    match t.readW t.iss.core wa, t.readW t.iss.core wb with
    | .error a, _ => .error a
    | .ok _, .error a => .error a
    | .ok a, .ok b => if a.length = b.length then .ok (composeIdx a b) else .error (.fault fcOperand b.length false)) t

/-- The inverse (11 R278). -/
def inverseIdx (a : List Nat) : List Nat := (List.range a.length).map fun i => a.findIdx (· == i)

/-- PINV (11 R278). -/
def execPinv (wd wa : Fin 8) (s : State) : Out := .next <| s.issue (.pinv wd wa) fun _ t =>
  solveBody wd (fun t => (t.readW t.iss.core wa).map inverseIdx) t

/-- One step of the generator: the new state and the draw (11 R279). -/
def drawStep (st : Nat) : Nat × Nat :=
  let st := (st + 0x9E3779B97F4A7C15) % 2 ^ 64
  let z := (st ^^^ (st / 2 ^ 30)) * 0xBF58476D1CE4E5B9 % 2 ^ 64
  let z := (z ^^^ (z / 2 ^ 27)) * 0x94D049BB133111EB % 2 ^ 64
  (st, z ^^^ (z / 2 ^ 31))

/-- The shuffle from position i down to 1 (11 R279). -/
def shuffle : Nat → Nat → List Nat → List Nat
  | 0, _, l => l
  | i + 1, st, l =>
    let (st, z) := drawStep st
    let j := z * (i + 2) / 2 ^ 64
    let a := l.getD (i + 1) 0
    shuffle i st ((l.set (i + 1) (l.getD j 0)).set j a)

/-- PRAND (11 R279). -/
def execPrand (wd : Fin 8) (a : Fin 128) (s : State) : Out := .next <| s.issue (.prand wd a) fun _ t =>
  let c := t.iss.core
  let (l, t) := t.readMains c t.iss.slot a 2
  let seed := (l[0]?.getD 0).toNat
  let n := (l[1]?.getD 0).toNat
  solveBody wd (fun _ =>
    if n == 0 || 128 < n then .error (.fault fcOperand n false)
    else .ok (shuffle (n - 1) seed (List.range n))) t

/-- PCOMPACT (11 R278). -/
def execPcompact (wd m : Fin 8) (a : Operand) (s : State) : Out := .next <| s.issue (.pcompact wd m a) fun v t =>
  let n := (val0 v).toNat
  let g := t.readMask t.iss.core t.iss.slot m
  solveBody wd (fun _ =>
    if n == 0 || 128 < n then .error (.fault fcOperand n false)
    else .ok (activeOf n g ++ (List.range n).filter fun k => !bit g k)) t

/-- The length of the cycle through an index (11 R280). -/
def cycleFrom (idx : List Nat) (x : Nat) : Nat → Nat → Nat
  | 0, _ => 0
  | fuel + 1, y => let z := idx.getD y 0; if z = x then 1 else 1 + cycleFrom idx x fuel z

def cycleLen (idx : List Nat) (x : Nat) : Nat := cycleFrom idx x idx.length x

/-- The least elements of the cycles. -/
def cycleLeast (idx : List Nat) (x : Nat) : Nat → Nat → Bool
  | 0, _ => true
  | fuel + 1, y => let z := idx.getD y 0; z == x || (x < z && cycleLeast idx x fuel z)

def cycleHeads (idx : List Nat) : List Nat := (List.range idx.length).filter fun x => cycleLeast idx x idx.length x

/-- PCYC's result (11 R280). -/
def cycResult (kind : CycKind) (idx : List Nat) (x : Nat) : Nat :=
  match kind with
  | .cycles => (cycleHeads idx).length
  | .fixed => ((List.range idx.length).filter fun i => idx.getD i 0 == i).length
  | .longest => (cycleHeads idx).foldl (fun m h => max m (cycleLen idx h)) 0
  | .order => (cycleHeads idx).foldl (fun m h => Nat.lcm m (cycleLen idx h)) 1
  | .through => cycleLen idx x

/-- PCYC and PIDX wait for a time of at most 64 cycles that the spec leaves open, and then write the result that they
found at issue, which stands in the latch at position 100 (11 R280, log 5). -/
def briefly (i : Instr) (d : Operand) (found : State → Except Act Nat) (t : State) : Act :=
  let c := t.iss.core
  let slot := t.iss.slot
  let x := t.ctx c slot
  if x.phase != 0 then t.result c slot i d (Tab.getD x.latch 100 0)
  else match found t with
    | .error a => a
    | .ok r =>
      let (n, t) := t.takeNat
      let set := fun (x : Ctx) => { x with phase := 1, latch := Tab.put x.latch 100 (BitVec.ofNat 64 r) }
      .hold (.cycle (t.now + n % 65)) ((t.modCtx c slot set).after (n % 65) (.pcycPidxResume c slot))

/-- PCYC (11 R280). -/
def execPcyc (wa : Fin 8) (kind : CycKind) (d : Operand) (s : State) : Out := .next <| s.issue (.pcyc wa kind d) fun v t =>
  briefly (.pcyc wa kind d) d (fun t =>
    let x := (val0 v).toNat
    match t.readW t.iss.core wa with
    | .error a => .error a
    | .ok idx =>
      if kind == .through && idx.length ≤ x then .error (.fault fcOperand x false) else .ok (cycResult kind idx x)) t

/-- PIDX (11 R280). -/
def execPidx (wa : Fin 8) (d : Operand) (s : State) : Out := .next <| s.issue (.pidx wa d) fun v t =>
  briefly (.pidx wa d) d (fun t =>
    let x := (val0 v).toNat
    match t.readW t.iss.core wa with
    | .error a => .error a
    | .ok idx => if idx.length ≤ x then .error (.fault fcOperand x false) else .ok (idx.getD x 0)) t

/-- PSTORE (11 R280): one store of 128 bytes. -/
def execPstore (wa : Fin 8) (a : Operand) (s : State) : Out := .next <| s.issue (.pstore wa a) fun v t =>
  let c := t.iss.core
  let slot := t.iss.slot
  match t.readW c wa with
  | .error e => e
  | .ok idx =>
    if fld (val0 v).toNat 48 16 != 0 then .fault fcOperand (val0 v).toNat false
    else
    let t := t.useTlbs c (t.ctx c slot).asid flatRecord [(val0 v).toInt]
    t.storeElems c slot [t.element c slot flatRecord (val0 v).toInt 128 128 .store true 0 (bytesOfIdx idx)]

end Sys2Proof.Machine
end

