-- ==== Sys2Proof/Machine/Quant.lean ====
section
/-! DEFINITION. QMAXX and its rounds (10 R244, R245). A held entry whose source is 2^32 + slot is a local thread that waits for
a free round. -/

namespace Sys2Proof.Machine

/-- Rounds of a core that are open: a completed one holds its result for its thread, a failed one its fault. -/
def Core.openRounds (k : Core) : List Round := k.units.rounds.filter fun r => r.result.isNone && r.failed.isNone

/-- A round has a key. -/
def Round.keyed (r : Round) (asid g tag : Nat) : Bool := r.asid == asid && r.g == g && r.tag == tag

/-- The open round of a key that lacks a source's contribution. -/
def Core.roundFor (k : Core) (asid g tag source : Nat) : Option Round :=
  k.openRounds.find? fun r => r.keyed asid g tag && !r.got.any fun e => e.1 == source

/-- The members of a core's group, as logical ids on its die (10 R244, 01 R22). -/
def groupMembers (id g : Nat) : List Nat :=
  (List.range (2 ^ g)).map fun i =>
    let x := meshX id / 2 ^ g * 2 ^ g + i
    let y := meshY id
    coreKey (dieOf id) (y / 4 * 8 + x / 4) (y % 4 * 4 + x % 4)

/-- M: amax32 over the contributions. -/
def Round.max (r : Round) : Nat := r.got.foldl (fun m e => amax32 m e.2) 0

/-- The first round of a list that satisfies a test replaced. -/
def replaceRound (p : Round → Bool) (r' : Round) : List Round → List Round
  | [] => []
  | r :: t => if p r then r' :: t else r :: replaceRound p r' t

/-- A contribution enters a round; the last one completes it, and its waiting thread becomes ready. -/
def State.addTo (s : State) (c source amax : Nat) (r : Round) (slot : Option Nat) : State :=
  let r' := { r with got := r.got ++ [(source, amax)], slot := slot.orElse fun _ => r.slot, contributed := r.contributed || slot.isSome }
  let done := r'.got.length = 2 ^ r.g
  let r' := if done then { r' with result := some r'.max } else r'
  let s := s.modCore c fun k => { k with units := { k.units with rounds := replaceRound (· == r) r' k.units.rounds } }
  if !done then s
  else s.modCore c fun k => k.wakeIf fun n x w =>
    match w with
    | .round g tag => r'.slot == some n && r.keyed x.asid g tag
    | .rounds g tag => r.keyed x.asid g tag
    | _ => false

/-- A local thread that waits for a round has it. -/
def State.wakeRounds (s : State) (c slot : Nat) : State :=
  s.modCore c fun k => k.wakeIf fun n _ w => n == slot && match w with | .rounds _ _ => true | _ => false

/-- A round is opened, and its timeout counts from now (10 R245). -/
def State.openRound (s : State) (c asid g tag : Nat) (slot : Option Nat) : State :=
  let r : Round := { asid := asid, g := g, tag := tag, slot := slot, opened := s.now }
  (s.modCore c fun k => { k with units := { k.units with rounds := k.units.rounds ++ [r] } }).after Config.qmaxxTimeout
    (.qmaxxTimeout c asid g tag)

/-- Held contributions and waiting threads take rounds that are free, in the order in which they came (10 R244). -/
def State.freeRounds (s : State) (c : Nat) : Nat → State
  | 0 => s
  | fuel + 1 =>
    let k := s.core c
    let drop := fun (e : Nat × Nat × Nat × Nat × Nat) (s : State) =>
      s.modCore c fun k => { k with units := { k.units with heldRounds := k.units.heldRounds.erase e } }
    match k.units.heldRounds.find? fun e => e.2.2.2.1 < 2 ^ 32 && (k.roundFor e.1 e.2.1 e.2.2.1 e.2.2.2.1).isSome with
    | some e =>
      match k.roundFor e.1 e.2.1 e.2.2.1 e.2.2.2.1 with
      | some r => ((drop e s).addTo c e.2.2.2.1 e.2.2.2.2 r none).freeRounds c fuel
      | none => s
    | none =>
      let open_ := fun (e : Nat × Nat × Nat × Nat × Nat) =>
        k.openRounds.find? fun r => r.keyed e.1 e.2.1 e.2.2.1 && !r.contributed && r.slot.isNone
      match k.units.heldRounds.find? fun e => 2 ^ 32 ≤ e.2.2.2.1 && (open_ e).isSome with
      | some e =>
        match open_ e with
        | some r =>
          let slot := e.2.2.2.1 - 2 ^ 32
          let s := (drop e s).modCore c fun k => { k with units := { k.units with
            rounds := replaceRound (· == r) { r with slot := some slot } k.units.rounds } }
          (s.wakeRounds c slot).freeRounds c fuel
        | none => s
      | none =>
        match k.units.heldRounds with
        | [] => s
        | e :: _ =>
          if 4 ≤ k.openRounds.length then s
          else if 2 ^ 32 ≤ e.2.2.2.1 then
            let slot := e.2.2.2.1 - 2 ^ 32
            (((drop e s).openRound c e.1 e.2.1 e.2.2.1 (some slot)).wakeRounds c slot).freeRounds c fuel
          else (s.openRound c e.1 e.2.1 e.2.2.1 none).freeRounds c fuel

/-- QMAXX_CONTRIBUTION (10 R244): it joins the round of its key, opens one, is held, or is discarded after a timeout. A member
out of service returns it as an error (R245; 01 R25). -/
def execQmaxxContribution (dst asid g tag source : Nat) (amax : BitVec 32) (cut : Bool) (s : State) : Out :=
  let c := s.phys dst
  .next <|
    if s.dropsFor (dieOf dst) asid then s.discardMsg asid cut
    else if (s.rename dst).st != 0 then
      (s.countGot asid cut).post (.errorMessageArrival (.qmaxx (s.phys source) asid g tag (s.chip asid * 65536 + dst)))
    else if (s.core c).csr.stopped then s.countGot asid cut
    else
    let s := s.accepting c asid cut (.qmaxxContribution dst asid g tag source amax cut)
    if (s.core c).units.dropped.contains (asid, g, tag) then s
    else
      let s := s.modCore c fun k =>
        { k with units := { k.units with heldRounds := k.units.heldRounds ++ [(asid, g, tag, source, amax.toNat)] } }
      s.freeRounds c 128

/-- A thread's contribution to a round: to its own core, and to the other cores of the group; one that is sealed or lost
returns it as an error (10 R244, R245). -/
def State.contribute (s : State) (c slot asid g tag amax : Nat) (r : Round) : State :=
  let own := s.logical c
  let others := (groupMembers own g).filter (· != own)
  let s := s.addTo c own amax r (some slot)
  others.foldl (fun s m =>
    if (s.rename m).st = 0 then
      (s.countSent asid (s.cutBit c asid)).post (.qmaxxContribution m asid g tag own (BitVec.ofNat 32 amax) (s.cutBit c asid))
    else s.post (.errorMessageArrival (.qmaxx c asid g tag (s.chip asid * 65536 + m)))) s

/-- The key as the fault's detail names it: the key's fields in the places of the operand (log 21). -/
def roundKey (asid g tag : Nat) : Nat := asid * 2 ^ 48 + tag * 2 ^ 40 + g * 2 ^ 32

/-- QMAXX (10 R244). -/
def execQmaxx (d a : Operand) (s : State) : Out := .next <| s.issue (.qmaxx d a) fun v t =>
  let c := t.iss.core
  let slot := t.iss.slot
  let x := t.ctx c slot
  let w := (val0 v).toNat
  let g := fld w 32 3
  let tag := fld w 40 8
  let mine := fun (r : Round) => r.keyed x.asid g tag && r.slot == some slot && (r.result.isSome || r.failed.isSome)
  let finish := fun (t : State) =>
    match (t.core c).units.rounds.find? mine with
    | some r =>
      let u := t.modCore c fun k => { k with units := { k.units with rounds := k.units.rounds.erase r } }
      match r.failed with
      | some f => .fault f.1 f.2 false
      | none => (u.result c slot (.qmaxx d a) d (BitVec.ofNat 64 (r.result.getD 0))).orBack (t.modCtx c slot fun x => { x with phase := 1 })
    | none =>
      if (t.core c).openRounds.any fun r => r.keyed x.asid g tag && r.slot == some slot then
        .hold (.round g tag) (t.modCtx c slot fun x => { x with phase := 1 })
      else .fault fcTimeout (roundKey x.asid g tag) false
  if fld w 48 16 != 0 || fld w 35 5 != 0 || 5 < g then .fault fcOperand w false
  else if x.phase = 2 then .next t
  else if x.phase = 1 then finish t
  else
    let t := t.modCore c fun k => { k with units := { k.units with
      dropped := k.units.dropped.erase (x.asid, g, tag), rounds := k.units.rounds.filter fun r => !(mine r && r.failed.isSome) } }
    let k := t.core c
    let put := fun (t : State) =>
      match (t.core c).openRounds.find? fun r => r.keyed x.asid g tag with
      | some r => finish ((t.contribute c slot x.asid g tag (w % 2 ^ 32) r).freeRounds c 128)
      | none => .hold (.rounds g tag) t
    match k.openRounds.find? fun r => r.keyed x.asid g tag with
    | some r => if r.contributed then .hold (.rounds g tag) t else put t
    | none =>
      if 4 ≤ k.openRounds.length then
        let e := (x.asid, g, tag, 2 ^ 32 + slot, 0)
        .hold (.rounds g tag) (if k.units.heldRounds.contains e then t
          else t.modCore c fun k => { k with units := { k.units with heldRounds := k.units.heldRounds ++ [e] } })
      else put ((t.openRound c x.asid g tag (some slot)).freeRounds c 128)

/-- A round ends without a result: its local thread takes a fault, and the round is discarded. A thread that is saved or
stopped, or that has yet to issue again, finds the fault when it does (10 R245). -/
def State.failRound (s : State) (c : Nat) (r : Round) (code detail : Nat) : State :=
  let drop := fun (s : State) => s.modCore c fun k => { k with units := { k.units with rounds := k.units.rounds.erase r } }
  let s := match r.slot, r.contributed with
    | some slot, true =>
      let x := s.ctx c slot
      if slot < 64 && x.status == Status.parked (.round r.g r.tag) && x.asid == r.asid then
        (drop s).takeFault c slot code detail (x.pc.word == 1) false
      else s.modCore c fun k => { k with units := { k.units with
        rounds := replaceRound (· == r) { r with failed := some (code, detail) } k.units.rounds } }
    | _, _ => drop s
  (s.modCore c fun k => k.wakeIf fun _ x w => match w with | .rounds g tag => r.keyed x.asid g tag | _ => false).freeRounds c 128

/-- QMAXX_TIMEOUT (10 R245). -/
def execQmaxxTimeout (c asid g tag : Nat) (s : State) : Out :=
  .next <|
    match (s.core c).openRounds.find? fun r => r.keyed asid g tag && r.opened + Config.qmaxxTimeout ≤ s.now with
    | none => s
    | some r =>
      let s := s.modCore c fun k => { k with units := { k.units with dropped := k.units.dropped ++ [(asid, g, tag)] } }
      s.failRound c r fcTimeout (roundKey asid g tag)

end Sys2Proof.Machine
end

