-- ==== Sys2Proof/Machine/Travel.lean ====
section
/-! DEFINITION. Travel messages on their way (02 R33 to R40, R52), forks and steals (R47, R49), gathering (R45, R46),
pre-emption (R51; 13 R313). -/

namespace Sys2Proof.Machine

/-- THREAD_DEPARTURE (02 R39). -/
def execThreadDeparture (c slot : Nat) (s : State) : Out := .next (s.depart c slot)

/-! ### Answers to a waiting thread -/

/-- The answer comes to a thread that waits for acceptance, in its context or in what was saved or cut of it. -/
def Ctx.answered (x : Ctx) : Ctx :=
  match x.status, x.prior with
  | .parked .accept, _ => { x with phase := 2, status := .ready }
  | _, some (.parked .accept) => { x with phase := 2, prior := some .ready }
  | _, _ => x

def Core.answer (k : Core) (slot : Nat) : Core :=
  let k := match Tab.get? k.ctxs slot with
    | some x => k.setCtx slot x.answered
    | none => k
  match Tab.get? k.work.saved slot with
  | some v => { k with work := { k.work with saved := Tab.put k.work.saved slot { v with ctx := v.ctx.answered } } }
  | none => k

/-- An answer that left its sender before the sender's cut (`early`) is channel state to a thread cut before it came: the
captured thread takes it too (15 R344). -/
def State.answer (s : State) (c slot : Nat) (early : Bool) : State :=
  let s := s.modCore c fun k => k.answer slot
  match s.openSnap with
  | some n =>
    if early && s.cutTaken c then
      let give := fun (k : CoreCut) => if k.core == c then { k with image := k.image.answer slot } else k
      s.modSnap n.job n.tag fun n => { n with cores := n.cores.map give }
    else s
  | none => s

/-! ### Messages on their way -/

/-- The arrival step of a message for a logical core, by its kind. -/
def arrivalOf (dst : Nat) (m : Travel) : Instr :=
  match m.kind with
  | 3 => .forkChildArrival dst m
  | 4 => .stolenChildArrival dst m
  | 5 => .wakeArrival dst m
  | _ => .travelMessageArrival dst m

/-- A message handed to Boxwood: a fork's parent has its acceptance (02 R35, 08 R178); a wake still names its drain. -/
def State.handBoxwood (s : State) (die : Nat) (m : Travel) : State :=
  if m.kind = 5 then s.holdPlacement die m
  else
    let s := match m.parent with
      | some p => s.answer p.1 p.2 !m.cut
      | none => s
    s.holdPlacement die { m with parent := none }

/-- A message that names no entry of its block leaves a kind-7 record, and stays with it (08 R174). -/
def State.keepBad (s : State) (m : Travel) (detail : Nat) : State :=
  let s := s.recordFor m.asid (faultRec 7 m.asid 0 0 detail m.pt)
  match s.jobOf m.asid with
  | some j => s.modJob j.num fun j => { j with kept := j.kept ++ [m] }
  | none => s

/-- A message that cannot be accepted goes back to its origin; to Boxwood where the origin is out of service (02 R34). -/
def State.returnTravel (s : State) (die : Nat) (m : Travel) : State :=
  if chipOf m.origin != s.chip m.asid then { s with outbox := s.outbox ++ [OutMsg.mk (chipOf m.origin) (.returnedTravelMessage m)] }
  else if (s.rename m.origin).st != 0 then (s.countGot m.asid m.cut).handBoxwood die m
  else s.post (.returnedTravelMessage m)

/-- A message as a descriptor carries it: registers that its entry does not list are left out (log 18). -/
def trimTravel (m : Travel) (desc : Nat) : Travel :=
  { m with live := descLive desc, maskLive := descMasks desc, regs := m.regs.filter fun r => bit (descLive desc) r.1,
           masks := m.masks.filter fun r => bit (descMasks desc) (r.1 - 1) }

/-- The message trimmed to the entry it names of a block. -/
def trimTo (m : Travel) (p : Placed) : Travel :=
  match entryAt p.descs (m.dest % 512) with
  | some d => trimTravel m d
  | none => m

/-- A returned message waits in its origin's spill queue for the committed remap of the core that was sealed (02 R52). -/
def State.spillReturned (s : State) (c : Nat) (m : Travel) : State :=
  s.spill c m.asid { body := .travel m, arrival := s.cycle c, returned := true }

/-- A travelling message sent from a core to the holder that R38 chooses from a directory entry read just now, its entry checked
against it; a block held nowhere or being placed, and a lost holder, hand it to Boxwood; a sealed holder leaves it in the spill
queue, marked returned, until a remap is committed (02 R34, R38, R52). -/
def State.sendOn (s : State) (c : Nat) (m : Travel) (cut : Bool) : State :=
  let m := { m with cut := cut }
  let blk := m.dest / 512
  let e := s.mapOf c m.asid blk
  let s := s.modCore c fun k => k.mapPut e
  match s.dirBlock (dieOf c) m.asid blk with
  | none => (s.modCore c fun k => k.mapDrop m.asid blk).handBoxwood (dieOf c) m
  | some b =>
    if b.placing || b.holders.isEmpty then (s.modCore c fun k => k.mapDrop m.asid blk).handBoxwood (dieOf c) m
    else match resolveEntry (some b.descs) m.dest m.j with
      | .error d => s.keepBad m d
      | .ok (t, desc, _) =>
        let m := { (trimTravel m desc) with dest := t, j := none, back := none }
        let h := if m.kind = 5 then m.tid else (e.choose m.tid).getD (b.holders.getD (m.tid % b.holders.length) 0)
        let here := chipOf h == s.chip m.asid
        if here && (s.rename h).st == 2 then s.handBoxwood (dieOf c) m
        else if here && (s.rename h).st == 1 then s.spillReturned c { m with back := some h }
        else s.sendTo m.asid h m.cut (arrivalOf h m)

/-- What a router of the package does with a travelling message before a core sees it: discards it, loses it with a core
stopped but not yet sealed, or returns it (02 R52; 01 R25, R26; 14 R329). None when the core takes it. -/
def State.intercept (s : State) (dst : Nat) (m : Travel) : Option State :=
  if s.dropsFor (dieOf dst) m.asid then some (s.discardMsg m.asid m.cut)
  else match (s.rename dst).st with
    | 0 => if (s.core (s.phys dst)).csr.stopped then some (s.countGot m.asid m.cut) else none
    | 1 => some (s.returnTravel (dieOf dst) { m with back := some dst })
    | _ => some ((s.countGot m.asid m.cut).handBoxwood (dieOf dst) m)

/-- TRAVEL_MESSAGE_ARRIVAL (02 R43, R34, R52). -/
def execTravelMessageArrival (dst : Nat) (m : Travel) (s : State) : Out := .next <|
  match s.intercept dst m with
  | some t => t
  | none =>
    let c := s.phys dst
    match (s.core c).placedBlock m.asid (m.dest / 512) with
    | none => s.returnTravel (dieOf dst) m
    | some p =>
      let m := trimTo m p
      (s.accepting c m.asid m.cut (.travelMessageArrival dst { m with rolled := true })).accept c m .travel

/-- RETURNED_TRAVEL_MESSAGE (02 R34). A message back from a core of this package that is still sealed waits for its remap (R52);
so does one that a failed link returned (14 R325). -/
def execReturnedTravelMessage (m : Travel) (s : State) : Out := .next <|
  if s.dropsFor (dieOf m.origin) m.asid then s.discardMsg m.asid m.cut
  else if (s.rename m.origin).st != 0 then (s.countGot m.asid m.cut).handBoxwood (dieOf m.origin) m
  else
    let c := s.phys m.origin
    let s := s.accepting c m.asid m.cut (.returnedTravelMessage { m with rolled := true })
    let sealed := m.back.any fun h => if chipOf h == s.chip m.asid then (s.rename h).st == 1 else s.linkDown m.asid h
    if sealed then (s.modCore c fun k => k.mapDrop m.asid (m.dest / 512)).spillReturned c m
    else s.sendOn c m (s.cutBit c m.asid)

/-- BLOCK_DIRECTORY_READ_RETURN (02 R36, 05 R123): the entry fills the core's block-map cache, threads that missed on it go
on, and a message that waited for it is sent. -/
def execBlockDirectoryReadReturn (c asid blk : Nat) (m : Option Travel) (s : State) : Out := .next <|
  match m with
  | some m => if s.dropsFor (dieOf c) m.asid then s.discardMsg m.asid m.cut else (s.countGot m.asid m.cut).sendOn c m (s.stillCut m)
  | none =>
    let e := s.mapOf c asid blk
    s.modCore c fun k => (k.mapPut e).wakeIf fun _ x w => w == .blockMap blk && x.asid == asid

/-- FREE_CONTEXT_HINT (05 R123): a holder's hint bit in a core's cached entry. -/
def execFreeContextHint (c asid blk holder : Nat) (free : Bool) (s : State) : Out := .next <| s.modCore c fun k =>
  let hint := fun (e : MapEntry) =>
    if e.asid == asid && e.blk == blk && e.holders.contains holder then
      { e with hints := if free then e.hints.filter (· != holder) ++ [holder] else e.hints.filter (· != holder) }
    else e
  { k with work := { k.work with map := k.work.map.map hint } }

/-! ### Placement (02 R31, R35) -/

/-- The travel size of a descriptor (02 R40). -/
def travelSize (desc : Nat) : Nat :=
  32 + 8 * ((List.range 16).filter fun i => bit (descLive desc) i).length + 16 * ((List.range 7).filter fun i => bit (descMasks desc) i).length

/-- An image in a far window that is shared read-only lies in an entry of the placed-image cache whose key names the package's
own feature registers (17 R369, R383). -/
def State.imageMapped (s : State) (a : Nat) : Bool :=
  !(2 ^ 43 ≤ a && a < 2 ^ 44 && (portAt s.host.farWindows (a - 2 ^ 43)).2)
    || s.host.placedImages.any fun e => e.feat0 == feat0 && e.feat1 == feat1 && e.addr ≤ a && a < e.addr + e.bytes

/-- A block image at an address: its header's fields, where every one is valid (02 R31). -/
def State.imageAt (s : State) (a asid blk : Nat) : Option Placed :=
  let w0 := s.mem.read a 4
  let w1 := s.mem.read (a + 4) 4
  let count := fld w1 16 10
  let entries := fld w1 0 5
  let descs := (List.range 16).map fun i => s.mem.read (a + 64 + 4 * i) 4
  let used := descs.take entries
  let offs := used.map descOff
  let good := fun (d : Nat) =>
    descOff d < count && travelSize d ≤ 160 && descLive d / 2 ^ (8 * (fld w1 12 4 + 1)) == 0
  if s.imageMapped a && fld w0 24 8 == 1 && fld w0 0 24 == blk && blk != 0 && fld w1 26 6 == 0 && fld w1 5 3 == 0
      && 1 ≤ count && count ≤ 512 && fld w1 8 4 ≤ 8 && 1 ≤ entries && entries ≤ 16 && s.mem.read (a + 8) 56 == 0
      && (descs.drop entries).all (· == 0) && offs.eraseDups.length == entries && used.all good then
    some { asid := asid, blk := blk, addr := 0, count := count, mainCode := fld w1 12 4, vecCode := fld w1 8 4, descs := used }
  else none

/-- A block that no context and no porter handler of a core runs. -/
def Core.idleBlock (k : Core) (p : Placed) : Bool :=
  !(k.ctxs.any fun e => e.2.status != .free && e.2.asid == p.asid && e.2.pc.blk == p.blk)
    && !(k.work.saved.any fun e => e.2.ctx.asid == p.asid && e.2.ctx.pc.blk == p.blk)

/-- A holder leaves a block's directory entry on every die (05 R122); and with every cached copy, where the core is lost or the
job has ended. -/
def State.unlistHolder (s : State) (asid blk holder : Nat) : State :=
  let fix := fun (b : DirBlock) =>
    if b.asid == asid && b.blk == blk then { b with holders := b.holders.filter (· != holder) } else b
  { s with dies := s.dies.map fun d => (d.1, { d.2 with blocks := d.2.blocks.map fix }) }
def State.dropHolder (s : State) (asid blk holder : Nat) : State :=
  let s := s.unlistHolder asid blk holder
  { s with cores := s.cores.map fun e => (e.1, e.2.mapDrop asid blk) }

/-- The end of a removal, once every cached copy's invalidation is acknowledged: the holder leaves the directory, and its text the
instruction store, unless something has come to run the block meanwhile (02 R33, R35). -/
def State.endRemoval (s : State) (r : Removal) : State :=
  let c := s.phys r.holder
  match (s.core c).placedBlock r.asid r.blk with
  | none => s.unlistHolder r.asid r.blk r.holder
  | some p =>
    if !(s.core c).idleBlock p then s
    else (s.unlistHolder r.asid r.blk r.holder).modCore c fun k => { k with work := { k.work with placed := k.work.placed.erase p } }

/-- A removal begins: an invalidation goes to each core that caches the entry (02 R33). -/
def State.beginRemoval (s : State) (c : Nat) (p : Placed) : State :=
  let l := (s.cores.filter fun e => (e.2.mapEntry p.asid p.blk).isSome).map Prod.fst
  let r : Removal := { asid := p.asid, blk := p.blk, holder := s.coreId p.asid c, sent := l.length }
  if l.isEmpty then s.endRemoval r
  else l.foldl (fun s k => s.post (.blockMapInvalidation k p.asid p.blk))
    (s.modDie (dieOf c) fun d => { d with removals := d.removals ++ [r] })

/-- BLOCK_MAP_INVALIDATION (02 R33): its acknowledgement counts for the removals of the block. -/
def execBlockMapInvalidation (c asid blk : Nat) (s : State) : Out := .next <|
  let s := s.modCore c fun k => k.mapDrop asid blk
  let mine := fun (r : Removal) => r.asid == asid && r.blk == blk
  let count := fun (r : Removal) => if mine r then { r with acked := r.acked + 1 } else r
  s.dies.foldl (fun s e =>
    let l := e.2.removals.map count
    let s := s.modDie e.1 fun d => { d with removals := l.filter fun r => r.acked < r.sent }
    (l.filter fun r => r.sent ≤ r.acked).foldl State.endRemoval s) s

/-- Room for a block's text in an instruction store; where there is none, the state in which the first block that nothing runs is
being removed, or none where every block runs (02 R35). -/
def State.roomFor (s : State) (c size : Nat) : Nat → Except (Option State) (Nat × State)
  | 0 => .error none
  | fuel + 1 =>
    let k := s.core c
    match freeRun (k.work.placed.map fun p => (p.addr, 8 * p.count)) size 8 Config.istoreBytes with
    | some a => .ok (a, s)
    | none =>
      let leaving := fun (p : Placed) => (s.die (dieOf c)).removals.any fun r =>
        r.asid == p.asid && r.blk == p.blk && s.phys r.holder == c
      if k.work.placed.any leaving then .error (some s)
      else match k.work.placed.find? k.idleBlock with
        | none => .error none
        | some p =>
          let t := s.beginRemoval c p
          if ((t.core c).placedBlock p.asid p.blk).isSome then .error (some t) else t.roomFor c size fuel

/-- Poison marks of the words from an address on, moved with them (04 R82). -/
def State.movePoison (s : State) (src dst words : Nat) : State :=
  let moved := s.poison.filterMap fun p =>
    if src / 8 ≤ p.1 && p.1 < src / 8 + words then some (p.1 - src / 8 + dst / 8, p.2) else none
  let rest := s.poison.filter fun p => !(dst / 8 ≤ p.1 && p.1 < dst / 8 + words)
  { s with poison := moved.foldl (fun t p => Tab.put t p.1 p.2) rest }

/-- A block's text loaded into a core's instruction store; without room as State.roomFor has it. -/
def State.loadText (s : State) (c image : Nat) (p : Placed) : Except (Option State) State :=
  match s.roomFor c (8 * p.count) 1024 with
  | .error e => .error e
  | .ok (a, s) =>
    let dst := istoreAt c a
    let s := { s with mem := s.mem.write dst (8 * p.count) (s.mem.read (image + 128) (8 * p.count)) }
    let s := s.movePoison (image + 128) dst p.count
    .ok (s.modCore c fun k => { k with work := { k.work with placed := k.work.placed ++ [{ p with addr := a }] } })

/-- The directory of every die names a holder of a block (02 R33, 05 R122). -/
def State.addHolder (s : State) (asid blk holder image : Nat) (descs : List Nat) : State :=
  let add := fun (d : Die) =>
    match d.blocks.find? fun b => b.asid == asid && b.blk == blk with
    | some b =>
      let b' := { b with placing := false, holders := if b.holders.contains holder then b.holders else insertBy id holder b.holders,
                         descs := descs, image := image }
      { d with blocks := d.blocks.map fun e => if e.asid == asid && e.blk == blk then b' else e }
    | none => { d with blocks := d.blocks ++ [{ asid := asid, blk := blk, placing := false, holders := [holder], descs := descs, image := image }] }
  (List.range 8).foldl (fun s d => s.modDie d add) s

/-- A held message sent on to a holder: its entry index resolved, its registers trimmed; an index or an offset that is no
entry leaves a kind-7 record and the message with it (08 R174). -/
def State.sendHeld (s : State) (dst : Nat) (p : Placed) (m : Travel) : State :=
  match resolveEntry (some p.descs) m.dest m.j with
  | .ok (t, d, _) =>
    let m := { (trimTravel m d) with dest := t, j := none, cut := s.stillCut m, thief := none }
    let dst := if m.kind = 5 then m.tid else dst
    s.post (arrivalOf dst m)
  | .error d => (s.countGot m.asid m.cut).keepBad m d

/-- The bounds on Ozine's choice of a core for a block (02 R35): the first holder goes to the core that `.place` names, when its
store has room; a block that `.colocate` ties to another goes only to holders of that one, whichever of the two is placed
first. A thief becomes a holder whatever they say (R49). -/
def State.placeAllowed (s : State) (die asid dst : Nat) (p : Placed) (thief : Bool) : Bool :=
  let holders := fun (b : Nat) => ((s.dirBlock die asid b).map DirBlock.holders).getD []
  let known := holders p.blk
  match s.jobOf asid with
  | none => false
  | some j =>
    let named := j.places.find? fun e => e.1 == p.blk
    let roomAt := fun (id : Nat) =>
      (freeRun ((s.core (s.phys id)).work.placed.map fun q => (q.addr, 8 * q.count)) (8 * p.count) 8 Config.istoreBytes).isSome
    let byName := match named with
      | some e => !known.isEmpty || e.2 == dst || !roomAt e.2
      | none => true
    let peers := (j.colocs.filter fun e => e.1 == p.blk).map Prod.snd
      ++ (j.colocs.filter fun e => e.2 == p.blk && known.isEmpty).map Prod.fst
    let tied := peers.all fun b => (holders b).isEmpty || (holders b).contains dst
    thief || (byName && tied)

/-- The blocks that `.colocate` ties to a block that has just been placed, whose directory entries name an image, and that have no
holder: they are placed with it (02 R35). -/
def State.tiedTo (s : State) (die asid blk : Nat) : List (Nat × Nat) :=
  let colocs := ((s.jobOf asid).map Job.colocs).getD []
  let peers := colocs.filterMap fun e => if e.1 == blk then some e.2 else if e.2 == blk then some e.1 else none
  peers.filterMap fun b => (s.dirBlock die asid b).bind fun d => if d.holders.isEmpty && d.image != 0 then some (b, d.image) else none

/-- A tied block loaded beside the one just placed, where it is valid and has room, and its held messages sent on. -/
def State.placeTied (s : State) (die asid dst blk image : Nat) : State :=
  let mine := fun (m : Travel) => m.asid == asid && m.dest / 512 == blk
  match s.imageAt image asid blk with
  | none => s
  | some p => match s.loadText (s.phys dst) image p with
    | .error _ => s
    | .ok t =>
      let held := (t.die die).hold.filter mine
      let t := (t.addHolder asid blk dst image p.descs).modDie die fun d => { d with hold := d.hold.filter fun m => !mine m }
      held.foldl (fun t m => t.sendHeld dst p m) t

/-- BLOCK_PLACEMENT (02 R35; 08 R174): Ozine loads a block on the core it chose (log 11), and the messages held on a die
for it go on in their order; without valid text they stay in the job's fault record. A stolen child waits for its thief (R49). A block that
is being removed to make room stays until its invalidations have been acknowledged, and Ozine places again then (R33). -/
def execBlockPlacement (die asid blk dst : Nat) (image : Option Nat) (s : State) : Out := .next <|
  let ofBlock := fun (m : Travel) => m.asid == asid && m.dest / 512 == blk
  let mine := fun (m : Travel) => ofBlock m && (image.isNone || m.thief.all fun t => t == dst || (s.rename t).st != 0)
  let held := (s.die die).hold.filter mine
  let rest := fun (s : State) => s.modDie die fun d => { d with hold := d.hold.filter fun m => !mine m }
  match image.bind fun a => (s.imageAt a asid blk).map fun p => (a, p) with
  | none =>
    let s := held.foldl (fun s m => s.countGot m.asid m.cut) s
    let s := (rest s).recordFor asid (faultRec 5 asid 0 (pa blk 0) held.length 0)
    match s.jobOf asid with
    | some j => s.modJob j.num fun j => { j with kept := j.kept ++ held }
    | none => s
  | some (a, p) =>
    let c := s.phys dst
    let known := ((s.dirBlock die asid blk).map DirBlock.holders).getD []
    let thief := held.any fun m => m.thief == some dst
    let here := ((s.core c).placedBlock asid blk).isSome
    if !s.validCore asid dst || chipOf dst != s.chip asid || (s.rename dst).st != 0 || (64 ≤ known.length && !known.contains dst)
        || !((List.range 8).all fun d => (s.die d).bucketTakes asid blk) || !s.placeAllowed die asid dst p thief then s
    else match (if here then .ok s else s.loadText c a p) with
      | .error none => s
      | .error (some t) => t
      | .ok s =>
        let s := held.foldl (fun s m => s.sendHeld dst p m) (rest (s.addHolder asid blk dst a p.descs))
        (s.tiedTo die asid blk).foldl (fun s b => s.placeTied die asid dst b.1 b.2) s

/-! ### Forks and steals -/

/-- FORK_CHILD_ARRIVAL (02 R47, 08 R178): the child enters a holder's deque, and its parent goes on; a full overflow ring
makes it wait (05 R114). -/
def execForkChildArrival (dst : Nat) (m : Travel) (s : State) : Out := .next <|
  match s.intercept dst m with
  | some t => t
  | none =>
    let c := s.phys dst
    match (s.core c).placedBlock m.asid (m.dest / 512) with
    | none => s.returnTravel (dieOf dst) m
    | some p =>
      let m := trimTo m p
      let parent := m.parent.bind fun q => if s.cutTaken q.1 then some q else none
      let s1 := s.accepting c m.asid m.cut (.forkChildArrival dst { m with rolled := true, parent := parent })
      match s1.pushDeque c { m with parent := none } with
      | none => (s.signal 2 c 1).after 64 (.forkChildArrival dst m)
      | some t =>
        let t := match m.parent with
          | some q => t.answer q.1 q.2 !(t.cutTaken c)
          | none => t
        t.readmit c 63

/-- The width of an ASID's steal domain on a die (05 R126). -/
def State.stealWidth (s : State) (die asid : Nat) : Nat :=
  match (s.die die).steal.find? fun e => bit e.2 2 && fld e.2 16 16 == asid with
  | some e => fld e.2 0 2
  | none => 0

/-- Whether a victim's deque is in the domain of a thief for a child (02 R49). -/
def State.inDomain (s : State) (thief victim : Nat) (m : Travel) : Bool :=
  let holders := ((s.dirBlock (dieOf thief) m.asid (m.dest / 512)).map DirBlock.holders).getD []
  let w := s.stealWidth (dieOf thief) m.asid
  (holders.contains (s.coreId m.asid victim) && (w != 0 || holders.contains (s.coreId m.asid thief)))
    || (1 ≤ w && hedgeKey thief == hedgeKey victim) || (2 ≤ w && dieOf thief == dieOf victim) || w == 3

/-- A core is idle: a free context, an empty spill queue, an empty deque (02 R49). -/
def Core.idle (k : Core) : Bool :=
  (k.freeSlot none).isSome && k.work.spill.occupancy == 0 && k.work.deque.isEmpty && k.work.overflow.occupancy == 0

/-- The thief's end of a deque: overflow first, oldest first (05 R112). -/
def Core.stealOldest (k : Core) : Option (QSlot × Core) :=
  match k.work.overflow.all with
  | q :: _ => some (q, { k with work := { k.work with overflow := k.work.overflow.remove q } })
  | [] =>
    match k.work.deque with
    | q :: t => some (q, { k with work := { k.work with deque := t } })
    | [] => none

/-- The cores whose deques a thief may look into, as R38 ranks holders: those that stand for a logical core. -/
def State.victims (s : State) (thief : Nat) : List Nat :=
  sortBy (fun v => rankOf (s.logical thief) (s.logical v))
    ((s.cores.map Prod.fst).filter fun v => v != thief && s.phys (s.logical v) == v && !(s.core v).csr.stopped)

/-- A steal of a victim's oldest entry, where it lies in the thief's domain. -/
def State.stealFrom (s : State) (thief victim : Nat) : Option State :=
  match (s.core victim).stealOldest with
  | some (q, k) => q.waits.bind fun m =>
      if s.inDomain thief victim m && !s.jobStopped m.asid then
        let m := { m with kind := 4, origin := s.coreId m.asid victim, cut := s.cutBit victim m.asid }
        some ((s.setCore victim k).sendTo m.asid (s.coreId m.asid thief) m.cut (.stolenChildArrival (s.coreId m.asid thief) m))
      else none
  | none => none

/-- What a core takes from its own deque in the cycle of a steal: before the thief, which it may leave nothing (05 R112). -/
def State.ownerTakes (s : State) (owner : Nat) : State := if (s.core owner).csr.stopped then s else s.readmit owner 63

/-- STEAL (02 R49, 05 R112, R126): an idle thief tries the deques in their rank; one that refuses it sends it to the next. A named
core takes its own entries in the same cycle. -/
def execSteal (thief owner : Nat) (s : State) : Out := .next <|
  let s := s.ownerTakes owner
  let t := s.core thief
  if t.idle && !t.work.preempted && !t.csr.stopped then ((s.victims thief).findSome? (s.stealFrom thief)).getD s else s

/-- STOLEN_CHILD_ARRIVAL (02 R49): admitted like an arrival; a thief without the block raises a placement fault. -/
def execStolenChildArrival (dst : Nat) (m : Travel) (s : State) : Out := .next <|
  match s.intercept dst m with
  | some t => t
  | none =>
    let c := s.phys dst
    let s := s.accepting c m.asid m.cut (.stolenChildArrival dst { m with rolled := true })
    match (s.core c).placedBlock m.asid (m.dest / 512) with
    | none => s.handBoxwood (dieOf dst) { m with thief := some dst }
    | some p => s.accept c (trimTo m p) .travel

/-! ### Gangs -/

/-- A member of a gathering window becomes ready, in a gang of given slots (02 R45, 03 R77). -/
def Ctx.gathered (x : Ctx) (gang : List Nat) : Ctx :=
  let y := if gang.isEmpty then x else { x with gang := gang }.setFlag 3 true
  match x.status, x.prior with
  | .gathering, _ => { y with status := .ready }
  | _, some .gathering => { x with prior := some .ready }
  | _, _ => x

/-- GATHERING_WINDOW_CLOSE (02 R45, 05 R115). -/
def execGatheringWindowClose (c blk off asid cls : Nat) (s : State) : Out := .next <|
  let due := fun (g : Gather) => g.blk == blk && g.off == off && g.asid == asid && g.cls == cls
    && (g.close ≤ s.now || Config.gangSize ≤ g.members.length)
  match (s.core c).work.gathers.find? due with
  | none => s
  | some g => s.modCore c fun k =>
    let stays := fun (n : Nat) =>
      let x := k.ctx n
      x.asid == asid && x.cls == cls && x.pc.blk == blk && x.pc.off == off && !x.issued
    let members := g.members.filter stays
    let live := sortBy id (members.filter fun n => (k.ctx n).status == .gathering)
    let gang := if live.length ≤ 1 then [] else live
    let k := { k with work := { k.work with gathers := k.work.gathers.eraseP due } }
    members.foldl (fun k n => k.modCtx n fun x => x.gathered gang) k

/-! ### Pre-emption (02 R51; 13 R313) -/

/-- MESH_INTERRUPT (02 R51): contexts of numerically higher classes stop issuing, and each is to be saved. -/
def execMeshInterrupt (c : Nat) (s : State) : Out := .next <|
  let k := s.core c
  if k.work.preempted || k.csr.stopped then s
  else
    let s := s.modCore c fun k => { k with work := { k.work with preempted := true } }
    let lower := (k.ctxs.filter fun e => e.1 < 63 && e.2.status != .free && e.2.cls != 0).map Prod.fst
    let s := lower.foldl (fun s n => s.post (.contextSave c n)) s
    if lower.isEmpty then s.readmit c 63 else s

/-- Bad parity among the registers of a context: an uncorrectable error that its save meets (14 R333). -/
def Core.badSave (k : Core) (slot : Nat) : Bool :=
  let x := k.ctx slot
  (k.badMain.any fun e => x.win.mainBase ≤ e && e < x.win.mainBase + x.mainSize)
    || k.badVec.any fun e => x.win.vecBase ≤ e && e < x.win.vecBase + x.vecSize

/-- CONTEXT_SAVE (02 R51): once results, stores and registers held by an engine or by Hornbeam have come back (11 R276),
the context goes to its save area; after the last one class-0 arrivals are admitted. -/
def execContextSave (c slot : Nat) (s : State) : Out := .next <|
  let s := if (s.core c).work.preempted && slot != 63 && (s.ctx c slot).cls != 0 then s.stageWaiting c slot else s
  let k := s.core c
  let x := k.ctx slot
  let held := match x.status with
    | .parked .engine => true
    | .parked .solve => true
    | _ => false
  if !k.work.preempted || slot == 63 || x.status == .free || x.cls == 0 || k.csr.stopped then s
  else if held || !x.settled s.now then s.after 8 (.contextSave c slot)
  else if k.badSave slot then s.post (.coreKill c 4)
  else
    let s := s.saveContext c slot
    if (s.core c).ctxs.any fun e => e.1 < 63 && e.2.status != .free && e.2.cls != 0 then s
    else
      let s := s.readmit c 63
      if s.mayResume c then s.post (.coreResume c) else s

end Sys2Proof.Machine
end

