-- ==== Sys2Proof/Machine/Homes.lean ====
section
/-! DEFINITION. The steps of homes and owners (12 R284 to R288), remote private accesses (04 R98), page walks and shootdowns
(04 R103 to R108), and the wake of joiners (05 R129; 19 R389). -/

namespace Sys2Proof.Machine

/-- A load at the home: the lease that its policy takes, the copy that the core keeps, and the data (12 R285). -/
def State.serveLoad (s : State) (c slot : Nat) (a : Access) (e : HomeEntry) : State :=
  match s.poisonHit a with
  | some o => (s.setEntry { e with st := .s }).poisonedAccess c slot a o
  | none =>
    let ts := max (s.ctx c slot).pt e.wts
    let keeps := a.pol < 2
    let rts := max e.rts (if keeps then ts + Config.lease else ts)
    let s := (s.setEntry { e with st := .s, rts := rts }).l2Touch a.line (a.pol == 0) false
    let l : CacheLine := { line := a.line, data := s.line a.line, wts := e.wts, rts := rts, poison := s.linePoison a.line,
                           used := if a.pol = 1 then 0 else s.now, streaming := a.pol == 1 }
    let s := if keeps then s.cacheLine c l else s
    s.finishAccess c slot a ts (a.apply (s.line a.line)).2.2

/-- A request of the thread whose next access is to a line, served when the home can take it; else it waits there, behind a
recall that the home has begun or until an entry is free (12 R287, R288). -/
def State.atHome (s : State) (c slot line : Nat) (again : Instr) (who : Option Nat)
    (serve : State → Access → HomeEntry → State) : State :=
  match (s.ctx c slot).pipe with
  | [] => s
  | a :: _ =>
    if a.line != line || !a.posted then s
    else match s.homeTake line who with
      | .error s => s.after 8 again
      | .ok (e, s) => (serve s a e).pumpAll c slot

/-- FILL_REQUEST (12 R285). -/
def execFillRequest (c slot line : Nat) (s : State) : Out := .next <|
  s.atHome c slot line (.fillRequest c slot line) none fun s a e => s.serveLoad c slot a e

/-- LEASE_RENEWAL (12 R285; 19 R389): served like a fill; a copy with the home's write time holds the same data. -/
def execLeaseRenewal (c slot line : Nat) (s : State) : Out := .next <|
  s.atHome c slot line (.leaseRenewal c slot line) none fun s a e => s.serveLoad c slot a e

/-- An exclusive access performed at the home (04 R102; 12 R286): no ownership, no copy. -/
def State.serveAtHome (s : State) (c slot : Nat) (a : Access) (e : HomeEntry) : State :=
  match s.poisonHit a with
  | some o => (s.setEntry { e with st := .s }).poisonedAccess c slot a o
  | none =>
    let r := s.performAt c slot a e.wts e.rts
    (r.1.setEntry { e with st := .s, wts := r.2.1, rts := r.2.2 }).l2Touch a.line false (a.apply (s.line a.line)).1

/-- OWNERSHIP_REQUEST (12 R286, R287): ownership with the line's times, or at policy 2 or 3 the access itself. -/
def execOwnershipRequest (c slot line : Nat) (s : State) : Out := .next <|
  let caches : Bool := match (s.ctx c slot).pipe with
    | a :: _ => a.pol < 2
    | [] => false
  s.atHome c slot line (.ownershipRequest c slot line) (if caches then some c else none) fun s a e =>
    if a.pol < 2 then
      let st := if e.owner == c && e.st == .m then HomeState.m else .x
      ((s.setEntry { e with st := st, owner := c }).l2Touch line (a.pol == 0) false).post (.ownershipGrant c slot line)
    else s.serveAtHome c slot a e

/-- OWNERSHIP_GRANT (12 R286): the core owns the line, and its waiting accesses are performed. Where the home has taken the
line back meanwhile, an access that still waits asks for it again. -/
def execOwnershipGrant (c slot line : Nat) (s : State) : Out := .next <|
  let waits : Bool := match (s.ctx c slot).pipe with
    | a :: _ => a.line == line && a.posted && a.excl
    | [] => false
  let again := if waits then s.post (.ownershipRequest c slot line) else s
  match s.entry? line with
  | none => again
  | some e =>
    if e.owner != c || (e.st != .x && e.st != .m) then again
    else
      let own : Bool := match (s.core c).cached line with
        | some l => l.st != .s
        | none => false
      let pol := match (s.ctx c slot).pipe with
        | a :: _ => a.pol
        | [] => 0
      let s := if own then s
        else s.cacheLine c { line := line, data := s.line line, wts := e.wts, rts := e.rts, st := .x, poison := s.linePoison line,
                             used := if pol = 1 then 0 else s.now, streaming := pol == 1 }
      s.pumpAll c slot

/-- The copy that an owner holds of a line. -/
def State.ownedCopy (s : State) (owner line : Nat) : Option CacheLine :=
  if owner < 2 ^ 20 then (s.core owner).cached line
  else (s.hedge (owner - 2 ^ 20)).victim.find? fun l => l.line == line

/-- An owner's copy becomes a leased one, and its times go home, with its data where it is dirty. -/
def State.giveUp (s : State) (l : CacheLine) : State :=
  s.post (.recallReply l.line l.wts l.rts (if l.st = .m then some l.data else none) l.marks)
def leaseLine (line : Nat) (l : List CacheLine) : List CacheLine :=
  l.map fun e => if e.line == line then { e with st := .s, cut := false } else e

/-- RECALL (12 R287): a core's cache portion or a victim cache returns times and data; its copy stays as a leased one (log
26). An owner whose grant is still on its way answers after it; one that has dropped the line has written it back. -/
def execRecall (line owner : Nat) (s : State) : Out := .next <|
  let isGrant := fun (i : Instr) => match i with
    | .ownershipGrant c _ l => c == owner && l == line
    | _ => false
  let isBack := fun (i : Instr) => match i with
    | .writeback l _ _ _ _ _ => l == line
    | _ => false
  match s.ownedCopy owner line with
  | some l =>
    if l.st = .s then s
    else
      let s := s.giveUp l
      if owner < 2 ^ 20 then s.modCore owner fun k => { k with cache := leaseLine line k.cache }
      else s.modHedge (owner - 2 ^ 20) fun h => { h with victim := leaseLine line h.victim }
  | none =>
    if s.net.any isGrant then s.after 8 (.recall line owner)
    else if s.net.any isBack then s
    else match s.entry? line with
      | some e => if e.recalling then s.post (.recallReply line e.wts e.rts none 0) else s
      | none => s

/-- The home takes a line back (12 R287, R288): the marks of what returns come with it, without their origin (14 R324); those
that an error put on a clean copy go with the copy. -/
def State.takeBack (s : State) (line wts rts : Nat) (data : Option Nat) (poison : Nat) : State :=
  match s.entry? line with
  | none => s
  | some e =>
    let s := match data with
      | some d => { s with mem := s.mem.write (line * 128) 128 d,
                           poison := (List.range 16).foldl (fun p w => if bit poison w || (Tab.get? p (16 * line + w)).isSome then
                             Tab.put p (16 * line + w) false else p) s.poison }
      | none => { s with poison := s.poison.filter fun p => !(p.1 / 16 == line && bit poison (p.1 % 16)) }
    (s.setEntry { e with st := .s, wts := max e.wts wts, rts := max e.rts rts, recalling := false }).l2Touch line data.isSome data.isSome

/-- RECALL_REPLY (12 R287). -/
def execRecallReply (line wts rts : Nat) (data : Option Nat) (poison : Nat) (s : State) : Out := .next <|
  match s.entry? line with
  | some e => if e.recalling then s.takeBack line wts rts data poison else s
  | none => s

/-- A machine-check record in a die's error log (14 R334). -/
def State.machineCheck (s : State) (source die hedge unit low addr : Nat) : State :=
  let d0 := BitVec.ofNat 64 (source * 2 ^ 56 + die * 2 ^ 53 + hedge * 2 ^ 48 + unit * 2 ^ 40 + low)
  s.modDie die fun d => { d with errlog := d.errlog ++ [(d0, BitVec.ofNat 64 addr)] }

/-- A dropped owner's times come home, and a dirty one's data with its poison marks, which a machine-check record reports (12
R288; 14 R333). A line that its owner has taken again keeps its ownership. -/
def State.writtenBack (s : State) (line wts rts data poison : Nat) (dirty : Bool) : State :=
  match s.entry? line with
  | none => s
  | some e =>
    if (s.ownedCopy e.owner line).any fun l => l.st != .s then s
    else
      let s := s.takeBack line wts rts (if dirty then some data else none) poison
      if dirty && poison != 0 then s.machineCheck 4 (dieOf e.owner) (hedgeOf e.owner) (coreOf e.owner) 0 (line * 128) else s

/-- WRITEBACK (12 R288; 14 R333). -/
def execWriteback (line wts rts data poison : Nat) (dirty : Bool) (s : State) : Out := .next (s.writtenBack line wts rts data poison dirty)

/-! ### Lines as engines and walkers reach them (12 R287, R291; log 27) -/

/-- What is on its way home from a line's owner comes first. -/
def State.landReturns (s : State) (line : Nat) : State :=
  let mine := fun (i : Instr) => match i with
    | .recallReply l _ _ _ _ => l == line
    | .writeback l _ _ _ _ _ => l == line
    | _ => false
  (s.net.filter mine).foldl (fun s i => match i with
    | .recallReply _ wts rts data poison => s.takeBack line wts rts data poison
    | .writeback _ wts rts data poison dirty => s.writtenBack line wts rts data poison dirty
    | _ => s) { s with net := s.net.filter fun i => !mine i }

/-- A line taken back from its owner within a step, whose copy stays leased; a recall that the home has begun is over (12
R287; log 27). -/
def State.recallNow (s : State) (line : Nat) : State :=
  let s := s.landReturns line
  let asks := fun (i : Instr) => match i with | .recall l _ => l == line | _ => false
  match s.entry? line with
  | none => s
  | some e =>
    if e.st != .x && e.st != .m then s
    else
      let s := { s with net := s.net.filter fun i => !asks i, timers := s.timers.filter fun e => !asks e.2 }
      match s.ownedCopy e.owner line with
      | some l =>
        if l.st = .s then s.setEntry { e with st := .s, recalling := false }
        else
          let s := if e.owner < 2 ^ 20 then s.modCore e.owner fun k => { k with cache := leaseLine line k.cache }
            else s.modHedge (e.owner - 2 ^ 20) fun h => { h with victim := leaseLine line h.victim }
          s.takeBack line l.wts l.rts (if l.st = .m then some l.data else none) l.marks
      | none => s.setEntry { e with st := .s, recalling := false }

/-- The entries that share a line's directory set, and those of them that may be evicted (12 R287). -/
def State.setOf (s : State) (line : Nat) : List HomeEntry :=
  (s.home (s.homeKey line)).entries.filter fun e => homeSet e.line == homeSet line
def evictable (l : List HomeEntry) : List HomeEntry := l.filter fun e => !e.recalling && e.st != .p

/-- The entry of a line at its home, unowned; created where there is none, the oldest of a full set leaving (12 R288; 19
R388). Where every entry of the set is under recall, the oldest's recall is waited for. -/
def State.homeNow (s : State) (line : Nat) : HomeEntry × State :=
  let s := s.recallNow line
  match s.entry? line with
  | some e => ({ e with stamp := s.now }, s)
  | none =>
    let key := s.homeKey line
    let same := s.setOf line
    let victim := if same.length < Config.dirWays then none
      else (sortBy HomeEntry.stamp (if (evictable same).isEmpty then same else evictable same)).head?
    match victim with
    | none => ({ line := line, wts := (s.home key).high, rts := (s.home key).high, stamp := s.now }, s)
    | some v =>
      let s := s.recallNow v.line
      let h := s.home key
      let w := (h.entries.find? fun e => e.line == v.line).getD v
      let high := max h.high (max w.rts w.wts)
      ({ line := line, wts := high, rts := high, stamp := s.now },
        s.setHome key { (h.l2Clean v.line) with entries := h.entries.filter (fun e => e.line != v.line), high := high })

/-- A read of a line by an agent that keeps no copy, at the home, under a lease of some length beyond the read; its time (12
R291). In a set whose every entry is held it creates none: the home's high-water time serves, and covers the read (R287). -/
def State.readLine (s : State) (line t0 lease : Nat) : Nat × State :=
  if isSramLine line then
    let t := Tab.getD s.sramT line (0, 0)
    let ts := max t0 t.1
    (ts, { s with sramT := Tab.set s.sramT line (t.1, max t.2 ts) (0, 0) })
  else
    let held := (s.entry? line).isNone && Config.dirWays ≤ (s.setOf line).length && (evictable (s.setOf line)).isEmpty
    if held then
      let key := s.homeKey line
      let h := s.home key
      let ts := max t0 h.high
      (ts, s.setHome key { h with high := ts + lease })
    else
      let (e, s) := s.homeNow line
      let ts := max t0 e.wts
      (ts, s.setEntry { e with st := .s, rts := max e.rts (ts + lease) })

/-- An engine's read of a line: its time (12 R291). -/
def State.engineRead (s : State) (line t0 : Nat) : Nat × State := s.readLine line t0 0

/-- A page walker's read, coherent and at policy 0 (04 R107): it takes that policy's lease and fills the slice. -/
def State.walkerRead (s : State) (line t0 : Nat) : State := ((s.readLine line t0 Config.lease).2).l2Touch line true false

/-- An engine's write of a line, whole, taking it into P and releasing it (12 R287, R291). -/
def State.engineWrite (s : State) (c line data mask t0 : Nat) : Nat × State :=
  if isSramLine line then
    let t := Tab.getD s.sramT line (0, 0)
    let ts := max t0 (t.2 + 1)
    (ts, { (s.putLine c line data mask) with sramT := Tab.set s.sramT line (ts, ts) (0, 0) })
  else
    let (e, s) := s.homeNow line
    let ts := max t0 (e.rts + 1)
    (ts, ((s.putLine c line data mask).setEntry { e with st := .s, wts := ts, rts := ts }).l2Touch line false true)

/-- REMOTE_PRIVATE_REQUEST (04 R98; 01 R25): performed at the SRAM of the core that holds the owner's name on arrival, after
its checks of R87's views; an owner out of service answers with an error. A pinned line (R90), a page that a snapshot shares (15
R341), and a change of the owner's split (R86) make it wait. -/
def execRemotePrivateRequest (c slot : Nat) (s : State) : Out := .next <|
  match (s.ctx c slot).pipe with
  | [] => s
  | a :: _ =>
    match a.owner with
    | none => s
    | some o =>
      let x := s.ctx c slot
      let at_ := s.phys o
      let view := privateView (s.core at_).csr.lsplit x.cls
      let line := a.line + lineOf (sramAt at_ view.1)
      if 2 ^ 30 ≤ o then s
      else if (s.rename o).st != 0 || (s.core at_).csr.stopped then s.post (.errorMessageArrival (.access c slot o))
      else if s.splitWaits at_ then s.after 8 (.remotePrivateRequest c slot)
      else if !s.viewOpen at_ a.asid x.cls then s.accessFault c slot a fcPrivilege 0 false
      else if view.2 < a.end_ then s.accessFault c slot a fcAddrSpace a.va false
      else if s.pins.contains line then s.after 8 (.remotePrivateRequest c slot)
      else if a.excl && s.sharedPage (128 * line) then
        (s.postOnce (.sramPageCopy (line / 32))).after 8 (.remotePrivateRequest c slot)
      else (s.performSram c slot { a with line := line }).pumpAll c slot

/-- JOIN_WAKE (05 R129; 19 R389): every thread parked on the counter loads it again, at the home; the task scheduler is
told of its record. -/
def execJoinWake (die addr : Nat) (s : State) : Out := .next <|
  let l := (s.die die).joiners.filter fun j => j.1 == addr
  let s := s.modDie die fun d => { d with joiners := d.joiners.filter fun j => j.1 != addr }
  l.foldl (fun s j =>
    let x := s.ctx j.2.1 j.2.2.1
    if j.2.1 = schedWaiter then s.post (.counterZeroWake die j.2.2.2)
    else if x.status == .parked (.join addr) then s.access j.2.1 j.2.2.1 [joinAccess addr j.2.2.2 x true] else s) s

/-! ### Translation (04 R103 to R108) -/

/-- The outcome of a walk. -/
inductive Walk where
  | entry (e : TlbEntry)
  | absent
  | bad
  | poisoned
deriving DecidableEq, Repr

/-- A page-table entry's reserved bits, and the states that each level allows (04 R104). -/
def pteReserved (e : Nat) : Bool := fld e 48 12 != 0 || fld e 4 12 != 0
def upperBad (e : Nat) : Bool := pteReserved e || 1 < fld e 61 3

/-- The lines that a walk reads, as far as it comes: of the root, a level-1 and a leaf table. -/
def State.walkLines (s : State) (die asid va : Nat) : List Nat :=
  match Tab.get? (s.die die).asids asid with
  | none => []
  | some d =>
    let a0 := d.root + 8 * fld va 34 14
    let e0 := s.mem.read a0 8
    let a1 := fld e0 16 32 * 65536 + 8 * fld va 21 13
    let e1 := s.mem.read a1 8
    if upperBad e0 || bit e0 60 || fld e0 61 3 = 0 then [lineOf a0]
    else if upperBad e1 || bit e1 60 || fld e1 61 3 = 0 then [lineOf a0, lineOf a1]
    else [lineOf a0, lineOf a1, lineOf (fld e1 16 32 * 65536 + 8 * fld va 16 5)]

/-- The walk of an ASID's tables on a die. -/
def State.walk (s : State) (die asid va : Nat) : Walk :=
  match Tab.get? (s.die die).asids asid with
  | none => .bad
  | some d =>
    let marked := fun (a : Nat) => (Tab.get? s.poison (a / 8)).isSome
    let a0 := d.root + 8 * fld va 34 14
    let e0 := s.mem.read a0 8
    if marked a0 then .poisoned
    else if upperBad e0 || bit e0 60 then .bad
    else if fld e0 61 3 = 0 then .absent
    else
      let a1 := fld e0 16 32 * 65536 + 8 * fld va 21 13
      let e1 := s.mem.read a1 8
      if marked a1 then .poisoned
      else if upperBad e1 || (bit e1 60 && fld e1 16 5 != 0) then .bad
      else if fld e1 61 3 = 0 then .absent
      else if bit e1 60 then .entry { asid := asid, vpn := va / 2 ^ 21, pte := e1, large := true, used := s.now }
      else
        let a2 := fld e1 16 32 * 65536 + 8 * fld va 16 5
        let e2 := s.mem.read a2 8
        if marked a2 then .poisoned
        else if pteReserved e2 || 5 < fld e2 61 3 || bit e2 60 then .bad
        else if fld e2 61 3 = 0 then .absent
        else .entry { asid := asid, vpn := va / 65536, pte := e2, used := s.now }

/-- The contexts of a die that satisfy a test. -/
def State.ctxsOf (s : State) (die : Nat) (p : Ctx → Bool) : List (Nat × Nat) :=
  s.cores.flatMap fun e => if dieOf e.1 == die then (e.2.ctxs.filter fun x => p x.2).map fun x => (e.1, x.1) else []

/-- Whether a wait is for the walk, or the presence, of the page of an address. -/
def Wait.walks (w : Wait) (va : Nat) : Bool := match w with | .walk v => v / 65536 == va / 65536 | _ => false
def Wait.absents (w : Wait) (va : Nat) : Bool := match w with | .pageIn v => v / 65536 == va / 65536 | _ => false
def Ctx.waits (x : Ctx) (asid : Nat) (p : Wait → Bool) : Bool :=
  x.asid == asid && match x.status with | .parked w => p w | _ => false
/-- The address that a parked thread waits for. -/
def Ctx.waitAddr (x : Ctx) : Nat :=
  match x.status with
  | .parked (.walk v) => v
  | .parked (.pageIn v) => v
  | _ => 0

/-- The access that a parked thread waits to translate fails: it reissues, and reports its first fault (09 R227). -/
def State.failAccess (s : State) (c slot code : Nat) : State :=
  s.modCtx c slot fun x => { x with status := .ready, badPages := Tab.put x.badPages (x.waitAddr / 65536) code }

/-- A walk is over: the next one that waits for a walker begins, the first 32 in arrival order having one (04 R107). -/
def State.endWalk (s : State) (die asid va : Nat) : State :=
  let d := s.die die
  let rest := d.walks.filter (· != (asid, va / 65536))
  let s := s.modDie die fun d => { d with walks := rest }
  if rest.length = d.walks.length then s
  else match rest[Config.walkers - 1]? with
    | some w => s.post (.pageWalkComplete die w.1 (w.2 * 65536))
    | none => s

/-- PAGE_WALK_COMPLETE (04 R104, R105, R107): the tables are read coherently at policy 0, at the time of the threads that
missed (log 27). The TLBs take the entry and the threads go on; an absent page is
reported to Ozine, and they wait for it; a table that breaks R104 or is poisoned fails their access when it reissues. -/
def execPageWalkComplete (die asid va : Nat) (s : State) : Out := .next <|
  let l := s.ctxsOf die fun x => x.waits asid fun w => w.walks va
  let s := s.endWalk die asid va
  let pt := l.foldl (fun m e => max m (s.ctx e.1 e.2).pt) 0
  let s := (s.walkLines die asid va).foldl (fun s a => s.walkerRead a pt) s
  let fault := fun (code : Nat) => l.foldl (fun s e => s.failAccess e.1 e.2 code) s
  match s.walk die asid va with
  | .entry t => l.foldl (fun s e => (s.fillTlb e.1 t).setStatus e.1 e.2 .ready) s
  | .absent => (l.foldl (fun s e => s.modCtx e.1 e.2 fun x => { x with status := .parked (.pageIn x.waitAddr) }) s).signal 6 asid va
  | .bad => fault fcTranslation
  | .poisoned => fault fcPoison

/-- The address of the leaf entry of a virtual address, where its tables are there. -/
def State.leafSlot (s : State) (die asid va : Nat) : Option Nat :=
  match Tab.get? (s.die die).asids asid with
  | none => none
  | some d =>
    let e0 := s.mem.read (d.root + 8 * fld va 34 14) 8
    let e1 := s.mem.read (fld e0 16 32 * 65536 + 8 * fld va 21 13) 8
    if fld e0 61 3 = 1 && fld e1 61 3 = 1 && !bit e1 60 then some (fld e1 16 32 * 65536 + 8 * fld va 16 5) else none

/-- TLB entries of a page dropped: of a hedge, or of every hedge. -/
def State.dropTlb (s : State) (asid va : Nat) (inHedge : Nat → Bool) : State :=
  let keep := fun (e : TlbEntry) => !e.hits asid va
  { s with cores := s.cores.map fun e => if inHedge (hedgeKey e.1) then (e.1, { e.2 with tlb := e.2.tlb.filter keep }) else e,
           hedges := s.hedges.map fun h => if inHedge h.1 then (h.1, { h.2 with l2tlb := h.2.l2tlb.filter keep }) else h }

/-- TLB_SHOOTDOWN (04 R108): an invalidation goes to each hedge that may hold the entry. -/
def execTlbShootdown (die asid va : Nat) (hedges : List Nat) (s : State) : Out := .next <|
  let s := if hedges.isEmpty then s
    else s.modDie die fun d => { d with shoots := d.shoots ++ [{ asid := asid, va := va, sent := hedges.length }] }
  hedges.foldl (fun s h => s.post (.shootdownAck die h asid va)) s

/-- Work of a hedge that may still use a translation: a thread's unperformed access to the page, or to another part of a large
page that holds it, of any ASID, for a global page translates for all; a packet in flight; a line that the chain unit has gathered;
a drain's lines. -/
def State.usesPage (s : State) (h va : Nat) : Bool :=
  (s.hedge h).ops.any (fun o => !o.lines.isEmpty) || s.cores.any fun e => hedgeKey e.1 == h &&
    (e.2.ctxs.any (fun x => x.2.pipe.any fun a => a.va / 2 ^ 21 == va / 2 ^ 21)
      || e.2.units.transfers.any (fun t => !t.flying.isEmpty) || e.2.units.chain.any fun r => r.mask != 0)

/-- SHOOTDOWN_ACK (04 R108): the hedge has dropped the entry, and every access that used it has been performed. -/
def execShootdownAck (die hedge asid va : Nat) (s : State) : Out := .next <|
  let s := s.dropTlb asid va (· == hedge)
  if s.usesPage hedge va then s.after 8 (.shootdownAck die hedge asid va)
  else s.modDie die fun d =>
    let count := fun (t : Shoot) => if t.asid == asid && t.va == va then { t with acked := t.acked + 1 } else t
    { d with shoots := (d.shoots.map count).filter fun t => t.acked < t.sent }

end Sys2Proof.Machine
end

