-- ==== Sys2Proof/Machine/Returns.lean ====
section
/-! DEFINITION. The return of loads and atomics (09 R212, R216; 10 R243; 03 R66). -/

namespace Sys2Proof.Machine

/-- The value that a result's gathered bits give its destination: sign-extended for a signed load, else as they are. -/
def Pending.value (p : Pending) : Nat :=
  if p.signed then ((BitVec.ofNat (8 * p.bytes) p.acc).signExtend 64).toNat else p.acc

/-- A buffer record has come: it stands in its entry from now on, where nothing rejects it (03 R72; 09 R213); the result keeps
the entry's old word. -/
def State.recordReturn (s : State) (c slot : Nat) (p : Pending) : State :=
  let bf := p.queue - 1
  if p.bytes != 32 || p.queue = 0 || s.recordBreaks p.asid p.acc then s
  else
    let old := ((s.core c).buf bf).word
    let s := s.modCore c fun k => k.putBuf bf slot s.now { r := p.acc, valid := true, asid := p.asid }
    s.modCtx c slot fun x => { x with out := x.out.map fun q => if q.seq == p.seq then { q with alt := some old } else q }

/-- A result returns: to its register; for BFLD's and PLOAD's loads to the waiting thread; and to the other context of a
redundant pair (09 R225). -/
def State.resultReturn (s : State) (c slot seq : Nat) : State :=
  match (s.ctx c slot).out.find? fun p => p.seq == seq && !p.returned && p.left == 0 with
  | none => s
  | some p =>
    let v := p.value
    let s := s.deliver c slot seq v
    let s := if p.kind != .bfld then s else (s.recordReturn c slot p).modCtx c slot fun x =>
      if x.status == .parked .vector then { x with status := .ready } else x
    match (s.ctx c slot).pair with
    | none => s
    | some o =>
      let s := s.modCtx c slot fun x =>
        { x with loadq := x.loadq.map fun e => if e.2.2.1.seq == seq && p.kind == .load then (e.1, e.2.1, e.2.2.1, some v) else e }
      let theirs := fun (q : Pending) => !q.returned && (if p.kind == .load then q.queue == seq + 1 && q.kind == .load else q.seq == seq && q.kind == p.kind)
      match (s.ctx c o).out.find? theirs with
      | some q => s.deliver c o q.seq v
      | none => s

/-- LOAD_RETURN (09 R212, 10 R243). -/
def execLoadReturn (c slot seq : Nat) (s : State) : Out := .next (s.resultReturn c slot seq)

/-- ATOMIC_RETURN (09 R216). -/
def execAtomicReturn (c slot seq : Nat) (s : State) : Out := .next (s.resultReturn c slot seq)

end Sys2Proof.Machine
end

