-- ==== Sys2Proof/Machine/Messages.lean ====
section
/-! DEFINITION. Messages between threads and the porter (08 R181 to R187, R198), acceptance of traps, the ends of timed waits,
and the resumption of a pre-empted core (13 R313). -/

namespace Sys2Proof.Machine

/-- RETURNED_SEND (08 R184): the job's fault record takes the sender, the target descriptor and the value. -/
def execReturnedSend (m : SendMsg) (s : State) : Out := .next <|
  if s.dropsFor (dieOf (m.tid / 64)) m.asid then s.discard m.asid
  else s.recordFor m.asid (faultRec 1 m.asid m.tid 0 m.tgt.toNat m.v.toNat)

/-! ### The porter's queue -/

/-- The block and descriptor that a porter item's handler names on a core; none for what cannot run there (08 R185, R186;
09 R222). -/
def Core.handlerOf (k : Core) (i : PorterItem) : Option (Placed × Nat) :=
  match k.placedBlock i.asid i.blk with
  | none => none
  | some p =>
    if 3 < p.mainCode || 1 < p.vecCode then none
    else
      let d := if i.land.isSome then p.descs[i.off]? else entryAt p.descs i.off
      d.map fun d => (p, descOff d)

/-- An item joins the porter's queue, which the porter serves in arrival order. -/
def State.queuePorter (s : State) (c : Nat) (i : PorterItem) : State :=
  (s.modCore c fun k => { k with work := { k.work with porterQ := k.work.porterQ ++ [i] } }).post (.porterHandlerStart c)

/-- The item of an active message (08 R185, 12 R293). -/
def activeItem (m : SendMsg) : PorterItem :=
  { blk := fld m.v.toNat 9 24, off := fld m.v.toNat 0 9, asid := m.asid, cls := m.cls, pt := m.ts + 1,
    regs := [(0, BitVec.ofNat 64 (fld m.v.toNat 33 31)), (1, BitVec.ofNat 64 m.tid)], cut := m.cut, land := none, msg := some m, wr := none }

/-- A message whose sender is a thread of another chip of its job; the porter carries out its SEND or SENDU, unless it names slot
63, in arrival order (08 R182; 12 R294). -/
def State.fromAway (s : State) (m : SendMsg) : Bool := chipOf (m.tid / 64) != s.chip m.asid
def carriedItem (m : SendMsg) : PorterItem :=
  { blk := 0, off := 0, asid := m.asid, cls := m.cls, pt := m.ts, regs := [], cut := m.cut, land := none, msg := some m, wr := none }
def carriedMsg (i : PorterItem) : Option SendMsg := i.msg.filter fun m => m.unaddressed || sendSlot m != 63

/-- A message of another chip that the porter is to serve. -/
def State.itemAway (s : State) (i : PorterItem) : Bool := i.wr.isSome || i.msg.any s.fromAway

/-- A remote write of another chip that meets a fault at its owner is reported as the porter's (14 R333). -/
def State.remoteFault (s : State) (c : Nat) (i : PorterItem) (code detail : Nat) : State :=
  s.recordFor i.asid (faultRec 6 i.asid (s.coreId i.asid c * 64 + 63) (code * 2 ^ 48) detail i.pt)

/-- What becomes of a porter item that a core cannot take: an active message is returned, a transfer ends with a status
(09 R222), a remote write of another chip's thread is reported. -/
def State.refuseItem (s : State) (c : Nat) (i : PorterItem) (status : Nat) : State :=
  let s := match i.msg with
    | some m => s.returnSend m
    | none => s
  let s := match i.land with
    | some l => s.postLanding i.asid l status
    | none => s
  if i.wr.isSome && i.land.isNone then s.remoteFault c i fcPrivilege 0 else s

/-- An active message reaches a core's porter. -/
def State.activeArrive (s : State) (c : Nat) (i : PorterItem) : State :=
  if i.wr.isNone && (carriedMsg i).isNone && ((s.core c).handlerOf i).isNone then s.refuseItem c i 0x03 else s.queuePorter c i

/-- ACTIVE_MESSAGE_ARRIVAL (08 R185; 04 R98). A remote write, and what comes from another chip behind it, stays at the router of a core
whose split waits to change (R86; log 98). -/
def execActiveMessageArrival (dst : Nat) (i : PorterItem) (s : State) : Out := .next <|
  let c := s.phys dst
  if s.dropsFor (dieOf dst) i.asid then s.discardMsg i.asid i.cut
  else if (s.rename dst).st != 0 then (s.countGot i.asid i.cut).refuseItem c i 0x05
  else if (s.core c).csr.stopped then s.countGot i.asid i.cut
  else if s.itemAway i && s.splitWaits c then s.hold (.activeMessageArrival dst i)
  else (s.accepting c i.asid i.cut (.activeMessageArrival dst i)).activeArrive c i

/-! ### SEND and SENDU -/

/-- Delivery at a core that is in service (08 R183). -/
def State.sendDeliver (s : State) (c : Nat) (m : SendMsg) : State :=
  let slot := sendSlot m
  let x := s.ctx c slot
  if x.status != .free && x.asid == m.asid then
    s.sendInto c slot m
  else if (s.core c).work.saved.any fun e => e.2.slot == slot && e.2.ctx.asid == m.asid then
    s.spill c m.asid { body := .send m, arrival := s.cycle c }
  else s.returnSend m

/-- SEND_ARRIVAL (08 R183). -/
def execSendArrival (m : SendMsg) (s : State) : Out := .next <|
  let dst := sendCore m
  let c := s.phys dst
  if s.dropsFor (dieOf dst) m.asid then s.discardMsg m.asid m.cut
  else if (s.rename dst).st != 0 then (s.countGot m.asid m.cut).returnSend m
  else if (s.core c).csr.stopped then s.countGot m.asid m.cut
  else if s.fromAway m && s.splitWaits c then s.hold (.sendArrival m)
  else
    let away := s.fromAway m
    let s := s.accepting c m.asid m.cut (.sendArrival m)
    if sendSlot m = 63 then s.activeArrive c (activeItem m)
    else if away then s.queuePorter c (carriedItem m) else s.sendDeliver c m

/-- Delivery of an unaddressed message at a core (08 R184): into INQ, or behind older messages, wherever they wait, into the spill
queue. -/
def State.senduDeliver (s : State) (c : Nat) (m : SendMsg) : State :=
  let k := s.core c
  if k.csr.shasid != m.asid then s.returnSend m
  else if !k.q.hasRoom 5 || (s.waitingSlots c).any QSlot.isSendu then s.spill c m.asid { body := .send m, arrival := s.cycle c }
  else s.arrive c 5 m.v m.ts

/-- SENDU_ARRIVAL (08 R184). -/
def execSenduArrival (m : SendMsg) (s : State) : Out := .next <|
  let dst := sendCore m
  let c := s.phys dst
  if s.dropsFor (dieOf dst) m.asid then s.discardMsg m.asid m.cut
  else if (s.rename dst).st != 0 then (s.countGot m.asid m.cut).returnSend m
  else if (s.core c).csr.stopped then s.countGot m.asid m.cut
  else if s.fromAway m && s.splitWaits c then s.hold (.senduArrival m)
  else
    let away := s.fromAway m
    let s := s.accepting c m.asid m.cut (.senduArrival m)
    if away then s.queuePorter c (carriedItem m) else s.senduDeliver c m

/-! ### The porter thread -/

/-- A store or atomic of another chip's thread, or a copy's write, performed at the owner's SRAM at or after the sender's
time (04 R98; 12 R286, R293); a copy's engine is told (09 R223). An atomic on a poisoned word consumes it (R82). None while its line is pinned. -/
def State.remoteWrite (s : State) (c : Nat) (i : PorterItem) (w : RemoteWrite) : Option State :=
  let view := privateView (s.core c).csr.lsplit i.cls
  let open_ := if w.op = 13 then (s.core c).csr.shasid == i.asid && w.offset + w.bytes ≤ Config.hedgeBytes
    else s.viewOpen c i.asid i.cls && w.offset + w.bytes ≤ view.2
  if !open_ then some (s.refuseItem c i 0x08)
  else
    let a := if w.op = 13 then hedgeAt (hedgeKey c) w.offset else sramAt c (view.1 + w.offset)
    let line := lineOf a
    if s.pins.contains line then none
    else match (if (atomOfCode w.op).isSome then s.poisonAt a w.bytes else none) with
    | some origin =>
      let s := s.remoteFault c i fcPoison (a % 2 ^ 48)
      some (if origin then s.post (.coreKill c 1) else s)
    | none =>
      let lo := a % 128 * 8
      let mask := if w.op = 0 && w.h != 0 then w.h * 2 ^ lo else ones (8 * w.bytes) * 2 ^ lo
      let t := Tab.getD s.sramT line (0, 0)
      let old := fld (s.line line) lo (8 * w.bytes)
      let new := match atomOfCode w.op with
        | some op => op.eval old w.value w.h
        | none => some w.value
      let st := stampOf i.pt t.1 t.2 true new.isSome
      let s := match new with
        | some v => s.putLine c line (v * 2 ^ lo) mask
        | none => s
      let s := { s with sramT := Tab.set s.sramT line (st.2.1, st.2.2) (0, 0) }
      some (match i.land with | some l => s.postLanding i.asid l 0 | none => s)

/-- A porter thread's context for a handler (08 R185, R186; 09 R223): fixed windows within those that its block declares. -/
def porterCtx (i : PorterItem) (p : Placed) (off : Nat) : Ctx :=
  { status := .ready, pc := { blk := i.blk, off := off }, asid := i.asid, cls := i.cls, pt := i.pt,
    win := { porterWin with mainCode := p.mainCode, vecCode := p.vecCode } }

def Core.startHandler (k : Core) (i : PorterItem) (p : Placed) (off : Nat) : Core :=
  let k := (k.clearMain 2016 32).clearVec 252 4
  let k := k.setCtx 63 (porterCtx i p off)
  let k := i.regs.foldl (fun k r => k.writeMain 63 r.1 r.2) k
  { k with work := { k.work with porter := some i } }

/-- PORTER_HANDLER_START (08 R185, R186): a handler that a rollback restored, else the oldest item whose job is not stopped (17
R402). -/
def execPorterHandlerStart (c : Nat) (s : State) : Out := .next <|
  let k := s.core c
  if k.work.porter.isSome || k.csr.stopped then s
  else match k.work.porters.find? fun e => !s.jobStopped e.1.asid with
  | some e =>
    (s.modCore c fun k =>
      { (k.restoreCtx 63 e.2 e.2.ctx.win) with work := { k.work with porter := some e.1, porters := k.work.porters.erase e } }).resumeThread c 63
  | none => match k.work.porterQ.find? fun i => !s.jobStopped i.asid with
    | none => s
    | some i =>
      let t := s.modCore c fun k => { k with work := { k.work with porterQ := k.work.porterQ.erase i } }
      match i.wr with
      | some w =>
        match t.remoteWrite c i w with
        | some u => u.post (.porterHandlerStart c)
        | none => s.after 8 (.porterHandlerStart c)
      | none => match carriedMsg i with
      | some m => (if m.unaddressed then t.senduDeliver c m else t.sendDeliver c m).post (.porterHandlerStart c)
      | none =>
        match k.handlerOf i with
        | some (p, off) => t.modCore c fun k => k.startHandler i p off
        | none => (t.refuseItem c i 0x03).post (.porterHandlerStart c)

/-- A porter has taken a landing packet: its transfer does not send it again after a rollback (15 R344, R350). -/
def Core.hand (k : Core) (l : LandFrom) : Core :=
  let mark := fun (p : Packet) => if p.pkt == l.pkt then { p with handed := true } else p
  { k with units := { k.units with transfers := k.units.transfers.map fun t =>
      if t.req.chan == l.chan && t.req.id == l.id then { t with flying := t.flying.map mark } else t } }

def State.handOver (s : State) (asid : Nat) (l : LandFrom) (cut : Bool) : State :=
  if chipOf l.core != s.chip asid then s
  else
    let c := s.phys l.core
    let s := s.modCore c fun k => k.hand l
    match s.openSnap with
    | some n =>
      if !cut && s.cutTaken c then
        let give := fun (k : CoreCut) => if k.core == c then { k with image := k.image.hand l } else k
        s.modSnap n.job n.tag fun n => { n with cores := n.cores.map give }
      else s
    | none => s

/-- LANDING_PACKET_ARRIVAL (09 R222, R223): the packet waits with the active messages; at the router while the core's split waits
to change (04 R86). -/
def execLandingPacketArrival (dst : Nat) (i : PorterItem) (s : State) : Out := .next <|
  let c := s.phys dst
  if s.dropsFor (dieOf dst) i.asid then s.discardMsg i.asid i.cut
  else if (s.rename dst).st != 0 then (s.countGot i.asid i.cut).refuseItem c i 0x05
  else if (s.core c).csr.stopped then s.countGot i.asid i.cut
  else if s.splitWaits c then s.hold (.landingPacketArrival dst i)
  else
    let s := s.accepting c i.asid i.cut (.landingPacketArrival dst i)
    if (s.core c).csr.shasid != i.asid || ((s.core c).handlerOf i).isNone then s.refuseItem c i 0x03
    else
      let s := match i.land with
        | some l => s.handOver i.asid l i.cut
        | none => s
      s.queuePorter c i

/-! ### Waits that end -/

/-- TRAP_RECORD_ACCEPT (08 R193): the die's Boxwood cores hold the record for Ozine, and the thread goes on. -/
def execTrapRecordAccept (c slot : Nat) (r : TrapRec) (s : State) : Out := .next <|
  (s.modDie (dieOf c) fun d => { d with traps := d.traps ++ [r] }).answer c slot true

/-- SNAP_ANSWER (08 R195). -/
def execSnapAnswer (c slot : Nat) (s : State) : Out := .next (s.answer c slot true)

/-- A timed park of a thread has come to its end. -/
def State.timeUp (s : State) (c slot : Nat) (until_ : Wait → Option Nat) : State :=
  s.modCtx c slot fun x => match x.status with
    | .parked w => (match until_ w with
      | some t => if t ≤ s.now then { x with status := .ready } else x
      | none => x)
    | _ => x

/-- IDLE_TIMEOUT (08 R191). -/
def execIdleTimeout (c slot : Nat) (s : State) : Out := .next <|
  s.timeUp c slot fun w => match w with | .idle t => some t | _ => none

/-- KSYNC_RESUME (03 R63). -/
def execKsyncResume (c slot : Nat) (s : State) : Out := .next <|
  s.timeUp c slot fun w => match w with | .cycle t => some t | _ => none

/-- PCYC_PIDX_RESUME (11 R280). -/
def execPcycPidxResume (c slot : Nat) (s : State) : Out := .next <|
  s.timeUp c slot fun w => match w with | .cycle t => some t | _ => none

/-! ### Resumption of a pre-empted core -/

/-- A saved context as it resumes: a QMAXX issues again, and joins the round it left (10 R245). -/
def Ctx.resumed (x : Ctx) : Ctx :=
  let st := match x.prior.getD .ready with
    | .parked (.round _ _) => .ready
    | st => st
  { x with status := st, prior := none }

/-- Addressed messages leave the spill queue, in order, for their threads. -/
def State.redeliver (s : State) (c : Nat) : State :=
  (s.waitingSlots c).foldl (fun s q =>
    match q.sendOf with
    | some m => (s.dropSlot c q).sendDeliver c m
    | none => s) s

/-- CORE_RESUME (13 R313): the saved contexts return to their slots, in ascending order, with their places among the poppers of
queues (03 R67); their spilled messages are delivered after them, in order. -/
def execCoreResume (c : Nat) (s : State) : Out := .next <|
  if !s.mayResume c then s
  else
    let saved := sortBy Prod.fst ((s.core c).work.saved.filter fun e => e.1 < 1000)
    let s := s.modCore c fun k =>
      let k := saved.foldl (fun k e => (k.restoreCtx e.1 { e.2 with ctx := e.2.ctx.resumed } e.2.ctx.win).unshelve e.1 e.1) k
      { k with work := { k.work with preempted := false, saved := k.work.saved.filter fun e => 1000 ≤ e.1 } }
    (s.redeliver c).readmit c 63

end Sys2Proof.Machine
end

