-- ==== Sys2Proof/Machine/Agents.lean ====
section
/-! DEFINITION. How the engines reach memory (12 R291; 04 R90; 05 R119): finding a byte range for an operation, reading it
line by line. -/

namespace Sys2Proof.Machine

/-- Why an engine's access does not go on: a status ends the operation, or it waits at a page, whose key is below, and is
asked for. -/
inductive EStop where
  | status (n : Nat)
  | wait (key : Nat)
deriving DecidableEq, Repr

/-- Keys of what an operation waits at: a virtual page, a 4 KiB page of an SRAM, a pinned line. -/
def vaKey (va : Nat) : Nat := va / 65536
def sramKey (page : Nat) : Nat := 2 ^ 60 + page
def pinKey (line : Nat) : Nat := 2 ^ 61 + line

/-- The status that a fault of a located access gives an engine (05 R119; 09 R222; 10 R250). -/
def statusOf (code : Nat) : Nat :=
  if code == fcTranslation then 0x02 else if code == fcProtection then 0x03 else if code == fcBounds then 0x04
  else if code == fcRemote then 0x05 else if code == fcPoison then 0x01 else 0x08

/-- Where an engine's bytes lie. -/
inductive EFind where
  | at_ (addr : Nat) (owner : Option Nat)
  | chip (owner off : Nat)
  | stop (e : EStop)

/-- The translation of a page through the core's L1 TLB, with the walk that a miss needs (04 R107). -/
def State.walkIn (s : State) (c asid va : Nat) : Option EStop × State :=
  match s.tlb c asid va with
  | some e => (none, s.fillTlb c e)
  | none =>
    match s.walk (dieOf c) asid va with
    | .entry e => (none, s.fillTlb c e)
    | .absent => (some (.wait (vaKey va)), s.signal 6 asid va)
    | .bad => (some (.status 0x02), s)
    | .poisoned => (some (.status 0x01), s)

/-- `n` bytes within one line, at an offset of a record that bounds have admitted. -/
def State.efind (s : State) (c asid cls r : Nat) (e : Int) (n : Nat) (kind : Purpose) : EFind × State :=
  let sp := recSpace r
  let addr := wrap64 (recBase r + e)
  let far := (Tab.get? (s.die (dieOf c)).asids asid).getD {}
  if sp = 4 && (e < 0 || (far.farLimit : Int) < e + n) then (.stop (.status 0x08), s)
  else
    let (w, s) := if sp = 0 && addr < 2 ^ 48 then s.walkIn c asid addr else (none, s)
    match w with
    | some w => (.stop w, s)
    | none =>
      match s.locateAt c asid cls r e n 1 kind false true none with
      | .at_ a _ owner =>
        if kind == .load && (s.poisonAt a n).isSome then (.stop (.status 0x01), s) else (.at_ a owner, s)
      | .chip owner off => (.chip owner off, s)
      | .drop => (.stop (.status 0x08), s)
      | .fault _ code _ _ => (.stop (.status (statusOf code)), s)
      | .hold _ (.pageCopy va) => (.stop (.wait (vaKey va)), s.post (.snapPageCopy (dieOf c) asid va))
      | .hold _ (.sramCopy page) => (.stop (.wait (sramKey page)), s.post (.sramPageCopy page))
      | .hold _ _ => (.stop (.status 0x02), s)

/-! ### Ranges -/

/-- A range of at most 128 bytes cut at line boundaries: offset in the range, and length. -/
def lineCuts (addr n : Nat) : List (Nat × Nat) :=
  let first := min n (128 - addr % 128)
  if first < n then [(0, first), (first, n - first)] else if n = 0 then [] else [(0, n)]

/-- Bytes read by an engine for an ASID and class: their number, and the greatest time. -/
def State.readCuts (s : State) (c asid cls r t0 : Nat) (e : Int) : List (Nat × Nat) → Except (EStop × State) (Nat × Nat × State)
  | [] => .ok (0, t0, s)
  | g :: t =>
    match s.efind c asid cls r (e + g.1) g.2 .load with
    | (.stop w, s) => .error (w, s)
    | (.chip _ _, s) => .error (.status 0x08, s)
    | (.at_ a _, s) =>
      let v := s.mem.read a g.2
      let (ts, s) := s.engineRead (lineOf a) t0
      match s.readCuts c asid cls r t0 e t with
      | .error x => .error x
      | .ok (w, ts', s) => .ok (v * 256 ^ g.1 + w, max ts ts', s)

/-- Bytes read within at most two lines. -/
def State.readBytes (s : State) (c asid cls r t0 : Nat) (e : Int) (n : Nat) : Except (EStop × State) (Nat × Nat × State) :=
  s.readCuts c asid cls r t0 e (lineCuts (wrap64 (recBase r + e)) n)

/-- A read of several lines at a virtual address: a descriptor, a record. -/
def State.readVirtual (s : State) (c asid t0 va : Nat) : Nat → Except (EStop × State) (Nat × Nat × State)
  | 0 => .ok (0, t0, s)
  | n + 1 =>
    match s.readBytes c asid 1 flatRecord t0 (va : Nat) 8 with
    | .error x => .error x
    | .ok (v, ts, s) =>
      match s.readVirtual c asid t0 (va + 8) n with
      | .error x => .error x
      | .ok (w, ts', s) => .ok (v + w * 2 ^ 64, max ts ts', s)

/-- The bytes of a range that lie in a record's extent (04 R100): first and end, as offsets in the range; none where the
bounds mode is fault and one does not. Mode off admits all. -/
def inExtent (r : Nat) (e : Int) (n : Nat) : Option (Nat × Nat) :=
  if recBounds r = 0 then some (0, n)
  else
    let lo := min n (max 0 (-e)).toNat
    let hi := min n (max 0 ((recExtent r : Int) - e)).toNat
    if recBounds r = 1 && (lo != 0 || hi != n) then none else some (lo, max lo hi)

end Sys2Proof.Machine
end

