-- ==== Sys2Proof/Machine/CopyEngine.lean ====
section
/-! DEFINITION. The copy engine: acceptance of transfers, packets and their landing, ends of transfers, frozen channels (05
R118 to R120; 09 R218 to R223; 14 R322). -/

namespace Sys2Proof.Machine

/-! ### Waiting at pages and pins -/

/-- Transfers and chain commands that wait at a key go on. -/
def State.wakeKey (s : State) (key : Nat) : State :=
  let free := fun (t : Transfer) => if t.wait == some key then { t with wait := none } else t
  let freeUnits := fun (u : CoreUnits) =>
    { u with transfers := u.transfers.map free, chain := u.chain.map fun r => if r.wait == some key then { r with wait := none } else r }
  s.cores.foldl (fun s (e : Nat × Core) =>
    let u := e.2.units
    let chained := u.chain.any fun r => r.wait == some key
    if chained || u.transfers.any (fun t => t.wait == some key) then
      let s := (s.modCore e.1 fun k => { k with units := freeUnits k.units }).postOnce (.copyPacketStart e.1)
      if chained then s.postOnce (.chainCommandComplete e.1) else s
    else s) s

/-! ### Transfers of a core -/

def Transfer.is (t : Transfer) (ch id : Nat) : Bool := t.req.chan == ch && t.req.id == id

def Core.modTransfer (k : Core) (ch id : Nat) (f : Transfer → Transfer) : Core :=
  { k with units := { k.units with transfers := k.units.transfers.map fun t => if t.is ch id then f t else t } }
def State.modTransfer (s : State) (c ch id : Nat) (f : Transfer → Transfer) : State := s.modCore c fun k => k.modTransfer ch id f

/-- A transfer with packets left to start. -/
def Transfer.more (t : Transfer) : Bool := !t.done && t.status.isNone && t.row < rqCount t.req.rq

/-- The transfer of a channel whose packet is ready to start: not while the channel is frozen or waits, nor at a barrier
behind packets that have not completed (09 R221). -/
def Core.readyOf (k : Core) (ch : Nat) : Option Transfer :=
  let l := k.units.transfers.filter fun t => t.req.chan == ch
  match l.find? Transfer.more with
  | none => none
  | some t =>
    let earlier := l.takeWhile fun u => u.req.id != t.req.id
    if k.units.frozen.contains ch || t.wait.isSome then none
    else if rqBarrier t.req.rq && t.next == 0 && earlier.any (fun u => !u.done) then none
    else some t

/-- The channel served next: the first ready one after the one served last (09 R221). -/
def Core.nextChan (k : Core) : Option Transfer :=
  ((List.range 4).map fun i => (k.units.lastChan + 1 + i) % 4).findSome? k.readyOf

/-! ### Destinations and packets (09 R219, R221) -/

/-- The row that a permutation of groups of n puts at a row (09 R219). -/
def permRow (idx : List Nat) (r : Nat) : Nat :=
  if idx.isEmpty then r else r / idx.length * idx.length + idx.getD (r % idx.length) 0

/-- The destination offset at which a row begins. -/
def CopyReq.rowStart (q : CopyReq) (r : Nat) : Int := rqDstOff q.rq + permRow q.dstIdx r * recStride0 q.dst

/-- The first packet of a row that begins at or behind a destination offset: at the row's beginning or at a line's. -/
def CopyReq.packetFrom (q : CopyReq) (r : Nat) (x : Int) : Option Int :=
  let first := q.rowStart r
  let next := x + -((recBase q.dst : Int) + x) % 128
  if x ≤ first then some first else if next < first + rqLength q.rq then some next else none

/-- The packet that follows one in ascending destination order, by its offset and row; the rows of one offset in their order. -/
def CopyReq.nextPacket (q : CopyReq) (last : Option (Int × Nat)) : Option (Int × Nat) :=
  (List.range (rqCount q.rq)).foldl (fun best r =>
    let from_ := match last with
      | none => some (q.rowStart r)
      | some l => q.packetFrom r (if l.2 < r then l.1 else l.1 + 1)
    match from_, best with
    | none, b => b
    | some x, none => some (x, r)
    | some x, some b => if x < b.1 then some (x, r) else some b) none

/-- The transfer with a packet as its next one; none left puts its row behind the last. -/
def Transfer.aim (t : Transfer) (p : Option (Int × Nat)) : Transfer :=
  match p with
  | some (x, r) => { t with row := r, byte := (x - t.req.rowStart r).toNat }
  | none => { t with row := rqCount t.req.rq, byte := 0 }

/-- The next packet of a transfer: source and destination offsets of its first byte, and its length; packets run in
ascending destination order, each within one destination line (09 R219, R221). -/
def Transfer.packet (t : Transfer) : Int × Int × Nat :=
  let q := t.req
  let de := q.rowStart t.row + t.byte
  let se := rqSrcOff q.rq + permRow q.srcIdx t.row * recStride0 q.src + t.byte
  (se, de, min (128 - wrap64 (recBase q.dst + de) % 128) (rqLength q.rq - t.byte))

/-- The transfer past its next packet. -/
def Transfer.pass (t : Transfer) : Transfer :=
  { (t.aim (t.req.nextPacket (some (t.req.rowStart t.row + t.byte, t.row)))) with next := t.next + 1 }

/-! ### Pins (04 R90) -/

/-- The SRAM view that the engine writes for a transfer: where its offset 0 lies, and its size; none for other memories, for another
chip, and where a handler stores (09 R219, R222, R223; log 90). -/
def State.destView (s : State) (c : Nat) (q : CopyReq) : Option (Nat × Nat) :=
  let sp := recSpace q.dst
  let owner := if rqFar q.rq then rqCore q.rq else if sp = 2 then recOwner q.dst else s.coreId q.asid c
  let at_ := s.phys owner
  if rqHandler q.rq != 0 || chipOf owner != s.chip q.asid then none
  else if rqFar q.rq || sp = 3 then some (hedgeAt (hedgeKey at_) 0, Config.hedgeBytes)
  else if sp = 1 || sp = 2 then
    let view := privateView (s.core at_).csr.lsplit q.cls
    some (sramAt at_ view.1, view.2)
  else none

/-- The lines of a view that a record's range of offsets covers, within its extent where a bounds mode holds. -/
def viewLines (view : Nat × Nat) (r : Nat) (lo hi : Int) : List Nat :=
  let lo := if recBounds r = 0 then lo else max lo 0
  let hi := if recBounds r = 0 then hi else min hi (recExtent r)
  let a := (max ((recBase r : Int) + lo) 0).toNat
  let b := (min ((recBase r : Int) + hi) (view.2 : Int)).toNat
  if a < b then (List.range (lineOf (view.1 + b - 1) + 1 - lineOf (view.1 + a))).map (lineOf (view.1 + a) + ·) else []

/-- The lines that a transfer pins. -/
def State.copyLines (s : State) (c : Nat) (q : CopyReq) : List Nat :=
  match s.destView c q with
  | none => []
  | some v => ((List.range (rqCount q.rq)).flatMap fun r => viewLines v q.dst (q.rowStart r) (q.rowStart r + rqLength q.rq)).eraseDups

/-- The line of a transfer's next packet in the view it writes. -/
def State.nextLine (s : State) (c : Nat) (t : Transfer) : Option Nat :=
  if !t.more then none else (s.destView c t.req).map fun v => lineOf (v.1 + wrap64 (recBase t.req.dst + t.packet.2.1))

/-- Lines pinned at an operation's issue. -/
def State.pinAll (s : State) (l : List Nat) : State := l.foldl State.pin s
def State.anyPinned (s : State) (l : List Nat) : Bool := l.any s.pins.contains

/-- Pins cleared (04 R90): threads and engines that wait at a line go on, and operations that wait at their issue. -/
def State.releasePin (s : State) (line : Nat) : State :=
  let t := (s.unpin line).wakeKey (pinKey line)
  t.cores.foldl (fun t e =>
    let t := match e.2.q.cpq with
      | q :: _ => if (t.copyLines e.1 q).contains line then t.postOnce (.copyAccept e.1) else t
      | [] => t
    if e.2.q.chq.isEmpty && e.2.units.chains.isEmpty then t else t.postOnce (.chainCommandAccept e.1)) t
def State.releasePins (s : State) (l : List Nat) : State := l.foldl State.releasePin s

/-- The engine goes on while some channel is ready. -/
def State.goOn (s : State) (c : Nat) : State :=
  if (s.core c).nextChan.isSome then s.postOnce (.copyPacketStart c) else s

/-- A transfer is complete: its record, if it has one (of a job that has not ended: 17 R402), and the watermark (05 R118,
R120). -/
def State.finishTransfer (s : State) (c ch id : Nat) : State :=
  match (s.core c).units.transfers.find? fun t => t.is ch id with
  | none => s
  | some t =>
    if t.done then s
    else
      let st := t.status.getD 0
      let s := (s.modTransfer c ch id fun t => { t with done := true, wait := none, lines := [] }).releasePins t.lines
      let s := if (rqEvent t.req.rq || st != 0) && !s.dropsFor (dieOf c) t.req.asid then s.arrive c 4 (completionRecord 0 ch st id) t.tc else s
      let s := s.advance c ch
      (if (s.core c).q.cpq.isEmpty then s else s.postOnce (.copyAccept c)).goOn c

/-- A packet's bytes performed at its destination (09 R223, 12 R291). -/
def State.landPacket (s : State) (c : Nat) (t : Transfer) (p : Packet) : State :=
  if p.mask = 0 then s
  else
    let (ts, s) := s.engineWrite c p.line p.data p.mask t.req.t0
    s.modTransfer c t.req.chan t.req.id fun t => { t with tc := max t.tc ts }

/-- A line whose last packet has landed is pinned no more (04 R90). -/
def State.endLine (s : State) (c ch id line : Nat) : State :=
  match (s.core c).units.transfers.find? fun t => t.is ch id && !t.done with
  | none => s
  | some t =>
    if !t.lines.contains line || t.flying.any (fun p => p.line == line && p.mask != 0) || s.nextLine c t == some line then s
    else (s.modTransfer c ch id fun t => { t with lines := t.lines.filter (· != line) }).releasePin line

/-- Messages of a landing packet that has not yet come to a porter's handler are taken out of the way. -/
def State.loseLanding (s : State) (asid : Nat) (l : LandFrom) : State :=
  let mine := fun (i : PorterItem) => i.land == some l && i.asid == asid
  let cutOf := fun (i : Instr) => match i with
    | .landingPacketArrival _ m => if mine m then some m.cut else none
    | .activeMessageArrival _ m => if mine m then some m.cut else none
    | _ => none
  let s := (s.net.filterMap cutOf).foldl (fun s b => s.countGot asid b) s
  { s with net := s.net.filter (fun i => (cutOf i).isNone), outbox := s.outbox.filter (fun o => (cutOf o.msg).isNone),
           cores := s.cores.map fun e => if e.2.work.porterQ.any mine then
             (e.1, { e.2 with work := { e.2.work with porterQ := e.2.work.porterQ.filter fun i => !mine i } }) else e }

/-- A transfer ends with a status (09 R222): each packet in flight is performed or not (log 5); ADDRSPACE freezes the
channel and is reported to Ozine (14 R322). -/
def State.endTransfer (s : State) (c ch id status : Nat) : State :=
  match (s.core c).units.transfers.find? fun t => t.is ch id && !t.done with
  | none => s
  | some t =>
    let s := t.flying.foldl (fun s p =>
      let (b, s) := s.takeBit
      if p.mask != 0 then (if b then s.landPacket c t p else s)
      else if b then s
      else s.loseLanding t.req.asid { core := s.coreId t.req.asid c, chan := ch, id := id, pkt := p.pkt }) s
    let s := s.modTransfer c ch id fun t => { t with status := some status, flying := [] }
    let s := if status = 0x08 then
        (s.modCore c fun k => { k with units := { k.units with frozen := k.units.frozen.filter (· != ch) ++ [ch] } }).signal 7 c ch
      else s
    s.finishTransfer c ch id

/-! ### Acceptance -/

/-- COPY_ACCEPT (05 R120; 09 R221): the head of CPQ, unless its channel is full or frozen, or a line it is to write is pinned; the
entries behind it wait with it. Accepted, it pins its lines (04 R90). -/
def execCopyAccept (c : Nat) (s : State) : Out := .next <|
  let k := s.core c
  match k.q.cpq with
  | [] => s
  | r :: rest =>
    let open_ := k.units.transfers.filter fun t => t.req.chan == r.chan && !t.done
    let lines := s.copyLines c r
    if k.units.frozen.contains r.chan || Config.transferLimit ≤ open_.length || k.csr.stopped || s.jobStopped r.asid
        || s.anyPinned lines then s
    else
      let t : Transfer := { req := r, tc := r.t0, lines := lines }
      let s := s.modCore c fun k => { k with q := { k.q with cpq := rest },
                                             units := { k.units with transfers := k.units.transfers ++ [t.aim (r.nextPacket none)] } }
      let s := s.pinAll lines
      (if rest.isEmpty then s else s.postOnce (.copyAccept c)).goOn c

/-! ### Packets -/

/-- A destination of spaces 1 to 3 on this chip whose owner is in service and that is not open to the transfer's ASID (09 R222). -/
def State.destClosed (s : State) (c : Nat) (q : CopyReq) : Bool :=
  let sp := recSpace q.dst
  let owner := if sp = 2 then recOwner q.dst else s.coreId q.asid c
  let at_ := if sp = 2 then s.phys owner else c
  chipOf owner == s.chip q.asid && (sp != 2 || (s.rename owner).st == 0)
    && (((sp == 1 || sp == 2) && !s.viewOpen at_ q.asid q.cls) || (sp == 3 && (s.core c).csr.shasid != q.asid))

/-- Where a packet's destination bytes lie: a far hedge's scratchpad is that of the named core's hedge (09 R219, R222). -/
def State.packetPlace (s : State) (c : Nat) (q : CopyReq) (de : Int) (n : Nat) : EFind × State :=
  if !rqFar q.rq then
    if s.destClosed c q then (.stop (.status 0x03), s) else s.efind c q.asid q.cls q.dst de n .store
  else
    let dst := rqCore q.rq
    let off := wrap64 (recBase q.dst + de)
    let own := s.phys dst
    let a := hedgeAt (hedgeKey own) off
    if chipOf dst != s.chip q.asid then (.chip dst off, s)
    else if (s.rename dst).st != 0 then (.stop (.status 0x05), s)
    else if (s.core own).csr.shasid != q.asid || Config.hedgeBytes < off + n then (.stop (.status 0x08), s)
    else if s.sharedPage a then (.stop (.wait (sramKey (a / 4096))), s.post (.sramPageCopy (a / 4096)))
    else (.at_ a (some own), s)

/-- The registers of a landing handler (09 R223). -/
def landRegs (off : Int) (n id chan core data : Nat) : List (Nat × Word) :=
  [(0, BitVec.ofInt 64 off), (1, BitVec.ofNat 64 n), (2, BitVec.ofNat 64 id), (3, BitVec.ofNat 64 (chan * 2 ^ 24 + core))]
    ++ (List.range 16).map fun i => (16 + i, BitVec.ofNat 64 (data / 2 ^ (64 * i)))

/-- The wait, or the status, with which a packet does not start. -/
def State.stopPacket (s : State) (c : Nat) (t : Transfer) (e : EStop) : State :=
  match e with
  | .status n => s.endTransfer c t.req.chan t.req.id n
  | .wait key => s.modTransfer c t.req.chan t.req.id fun t => { t with wait := some key }

/-- A packet of another chip's destination: an active message writes it, and the other chip tells when it has been performed (04
R98; 09 R223; log 28). -/
def State.packetAway (s : State) (c : Nat) (t : Transfer) (owner off n data : Nat) : State :=
  let q := t.req
  let item : PorterItem :=
    { blk := 0, off := 0, asid := q.asid, cls := q.cls, pt := q.t0, regs := [], cut := s.cutBit c q.asid,
      land := some { core := s.coreId q.asid c, chan := q.chan, id := q.id, pkt := t.next },
      msg := none, wr := some { offset := off, bytes := n, value := data, op := if rqFar q.rq then 13 else 0, h := 0 } }
  s.sendTo q.asid owner item.cut (.activeMessageArrival owner item)

/-- A packet for a landing handler, sent to the destination core's porter (09 R223). -/
def State.packetHandler (s : State) (c : Nat) (t : Transfer) (de : Int) (n data : Nat) : State :=
  let q := t.req
  let own := s.coreId q.asid c
  let dst := if recSpace q.dst = 2 then recOwner q.dst else own
  let item : PorterItem :=
    { blk := rqHandler q.rq, off := rqEntry q.rq, asid := q.asid, cls := q.cls, pt := q.t0,
      regs := landRegs (recBase q.dst + de) n q.id q.chan own data, cut := s.cutBit c q.asid,
      land := some { core := own, chan := q.chan, id := q.id, pkt := t.next }, msg := none, wr := none }
  s.sendTo q.asid dst item.cut (.landingPacketArrival dst item)

/-- A transfer whose last packet has started and landed completes. -/
def State.checkTransfer (s : State) (c ch id : Nat) : State :=
  match (s.core c).units.transfers.find? fun t => t.is ch id && !t.done with
  | some t => if !t.more && t.flying.isEmpty then s.finishTransfer c ch id else s
  | none => s

/-- A packet with its bytes read: it flies to its destination. -/
def State.sendPacket (s : State) (c : Nat) (t : Transfer) (de : Int) (lo hi data : Nat) (ts : Nat) : State :=
  let q := t.req
  let go := fun (s : State) (p : Packet) => s.modTransfer c q.chan q.id fun t =>
    { t.pass with tc := max t.tc ts, flying := t.flying ++ [p] }
  let skip := fun (s : State) => (s.modTransfer c q.chan q.id fun t => { t.pass with tc := max t.tc ts }).checkTransfer c q.chan q.id
  if hi = lo then skip s
  else
    let m := hi - lo
    let v := data / 2 ^ (8 * lo) % 2 ^ (8 * m)
    match s.packetPlace c q (de + lo) m with
    | (.stop e, s) => s.stopPacket c t e
    | (.chip owner off, s) =>
      go (if rqHandler q.rq != 0 then s.packetHandler c t (de + lo) m v else s.packetAway c t owner off m v) { pkt := t.next, bytes := m }
    | (.at_ a owner, s) =>
      let line := lineOf a
      if rqHandler q.rq != 0 then go (s.packetHandler c t (de + lo) m v) { pkt := t.next, bytes := m, remote := owner }
      else
        let sh := a % 128 * 8
        let p : Packet := { pkt := t.next, line := line, mask := ones (8 * m) * 2 ^ sh, data := v * 2 ^ sh, remote := owner }
        (go s p).post (.copyPacketLanding c q.chan q.id t.next)

/-- The source bytes of a packet: bytes out of the record's range read as zero, or end the transfer (09 R222). -/
def State.readPacket (s : State) (c : Nat) (q : CopyReq) (se : Int) (n : Nat) : Except (EStop × State) (Nat × Nat × State) :=
  match inExtent q.src se n with
  | none => .error (.status 0x04, s)
  | some (lo, hi) =>
    if hi = lo then .ok (0, q.t0, s)
    else match s.readBytes c q.asid q.cls q.src q.t0 (se + lo) (hi - lo) with
      | .error e => .error e
      | .ok (v, ts, s) => .ok (v * 2 ^ (8 * lo), ts, s)

/-- COPY_PACKET_START (09 R221, R222). -/
def execCopyPacketStart (c : Nat) (s : State) : Out := .next <|
  match (s.core c).nextChan with
  | none => s
  | some t =>
    if (s.core c).csr.stopped then s
    else
      let s := s.modCore c fun k => { k with units := { k.units with lastChan := t.req.chan } }
      let (se, de, n) := t.packet
      let s := match inExtent t.req.dst de n with
        | none => s.endTransfer c t.req.chan t.req.id 0x04
        | some (lo, hi) =>
          match s.readPacket c t.req se n with
          | .error (e, s) => s.stopPacket c t e
          | .ok (v, ts, s) => s.sendPacket c t de lo hi v ts
      s.goOn c

/-- COPY_PACKET_LANDING (09 R222, R223; 05 R120): a packet's bytes are performed, or its handler has ended, or another chip has
performed it; above bit 32 of the packet number stands the status with which such a packet failed. A packet for another core whose
split waits to change stays at its router (04 R86). -/
def execCopyPacketLanding (c ch id pkt : Nat) (s : State) : Out := .next <|
  match (s.core c).units.transfers.find? fun t => t.is ch id && !t.done with
  | none => s
  | some t =>
    match t.flying.find? fun p => p.pkt == pkt % 2 ^ 32 with
    | none => s
    | some p =>
      let gone : Bool := match p.remote with
        | some o => (s.core o).csr.stopped
        | none => false
      let drop := fun (s : State) => s.modTransfer c ch id fun t => { t with flying := t.flying.filter fun q => q.pkt != p.pkt }
      let held := p.mask != 0 && p.remote.any s.splitWaits
      if pkt / 2 ^ 32 != 0 then (drop s).endTransfer c ch id (pkt / 2 ^ 32)
      else if gone && p.mask != 0 then (drop s).post (.errorMessageArrival (.transfer c ch id))
      else if held then s.after 8 (.copyPacketLanding c ch id pkt)
      else (((drop (s.landPacket c t p)).endLine c ch id p.line).checkTransfer c ch id).goOn c

/-! ### Frozen channels (14 R322) -/

/-- A channel is released. -/
def State.thaw (s : State) (c ch : Nat) : State :=
  ((s.modCore c fun k => { k with units := { k.units with frozen := k.units.frozen.filter (· != ch) } }).postOnce (.copyAccept c)).goOn c

/-- CHANNEL_RESUME (14 R322). -/
def execChannelResume (c ch : Nat) (s : State) : Out := .next (s.thaw c ch)

/-- CHANNEL_FLUSH (14 R322): the channel's entries in CPQ end with ADDRSPACE, in their order. -/
def execChannelFlush (c ch : Nat) (s : State) : Out := .next <|
  if !(s.core c).units.frozen.contains ch then s
  else
    let l := (s.core c).q.cpq.filter fun r => r.chan == ch
    let s := s.modCore c fun k => { k with
      q := { k.q with cpq := k.q.cpq.filter fun r => r.chan != ch },
      units := { k.units with transfers := k.units.transfers ++ l.map fun r => { req := r, tc := r.t0, status := some 0x08 } } }
    (l.foldl (fun s r => s.finishTransfer c ch r.id) s).thaw c ch

end Sys2Proof.Machine
end

