-- ==== Sys2Proof/Machine/Chain.lean ====
section
/-! DEFINITION. The chain unit (10 R248 to R251): descriptors, streams, operations, the end of a command. -/

namespace Sys2Proof.Machine

/-! ### Descriptors (10 R248) -/

def chD (r : ChainRun) (n : Nat) : Nat := r.d.getD n 0
def chEvent (r : ChainRun) : Bool := bit (chD r 0) 63
def chSat (r : ChainRun) : Bool := bit (chD r 0) 62
def chOps (r : ChainRun) : Nat := fld (chD r 0) 59 3 + 1
def chTwo (r : ChainRun) : Bool := bit (chD r 0) 46
def chCount (r : ChainRun) : Nat := fld (chD r 0) 0 40
def chOffset (r : ChainRun) (n : Nat) : Int := (BitVec.ofNat 64 (chD r n)).toInt
/-- Operation word j, and its fields. -/
def chWord (r : ChainRun) (j : Nat) : Nat := fld (chD r (8 + j / 4)) (16 * (j % 4)) 16
def chConst (r : ChainRun) (n : Nat) : Nat := fld (chD r (5 + n / 2)) (32 * (n % 2)) 32
def chAmax (r : ChainRun) : Bool := (List.range (chOps r)).any fun j => fld (chWord r j) 8 8 == 0x08

/-- The bits of an element of a format that is not described (04 R96); none for untyped and reserved ones. -/
def formatBits (f : Nat) : Option Nat :=
  match f with
  | 0x10 => some 32 | 0x11 => some 16 | 0x12 => some 16 | 0x13 => some 8 | 0x14 => some 8 | 0x15 => some 6 | 0x16 => some 4
  | 0x20 => some 8 | 0x21 => some 4 | _ => none

/-- The floating type of a format code. -/
def formatTy (f : Nat) : Option Ty :=
  match f with
  | 0x10 => some .f32 | 0x11 => some .bf16 | 0x12 => some .f16 | 0x13 => some .e4m3 | 0x14 => some .e5m2 | 0x15 => some .e3m2
  | 0x16 => some .e2m1 | 0x20 => some .s8 | _ => none

/-- An element's value, and its code from a value by 06 R138 at nearest even; INT4 has no type code. -/
def formatNum (f c : Nat) : Num :=
  match formatTy f with
  | some t => t.toNum c
  | none => let v : Int := if 8 ≤ c % 16 then (c % 16 : Nat) - 16 else (c % 16 : Nat); .fin (v < 0) v.natAbs 0
def formatCode (f : Nat) (sat : Bool) (x : Num) : Nat :=
  match formatTy f with
  | some t => t.ofNum .rne sat x
  | none => ((x.toIntIn .rne (-8) 7) % 16).toNat

/-- What an operation word may be: an opcode with an operand that suits it (10 R248, R250). -/
def chWordBreaks (r : ChainRun) (j : Nat) : Bool :=
  let w := chWord r j
  let op := fld w 8 8
  let kind := fld w 6 2
  if chOps r ≤ j then w != 0
  else fld w 0 4 != 0 || op == 0 || 8 < op || kind == 3 || (kind == 2) != (6 ≤ op) || (kind == 1 && !chTwo r)

/-- What the descriptor alone breaks. -/
def chBreaks (r : ChainRun) : Bool :=
  fld (chD r 7) 2 62 != 0 || (r.d.drop 10).any (· != 0) || chCount r == 0 || (List.range 8).any (chWordBreaks r)
    || (chAmax r && chD r 4 % 4 != 0)

/-- What a stream's record breaks with its offset. -/
def chStreamBreaks (r : ChainRun) (rec_ : Nat) (off : Int) : Bool :=
  let f := recFormat rec_
  if f == 0x30 then off % 64 != 0 || chCount r % 64 != 0 || recBase rec_ % 64 != 0
  else match formatBits f with
    | none => true
    | some w => 8 ≤ w && (recBase rec_ + off) % (w / 8 : Nat) != 0

/-! ### Elements -/

/-- Element k of a stream: byte offset, bit in it, bytes that it touches (06 R135). -/
def elemPlace (off : Int) (w k : Nat) : Int × Nat × Nat := (off + (k * w / 8 : Nat), k * w % 8, (k * w % 8 + w + 7) / 8)

/-- The element of greatest index of a region whose bits all lie in bounds (04 R100). -/
def lastInside (off : Int) (w extent : Nat) : Option Nat :=
  let j : Int := 8 * ((extent : Int) - off) / w - 1
  if j < 0 || 8 * off + j * w < 0 then none else some j.toNat

/-- The bytes a stream reads for an element: where, or none for a zero; a status under bounds mode fault, and where the element that
clamp reads instead is misaligned (04 R100; 10 R250). -/
def chainSpot (rec_ : Nat) (off : Int) (w k : Nat) : Except EStop (Option (Int × Nat × Nat)) :=
  let p := elemPlace off w k
  if recBounds rec_ = 0 || (0 ≤ p.1 && p.1 + p.2.2 ≤ recExtent rec_) then .ok (some p)
  else if recBounds rec_ = 1 then .error (.status 0x04)
  else if recBounds rec_ = 3 then .ok none
  else if w % 8 = 0 then
    if recExtent rec_ < p.2.2 then .ok none
    else if (recBase rec_ + (recExtent rec_ - p.2.2)) % (w / 8) != 0 then .error (.status 0x09)
    else .ok (some ((recExtent rec_ - p.2.2 : Nat), 0, p.2.2))
  else .ok ((lastInside off w (recExtent rec_)).map (elemPlace off w))

/-- A stream as it is read: the record, its offset, and the described block read last, by number. -/
structure Stream where
  rec_ : Nat
  off : Int
  blk : Option (Nat × List Num) := none

/-- A described block of a stream read by its element k (06 R142). -/
def State.chainBlock (s : State) (c : Nat) (r : ChainRun) (st : Stream) (k : Nat) : Except (EStop × State) (Nat × Stream × ChainRun × State) :=
  let code := fun (x : Num) => fp32.encode .rne false x
  match chainSpot st.rec_ st.off 512 (k / 64) with
  | .error e => .error (e, s)
  | .ok none => .ok (code (.fin false 0 0), { st with blk := some (k / 64, List.replicate 64 (.fin false 0 0)) }, r, s)
  | .ok (some (e, _, n)) =>
    match s.readBytes c r.req.asid r.req.cls st.rec_ r.req.t0 e n with
    | .error x => .error x
    | .ok (v, ts, s) =>
      match readBlock v with
      | .poisoned => .error (.status 0x01, s)
      | .badFormat => .error (.status 0x06, s)
      | .values l => .ok (code (l.getD (k % 64) .nan), { st with blk := some (k / 64, l) }, { r with tc := max r.tc ts }, s)

/-- Element k of a stream, converted exactly to FP32 (10 R249). -/
def State.chainRead (s : State) (c : Nat) (r : ChainRun) (st : Stream) (k : Nat) : Except (EStop × State) (Nat × Stream × ChainRun × State) :=
  let code := fun (x : Num) => fp32.encode .rne false x
  let q := r.req
  if recFormat st.rec_ = 0x30 then
    match st.blk with
    | some (b, l) => if b = k / 64 then .ok (code (l.getD (k % 64) .nan), st, r, s) else s.chainBlock c r st k
    | none => s.chainBlock c r st k
  else
    let w := (formatBits (recFormat st.rec_)).getD 8
    match chainSpot st.rec_ st.off w k with
    | .error e => .error (e, s)
    | .ok none => .ok (code (.fin false 0 0), st, r, s)
    | .ok (some (e, b, n)) =>
      match s.readBytes c q.asid q.cls st.rec_ q.t0 e n with
      | .error x => .error x
      | .ok (v, ts, s) => .ok (code (formatNum (recFormat st.rec_) (v / 2 ^ b % 2 ^ w)), st, { r with tc := max r.tc ts }, s)

/-- One operation on FP32 codes (10 R249): x, the operand, and the amax so far. -/
def chainOp (op x o amax : Nat) : Nat × Nat :=
  let a := fp32.decode x
  let b := fp32.decode o
  let code := fun (y : Num) => fp32.encode .rne false y
  match op with
  | 0x01 => (code (a.add b), amax)
  | 0x02 => (code (a.add b.neg), amax)
  | 0x03 => (code (a.mul b), amax)
  | 0x04 => (code (a.max b), amax)
  | 0x05 => (code (a.min b), amax)
  | 0x06 => (code (a.max (.fin false 0 0)), amax)
  | 0x07 => (code a.sigmoid, amax)
  | _ => (x, amax32 amax x)

/-- The operations of a command on one element. -/
def chainEval (r : ChainRun) (x y : Nat) : Nat × Nat :=
  (List.range (chOps r)).foldl (fun (a : Nat × Nat) j =>
    let w := chWord r j
    chainOp (fld w 8 8) a.1 (if fld w 6 2 = 1 then y else chConst r (fld w 4 2)) a.2) (x, r.amax)

/-! ### The destination -/

/-- The SRAM lines that a command writes (04 R90). -/
def State.chainLines (s : State) (c : Nat) (r : ChainRun) : List Nat :=
  let q : CopyReq := { rq := [], dst := r.dst, asid := r.req.asid, cls := r.req.cls }
  let bits := if recFormat r.dst = 0x30 then 8 else (formatBits (recFormat r.dst)).getD 8
  match s.destView c q with
  | none => []
  | some v => viewLines v r.dst (chOffset r 2) (chOffset r 2 + (((chCount r * bits + 7) / 8 : Nat) : Int))

/-- The line gathered so far written, and its pin cleared: elements run in ascending order, so it is finished (04 R90; 12 R287,
R291). -/
def State.chainFlush (s : State) (c : Nat) (r : ChainRun) : ChainRun × State :=
  if r.mask = 0 then (r, s)
  else
    let (ts, s) := s.engineWrite c r.line r.data r.mask r.req.t0
    ({ r with tc := max r.tc ts, mask := 0, data := 0, lines := r.lines.filter (· != r.line) },
      if r.lines.contains r.line then s.releasePin r.line else s)

/-- Bytes of the destination within one line, joined to the line gathered. -/
def State.chainPiece (s : State) (c : Nat) (r : ChainRun) (e : Int) (n data mask : Nat) : Except (EStop × State) (ChainRun × State) :=
  let q := r.req
  match s.efind c q.asid q.cls r.dst e n .store with
  | (.stop w, s) => .error (w, s)
  | (.chip owner off, s) =>
    if s.linkDown q.asid owner then .error (.status 0x05, s)
    else
    let item : PorterItem :=
      { blk := 0, off := 0, asid := q.asid, cls := q.cls, pt := q.t0, regs := [], cut := s.cutBit c q.asid, land := none, msg := none,
        wr := some { offset := off, bytes := n, value := data, op := 0, h := if mask = ones (8 * n) then 0 else mask } }
    .ok (r, s.sendTo q.asid owner item.cut (.activeMessageArrival owner item))
  | (.at_ a _, s) =>
    let sh := a % 128 * 8
    let join := fun (r : ChainRun) (s : State) =>
      Except.ok ({ r with line := lineOf a, data := blend r.data (data * 2 ^ sh) (mask * 2 ^ sh), mask := r.mask ||| mask * 2 ^ sh }, s)
    if r.mask != 0 && r.line != lineOf a then
      let (r, s) := s.chainFlush c r
      join r s
    else join r s

def State.chainPieces (s : State) (c : Nat) (r : ChainRun) (e : Int) (data mask : Nat) : List (Nat × Nat) → Except (EStop × State) (ChainRun × State)
  | [] => .ok (r, s)
  | g :: t =>
    match s.chainPiece c r (e + g.1) g.2 (data / 2 ^ (8 * g.1) % 2 ^ (8 * g.2)) (mask / 2 ^ (8 * g.1) % 2 ^ (8 * g.2)) with
    | .error x => .error x
    | .ok (r, s) => s.chainPieces c r e data mask t

/-- An element or a block reaches the destination, under its record's bounds (04 R100). -/
def State.chainPut (s : State) (c : Nat) (r : ChainRun) (w k data : Nat) : Except (EStop × State) (ChainRun × State) :=
  let p := elemPlace (chOffset r 2) w k
  if recBounds r.dst = 0 || (0 ≤ p.1 && p.1 + p.2.2 ≤ recExtent r.dst) then
    s.chainPieces c r p.1 (data * 2 ^ p.2.1) (ones w * 2 ^ p.2.1) (lineCuts (wrap64 (recBase r.dst + p.1)) p.2.2)
  else if recBounds r.dst = 1 then .error (.status 0x04, s)
  else .ok (r, s)

/-! ### The run of a command -/

/-- How a run of elements stops: all done, or at an element, with its cause. -/
structure ChainStop where
  run : ChainRun
  st : State
  stop : Option EStop

/-- Elements from the next one on, in ascending order; `group` holds the results of a described block not yet complete. -/
def State.chainRun (s : State) (c : Nat) (r : ChainRun) (a b : Stream) (group : List Nat) : Nat → ChainStop
  | 0 => ⟨r, s, none⟩
  | fuel + 1 =>
    let k := r.next
    let described := recFormat r.dst = 0x30
    let at_ := if described then k / 64 * 64 else k
    let halt := fun (e : EStop × State) => ChainStop.mk { r with next := at_ } e.2 (some e.1)
    match s.chainRead c r a k with
    | .error e => halt e
    | .ok (x, a, r1, s) =>
      match (if chTwo r then s.chainRead c r1 b k else .ok (0, b, r1, s)) with
      | .error e => halt e
      | .ok (y, b, r1, s) =>
        let (x, amax) := chainEval r1 x y
        let r1 := { r1 with amax := amax }
        if described then
          let group := group ++ [x]
          if group.length < 64 then s.chainRun c { r1 with next := k + 1 } a b group fuel
          else match s.chainPut c r1 512 (k / 64) (encodeBlock (blockFmtOf (fld (chD r 7) 0 2)) none group) with
            | .error e => halt e
            | .ok (r2, s) => s.chainRun c { r2 with next := k + 1 } a b [] fuel
        else
          let f := recFormat r.dst
          match s.chainPut c r1 ((formatBits f).getD 8) k (formatCode f (chSat r) (fp32.decode x)) with
          | .error e => halt e
          | .ok (r2, s) => s.chainRun c { r2 with next := k + 1 } a b [] fuel

/-- The amax word's one access (09 R217). -/
def State.chainAmax (s : State) (c : Nat) (r : ChainRun) : Except (EStop × State) (ChainRun × State) :=
  if !chAmax r then .ok (r, s)
  else match s.efind c r.req.asid r.req.cls flatRecord (chD r 4 : Nat) 4 .atomic with
    | (.stop w, s) => .error (w, s)
    | (.chip _ _, s) => .error (.status 0x08, s)
    | (.at_ a _, s) =>
      if (s.poisonAt a 4).isSome then .error (.status 0x01, s)
      else
        let sh := a % 128 * 8
        let (ts, s) := s.engineWrite c (lineOf a) (amax32 (s.mem.read a 4) r.amax * 2 ^ sh) (ones 32 * 2 ^ sh) r.req.t0
        .ok ({ r with tc := max r.tc ts }, s)

/-! ### Acceptance and end (10 R250) -/

/-- A command of a thread has ended: its FENCEB no longer waits, and observes it (08 R192, 12 R292). -/
def Ctx.endCmd (id tc : Nat) (x : Ctx) : Ctx :=
  if x.cmds.contains id then { x with cmds := x.cmds.filter (· != id), cmdTc := max x.cmdTc tc } else x
def State.endCmd (s : State) (c id tc : Nat) : State :=
  s.modCore c fun k => { k with
    ctxs := k.ctxs.map fun e => (e.1, e.2.endCmd id tc),
    work := { k.work with saved := k.work.saved.map fun e => (e.1, { e.2 with ctx := e.2.ctx.endCmd id tc }) } }

/-- The command ends with a status. -/
def State.chainEnd (s : State) (c : Nat) (r : ChainRun) (status : Nat) : State :=
  let s := ((s.modCore c fun k => { k with units := { k.units with chain := none } }).releasePins r.lines).endCmd c r.req.id r.tc
  let s := if (chEvent r || status != 0) && !s.dropsFor (dieOf c) r.req.asid then s.arrive c 4 (completionRecord 1 0 status r.req.addr) r.tc else s
  if (s.core c).q.chq.isEmpty && (s.core c).units.chains.isEmpty then s else s.postOnce (.chainCommandAccept c)

/-- The unit keeps its command as it stands. -/
def State.chainKeep (s : State) (c : Nat) (r : ChainRun) : State :=
  s.modCore c fun k => { k with units := { k.units with chain := some r } }

/-- The named buffer entries of a command, as they stand now (03 R72; 10 R250). -/
def State.chainRecords (s : State) (c : Nat) (r : ChainRun) : Option Nat × Option Nat × Option Nat × State :=
  let (a, s) := s.record? c 64 (fld (chD r 0) 53 6)
  let (d, s) := s.record? c 64 (fld (chD r 0) 40 6)
  let (b, s) := if chTwo r then s.record? c 64 (fld (chD r 0) 47 6) else (some flatRecord, s)
  (a, b, d, s)

/-- The status with which a command's records, as read, end it. -/
def chRecordBreaks (r : ChainRun) : Bool :=
  chStreamBreaks r r.src (chOffset r 1) || chStreamBreaks r r.dst (chOffset r 2) || (chTwo r && chStreamBreaks r r.src2 (chOffset r 3))
    || (fld (chD r 7) 0 2 != 0 && recFormat r.dst != 0x30)

/-- The descriptor and the records are read and checked, and the lines to be written pinned; a status ends the command, or it waits
at its issue (04 R90). -/
def State.chainRead0 (s : State) (c : Nat) (r : ChainRun) : State :=
  if r.req.addr % 128 != 0 then s.chainEnd c r 0x09
  else match s.readVirtual c r.req.asid r.req.t0 r.req.addr 16 with
    | .error (.status n, s) => s.chainEnd c r n
    | .error (.wait key, s) => s.chainKeep c { r with wait := some key }
    | .ok (v, ts, s) =>
      let r := { r with d := (List.range 16).map fun i => fld v (64 * i) 64, tc := max r.tc ts }
      let owner := r.req.asid == (s.core c).csr.shasid
      let names := [fld (chD r 0) 53 6, fld (chD r 0) 40 6] ++ if chTwo r then [fld (chD r 0) 47 6] else []
      if chBreaks r then s.chainEnd c r 0x09
      else if !owner && names.any (· != 0) then s.chainEnd c r 0x03
      else match s.chainRecords c r with
        | (some a, some b, some d, s) =>
          let r := { r with src := a, src2 := b, dst := d }
          let lines := s.chainLines c r
          if chRecordBreaks r then s.chainEnd c r 0x09
          else match lines.find? s.pins.contains with
            | some l => s.chainKeep c { req := r.req, tc := r.tc, wait := some (pinKey l) }
            | none => ((s.pinAll lines).chainKeep c { r with lines := lines }).postOnce (.chainCommandComplete c)
        | (_, _, _, s) => s.chainEnd c r 0x03

/-- CHAIN_COMMAND_ACCEPT (10 R248, R250): one command at a time, one that a rollback restored first, then in the order of CHQ; those of a stopped job stay (17
R402). -/
def execChainCommandAccept (c : Nat) (s : State) : Out := .next <|
  let k := s.core c
  if k.units.chain.isSome || k.csr.stopped then s
  else match k.units.chains.find? fun r => !s.jobStopped r.req.asid with
  | some r =>
    if s.anyPinned r.lines then s
    else
      let unit := fun (u : CoreUnits) => { u with chain := some r, chains := u.chains.erase r }
      ((s.pinAll r.lines).modCore c fun k => { k with units := unit k.units }).post (.chainCommandComplete c)
  | none => match k.q.chq with
  | [] => s
  | q :: rest =>
    if s.jobStopped q.asid then s
    else
      let r : ChainRun := { req := q, tc := q.t0 }
      (s.modCore c fun k => { k with q := { k.q with chq := rest }, units := { k.units with chain := some r } }).chainRead0 c r

/-- Before the first element, entries changed since acceptance may take effect, wholly (10 R250; log 5): the command then stands as
if it had been accepted with them. None when that ends it, or makes it wait. -/
def State.chainChanged (s : State) (c : Nat) (r : ChainRun) : Option ChainRun × State :=
  if r.next != 0 then (some r, s)
  else
    let (a, b, d, s) := s.chainRecords c r
    if a == some r.src && b == some r.src2 && d == some r.dst then (some r, s)
    else
      let (t, s) := s.takeBit
      if !t then (some r, s)
      else match a, b, d with
        | some a, some b, some d =>
          let new := { r with src := a, src2 := b, dst := d, lines := [] }
          let s := s.releasePins r.lines
          let lines := s.chainLines c new
          if chRecordBreaks new then (none, s.chainEnd c new 0x09)
          else match lines.find? s.pins.contains with
            | some l => (none, s.chainKeep c { req := r.req, tc := r.tc, wait := some (pinKey l) })
            | none => (some { new with lines := lines }, s.pinAll lines)
        | _, _, _ => (none, s.chainEnd c r 0x03)

/-- CHAIN_COMMAND_COMPLETE (10 R249, R250): the elements from where the command stands, the amax word, and its end; a page
or a line that it must wait for leaves it waiting (04 R90, R105). -/
def execChainCommandComplete (c : Nat) (s : State) : Out := .next <|
  match (s.core c).units.chain with
  | none => s
  | some r =>
    if (s.core c).csr.stopped then s
    else if r.wait.isSome then s
    else if r.d.isEmpty then s.chainRead0 c r
    else match s.chainChanged c r with
    | (none, s) => s
    | (some r, s) =>
      let x := s.chainRun c r { rec_ := r.src, off := chOffset r 1 } { rec_ := r.src2, off := chOffset r 3 } [] (chCount r - r.next)
      let close := fun (s : State) (r : ChainRun) =>
        match s.chainAmax c r with
        | .error (.status n, s) => s.chainEnd c r n
        | .error (.wait key, s) => s.chainKeep c { r with wait := some key }
        | .ok (r, s) => s.chainEnd c r 0
      match x.stop with
      | some (.wait key) => x.st.chainKeep c { x.run with wait := some key }
      | some (.status n) =>
        let (r, s) := x.st.chainFlush c x.run
        s.chainEnd c r n
      | none =>
        let (r, s) := x.st.chainFlush c x.run
        close s r

end Sys2Proof.Machine
end

