-- ==== Sys2Proof/Machine/Sched.lean ====
section
/-! DEFINITION. The task scheduler of a die (13 R297 to R308): records, the view, task queues and hold rings, selection,
issue and retirement. A record is named by its address with its origin's ASID above bit 48. -/

namespace Sys2Proof.Machine

/-! ### Records (13 R298) -/

def recName (asid addr : Nat) : Nat := asid * 2 ^ 48 + addr
def recAddr (name : Nat) : Nat := name % 2 ^ 48
def recAsid (name : Nat) : Nat := name / 2 ^ 48

def tkKind (d : Nat) : Nat := fld d 61 3
def tkClass (d : Nat) : Nat := fld d 59 2
def tkCond (d : Nat) : Bool := bit d 58
def tkSense (d : Nat) : Bool := bit d 57
def tkSized (d : Nat) : Bool := bit d 56
def tkFollow (d : Nat) : Bool := bit d 55
def tkSuccs (d : Nat) : Nat := fld d 32 16
def tkAsid (d : Nat) : Nat := fld d 0 16

/-- The core through which a die's scheduler translates addresses. -/
def schedCore (die : Nat) : Nat := die * 8192

def State.record! (s : State) (die name : Nat) : Option Rec := (s.die die).recs.find? fun r => r.addr == name
def State.modRec (s : State) (die name : Nat) (f : Rec → Rec) : State :=
  s.modDie die fun d => { d with recs := d.recs.map fun r => if r.addr == name then f r else r }
def State.dropRec (s : State) (die name : Nat) : State :=
  s.modDie die fun d => { d with recs := d.recs.filter fun r => r.addr != name }

/-- Doubles at a virtual address of a record's ASID, read by the scheduler at a time. -/
def State.schedRead (s : State) (die asid t0 va n : Nat) : Except (EStop × State) (Nat × Nat × State) :=
  s.readVirtual (schedCore die) asid t0 va n

/-- One atomic access of the scheduler to a double: its old value, and the time. -/
def State.schedAtomic (s : State) (die asid t0 va : Nat) (f : Nat → Nat) : Except (EStop × State) (Nat × Nat × State) :=
  match s.efind (schedCore die) asid 1 flatRecord (va : Nat) 8 .atomic with
  | (.stop w, s) => .error (w, s)
  | (.chip _ _, s) => .error (.status 0x08, s)
  | (.at_ a _, s) =>
    if (s.poisonAt a 8).isSome then .error (.status 0x01, s)
    else
      let old := s.mem.read a 8
      let sh := a % 128 * 8
      let (ts, s) := s.engineWrite (schedCore die) (lineOf a) (f old % 2 ^ 64 * 2 ^ sh) (ones 64 * 2 ^ sh) t0
      .ok (old, ts, s)

/-- A die's scheduler is a waiter at a counter's home (05 R129; 13 R303). -/
def State.schedJoin (s : State) (die asid va name : Nat) : State :=
  match s.ozineAddr die asid va with
  | none => s
  | some p =>
    let s := s.modDie die fun d => { d with joiners := d.joiners ++ [(p, schedWaiter, 0, name)] }
    if s.mem.read p 8 = 0 then s.post (.joinWake die p) else s

/-! ### Task queues and hold rings (05 R116, R117) -/

/-- The next selection is due 16 cycles after the last (13 R304). -/
def State.wantSelect (s : State) (die : Nat) : State :=
  if s.timers.any fun t => t.2 == .taskSelect die then s
  else s.after ((s.die die).lastSelect + 16 - s.now) (.taskSelect die)

def Die.taskRing (d : Die) (cls : Nat) : Ring Nat := Tab.getD d.tasks cls {}
def Die.holdRing (d : Die) (cls : Nat) : Ring Nat := Tab.getD d.holds cls {}

/-- A class's task queue has room, and no older record is held. -/
def Die.queueOpen (d : Die) (cls : Nat) : Bool := !(d.taskRing cls).full && (d.holdRing cls).occupancy == 0

/-- The key of a wait for a place in a class's rings. -/
def ringKey (cls : Nat) : Nat := 2 ^ 62 + cls

/-- A record whose address must wait for a place in its class's rings (05 R117). -/
def State.ringBlocked (s : State) (die name : Nat) : Bool :=
  (s.record! die name).any fun r => r.st == .waiting && r.wait == some (ringKey r.cls)

/-- How a root list under way is named among the records that the scheduler is told of. -/
def RootRun.name (q : RootRun) : Nat := 2 ^ 64 + recName q.asid q.header

/-- A queued record's address enters its class's task queue, or the hold ring; none when both are full. -/
def State.enqueueRec (s : State) (die cls name : Nat) : Option State :=
  let d := s.die die
  if d.queueOpen cls then
    let r := (d.taskRing cls).push [name]
    let s := s.modDie die fun d => { d with tasks := Tab.put d.tasks cls r.1 }
    some (if r.2 then s.signal 9 die cls else s)
  else if !(d.holdRing cls).full then
    let r := (d.holdRing cls).push [name]
    let s := s.modDie die fun d => { d with holds := Tab.put d.holds cls r.1 }
    some (if r.2 then s.signal 9 die (cls + 4) else s)
  else none

/-- A record becomes queued; while its rings are full it waits for a place in them (05 R117). -/
def State.queueRec (s : State) (die name : Nat) : State :=
  match s.record! die name with
  | none => s
  | some r =>
    match s.enqueueRec die r.cls name with
    | some s => (s.modRec die name fun r => { r with st := .queued, since := s.now, wait := none }).wantSelect die
    | none => s.modRec die name fun r => { r with wait := some (ringKey r.cls) }

/-- Free slots of a task queue are filled from its hold ring, oldest first. -/
def Die.refill (d : Die) (cls : Nat) : Nat → Die
  | 0 => d
  | fuel + 1 =>
    match (d.holdRing cls).all with
    | [] => d
    | name :: _ =>
      if (d.taskRing cls).full then d
      else { d with tasks := Tab.put d.tasks cls ((d.taskRing cls).push [name]).1,
                    holds := Tab.put d.holds cls ((d.holdRing cls).remove name) }.refill cls fuel

/-- Slots of a class's rings have become free: the task queue is filled from its hold ring, records and releases and root lists that
waited for a place go on, in their order, and TKQ entries that waited for room are looked at again (05 R116, R117). -/
def State.fillQueue (s : State) (die cls : Nat) : State :=
  let s := s.modDie die fun d => d.refill cls ((d.holdRing cls).occupancy + 1)
  let d := s.die die
  let room := d.queueOpen cls || !(d.holdRing cls).full
  let first := (d.recs.filter fun r => r.wait == some (ringKey cls) && r.st == .waiting).map Rec.addr
  let then_ := (d.recs.filter fun r => r.wait == some (ringKey cls) && r.st != .waiting).map Rec.addr
  let roots := (d.roots.filter fun q => q.awaits.isSome).map RootRun.name
  let s := if room then (first ++ then_ ++ roots).foldl (fun s n => s.postOnce (.counterZeroWake die n)) s else s
  s.cores.foldl (fun s e => if dieOf e.1 == die && !e.2.q.tkq.isEmpty then s.postOnce (.tkqAccept e.1) else s) s

/-! ### Retirement (13 R299, R307) -/

/-- The job's fault record takes a failed record, or an unusable list entry (14 R320, kind 2). -/
def State.taskFault (s : State) (asid status addr ts : Nat) : State :=
  s.recordFor asid (faultRec 2 asid 0 (status * 2 ^ 48) addr ts)

/-- A result double: outcome, status, number issued, keeping bit 61. -/
def resultOf (old outcome status count : Nat) : Nat :=
  outcome * 2 ^ 62 + fld old 61 1 * 2 ^ 61 + status * 2 ^ 48 + count % 2 ^ 32

/-- A record waits at a page. -/
def State.recWaits (s : State) (die name key : Nat) : State := s.modRec die name fun r => { r with wait := some key }

/-- A failed record leaves the view: the fault record names it. -/
def State.endFailed (s : State) (die : Nat) (r : Rec) (status : Nat) : State :=
  (s.taskFault r.asid status (recAddr r.addr) r.sel).dropRec die r.addr

/-- A record fails: its result says so, once the result's page is there, and the record leaves the view. -/
def State.failRec (s : State) (die : Nat) (r : Rec) (status : Nat) : State :=
  match s.schedAtomic die r.asid r.ts (recAddr r.addr + 56) fun old => resultOf old 3 status r.offered with
  | .ok (_, _, s) => s.endFailed die r status
  | .error (.status _, s) => s.endFailed die r status
  | .error (.wait key, s) =>
    s.modRec die r.addr fun q => { q with st := .retiring, outcome := 3, status := status, wait := some key }

/-- A record considered as it enters the view, or again after a wait: a retired one is dropped and reported; one whose
counter is zero becomes queued; another waits for its counter (13 R303). One that cannot be read fails at its selection. -/
def State.consider (s : State) (die name : Nat) : State :=
  match s.record! die name with
  | none => s
  | some r =>
    match s.schedRead die r.asid r.ts (recAddr name) 8 with
    | .error (.wait key, s) => s.recWaits die name key
    | .error (.status _, s) => s.queueRec die name
    | .ok (v, ts, s) =>
      if fld v (64 * 7 + 62) 2 != 0 then (s.dropRec die name).signal 8 r.asid (recAddr name)
      else
        let s := s.modRec die name fun r => { r with cls := tkClass (fld v 0 64), ts := max r.ts ts, wait := none }
        if fld v 64 64 = 0 then s.queueRec die name else s.schedJoin die r.asid (recAddr name + 8) name

/-- A record enters the view with its origin, once (13 R303). -/
def State.enterView (s : State) (die name header origCls ts : Nat) (redun : Bool) : State :=
  if (s.record! die name).isSome then s
  else
    let r : Rec := { addr := name, asid := recAsid name, header := header, origAsid := recAsid name, origCls := origCls,
                     cls := origCls, since := s.now, ts := ts, redun := redun }
    (s.modDie die fun d => { d with recs := d.recs ++ [r] }).consider die name

/-- One successor released (13 R307): bit 61 for a skipped predecessor, then the count; it enters the view, and the release that
leaves zero puts it in its queue (05 R117). -/
def State.releaseOne (s : State) (die : Nat) (r : Rec) (succ : Nat) : Except (EStop × State) State :=
  let mark := if r.outcome = 2 then
      (match s.schedAtomic die r.asid r.ts (succ + 56) fun old => old ||| 2 ^ 61 with
        | .ok (_, _, s) => Except.ok s
        | .error e => .error e)
    else .ok s
  match mark with
  | .error e => .error e
  | .ok s =>
    match s.schedAtomic die r.asid r.ts (succ + 8) fun old => old + (2 ^ 64 - 1) with
    | .error e => .error e
    | .ok (old, ts, s) =>
      let name := recName r.asid succ
      let s := s.enterView die name r.header r.origCls (ts + 1) r.redun
      let joins := old == 1 && (s.record! die name).any fun q => q.st == .waiting && q.wait.isNone
      .ok (if joins then (s.modRec die name fun q => { q with ts := max q.ts (ts + 1) }).queueRec die name else s)

/-- The retirement counted in its header; answered with whether it was the last, and the time (13 R297). -/
def State.countHeader (s : State) (die : Nat) (r : Rec) : Except (EStop × State) (Bool × Nat × State) :=
  if r.header = 0 then .ok (false, r.ts, s)
  else match s.schedRead die r.asid r.ts r.header 8 with
    | .error e => .error e
    | .ok (h, _, s) =>
      match s.schedAtomic die r.asid r.ts (r.header + 40) fun old => old + 1 with
      | .error e => .error e
      | .ok (old, ts, s) => .ok (old + 1 == fld h (64 * 4) 32, ts, s)

/-- The last retirement stores 1 to its header's completion word (13 R297). -/
def State.completeGraph (s : State) (die : Nat) (r : Rec) : Except (EStop × State) State :=
  match s.schedRead die r.asid r.ts r.header 8 with
  | .error e => .error e
  | .ok (h, _, s) =>
    match s.schedAtomic die r.asid r.ts (fld h (64 * 3) 48) fun _ => 1 with
    | .ok (_, _, s) => .ok s
    | .error e => .error e

/-- Successors from the next one on, then the header's count, then its completion word, then the record is done. A release whose successor finds no place in
its rings keeps its record retiring (05 R117). -/
def State.releaseFrom (s : State) (die name list count : Nat) : Nat → State
  | 0 => s
  | fuel + 1 =>
    match s.record! die name with
    | none => s
    | some r =>
      if r.awaits.any (s.ringBlocked die) then s else
      let n := r.released - 1
      let pass := fun (s : State) => (s.modRec die name fun r => { r with released := r.released + 1, wait := none, awaits := none }).releaseFrom die name list count fuel
      if n < count then
        match s.schedRead die r.asid r.ts (list + 8 * n) 1 with
        | .error (.wait key, s) => s.recWaits die name key
        | .error (.status st, s) => pass (s.taskFault r.asid st (recAddr name) r.sel)
        | .ok (succ, _, s) =>
          if succ % 64 != 0 || 2 ^ 48 ≤ succ then pass (s.taskFault r.asid 0x09 (recAddr name) r.sel)
          else match s.releaseOne die r succ with
            | .error (.wait key, s) => s.recWaits die name key
            | .error (.status st, s) => pass (s.taskFault r.asid st (recAddr name) r.sel)
            | .ok s =>
              match (s.record! die (recName r.asid succ)).filter fun _ => s.ringBlocked die (recName r.asid succ) with
              | some q => s.modRec die name fun r => { r with released := r.released + 1, wait := some (ringKey q.cls), awaits := some q.addr }
              | none => pass s
      else if n = count then
        match s.countHeader die r with
        | .error (.wait key, s) => s.recWaits die name key
        | .error (.status _, s) => s.dropRec die name
        | .ok (false, _, s) => s.dropRec die name
        | .ok (true, ts, s) => (s.modRec die name fun r => { r with released := r.released + 1, ts := max r.ts ts, wait := none }).releaseFrom die name list count fuel
      else
        match s.completeGraph die r with
        | .error (.wait key, s) => s.recWaits die name key
        | .error (.status _, s) => s.dropRec die name
        | .ok s => s.dropRec die name

/-- The work of a retiring record, from where it stands: its result, then its releases; a failed one's result is all. -/
def State.retire (s : State) (die name : Nat) : State :=
  match s.record! die name with
  | none => s
  | some r =>
    let d0 := (r.desc.getD 0 0).toNat
    let go := fun (s : State) => s.releaseFrom die name (fld (r.desc.getD 2 0).toNat 0 48) (tkSuccs d0) (tkSuccs d0 + 2)
    if r.outcome = 3 then s.failRec die r r.status
    else if r.released != 0 then go s
    else match s.schedAtomic die r.asid r.ts (recAddr name + 56) fun old => resultOf old r.outcome 0 r.count with
      | .error (.wait key, s) => s.recWaits die name key
      | .error (.status st, s) => s.failRec die r st
      | .ok (_, ts, s) => go (s.modRec die name fun r => { r with released := 1, ts := max r.ts ts, wait := none })

/-- Ozine finds no mapping for the page at which a record waits: it fails; one that has failed has no result to show; one that is releasing has its outcome already,
and goes on to its next successor (13 R307). -/
def State.noPage (s : State) (die : Nat) (r : Rec) : State :=
  if r.outcome = 3 then s.endFailed die r r.status
  else if r.st != .retiring || r.released = 0 then s.failRec die r 0x02
  else if tkSuccs (r.desc.getD 0 0).toNat < r.released then s.dropRec die r.addr
  else
    let s := s.taskFault r.asid 0x02 (recAddr r.addr) r.sel
    (s.modRec die r.addr fun r => { r with released := r.released + 1, wait := none }).retire die r.addr

/-! ### Root lists (13 R297; 05 R117) -/

/-- A root list under way as it stands. -/
def State.keepRoots (s : State) (die : Nat) (q : RootRun) : State :=
  s.modDie die fun d => { d with roots := d.roots.filter (fun o => o.name != q.name) ++ [q] }
def State.dropRoots (s : State) (die name : Nat) : State :=
  s.modDie die fun d => { d with roots := d.roots.filter fun o => o.name != name }

/-- The roots of a graph enter the scheduler's view in list order; a root that cannot be used is reported and passed over, and one
whose address finds no place in its rings holds the list. -/
def State.runRoots (s : State) (die : Nat) (q : RootRun) : Nat → State
  | 0 => s
  | fuel + 1 =>
    if q.count ≤ q.next then s
    else
      let at_ := q.list + 8 * q.next
      let past := { q with next := q.next + 1, wait := none, awaits := none }
      match s.schedRead die q.asid 0 at_ 1 with
      | .error (.status st, s) => (s.taskFault q.asid st at_ 0).runRoots die past fuel
      | .error (.wait key, s) => s.keepRoots die { q with wait := some key }
      | .ok (root, ts, s) =>
        if root % 64 != 0 || 2 ^ 48 ≤ root then (s.taskFault q.asid 0x09 at_ 0).runRoots die past fuel
        else
          let name := recName q.asid root
          let s := s.enterView die name q.header q.cls (ts + 1) q.redun
          if s.ringBlocked die name then s.keepRoots die { past with awaits := some name } else s.runRoots die past fuel

/-- A root list that waited goes on. -/
def State.goRoots (s : State) (die name : Nat) : State :=
  match (s.die die).roots.find? fun q => q.name == name with
  | none => s
  | some q => if q.awaits.any (s.ringBlocked die) then s else (s.dropRoots die name).runRoots die q (q.count + 1)

/-- Ozine finds no mapping for the page of a root list's next entry: that root is not placed. -/
def State.noRootPage (s : State) (die : Nat) (q : RootRun) : State :=
  ((s.dropRoots die q.name).taskFault q.asid 0x02 (q.list + 8 * q.next) 0).runRoots die { q with next := q.next + 1, wait := none } (q.count + 1)

/-- A record's work has ended: done 1, skipped 2. -/
def State.startRetire (s : State) (die name outcome : Nat) : State :=
  (s.modRec die name fun r => { r with st := .retiring, outcome := outcome }).retire die name

/-- A tile of a record has ended with a status, at a time (13 R301, R307). -/
def State.tileEnded (s : State) (die name status ts : Nat) : State :=
  match s.record! die name with
  | none => s
  | some r =>
    if r.outcome = 3 then s
    else if status != 0 then s.failRec die r status
    else
      let s := s.modRec die name fun r => { r with ended := r.ended + 1, ts := max r.ts ts }
      if r.ended + 1 = r.count then s.startRetire die name 1 else s

/-! ### Selection (13 R304 to R307) -/

/-- The matrix command of a tile task as R261 sees it: the operand limits of R259 and R260 do not apply (13 R300). -/
def taskCmdBreaks (d : Nat) : Bool :=
  cmdKind d != 1 || cmdTile d != 0 || fld d 50 2 != 0 || fld d 19 16 != 0 || fld d 12 7 != 0 || cmdPerm d != 0
    || 5 < cmdFmt d false || 5 < cmdFmt d true || kClass (cmdFmt d false) (cmdSparse d) != kClass (cmdFmt d true) (cmdSparse d)
    || (cmdSparse d && (1 < cmdFmt d false || 1 < cmdFmt d true))

/-- What a tile descriptor breaks (13 R300, R301). -/
def State.descBreaks (s : State) (asid : Nat) (l : List Word) : Bool :=
  let d := fun n => (l.getD n 0).toNat
  let cmd := d 0
  let need := fun b => cmdSteps cmd * kBytes (cmdFmt cmd b) (cmdSparse cmd) b
  taskCmdBreaks cmd || fld (d 1) 48 16 != 0 || fld (d 3) 48 16 != 0 || fld (d 2) 0 32 < need false || fld (d 4) 0 32 < need true
    || drainBreaks0 (d 5) || drainPerm (d 5) != 0 || drainBreaks1 (d 6) || !s.validCore asid (drainDst (d 5))
    || fld (d 7) 32 32 != 0 || fld (d 7) 0 32 % 128 != 0

/-- What a record's own doubles break. -/
def recordBreaks1 (l : List Word) : Bool :=
  let d := fun n => (l.getD n 0).toNat
  let d0 := d 0
  let gate := tkKind d0 == 2
  fld d0 48 7 != 0 || fld d0 16 16 != 0 || 2 < tkKind d0 || 4096 < tkSuccs d0
    || fld (d 2) 48 16 != 0 || fld (d 2) 0 48 % 8 != 0
    || fld (d 3) 48 16 != 0 || fld (d 3) 0 48 % 8 != 0 || (!tkCond d0 && d 3 != 0)
    || (gate && (tkSized d0 || d 4 != 0 || d 5 != 0))
    || (!gate && (if tkSized d0 then fld (d 4) 48 16 != 0 || fld (d 4) 0 48 % 8 != 0 else fld (d 4) 16 48 != 0))
    || (tkKind d0 == 0 && (fld (d 5) 48 16 != 0 || d 5 % 64 != 0))
    || (tkKind d0 == 1 && fld (d 5) 33 31 != 0)
    || (tkKind d0 != 1 && d 6 != 0) || fld (d 7) 56 5 != 0 || fld (d 7) 32 16 != 0

/-- Privilege of a record against its origin (13 R307): a header's records have its class, a pusher's no lower number. -/
def State.recordForbidden (s : State) (die : Nat) (r : Rec) (d0 : Nat) : Bool :=
  tkAsid d0 != r.origAsid
    || (if r.header = 0 then tkClass d0 < r.origCls else tkClass d0 != r.origCls)
    || (tkClass d0 == 0 && (s.die die).sched.class0 != some (tkAsid d0))

/-- The outcome of the checks and conditions of a selected record: it fails, waits, is skipped, or has a count. -/
inductive Verdict where
  | fail (status : Nat)
  | wait (key : Nat)
  | skip
  | run (count : Nat) (desc : List Word)
deriving DecidableEq, Repr

def EStop.verdict : EStop → Verdict
  | .status n => .fail n
  | .wait k => .wait k

/-- Doubles of a long number. -/
def doublesOf (v n : Nat) : List Word := (List.range n).map fun i => BitVec.ofNat 64 (fld v (64 * i) 64)

/-- Doubles that a selected record names, where it names any (`on`). -/
def State.recReads (s : State) (die : Nat) (r : Rec) (on : Bool) (va n : Nat) : Except (EStop × State) (Nat × State) :=
  if !on then .ok (0, s)
  else match s.schedRead die r.asid r.ts va n with
    | .error e => .error e
    | .ok (v, _, s) => .ok (v, s)

/-- Whether a record is skipped, given its predicate and count words (13 R305). -/
def skips (l : List Word) (p n : Nat) : Bool :=
  let d0 := (l.getD 0 0).toNat
  (tkCond d0 && (p == 0) != tkSense d0) || (tkFollow d0 && bit (l.getD 7 0).toNat 61) || (tkSized d0 && n == 0)

/-- The verdict on a sound record: skipped, its count out of bounds, no engine for its tiles, or it runs (13 R305, R306). -/
def State.judgeRun (s : State) (die : Nat) (r : Rec) (l : List Word) (p n : Nat) (desc : List Word) : Verdict :=
  let d0 := (l.getD 0 0).toNat
  if skips l p n then .skip
  else if tkKind d0 = 2 then .run 0 []
  else if 65536 < n then .fail 0x04
  else if tkKind d0 == 0 && !((List.range 32).any fun h => (s.hedge (die * 32 + h)).slots.any fun e => e.2 == r.asid) then .fail 0x03
  else .run (if tkSized d0 then n else (l.getD 4 0).toNat + 1) desc

/-- A selected record whose doubles have been read: the checks of 13 R307 over it and all that it names, then 13 R305 (log 97,
DEDUCED). -/
def State.judge (s : State) (die : Nat) (r : Rec) (l : List Word) : Verdict × State :=
  let d := fun n => (l.getD n 0).toNat
  let d0 := d 0
  if recordBreaks1 l then (.fail 0x09, s)
  else if s.recordForbidden die r d0 then (.fail 0x03, s)
  else match s.recReads die r (tkCond d0) (d 3) 1 with
  | .error (e, s) => (e.verdict, s)
  | .ok (p, s) => match s.recReads die r (tkSized d0) (d 4) 1 with
    | .error (e, s) => (e.verdict, s)
    | .ok (n, s) => match s.recReads die r (tkKind d0 == 0) (d 5) 8 with
      | .error (e, s) => (e.verdict, s)
      | .ok (v, s) =>
        let desc := if tkKind d0 = 0 then doublesOf v 8 else []
        if tkKind d0 == 0 && s.descBreaks r.asid desc then (.fail 0x09, s) else (s.judgeRun die r l p n desc, s)

/-- Children of a thread entry (13 R306): their registers, and where each goes. -/
def State.childOf (s : State) (die : Nat) (r : Rec) (t i : Nat) : Travel :=
  let desc := ((s.dirBlock die r.asid (t / 512)).bind fun b => entryAt b.descs (t % 512)).getD (allLive + t % 512)
  let value := fun (n : Nat) => if n = 0 then BitVec.ofNat 64 i else if n = 1 then BitVec.ofNat 64 (recAddr r.addr) else 0
  { pt := r.ts + 1, asid := r.asid, dest := t, j := none, origin := s.coreId r.asid (schedCore die), link := 0,
    live := descLive desc, full := ones 16, maskLive := descMasks desc, kind := 3, cls := r.cls, redun := r.redun, rolled := false,
    regs := ((List.range 16).filter fun n => bit (descLive desc) n).map fun n => (n, value n),
    masks := ((List.range 7).filter fun n => bit (descMasks desc) n).map fun n => (n + 1, 0),
    cut := s.yew.snaps.any fun n => n.status == 0 && (s.jobOf r.asid).any fun j => j.num == n.job,
    tid := recAddr r.addr / 64 % 2 ^ 30, parent := none }

def State.sendChild (s : State) (die : Nat) (m : Travel) : State :=
  match s.dirBlock die m.asid (m.dest / 512) with
  | none => s.handBoxwood die m
  | some b =>
    if b.placing || b.holders.isEmpty then s.handBoxwood die m
    else
      let e := s.mapOf (schedCore die) m.asid (m.dest / 512)
      let h := (e.choose m.tid).getD ((sortBy id b.holders).getD (m.tid % b.holders.length) 0)
      s.sendTo m.asid h m.cut (.forkChildArrival h m)

/-- A thread entry runs: double 6 takes the count, the children go out, and the scheduler waits on double 6. -/
def State.runChildren (s : State) (die : Nat) (r : Rec) (l : List Word) (count : Nat) : State :=
  match s.schedAtomic die r.asid r.ts (recAddr r.addr + 48) fun _ => count with
  | .error (.status n, s) => s.failRec die r n
  | .error (.wait key, s) => s.recWaits die r.addr key
  | .ok (_, _, s) =>
    let t := (l.getD 5 0).toNat
    let s := s.modRec die r.addr fun r => { r with st := .running, count := count, offered := count, desc := l, wait := none }
    let s := (List.range count).foldl (fun s i => s.sendChild die (s.childOf die r t i)) s
    s.schedJoin die r.asid (recAddr r.addr + 48) r.addr

/-- A record leaves its task queue at its selection. -/
def State.leaveQueue (s : State) (die : Nat) (r : Rec) : State :=
  (s.modDie die fun d =>
    { d with tasks := d.tasks.map fun e => if e.2.all.contains r.addr then (e.1, e.2.remove r.addr) else e }).fillQueue die r.cls

/-- A record selected (13 R303, R305, R306). -/
def State.selectRec (s : State) (die : Nat) (r : Rec) : State :=
  match s.schedRead die r.asid r.ts (recAddr r.addr) 8 with
  | .error (.wait key, s) => s.recWaits die r.addr key
  | .error (.status n, s) => (s.leaveQueue die r).failRec die r n
  | .ok (v, ts, s) =>
    let l := doublesOf v 8
    let r := { r with ts := ts, sel := ts }
    let s := s.modRec die r.addr fun q => { q with ts := ts, sel := ts }
    match s.judge die r l with
    | (.wait key, s) => s.recWaits die r.addr key
    | (.fail n, s) => (s.leaveQueue die r).failRec die r n
    | (.skip, s) => ((s.leaveQueue die r).modRec die r.addr fun q => { q with desc := l }).startRetire die r.addr 2
    | (.run count desc, s) =>
      let s := s.leaveQueue die r
      let set := fun (st : RecState) => s.modRec die r.addr fun q => { q with st := st, count := count, desc := l ++ desc }
      match tkKind (l.getD 0 0).toNat with
      | 0 => (set .issuing).post (.tileOffer die r.addr 0)
      | 1 => (set .issuing).runChildren die r l count
      | _ => (set .retiring).startRetire die r.addr 1

/-- The effective class after a wait (13 R304). -/
def effClass (cls waited : Nat) : Nat := if cls = 0 then 0 else max 1 (cls - waited / Config.ageing)

/-- The record that is selected next: class 0 first, then by effective class, the oldest among equals; none of a stopped job
(17 R402), none that waits at a page. -/
def State.nextRec (s : State) (die : Nat) : Option Rec :=
  let d := s.die die
  let names := (List.range 4).flatMap fun c => (d.taskRing c).all
  let l := names.filterMap fun n => d.recs.find? fun r => r.addr == n
  let l := l.filter fun r => r.st = .queued && r.wait.isNone && !s.jobStopped r.asid
  (sortBy (fun r => effClass r.cls (s.now - r.since) * 2 ^ 64 + r.since) l).head?

/-! ### The steps -/

/-- TKQ_ACCEPT (05 R116; 11 R274; 13 R303). -/
def execTkqAccept (c : Nat) (s : State) : Out := .next <|
  let die := dieOf c
  match (s.core c).q.tkq with
  | [] => s
  | (a, asid, cls, pt) :: rest =>
    if (s.core c).csr.stopped || s.jobStopped asid then s
    else
      let (k, s) := match s.schedRead die asid pt a 1 with
        | .ok (v, _, s) => (tkClass v, s)
        | .error (_, s) => (cls, s)
      if !(s.die die).queueOpen k then s
      else
        let s := s.modCore c fun k => { k with q := { k.q with tkq := rest } }
        let s := s.enterView die (recName asid a) 0 cls pt ((s.jobOf asid).any Job.redun)
        if rest.isEmpty then s else s.postOnce (.tkqAccept c)

/-- COUNTER_ZERO_WAKE (13 R303, R307): a waiting record becomes queued, a running one retires; and whatever a record or a root list
waited for goes on. -/
def execCounterZeroWake (die name : Nat) (s : State) : Out := .next <|
  if 2 ^ 64 ≤ name then s.goRoots die name
  else match s.record! die name with
  | none => s
  | some r =>
    match r.st with
    | .waiting =>
      if r.wait.isSome then s.consider die name
      else match s.schedRead die r.asid r.ts (recAddr name + 8) 1 with
        | .ok (_, ts, s) => (s.modRec die name fun r => { r with ts := max r.ts ts }).queueRec die name
        | .error (_, s) => s.queueRec die name
    | .running =>
      match s.schedRead die r.asid r.ts (recAddr name + 48) 1 with
      | .ok (_, ts, s) => (s.modRec die name fun r => { r with ts := max r.ts ts }).startRetire die name 1
      | .error (_, s) => s.startRetire die name 1
    | .issuing => if tkKind (r.desc.getD 0 0).toNat = 1 then s.runChildren die r r.desc r.count else s
    | .queued => (s.modRec die name fun r => { r with wait := none }).wantSelect die
    | .retiring => s.retire die name
    | .done => s

/-- TASK_SELECT (13 R304 to R307): at most one record every 16 cycles. -/
def execTaskSelect (die : Nat) (s : State) : Out := .next <|
  if s.now < (s.die die).lastSelect + 16 && (s.die die).lastSelect != 0 then s.wantSelect die
  else match s.nextRec die with
    | none => s
    | some r =>
      let s := (s.modDie die fun d => { d with lastSelect := s.now }).selectRec die r
      if (s.nextRec die).isSome then s.wantSelect die else s

/-- How many slots after the current one an ASID's next grant on a hedge comes; none without a grant (05 R125, 13 R306). -/
def State.nextGrant (s : State) (h asid : Nat) : Option Nat :=
  let cur := s.now / Config.slotCycles % Config.frameSlots
  (List.range Config.frameSlots).find? fun i => Tab.get? (s.hedge h).slots ((cur + i) % Config.frameSlots) == some asid

/-- TILE_OFFER (13 R300, R306): a tile becomes a candidate at the engine whose next grant to the ASID comes soonest. -/
def execTileOffer (die name i : Nat) (s : State) : Out := .next <|
  match s.record! die name with
  | none => s
  | some r =>
    if r.st != .issuing || r.count ≤ i then s
    else
      let cand := (List.range 32).filterMap fun n => (s.nextGrant (die * 32 + n) r.asid).map fun g => (g, die * 32 + n)
      match (sortBy Prod.fst cand).head? with
      | none => s.failRec die r 0x03
      | some (_, h) =>
        let desc := r.desc.drop 8
        let op : EngOp :=
          { id := (s.hedge h).nextOp, kind := .mmac, asid := r.asid, cls := r.cls, redun := r.redun, t0 := r.ts + 1, tc := r.ts + 1,
            d0 := desc.getD 0 0, task := some (die, name, i), since := s.now, base := (s.hedge h).nextOp, desc := desc }
        let s := s.modHedge h fun x => { x with nextOp := x.nextOp + 1, ops := x.ops ++ [op] }
        let s := (s.modRec die name fun r => { r with offered := i + 1 }).post (.engineCandidateStart h)
        if i + 1 < r.count then s.post (.tileOffer die name (i + 1)) else s

end Sys2Proof.Machine
end

