-- ==== Sys2Proof/Machine/Engine.lean ====
section
/-! DEFINITION. The matrix engine of a hedge: acceptance and order (11 R255; 13 R309 to R311), tiles and borrowings (13 R310),
multiplying commands (11 R262 to R265, 06 R147), accumulator rows (11 R267), drains and wakes (11 R271 to R273). -/

namespace Sys2Proof.Machine

/-! ### Operations and tiles -/

def State.op? (s : State) (h id : Nat) : Option EngOp := (s.hedge h).ops.find? fun o => o.id == id
def State.modOp (s : State) (h id : Nat) (f : EngOp → EngOp) : State :=
  s.modHedge h fun x => { x with ops := x.ops.map fun o => if o.id == id then f o else o }
def Hedge.tile (x : Hedge) (t : Nat) : Tile := Tab.getD x.tiles t {}
def State.setTile (s : State) (h t : Nat) (v : Tile) : State := s.modHedge h fun x => { x with tiles := Tab.set x.tiles t v {} }

/-- The core through which a hedge's engine translates addresses. -/
def engineCore (h : Nat) : Nat := coreKey (h / 32) (h % 32) 0

/-- The 128 elements of a tile's row, and the tile with them replaced. -/
def Tile.row (t : Tile) (i : Nat) : List Nat :=
  let r := t.elems.filter fun e => 128 * i ≤ e.1 && e.1 < 128 * i + 128
  (List.range 128).map fun j => (Tab.getD r (128 * i + j) 0).toNat
def Tile.setRow (t : Tile) (i : Nat) (l : List Nat) : Tile :=
  let new := (l.zipIdx.filter fun e => BitVec.ofNat 32 e.1 != 0).map fun e => (128 * i + e.2, BitVec.ofNat 32 e.1)
  { t with elems := t.elems.filter (fun e => e.1 < 128 * i) ++ (new ++ t.elems.filter fun e => 128 * i + 128 ≤ e.1), clear := false }
/-- Some element of a region of rows and columns is poisoned; the region made +0 and unpoisoned; every element poisoned. -/
def inRegion (m n e : Nat) : Bool := e / 128 < m && e % 128 < n
def Tile.poisonedIn (t : Tile) (m n : Nat) : Bool := t.poison.any (inRegion m n)
def Tile.clearRegion (t : Tile) (m n : Nat) : Tile :=
  { t with elems := t.elems.filter (fun e => !inRegion m n e.1), poison := t.poison.filter (fun e => !inRegion m n e), clear := false }
def Tile.poisonRegion (t : Tile) (m n : Nat) : Tile :=
  { t with poison := (List.range m).flatMap (fun i => (List.range n).map fun j => 128 * i + j)
                      ++ t.poison.filter fun e => !inRegion m n e }

/-! ### Which physical tile an operation has (13 R310) -/

/-- The tile that an operation names: a thread's by number, class-0 work's by ASID and number, a task's own. -/
def EngOp.tileKey (o : EngOp) : Nat × Nat :=
  if o.cls = 0 then (1 + o.asid, o.tile) else if o.task.isSome then (2 ^ 20, o.base) else (0, o.tile)

/-- A drain that has read its tile no longer holds back later operations (11 R255, R271). -/
def EngOp.passed (o : EngOp) : Bool := o.kind == .drain && o.k != 0

/-- An operation's turn on its tile: every earlier-accepted one on it has passed (11 R255). -/
def Hedge.turn (x : Hedge) (o : EngOp) : Bool :=
  (x.ops.takeWhile fun p => p.id != o.id).all fun p => !p.staged || p.tileKey != o.tileKey || p.passed

/-- The physical tile that an operation has now, if any. -/
def Hedge.physOf (x : Hedge) (o : EngOp) : Option Nat :=
  if o.cls = 0 then (x.borrows.find? fun b => b.op.isNone && b.asid == o.asid && b.num == o.tile && !b.busy).map Borrow.phys
  else if o.task.isSome then (x.borrows.find? fun b => b.op == some o.base && !b.busy).map Borrow.phys
  else if x.borrows.any fun b => b.phys == o.tile then none else some o.tile

/-- An operation under way has a physical tile: started, and not yet past it. -/
def Hedge.inUse (x : Hedge) (t : Nat) : Bool := x.ops.any fun o => o.started && o.phys == some t && !o.passed

/-- The lowest clear tile that nobody has borrowed and no operation under way uses (13 R310). -/
def Hedge.freeTile (x : Hedge) : Option Nat :=
  (List.range 4).find? fun t => (x.tile t).clear && !(x.borrows.any fun b => b.phys == t) && !x.inUse t

/-- The physical tile of the running operation. -/
def Hedge.runningTile (x : Hedge) : Option Nat := x.running.bind fun id => (x.ops.find? fun o => o.id == id).bind EngOp.phys

/-- A tile that class-0 work may take from its owner: one that no operation under way names. -/
def Hedge.victimTile (x : Hedge) : Option Nat :=
  (List.range 4).find? fun t => !(x.borrows.any fun b => b.phys == t) && x.runningTile != some t && !x.inUse t

/-- A tile is borrowed for an operation that needs one: a clear one, or for class-0 work one that is spilled first. Class 0
holds three while an operation stands overtaken (DEDUCED, log 29). -/
def State.borrowTile (s : State) (h : Nat) (o : EngOp) : State :=
  let x := s.hedge h
  let add := fun (b : Borrow) (s : State) => s.modHedge h fun x => { x with borrows := x.borrows ++ [b] }
  if o.cls = 0 then
    if x.borrows.any fun b => b.op.isNone && b.asid == o.asid && b.num == o.tile then s
    else if 3 ≤ (x.borrows.filter fun b => b.op.isNone && b.asid == o.asid).length && !x.overtaken.isEmpty then s
    else match x.freeTile with
      | some t => add { asid := o.asid, num := o.tile, phys := t } s
      | none =>
        match x.victimTile with
        | some t => (add { asid := o.asid, num := o.tile, phys := t, busy := true } s).after 512 (.tileSpillComplete h t)
        | none => s
  else if o.task.isSome && !(x.borrows.any fun b => b.op == some o.base) then
    match x.freeTile with
    | some t => add { asid := o.asid, num := 0, phys := t, op := some o.base } s
    | none => s
  else s

/-- A task's borrowed tile zeroed and returned. -/
def State.returnTile (s : State) (h : Nat) (o : EngOp) : State :=
  if o.cls = 0 || o.task.isNone then s
  else match (s.hedge h).borrows.find? fun b => b.op == some o.base with
    | none => s
    | some b => (s.setTile h b.phys {}).modHedge h fun x => { x with borrows := x.borrows.filter fun e => e.op != some o.base }

/-- The engine looks for work again. -/
def State.kick (s : State) (h : Nat) : State := s.postOnce (.engineCandidateStart h)

/-! ### Candidates (13 R309) -/

/-- The ASID holds the current slot (05 R125). -/
def State.holdsSlot (s : State) (h asid : Nat) : Bool := s.nextGrant h asid == some 0

/-- Candidates for the array: each core's MEQ head that multiplies, and the tiles offered; none of a stopped job. -/
def State.candidates (s : State) (h : Nat) : List EngOp :=
  let heads := (List.range 17).filterMap fun i =>
    let k := s.core (coreKey (h / 32) (h % 32) i)
    match k.q.meq with
    | o :: _ => if !k.csr.stopped && (o.kind == .mma || o.kind == .mmac) then some o else none
    | [] => none
  (heads ++ (s.hedge h).ops.filter fun o => !o.staged).filter fun o => !s.jobStopped o.asid

/-- The order in which candidates start: the slot's holder, then effective class, then age. -/
def State.candKey (s : State) (h : Nat) (o : EngOp) : Nat :=
  ((if s.holdsSlot h o.asid then 0 else 1) * 8 + effClass o.cls (s.now - o.since)) * 2 ^ 64 + o.since

/-- An operation accepted: out of its MEQ, its operands staged, last in the engine's order. -/
def State.acceptOp (s : State) (h : Nat) (o : EngOp) : EngOp × State :=
  let (o, s) := s.stageOp o
  let o := { o with staged := true }
  let s := if o.task.isSome then s
    else s.modCore o.core fun k => { k with q := { k.q with meq := k.q.meq.filter fun e => e.id != o.id } }
  (o, s.modHedge h fun x => { x with ops := x.ops.filter (fun e => e.id != o.id) ++ [o] })

/-- A multiplying command starts on the array. -/
def State.startOp (s : State) (h : Nat) (o : EngOp) (p : Nat) : State :=
  let (o, s) := s.acceptOp h o
  let s := (s.modOp h o.id fun o => { o with phys := some p, started := true }).modHedge h fun x => { x with running := some o.id }
  (if o.kind = .mma then s.post (.mma h o.id) else s.post (.mmac h o.id)).kick h

/-- A command resumes after class-0 work; its resumption counts for the self-check (05 R128; 13 R311). -/
def State.countStart (s : State) (h id : Nat) : State :=
  let x := s.hedge h
  if x.checks + 1 = x.mecheck then (s.modHedge h fun x => { x with checks := 0 }).modOp h id fun o => { o with check := true }
  else s.modHedge h fun x => { x with checks := x.checks + 1 }

def kStepTime (o : EngOp) : Nat := if o.check then 2 * Config.kStepCycles else Config.kStepCycles

def State.resumeOp (s : State) (h id : Nat) : State :=
  let s := (s.modHedge h fun x => { x with running := some id, overtaken := x.overtaken.filter (· != id) }).countStart h id
  s.after (kStepTime ((s.op? h id).getD {})) (.kStepBoundary h)

/-- The first candidate of a list that can start; class-0 work whose tile is being spilled holds the array for it. -/
def State.startFirst (s : State) (h : Nat) : List EngOp → State × Bool
  | [] => (s, false)
  | o :: t =>
    let s := s.borrowTile h o
    let x := s.hedge h
    match x.physOf o with
    | some p => if x.turn o then (s.startOp h o p, true) else s.startFirst h t
    | none =>
      if o.cls = 0 && x.borrows.any (fun b => b.op.isNone && b.asid == o.asid && b.num == o.tile) then (s, true)
      else s.startFirst h t

/-- The free array takes its next command: class-0 work first while one stands overtaken, then that one (13 R309, R311). -/
def State.startNext (s : State) (h : Nat) : State :=
  let cands := sortBy (s.candKey h) (s.candidates h)
  match (s.hedge h).overtaken with
  | [] => (s.startFirst h cands).1
  | id :: _ =>
    match s.startFirst h (cands.filter fun o => o.cls == 0) with
    | (s, true) => s
    | (s, false) => s.resumeOp h id

/-- Heads of MEQs that need no array are accepted, in each queue's order. -/
def State.acceptAside (s : State) (h c : Nat) : Nat → State
  | 0 => s
  | fuel + 1 =>
    let k := s.core c
    match k.q.meq with
    | [] => s
    | o :: _ =>
      if o.kind == .mma || o.kind == .mmac || k.csr.stopped || s.jobStopped o.asid then s
      else (s.acceptOp h o).2.acceptAside h c fuel

/-- Accepted operations that need no array start at their turn on their tile. -/
def State.startAside (s : State) (h : Nat) (o : EngOp) : State :=
  if !o.staged || o.started || o.kind == .mma || o.kind == .mmac then s
  else
    let s := s.borrowTile h o
    let x := s.hedge h
    match x.physOf o with
    | none => s
    | some p =>
      if !x.turn o then s
      else
        let s := s.modOp h o.id fun o => { o with phys := some p, started := true }
        match o.kind with
        | .zero => s.post (.zero h o.id)
        | .accld => s.after 8 (.accldComplete h o.id)
        | .accst => s.after 8 (.accstComplete h o.id)
        | _ => s.post (.drainStart h o.id)

/-- The next slot boundary is looked at while class-0 work waits for its slot. -/
def State.watchSlots (s : State) (h : Nat) : State :=
  if (s.candidates h).any (fun o => o.cls == 0) && !(s.timers.any fun t => t.2 == .slotBoundary h) then
    s.after (Config.slotCycles - s.now % Config.slotCycles) (.slotBoundary h)
  else s

/-- ENGINE_CANDIDATE_START (11 R255; 13 R309, R310). -/
def execEngineCandidateStart (h : Nat) (s : State) : Out := .next <|
  let s := (List.range 17).foldl (fun s i =>
    let c := coreKey (h / 32) (h % 32) i
    s.acceptAside h c ((s.core c).q.meq.length + 1)) s
  let s := (s.hedge h).ops.foldl (fun s o => s.startAside h o) s
  let s := if (s.hedge h).running.isNone then s.startNext h
    else ((s.candidates h).filter fun o => o.cls == 0 && s.holdsSlot h o.asid).foldl (fun s o => s.borrowTile h o) s
  s.watchSlots h

/-! ### Operands (11 R258 to R260, R263; 13 R300) -/

/-- What a row of one k-step holds: element values, a sparse position without a value giving none. -/
inductive RowRead where
  | values (l : List (Option Num))
  | poisoned
  | badFormat
deriving DecidableEq, Repr

/-- The values of n packed elements of w bits. -/
def packedNums (f : Fmt) (w n v : Nat) : List (Option Num) := (List.range n).map fun i => some (f.decode (fld v (w * i) w))

/-- A sparse row: 64 value bytes, then 16 bytes of positions (11 R261, 06 R147). -/
def sparsePair (v g : Nat) : Nat × Nat := (fld v (512 + 4 * g) 2, fld v (512 + 4 * g + 2) 2)
def sparseRow (f : Fmt) (v : Nat) : List (Option Num) :=
  (List.range 128).map fun k =>
    let p := sparsePair v (k / 4)
    if k % 4 = p.1 then some (f.decode (fld v (8 * (2 * (k / 4))) 8))
    else if k % 4 = p.2 then some (f.decode (fld v (8 * (2 * (k / 4) + 1)) 8))
    else none
/-- Equal or descending positions in some group. -/
def sparseBad (v : Nat) : Bool := (List.range 32).any fun g => (sparsePair v g).2 ≤ (sparsePair v g).1

/-- A stored row of one k-step by its format. -/
def decodeRow (fmt : Nat) (sparse b : Bool) (v : Nat) : RowRead :=
  let wide := sparse && b
  match fmt with
  | 0 => .values (if sparse && !b then sparseRow fpE4m3 v else packedNums fpE4m3 8 (if wide then 128 else 64) v)
  | 1 => .values (if sparse && !b then sparseRow fpE5m2 v else packedNums fpE5m2 8 (if wide then 128 else 64) v)
  | 2 => .values (packedNums fpE3m2 6 64 v)
  | 3 => .values (packedNums fpE2m1 4 128 v)
  | 4 => .values (packedNums bfloat 16 32 v)
  | _ => match readBlock v with
    | .values l => .values (l.map some)
    | .poisoned => .poisoned
    | .badFormat => .badFormat

/-- Pieces of a scratchpad row read by the engine. -/
def State.padRead (s : State) (h t0 : Nat) (w : Word × Word) (kb i q : Nat) : List (Nat × Nat) → Except (EStop × State) (Nat × Nat × State)
  | [] => .ok (0, t0, s)
  | g :: t =>
    let a := hedgeAt h (padOffset w kb i q g.1)
    if (s.poisonAt a g.2).isSome then .error (.status 0x01, s)
    else
      let v := s.mem.read a g.2
      let (ts, s) := s.engineRead (lineOf a) t0
      match s.padRead h t0 w kb i q t with
      | .error e => .error e
      | .ok (u, ts', s) => .ok (v * 256 ^ g.1 + u, max ts ts', s)

/-- The bytes of stored row i of an operand for k-step q. -/
def State.rowBytes (s : State) (h : Nat) (o : EngOp) (b : Bool) (i q : Nat) : Except (EStop × State) (Nat × Nat × State) :=
  let d := o.d0.toNat
  let kb := kBytes (cmdFmt d b) (cmdSparse d) b
  match o.task with
  | some (_, _, n) =>
    let base := fld (o.desc.getD (if b then 3 else 1) 0).toNat 0 48
    let w := (o.desc.getD (if b then 4 else 2) 0).toNat
    let va := wrap64 ((base : Int) + n * signed32 (fld w 32 32) + ((i * fld w 0 32 + q * kb : Nat) : Int))
    s.readBytes (engineCore h) o.asid o.cls flatRecord o.t0 (va : Nat) kb
  | none =>
    if cmdPad d b then
      let w := if b then o.bPair else o.aPair
      let first := q % (128 * padRow w / kb) * kb
      s.padRead h o.t0 w kb i q (lineCuts first kb)
    else
      let regs := if b then o.bRegs else o.aRegs
      .ok (fld ((regs.getD (i / 2) 0).toNat) (512 * (i % 2)) 512, o.t0, s)

/-- The stored rows of an operand for a k-step, A's by its permutation (11 R263): bits, and the greatest time. -/
def State.rowsBytes (s : State) (h : Nat) (o : EngOp) (b : Bool) (q : Nat) : List Nat → Except (EStop × State) (List Nat × Nat × State)
  | [] => .ok ([], o.t0, s)
  | i :: t =>
    match s.rowBytes h o b (if b then i else permRow o.perm i) q with
    | .error e => .error e
    | .ok (v, ts, s) =>
      match s.rowsBytes h o b q t with
      | .error e => .error e
      | .ok (l, ts', s) => .ok (v :: l, max ts ts', s)

/-- The rows decoded: poison before a bad format (11 R262 lines 10 and 11). -/
def decodeRows (fmt : Nat) (sparse b : Bool) (l : List Nat) : RowRead × List (List (Option Num)) :=
  let r := l.map (decodeRow fmt sparse b)
  if r.any (· == .poisoned) then (.poisoned, [])
  else if r.any (· == .badFormat) then (.badFormat, [])
  else (.values [], r.map fun x => match x with | .values v => v | _ => [])

/-! ### Arithmetic (06 R147) -/

/-- One product: a position that is not named gives an exact +0. -/
def product (a b : Option Num) : Num :=
  match a, b with
  | some x, some y => x.mul y
  | _, _ => .fin false 0 0

/-- The exact sum of a group of eight products. -/
def groupSum (p : Nat → Num) : Num :=
  ((p 0).add (p 1)).add ((p 2).add (p 3)) |>.add (((p 4).add (p 5)).add ((p 6).add (p 7)))

/-- One element after a k-step: groups of eight in ascending k order, rounded once each. -/
def accumulate (c : Nat) (a b : List (Option Num)) : Nat :=
  (List.range (a.length / 8)).foldl (fun c g =>
    let p := fun i => product (a.getD (8 * g + i) none) (b.getD (8 * g + i) none)
    fp32.encode .rne false ((fp32.decode c).add (groupSum p))) c

/-- A tile after a k-step. -/
def Tile.kStep (t : Tile) (arows bcols : List (List (Option Num))) : Tile :=
  arows.zipIdx.foldl (fun t r =>
    let old := t.row r.2
    t.setRow r.2 ((old.zipIdx).map fun e => match bcols[e.2]? with
      | some b => accumulate e.1 r.1 b
      | none => e.1)) t

/-- A faulty processing element leaves a free value in its element of the result (log 5). -/
def State.faultyPes (s : State) (h p m n : Nat) : State :=
  ((s.hedge h).badPe.filter fun e => e.1 < m && e.2 < n).foldl (fun s e =>
    let (v, s) := s.takeNat
    let t := (s.hedge h).tile p
    s.setTile h p (t.setRow e.1 ((t.row e.1).set e.2 (v % 2 ^ 32)))) s

/-! ### Multiplying commands (11 R262 to R265) -/

/-- The command's status is settled, and its end follows. -/
def State.settleOp (s : State) (h id status : Nat) : State :=
  (s.modOp h id fun o => { o with status := some status, wait := none }).post (.matrixCommandComplete h id)

/-- Whether a row of a k-step has a group with equal or descending positions (11 R262 line 3). Of a row that cannot be read
(poison, a fault of its page) no position is known: it is left to its k-step (DEDUCED, log 91). -/
def State.sparseRowBad (s : State) (h : Nat) (o : EngOp) (q i : Nat) : Except (Nat × State) (Bool × State) :=
  match s.rowBytes h o false (permRow o.perm i) q with
  | .error (.wait key, s) => .error (key, s)
  | .error (.status _, s) => .ok (false, s)
  | .ok (v, ts, s) => .ok (sparseBad v, s.modOp h o.id fun o => { o with tc := max o.tc ts })

/-- The positions of every row of a sparse command, looked at before anything is computed. -/
def State.sparseCheck (s : State) (h : Nat) (o : EngOp) : Except (Nat × State) (Bool × State) :=
  let d := o.d0.toNat
  if !cmdSparse d then .ok (false, s)
  else ((List.range (cmdSteps d)).flatMap fun q => (List.range (cmdRows d false)).map fun i => (q, i)).foldl
    (fun (r : Except (Nat × State) (Bool × State)) e => do
      let (bad, s) ← r
      let (b, s) ← s.sparseRowBad h o e.1 e.2
      return (bad || b, s)) (.ok (false, s))

/-- A multiplying command starts (11 R262 lines 2 to 6; 05 R128); at an absent page it looks again. -/
def State.startCommand (s : State) (h id : Nat) (again : Instr) : State :=
  match s.op? h id with
  | none => s
  | some o =>
    let d := o.d0.toNat
    let m := cmdRows d false
    let n := cmdRows d true
    let p := o.phys.getD 0
    let s := if o.wait.isSome || o.k != 0 then s else s.countStart h id
    if o.status.isSome then s
    else if o.kind = .mma && ((s.hedge h).tile p).poisonedIn m n then s.settleOp h id 0x01
    else match s.sparseCheck h o with
      | .error (key, s) => (s.modOp h id fun o => { o with wait := some key }).after Config.kStepCycles again
      | .ok (true, s) => s.settleOp h id 0x07
      | .ok (false, s) =>
        let t := (s.hedge h).tile p
        let s := if o.kind = .mmac then s.setTile h p (t.clearRegion m n) else s.setTile h p { t with clear := false }
        (s.modOp h id fun o => { o with wait := none }).after (kStepTime ((s.op? h id).getD o)) (.kStepBoundary h)

/-- MMA (11 R262). -/
def execMma (h id : Nat) (s : State) : Out := .next (s.startCommand h id (.mma h id))
/-- MMAC (11 R262). -/
def execMmac (h id : Nat) (s : State) : Out := .next (s.startCommand h id (.mmac h id))

/-- ZERO (11 R262 line 1; 13 R310). -/
def execZero (h id : Nat) (s : State) : Out := .next <|
  match s.op? h id with
  | none => s
  | some o =>
    let p := o.phys.getD 0
    let s := s.setTile h p { tc := ((s.hedge h).tile p).tc }
    (s.modOp h id fun o => { o with status := some 0 }).after 64 (.matrixCommandComplete h id)

/-- One k-step of the running command: its operands, the checks, the sums (11 R262 lines 7 to 13). -/
def State.kStep (s : State) (h : Nat) (o : EngOp) : State :=
  let d := o.d0.toNat
  let m := cmdRows d false
  let n := cmdRows d true
  let p := o.phys.getD 0
  let stop := fun (e : EStop × State) =>
    match e.1 with
    | .status st => e.2.settleOp h o.id st
    | .wait key => (e.2.modOp h o.id fun o => { o with wait := some key }).after Config.kStepCycles (.kStepBoundary h)
  match s.rowsBytes h o false o.k (List.range m) with
  | .error e => stop e
  | .ok (la, ta, s) =>
    match s.rowsBytes h o true o.k (List.range n) with
    | .error e => stop e
    | .ok (lb, tb, s) =>
      let (ra, a) := decodeRows (cmdFmt d false) (cmdSparse d) false la
      let (rb, b) := decodeRows (cmdFmt d true) (cmdSparse d) true lb
      if ra = .poisoned || rb = .poisoned then s.settleOp h o.id 0x01
      else if ra = .badFormat || rb = .badFormat then s.settleOp h o.id 0x06
      else
        let s := (s.setTile h p (((s.hedge h).tile p).kStep a b)).faultyPes h p m n
        let s := s.modOp h o.id fun o => { o with k := o.k + 1, tc := max o.tc (max ta tb), wait := none }
        if o.k + 1 = cmdSteps d then s.settleOp h o.id 0 else s.after (kStepTime o) (.kStepBoundary h)

/-- Class-0 candidates that hold the slot and have a tile overtake a running command of a lower class (13 R311). -/
def State.overtake (s : State) (h : Nat) : State :=
  match (s.hedge h).running.bind fun id => s.op? h id with
  | none => s
  | some o =>
    let cands := (sortBy (s.candKey h) (s.candidates h)).filter fun c => c.cls == 0 && s.holdsSlot h c.asid
    let s := cands.foldl (fun s c => s.borrowTile h c) s
    match cands.find? fun c => ((s.hedge h).physOf c).isSome && (s.hedge h).turn c with
    | none => s
    | some c =>
      if o.cls = 0 || o.status.isSome then s
      else
        let s := { s with timers := s.timers.filter fun t => t.2 != Instr.kStepBoundary h }
        let s := s.modHedge h fun x => { x with running := none, overtaken := [o.id] }
        s.startOp h c (((s.hedge h).physOf c).getD 0)

/-- K_STEP_BOUNDARY (11 R262; 13 R311; 15 R339): the k-step that ends is in the tile; a cut that waits for the boundary is
taken; class-0 work may overtake. -/
def execKStepBoundary (h : Nat) (s : State) : Out := .next <|
  match (s.hedge h).running.bind fun id => s.op? h id with
  | none => s
  | some o =>
    if o.status.isSome then s
    else
      let s := s.kStep h o
      let s := if s.yew.snaps.any fun n => n.status == 0 && n.wantHedges.contains h then s.cutHedge h else s
      s.overtake h

/-- The self-check of a command that reached its end (11 R265): elements that a faulty processing element computed, in
either computation, may differ; the first such element. -/
def State.selfCheck (s : State) (h m n : Nat) : Option (Nat × Nat) × State :=
  (List.range m).foldl (fun (r : Option (Nat × Nat) × State) i =>
    (List.range n).foldl (fun (r : Option (Nat × Nat) × State) j =>
      let bad := (r.2.hedge h).badPe
      if r.1.isSome || !(bad.contains (i, j) || bad.contains ((i + 1) % 128, j)) then r
      else
        let (b, s) := r.2.takeBit
        (if b then some (i, j) else none, s)) r) (none, s)

/-- Class-0 work has ended on the engine: its borrowings return when none follows (13 R310). -/
def State.classZeroEnded (s : State) (h : Nat) (o : EngOp) : State :=
  if o.cls != 0 then s
  else (s.modHedge h fun x => { x with lastClass0 := s.now }).after Config.borrowTimeout (.borrowReturn h)

/-- An operation leaves the engine; what ended on the tile is observed from its time (12 R292). -/
def State.opGone (s : State) (h : Nat) (o : EngOp) : State :=
  let s := s.modHedge h fun x =>
    { x with ops := x.ops.filter fun e => e.id != o.id, running := if x.running = some o.id then none else x.running,
             overtaken := x.overtaken.filter (· != o.id) }
  let s := match o.phys with
    | some p => s.setTile h p { (s.hedge h).tile p with tc := max ((s.hedge h).tile p).tc o.tc }
    | none => s
  (s.classZeroEnded h o).kick h

/-- A completion record of the engine for an operation's core: not for a task's, a killed core's or an ended job's (13 R301;
14 R330; 17 R402). -/
def State.engineRecord (s : State) (o : EngOp) (status tag : Nat) (event : Bool) : State :=
  if o.task.isSome || o.orphan || s.dropsFor (dieOf o.core) o.asid || !(event || status != 0) then s
  else s.arrive o.core 1 (completionRecord 2 0 status tag) o.tc

/-- A task's drain follows its command (13 R300, R301). -/
def State.startTaskDrain (s : State) (h : Nat) (o : EngOp) : State :=
  let id := (s.hedge h).nextOp
  let off := drainOffset (o.desc.getD 6 0).toNat + (match o.task with | some t => t.2.2 | none => 0) * fld (o.desc.getD 7 0).toNat 0 32
  let op : EngOp := { o with id := id, kind := .drain, d0 := o.desc.getD 5 0, d1 := o.desc.getD 6 0, row := off, perm := [], k := 0,
                             t0 := o.tc, started := false, status := none, check := false, phys := none }
  (s.modHedge h fun x => { x with nextOp := id + 1, ops := x.ops ++ [op] }).kick h

/-- MATRIX_COMMAND_COMPLETE (11 R264, R265). -/
def execMatrixCommandComplete (h id : Nat) (s : State) : Out := .next <|
  match s.op? h id with
  | none => s
  | some o =>
    let d := o.d0.toNat
    let m := cmdRows d false
    let n := cmdRows d true
    let p := o.phys.getD 0
    let st := o.status.getD 0
    let (bad, s) := if o.check && st = 0 then s.selfCheck h m n else (none, s)
    let (st, s) := match bad with
      | none => (st, s)
      | some (i, j) =>
        let s := s.setTile h p (((s.hedge h).tile p).poisonRegion m n)
        (0x01, s.machineCheck 7 (h / 32) (h % 32) 0 (p * 2 ^ 38 + i * 2 ^ 31 + j * 2 ^ 24) 0)
    let s := (s.opGone h o).engineRecord o st (cmdTag d) (cmdEvent d)
    match o.task with
    | none => s.endCmd o.core o.id o.tc
    | some (die, name, _) =>
      if st = 0 then s.startTaskDrain h o else (s.returnTile h o).tileEnded die name st o.tc

/-! ### Borrowed tiles (13 R310) -/

/-- TILE_SPILL_COMPLETE (13 R310): the owner's contents stand in the spill area, and class-0 work has the tile. -/
def execTileSpillComplete (h t : Nat) (s : State) : Out := .next <|
  let x := s.hedge h
  if !(x.borrows.any fun b => b.phys == t && b.busy && b.spilled.isNone) then s
  else
    let keep := fun (b : Borrow) => if b.phys == t && b.busy then { b with busy := false, spilled := some (x.tile t) } else b
    ((s.modHedge h fun x => { x with borrows := x.borrows.map keep }).setTile h t {}).kick h

/-- BORROW_RETURN (13 R310): after the quiet time every class-0 borrowing is refilled, or zeroed. -/
def execBorrowReturn (h : Nat) (s : State) : Out := .next <|
  let x := s.hedge h
  if x.ops.any (fun o => o.staged && o.cls == 0) || s.now < x.lastClass0 + Config.borrowTimeout then s
  else
    let mine := fun (b : Borrow) => b.op.isNone && !b.busy
    let s := (x.borrows.filter mine).foldl (fun s b => s.after (if b.spilled.isSome then 512 else 64) (.tileRefillComplete h b.phys)) s
    s.modHedge h fun x => { x with borrows := x.borrows.map fun b => if mine b then { b with busy := true } else b }

/-- TILE_REFILL_COMPLETE (13 R310): the tile is its owner's again, with the contents it had. -/
def execTileRefillComplete (h t : Nat) (s : State) : Out := .next <|
  match (s.hedge h).borrows.find? fun b => b.phys == t && b.op.isNone && b.busy with
  | none => s
  | some b =>
    ((s.setTile h t (b.spilled.getD {})).modHedge h fun x => { x with borrows := x.borrows.filter fun e => e.phys != t }).kick h

/-! ### Slots (05 R125) -/

/-- SLOT_BOUNDARY (05 R125; 13 R310, R311). -/
def execSlotBoundary (h : Nat) (s : State) : Out := .next ((s.kick h).watchSlots h)

/-- FRAME_START (05 R125): a newly committed slot table comes into force. -/
def execFrameStart (h : Nat) (s : State) : Out := .next <|
  match (s.hedge h).nextSlots with
  | none => s
  | some t => (s.modHedge h fun x => { x with slots := t, nextSlots := none }).kick h

/-! ### Accumulator rows (11 R267) -/

/-- A thread that waits for its accumulator operation, or whose context was saved while it waited, has it done (02 R51). -/
def Ctx.engineDone (x : Ctx) (l : List (Nat × Word)) : Ctx :=
  let y := { x with latch := l.foldl (fun t (e : Nat × Word) => Tab.put t e.1 e.2) x.latch, phase := 2 }
  if x.status == .parked .engine then { y with status := .ready }
  else if x.prior == some (.parked .engine) then { y with prior := some .ready }
  else x

/-- A change of a thread's context, wherever it stands: in its slot, or in its slot's save area. -/
def State.modThread (s : State) (c slot : Nat) (f : Ctx → Ctx) : State :=
  (s.modCtx c slot f).modCore c fun k => match Tab.get? k.work.saved slot with
    | some v => { k with work := { k.work with saved := Tab.put k.work.saved slot { v with ctx := f v.ctx } } }
    | none => k

/-- ACCLD_COMPLETE (11 R267): the row stands ready for the thread, which observes what ended on the tile; a poisoned element
faults it, with the row as the detail. -/
def execAccldComplete (h id : Nat) (s : State) : Out := .next <|
  match s.op? h id with
  | none => s
  | some o =>
    let t := (s.hedge h).tile (o.phys.getD 0)
    let s := s.opGone h o
    let x := s.ctx o.core o.slot
    if o.orphan then s
    else if t.poison.any fun e => e / 128 == o.row then
      if x.status != .parked .engine && x.prior != some (.parked .engine) then
        s.modThread o.core o.slot fun y => y.engineDone [(99, 1)]
      else s.takeFault o.core o.slot fcPoison o.row ((s.ctx o.core o.slot).pc.word == 1) false
    else
      let row := t.row o.row
      let word := fun (i : Nat) => (100 + i, BitVec.ofNat 64 (row.getD (2 * i) 0 + row.getD (2 * i + 1) 0 * 2 ^ 32))
      s.modThread o.core o.slot fun x => (if t.tc = 0 then x else x.observe t.tc).engineDone ((List.range 64).map word)

/-- ACCST_COMPLETE (11 R267). -/
def execAccstComplete (h id : Nat) (s : State) : Out := .next <|
  match s.op? h id with
  | none => s
  | some o =>
    let p := o.phys.getD 0
    let t := (s.hedge h).tile p
    let vals := o.aRegs.flatMap fun v => (List.range 32).map fun j => fld v.toNat (32 * j) 32
    let t := { (t.setRow o.row vals) with poison := t.poison.filter fun e => e / 128 != o.row }
    let s := (s.setTile h p t).opGone h o
    if o.orphan then s else s.modThread o.core o.slot fun x => x.engineDone []

/-! ### Drains (11 R269 to R272) -/

/-- Bytes of an output row (11 R269), and the offset at which a drain's output begins. -/
def drainRowBytes (fmt : Nat) : Nat := if fmt = 0 then 512 else if fmt = 1 then 256 else 128
def drainAt (o : EngOp) : Nat := if o.task.isSome then o.row else drainOffset o.d1.toNat
/-- The tag of a drain's record (11 R272). -/
def drainTag (o : EngOp) : Nat := drainDst o.d0.toNat * 2 ^ 24 + fld (drainAt o) 7 24

/-- An infinity or a NaN. -/
def notFinite (c : Nat) : Bool := match fp32.decode c with | .fin _ _ _ => false | _ => true

/-- The two blocks of a row, with the scale that the mode agrees over a group (11 R271). -/
def drainBlocks (f : BlockFmt) (mode : Nat) (tile row : List Nat) : Nat :=
  let enc := fun (l : List Nat) =>
    let group := if mode = 0 then l else if mode = 1 then row else tile
    if group.any notFinite then poisonedBlock
    else if mode = 0 then encodeBlock f none l
    else encodeBlock f (some (scaleCode f ((group.map fp32.decode).foldl Num.amax (Num.fin false 0 0)))) l
  enc (row.take 64) + enc (row.drop 64) * 2 ^ 512

/-- One output row, as bits. -/
def drainRow (fmt mode : Nat) (tile row : List Nat) : Nat :=
  match fmt with
  | 0 => pack 32 row
  | 1 => pack 16 (row.map fun c => bfloat.encode .rne false (fp32.decode c))
  | 6 => pack 8 (row.map fun c => fpE4m3.encode .rne true (fp32.decode c))
  | _ => drainBlocks (blockFmtOf (fmt - 2)) mode tile row

/-- A drain's output lines: offset from its start, and 1,024 bits. -/
def drainLines (o : EngOp) (t : Tile) : List (Nat × Nat) :=
  let d := o.d0.toNat
  let fmt := drainFmt d
  let rows := (List.range 128).map fun r => t.row (permRow o.perm r)
  let tile := if drainMode d = 2 then rows.flatten else []
  rows.zipIdx.flatMap fun r =>
    let v := drainRow fmt (drainMode d) tile r.1
    (List.range (drainRowBytes fmt / 128)).map fun i => (r.2 * drainRowBytes fmt + 128 * i, fld v (1024 * i) 1024)

/-- A drain has ended with its status: record, or the task's tile (11 R272; 13 R301). -/
def State.drainDone (s : State) (h id : Nat) : State :=
  match s.op? h id with
  | none => s
  | some o =>
    let st := o.status.getD 0
    let s := ((s.returnTile h o).opGone h o).engineRecord o st (drainTag o) (drainEvent o.d0.toNat)
    match o.task with
    | some (die, name, _) => s.tileEnded die name st o.tc
    | none => s

/-- A drain ends early; the pins of lines not written clear (11 R272; 14 R330). -/
def State.drainFail (s : State) (h id status : Nat) : State :=
  match s.op? h id with
  | none => s
  | some o =>
    if o.status.isSome then s
    else
      let s := s.modOp h id fun o => { o with status := some status, lines := [], k := 1 }
      (o.lines.foldl (fun s l => s.releasePin l.1) s).drainDone h id

/-- A hedge's messages carry the cut bit of its own cut (15 R338). -/
def State.hedgeCutBit (s : State) (h asid : Nat) : Bool :=
  s.yew.snaps.any fun n => n.status == 0 && (Tab.get? n.hedges h).isSome && (s.jobOf asid).any fun j => j.num == n.job

/-- A drain's lines for another chip travel as active messages (11 R272); each stands until that chip tells that it is
performed (log 28), named by its number from the start of the destination's view. -/
def State.drainAway (s : State) (h : Nat) (o : EngOp) (l : List (Nat × Nat)) : State :=
  let dst := drainDst o.d0.toNat
  l.foldl (fun s e =>
    let item : PorterItem :=
      { blk := 0, off := 0, asid := o.asid, cls := o.cls, pt := o.t0, regs := [], cut := s.hedgeCutBit h o.asid, land := none, msg := none,
        wr := some { offset := drainAt o + e.1, bytes := 128, value := e.2, op := 0, h := 0 } }
    s.sendTo o.asid dst item.cut (.activeMessageArrival dst item)) s

/-- DRAIN_START (11 R271, R272): the tile is read, the output settled, the destination checked and its lines pinned. A line
that is pinned, or a page that a snapshot still shares, makes it wait. -/
def execDrainStart (h id : Nat) (s : State) : Out := .next <|
  match s.op? h id with
  | none => s
  | some o =>
    let d := o.d0.toNat
    let t := (s.hedge h).tile (o.phys.getD 0)
    let dst := drainDst d
    let c := s.phys dst
    let here := chipOf dst == s.chip o.asid
    let view := privateView (s.core c).csr.lsplit o.cls
    let size := 128 * drainRowBytes (drainFmt d)
    let read := fun (s : State) => s.modOp h id fun o =>
      { o with k := 1, t0 := if t.tc = 0 || o.task.isSome then o.t0 else max o.t0 (t.tc + 1), tc := max o.tc (t.tc + 1) }
    if o.k != 0 || o.status.isSome then s
    else if !t.poison.isEmpty then s.drainFail h id 0x01
    else if here && (s.rename dst).st != 0 then s.drainFail h id 0x05
    else if here && (!s.viewOpen c o.asid o.cls || view.2 < drainAt o + size) then s.drainFail h id 0x08
    else if !here && s.linkDown o.asid dst then s.drainFail h id 0x05
    else if !here then
      let l := drainLines o t
      let s := ((read s).drainAway h o l).modOp h id fun o => { o with lines := l.map fun e => (lineOf (drainAt o + e.1), e.2) }
      (if o.cls = 0 then s else s.returnTile h o).kick h
    else
      let at_ := sramAt c (view.1 + drainAt o)
      let lines := (drainLines o t).map fun e => (lineOf (at_ + e.1), e.2)
      let shared := ((List.range (size / 128)).map fun i => at_ + 128 * i).find? s.sharedPage
      match shared with
      | some a => (s.post (.sramPageCopy (a / 4096))).after 8 (.drainStart h id)
      | none =>
        if lines.any fun l => s.pins.contains l.1 then s.after 8 (.drainStart h id)
        else
          let s := { (read s) with pins := s.pins ++ lines.map Prod.fst }
          let s := s.modOp h id fun o => { o with lines := lines }
          let s := if o.cls = 0 then s else s.returnTile h o
          ((s.post (.drainLineWrite h id (lines.headD (0, 0)).1)).kick h)

/-- The line of a core's SRAM that stands where another core's does (01 R25: the name moved while the drain ran). -/
def sramLineOn (c line : Nat) : Nat := lineOf (sramAt c 0) + line % (2 ^ 20 / 128)

/-- DRAIN_LINE_WRITE (11 R272): one line is performed at the SRAM of the core that holds the destination's name then (01 R25),
and its pin clears; or another chip tells that it has performed one. A change of that core's split holds it (04 R86). -/
def execDrainLineWrite (h id line : Nat) (s : State) : Out := .next <|
  match s.op? h id with
  | none => s
  | some o =>
    let dst := drainDst o.d0.toNat
    let c := s.phys dst
    match o.lines.find? fun l => l.1 == line with
    | none => s
    | some l =>
      let write := fun (s : State) =>
        let (ts, s) := s.engineWrite (if o.task.isSome then c else o.core) (sramLineOn c line) l.2 (ones 1024) o.t0
        let s := s.modOp h id fun o => { o with tc := max o.tc ts, lines := o.lines.filter fun e => e.1 != line }
        s.releasePin line
      if chipOf dst != s.chip o.asid then
        let s := s.modOp h id fun o => { o with lines := o.lines.filter fun e => e.1 != line }
        if (o.lines.filter fun e => e.1 != line).isEmpty then s.post (.drainComplete h id) else s
      else if s.splitWaits c then s.after 8 (.drainLineWrite h id line)
      else if (s.rename dst).st != 0 || (s.core c).csr.stopped then
        let (b, s) := s.takeBit
        (if b then write s else s).drainFail h id 0x05
      else
        let s := write s
        match (o.lines.filter fun e => e.1 != line) with
        | e :: _ => s.post (.drainLineWrite h id e.1)
        | [] => s.post (.drainComplete h id)

/-- The wake of a drain (11 R273; 13 R301): a message of kind 5 for an entry index of the wake block. -/
def State.wakeOf (s : State) (h : Nat) (o : EngOp) : Travel :=
  let d1 := o.d1.toNat
  let g1 := match o.task with
    | some t => 2 ^ 63 + t.2.2 % 2 ^ 32
    | none => s.coreId o.asid o.core * 4 + o.tile
  { pt := o.tc + 1, asid := o.asid, dest := pa (drainBlock d1) 0, j := some (drainEntry d1), origin := s.coreId o.asid (if o.task.isSome then engineCore h else o.core),
    link := 0, live := ones 16, full := ones 16, maskLive := ones 7, kind := 5, cls := o.cls, redun := o.redun, rolled := false,
    regs := (0, BitVec.ofNat 64 (drainAt o % 2 ^ 32)) :: (1, BitVec.ofNat 64 g1) :: ((List.range 14).map fun i => (i + 2, 0)),
    masks := (List.range 7).map fun i => (i + 1, 0), cut := s.hedgeCutBit h o.asid, tid := drainDst o.d0.toNat, parent := some (h, o.id) }

/-- DRAIN_COMPLETE (11 R272, R273): the wake goes out; the record, or the task's tile, follows its acceptance. -/
def execDrainComplete (h id : Nat) (s : State) : Out := .next <|
  match s.op? h id with
  | none => s
  | some o =>
    if o.status.isSome then s
    else
      let s := s.modOp h id fun o => { o with status := some 0 }
      if drainBlock o.d1.toNat = 0 || s.dropsFor (h / 32) o.asid then s.drainDone h id
      else
        let m := s.wakeOf h o
        let s := s.sendTo o.asid m.tid m.cut (.wakeArrival m.tid m)
        if chipOf m.tid = s.chip o.asid then s else s.drainDone h id

/-- A wake's drain has its acceptance. -/
def State.wakeTaken (s : State) (m : Travel) : State :=
  match m.parent with
  | some (h, id) => s.drainDone h id
  | none => s

/-- WAKE_ARRIVAL (11 R273; 02 R43, R52): a thread begins at the wake entry; a block not held goes to Ozine with the wake. -/
def execWakeArrival (dst : Nat) (m : Travel) (s : State) : Out := .next <|
  match s.intercept dst m with
  | some t => if s.dropsFor (dieOf dst) m.asid || ((s.rename dst).st == 0) then t.wakeTaken m else t
  | none =>
    let c := s.phys dst
    let keep : Option (Nat × Nat) := m.parent.bind fun p =>
      if s.yew.snaps.any fun n => n.status == 0 && (Tab.get? n.hedges p.1).isSome then some p else none
    let s := s.accepting c m.asid m.cut (.wakeArrival dst { m with rolled := true, parent := keep })
    match (s.core c).placedBlock m.asid (m.dest / 512) with
    | none => s.handBoxwood (dieOf dst) m
    | some p =>
      let d := match m.j with
        | some e => p.descs[e]?
        | none => entryAt p.descs (m.dest % 512)
      match d with
      | some d =>
        let t := { (trimTravel m d) with dest := pa p.blk (descOff d), j := none, parent := none }
        (s.accept c t .wake).wakeTaken m
      | none =>
        let s := s.recordFor m.asid (faultRec 7 m.asid 0 0 (jDetail (m.j.getD 0) p.blk) m.pt)
        let s := match s.jobOf m.asid with
          | some j => s.modJob j.num fun j => { j with kept := j.kept ++ [{ m with parent := none }] }
          | none => s
        s.wakeTaken m

end Sys2Proof.Machine
end

