-- ==== Sys2Proof/Machine/Snapshot.lean ====
section
/-! DEFINITION. Snapshots (15 R337 to R348): requests, opening, markers, the copying of pages, the finish, release. The store
holds, for each snapshot, the first copy made of a page after its cut; the image of a page under a snapshot is the first
copy in it or in a later one, else the page as it stands (log 30). -/

namespace Sys2Proof.Machine

/-! ### Snapshots that a job holds -/

/-- Whether a snapshot is held: open or finished. -/
def Snap.held (n : Snap) (job : Nat) : Bool := n.job == job && n.status ≤ 1

/-- The job's latest finished snapshot. -/
def State.latestSnap (s : State) (job : Nat) : Option Snap :=
  (s.yew.snaps.filter fun n => n.job == job && n.status == 1).getLast?

/-- The leaf of a page set to a state, its translations dropped. -/
def State.setLeaf (s : State) (asid va slot entry st : Nat) : State :=
  let s := s.dropTlb asid va fun _ => true
  { s with mem := s.mem.write slot 8 (entry % 2 ^ 61 + st * 2 ^ 61) }

/-- The leaf that maps an address of an ASID on a die: where it stands, and the entry. -/
def State.leafOf (s : State) (die asid va : Nat) : Option (Nat × Nat) :=
  (s.leafSlot die asid va).map fun a => (a, s.mem.read a 8)

/-- The pages of a job's ASIDs return to normal (15 R348). -/
def State.normalLeaves (s : State) (asids : List Nat) : State :=
  (s.jobLeaves asids).foldl (fun s (l : Nat × Nat × Nat × Nat × Nat) =>
    let st := fld l.2.2.2.2 61 3
    if st == 3 || st == 4 then s.setLeaf l.2.1 l.2.2.1 l.2.2.2.1 l.2.2.2.2 1 else s) s

/-! ### Waiting writers -/

/-- What waits at a page's key goes on: transfers, chain commands, records, lists of roots. -/
def State.wakeWaiters (s : State) (key : Nat) : State :=
  let s := s.wakeKey key
  s.dies.foldl (fun s (d : Nat × Die) =>
    let s := d.2.recs.foldl (fun s r => if r.wait == some key then s.post (.counterZeroWake d.1 r.addr) else s) s
    d.2.roots.foldl (fun s q => if q.wait == some key then s.postOnce (.counterZeroWake d.1 q.name) else s) s) s

/-- The keys of pages at which something waits. -/
def State.waitKeys (s : State) : List Nat :=
  let units := s.cores.flatMap fun e =>
    e.2.units.transfers.filterMap Transfer.wait ++ (e.2.units.chain.bind ChainRun.wait).toList
  let recs := s.dies.flatMap fun d => d.2.recs.filterMap Rec.wait ++ d.2.roots.filterMap RootRun.wait
  ((units ++ recs).filter fun k => k < 2 ^ 61).eraseDups

/-- Every writer that waits for a copy looks again. -/
def State.wakeCopies (s : State) : State :=
  let isCopy := fun (w : Wait) => match w with
    | .pageCopy _ => true
    | .sramCopy _ => true
    | _ => false
  let s := { s with cores := s.cores.map fun (e : Nat × Core) => (e.1, e.2.wakeIf fun _ _ w => isCopy w) }
  s.waitKeys.foldl (fun s key => s.wakeWaiters key) s

/-! ### The store (15 R340 to R343) -/

/-- The die whose store takes a page: that of its memory, of the port of a far window (01 R18), of the hedge or core; and the
units of 4 KiB that it takes. -/
def State.pageDie (s : State) (base : Nat) : Nat :=
  if base < 2 ^ 39 then base / 2 ^ 36 else if 2 ^ 49 ≤ base then (base - 2 ^ 49) / 2 ^ 26
  else if 2 ^ 48 ≤ base then (base - 2 ^ 48) / 2 ^ 30 else farDie (portAt s.host.farWindows (base - 2 ^ 43)).1
def pageUnits (base : Nat) : Nat := if 2 ^ 48 ≤ base then 1 else 16
def State.storeUsed (s : State) (die : Nat) : Nat :=
  s.yew.snaps.foldl (fun u n => n.pages.foldl (fun u p => if s.pageDie p.1 == die then u + pageUnits p.1 else u) u) 0

/-- A store whose use is at its mark or below may signal again. -/
def State.restock (s : State) : State :=
  { s with dies := s.dies.map fun (d : Nat × Die) =>
      (d.1, { d.2 with yewSignalled := d.2.yewSignalled && 16 * d.2.yew.hwm < s.storeUsed d.1 }) }

/-! ### The release of a snapshot (15 R348) -/

/-- What an older snapshot takes from a later one that is dropped. -/
def Snap.merge (o n : Snap) : Snap :=
  let has := fun (base : Nat) => o.pages.any fun p => p.1 == base
  { o with pages := o.pages ++ n.pages.filter fun p => !has p.1,
           uncopied := o.uncopied ++ n.uncopied.filter fun b => !has b && !o.uncopied.contains b,
           shared := o.shared ++ n.shared.filter fun p => !has (p * 4096) && !o.shared.contains p }

/-- A snapshot whose entries are freed. -/
def Snap.freed (n : Snap) (status : Nat) : Snap :=
  { n with status := status, cores := [], hedges := [], scheds := [], pages := [], uncopied := [], shared := [], pinned := [],
           wantHedges := [], leaves := [], channel := [], wantCores := [], used := 0 }

/-- The i-th snapshot released (3) or failed (2), what older ones need of it kept with the next older one. -/
def State.dropSnap (s : State) (i status : Nat) : State :=
  match s.yew.snaps[i]? with
  | none => s
  | some n =>
    let older := ((s.yew.snaps.zipIdx.take i).filter fun e => e.1.held n.job).getLast?.map Prod.snd
    let fix := fun (e : Snap × Nat) =>
      let o := if e.1.job == n.job && e.1.parent == some n.tag && i < e.2 then { e.1 with parent := n.parent } else e.1
      if e.2 == i then n.freed status else if some e.2 == older then o.merge n else o
    let s := State.restock { s with yew := { s.yew with snaps := s.yew.snaps.zipIdx.map fix } }
    let s := if s.yew.snaps.any fun o => o.held n.job then s
      else s.normalLeaves (((s.job n.job).map Job.asids).getD [])
    s.wakeCopies

/-- The place of a job's finished snapshot with a tag. -/
def State.finishedAt (s : State) (job tag : Nat) : Option Nat :=
  s.yew.snaps.findIdx? fun n => n.job == job && n.tag == tag && n.status == 1

/-- The first held request opens when it can. -/
def State.openHeld (s : State) : State :=
  match s.yew.held with
  | [] => s
  | r :: _ => s.post (.snapshotOpen r.job r.tag)

/-- The open snapshot fails (15 R343, R350, R352). -/
def State.failOpen (s : State) : State :=
  match s.yew.snaps.findIdx? fun n => n.status == 0 with
  | none => s
  | some i => (s.dropSnap i 2).openHeld

/-- Yew's answer to a command of Ozine (15 R349). -/
def State.yewAnswer (s : State) (job status : Nat) : State := s.signal 10 job status

/-- YEW_RELEASE (15 R348, R349). -/
def execYewRelease (job tag : Nat) (s : State) : Out := .next <|
  match s.finishedAt job tag with
  | none => s.yewAnswer job 1
  | some i => (s.dropSnap i 3).yewAnswer job 0

/-! ### Opening (08 R195; 15 R337) -/

/-- No message with cut bit 1 is on its way (15 R345). -/
def State.quiet (s : State) : Bool := s.yew.counts.all fun e => e.2.sent1 == e.2.got1

/-- The leaves that take part in a snapshot: those that map bonded DRAM or far memory (17 R368). -/
def State.snapLeaves (s : State) (asids : List Nat) : List (Nat × Nat × Nat × Nat × Nat) :=
  (s.jobLeaves asids).filter fun l => pteAddr l.2.2.2.2 false 0 < 2 ^ 44

/-- Yew opens a snapshot: the DRAM controllers and the task schedulers take their cuts (15 R339, R340), and markers go out. -/
def State.openSnapshot (s : State) (job tag : Nat) : State :=
  match s.job job with
  | none => s
  | some j =>
    let leaves := s.snapLeaves j.asids
    let state := fun (l : Nat × Nat × Nat × Nat × Nat) => fld l.2.2.2.2 61 3
    let base := fun (l : Nat × Nat × Nat × Nat × Nat) => pteAddr l.2.2.2.2 false 0
    let fresh := (leaves.filter fun l => state l == 1 || state l == 4).map fun l => (l.1, l.2.1, l.2.2.1)
    let n : Snap :=
      { job := job, tag := tag, parent := (s.latestSnap job).map Snap.tag, scheds := s.dies.map fun d => (d.1, d.2.atCut j.asids),
        uncopied := ((leaves.filter fun l => state l == 1 || state l == 3 || state l == 4).map base).eraseDups,
        pinned := ((leaves.filter fun l => state l == 2).map base).eraseDups, leaves := fresh,
        wantCores := (s.cores.filter fun e => !e.2.csr.stopped).map Prod.fst,
        maxTime := max (homeTimes s.homes (leaves.map base)) (maxOf (s.dies.flatMap fun d => (d.2.atCut j.asids).recs.map Rec.ts)) }
    let older := fun (o : Snap) => if o.held job then { o with uncopied := [], pinned := [] } else o
    let s := { s with yew := { s.yew with snaps := s.yew.snaps.map older ++ [n] } }
    let s := n.wantCores.foldl (fun s c => s.post (.snapshotMarker c tag)) s
    let s := fresh.foldl (fun s l => s.post (.snapshotLeafRewrite l.1 l.2.1 l.2.2)) s
    let s := n.pinned.foldl (fun s p => s.post (.pinnedPageCopy p)) s
    let others := (List.range j.chips).filter (· != j.chip)
    let s := { s with outbox := s.outbox ++ others.map fun c => OutMsg.mk c (.snapshotOpen job tag) }
    s.after 64 (.snapshotFinish job tag)

/-- SNAPSHOT_OPEN (15 R337): a held request, or another chip's open message. -/
def execSnapshotOpen (job tag : Nat) (s : State) : Out := .next <|
  if s.openSnap.isSome then s
  else if !s.quiet then s.after 64 (.snapshotOpen job tag)
  else
    let s := { s with yew := { s.yew with held := s.yew.held.eraseP fun (r : SnapReq) => r.job == job && r.tag == tag } }
    let s := s.openSnapshot job tag
    if s.openSnap.isSome then s else s.openHeld

/-- SNAP_REQUEST (08 R195): with none open it opens at once (15 R345 has only a held one wait for the counts; DEDUCED, log 72). -/
def execSnapRequest (c slot tag : Nat) (s : State) : Out := .next <|
  let x := s.ctx c slot
  let s := match s.jobOf x.asid with
    | none => s
    | some j =>
      let held := (s.yew.held.filter fun (r : SnapReq) => r.job == j.num).length
      match s.openSnap with
      | none =>
        (s.openSnapshot j.num tag).cutCore c
      | some n =>
        if n.job = j.num && n.tag = tag then s
        else if held < 4 then { s with yew := { s.yew with held := s.yew.held ++ [SnapReq.mk j.num tag] } }
        else s.recordFor x.asid (faultRec 4 x.asid (s.tid c slot) 0 tag x.pt)
  s.post (.snapAnswer c slot)

/-- SNAPSHOT_MARKER (15 R337): the core's router takes its first marker of the snapshot. -/
def execSnapshotMarker (c tag : Nat) (s : State) : Out := .next <|
  match s.openSnap with
  | some n => if n.tag = tag && !(s.core c).csr.stopped then s.cutCore c else s
  | none => s

/-! ### Copying (15 R340 to R343) -/

/-- A page's bytes and poison marks, as they stand (14 R333). -/
def State.pageImage (s : State) (base : Nat) : Memory × Tab Bool :=
  let end_ := base + pageSpan base
  (List.filter (fun c => base ≤ c.1 && c.1 < end_) s.mem, s.poison.filter fun p => base / 8 ≤ p.1 && p.1 < end_ / 8)

/-- A snapshot awaits the copy of a page. -/
def Snap.awaits (n : Snap) (base : Nat) : Bool :=
  n.status ≤ 1 && (n.uncopied.contains base || n.pinned.contains base || (base % 4096 == 0 && 2 ^ 48 ≤ base && n.shared.contains (base / 4096)))

/-- The copy of a page enters a snapshot that awaits it. -/
def Snap.take (base : Nat) (image : Memory × Tab Bool) (n : Snap) : Snap :=
  if !n.awaits base then n
  else { n with pages := n.pages ++ [(base, image.1, image.2)], uncopied := n.uncopied.filter (· != base),
                pinned := n.pinned.filter (· != base), shared := n.shared.filter fun p => p * 4096 != base, used := n.used + pageUnits base }

/-- A page copied to the store; the flag is false while the writer must wait for room. A copy of an unfinished snapshot
that finds the store full fails it (15 R343). -/
def State.copyPage (s : State) (base : Nat) : State × Bool :=
  if !(s.yew.snaps.any fun n => n.awaits base) then (s, true)
  else
    let die := s.pageDie base
    let cfg := (s.die die).yew
    let used := s.storeUsed die + pageUnits base
    if 16 * cfg.size < used then
      if s.yew.snaps.any fun n => n.status == 0 && n.awaits base then (s.failOpen, true) else (s, false)
    else
      let s := { s with yew := { s.yew with snaps := s.yew.snaps.map (Snap.take base (s.pageImage base)) } }
      if 16 * cfg.hwm < used && !(s.die die).yewSignalled then
        ((s.modDie die fun d => { d with yewSignalled := true }).signal 11 die 0, true)
      else (s, true)

/-- SNAP_PAGE_COPY (15 R340; 04 R105): the page is copied for the snapshot, its leaf becomes snap-copied, and its writers
go on. -/
def execSnapPageCopy (die asid va : Nat) (s : State) : Out := .next <|
  let wake := fun (s : State) =>
    let waits := fun (w : Wait) => match w with
      | .pageCopy v => v / 65536 == va / 65536
      | _ => false
    State.wakeWaiters { s with cores := s.cores.map fun (e : Nat × Core) => (e.1, e.2.wakeIf fun _ _ w => waits w) } (vaKey va)
  match s.leafOf die asid va with
  | none => wake s
  | some (slot, e) =>
    match s.copyPage (pteAddr e false 0) with
    | (s, false) => s.after 64 (.snapPageCopy die asid va)
    | (s, true) =>
      let s := if fld e 61 3 == 1 || fld e 61 3 == 3 then s.setLeaf asid va slot e 4 else s
      let drop := fun (n : Snap) => { n with leaves := n.leaves.filter fun l => l != (die, asid, va / 65536 * 65536) }
      wake { s with yew := { s.yew with snaps := s.yew.snaps.map drop } }

/-- SRAM_PAGE_COPY (15 R341). -/
def execSramPageCopy (page : Nat) (s : State) : Out := .next <|
  match s.copyPage (page * 4096) with
  | (s, false) => s.after 64 (.sramPageCopy page)
  | (s, true) =>
    let s := { s with cores := s.cores.map fun (e : Nat × Core) => (e.1, e.2.wakeIf fun _ _ w => w == Wait.sramCopy page) }
    s.wakeWaiters (sramKey page)

/-- CUT_LINE_COPY (15 R341): a line that was dirty at the cut has its copy in the store, which its page's image holds. -/
def execCutLineCopy (line : Nat) (s : State) : Out := .next <|
  let clear := fun (l : CacheLine) => if l.line == line then { l with cut := false } else l
  { s with cores := s.cores.map fun (e : Nat × Core) => (e.1, { e.2 with cache := e.2.cache.map clear }),
           hedges := s.hedges.map fun (h : Nat × Hedge) => (h.1, { h.2 with victim := h.2.victim.map clear }) }

/-- PINNED_PAGE_COPY (15 R342). -/
def execPinnedPageCopy (page : Nat) (s : State) : Out := .next <|
  match s.copyPage page with
  | (s, false) => s.after 64 (.pinnedPageCopy page)
  | (s, true) => s.wakeCopies

/-- SNAPSHOT_LEAF_REWRITE (15 R340): a leaf of a page not yet written becomes snap-shared. -/
def execSnapshotLeafRewrite (die asid va : Nat) (s : State) : Out := .next <|
  if !(s.yew.snaps.any fun n => n.leaves.contains (die, asid, va)) then s
  else
    let drop := fun (n : Snap) => { n with leaves := n.leaves.filter fun l => l != (die, asid, va) }
    let s := { s with yew := { s.yew with snaps := s.yew.snaps.map drop } }
    match s.leafOf die asid va with
    | none => s
    | some (slot, e) =>
      if (fld e 61 3 == 1 || fld e 61 3 == 4) && s.yew.snaps.any fun n => n.status ≤ 1 && n.uncopied.contains (pteAddr e false 0) then
        s.setLeaf asid va slot e 3
      else s

/-! ### The finish (15 R345) -/

/-- Lines whose cut bit is set. -/
def State.cutLines (s : State) : List Nat :=
  ((s.cores.flatMap fun e => (e.2.cache.filter CacheLine.cut).map CacheLine.line)
    ++ (s.hedges.flatMap fun h => (h.2.victim.filter CacheLine.cut).map CacheLine.line)).eraseDups

/-- Every channel of a job is closed; the counts of a job of several chips are summed by their Yews (log 31). -/
def State.channelsClosed (s : State) (job : Nat) : Bool :=
  let n := Tab.getD s.yew.counts job {}
  match s.job job with
  | some j => n.sent0 == n.got0 || 1 < j.chips
  | none => true

/-- SNAPSHOT_FINISH (15 R345, R348): when all have cut and copied and the channels are closed, the snapshot is finished; an
older one with its tag is released, and the next held request opens. Until then Yew looks again. -/
def execSnapshotFinish (job tag : Nat) (s : State) : Out := .next <|
  match s.openSnap with
  | none => s
  | some n =>
    if n.job != job || n.tag != tag then s
    else
      let s := (n.wantHedges.filter fun h => (s.hedge h).running.isNone).foldl (fun s h => s.cutHedge h) s
      let lines := s.cutLines
      let s := lines.foldl (fun s l => s.postOnce (.cutLineCopy l)) s
      match s.openSnap with
      | none => s
      | some n =>
        if n.wantCores.isEmpty && n.wantHedges.isEmpty && lines.isEmpty && n.pinned.isEmpty && n.leaves.isEmpty && s.channelsClosed job then
          let old := s.finishedAt job tag
          let s := s.modSnap job tag fun n => { n with status := 1, finished := s.now }
          let s := match old with
            | some i => s.dropSnap i 3
            | none => s
          s.openHeld
        else s.after 64 (.snapshotFinish job tag)

end Sys2Proof.Machine
end

