-- ==== Sys2Proof/Machine/Rollback.lean ====
section
/-! DEFINITION. Rollback (15 R350, R351; 02 R52): what is dropped of a job, the greatest time, the restoration of memory, cores,
hedges and schedulers, and the redelivery of channel records. -/

namespace Sys2Proof.Machine

/-! ### What belongs to a job -/

/-- The engine operation that a step names. -/
def opOf (i : Instr) : Option (Nat × Nat) :=
  match i with
  | .mma h n => some (h, n)
  | .mmac h n => some (h, n)
  | .zero h n => some (h, n)
  | .matrixCommandComplete h n => some (h, n)
  | .accldComplete h n => some (h, n)
  | .accstComplete h n => some (h, n)
  | .drainStart h n => some (h, n)
  | .drainLineWrite h n _ => some (h, n)
  | .drainComplete h n => some (h, n)
  | _ => none

/-- A ring without the entries that satisfy a test. -/
def Ring.drop {α : Type} (r : Ring α) (p : α → Bool) : Ring α :=
  r.settle (r.old.filter fun q => !p q) (r.entries.filter fun q => !p q)

/-- A core without a job's contexts, queue entries that no engine has accepted, and waiting work (17 R402; 15 R350). -/
def Core.dropEntries (k : Core) (mine : Nat → Bool) : Core :=
  let gone := (k.ctxs.filter fun e => e.2.status != .free && mine e.2.asid).map Prod.fst
  let q := k.q
  let u := k.units
  { k with
    ctxs := k.ctxs.filter fun e => !gone.contains e.1,
    q := { q with meq := q.meq.filter (fun o => !mine o.asid), cpq := q.cpq.filter (fun r => !mine r.asid),
                  chq := q.chq.filter (fun r => !mine r.asid), tkq := q.tkq.filter (fun r => !mine r.2.1),
                  waiters := q.waiters.filter fun w => !gone.contains w.2.1 },
    units := { u with rounds := u.rounds.filter (fun r => !mine r.asid), heldRounds := u.heldRounds.filter (fun e => !mine e.1),
                      dropped := u.dropped.filter fun e => !mine e.1 },
    work := { k.work with deque := k.work.deque.filter (fun q => !mine q.asid), overflow := k.work.overflow.drop fun q => mine q.asid,
                          spill := k.work.spill.drop fun q => mine q.asid,
                          gathers := k.work.gathers.filter (fun g => !mine g.asid),
                          porterQ := k.work.porterQ.filter (fun i => !mine i.asid),
                          porter := k.work.porter.bind fun i => if mine i.asid then none else some i,
                          porters := k.work.porters.filter (fun e => !mine e.1.asid),
                          saved := k.work.saved.filter (fun e => !mine e.2.ctx.asid) } }

/-- A die without a job's held messages and records. -/
def Die.dropJob (d : Die) (mine : Nat → Bool) : Die :=
  let recs := d.recs.filter fun r => mine r.asid || mine r.origAsid
  let named := fun (n : Nat) => recs.any fun r => r.addr == n
  { d with hold := d.hold.filter (fun m => !mine m.asid), overflow := d.overflow.drop (fun q => mine q.asid),
           recs := d.recs.filter (fun r => !(mine r.asid || mine r.origAsid)), roots := d.roots.filter (fun q => !mine q.asid),
           tasks := d.tasks.map (fun e => (e.1, e.2.drop named)), holds := d.holds.map (fun e => (e.1, e.2.drop named)),
           joiners := d.joiners.filter fun j => !(j.2.1 == schedWaiter && named j.2.2.2) }

/-- Hornbeam solves of a job dropped (11 R276): each register's loading bit clears, and a solve under way is abandoned. -/
def Core.dropSolves (k : Core) (mine : Nat → Bool) : Core :=
  let (gone, kept) := k.units.solves.partition fun v => mine (k.ctx v.slot).asid
  { k with units := { k.units with solves := kept },
           regs := { k.regs with w := k.regs.w.map fun e => if gone.any fun v => v.wd == e.1 then (e.1, { e.2 with loading := false }) else e } }
def State.dropSolves (s : State) (mine : Nat → Bool) : State :=
  let cut := (s.hedges.filter fun h => h.2.horn.any fun c => ((s.core c).units.solves.head?).any fun v => mine ((s.core c).ctx v.slot).asid).map Prod.fst
  let free := fun (h : Nat × Hedge) => if cut.contains h.1 then (h.1, { h.2 with horn := none }) else h
  let s := { s with cores := s.cores.map fun e => (e.1, e.2.dropSolves mine), hedges := s.hedges.map free,
                    timers := s.timers.filter fun t => !(cut.any fun h => t.2 == Instr.hornbeamSolveComplete h) }
  cut.foldl (fun s h => s.post (.hornbeamSolveStart h)) s

/-- Joiners of contexts that a job holds on a core are forgotten by their counters' homes. -/
def State.dropJoiners (s : State) (mine : Nat → Bool) : State :=
  let theirs := fun (j : Nat × Nat × Nat × Nat) => j.2.1 < schedWaiter && mine (s.ctx j.2.1 j.2.2.1).asid && (s.ctx j.2.1 j.2.2.1).status != .free
  { s with dies := s.dies.map fun d => (d.1, { d.2 with joiners := d.2.joiners.filter fun j => !theirs j }) }

/-- The job's entries dropped everywhere. -/
def State.dropEntries (s : State) (mine : Nat → Bool) : State :=
  let s := s.dropJoiners mine
  { s with cores := s.cores.map fun e => (e.1, e.2.dropEntries mine),
           dies := s.dies.map fun d => (d.1, d.2.dropJob mine) }

/-- The job's accepted work dropped from engines, copy channels and chain units, with the pins it holds. -/
def State.dropEngines (s : State) (mine : Nat → Bool) : State :=
  let ops := s.hedges.flatMap fun h => (h.2.ops.filter fun o => mine o.asid).map fun o => (h.1, o)
  let pins := (ops.flatMap fun o => o.2.lines.map Prod.fst) ++ s.cores.flatMap fun e =>
    ((e.2.units.transfers.filter fun t => mine t.req.asid).flatMap Transfer.lines)
      ++ (e.2.units.chain.toList.filter fun r => mine r.req.asid).flatMap ChainRun.lines
  let named := fun (i : Instr) => match opOf i with
    | some n => ops.any fun o => o.1 == n.1 && o.2.id == n.2
    | none => match i with
      | .kStepBoundary h => ops.any fun o => o.1 == h && (s.hedge h).running == some o.2.id
      | _ => false
  let strip := fun (x : Hedge) =>
    let theirs := fun (id : Nat) => x.ops.any fun o => o.id == id && mine o.asid
    { x with ops := x.ops.filter (fun o => !mine o.asid), borrows := x.borrows.filter (fun b => !mine b.asid),
             running := x.running.bind fun id => if theirs id then none else some id, overtaken := x.overtaken.filter fun id => !theirs id }
  let unit := fun (u : CoreUnits) =>
    { u with transfers := u.transfers.filter (fun t => !mine t.req.asid), chains := u.chains.filter (fun r => !mine r.req.asid),
             chain := u.chain.bind fun r => if mine r.req.asid then none else some r }
  State.releasePins { s with net := s.net.filter (fun i => !named i), timers := s.timers.filter (fun t => !named t.2),
                             hedges := s.hedges.map (fun h => (h.1, strip h.2)),
                             cores := s.cores.map fun e => (e.1, { e.2 with units := unit e.2.units }) } pins

/-- Messages of the job in flight are discarded (02 R52). -/
def State.dropMessages (s : State) (mine : Nat → Bool) : State :=
  let theirs := fun (i : Instr) => (msgOf i).any fun m => mine m.1
  { s with net := s.net.filter (fun i => !theirs i), timers := s.timers.filter fun t => !theirs t.2 }

/-! ### Times (15 R350 step 2) -/

/-- The thread message that a step carries. -/
def travelOf (i : Instr) : Option Travel :=
  match i with
  | .travelMessageArrival _ m | .returnedTravelMessage m | .forkChildArrival _ m | .stolenChildArrival _ m | .wakeArrival _ m => some m
  | .blockDirectoryReadReturn _ _ _ m => m
  | _ => none

/-- The thread messages that wait on a core. -/
def Core.waitingTravels (k : Core) : List Travel :=
  (k.work.deque ++ k.work.overflow.all ++ k.work.spill.all).filterMap QSlot.thread

/-- Tmax of a job whose pages stand at some bases: the greatest of its live PTs, its lines' times, and what its manifests recorded. -/
def State.jobTime (s : State) (j : Job) (bases : List Nat) : Nat :=
  let mine := j.asids.contains
  let pts := fun (k : Core) => (k.ctxs.map Prod.snd ++ (k.work.saved.map Prod.snd ++ k.work.porters.map Prod.snd).map SavedCtx.ctx).filter fun x => mine x.asid
  let travels := s.cores.flatMap (fun (e : Nat × Core) => e.2.waitingTravels) ++ s.dies.flatMap (fun (d : Nat × Die) => d.2.hold ++ d.2.overflow.all.filterMap QSlot.thread)
    ++ (s.net ++ s.timers.map Prod.snd).filterMap travelOf
  let copies := s.cores.flatMap (fun (e : Nat × Core) => e.2.cache) ++ s.hedges.flatMap fun (h : Nat × Hedge) => h.2.victim
  maxOf (s.cores.flatMap (fun (e : Nat × Core) => (pts e.2).map Ctx.pt) ++ (travels.filter fun m => mine m.asid).map Travel.pt
    ++ [lineTimes copies bases, homeTimes s.homes bases] ++ (s.yew.snaps.filter fun n => n.job == j.num).map Snap.maxTime)

/-- The greatest logical time of the package. -/
def State.maxTime (s : State) : Nat :=
  let bases := (s.homes.flatMap fun h => h.2.entries.map fun e => pageOf e.line) ++ s.cores.flatMap fun e => e.2.cache.map fun l => pageOf l.line
  maxOf (s.cores.map (fun e => e.2.partTime) ++ s.hedges.map (fun h => h.2.partTime) ++ s.homes.map (fun h => h.2.high) ++ s.sramT.map (fun t => max t.2.1 t.2.2)
    ++ s.dies.flatMap (fun d => d.2.recs.map Rec.ts ++ d.2.hold.map Travel.pt) ++ (s.net ++ s.timers.map Prod.snd).filterMap (fun i => (msgOf i).map Prod.snd)
    ++ [lineTimes (s.cores.flatMap (fun e => e.2.cache) ++ s.hedges.flatMap fun h => h.2.victim) bases, homeTimes s.homes bases] ++ s.yew.snaps.map Snap.maxTime)

/-- Every home drops the job's lines, and its high-water time rises; the times of its SRAM pages likewise. -/
def State.raiseTimes (s : State) (tmax : Nat) (bases pages : List Nat) : State :=
  let theirs := fun (line : Nat) => bases.contains (pageOf line)
  let home := fun (h : Home) => { h with entries := h.entries.filter (fun e => !theirs e.line), high := max h.high tmax,
                                         l2 := h.l2.filter fun l => !theirs l.line }
  let keep := fun (l : CacheLine) => !theirs l.line
  { s with homes := s.homes.map (fun h => (h.1, home h.2)),
           cores := s.cores.map (fun e => (e.1, { e.2 with cache := e.2.cache.filter keep })),
           hedges := s.hedges.map (fun h => (h.1, { h.2 with victim := h.2.victim.filter keep })),
           sramT := s.sramT.map fun t => if pages.contains (t.1 * 128 / 4096) then (t.1, tmax, tmax) else t }

/-! ### Memory (15 R350 step 3) -/

/-- A page set to its image. -/
def State.putPage (s : State) (base : Nat) (image : Memory × Tab Bool) : State :=
  let n := pageSpan base
  let rest := s.poison.filter fun p => !(base / 8 ≤ p.1 && p.1 < (base + n) / 8)
  { s with mem := s.mem.write base n (image.1.read base n), poison := image.2.foldl (fun t p => Tab.put t p.1 p.2) rest }

/-- The image of each page copied since the cut of the i-th snapshot: the first copy in it or in a later one of the job. -/
def State.imagesSince (s : State) (i job : Nat) : List (Nat × Memory × Tab Bool) :=
  ((s.yew.snaps.drop i).filter fun n => n.held job).foldl (fun l n =>
    l ++ n.pages.filter fun p => !l.any fun q => q.1 == p.1) []

/-- An address of a core's scratchpad moved to the physical core that holds its name now. -/
def movedPage (moves : List (Nat × Nat)) (base : Nat) : Nat :=
  match moves.find? fun m => sramAt m.1 0 ≤ base && base < sramAt m.1 0 + 2 ^ 20 with
  | some m => base - sramAt m.1 0 + sramAt m.2 0
  | none => base

/-- A line of a core's scratchpad likewise; and the lines that a core's restored transfers and chain commands write. -/
def movedLine (moves : List (Nat × Nat)) (line : Nat) : Nat := lineOf (movedPage moves (128 * line))
def Transfer.moved (t : Transfer) (m : Nat → Nat) : Transfer :=
  { t with lines := t.lines.map m, flying := t.flying.map fun p => { p with line := m p.line }, wait := none }
def ChainRun.moved (r : ChainRun) (m : Nat → Nat) : ChainRun := { r with lines := r.lines.map m, line := m r.line, wait := none }

/-! ### Contexts -/

/-- A waiting thread as rollback restores it: its PT, and its flag (log 99, DEDUCED). -/
def restoredThread (tmax : Nat) (m : Travel) : Travel := { m with pt := tmax + 1, rolled := true }
def QSlot.restored (tmax : Nat) (q : QSlot) : QSlot :=
  match q.body with
  | .travel m => { q with body := .travel (restoredThread tmax m) }
  | .wake m => { q with body := .wake (restoredThread tmax m) }
  | .send _ => q

/-- A context as rollback restores it (15 R350 step 4, R351). -/
def Ctx.rolled (tmax : Nat) (x : Ctx) : Ctx :=
  let x := { (x.setFlag 0 true) with pt := tmax + 1 }
  if x.status = .stopped then { x with status := x.prior.getD .ready, prior := none } else x

/-- Whether windows are free on a core. -/
def Core.windowFree (k : Core) (w : Win) : Bool :=
  let fits := fun (used : List (Nat × Nat)) (b n : Nat) => used.all fun u => b + n ≤ u.1 || u.1 + u.2 ≤ b
  fits (k.mainRuns 64) w.mainBase (8 * (w.mainCode + 1)) && fits (k.vecRuns 64) w.vecBase (4 * w.vecCode)

/-- A thread kept as the oldest arrival of its class, to return when there is room (02 R37). -/
def Core.keepMove (k : Core) (v : SavedCtx) : Core :=
  let key := k.work.saved.foldl (fun n e => max n e.1) 999 + 1
  { k with work := { k.work with saved := Tab.put k.work.saved key v } }

/-- One captured context returns: to its slot and windows, to its save area on a pre-empted core, or as a moved thread
where another thread has its place (log 32). -/
def Core.restoreSlot (k img : Core) (tmax : Nat) (e : Nat × Ctx) : Core :=
  let v := { img.saveCtx e.1 with ctx := e.2.rolled tmax }
  let waiting := { v with ctx := { v.ctx with prior := some v.ctx.status, status := .saved } }
  if k.work.preempted && e.2.cls != 0 && (Tab.get? k.work.saved e.1).isNone then
    { k with work := { k.work with saved := Tab.put k.work.saved e.1 waiting } }
  else if (k.ctx e.1).status == .free && k.windowFree e.2.win then k.restoreCtx e.1 v e.2.win
  else k.keepMove waiting

/-- A captured saved context returns. -/
def Core.restoreSaved (k : Core) (tmax : Nat) (e : Nat × SavedCtx) : Core :=
  let v := { e.2 with ctx := e.2.ctx.rolled tmax }
  if e.1 < 1000 && k.work.preempted && (Tab.get? k.work.saved e.1).isNone then { k with work := { k.work with saved := Tab.put k.work.saved e.1 v } }
  else k.keepMove (if e.1 < 1000 then { v with ctx := { v.ctx with prior := some (v.ctx.resumed.status) } } else v)

/-! ### Cores -/

/-- Entries put before a ring's own. -/
def Ring.prepend {α : Type} (r : Ring α) (l : List α) : Ring α := { r with entries := l ++ r.entries, tail := r.tail + l.length }

/-- A core's captured part put back: every register (03 R55; DBGCTL changes by Ozine alone, R75), of which k, w and the buffer
table only where `own` says that SHASID was the job's (15 R339). A chain command or a handler whose place another job has taken
goes before the queue. -/
def Core.restore (k img : Core) (own : Bool) (m : Nat → Nat) (tmax now : Nat) : Core :=
  let q := k.q
  let iq := img.q
  let u := k.units
  let iu := img.units
  let chains := (iu.chain.toList ++ iu.chains).map fun r => r.moved m
  let handler := img.work.porter.toList.map fun i => (i, { img.saveCtx 63 with ctx := (img.ctx 63).rolled tmax })
  let handlers := handler ++ img.work.porters.map fun e => (e.1, { e.2 with ctx := e.2.ctx.rolled tmax })
  let k := { k with
    regs := if own then img.regs else k.regs,
    csr := { k.csr with lsplit := img.csr.lsplit, vgroup := img.csr.vgroup, shasid := img.csr.shasid },
    q := { meq := iq.meq ++ q.meq, cpq := iq.cpq ++ q.cpq, chq := iq.chq ++ q.chq, tkq := iq.tkq ++ q.tkq,
           msq := iq.msq, evq := iq.evq, inq := iq.inq, held := iq.held, waiters := iq.waiters ++ q.waiters },
    units := { u with transfers := iu.transfers.map (fun t => t.moved m) ++ u.transfers,
                      nextId := iu.nextId, cpdone := iu.cpdone, cpTc := iu.cpTc, chains := chains ++ u.chains,
                      rounds := iu.rounds.map (fun r => { r with opened := now }) ++ u.rounds,
                      heldRounds := iu.heldRounds ++ u.heldRounds, dropped := iu.dropped ++ u.dropped },
    work := { k.work with deque := img.work.deque.map (QSlot.restored tmax) ++ k.work.deque,
                          overflow := k.work.overflow.prepend (img.work.overflow.all.map (QSlot.restored tmax)),
                          spill := k.work.spill.prepend (img.work.spill.all.map (QSlot.restored tmax)), gathers := k.work.gathers ++ img.work.gathers,
                          porterQ := img.work.porterQ ++ k.work.porterQ, porters := handlers ++ k.work.porters } }
  let k := (img.ctxs.filter fun e => e.1 != 63).foldl (fun k e => k.restoreSlot img tmax e) k
  img.work.saved.foldl (fun k e => k.restoreSaved tmax e) k

/-- The steps that a restored core's work asks for again (15 R351). -/
def State.resumeCore (s : State) (c : Nat) (img : Core) (m : Nat → Nat) : State :=
  let s := img.ctxs.foldl (fun s (e : Nat × Ctx) =>
    let x := s.ctx c e.1
    if x.asid == e.2.asid && x.out == e.2.out && x.pipe == e.2.pipe then s.resumeThread c e.1 else s) s
  let s := img.units.transfers.foldl (fun s t => t.flying.foldl (fun s p =>
    if p.handed || p.mask = 0 then s else s.post (.copyPacketLanding c t.req.chan t.req.id p.pkt)) (s.pinAll (t.lines.map m))) s
  let s := img.units.rounds.foldl (fun s r => s.after Config.qmaxxTimeout (.qmaxxTimeout c r.asid r.g r.tag)) s
  let s := img.work.gathers.foldl (fun s g => s.after (g.close - s.now) (.gatheringWindowClose c g.blk g.off g.asid g.cls)) s
  let k := s.core c
  let s := if k.q.cpq.isEmpty then s else s.postOnce (.copyAccept c)
  let s := if k.q.tkq.isEmpty then s else s.postOnce (.tkqAccept c)
  let s := if k.q.chq.isEmpty && k.units.chains.isEmpty then s else s.postOnce (.chainCommandAccept c)
  ((s.goOn c).post (.porterHandlerStart c)).readmit c 63

def State.restoreCore (s : State) (asids : List Nat) (m : Nat → Nat) (tmax : Nat) (cut : CoreCut) : State :=
  let c := s.phys cut.name
  let k := s.core c
  if k.csr.stopped then s
  else (s.setCore c (k.restore cut.image (asids.contains cut.image.csr.shasid) m tmax s.now)).resumeCore c cut.image m

/-! ### Hedges and schedulers -/

/-- The step with which a restored operation goes on. -/
def State.resumeStep (s : State) (h : Nat) (running : Option Nat) (o : EngOp) : State :=
  if !o.started then s
  else if o.status.isSome then (if o.kind = .drain then s else s.post (.matrixCommandComplete h o.id))
  else match o.kind with
    | .mma => if running != some o.id then s else if o.k = 0 then s.post (.mma h o.id) else s.after (kStepTime o) (.kStepBoundary h)
    | .mmac => if running != some o.id then s else if o.k = 0 then s.post (.mmac h o.id) else s.after (kStepTime o) (.kStepBoundary h)
    | .zero => s.post (.zero h o.id)
    | .accld => s.post (.accldComplete h o.id)
    | .accst => s.post (.accstComplete h o.id)
    | .drain =>
      if o.k = 0 then s.post (.drainStart h o.id)
      else match o.lines with
        | [] => s.post (.drainComplete h o.id)
        | l :: _ => if chipOf (drainDst o.d0.toNat) != s.chip o.asid then s
          else (s.pinAll (o.lines.map Prod.fst)).post (.drainLineWrite h o.id l.1)

/-- A hedge's captured part put back, with its self-check count (05 R127). -/
def State.restoreHedge (s : State) (core m : Nat → Nat) (h : Nat) (img : Hedge) : State :=
  let x := s.hedge h
  let ops := img.ops.map fun o => { o with wait := none, core := core o.core, lines := o.lines.map fun l => (m l.1, l.2) }
  let mine := fun (id : Nat) => ops.any fun o => o.id == id
  let goes := match img.running with
    | some id => x.running.isNone && mine id
    | none => false
  let running := if goes then img.running else x.running
  let back := img.overtaken.filter mine ++ (if goes then [] else img.running.toList.filter mine)
  let s := s.setHedge h { x with ops := ops ++ x.ops, tiles := img.tiles, checks := img.checks, running := running, overtaken := back ++ x.overtaken,
                                 borrows := img.borrows ++ x.borrows.filter fun b => !img.borrows.any fun c => c.phys == b.phys }
  let s := ops.foldl (fun s o => s.resumeStep h running o) s
  let s := img.borrows.foldl (fun s b =>
    if !b.busy then s else s.post (if b.spilled.isSome then .tileRefillComplete h b.phys else .tileSpillComplete h b.phys)) s
  s.kick h

/-- A restored record waits, or goes on, for what it waited for at the cut. -/
def State.resumeRec (s : State) (die : Nat) (r : Rec) : State :=
  match r.st with
  | .waiting => s.consider die r.addr
  | .queued => s.wantSelect die
  | .issuing =>
    if tkKind (r.desc.getD 0 0).toNat = 1 then s.post (.counterZeroWake die r.addr)
    else if r.offered < r.count then s.post (.tileOffer die r.addr r.offered) else s
  | .running => s.schedJoin die r.asid (recAddr r.addr + 48) r.addr
  | .retiring => s.post (.counterZeroWake die r.addr)
  | .done => s

def State.restoreSched (s : State) (die : Nat) (cut : SchedCut) : State :=
  let recs := cut.recs.map fun r => { r with wait := none }
  let add := fun (rings : Tab (Ring Nat)) (l : Tab (List Nat)) =>
    l.foldl (fun t (e : Nat × List Nat) =>
      Tab.put t e.1 (Ring.prepend (Tab.getD t e.1 {}) e.2)) rings
  let roots := cut.roots.map fun q => { q with wait := none }
  let s := s.modDie die fun d =>
    { d with recs := recs ++ d.recs, roots := roots ++ d.roots, tasks := add d.tasks cut.tasks, holds := add d.holds cut.holds }
  roots.foldl (fun s q => s.post (.counterZeroWake die q.name)) (recs.foldl (fun s r => s.resumeRec die r) s)

/-! ### The rollback -/

/-- The counts of a job after its messages in flight were discarded, with the records to be accepted again (log 33). -/
def Counts.redeliver (n : Counts) (records : Nat) : Counts :=
  { sent0 := max n.sent0 n.got0 + records, got0 := max n.sent0 n.got0, sent1 := max n.sent1 n.got1, got1 := max n.sent1 n.got1 }

/-- The target of a rollback once its pages stand as at the cut: shared again, its copies in place. Copies of pinned pages
stay, since nothing guards those pages. -/
def Snap.asTarget (n : Snap) (images : List (Nat × Memory × Tab Bool)) (later : List Snap) (pinned : List Nat) (moves : List (Nat × Nat)) : Snap :=
  let bases := images.map Prod.fst
  let dram := bases.filter fun b => b < 2 ^ 48 && !pinned.contains b
  let sram := (bases.filter fun b => 2 ^ 48 ≤ b).map fun b => movedPage moves b / 4096
  { n with pages := images.filter (fun p => pinned.contains p.1),
           uncopied := (n.uncopied ++ later.flatMap Snap.uncopied ++ dram).eraseDups,
           shared := (n.shared.map (fun p => movedPage moves (p * 4096) / 4096) ++ later.flatMap Snap.shared ++ sram).eraseDups }

/-- A channel record accepted again by its receiver (15 R344, R350 step 5). -/
def State.reaccept (s : State) (i : Instr) : State :=
  Out.state (match i with
    | .travelMessageArrival dst m => execTravelMessageArrival dst m s
    | .returnedTravelMessage m => execReturnedTravelMessage m s
    | .forkChildArrival dst m => execForkChildArrival dst m s
    | .stolenChildArrival dst m => execStolenChildArrival dst m s
    | .wakeArrival dst m => execWakeArrival dst m s
    | .sendArrival m => execSendArrival m s
    | .senduArrival m => execSenduArrival m s
    | .activeMessageArrival dst i => execActiveMessageArrival dst i s
    | .landingPacketArrival dst i => execLandingPacketArrival dst i s
    | .qmaxxContribution dst a g t o v cut => execQmaxxContribution dst a g t o v cut s
    | _ => .next s) s

/-- A job rolled back to its i-th held snapshot (15 R350). -/
def State.rollbackTo (s : State) (j : Job) (i : Nat) (n : Snap) : State :=
  let mine := j.asids.contains
  let leaves := s.snapLeaves j.asids
  let base := fun (l : Nat × Nat × Nat × Nat × Nat) => pteAddr l.2.2.2.2 false 0
  let tmax := s.jobTime j (leaves.map base)
  let s := ((((s.dropMessages mine).dropSolves mine).dropEntries mine).dropEngines mine)
  let s := { s with yew := { s.yew with held := s.yew.held.filter fun r => r.job != j.num } }
  let pinned := (leaves.filter fun l => fld l.2.2.2.2 61 3 == 2).map base
  let moves := n.cores.map fun k => (k.core, s.phys k.name)
  let images := s.imagesSince i j.num
  let s := s.raiseTimes tmax (leaves.map base) (images.map fun p => movedPage moves p.1 / 4096)
  let s := images.foldl (fun s p =>
    let b := movedPage moves p.1
    let back := fun (a : Nat) => a - p.1 + b
    s.putPage b (p.2.1.map fun c => (back c.1, c.2), p.2.2.map fun w => (back (w.1 * 8) / 8, w.2))) s
  let later := (s.yew.snaps.drop (i + 1)).filter fun o => o.held j.num
  let fix := fun (e : Snap × Nat) =>
    if e.2 == i then e.1.asTarget images later pinned moves
    else if i < e.2 && e.1.held j.num then e.1.freed 3 else e.1
  let s := { s with yew := { s.yew with snaps := s.yew.snaps.zipIdx.map fix,
                                        counts := Tab.put s.yew.counts j.num ((Tab.getD s.yew.counts j.num {}).redeliver n.channel.length) } }
  let s := leaves.foldl (fun s l =>
    if fld l.2.2.2.2 61 3 == 4 && images.any fun p => p.1 == base l then s.setLeaf l.2.1 l.2.2.1 l.2.2.2.1 l.2.2.2.2 3 else s) s
  let forget := fun (e : Nat × Core) => (e.1, { e.2 with work := { e.2.work with map := [] } })
  let s := { s with cores := s.cores.map forget }
  let s := s.modJob j.num fun j => { j with st := .running, discarding := [] }
  let s := n.cores.foldl (fun s k => s.restoreCore j.asids (movedLine moves) tmax k) s
  let core := fun (c : Nat) => ((moves.find? fun m => m.1 == c).map Prod.snd).getD c
  let s := n.hedges.foldl (fun s (h : Nat × Hedge) => s.restoreHedge core (movedLine moves) h.1 h.2) s
  let s := n.scheds.foldl (fun s (d : Nat × SchedCut) => s.restoreSched d.1 d.2) s
  (n.channel.foldl State.reaccept s).wakeCopies

/-- A rollback of a job to its finished snapshot with a tag; none without one. An open snapshot of the job fails. -/
def State.rollback (s : State) (job tag : Nat) : Option State :=
  let s' := match s.openSnap with
    | some n => if n.job = job then s.failOpen else s
    | none => s
  match s'.job job, s'.finishedAt job tag with
  | some j, some i => (s'.yew.snaps[i]?).map fun n => s'.rollbackTo j i n
  | _, _ => none

/-- YEW_ROLLBACK (15 R349 to R351). -/
def execYewRollback (job tag : Nat) (s : State) : Out := .next <|
  match s.rollback job tag with
  | some t => t.yewAnswer job 0
  | none => s.yewAnswer job 1

/-- A command of Ozine to the Yews of a job (15 R349): answered 2 where a reserved field is not zero. -/
def State.yewCommanded (s : State) (job : Nat) (d0 d1 : Word) : State :=
  let cmd := fld d0.toNat 60 4
  let tag := fld d0.toNat 0 32
  if fld d0.toNat 32 28 != 0 || d1 != 0 || cmd = 0 || 2 < cmd then s.yewAnswer job 2
  else Out.state (if cmd = 1 then execYewRollback job tag s else execYewRelease job tag s) s

/-- An uncorrectable error strikes a word of what a snapshot keeps in the store (15 R352): an unfinished snapshot fails; a finished one's
copy carries the mark, which a rollback restores. -/
def State.strikeStore (s : State) (i word : Nat) : State :=
  match s.yew.snaps[i]? with
  | none => s
  | some n =>
    if n.status = 0 then s.failOpen
    else
      let mark := fun (p : Nat × Memory × Tab Bool) =>
        if p.1 ≤ 8 * word && 8 * word < p.1 + pageSpan p.1 then (p.1, p.2.1, Tab.put p.2.2 word false) else p
      { s with yew := { s.yew with snaps := s.yew.snaps.modify i fun n => { n with pages := n.pages.map mark } } }

end Sys2Proof.Machine
end

