-- ==== Sys2Proof/Machine/Jobs.lean ====
section
/-! DEFINITION. Jobs (17 R402): stopping and ending one, and the answers that commands of the host get (17 R373, R375). -/

namespace Sys2Proof.Machine

/-! ### Sealed capabilities and answers (17 R373, R375) -/

def capBase (cap : Nat) : Nat := fld cap 0 48
def capLength (cap : Nat) : Nat := fld cap 48 32
def capGen (cap : Nat) : Nat := fld cap 80 8
def capType (cap : Nat) : Nat := fld cap 96 8

/-- Bits [103:0] with the seal that the unit computes over them. -/
def State.seal (s : State) (bits : Nat) : Nat :=
  let b := bits % 2 ^ 104
  b + Config.sealOf s.host.keyDraw b % 2 ^ 24 * 2 ^ 104

/-- Boxwood accepts a use of a capability: seal, generation, object type, permission, reserved bits, and every byte inside. -/
def State.capOk (s : State) (q : HQueue) (cap type : Nat) (write : Bool) (at_ n : Nat) : Bool :=
  s.seal cap == cap && capGen cap == Tab.getD q.gens type 0 && capType cap == type && fld cap 90 6 == 0
    && bit cap (if write then 89 else 88) && capLength cap != 0
    && capBase cap ≤ at_ && at_ + n ≤ capBase cap + capLength cap

def queueKey (die queue : Nat) : Nat := die * 64 + queue
def State.queue (s : State) (die queue : Nat) : HQueue := Tab.getD s.host.queues (queueKey die queue) {}
def State.modQueue (s : State) (die queue : Nat) (f : HQueue → HQueue) : State :=
  { s with host := { s.host with queues := Tab.put s.host.queues (queueKey die queue) (f (s.queue die queue)) } }

/-- A capability fault: the queue freezes, and Ozine hears of it (14 R321; no kind of record stands for it: log 34). -/
def State.capFault (s : State) (die queue : Nat) : State :=
  (s.modQueue die queue fun q => { q with frozen := true }).signal 12 die queue

/-- The places of a ring of a capability's length, in entries of n bytes. -/
def ringPlace (cap n i : Nat) : Nat := capBase cap + n * (i % (capLength cap / n))

/-- Boxwood's own queue number: of Ozine's own commands, and of those that another package has forwarded. -/
abbrev ozineQueue : Nat := 64
abbrev forwardQueue : Nat := 65

/-- A command's completion entry: the completion tag, then the status. -/
def State.answerCmd (s : State) (cmd : HostCmd) (status : Nat) : State :=
  if ozineQueue ≤ cmd.queue then s
  else
    let q := s.queue cmd.die cmd.queue
    let tag := cmd.d.getD 5 0
    let at_ := ringPlace q.cplCap 16 q.cplTail
    if !s.capOk q q.cplCap 2 true at_ 16 then s.capFault cmd.die cmd.queue
    else
      let s := { s with mem := (s.mem.write at_ 8 tag.toNat).write (at_ + 8) 8 status }
      let s := s.modQueue cmd.die cmd.queue fun q => { q with cplTail := q.cplTail + 1 }
      { s with host := { s.host with answers := s.host.answers ++ [(cmd.die, cmd.queue, tag, status)] } }

def cmdDouble (c : HostCmd) (n : Nat) : Nat := (c.d.getD n 0).toNat
def cmdOpcode (c : HostCmd) : Nat := fld (c.d.getD 0 0).toNat 56 8
def cmdAsid (c : HostCmd) : Nat := fld (c.d.getD 0 0).toNat 0 16

/-- A command is from Ozine itself, or its ASID is open to the function of its queue (17 R375). -/
def State.asidOpen (s : State) (cmd : HostCmd) : Bool :=
  ozineQueue ≤ cmd.queue || (Tab.getD s.host.fns (s.queue cmd.die cmd.queue).fn {}).asids.contains (cmdAsid cmd)

/-- A double that the opcode does not list, or a reserved field of double 0, is not zero. -/
def cmdReserved (c : HostCmd) (used : List Nat) : Bool :=
  fld (c.d.getD 0 0).toNat 16 40 != 0
    || (List.range 8).any fun n => n != 0 && n != 5 && !used.contains n && c.d.getD n 0 != 0

/-- The other chips of a job. -/
def Job.others (j : Job) : List Nat := (List.range j.chips).filter (· != j.chip)

/-- A whole-job command goes on to the other packages of the job (17 R371); a ninth double names the job and the chip that asks. -/
def State.forward (s : State) (cmd : HostCmd) (j : Job) : State :=
  if cmd.queue = forwardQueue then s
  else
    let c : HostCmd := { cmd with queue := forwardQueue, d := (List.range 8).map (fun i => cmd.d.getD i 0) ++ [BitVec.ofNat 64 (256 * j.num + j.chip)] }
    { s with outbox := s.outbox ++ j.others.map fun n => OutMsg.mk n (.managementMessage (.command c)) }

/-! ### Stopping -/

/-- Ozine stops a job: its contexts freeze where they stand. -/
def State.stopJob (s : State) (j : Job) : State :=
  if j.st = .stopped then s
  else (s.freezeJob j.asids).modJob j.num fun j => { j with st := .stopped }

/-! ### Ending -/

/-- A core's CPQ entries of a job discarded: each id stays passed over, without a record (log 35). The watermark moves then only
where another transfer's completion stood behind them (03 R75). -/
def State.dropCopies (s : State) (mine : Nat → Bool) (c : Nat) : State :=
  let k := s.core c
  let l := k.q.cpq.filter fun r => mine r.asid
  if l.isEmpty then s
  else
    let s := s.setCore c { k with
      q := { k.q with cpq := k.q.cpq.filter fun r => !mine r.asid },
      units := { k.units with transfers := k.units.transfers ++ l.map fun r => { req := r, tc := r.t0, done := true } } }
    (List.range 4).foldl (fun s ch => if k.units.transfers.any fun t => t.done && t.req.chan == ch then s.advance c ch else s) s

/-- Candidates of a job that its engine has not accepted, with the tiles they hold. -/
def State.dropCandidates (s : State) (mine : Nat → Bool) (h : Nat) : State :=
  let gone := (s.hedge h).ops.filter fun o => mine o.asid && !o.staged
  let s := gone.foldl (fun s o => s.returnTile h o) s
  s.modHedge h fun x => { x with ops := x.ops.filter fun o => !(mine o.asid && !o.staged) }

/-- Work of an ended job's ASID that engines have accepted and not yet ended. -/
def State.working (s : State) (asid : Nat) : Bool :=
  (s.hedges.any fun h => h.2.ops.any fun o => o.asid == asid) || s.cores.any fun e =>
    (e.2.units.transfers.any fun t => t.req.asid == asid && !t.done)
      || (e.2.units.chain.toList ++ e.2.units.chains).any fun r => r.req.asid == asid

/-- A command of Ozine's own that closes an ended job's ASID. -/
def closeCmd (asid : Nat) : HostCmd := { die := 0, queue := ozineQueue, d := [BitVec.ofNat 64 asid] }

/-- Ozine unmaps an ended job's pages and closes its ASID, once its work in flight has come to its end. -/
def State.closeAsid (s : State) (asid : Nat) : State :=
  if (s.jobOf asid).isSome then s
  else if s.working asid then s.after 64 (.stop (closeCmd asid))
  else
    let cleanCore := fun (k : Core) => { k with tlb := k.tlb.filter fun e => e.asid != asid }
    { s with dies := s.dies.map (fun (d : Nat × Die) => (d.1, { d.2 with asids := Tab.del d.2.asids asid })),
             cores := s.cores.map (fun (e : Nat × Core) => (e.1, cleanCore e.2)),
             hedges := s.hedges.map fun (h : Nat × Hedge) => (h.1, { h.2 with l2tlb := h.2.l2tlb.filter fun e => e.asid != asid }) }

/-- A job's snapshots released: the latest first, the open one failed, and what Yew holds for it dropped. -/
def State.dropSnaps (s : State) (job : Nat) : State :=
  let s := { s with yew := { s.yew with held := s.yew.held.filter fun (r : SnapReq) => r.job != job } }
  (List.range s.yew.snaps.length).reverse.foldl (fun s i =>
    match s.yew.snaps[i]? with
    | some n => if n.job != job then s else if n.status = 0 then s.failOpen else if n.status = 1 then s.dropSnap i 3 else s
    | none => s) s

/-- The blocks of a job removed from directories, block-map caches and instruction stores. -/
def State.dropBlocks (s : State) (mine : Nat → Bool) : State :=
  let clean := fun (k : Core) => { k with work := { k.work with map := k.work.map.filter (fun e => !mine e.asid),
                                                                placed := k.work.placed.filter fun p => !mine p.asid } }
  { s with cores := s.cores.map (fun (e : Nat × Core) => (e.1, clean e.2)),
           dies := s.dies.map fun (d : Nat × Die) => (d.1, { d.2 with blocks := d.2.blocks.filter fun b => !mine b.asid }) }

/-- A core goes on with the work of other jobs: waiting arrivals, queue heads, its porter. -/
def State.resumeOthers (s : State) (c : Nat) : State :=
  let k := s.core c
  if k.csr.stopped then s
  else
    let s := if k.q.cpq.isEmpty then s else s.postOnce (.copyAccept c)
    let s := if k.q.chq.isEmpty && k.units.chains.isEmpty then s else s.postOnce (.chainCommandAccept c)
    let s := if k.q.tkq.isEmpty then s else s.postOnce (.tkqAccept c)
    let s := if k.work.porter.isNone && !k.work.porterQ.isEmpty then s.postOnce (.porterHandlerStart c) else s
    let s := s.readmit c 63
    if s.mayResume c then s.post (.coreResume c) else s

/-- Ozine ends a job (17 R402). -/
def State.endJob (s : State) (j : Job) : State :=
  let mine := fun (a : Nat) => j.asids.contains a
  let s := s.dropSnaps j.num
  let s := s.cores.foldl (fun s (e : Nat × Core) => s.dropCopies mine e.1) s
  let s := s.hedges.foldl (fun s (h : Nat × Hedge) => s.dropCandidates mine h.1) s
  let s := (s.dropEntries mine).dropBlocks mine
  let s := s.modJob j.num fun j => { j with st := .ended }
  let s := j.asids.foldl (fun s a => s.closeAsid a) s
  let s := s.cores.foldl (fun s (e : Nat × Core) => s.resumeOthers e.1) s
  let s := s.hedges.foldl (fun s (h : Nat × Hedge) => if h.2.ops.isEmpty then s else s.kick h.1) s
  s.openHeld

/-- A stop served on this chip: the chip that asked hears of it; the host's command is answered once no other chip is awaited. -/
def State.stopServed (s : State) (cmd : HostCmd) (j : Job) : State :=
  if cmd.queue = forwardQueue then
    { s with outbox := s.outbox ++ [OutMsg.mk (cmdDouble cmd 8 % 256) (.managementMessage (.stopped (cmdDouble cmd 8 / 256) j.chip))] }
  else
    let s := s.forward cmd j
    if j.others.isEmpty then s.answerCmd cmd 0
    else if ozineQueue ≤ cmd.queue then s
    else { s with host := { s.host with stops := s.host.stops ++ [{ cmd := cmd, job := j.num, chips := j.others }] } }

/-- Another chip has stopped or ended a job: a command that waited for the last one is answered (17 R402). -/
def State.stopAcked (s : State) (num chip : Nat) : State :=
  let step := fun (p : PendingStop) => if p.job == num then { p with chips := p.chips.filter (· != chip) } else p
  let l := s.host.stops.map step
  let s := { s with host := { s.host with stops := l.filter fun p => !p.chips.isEmpty } }
  (l.filter fun p => p.chips.isEmpty).foldl (fun s p => s.answerCmd p.cmd 0) s

/-- STOP (17 R375, R402). -/
def execStop (cmd : HostCmd) (s : State) : Out := .next <|
  if cmd.queue = ozineQueue && cmdOpcode cmd = 0 then s.closeAsid (cmdAsid cmd)
  else if cmdReserved cmd [1] || cmdDouble cmd 1 / 2 != 0 then s.answerCmd cmd 1
  else if !s.asidOpen cmd then s.answerCmd cmd 2
  else match s.jobOf (cmdAsid cmd) with
    | none => s.answerCmd cmd 2
    | some j =>
      (if bit (cmdDouble cmd 1) 0 then s.stopJob j else s.endJob j).stopServed cmd j

end Sys2Proof.Machine
end

