-- ==== Sys2Proof/Machine/Faults.lean ====
section
/-! DEFINITION. Releases of frozen threads (14 R317), heartbeats (R328, R398), the kill of a core and its restart (R329 to R332,
R399, R400, R403), failed links (R323, R325), error messages (R330), faults at issue, and Hornbeam (11 R276). -/

namespace Sys2Proof.Machine

/-! ### Faults at issue -/

/-- ILLEGAL_ENCODING (07 R151): a word that is no instruction at its place; the word is the detail. -/
def execIllegalEncoding (c slot word : Nat) (s : State) : Out := .next <|
  s.takeFault c slot fcIllegal word ((s.ctx c slot).pc.word == 1) false

/-- ENTRY_FAULT_AT_FETCH (02 R32; 08 R174): the flow has left its block; the detail is the address past its last bundle. -/
def execEntryFaultAtFetch (c slot : Nat) (s : State) : Out := .next <|
  let x := s.ctx c slot
  s.takeFault c slot fcEntry (pa x.pc.blk ((s.core c).blockCount x.asid x.pc.blk)) (x.pc.word == 1) false

/-! ### Release of a frozen thread (14 R317) -/

/-- A thread that a fault froze, whatever a stop or a save has made of its context since. -/
def Ctx.isFrozen (x : Ctx) : Bool := x.status == .frozen || x.prior == some .frozen

/-- The thread released to issue its faulting bundle again: at once, or when it is restored. -/
def Ctx.released (x : Ctx) : Ctx :=
  if x.status = .frozen then x.reissue
  else if x.prior = some .frozen then { x.reissue with status := x.status, prior := some .ready }
  else x

def Core.release (k : Core) (slot : Nat) : Core :=
  let k := if (k.ctx slot).isFrozen then k.modCtx slot Ctx.released else k
  match Tab.get? k.work.saved slot with
  | some v => { k with work := { k.work with saved := Tab.put k.work.saved slot { v with ctx := v.ctx.released } } }
  | none => k

/-- The frozen thread of a slot, in its context or in its save area. -/
def State.frozenAt (s : State) (c slot : Nat) : Option Ctx :=
  let k := s.core c
  if (k.ctx slot).isFrozen then some (k.ctx slot)
  else match Tab.get? k.work.saved slot with
    | some v => if v.ctx.isFrozen then some v.ctx else none
    | none => none

/-- FROZEN_THREAD_REISSUE (14 R317, R318): the members of a redundant pair go on together. -/
def execFrozenThreadReissue (c slot : Nat) (s : State) : Out := .next <|
  match s.frozenAt c slot with
  | none => s
  | some x => s.modCore c fun k => match x.pair with
    | some p => (k.release slot).release p
    | none => k.release slot

/-- A frozen thread ended: its context freed, or its save area. -/
def State.endFrozen (s : State) (c slot : Nat) : State :=
  if (s.ctx c slot).isFrozen then s.vacate c slot
  else s.modCore c fun k => { k with work := { k.work with saved := Tab.del k.work.saved slot } }

def State.endPair (s : State) (c slot : Nat) (x : Ctx) : State :=
  let s := s.endFrozen c slot
  match x.pair with
  | some p => if (s.frozenAt c p).isSome then s.endFrozen c p else s
  | none => s

/-- FROZEN_THREAD_END (14 R317). -/
def execFrozenThreadEnd (c slot : Nat) (s : State) : Out := .next <|
  match s.frozenAt c slot with
  | none => s
  | some x => s.endPair c slot x

/-- A thread that Ozine starts, as a message of kind 2 (14 R317, R400). -/
def State.ozineThread (s : State) (c asid cls pt entry : Nat) (regs : List (Nat × Word)) (redun : Bool) : Travel :=
  let id := s.coreId asid c
  { pt := pt, asid := asid, dest := entry, j := none, origin := id, link := 0,
    live := regs.foldl (fun m r => m + 2 ^ r.1) 0, full := ones 16, maskLive := 0, kind := 2, cls := cls, redun := redun, rolled := false,
    regs := regs, masks := [], cut := s.cutBit c asid, tid := 0, parent := none }

/-- FROZEN_THREAD_FAULT_ENTRY (14 R317): the thread ends, and one starts on its core at the job's fault entry, which Ozine
names (log 11). -/
def execFrozenThreadFaultEntry (c slot entry : Nat) (s : State) : Out := .next <|
  match s.frozenAt c slot with
  | none => s
  | some x =>
    let m := s.ozineThread c x.asid x.cls x.pt entry [] (bit x.tstat 1)
    let s := s.endPair c slot x
    s.sendTo x.asid m.origin m.cut (.travelMessageArrival m.origin m)

/-! ### Heartbeats -/

/-- A register-file entry with bad parity is allocated to a context (14 R398). -/
def Core.badFile (k : Core) : Bool :=
  k.ctxs.any fun e => e.2.status != .free &&
    ((k.badMain.any fun n => e.2.win.mainBase ≤ n && n < e.2.win.mainBase + 8 * (e.2.win.mainCode + 1))
      || k.badVec.any fun n => e.2.win.vecBase ≤ n && n < e.2.win.vecBase + 4 * e.2.win.vecCode)

/-- HEARTBEAT (14 R328, R398): the issue stage and the router loopback have passed their self-tests of the running period, in whose last
cycle the heartbeat goes out; the register-file ports pass theirs unless an allocated entry has bad parity, and then never again. -/
def execHeartbeat (c : Nat) (s : State) : Out := .next <|
  s.modCore c fun k =>
    if k.csr.stopped then k
    else if k.csr.hbFail || k.badFile then { k with csr := { k.csr with hbFail := true } }
    else { k with csr := { k.csr with lastHb := s.now + (Config.heartbeatPeriod - 1 - s.cycle c % Config.heartbeatPeriod) } }

/-- HEARTBEAT_TIMEOUT (14 R328): the supervisor kills a core from which no heartbeat has arrived for 196,608 cycles. -/
def execHeartbeatTimeout (c : Nat) (s : State) : Out := .next <|
  let k := s.core c
  if k.csr.stopped || s.now < k.csr.lastHb + Config.heartbeatLimit then s else s.post (.coreKill c 2)

/-! ### The kill (14 R329, R330, R403) -/

/-- A job has a thread on a core (14 R403). -/
def Core.holdsJob (k : Core) (mine : Nat → Bool) : Bool :=
  (k.ctxs.any fun e => e.2.status != .free && mine e.2.asid) || (k.work.saved.any fun e => mine e.2.ctx.asid)
    || ((k.work.spill.all ++ k.work.deque ++ k.work.overflow.all).any fun q => mine q.asid)
    || ((k.work.porterQ ++ k.work.porter.toList ++ k.work.porters.map Prod.fst).any fun i => mine i.asid) || k.work.placed.any fun p => mine p.asid

/-- A rename entry committed (05 R124). -/
def State.commitRename (s : State) (name : Nat) (r : Rename) : State :=
  let n := 16 * hedgeOf name + coreOf name
  s.modDie (dieOf name) fun d =>
    { d with rename := Tab.put d.rename n r, pendRename := Tab.put d.pendRename n r, renameVersion := d.renameVersion + 1 }

/-- Lines in flight from a core's engines are written whole or not at all, and their pins clear (14 R330). -/
def State.stopEngines (s : State) (c : Nat) : State :=
  let s := (s.core c).units.transfers.foldl (fun s t => if t.done then s else s.endTransfer c t.req.chan t.req.id 0x05) s
  match (s.core c).units.chain with
  | none => s
  | some r =>
    let s := if r.mask = 0 then s
      else
        let (b, s) := s.takeBit
        if b then (s.engineWrite c r.line r.data r.mask r.req.t0).2 else s
    s.releasePins r.lines

/-- What queued at a core's porter returns to its senders; a landing packet that ran there ends its transfer. -/
def State.stopPorter (s : State) (c : Nat) : State :=
  let w := (s.core c).work
  let running := (w.porter.toList ++ w.porters.map Prod.fst).filter fun i => i.land.isSome
  (running ++ w.porterQ).foldl (fun s i => s.refuseItem c i 0x05) s

/-- Error messages to the cores with a QMAXX round open toward a sealed core (14 R330). -/
def State.failRounds (s : State) (name : Nat) : State :=
  s.cores.foldl (fun s (e : Nat × Core) =>
    let own := s.logical e.1
    if dieOf own != dieOf name || own == name then s
    else e.2.openRounds.foldl (fun s r =>
      if (groupMembers own r.g).contains name then s.post (.errorMessageArrival (.qmaxx e.1 r.asid r.g r.tag (s.chip r.asid * 65536 + name))) else s) s) s

/-- What a killed core keeps: what stays in DRAM, its placed blocks as Ozine knows them, and its caches. -/
def Core.dead (k : Core) (cause : Nat) (killed : List (Nat × Nat)) : Core :=
  { work := { spill := k.work.spill, overflow := k.work.overflow, placed := k.work.placed }, cache := k.cache, tlb := k.tlb,
    csr := { k.csr with stopped := true, killCause := cause, killed := killed } }

/-- CORE_KILL (14 R329): the core stops, its name is sealed, its partners hear of it, and each job with a thread on it gets
a kill record. -/
def execCoreKill (c cause : Nat) (s : State) : Out := .next <|
  let k := s.core c
  let name := s.logical c
  if k.csr.stopped then s
  else if s.phys name != c then s.modCore c fun k => { k with csr := { k.csr with stopped := true } }
  else
    let jobs := s.jobs.filter fun j => j.st != .ended && k.holdsJob j.asids.contains
    let cycle := s.cycle c
    let uncut : Bool := match s.openSnap with
      | some n => n.wantCores.contains c
      | none => false
    let s := s.modCore c fun k => { k with csr := { k.csr with stopped := true } }
    let s := s.commitRename name { st := 1, phys := (s.rename name).phys }
    let s := ((s.stopEngines c).stopPorter c).failRounds name
    let orphan := fun (o : EngOp) => if o.core == c && o.task.isNone then { o with orphan := true } else o
    let s := s.modHedge (hedgeKey c) fun x => { x with ops := x.ops.map orphan }
    let s := { s with dies := s.dies.map fun (d : Nat × Die) => (d.1, { d.2 with joiners := d.2.joiners.filter fun j => j.2.1 != c }) }
    let killed := jobs.map fun j => (j.num, j.written)
    let s := jobs.foldl (fun s j =>
      s.record j.num (faultRec 3 (j.asids.headD 0) 0 0 (cause * 2 ^ 48 + j.chip * 65536 + name) cycle)) s
    let s := s.modCore c fun k => k.dead cause killed
    if uncut then s.failOpen else s

/-! ### The restart (14 R331, R332, R400) -/

/-- Returned messages leave every spill queue to be sent again (02 R52; 05 R124). -/
def State.resendReturned (s : State) : State :=
  s.cores.foldl (fun s (e : Nat × Core) =>
    let back := e.2.work.spill.all.filter QSlot.returned
    if back.isEmpty || e.2.csr.stopped then s
    else
      let s := s.modCore e.1 fun k => { k with work := { k.work with spill := k.work.spill.drop QSlot.returned } }
      back.foldl (fun s q => match q.body with
        | .travel m => s.sendOn e.1 m (s.cutBit e.1 m.asid)
        | .wake m => s.sendOn e.1 m (s.cutBit e.1 m.asid)
        | .send _ => s) s) s

/-- A block that a directory names is placed on a core too. -/
def State.placeKnown (s : State) (c asid blk : Nat) : State :=
  if ((s.core c).placedBlock asid blk).isSome then s
  else match s.dirBlock (dieOf c) asid blk with
    | none => s
    | some b =>
      match s.imageAt b.image asid blk with
      | none => s
      | some p =>
        match s.loadText c b.image p with
        | .error t => t.getD s
        | .ok t => t.addHolder asid blk (t.coreId asid c) b.image p.descs

/-- An SRAM as a spare finds it: every byte, mark and time as at reset (01 R15). -/
def State.blankSram (s : State) (c : Nat) : State :=
  let in_ := fun (a : Nat) => sramAt c 0 ≤ a && a < sramAt c 0 + 2 ^ 20
  { s with mem := List.filter (fun e => !in_ e.1) s.mem, poison := s.poison.filter fun p => !in_ (8 * p.1),
           sramT := s.sramT.filter fun t => !in_ (128 * t.1) }

/-- The spare prepared for a name: a blank SRAM, block text, split, victim setting, SHASID, and the rings of the killed core. -/
def State.prepareSpare (s : State) (c spare : Nat) : State :=
  let k := s.core c
  let fresh : Core :=
    { csr := { lsplit := k.csr.lsplit, vgroup := k.csr.vgroup, shasid := k.csr.shasid, cycle0 := s.now, lastHb := s.now },
      work := { spill := k.work.spill, overflow := k.work.overflow } }
  let s := (s.blankSram spare).setCore spare fresh
  let s := k.work.placed.foldl (fun s p =>
    match s.dirBlock (dieOf c) p.asid p.blk with
    | some b => (s.loadText spare b.image p).toOption.getD s
    | none => s) s
  let s := s.modDie (dieOf c) fun d =>
    let fix := fun (q : QSlot) => if q.core == c then { q with core := spare } else q
    { d with overflow := { d.overflow with entries := d.overflow.entries.map fix, old := d.overflow.old.map fix } }
  s.modCore c fun k => { k with work := {} }

/-- The address of a job's n-th fault-record entry (14 R320); 0 where the job has no ring. -/
def Job.recordAddr (j : Job) (n : Nat) : Nat := if j.ring = 0 then 0 else j.ring + 64 + 32 * (n % 2 ^ j.log2ring)

/-- The recovery thread of a job on a core (14 R332, R400): admitted before anything that waits there; where its block
cannot be placed now, Boxwood holds it. -/
def State.recover (s : State) (j : Job) (c name n : Nat) : State :=
  let asid := j.asids.headD 0
  let m := s.ozineThread c asid j.cls (s.maxTime + 1) j.recoveryEntry
    [(0, BitVec.ofNat 64 (j.chip * 65536 + name)), (1, BitVec.ofNat 64 (j.recordAddr n))] false
  let s := s.placeKnown c asid (m.dest / 512)
  match (s.core c).placedBlock asid (m.dest / 512) with
  | none => s.handBoxwood (dieOf c) m
  | some p =>
    let m := trimTo m p
    match s.takeIn c m with
    | some t => t
    | none => s.modCore c fun k =>
        { k with work := { k.work with spill := { k.work.spill with
          old := if k.work.spill.old.isEmpty then [] else { body := .travel m } :: k.work.spill.old,
          entries := if k.work.spill.old.isEmpty then { body := .travel m } :: k.work.spill.entries else k.work.spill.entries } } }

/-- One job's work restarted after a kill, by its recovery mode. -/
def State.restart (s : State) (cause name c : Nat) (lost : Bool) (e : Nat × Nat) : State :=
  match s.job e.1 with
  | none => s
  | some j =>
    if cause = 4 || j.recovery = 1 then
      if lost then s.endJob j
      else match s.latestSnap j.num with
        | none => s.endJob j
        | some n => (s.rollback j.num n.tag).getD (s.endJob j)
    else if j.recovery = 2 then s.recover j c name e.2
    else s.endJob j

/-- A lost core's waiting entries sent, through another core's queues, to other holders of their blocks, oldest first; a message for one of its threads
returns to its sender (14 R332; 02 R52). -/
def State.resendLost (s : State) (c name by_ : Nat) : State :=
  let k := s.core c
  let l := k.work.spill.all ++ k.work.overflow.all ++ k.work.deque
  let s := s.modCore c fun k => { k with work := {} }
  l.foldl (fun s q =>
    let go := fun (m : Travel) =>
      (s.dropHolder m.asid (m.dest / 512) (s.chip m.asid * 65536 + name)).sendOn by_ { m with parent := none } (s.cutBit by_ m.asid)
    match q.body with
    | .travel m => go m
    | .wake m => go m
    | .send m => s.returnSend m) s

/-- SPARE_REMAP (14 R329 steps 5 and 6, R331, R332; 01 R26): the spare takes a killed core's name, or the name is lost; then
the work of each job that the kill struck is restarted. `chosen` is Ozine's choice of a core for a lost one's recovery. -/
def execSpareRemap (c chosen : Nat) (s : State) : Out := .next <|
  let k := s.core c
  let name := s.logical c
  let spare := coreKey (dieOf c) (hedgeOf c) 16
  if !k.csr.stopped || s.phys name != c || (s.rename name).st != 1 then s
  else
    let s := s.modCore c fun k => { k with csr := { k.csr with killed := [] } }
    if spare != c && !(s.core spare).csr.stopped && !((List.range 16).any fun n => s.phys (coreKey (dieOf c) (hedgeOf c) n) == spare) then
      let s := (s.prepareSpare c spare).commitRename name { st := 0, phys := 16 }
      let s := (s.modDie (dieOf c) fun d => { d with sparefree := d.sparefree - 1 }).resendReturned
      let s := k.csr.killed.foldl (fun s e => s.restart k.csr.killCause name spare false e) s
      s.readmit spare 63
    else
      let s := ((s.commitRename name { st := 2, phys := (s.rename name).phys }).signal 16 (dieOf c) name).resendReturned
      let to_ := s.phys chosen
      let s := k.csr.killed.foldl (fun s e => s.restart k.csr.killCause name to_ true e) s
      s.resendLost c name to_

/-! ### Links (14 R323, R325) -/

/-- A job has traffic on a die: it is open there, or on dies between which that die lies, those of its links among them (01 R12,
R19; DEDUCED, log 36). -/
def State.onDie (s : State) (die : Nat) (j : Job) : Bool :=
  let open_ := (List.range 8).filter fun d => j.asids.any fun a => (Tab.get? (s.die d).asids a).isSome
  let ends := open_ ++ ((List.range j.chips).filterMap fun c => if c = j.chip then none else s.linkTo j c).map ibyelDie
  !open_.isEmpty && ends.any fun a => ends.any fun b => dieDist a die + dieDist die b == dieDist a b

/-- Jobs that end with a kill record: of no core, so with logical id 0 (log 36). -/
def State.endKilled (s : State) (cause : Nat) (p : Job → Bool) : State :=
  (s.jobs.filter fun j => j.st != .ended && p j).foldl (fun s j =>
    match s.job j.num with
    | none => s
    | some j => (s.record j.num (faultRec 3 (j.asids.headD 0) 0 0 (cause * 2 ^ 48) s.now)).endJob j) s

/-- A failed link: the jobs whose traffic it carried end or stop. -/
def State.linkFails (s : State) (l : Link) : State :=
  let s := { s with host := { s.host with failedLinks := s.host.failedLinks.filter (· != l) ++ [l] } }
  match l with
  | .mesh d => (s.machineCheck 8 d 0 0 0 0).endKilled 6 (s.onDie d)
  | .dieToDie a b => ((s.machineCheck 8 a 0 0 0 0).machineCheck 8 b 0 0 0 0).endKilled 6 fun j => s.onDie a j || s.onDie b j
  | .ibyel n =>
    (s.jobs.filter fun j => j.st == .running && (List.range j.chips).any fun c => c != j.chip && s.linkTo j c == some n).foldl
      (fun s j => s.stopJob j) s

/-- FLIT_CRC_ERROR (14 R323, R325) on a link that the package has (01 R11, R19): the flit is sent again from the sender's buffer; whether that replay gets through is
open (log 5). After 8 failed replays the link fails. -/
def execFlitCrcError (link : Link) (s : State) : Out := .next <|
  if !linkExists link || s.host.failedLinks.contains link then s
  else
    let (through, s) := s.takeBit
    let failed := ((s.host.crc.find? fun e => e.1 == link).map Prod.snd).getD 0 + 1
    let rest := s.host.crc.filter fun e => e.1 != link
    let set := fun (l : List (Link × Nat)) => { s with host := { s.host with crc := l } }
    if through then set rest
    else if 8 ≤ failed then (set rest).linkFails link
    else set (rest ++ [(link, failed)])

/-! ### Error messages (14 R330) -/

/-- ERROR_MESSAGE_ARRIVAL: what was outstanding toward a core out of service ends: a thread's access with the remote-error
fault, a transfer or drain with status REMOTE, a QMAXX round with its thread's fault. -/
def execErrorMessageArrival (m : ErrMsg) (s : State) : Out := .next <|
  match m with
  | .access c slot owner =>
    match (s.ctx c slot).pipe with
    | [] => s
    | a :: _ =>
      if a.owner.isNone then s else s.accessFault c slot a fcRemote owner false
  | .transfer c ch id => s.endTransfer c ch id 0x05
  | .drain h op => s.drainFail h op 0x05
  | .qmaxx c asid g tag owner =>
    match (s.core c).openRounds.find? fun r => r.keyed asid g tag with
    | some r => s.failRound c r fcRemote owner
    | none => s

/-! ### Hornbeam (11 R276) -/

/-- The physical cores of a hedge with a solve to start, by ascending core number after the one served last. -/
def State.nextSolver (s : State) (h : Nat) : Option Nat :=
  let x := s.hedge h
  ((List.range 16).map fun i => (x.hornLast + 1 + i) % 16).findSome? fun n =>
    let id := coreKey (h / 32) (h % 32) n
    let c := s.phys id
    if (s.core c).units.solves.isEmpty || (s.core c).csr.stopped then none else some c

/-- HORNBEAM_SOLVE_START. -/
def execHornbeamSolveStart (h : Nat) (s : State) : Out := .next <|
  if (s.hedge h).horn.isSome then s
  else match s.nextSolver h with
    | none => s
    | some c =>
      (s.modHedge h fun x => { x with horn := some c, hornLast := coreOf (s.logical c), hornAt := s.now }).after 300 (.hornbeamSolveComplete h)

/-- The thread of a solve resumes, in its context or when its stopped job does. -/
def Ctx.solved (x : Ctx) : Ctx :=
  if x.status = .parked .solve then { x with status := .ready }
  else if x.prior = some (.parked .solve) then { x with prior := some .ready }
  else x

/-- HORNBEAM_SOLVE_COMPLETE: settings, index vector, n, valid and loading in one step. -/
def execHornbeamSolveComplete (h : Nat) (s : State) : Out := .next <|
  match (s.hedge h).horn with
  | none => s
  | some c =>
    let s := s.modHedge h fun x => { x with horn := none }
    let s := match (s.core c).units.solves with
      | [] => s
      | v :: rest => s.modCore c fun k =>
        let w : PermReg := { settings := Config.settingsOf v.idx, idx := v.idx, n := v.idx.length, valid := true, loading := false }
        let k := { k with regs := { k.regs with w := Tab.put k.regs.w v.wd w }, units := { k.units with solves := rest } }
        if (k.ctx v.slot).status == Status.free then k else k.modCtx v.slot Ctx.solved
    s.post (.hornbeamSolveStart h)

end Sys2Proof.Machine
end

