-- ==== Sys2Proof/Machine/Ozine.lean ====
section
/-! DEFINITION. What Ozine does to a running package: pages brought in (04 R105), traps served (17 R376), versioned blocks
committed (05 R109 to R125; 13 R302; 15 R336), registers of cores and hedges written (03 R74 to R80; 04 R86, R88), and its
other writes through the management window. -/

namespace Sys2Proof.Machine

/-! ### Pages (04 R105) -/

/-- Engine work that waits at a page for which Ozine finds no mapping ends with status TRANSLATE. -/
def State.failPage (s : State) (die asid va : Nat) : State :=
  let key := some (vaKey va)
  let s := s.cores.foldl (fun s (e : Nat × Core) =>
    if dieOf e.1 != die then s
    else
      let s := e.2.units.transfers.foldl (fun s t =>
        if t.wait == key && t.req.asid == asid then s.endTransfer e.1 t.req.chan t.req.id 0x02 else s) s
      match e.2.units.chain with
      | none => s
      | some r =>
        if r.wait == key && r.req.asid == asid then
          let (r, s) := s.chainFlush e.1 r
          s.chainEnd e.1 r 0x02
        else s) s
  let s := s.hedges.foldl (fun s (h : Nat × Hedge) => h.2.ops.foldl (fun s o =>
    if h.1 / 32 == die && o.wait == key && o.asid == asid && o.status.isNone then s.settleOp h.1 o.id 0x02 else s) s) s
  let s := (s.die die).recs.foldl (fun s r => if r.wait == key && r.asid == asid then s.noPage die r else s) s
  (s.die die).roots.foldl (fun s q => if q.wait == key && q.asid == asid then s.noRootPage die q else s) s

/-- PAGE_IN_COMPLETE (04 R105): the page is present under the leaf that Ozine writes, and what waited for it goes on; or
Ozine finds no mapping: threads take the page fault, and engine work ends with TRANSLATE. -/
def execPageInComplete (die asid va : Nat) (leaf : Option Word) (s : State) : Out := .next <|
  let l := s.ctxsOf die fun x => x.waits asid fun w => w.absents va
  match leaf with
  | some e =>
    let s := match s.leafSlot die asid va with
      | some a => { s with mem := s.mem.write a 8 e.toNat }
      | none => s
    (l.foldl (fun s x => s.setStatus x.1 x.2 .ready) s).wakeWaiters (vaKey va)
  | none =>
    let s := l.foldl (fun s x => s.failAccess x.1 x.2 fcPage) s
    s.failPage die asid va

/-! ### Traps (17 R376) -/

/-- A thread gets its answer by SEND to g7, from its own package (log 80). -/
def State.trapAnswer (s : State) (r : TrapRec) (v : Word) : State :=
  let m : SendMsg := { unaddressed := false, tgt := BitVec.ofNat 64 (r.tid * 256 + 7), v := v, tid := s.chip r.asid * 2 ^ 22, asid := r.asid, cls := r.cls,
                       ts := 0, cut := false }
  (s.countSent r.asid false).post (.sendArrival m)

/-- The die whose Boxwood cores hold a record, and the state with it taken. -/
def State.takeTrap (s : State) (r : TrapRec) : Option (Nat × State) :=
  match s.dies.find? fun (d : Nat × Die) => d.2.traps.contains r with
  | none => none
  | some d => some (d.1, s.modDie d.1 fun x => { x with traps := x.traps.erase r })

def trapService (r : TrapRec) : Nat := fld r.arg.toNat 56 8
def trapArg (r : TrapRec) : Nat := fld r.arg.toNat 0 56
def allOnes : Word := BitVec.ofNat 64 (2 ^ 64 - 1)

/-- Bytes of a range made zero, with their poison marks cleared. -/
def State.zero (s : State) (base n : Nat) : State :=
  { s with mem := List.filter (fun c => !(base ≤ c.1 && c.1 < base + n)) s.mem,
           poison := s.poison.filter fun p => !(base / 8 ≤ p.1 && p.1 < (base + n) / 8) }

/-- The absent leaf entries of an ASID's tables on a die: page number and where the entry stands. -/
def State.absentLeaves (s : State) (die asid : Nat) : List (Nat × Nat) :=
  match Tab.get? (s.die die).asids asid with
  | none => []
  | some e =>
    (tableEntries s.mem e.root 16384).flatMap fun e0 =>
      if fld e0.2 61 3 != 1 then []
      else (tableEntries s.mem (fld e0.2 16 32 * 65536) 8192).flatMap fun e1 =>
        if fld e1.2 61 3 != 1 || bit e1.2 60 then []
        else (List.range 32).filterMap fun i =>
          let a := fld e1.2 16 32 * 65536 + 8 * i
          if s.mem.read a 8 = 0 then some (e0.1 * 2 ^ 18 + e1.1 * 32 + i, a) else none

/-- The first run of n absent pages that no live allocation of the job holds: where their entries stand. -/
def freePages (slots : List (Nat × Nat)) (allocs : List (Nat × Nat)) (n : Nat) : Option (Nat × List Nat) :=
  let free := slots.filter fun e => !allocs.any fun a => a.1 / 65536 ≤ e.1 && e.1 < a.1 / 65536 + a.2
  let run := fun (v : Nat) => (List.range n).filterMap fun i => (free.find? fun e => e.1 == v + i).map Prod.snd
  if free.length < n then none else (free.find? fun e => (run e.1).length == n).map fun e => (e.1, run e.1)

/-- An address of the bonded DRAM of a die (04 R91). -/
def inDram (die a : Nat) : Bool := die * 2 ^ 36 ≤ a && a < die * 2 ^ 36 + 48 * 2 ^ 30

/-- TRAP_ALLOCATE (17 R376): zeroed pages at the frames that Ozine takes (log 11), mapped read-write at the first free
addresses of the thread's ASID; all ones for none, or for more than Ozine can give. -/
def execTrapAllocate (r : TrapRec) (frame : Option Nat) (s : State) : Out := .next <|
  if trapService r != 1 then s
  else match s.takeTrap r with
    | none => s
    | some (die, s) =>
      let n := trapArg r
      let allocs := ((s.jobOf r.asid).map Job.allocs).getD []
      match frame, freePages (s.absentLeaves die r.asid) allocs n with
      | some f, some (page, slots) =>
        if n = 0 || f % 65536 != 0 || !inDram (f / 2 ^ 36) f || !inDram (f / 2 ^ 36) (f + 65536 * n - 1) then s.trapAnswer r allOnes
        else
          let s := s.zero f (65536 * n)
          let mem := slots.zipIdx.foldl (fun m e => Memory.write m e.1 8 (2 ^ 61 + f + 65536 * e.2 + 7)) s.mem
          let s := { s with mem := mem }
          let s := match s.jobOf r.asid with
            | some j => s.modJob j.num fun j => { j with allocs := j.allocs ++ [(page * 65536, n)] }
            | none => s
          s.trapAnswer r (BitVec.ofNat 64 (page * 65536))
      | _, _ => s.trapAnswer r allOnes

/-- Pages copied for the snapshots that await them; the flag is false where the store has no room for one. -/
def State.copyPages (s : State) (bases : List Nat) : State × Bool :=
  bases.foldl (fun r b => if r.2 then r.1.copyPage b else r) (s, true)

/-- TRAP_FREE (17 R376). A page that a snapshot shares is copied before it becomes absent (15 R340); while the store is full, the
record stays with Ozine. -/
def execTrapFree (r : TrapRec) (s : State) : Out := .next <|
  if trapService r != 2 then s
  else match s.takeTrap r with
    | none => s
    | some (die, t) =>
      match t.jobOf r.asid with
      | none => t.trapAnswer r allOnes
      | some j =>
        match j.allocs.find? fun a => a.1 == trapArg r with
        | none => t.trapAnswer r allOnes
        | some a =>
          let leaves := (List.range a.2).filterMap fun i => t.leafOf die r.asid (a.1 + 65536 * i)
          let (t, copied) := t.copyPages (leaves.map fun l => pteAddr l.2 false 0)
          if !copied then s
          else
          let s := t.modJob j.num fun j => { j with allocs := j.allocs.erase a }
          let s := (List.range a.2).foldl (fun s i =>
            let va := a.1 + 65536 * i
            match s.leafSlot die r.asid va with
            | some p => { (s.dropTlb r.asid va fun _ => true) with mem := s.mem.write p 8 0 }
            | none => s) s
          s.trapAnswer r 0

/-- A page that threads of an ASID may read. -/
def State.userReads (s : State) (die asid va : Nat) : Option Nat :=
  match Tab.get? (s.die die).asids asid with
  | none => none
  | some e => (walkPure s.mem e.root va).bind fun w =>
      if bit w.1 0 && bit w.1 2 && fld w.1 61 3 < 5 then some (pteAddr w.1 w.2 va) else none

/-- The bytes from a virtual address on that threads of an ASID may read; none where one may not be read. -/
def State.userBytes (s : State) (die asid va n : Nat) : Option (List (BitVec 8)) :=
  (List.range n).mapM fun i => (s.userReads die asid (va + i)).bind fun p =>
    if (Tab.get? s.poison (p / 8)).isSome then none else some (s.byte p)

/-- TRAP_LOG (17 R376): the message's 256 bytes are logged. -/
def execTrapLog (r : TrapRec) (s : State) : Out := .next <|
  if trapService r != 3 then s
  else match s.takeTrap r with
    | none => s
    | some (die, s) =>
      let va := trapArg r
      match if va % 8 = 0 then s.userBytes die r.asid va 256 else none with
      | some l => State.trapAnswer { s with host := { s.host with logs := s.host.logs ++ [(r.asid, l)] } } r 0
      | none => s.trapAnswer r allOnes

/-- TRAP_UNKNOWN_SERVICE (17 R376). -/
def execTrapUnknownService (r : TrapRec) (s : State) : Out := .next <|
  if 1 ≤ trapService r && trapService r ≤ 3 then s
  else match s.takeTrap r with
    | none => s
    | some (_, s) => s.trapAnswer r allOnes

/-! ### Commits of versioned blocks (05 R109) -/

/-- A commit word names the copy that is not in force, under that copy's own version. -/
def commits (word : Word) (copy version : Nat) : Bool :=
  word.toNat % 2 != copy && word.toNat / 2 == version

/-- A spare that takes a name finds its SRAM blank and its registers as at reset, but for what Ozine has prepared: split, victim
setting, SHASID, blocks, rings (01 R15; 03 R54). -/
def State.freshSpare (s : State) (c : Nat) : State :=
  (s.blankSram c).modCore c fun k =>
    { csr := { lsplit := k.csr.lsplit, vgroup := k.csr.vgroup, shasid := k.csr.shasid, cycle0 := s.now, lastHb := s.now, stopped := k.csr.stopped },
      work := { spill := k.work.spill, overflow := k.work.overflow, placed := k.work.placed } }

/-- RENAME_COMMIT (05 R124): the pending entry becomes the committed one, and returned messages are sent again. A version
other than the next, a reserved state, and a physical core that another name of the hedge holds are ignored. SPAREFREE follows a
name that goes to the spare, or leaves it (01 R26; 03 R75). -/
def execRenameCommit (die : Nat) (word : Word) (s : State) : Out := .next <|
  let n := word.toNat % 512
  let d := s.die die
  let own : Rename := { st := 0, phys := n % 16 }
  let old := Tab.getD d.rename n own
  let r := Tab.getD d.pendRename n own
  let taken := (List.range 16).any fun i =>
    i != n % 16 && (Tab.getD d.rename (n / 16 * 16 + i) { st := 0, phys := i }).phys == r.phys
  if word.toNat / 512 != d.renameVersion + 1 || 2 < r.st || 16 < r.phys || taken then s
  else
    let s := if r.phys = 16 && old.phys ≠ 16 then s.freshSpare (coreKey die (n / 16) 16) else s
    (s.modDie die fun d =>
      { d with rename := Tab.put d.rename n r, renameVersion := d.renameVersion + 1,
               sparefree := d.sparefree + (if old.phys = 16 then 1 else 0) - (if r.phys = 16 then 1 else 0) }).resendReturned

/-- SLOT_TABLE_COMMIT (05 R125): the engine adopts the copy at the start of its next frame. -/
def execSlotTableCommit (h : Nat) (word : Word) (s : State) : Out := .next <|
  let x := s.hedge h
  if !commits word x.slotCopy x.pendSlots.2 then s
  else
    let frame := Config.slotCycles * Config.frameSlots
    let s := s.modHedge h fun x =>
      { x with nextSlots := some x.pendSlots.1, slotVersion := x.pendSlots.2, slotCopy := 1 - x.slotCopy,
               pendSlots := (x.nextSlots.getD x.slots, x.slotVersion) }
    s.after (frame - s.now % frame) (.frameStart h)

/-! ### Ring control blocks (05 R113, R116, R117) -/

/-- The commit word of a control block in DRAM, and its copies; none for a copy with a reserved bit set. -/
def State.blockWord (s : State) (block : Nat) : Word := BitVec.ofNat 64 (s.mem.read block 8)
def State.blockCopy (s : State) (block copy : Nat) : Option RingCopy :=
  let a := s.mem.read (block + 8 + 16 * copy) 8
  let b := s.mem.read (block + 16 + 16 * copy) 8
  if fld a 48 16 != 0 || fld a 5 11 != 0 then none
  else some { base := fld a 16 32 * 65536, log2cap := fld a 0 5, version := fld b 32 32, hwm := fld b 0 32 }

/-- The limits of a copy (05 R113): a ring in DRAM, with its reserve above the mark. Base 0 stands for no ring (log 12). -/
def ringCopyGood (p : RingCopy) : Bool :=
  10 ≤ p.log2cap && p.log2cap ≤ 20 && p.hwm + 256 ≤ 2 ^ p.log2cap && p.base % 65536 == 0 && p.base != 0 && inDram (p.base / 2 ^ 36) p.base
    && p.base < 2 ^ 39

/-- A ring whose control block Ozine names: an empty one takes the configuration that stands committed there. -/
def Ring.adopt {α : Type} (r : Ring α) (block : Nat) (word : Word) (p : Option RingCopy) : Ring α :=
  let r := { r with block := block }
  match p with
  | none => r
  | some p =>
    if r.occupancy != 0 || !ringCopyGood p || word.toNat / 2 != p.version then r
    else { r with base := p.base, log2cap := p.log2cap, hwm := p.hwm, version := p.version, copy := word.toNat % 2, head := 0, tail := 0,
                  drained := true, signalled := false }
def State.adopt {α : Type} (s : State) (block : Nat) (r : Ring α) : Ring α :=
  let w := s.blockWord block
  r.adopt block w (s.blockCopy block (w.toNat % 2))

/-- What a ring's commit does: new entries enter the new ring, with indices of its own, and the old one is emptied first (05 R114).
A copy that breaks a limit, or a commit while the old ring is not drained, is ignored. -/
def Ring.commit {α : Type} (r : Ring α) (word : Word) (p : Option RingCopy) : Ring α :=
  match p with
  | none => r
  | some p =>
    if !commits word r.copy p.version || !ringCopyGood p || !r.drained then r
    else { r with old := r.entries, oldBase := r.base, oldLog2cap := r.log2cap, oldHead := r.head, oldTail := r.tail,
                  entries := [], head := 0, tail := 0, base := p.base, log2cap := p.log2cap, hwm := p.hwm, version := p.version,
                  copy := 1 - r.copy, pending := { base := r.base, log2cap := r.log2cap, version := r.version, hwm := r.hwm },
                  drained := r.entries.isEmpty, signalled := r.signalled && p.hwm < r.entries.length }

/-- The copy that a commit word of a ring names: in its control block, where it has one. -/
def State.commitRing {α : Type} (s : State) (word : Word) (r : Ring α) : Ring α :=
  r.commit word (if r.block = 0 then some r.pending else s.blockCopy r.block (word.toNat % 2))
def State.commitWord {α : Type} (s : State) (r : Ring α) (word : Word) : State :=
  if r.block = 0 then s else { s with mem := s.mem.write r.block 8 word.toNat }

/-! ### Configurations (13 R302; 15 R336; 05 R122) -/

/-- The rings of a die's scheduler at the control blocks that its configuration names, by class. -/
def State.placeRings (s : State) (die : Nat) : State :=
  s.modDie die fun d =>
    { d with tasks := d.sched.queues.zipIdx.foldl (fun t e => Tab.put t e.2 (s.adopt e.1 (d.taskRing e.2))) d.tasks,
             holds := d.sched.holds.zipIdx.foldl (fun t e => Tab.put t e.2 (s.adopt e.1 (d.holdRing e.2))) d.holds }

/-- SCHEDULER_CONFIG_COMMIT (13 R302): other ring addresses only while every ring is empty. -/
def execSchedulerConfigCommit (die : Nat) (word : Word) (s : State) : Out := .next <|
  let d := s.die die
  let p := d.pendSched
  let good := (p.queues ++ p.holds).all (fun a => a % 64 == 0 && inDram die a) && p.queues.length ≤ 4 && p.holds.length ≤ 4
  let moved := p.queues != d.sched.queues || p.holds != d.sched.holds
  let empty := d.tasks.all (fun e => e.2.occupancy == 0) && d.holds.all fun e => e.2.occupancy == 0
  if !commits word d.sched.copy p.version || !good || (moved && !empty) then s
  else
    let s := s.modDie die fun d => { d with sched := { p with copy := 1 - d.sched.copy }, pendSched := d.sched }
    if moved then s.placeRings die else s

/-- YEW_CONFIG_COMMIT (15 R336, R343): not while a snapshot of the die is open. The ASIDs it lists join their job. -/
def execYewConfigCommit (die : Nat) (word : Word) (s : State) : Out := .next <|
  let d := s.die die
  let p := d.pendYew
  let good := 16 ≤ p.size && p.size < 2 ^ 16 && p.hwm < p.size && p.base % 65536 == 0 && inDram die p.base && p.asids.length ≤ 8
  if !commits word d.yew.copy p.version || !good || s.openSnap.isSome then s
  else
    let s := s.modDie die fun d => { d with yew := { p with copy := 1 - d.yew.copy }, pendYew := d.yew }
    let s := match s.jobs.find? fun j => j.st != .ended && j.asids.any p.asids.contains with
      | some j => s.modJob j.num fun j =>
          { j with asids := j.asids ++ p.asids.filter fun a => a != 0 && !j.asids.contains a && (s.jobOf a).isNone }
      | none => s
    s.restock

/-- Arrivals that the overflow buffer holds for a core go back to its grown spill queue, oldest first (02 R44). -/
def State.unspill (s : State) (c : Nat) : Nat → State
  | 0 => s
  | fuel + 1 =>
    if (s.core c).work.spill.full then s
    else match (s.die (dieOf c)).overflow.all.find? fun q => q.core == c with
      | none => s
      | some q =>
        let s := s.modDie (dieOf c) fun d => { d with overflow := d.overflow.remove q }
        let r := (s.core c).work.spill.push [{ q with core := 0 }]
        let s := s.modCore c fun k => { k with work := { k.work with spill := r.1 } }
        (if r.2 then s.signal 2 c 0 else s).unspill c fuel

/-- RING_GROWTH_COMMIT (05 R113, R114, R116, R117; 02 R44). -/
def execRingGrowthCommit (ring : RingName) (word : Word) (s : State) : Out := .next <|
  match ring with
  | .spill c =>
    let r := (s.core c).work.spill
    let s := (s.commitWord r word).modCore c fun k => { k with work := { k.work with spill := s.commitRing word r } }
    (s.unspill c ((s.die (dieOf c)).overflow.occupancy + 1)).readmit c 63
  | .deque c =>
    let r := (s.core c).work.overflow
    (s.commitWord r word).modCore c fun k => { k with work := { k.work with overflow := s.commitRing word r } }
  | .task die cls =>
    let r := (s.die die).taskRing cls
    ((s.commitWord r word).modDie die fun d => { d with tasks := Tab.put d.tasks cls (s.commitRing word r) }).fillQueue die cls
  | .hold die cls =>
    let r := (s.die die).holdRing cls
    ((s.commitWord r word).modDie die fun d => { d with holds := Tab.put d.holds cls (s.commitRing word r) }).fillQueue die cls
  | .overflow die =>
    let r := (s.die die).overflow
    (s.commitWord r word).modDie die fun d => { d with overflow := s.commitRing word r }

/-- BLOCK_DIRECTORY_COMMIT (05 R109, R122): the base and size of a die's table, whose buckets take the blocks that it holds. -/
def execBlockDirectoryCommit (die copy version : Nat) (s : State) : Out := .next <|
  let d := s.die die
  let p := d.pendDir
  let bucket := fun (b : DirBlock) => dirBucket p.log2 b.asid b.blk
  let fits := d.blocks.all fun b => (d.blocks.filter fun e => bucket e == bucket b).length ≤ Config.bucketSize
  if !commits (BitVec.ofNat 64 (2 * version + copy % 2)) d.dir.copy p.version || p.log2 < 4 || 20 < p.log2 || !inDram die p.base || !fits then s
  else s.modDie die fun d => { d with dir := { p with copy := 1 - d.dir.copy }, pendDir := d.dir }

/-! ### Registers that Ozine writes (03 R74 to R80; 04 R86, R88; 05 R128) -/

/-- Slots 0 to 62 of a core hold no thread. -/
def Core.slotsEmpty (k : Core) : Bool := !k.ctxs.any fun e => e.1 != 63 && e.2.status != .free

/-- The porter of a core is idle: it serves nothing, and nothing that it could serve waits (04 R86). -/
def State.porterIdle (s : State) (c : Nat) : Bool :=
  let w := (s.core c).work
  w.porter.isNone && (s.ctx c 63).status == .free && !((w.porterQ ++ w.porters.map Prod.fst).any fun i => !s.jobStopped i.asid)

/-- An Ozine write of a value that 03 declares invalid: discarded, with a value error to the Boxwood core that wrote (03 R74). -/
def State.valueError (s : State) (csr place : Nat) : State := s.signal 15 csr place

/-- A value of LSPLIT that Ozine may write (03 R79: its reserved fields have the value 0, log 92). -/
def lsplitValid (v : Nat) : Bool :=
  fld v 16 48 == 0 && fld v 3 5 == 0 && fld v 0 3 ≤ 4 && fld v 8 8 * 4096 ≤ (384 - 64 * fld v 0 3) * 1024

/-- LSPLIT (03 R79; 04 R86): with slots 0 to 62 empty; while the porter runs, it waits, and the router holds what would use the split. A
change of the cache code writes back the cache portion and zeroes the scratchpad; a change of the reserve alone zeroes what moves. -/
def execLsplit (c : Nat) (v : Word) (s : State) : Out := .next <|
  let k := s.core c
  let old := k.csr.lsplit
  let new := v.toNat
  if !lsplitValid new || !k.slotsEmpty then (s.valueError 0x100 c).letIn
  else if !s.porterIdle c then s.after 8 (.lsplit c v)
  else
    let set := fun (s : State) => (s.modCore c fun k => { k with csr := { k.csr with lsplit := new } }).letIn
    if fld old 0 3 = fld new 0 3 then
      let size := scratchSize old
      let far := size - max (reserveSize old) (reserveSize new)
      let near := size - min (reserveSize old) (reserveSize new)
      set (s.zero (sramAt c far) (near - far))
    else
      let s := k.cache.foldl (fun s l => s.dropLine l) s
      let s := s.modCore c fun k => { k with cache := [] }
      set (s.zero (sramAt c 0) (max (scratchSize old) (scratchSize new)))

/-- VGROUP (03 R80; 04 R88): with slots 0 to 62 of every core of the hedge empty; the victim cache is emptied first, and so are the
ways of the cache portion that are lent. The reserved field's bits are discarded (00 R5). -/
def execVgroup (c : Nat) (v : Word) (s : State) : Out := .next <|
  let h := hedgeKey c
  let empty := (List.range 17).all fun i => (s.core (coreKey (h / 32) (h % 32) i)).slotsEmpty
  let g := v.toNat % 4
  if g = 3 || !empty then s.valueError 0x101 c
  else
    let s := (s.hedge h).victim.foldl (fun s l => s.dropLine l) s
    let s := s.modHedge h fun x => { x with victim := [] }
    let s := if (s.core c).csr.vgroup < g then
        let t := (s.core c).cache.foldl (fun s l => s.dropLine l) s
        t.modCore c fun k => { k with cache := [] }
      else s
    s.modCore c fun k => { k with csr := { k.csr with vgroup := g } }

/-- DBGCTL (03 R80): each write governs instructions that issue 8 or more cycles after it; the reserved field's bits are
discarded (00 R5). -/
def execDbgctl (c : Nat) (v : Word) (s : State) : Out := .next <|
  s.modCore c fun k =>
    { k with csr := { k.csr with dbgctl := v.toNat % 2,
                                 dbgOld := (k.csr.dbgctl, s.now) :: k.csr.dbgOld.takeWhile fun e => s.now < e.2 + 8 } }

/-- SHASID (03 R64): the shared registers are zeroed and made invalid before their owner changes; a register that Hornbeam solves
keeps its loading bit (R70). Bits beyond its 16 are discarded. -/
def execShasid (c : Nat) (v : Word) (s : State) : Out := .next <|
  let n := v.toNat % 2 ^ 16
  if (s.core c).csr.shasid = n then s
  else s.modCore c fun k =>
    let solving := (k.regs.w.filter fun e => e.2.loading).map fun e => (e.1, { loading := true : PermReg })
    { k with regs := { w := solving }, csr := { k.csr with shasid := n } }

/-- MECHECK (03 R75; 05 R128). -/
def execMecheck (h : Nat) (v : Word) (s : State) : Out := .next <|
  if v.toNat < 8 || 4096 < v.toNat then s.valueError 0x200 h
  else s.modHedge h fun x => { x with mecheck := v.toNat, checks := 0 }

/-! ### The management window (03 R74) -/

/-- A double that Ozine stores, coherently. -/
def State.ozineStore (s : State) (addr : Nat) (v : Word) : State :=
  if addr % 8 != 0 || 2 ^ 48 ≤ addr || !s.physOk addr then s
  else
    let sh := addr % 128 * 8
    (s.engineWrite (addr / 2 ^ 36 % 8 * 8192) (lineOf addr) (v.toNat * 2 ^ sh) (ones 64 * 2 ^ sh) 0).2

/-- A ring with another pending copy of its control block. -/
def Ring.withCopy {α : Type} (r : Ring α) (p : RingCopy) : Ring α := { r with pending := p }

/-- The pending copy of a ring's control block. -/
def State.putRingCopy (s : State) (ring : RingName) (p : RingCopy) : State :=
  match ring with
  | .spill c => s.modCore c fun k => { k with work := { k.work with spill := k.work.spill.withCopy p } }
  | .deque c => s.modCore c fun k => { k with work := { k.work with overflow := k.work.overflow.withCopy p } }
  | .task die cls => s.modDie die fun d => { d with tasks := Tab.put d.tasks cls ((d.taskRing cls).withCopy p) }
  | .hold die cls => s.modDie die fun d => { d with holds := Tab.put d.holds cls ((d.holdRing cls).withCopy p) }
  | .overflow die => s.modDie die fun d => { d with overflow := d.overflow.withCopy p }

/-- Ozine names the control block of a core's or a die's ring (DESIGN CHOICE, log 83); those of the task queues and hold rings stand
in the scheduler's configuration. -/
def State.nameBlock (s : State) (ring : RingName) (addr : Nat) : State :=
  match ring with
  | .spill c => s.modCore c fun k => { k with work := { k.work with spill := s.adopt addr k.work.spill } }
  | .deque c => s.modCore c fun k => { k with work := { k.work with overflow := s.adopt addr k.work.overflow } }
  | .overflow die => s.modDie die fun d => { d with overflow := s.adopt addr d.overflow }
  | _ => s

/-- A raised generation of a queue slot's object type; before it wraps, the slot's live capability is sealed anew (17 R373). -/
def HQueue.raise (q : HQueue) (type : Nat) (reseal : Nat → Nat) : HQueue :=
  let g := Tab.getD q.gens type 0
  let q := { q with gens := Tab.put q.gens type ((g + 1) % 256) }
  if g != 255 then q
  else match type with
    | 1 => { q with cmdCap := reseal q.cmdCap }
    | 2 => { q with cplCap := reseal q.cplCap }
    | _ => { q with saveCap := reseal q.saveCap }

/-- Bits [103:0] of a capability with another generation. -/
def capWithGen (cap gen : Nat) : Nat := cap % 2 ^ 80 + gen % 256 * 2 ^ 80 + fld cap 88 16 * 2 ^ 88

/-- An ASID descriptor's fields (04 R106). -/
def asidOfDesc (desc : Nat) : Nat := fld desc 0 16
def AsidEntry.ofDesc (desc : Nat) : AsidEntry :=
  { root := fld desc 59 31 * 2 ^ 17, farBase := fld desc 90 43, farLimit := fld desc 133 43 }

/-- MANAGEMENT_WINDOW_WRITE (03 R74; 04 R106; 05 R109, R126; 15 R349; 17 R367 to R374): a value that is invalid is discarded. -/
def execManagementWindowWrite (w : MgmtWrite) (s : State) : Out :=
  let onHost := fun (f : Hostside → Hostside) => Host.Outcome.next { s with host := f s.host }
  match w with
  | .coreCsr c csr v =>
    if csr = 0x100 then execLsplit c v s
    else if csr = 0x101 then execVgroup c v s
    else if csr = 0x102 then execDbgctl c v s
    else if csr = 0x103 then execShasid c v s
    else .next s
  | .hedgeCsr h csr v => if csr = 0x200 then execMecheck h v s else .next s
  | .dieCsr die csr v => .next (if csr = 0x300 then s.modDie die fun d => { d with sparefree := v.toNat % 64 } else s)
  | .asidEntry die desc => .next (s.modDie die fun d => { d with asids := Tab.put d.asids (asidOfDesc desc) (.ofDesc desc) })
  | .stealDomain die index v =>
    if fld v 3 13 != 0 || 256 ≤ index then .next s else .next (s.modDie die fun d => { d with steal := Tab.put d.steal index v })
  | .openWindow fn base len => onHost fun h =>
    let f := Tab.getD h.fns fn {}
    let die := base / 2 ^ 36
    if 16 ≤ fn || len = 0 || 8 ≤ die || !inDram die base || !inDram die (base + len - 1) then h
    else { h with fns := Tab.put h.fns fn { f with windows := f.windows ++ [(base, len)] } }
  | .functionAsids fn asids => onHost fun h => { h with fns := Tab.put h.fns fn { (Tab.getD h.fns fn {}) with asids := asids } }
  | .farWindow port gib ro => onHost fun h =>
    let t := Tab.put h.farWindows port (gib, ro)
    if 3 < port || 8192 < t.foldl (fun n e => n + e.2.1) 0 then h else { h with farWindows := t }
  | .memory addr v => .next (s.ozineStore addr v)
  | .istore c addr v =>
    let busy := (s.core c).work.placed.any fun p => p.addr ≤ addr && addr < p.addr + 8 * p.count
    if busy || Config.istoreBytes ≤ addr then .next s else .next { s with mem := s.mem.write (istoreAt c addr) 1 v }
  | .renameCopy die entry st phys => .next (s.modDie die fun d => { d with pendRename := Tab.put d.pendRename entry { st := st, phys := phys } })
  | .slotCopy h version slots =>
    let t := (slots.filter fun e => e.1 < Config.frameSlots).foldl (fun t e => Tab.put t e.1 e.2) []
    .next (s.modHedge h fun x => { x with pendSlots := (t, version) })
  | .schedCopy die version class0 queues holds =>
    .next (s.modDie die fun d => { d with pendSched := { version := version, class0 := class0, queues := queues, holds := holds } })
  | .yewCopy die base size version hwm asids =>
    .next (s.modDie die fun d => { d with pendYew := { version := version, base := base, size := size, hwm := hwm, asids := asids } })
  | .ringCopy ring copy => .next (s.putRingCopy ring copy)
  | .dirCopy die base log2buckets version =>
    .next (s.modDie die fun d => { d with pendDir := { version := version, base := base, log2 := log2buckets } })
  | .ringBlock ring addr => .next (if addr % 64 != 0 || !inDram (addr / 2 ^ 36 % 8) addr then s else s.nameBlock ring addr)
  | .blockRequests job places colocs => .next (s.modJob job fun j => { j with places := places, colocs := colocs })
  | .placedImage e => onHost fun h =>
    { h with placedImages := (h.placedImages.filter fun i => !(i.digest == e.digest && i.feat0 == e.feat0 && i.feat1 == e.feat1)) ++ [e] }
  | .hostQueue die queue fn cmd cpl save =>
    .next (s.modQueue die queue fun q =>
      { q with fn := fn, mapped := true, frozen := false, cmdCap := s.seal cmd, cplCap := s.seal cpl, saveCap := s.seal save,
               head := 0, tail := 0, cplTail := 0, wake := false })
  | .yewCommand job d0 d1 => .next (s.yewCommanded job d0 d1)
  | .queueGen die queue type => .next (s.modQueue die queue fun q => q.raise type fun cap => s.seal (capWithGen cap 0))
  | .linkPeer link digest => onHost fun h => if 12 ≤ link then h else { h with links := Tab.put h.links link digest }

end Sys2Proof.Machine
end

