-- ==== Sys2Proof/Machine/Hostside.lean ====
section
/-! DEFINITION. The host's side (17): commands and their queues (R373 to R375), launches (R297, R371, R381, R402), snapshots for
the host, attestation (R380), migration (R372), management messages, host requests to device windows (R367), firmware, heat
(R384), and the reset of the package (R377; 04 R83). -/

namespace Sys2Proof.Machine

/-! ### Launch (17 R371, R375, R381, R402; 13 R297) -/

/-- Fields of a launch command. -/
def lcChip (c : HostCmd) : Nat := fld (cmdDouble c 6) 8 8
def lcChips (c : HostCmd) : Nat := fld (cmdDouble c 6) 0 8 + 1
def lcJob (c : HostCmd) : Nat := fld (cmdDouble c 6) 24 24
def lcRecovery (c : HostCmd) : Nat := fld (cmdDouble c 2) 8 2

/-- The fields of doubles 2 to 4 and 6 break a limit of R375. -/
def launchBreaks (c : HostCmd) : Bool :=
  fld (cmdDouble c 2) 11 53 != 0 || fld (cmdDouble c 2) 1 7 != 0 || lcRecovery c == 3
    || fld (cmdDouble c 3) 33 31 != 0 || (lcRecovery c != 2 && cmdDouble c 3 != 0)
    || 2 ^ 48 ≤ cmdDouble c 4 || fld (cmdDouble c 6) 48 16 != 0 || fld (cmdDouble c 6) 16 8 != 0 || lcChips c ≤ lcChip c

/-- What a header's eight doubles say, where they keep every limit of R297 for an ASID. -/
structure GraphHeader where
  cls : Nat
  roots : Nat
  count : Nat
  features : Nat
deriving DecidableEq, Repr

def headerOf (v asid : Nat) : Option GraphHeader :=
  let d := fun (n : Nat) => fld v (64 * n) 64
  let good := fld (d 0) 56 8 == 1 && fld (d 0) 18 38 == 0 && fld (d 0) 0 16 == asid && fld (d 1) 48 16 == 0 && d 1 % 8 == 0
    && fld (d 2) 16 48 == 0 && d 2 != 0 && fld (d 3) 48 16 == 0 && d 3 % 8 == 0 && fld (d 4) 32 32 == 0 && d 4 != 0
    && fld (d 6) 10 54 == 0 && d 7 == 0
  if good then some { cls := fld (d 0) 16 2, roots := d 1, count := d 2, features := d 6 } else none

/-- The header that a command names, read through its ASID; none where it cannot be read or breaks a limit. -/
def State.readHeader (s : State) (die asid addr : Nat) : Option GraphHeader × State :=
  if addr % 64 != 0 || 2 ^ 48 ≤ addr then (none, s)
  else match s.schedRead die asid 0 addr 8 with
    | .error (_, s) => (none, s)
    | .ok (v, _, s) => (headerOf v asid, s)

/-- The chip map of a job: for each chip its digest and the next hop, where every next hop has a trained link and the rest
is zero (17 R370, R371). -/
def State.readMap (s : State) (die asid addr chip chips : Nat) : Option (Tab (Word × Word)) × State :=
  if addr % 8 != 0 || 2 ^ 48 ≤ addr then (none, s)
  else match s.schedRead die asid 0 addr 512 with
    | .error (_, s) => (none, s)
    | .ok (v, _, s) =>
      let entry := fun (c : Nat) => (BitVec.ofNat 64 (fld v (128 * c) 64), BitVec.ofNat 64 (fld v (128 * c + 64) 64))
      let map : Tab (Word × Word) := (List.range chips).map fun c => (c, entry c)
      let good := map.all fun e => e.1 == chip || s.host.links.any fun l => l.2 == e.2.2
      (if good && v / 2 ^ (128 * chips) = 0 then some map else none, s)

/-- The roots of a graph enter the scheduler's view (13 R297). -/
def State.placeRoots (s : State) (die asid header : Nat) (g : GraphHeader) (redun : Bool) : State :=
  s.runRoots die { asid := asid, header := header, cls := g.cls, redun := redun, list := g.roots, count := g.count } (g.count + 1)

/-- The job of a launch command. -/
def jobOfCmd (c : HostCmd) (cls features : Nat) (map : Tab (Word × Word)) : Job :=
  { num := lcJob c, asids := [cmdAsid c], chip := lcChip c, chips := lcChips c, cls := cls, header := cmdDouble c 1,
    policy := fld (cmdDouble c 2) 10 1, recovery := lcRecovery c, recoveryEntry := cmdDouble c 3, redun := bit (cmdDouble c 2) 0,
    ring := cmdDouble c 4, digests := map, features := features }

/-- Ozine opens a job: its fault-record ring holds no entry yet (14 R320). -/
def State.openJob (s : State) (j : Job) : State :=
  let s := { s with jobs := s.jobs ++ [j] }
  match s.ozineAddr 0 (j.asids.headD 0) j.ring with
  | some p => { s with mem := (s.mem.write p 8 j.log2ring).write (p + 8) 8 0 }
  | none => s

/-- The graph of a job starts when every other chip has joined (17 R371). -/
def State.startGraph (s : State) (die : Nat) (j : Job) : State :=
  if j.started || j.chip != 0 || j.joined.length + 1 < j.chips then s
  else
    let asid := j.asids.headD 0
    let s := s.modJob j.num fun j => { j with started := true }
    match s.readHeader die asid j.header with
    | (some g, s) => s.placeRoots die asid j.header g j.redun
    | (none, s) => s

/-- LAUNCH on this package: its checks, in the order of fields, header, features, chip map; then the job is opened. -/
def State.launch (s : State) (cmd : HostCmd) : State :=
  let asid := cmdAsid cmd
  let header := cmdDouble cmd 1
  let chip := lcChip cmd
  let chips := lcChips cmd
  if !s.asidOpen cmd then s.answerCmd cmd 2
  else if cmdReserved cmd [1, 2, 3, 4, 6, 7] || launchBreaks cmd || (chip == 0) != (header != 0) || (chips == 1 && cmdDouble cmd 7 != 0)
      || (s.jobOf asid).isSome || (s.job (lcJob cmd)).isSome then s.answerCmd cmd 1
  else
    let (g, s) := if header = 0 then (some { cls := 0, roots := 0, count := 0, features := 0 }, s) else s.readHeader cmd.die asid header
    match g with
    | none => s.answerCmd cmd 1
    | some g =>
      if g.features &&& s.host.drvfeat != g.features then s.answerCmd cmd 3
      else
        let (map, s) := if chips = 1 then (some [], s) else s.readMap cmd.die asid (cmdDouble cmd 7) chip chips
        match map with
        | none => s.answerCmd cmd 1
        | some map =>
          let j := jobOfCmd cmd g.cls g.features map
          if chip = 0 then ((s.openJob j).startGraph cmd.die j).answerCmd cmd 0
          else
            let s := s.openJob { j with cmd := some cmd }
            { s with outbox := s.outbox ++ [OutMsg.mk 0 (.managementMessage (.join j.num chip chips))] }

/-- LAUNCH (17 R375). -/
def execLaunch (cmd : HostCmd) (s : State) : Out := .next <|
  if cmdOpcode cmd != 1 then s.answerCmd cmd 1 else s.launch cmd

/-! ### Snapshot, rollback, release (17 R375; 15 R349) -/

/-- Yew is asked for a snapshot of a job, as by a SNAP of no thread (08 R195). -/
def State.askSnapshot (s : State) (j : Job) (asid tag : Nat) : State :=
  let held := (s.yew.held.filter fun (r : SnapReq) => r.job == j.num).length
  let hold := if held < 4 then { s with yew := { s.yew with held := s.yew.held ++ [SnapReq.mk j.num tag] } }
    else s.recordFor asid (faultRec 4 asid 0 0 tag 0)
  match s.openSnap with
  | none => s.openSnapshot j.num tag
  | some n => if n.job = j.num && n.tag = tag then s else hold

/-- A command to Yew: its checks, then what it does with the job and the tag; other packages get it too. -/
def State.yewCommand (s : State) (cmd : HostCmd) (f : State → Job → Nat → State × Nat) : State :=
  let tag := cmdDouble cmd 1
  if cmdReserved cmd [1] || 2 ^ 32 ≤ tag then s.answerCmd cmd 1
  else if !s.asidOpen cmd then s.answerCmd cmd 2
  else match s.jobOf (cmdAsid cmd) with
    | none => s.answerCmd cmd 2
    | some j =>
      let r := f s j tag
      (r.1.forward cmd j).answerCmd cmd r.2

/-- HOST_SNAPSHOT. -/
def execHostSnapshot (cmd : HostCmd) (s : State) : Out := .next <|
  s.yewCommand cmd fun s j tag => (s.askSnapshot j (cmdAsid cmd) tag, 0)

/-- HOST_ROLLBACK: status 4 without a finished snapshot of the tag. -/
def execHostRollback (cmd : HostCmd) (s : State) : Out := .next <|
  s.yewCommand cmd fun s j tag =>
    match s.rollback j.num tag with
    | some t => (t, 0)
    | none => (s, 4)

/-- HOST_RELEASE. -/
def execHostRelease (cmd : HostCmd) (s : State) : Out := .next <|
  s.yewCommand cmd fun s j tag =>
    match s.finishedAt j.num tag with
    | some i => (s.dropSnap i 3, 0)
    | none => (s, 4)

/-! ### Attestation (17 R379, R380) -/

/-- Little-endian bytes of a number. -/
def bytesOf (n v : Nat) : List Nat := (List.range n).map fun i => fld v (8 * i) 8
def ofBytes (l : List Nat) : Nat := l.foldr (fun b v => b % 256 + 256 * v) 0

/-- Bytes 0 to 111 of an answer. -/
def attestMessage (cmd : HostCmd) (digest fver : Nat) : List Nat :=
  (List.range 4).flatMap (fun i => bytesOf 8 (cmdDouble cmd (i + 1))) ++ bytesOf 32 digest
    ++ bytesOf 8 feat0 ++ bytesOf 8 feat1 ++ bytesOf 16 0 ++ bytesOf 8 fver ++ bytesOf 8 8392

/-- A list of bytes as n of them. -/
def padTo (n : Nat) (l : List Nat) : List Nat := (l ++ List.replicate n 0).take n

/-- Where Boxwood finds a host address: the host window (log 37). -/
def hostAddr (a : Nat) : Nat := 2 ^ 44 + a

/-- The bytes of a boot image that its signature covers (17 R378), each part behind its length (DESIGN CHOICE, log 93). -/
def bootMessage (i : BootImage) : List Nat :=
  bytesOf 8 i.code.length ++ i.code ++ bytesOf 8 i.config.length ++ i.config ++ [i.cxlMode.toNat] ++ bytesOf 4 i.ozine

/-- The digest of the boot image in force; before a boot has brought one, a free value. -/
def Hostside.imageDigest (h : Hostside) : Nat :=
  match h.image with
  | some i => Config.shake256 (bootMessage i)
  | none => Config.imageDigest h.fver

/-- Before the first leaf of a new run is used, the run's end goes into the older copy (17 R379). -/
def Hostside.newest (h : Hostside) : LeafCopy := if h.leafB.seq ≤ h.leafA.seq then h.leafA else h.leafB
def Hostside.reserve (h : Hostside) : Hostside :=
  let c := h.newest
  let next : LeafCopy := { seq := c.seq + 1, end_ := h.leaf + 1024 }
  if h.leaf < c.end_ then h else if h.leafB.seq ≤ h.leafA.seq then { h with leafB := next } else { h with leafA := next }

/-- After a reset Boxwood resumes at the end of the newest copy whose check holds; without one, or without the helper data, it enrols
anew. -/
def Hostside.restart (h : Hostside) : Hostside :=
  let copy := if h.leafA.good && (!h.leafB.good || h.leafB.seq ≤ h.leafA.seq) then some h.leafA else if h.leafB.good then some h.leafB else none
  let kept : Hostside := { keyDraw := h.keyDraw + 1, leafA := h.leafA, leafB := h.leafB, enrolled := h.enrolled }
  match copy.filter fun _ => h.helper with
  | some c => { kept with leaf := c.end_ }
  | none => { keyDraw := h.keyDraw + 1, enrolled := h.enrolled + 1 }

/-- What stands in the reserved region of the storage device is lost: a copy of the leaf state, or the helper data. -/
def Hostside.strikeRegion (h : Hostside) (part : Nat) : Hostside :=
  match part with
  | 0 => { h with leafA := { h.leafA with good := false } }
  | 1 => { h with leafB := { h.leafB with good := false } }
  | _ => { h with helper := false }

/-- The package's identity digest: the first 8 bytes of SHAKE256 of its public key (17 R371). -/
def Hostside.identity (h : Hostside) : Word := BitVec.ofNat 64 (Config.shake256 (Config.publicKey h.enrolled))

/-- ATTEST: the answer in the host's buffer, then the completion entry; each signature takes the next leaf of the key. -/
def execAttest (cmd : HostCmd) (s : State) : Out := .next <|
  let at_ := cmdDouble cmd 6
  if cmdReserved cmd [1, 2, 3, 4, 6] || cmdAsid cmd != 0 || at_ % 64 != 0 || 2 ^ 44 < at_ + 8640 then s.answerCmd cmd 1
  else
    let m := attestMessage cmd s.host.imageDigest s.host.fver
    let l := m ++ bytesOf 8 0 ++ padTo 8392 (Config.signatureOf s.host.enrolled s.host.leaf m) ++ padTo 68 (Config.publicKey s.host.enrolled) ++ bytesOf 60 0
    let s := { s with mem := s.mem.write (hostAddr at_) 8640 (ofBytes l), host := { s.host.reserve with leaf := s.host.leaf + 1 } }
    s.answerCmd cmd 0

/-! ### Migration (17 R372) -/

/-- MIGRATE_OUT: a snapshot of the job under the tag; when it has finished, the job stops, and the chip's part is on its way
to the target (log 38). A ninth double marks a command whose snapshot has been asked for. -/
def execMigrateOut (cmd : HostCmd) (s : State) : Out := .next <|
  let tag := cmdDouble cmd 1
  if cmdReserved { cmd with d := cmd.d.take 8 } [1, 7] || 2 ^ 32 ≤ tag then s.answerCmd cmd 1
  else if !s.asidOpen cmd then s.answerCmd cmd 2
  else match s.jobOf (cmdAsid cmd) with
    | none => s.answerCmd cmd 7
    | some j =>
      let again := Instr.migrateOut { cmd with d := cmd.d.take 8 ++ [1] }
      let mine := fun (n : Snap) => n.job == j.num && n.tag == tag
      if cmdDouble cmd 8 = 0 then (s.askSnapshot j (cmdAsid cmd) tag).after 64 again
      else if (s.yew.held.any fun (r : SnapReq) => r.job == j.num && r.tag == tag) || s.openSnap.any mine then s.after 64 again
      else if (s.yew.snaps.filter mine).getLast?.any fun n => n.status == 1 then
        let stop : HostCmd := { die := cmd.die, queue := ozineQueue, d := [BitVec.ofNat 64 (2 * 2 ^ 56 + cmdAsid cmd), 1] }
        ((s.stopJob j).forward stop j).answerCmd cmd 0
      else s.answerCmd cmd 7

/-- MIGRATE_IN: the job is opened, stopped, on the ASID of the command, with its snapshot of the tag; the change count of
FVER rises (R382), and the other chips hear of the chip's new digest. What the source's snapshot holds is not of this package (log 38); `cls` is the job's launch class. -/
def execMigrateIn (cmd : HostCmd) (cls : Nat) (s : State) : Out := .next <|
  let tag := cmdDouble cmd 1
  if cmdReserved cmd [1, 2, 3, 4, 6, 7] || 2 ^ 32 ≤ tag || launchBreaks cmd then s.answerCmd cmd 1
  else if !s.asidOpen cmd then s.answerCmd cmd 2
  else if (s.jobOf (cmdAsid cmd)).isSome || (s.job (lcJob cmd)).isSome then s.answerCmd cmd 7
  else
    let j := { (jobOfCmd cmd cls 0 []) with header := 0, st := .stopped, started := true }
    let s := s.openJob j
    let n : Snap := { job := j.num, tag := tag, status := 1 }
    let s := { s with yew := { s.yew with snaps := s.yew.snaps ++ [n] },
                      host := { s.host with fver := s.host.fver / 2 ^ 32 * 2 ^ 32 + (s.host.fver + 1) % 2 ^ 32 },
                      outbox := s.outbox ++ j.others.map fun c => OutMsg.mk c (.managementMessage (.digest j.num j.chip s.host.identity s.host.identity)) }
    s.answerCmd cmd 0

/-! ### Management messages (17 R371, R372) -/

/-- A whole-job command of another package, for the ASID that the job has on this one. -/
def serveForwarded (cmd : HostCmd) (s : State) : Out :=
  let asid := ((s.job (cmdDouble cmd 8 / 256)).bind fun j => j.asids.head?).getD (cmdAsid cmd)
  let cmd := { cmd with d := BitVec.ofNat 64 (cmdOpcode cmd * 2 ^ 56 + asid) :: cmd.d.drop 1 }
  match cmdOpcode cmd with
  | 2 => execStop cmd s
  | 3 => execHostSnapshot cmd s
  | 4 => execHostRollback cmd s
  | 5 => execHostRelease cmd s
  | _ => .next s

/-- A job that this package could not open after all. -/
def State.closeJob (s : State) (num : Nat) : State := s.modJob num fun j => { j with st := .ended, cmd := none }

/-- A join reaches chip 0. -/
def State.joinArrives (s : State) (num chip chips : Nat) : State :=
  let reply := fun (s : State) (cls features status : Nat) =>
    { s with outbox := s.outbox ++ [OutMsg.mk chip (.managementMessage (.answer num cls features status))] }
  match s.job num with
  | none => reply s 0 0 1
  | some j =>
    if j.chip != 0 || j.chips != chips || chip = 0 || chips ≤ chip then reply s 0 0 1
    else
      let s := s.modJob num fun j => { j with joined := j.joined.filter (· != chip) ++ [chip] }
      let s := reply s j.cls j.features 0
      match s.job num with
      | some j => s.startGraph 0 j
      | none => s

/-- Chip 0's answer to a join: the command that waited for it is answered. -/
def State.joinAnswered (s : State) (num cls features status : Nat) : State :=
  match s.job num with
  | none => s
  | some j =>
    match j.cmd with
    | none => s
    | some cmd =>
      if status != 0 then (s.closeJob num).answerCmd cmd status
      else if features &&& s.host.drvfeat != features then (s.closeJob num).answerCmd cmd 3
      else (s.modJob num fun j => { j with cls := cls, features := features, started := true, cmd := none }).answerCmd cmd 0

/-- The new digest of a migrated chip: the route tables follow while the job is stopped; the source frees the chip. -/
def State.digestArrives (s : State) (num chip : Nat) (digest nextHop : Word) : State :=
  match s.job num with
  | none => s
  | some j =>
    if j.st != .stopped then s
    else if j.chip = chip then s.endJob j
    else s.modJob num fun j => { j with digests := Tab.put j.digests chip (digest, nextHop) }

/-- MANAGEMENT_MESSAGE (17 R371). -/
def execManagementMessage (m : MgmtMsg) (s : State) : Out :=
  match m with
  | .join num chip chips => .next (s.joinArrives num chip chips)
  | .answer num cls features status => .next (s.joinAnswered num cls features status)
  | .command c => serveForwarded { c with queue := forwardQueue } s
  | .stopped num chip => .next (s.stopAcked num chip)
  | .digest num chip digest nextHop => .next (s.digestArrives num chip digest nextHop)

/-! ### Queues (17 R373, R374) -/

/-- One command of a queue served, by its opcode (17 R375). -/
def State.serveCmd (s : State) (cmd : HostCmd) : State :=
  match cmdOpcode cmd with
  | 1 => s.launch cmd
  | 2 => Out.state (execStop cmd s) s
  | 3 => Out.state (execHostSnapshot cmd s) s
  | 4 => Out.state (execHostRollback cmd s) s
  | 5 => Out.state (execHostRelease cmd s) s
  | 6 => Out.state (execAttest cmd s) s
  | 7 => Out.state (execMigrateOut cmd s) s
  | 8 => Out.state (execMigrateIn cmd 0 s) s
  | _ => s.answerCmd cmd 1

/-- A mapped queue's commands from its head to the tail it holds, in ring order, until one freezes it. -/
def State.serveQueue (s : State) (die queue : Nat) : Nat → State
  | 0 => s
  | fuel + 1 =>
    let q := s.queue die queue
    if !q.mapped || q.frozen || q.tail ≤ q.head then s
    else
      let at_ := ringPlace q.cmdCap 64 q.head
      if !s.capOk q q.cmdCap 1 false at_ 64 || !s.capOk q q.cplCap 2 true (ringPlace q.cplCap 16 q.cplTail) 16 then s.capFault die queue
      else
        let cmd : HostCmd := { die := die, queue := queue, d := (List.range 8).map fun i => BitVec.ofNat 64 (s.mem.read (at_ + 8 * i) 8) }
        let s := s.modQueue die queue fun q => { q with head := q.head + 1 }
        (s.serveCmd cmd).serveQueue die queue fuel

/-- Everything that a queue holds. -/
def State.serveAll (s : State) (die queue : Nat) : State :=
  let q := s.queue die queue
  s.serveQueue die queue (min (q.tail - q.head) (capLength q.cmdCap / 64))

/-- WAKE_WORD_STORE (17 R374): a mapped queue is served; otherwise the wake is recorded, and its save area is paged in. -/
def execWakeWordStore (fn die queue tail : Nat) (s : State) : Out := .next <|
  let q := s.queue die queue
  if q.fn != fn || (Tab.getD s.host.fns fn {}).frozen then s
  else
    let s := s.modQueue die queue fun q => { q with tail := max q.tail tail, wake := true }
    if q.frozen then s
    else if q.mapped then (s.modQueue die queue fun q => { q with wake := false }).serveAll die queue
    else s.postOnce (.queuePageIn die queue)

/-- QUEUE_PAGE_IN (17 R374): the queue is mapped before any command of it is read; a recorded wake is then served. -/
def execQueuePageIn (die queue : Nat) (s : State) : Out := .next <|
  let q := s.queue die queue
  if q.mapped || q.frozen then s
  else if !s.capOk q q.saveCap 3 false (capBase q.saveCap) 1 then s.capFault die queue
  else
    let s := s.modQueue die queue fun q => { q with mapped := true, wake := false }
    if q.wake then s.serveAll die queue else s

/-- QUEUE_UNMAP (17 R374): Ozine writes the save area, which holds the indices, to the storage port. -/
def execQueueUnmap (die queue : Nat) (s : State) : Out := .next <|
  let q := s.queue die queue
  if !q.mapped || q.frozen then s
  else if !s.capOk q q.saveCap 3 true (capBase q.saveCap) 1 then s.capFault die queue
  else s.modQueue die queue fun q => { q with mapped := false }

/-- QUEUE_REPAIR (17 R373): Ozine has a frozen queue's capabilities sealed under the slot's generations, and commits it. -/
def execQueueRepair (die queue : Nat) (s : State) : Out := .next <|
  let q := s.queue die queue
  if !q.frozen then s
  else
    let fresh := fun (cap type : Nat) => s.seal (capWithGen cap (Tab.getD q.gens type 0))
    let s := s.modQueue die queue fun q =>
      { q with frozen := false, cmdCap := fresh q.cmdCap 1, cplCap := fresh q.cplCap 2, saveCap := fresh q.saveCap 3, wake := false }
    if q.mapped then s.serveAll die queue else if q.wake then s.postOnce (.queuePageIn die queue) else s

/-! ### Host functions (17 R367, R381) -/

/-- HOST_BAR2_REQUEST (17 R367; 14 R321): an access inside a window that is open to the function; any other freezes it, and a
frozen function's requests complete as unsupported. -/
def execHostBar2Request (fn addr bytes : Nat) (write : Option Nat) (s : State) : Out := .next <|
  let f := Tab.getD s.host.fns fn {}
  let done := fun (s : State) (v : Option Nat) => { s with host := { s.host with bar2 := s.host.bar2 ++ [(fn, addr, v)] } }
  if f.frozen then done s none
  else if !(f.windows.any fun w => w.1 ≤ addr && addr + bytes ≤ w.1 + w.2) || 128 < addr % 128 + bytes then
    (done { s with host := { s.host with fns := Tab.put s.host.fns fn { f with frozen := true } } } none).signal 13 fn addr
  else match write with
    | none => done s (some (s.mem.read addr bytes))
    | some v =>
      let sh := addr % 128 * 8
      done (s.engineWrite (addr / 2 ^ 36 % 8 * 8192) (lineOf addr) (v % 2 ^ (8 * bytes) * 2 ^ sh) (ones (8 * bytes) * 2 ^ sh) 0).2 (some v)

/-- FUNCTION_LEVEL_RESET (17 R367, R381): the function thaws; of the physical function, DRVFEAT reads 0. -/
def execFunctionLevelReset (fn : Nat) (s : State) : Out := .next <|
  let f := Tab.getD s.host.fns fn {}
  { s with host := { s.host with fns := Tab.put s.host.fns fn { f with frozen := false },
                                 drvfeat := if fn = 0 then 0 else s.host.drvfeat } }

/-- DRVFEAT (17 R381): a write that names a bit FEAT0 does not offer is a no-op. -/
def execDrvfeat (v : Word) (s : State) : Out := .next <|
  if v.toNat &&& (feat0 % 1024) != v.toNat then s else { s with host := { s.host with drvfeat := v.toNat } }

/-! ### Firmware, heat, watchdog, reset -/

/-- FIRMWARE_UPDATE (17 R382): with every job stopped, the version is the new image's, and the change count rises. -/
def execFirmwareUpdate (version : Nat) (s : State) : Out := .next <|
  if s.jobs.any fun j => j.st == .running then s
  else { s with host := { s.host with fver := version % 2 ^ 32 * 2 ^ 32 + (s.host.fver + 1) % 2 ^ 32 } }

/-- THERMAL_THROTTLE (17 R384): the arithmetic clock goes down by 100 MHz. -/
def execThermalThrottle (die : Nat) (s : State) : Out := .next <|
  s.modDie die fun d => { d with clockDown := d.clockDown + 1 }

/-- THERMAL_RESTORE (17 R384). -/
def execThermalRestore (die : Nat) (s : State) : Out := .next <|
  s.modDie die fun d => { d with clockDown := 0 }

/-- THERMAL_STOP (17 R384): the die stops, and every job ends with a kill record of cause 5. -/
def execThermalStop (die : Nat) (s : State) : Out := .next <|
  (s.modDie die fun d => { d with stopped := true }).endKilled 5 fun _ => true

/-- WATCHDOG_FIRES (05 R109; 14 R333): an update between its first copy and its commit word is cut off; what was committed
stays in force, and the copies stand until they are written again. -/
def execWatchdogFires (die : Nat) (s : State) : Out := .next <|
  s.signal 14 die 0

/-- A boot image is valid (17 R378): its root key is the one whose digest the mask ROM holds, and signs the image, or certifies the
owner key that does. -/
def bootValid (i : BootImage) : Bool :=
  Config.shake256 i.rootKey == Config.romDigest && match i.owner with
    | none => Config.verifies i.rootKey (bootMessage i) i.signature
    | some (key, cert) => Config.verifies i.rootKey key cert && Config.verifies key (bootMessage i) i.signature

/-- PACKAGE_RESET (17 R377, R378, R379; 04 R83): everything as at reset, with a new sealing key and the identity key's leaves
resumed; far and host memory stand. A failed boot, or an image that is not valid, halts the package with
its step's code. -/
def execPackageReset (b : BootResult) (s : State) : Out := .next <|
  let outside := fun (a : Nat) => 2 ^ 43 ≤ a && a < 2 ^ 48
  let host := s.host.restart
  let host := match b with
    | .failed step => { host with bootstat := step, halted := true }
    | .fetched i =>
      if bootValid i then { host with bootstat := 2 ^ 63, fver := i.ozine % 2 ^ 32 * 2 ^ 32, cxl := i.cxlMode, image := some i }
      else { host with bootstat := 3, halted := true }
  { (State.reset) with mem := List.filter (fun c => outside c.1) s.mem, poison := s.poison.filter (fun p => outside (p.1 * 8)),
                       host := host, free := s.free, script := s.script, outbox := s.outbox }

end Sys2Proof.Machine
end

