-- ==== Sys2Proof/Machine/Dispatch.lean ====
section
/-! DEFINITION. The dispatch: one arm per constructor of Instr, each one direct call of its meaning. -/

namespace Sys2Proof.Machine

def exec (i : Instr) (s : State) : Host.Outcome State Fault Refusal :=
  match i with
  | .nop => Sys2Proof.Machine.execNop s
  | .ksync => Sys2Proof.Machine.execKsync s
  | .idle => Sys2Proof.Machine.execIdle s
  | .endThread => Sys2Proof.Machine.execEndThread s
  | .ret => Sys2Proof.Machine.execRet s
  | .jmpr a => Sys2Proof.Machine.execJmpr a s
  | .callr a => Sys2Proof.Machine.execCallr a s
  | .forkr a => Sys2Proof.Machine.execForkr a s
  | .join a => Sys2Proof.Machine.execJoin a s
  | .rdw d a => Sys2Proof.Machine.execRdw d a s
  | .rdwc d a => Sys2Proof.Machine.execRdwc d a s
  | .trap a => Sys2Proof.Machine.execTrap a s
  | .fenceb => Sys2Proof.Machine.execFenceb s
  | .snap a => Sys2Proof.Machine.execSnap a s
  | .yield => Sys2Proof.Machine.execYield s
  | .waitx a c => Sys2Proof.Machine.execWaitx a c s
  | .br off => Sys2Proof.Machine.execBr off s
  | .beqz a off => Sys2Proof.Machine.execBeqz a off s
  | .bnez a off => Sys2Proof.Machine.execBnez a off s
  | .bltz a off => Sys2Proof.Machine.execBltz a off s
  | .bgez a off => Sys2Proof.Machine.execBgez a off s
  | .bgtz a off => Sys2Proof.Machine.execBgtz a off s
  | .blez a off => Sys2Proof.Machine.execBlez a off s
  | .bfull a off => Sys2Proof.Machine.execBfull a off s
  | .bempty a off => Sys2Proof.Machine.execBempty a off s
  | .jmp entry delta => Sys2Proof.Machine.execJmp entry delta s
  | .call entry delta => Sys2Proof.Machine.execCall entry delta s
  | .fork entry delta => Sys2Proof.Machine.execFork entry delta s
  | .send a b => Sys2Proof.Machine.execSend a b s
  | .sendu a b => Sys2Proof.Machine.execSendu a b s
  | .csrrd x csr => Sys2Proof.Machine.execCsrrd x csr s
  | .csrwr x csr => Sys2Proof.Machine.execCsrwr x csr s
  | .ldN x bf sz ix => Sys2Proof.Machine.execLdN x bf sz ix s
  | .ldS x bf sz ix => Sys2Proof.Machine.execLdS x bf sz ix s
  | .ldeN x bf sz ix => Sys2Proof.Machine.execLdeN x bf sz ix s
  | .ldeS x bf sz ix => Sys2Proof.Machine.execLdeS x bf sz ix s
  | .ldxN x bf sz ix => Sys2Proof.Machine.execLdxN x bf sz ix s
  | .ldxS x bf sz ix => Sys2Proof.Machine.execLdxS x bf sz ix s
  | .st x bf sz ix => Sys2Proof.Machine.execSt x bf sz ix s
  | .ste x bf sz ix => Sys2Proof.Machine.execSte x bf sz ix s
  | .stx x bf sz ix => Sys2Proof.Machine.execStx x bf sz ix s
  | .aswap x bf ix => Sys2Proof.Machine.execAswap x bf ix s
  | .aadd x bf ix => Sys2Proof.Machine.execAadd x bf ix s
  | .aand x bf ix => Sys2Proof.Machine.execAand x bf ix s
  | .aor x bf ix => Sys2Proof.Machine.execAor x bf ix s
  | .axor x bf ix => Sys2Proof.Machine.execAxor x bf ix s
  | .aminS64 x bf ix => Sys2Proof.Machine.execAminS64 x bf ix s
  | .amaxS64 x bf ix => Sys2Proof.Machine.execAmaxS64 x bf ix s
  | .aminN64 x bf ix => Sys2Proof.Machine.execAminN64 x bf ix s
  | .amaxN64 x bf ix => Sys2Proof.Machine.execAmaxN64 x bf ix s
  | .acas x bf ix => Sys2Proof.Machine.execAcas x bf ix s
  | .aamaxF32 x bf ix => Sys2Proof.Machine.execAamaxF32 x bf ix s
  | .amaxswapF32 x bf ix => Sys2Proof.Machine.execAmaxswapF32 x bf ix s
  | .bfld a bf => Sys2Proof.Machine.execBfld a bf s
  | .bfclr bf => Sys2Proof.Machine.execBfclr bf s
  | .cpy d a => Sys2Proof.Machine.execCpy d a s
  | .cpyNb d a => Sys2Proof.Machine.execCpyNb d a s
  | .vld sz m v bf ix => Sys2Proof.Machine.execVld sz m v bf ix s
  | .vst sz m v bf ix => Sys2Proof.Machine.execVst sz m v bf ix s
  | .vldpE2m1 m v bf ix => Sys2Proof.Machine.execVldpE2m1 m v bf ix s
  | .vldpE3m2 m v bf ix => Sys2Proof.Machine.execVldpE3m2 m v bf ix s
  | .vstpE2m1 m v bf ix => Sys2Proof.Machine.execVstpE2m1 m v bf ix s
  | .vstpE3m2 m v bf ix => Sys2Proof.Machine.execVstpE3m2 m v bf ix s
  | .qpackE4m3 vp bf ix => Sys2Proof.Machine.execQpackE4m3 vp bf ix s
  | .qpackE3m2 vp bf ix => Sys2Proof.Machine.execQpackE3m2 vp bf ix s
  | .qpackE2m1 vp bf ix => Sys2Proof.Machine.execQpackE2m1 vp bf ix s
  | .qpacki vp bf ix => Sys2Proof.Machine.execQpacki vp bf ix s
  | .accld t vq src => Sys2Proof.Machine.execAccld t vq src s
  | .accst t vq src => Sys2Proof.Machine.execAccst t vq src s
  | .drain t src => Sys2Proof.Machine.execDrain t src s
  | .add d a b => Sys2Proof.Machine.execAdd d a b s
  | .sub d a b => Sys2Proof.Machine.execSub d a b s
  | .mul d a b => Sys2Proof.Machine.execMul d a b s
  | .mulhS64 d a b => Sys2Proof.Machine.execMulhS64 d a b s
  | .mulhN64 d a b => Sys2Proof.Machine.execMulhN64 d a b s
  | .and d a b => Sys2Proof.Machine.execAnd d a b s
  | .or d a b => Sys2Proof.Machine.execOr d a b s
  | .xor d a b => Sys2Proof.Machine.execXor d a b s
  | .shl d a b => Sys2Proof.Machine.execShl d a b s
  | .shrN64 d a b => Sys2Proof.Machine.execShrN64 d a b s
  | .shrS64 d a b => Sys2Proof.Machine.execShrS64 d a b s
  | .sltS64 d a b => Sys2Proof.Machine.execSltS64 d a b s
  | .sltN64 d a b => Sys2Proof.Machine.execSltN64 d a b s
  | .seq d a b => Sys2Proof.Machine.execSeq d a b s
  | .addi d a imm => Sys2Proof.Machine.execAddi d a imm s
  | .shli d a n => Sys2Proof.Machine.execShli d a n s
  | .shriN64 d a n => Sys2Proof.Machine.execShriN64 d a n s
  | .shriS64 d a n => Sys2Proof.Machine.execShriS64 d a n s
  | .rotri d a n => Sys2Proof.Machine.execRotri d a n s
  | .li d imm => Sys2Proof.Machine.execLi d imm s
  | .lis d imm => Sys2Proof.Machine.execLis d imm s
  | .bfx d a b => Sys2Proof.Machine.execBfx d a b s
  | .bfi d a b => Sys2Proof.Machine.execBfi d a b s
  | .mov d a => Sys2Proof.Machine.execMov d a s
  | .not d a => Sys2Proof.Machine.execNot d a s
  | .neg d a => Sys2Proof.Machine.execNeg d a s
  | .absS64 d a => Sys2Proof.Machine.execAbsS64 d a s
  | .popc d a => Sys2Proof.Machine.execPopc d a s
  | .clz d a => Sys2Proof.Machine.execClz d a s
  | .ctz d a => Sys2Proof.Machine.execCtz d a s
  | .bswap d a => Sys2Proof.Machine.execBswap d a s
  | .brev d a => Sys2Proof.Machine.execBrev d a s
  | .sextS8 d a => Sys2Proof.Machine.execSextS8 d a s
  | .sextS16 d a => Sys2Proof.Machine.execSextS16 d a s
  | .sextS32 d a => Sys2Proof.Machine.execSextS32 d a s
  | .zextN8 d a => Sys2Proof.Machine.execZextN8 d a s
  | .zextN16 d a => Sys2Proof.Machine.execZextN16 d a s
  | .zextN32 d a => Sys2Proof.Machine.execZextN32 d a s
  | .qmaxx d a => Sys2Proof.Machine.execQmaxx d a s
  | .qscaleE4m3 d a => Sys2Proof.Machine.execQscaleE4m3 d a s
  | .qscaleE3m2 d a => Sys2Proof.Machine.execQscaleE3m2 d a s
  | .qscaleE2m1 d a => Sys2Proof.Machine.execQscaleE2m1 d a s
  | .qscalei d a => Sys2Proof.Machine.execQscalei d a s
  | .vlq d => Sys2Proof.Machine.execVlq d s
  | .vlane d ty => Sys2Proof.Machine.execVlane d ty s
  | .vadd ty m vd va vb => Sys2Proof.Machine.execVadd ty m vd va vb s
  | .vsub ty m vd va vb => Sys2Proof.Machine.execVsub ty m vd va vb s
  | .vmul ty m vd va vb => Sys2Proof.Machine.execVmul ty m vd va vb s
  | .vfma ty m vd va vb => Sys2Proof.Machine.execVfma ty m vd va vb s
  | .vmin ty m vd va vb => Sys2Proof.Machine.execVmin ty m vd va vb s
  | .vmax ty m vd va vb => Sys2Proof.Machine.execVmax ty m vd va vb s
  | .vaddsat ty m vd va vb => Sys2Proof.Machine.execVaddsat ty m vd va vb s
  | .vsubsat ty m vd va vb => Sys2Proof.Machine.execVsubsat ty m vd va vb s
  | .vand ty m vd va vb => Sys2Proof.Machine.execVand ty m vd va vb s
  | .vor ty m vd va vb => Sys2Proof.Machine.execVor ty m vd va vb s
  | .vxor ty m vd va vb => Sys2Proof.Machine.execVxor ty m vd va vb s
  | .vandn ty m vd va vb => Sys2Proof.Machine.execVandn ty m vd va vb s
  | .vceq ty m md va vb => Sys2Proof.Machine.execVceq ty m md va vb s
  | .vclt ty m md va vb => Sys2Proof.Machine.execVclt ty m md va vb s
  | .vcle ty m md va vb => Sys2Proof.Machine.execVcle ty m md va vb s
  | .vcne ty m md va vb => Sys2Proof.Machine.execVcne ty m md va vb s
  | .vcvt dt st rm sat m vd va => Sys2Proof.Machine.execVcvt dt st rm sat m vd va s
  | .vbcast ty m vd src => Sys2Proof.Machine.execVbcast ty m vd src s
  | .vaddx ty m vd src => Sys2Proof.Machine.execVaddx ty m vd src s
  | .vmulx ty m vd src => Sys2Proof.Machine.execVmulx ty m vd src s
  | .vmaxx ty m vd src => Sys2Proof.Machine.execVmaxx ty m vd src s
  | .vrsum ty m va d => Sys2Proof.Machine.execVrsum ty m va d s
  | .vrmax ty m va d => Sys2Proof.Machine.execVrmax ty m va d s
  | .vrmin ty m va d => Sys2Proof.Machine.execVrmin ty m va d s
  | .vramax ty m va d => Sys2Proof.Machine.execVramax ty m va d s
  | .vcompress ty m vd va h => Sys2Proof.Machine.execVcompress ty m vd va h s
  | .vexpand ty m vd va h => Sys2Proof.Machine.execVexpand ty m vd va h s
  | .vrowmv ty m vd va w => Sys2Proof.Machine.execVrowmv ty m vd va w s
  | .vsel ty m vd va => Sys2Proof.Machine.execVsel ty m vd va s
  | .mand md ma mb => Sys2Proof.Machine.execMand md ma mb s
  | .mor md ma mb => Sys2Proof.Machine.execMor md ma mb s
  | .mxor md ma mb => Sys2Proof.Machine.execMxor md ma mb s
  | .mandn md ma mb => Sys2Proof.Machine.execMandn md ma mb s
  | .mnot md ma => Sys2Proof.Machine.execMnot md ma s
  | .mmov md ma => Sys2Proof.Machine.execMmov md ma s
  | .mpop ma src => Sys2Proof.Machine.execMpop ma src s
  | .mfrom md src => Sys2Proof.Machine.execMfrom md src s
  | .mtolo ma src => Sys2Proof.Machine.execMtolo ma src s
  | .mtohi ma src => Sys2Proof.Machine.execMtohi ma src s
  | .bound md ty a b => Sys2Proof.Machine.execBound md ty a b s
  | .pload wd src => Sys2Proof.Machine.execPload wd src s
  | .pcomp wd wa wb => Sys2Proof.Machine.execPcomp wd wa wb s
  | .pinv wd wa => Sys2Proof.Machine.execPinv wd wa s
  | .prand wd src => Sys2Proof.Machine.execPrand wd src s
  | .pcompact wd m src => Sys2Proof.Machine.execPcompact wd m src s
  | .pcyc wa kind src => Sys2Proof.Machine.execPcyc wa kind src s
  | .pstore wa src => Sys2Proof.Machine.execPstore wa src s
  | .pidx wa src => Sys2Proof.Machine.execPidx wa src s
  | .threadDeparture c slot => Sys2Proof.Machine.execThreadDeparture c slot s
  | .travelMessageArrival dst m => Sys2Proof.Machine.execTravelMessageArrival dst m s
  | .returnedTravelMessage m => Sys2Proof.Machine.execReturnedTravelMessage m s
  | .blockDirectoryReadReturn c asid blk m => Sys2Proof.Machine.execBlockDirectoryReadReturn c asid blk m s
  | .gatheringWindowClose c blk off asid cls => Sys2Proof.Machine.execGatheringWindowClose c blk off asid cls s
  | .forkChildArrival dst m => Sys2Proof.Machine.execForkChildArrival dst m s
  | .stolenChildArrival dst m => Sys2Proof.Machine.execStolenChildArrival dst m s
  | .contextSave c slot => Sys2Proof.Machine.execContextSave c slot s
  | .coreResume c => Sys2Proof.Machine.execCoreResume c s
  | .loadReturn c slot seq => Sys2Proof.Machine.execLoadReturn c slot seq s
  | .atomicReturn c slot seq => Sys2Proof.Machine.execAtomicReturn c slot seq s
  | .fillRequest c slot line => Sys2Proof.Machine.execFillRequest c slot line s
  | .leaseRenewal c slot line => Sys2Proof.Machine.execLeaseRenewal c slot line s
  | .ownershipRequest c slot line => Sys2Proof.Machine.execOwnershipRequest c slot line s
  | .ownershipGrant c slot line => Sys2Proof.Machine.execOwnershipGrant c slot line s
  | .recall line owner => Sys2Proof.Machine.execRecall line owner s
  | .recallReply line wts rts data poison => Sys2Proof.Machine.execRecallReply line wts rts data poison s
  | .writeback line wts rts data poison dirty => Sys2Proof.Machine.execWriteback line wts rts data poison dirty s
  | .pageWalkComplete die asid va => Sys2Proof.Machine.execPageWalkComplete die asid va s
  | .shootdownAck die hedge asid va => Sys2Proof.Machine.execShootdownAck die hedge asid va s
  | .remotePrivateRequest c slot => Sys2Proof.Machine.execRemotePrivateRequest c slot s
  | .sendArrival m => Sys2Proof.Machine.execSendArrival m s
  | .senduArrival m => Sys2Proof.Machine.execSenduArrival m s
  | .returnedSend m => Sys2Proof.Machine.execReturnedSend m s
  | .activeMessageArrival dst m => Sys2Proof.Machine.execActiveMessageArrival dst m s
  | .porterHandlerStart c => Sys2Proof.Machine.execPorterHandlerStart c s
  | .trapRecordAccept c slot r => Sys2Proof.Machine.execTrapRecordAccept c slot r s
  | .snapRequest c slot tag => Sys2Proof.Machine.execSnapRequest c slot tag s
  | .snapAnswer c slot => Sys2Proof.Machine.execSnapAnswer c slot s
  | .idleTimeout c slot => Sys2Proof.Machine.execIdleTimeout c slot s
  | .joinWake die addr => Sys2Proof.Machine.execJoinWake die addr s
  | .copyAccept c => Sys2Proof.Machine.execCopyAccept c s
  | .copyPacketStart c => Sys2Proof.Machine.execCopyPacketStart c s
  | .copyPacketLanding c chan id pkt => Sys2Proof.Machine.execCopyPacketLanding c chan id pkt s
  | .landingPacketArrival dst m => Sys2Proof.Machine.execLandingPacketArrival dst m s
  | .qmaxxContribution dst asid g tag source amax cut => Sys2Proof.Machine.execQmaxxContribution dst asid g tag source amax cut s
  | .qmaxxTimeout c asid g tag => Sys2Proof.Machine.execQmaxxTimeout c asid g tag s
  | .chainCommandAccept c => Sys2Proof.Machine.execChainCommandAccept c s
  | .chainCommandComplete c => Sys2Proof.Machine.execChainCommandComplete c s
  | .mma h op => Sys2Proof.Machine.execMma h op s
  | .mmac h op => Sys2Proof.Machine.execMmac h op s
  | .zero h op => Sys2Proof.Machine.execZero h op s
  | .kStepBoundary h => Sys2Proof.Machine.execKStepBoundary h s
  | .matrixCommandComplete h op => Sys2Proof.Machine.execMatrixCommandComplete h op s
  | .accldComplete h op => Sys2Proof.Machine.execAccldComplete h op s
  | .accstComplete h op => Sys2Proof.Machine.execAccstComplete h op s
  | .drainStart h op => Sys2Proof.Machine.execDrainStart h op s
  | .drainLineWrite h op line => Sys2Proof.Machine.execDrainLineWrite h op line s
  | .drainComplete h op => Sys2Proof.Machine.execDrainComplete h op s
  | .wakeArrival dst m => Sys2Proof.Machine.execWakeArrival dst m s
  | .hornbeamSolveStart h => Sys2Proof.Machine.execHornbeamSolveStart h s
  | .hornbeamSolveComplete h => Sys2Proof.Machine.execHornbeamSolveComplete h s
  | .tkqAccept c => Sys2Proof.Machine.execTkqAccept c s
  | .counterZeroWake die record => Sys2Proof.Machine.execCounterZeroWake die record s
  | .taskSelect die => Sys2Proof.Machine.execTaskSelect die s
  | .tileOffer die record ix => Sys2Proof.Machine.execTileOffer die record ix s
  | .engineCandidateStart h => Sys2Proof.Machine.execEngineCandidateStart h s
  | .tileSpillComplete h tile => Sys2Proof.Machine.execTileSpillComplete h tile s
  | .tileRefillComplete h tile => Sys2Proof.Machine.execTileRefillComplete h tile s
  | .frameStart h => Sys2Proof.Machine.execFrameStart h s
  | .coreKill c cause => Sys2Proof.Machine.execCoreKill c cause s
  | .snapshotOpen job tag => Sys2Proof.Machine.execSnapshotOpen job tag s
  | .snapshotMarker c tag => Sys2Proof.Machine.execSnapshotMarker c tag s
  | .snapPageCopy die asid va => Sys2Proof.Machine.execSnapPageCopy die asid va s
  | .sramPageCopy page => Sys2Proof.Machine.execSramPageCopy page s
  | .snapshotFinish job tag => Sys2Proof.Machine.execSnapshotFinish job tag s
  | .lsplit c v => Sys2Proof.Machine.execLsplit c v s
  | .managementMessage m => Sys2Proof.Machine.execManagementMessage m s
  | .meshInterrupt c => Sys2Proof.Machine.execMeshInterrupt c s
  | .borrowReturn h => Sys2Proof.Machine.execBorrowReturn h s
  | .errorMessageArrival m => Sys2Proof.Machine.execErrorMessageArrival m s
  | .snapshotLeafRewrite die asid va => Sys2Proof.Machine.execSnapshotLeafRewrite die asid va s
  | .cutLineCopy line => Sys2Proof.Machine.execCutLineCopy line s
  | .pinnedPageCopy page => Sys2Proof.Machine.execPinnedPageCopy page s
  | .queuePageIn die queue => Sys2Proof.Machine.execQueuePageIn die queue s
  | .stop cmd => Sys2Proof.Machine.execStop cmd s
  | .entryFaultAtFetch c slot => Sys2Proof.Machine.execEntryFaultAtFetch c slot s
  | .slotBoundary h => Sys2Proof.Machine.execSlotBoundary h s
  | .ksyncResume c slot => Sys2Proof.Machine.execKsyncResume c slot s
  | .pcycPidxResume c slot => Sys2Proof.Machine.execPcycPidxResume c slot s
  | .migrateOut cmd => Sys2Proof.Machine.execMigrateOut cmd s
  | .illegalEncoding c slot word => Sys2Proof.Machine.execIllegalEncoding c slot word s
  | .blockPlacement die asid blk dst image => Sys2Proof.Machine.execBlockPlacement die asid blk dst image s
  | .blockMapInvalidation c asid blk => Sys2Proof.Machine.execBlockMapInvalidation c asid blk s
  | .freeContextHint c asid blk holder free => Sys2Proof.Machine.execFreeContextHint c asid blk holder free s
  | .steal thief owner => Sys2Proof.Machine.execSteal thief owner s
  | .pageInComplete die asid va leaf => Sys2Proof.Machine.execPageInComplete die asid va leaf s
  | .tlbShootdown die asid va hedges => Sys2Proof.Machine.execTlbShootdown die asid va hedges s
  | .trapAllocate r frame => Sys2Proof.Machine.execTrapAllocate r frame s
  | .trapFree r => Sys2Proof.Machine.execTrapFree r s
  | .trapLog r => Sys2Proof.Machine.execTrapLog r s
  | .trapUnknownService r => Sys2Proof.Machine.execTrapUnknownService r s
  | .channelResume c chan => Sys2Proof.Machine.execChannelResume c chan s
  | .channelFlush c chan => Sys2Proof.Machine.execChannelFlush c chan s
  | .frozenThreadReissue c slot => Sys2Proof.Machine.execFrozenThreadReissue c slot s
  | .frozenThreadEnd c slot => Sys2Proof.Machine.execFrozenThreadEnd c slot s
  | .frozenThreadFaultEntry c slot entry => Sys2Proof.Machine.execFrozenThreadFaultEntry c slot entry s
  | .heartbeatTimeout c => Sys2Proof.Machine.execHeartbeatTimeout c s
  | .spareRemap c chosen => Sys2Proof.Machine.execSpareRemap c chosen s
  | .flitCrcError link => Sys2Proof.Machine.execFlitCrcError link s
  | .packageReset b => Sys2Proof.Machine.execPackageReset b s
  | .wakeWordStore fn die queue tail => Sys2Proof.Machine.execWakeWordStore fn die queue tail s
  | .yewRelease job tag => Sys2Proof.Machine.execYewRelease job tag s
  | .hostBar2Request fn addr bytes write => Sys2Proof.Machine.execHostBar2Request fn addr bytes write s
  | .functionLevelReset fn => Sys2Proof.Machine.execFunctionLevelReset fn s
  | .drvfeat v => Sys2Proof.Machine.execDrvfeat v s
  | .firmwareUpdate version => Sys2Proof.Machine.execFirmwareUpdate version s
  | .thermalThrottle die => Sys2Proof.Machine.execThermalThrottle die s
  | .thermalRestore die => Sys2Proof.Machine.execThermalRestore die s
  | .thermalStop die => Sys2Proof.Machine.execThermalStop die s
  | .renameCommit die word => Sys2Proof.Machine.execRenameCommit die word s
  | .slotTableCommit h word => Sys2Proof.Machine.execSlotTableCommit h word s
  | .schedulerConfigCommit die word => Sys2Proof.Machine.execSchedulerConfigCommit die word s
  | .yewConfigCommit die word => Sys2Proof.Machine.execYewConfigCommit die word s
  | .ringGrowthCommit ring word => Sys2Proof.Machine.execRingGrowthCommit ring word s
  | .blockDirectoryCommit die copy version => Sys2Proof.Machine.execBlockDirectoryCommit die copy version s
  | .yewRollback job tag => Sys2Proof.Machine.execYewRollback job tag s
  | .vgroup c v => Sys2Proof.Machine.execVgroup c v s
  | .dbgctl c v => Sys2Proof.Machine.execDbgctl c v s
  | .shasid c v => Sys2Proof.Machine.execShasid c v s
  | .mecheck h v => Sys2Proof.Machine.execMecheck h v s
  | .managementWindowWrite w => Sys2Proof.Machine.execManagementWindowWrite w s
  | .queueUnmap die queue => Sys2Proof.Machine.execQueueUnmap die queue s
  | .queueRepair die queue => Sys2Proof.Machine.execQueueRepair die queue s
  | .watchdogFires die => Sys2Proof.Machine.execWatchdogFires die s
  | .launch cmd => Sys2Proof.Machine.execLaunch cmd s
  | .hostSnapshot cmd => Sys2Proof.Machine.execHostSnapshot cmd s
  | .hostRollback cmd => Sys2Proof.Machine.execHostRollback cmd s
  | .hostRelease cmd => Sys2Proof.Machine.execHostRelease cmd s
  | .attest cmd => Sys2Proof.Machine.execAttest cmd s
  | .heartbeat c => Sys2Proof.Machine.execHeartbeat c s
  | .migrateIn cmd cls => Sys2Proof.Machine.execMigrateIn cmd cls s

end Sys2Proof.Machine
end

