-- ==== Sys2Proof/Machine/Mirror.lean ====
section
/-! DEFINITION. What the rings and the block directory leave in DRAM (02 R40; 05 R111, R113, R116, R122): the bytes of a travel
message, of a slot, of a control block's double 5, of a directory entry. State holds rings and directory as data; after every step
that changed one of them, its DRAM says the same (log 83). -/

namespace Sys2Proof.Machine

/-! ### Travel messages (02 R40) -/

/-- The header's double 3. The kind of a wake message stands in its slot; here it reads as a jump's (DESIGN CHOICE, log 83). -/
def travelDouble3 (m : Travel) : Nat :=
  m.live % 2 ^ 16 * 2 ^ 48 + m.full % 2 ^ 16 * 2 ^ 32 + m.maskLive % 2 ^ 7 * 2 ^ 25 + (if m.kind < 5 then m.kind else 0) * 2 ^ 22
    + m.cls % 4 * 2 ^ 20 + m.redun.toNat * 2 ^ 19 + m.rolled.toNat * 2 ^ 18

/-- The live registers of a message in ascending order, and its live masks. -/
def travelMains (m : Travel) : List Nat :=
  ((List.range 16).filter (bit m.live)).map fun i => (Tab.getD m.regs i 0).toNat
def travelMasks (m : Travel) : List Nat :=
  ((List.range 7).filter (bit m.maskLive)).map fun i => (Tab.getD m.masks (i + 1) 0).toNat

/-- A message as one number, its first byte lowest: the header of 32 bytes, then the payload. -/
def travelImage (m : Travel) : Nat :=
  pack 64 [m.pt, m.asid % 2 ^ 16 * 2 ^ 48 + m.dest % 2 ^ 33, m.origin % 2 ^ 24 * 2 ^ 33 + m.link % 2 ^ 33, travelDouble3 m]
    + 2 ^ 256 * (pack 64 (travelMains m) + 2 ^ (64 * (travelMains m).length) * pack 128 (travelMasks m))

/-- The bytes of an addressed or unaddressed message, for which the spec gives no layout: target, value, sender, ASID and class,
time (DESIGN CHOICE, log 83). -/
def sendImage (m : SendMsg) : Nat :=
  pack 64 [m.tgt.toNat, m.v.toNat, m.tid, m.asid % 2 ^ 16 * 2 ^ 48 + m.cls % 4 * 2 ^ 20 + m.unaddressed.toNat, m.ts]

/-! ### Slots and rings (05 R111, R113) -/

/-- A slot of 256 bytes. -/
def QSlot.image (q : QSlot) : Nat :=
  let (v, kind) := match q.body with
    | .travel m => (travelImage m, 0)
    | .send m => (sendImage m, 1)
    | .wake m => (travelImage m, 2)
  v % 2 ^ 1280 + 2 ^ 1280 * (q.arrival % 2 ^ 64) + 2 ^ 1344 * (kind * 2 + q.returned.toNat)

/-- The entries of one live ring written at their slots, the last one before the tail. -/
def putSlots {α : Type} (m : Memory) (image : α → Nat) (size base log2cap tail : Nat) (l : List α) : Memory :=
  if base = 0 then m
  else (l.zipIdx).foldl (fun m e => m.write (base + size * ((tail - l.length + e.2) % 2 ^ log2cap)) size (image e.1)) m

/-- A ring's slots, and double 5 of its control block. -/
def Ring.put {α : Type} (m : Memory) (image : α → Nat) (size : Nat) (r : Ring α) : Memory :=
  let m := putSlots m image size r.oldBase r.oldLog2cap r.oldTail r.old
  let m := putSlots m image size r.base r.log2cap r.tail r.entries
  if r.block = 0 then m else m.write (r.block + 40) 8 (r.drained.toNat * 2 + r.signalled.toNat)

/-- Whether any of a ring stands in DRAM. -/
def Ring.placed {α : Type} (r : Ring α) : Bool := r.base != 0 || r.oldBase != 0 || r.block != 0

/-- A ring that a step has changed, written to DRAM. -/
def Ring.mirror {α : Type} [DecidableEq α] (image : α → Nat) (size : Nat) (old new : Ring α) (m : Memory) : Memory :=
  if new.placed && old != new then new.put m image size else m

/-- Rings of record addresses, by class. -/
def mirrorRings (old new : Tab (Ring Nat)) (m : Memory) : Memory :=
  new.foldl (fun m e => (Tab.getD old e.1 {}).mirror (fun n => n % 2 ^ 48) 8 (Tab.getD new e.1 {}) m) m

/-! ### The block directory (05 R122) -/

/-- A directory entry of 384 bytes. -/
def dirImage (b : DirBlock) : Nat :=
  pack 64 [b.asid % 2 ^ 16 * 2 ^ 48 + b.placing.toNat * 2 ^ 47 + b.holders.length * 2 ^ 24 + b.blk % 2 ^ 24, b.image % 2 ^ 48]
    + 2 ^ 256 * pack 32 (b.descs.take 16) + 2 ^ 768 * pack 32 (b.holders.take 64)

/-- The blocks of a bucket, in the order of their places. -/
def bucketOf (k : Nat) (l : List DirBlock) (n : Nat) : List DirBlock := l.filter fun b => dirBucket k b.asid b.blk == n

/-- A die's table written where a step has changed it: every bucket that has or had an entry. -/
def Die.mirrorDir (old new : Die) (m : Memory) : Memory :=
  if new.dir.base = 0 || (old.blocks == new.blocks && old.dir == new.dir) then m
  else
    let k := new.dir.log2
    let buckets := ((old.blocks ++ new.blocks).map fun b => dirBucket k b.asid b.blk).eraseDups
    buckets.foldl (fun m n =>
      let l := bucketOf k new.blocks n
      (List.range Config.bucketSize).foldl (fun m i =>
        m.write (new.dir.base + 384 * (Config.bucketSize * n + i)) 384 ((l[i]?).elim 0 dirImage)) m) m

/-! ### The package -/

def Core.mirror (old new : Core) (m : Memory) : Memory :=
  old.work.overflow.mirror QSlot.image 256 new.work.overflow (old.work.spill.mirror QSlot.image 256 new.work.spill m)

def Die.mirror (old new : Die) (m : Memory) : Memory :=
  old.mirrorDir new (mirrorRings old.holds new.holds (mirrorRings old.tasks new.tasks (old.overflow.mirror QSlot.image 256 new.overflow m)))

/-- The memory after a step from `s` to `t`, its rings and directories as `t` has them. -/
def State.mirror (s t : State) : State :=
  let m := t.cores.foldl (fun m e => (s.core e.1).mirror (t.core e.1) m) t.mem
  { t with mem := t.dies.foldl (fun m e => (s.die e.1).mirror (t.die e.1) m) m }

end Sys2Proof.Machine
end

