-- ==== Sys2Proof/Machine/Driver.lean ====
section
/-! DEFINITION. One step of the package: which agent acts next (log 4), the barrel (13 R312), the fetch of a bundle and the issue
of its words (07 R151 to R154; 02 R32), gangs (02 R46), and the errors that the script places (04 R82; 14 R324, R333). -/

namespace Sys2Proof.Machine

/-- The state that an instruction leaves. -/
def State.run (s : State) (i : Instr) : State := Out.state (exec i s) s

/-- The outcome with a change made to a next state. -/
def Out.map (o : Out) (f : State → State) : Out :=
  match o with
  | .next t => .next (f t)
  | o => o

/-- The issue of one word aimed at a context. -/
def State.aim (s : State) (c slot : Nat) (place : Slotting) (mark : Bool) (word : Nat) (view : Option Core) : State :=
  { s with iss := { core := c, slot := slot, place := place, mark := mark, word := word, view := view } }

/-! ### Paired bundles (07 R152, R171; log 6) -/

/-- The words of a paired bundle, with their instructions. -/
structure WordPair where
  w0 : Nat
  w1 : Nat
  i0 : Instr
  i1 : Instr

/-- Word 0's or word 1's instruction issued by a context. -/
def State.first (s : State) (c slot : Nat) (b : WordPair) (mark : Bool) (view : Core) : State :=
  (s.aim c slot .first mark b.w0 (some view)).run b.i0
def State.second (s : State) (c slot : Nat) (b : WordPair) (mark : Bool) (view : Core) : State :=
  (s.aim c slot .second mark b.w1 (some view)).run b.i1

/-- Word 1's progress in its place. -/
def State.swapAt (s : State) (c slot : Nat) : State := s.modCtx c slot Ctx.swap

/-- Branches and transfers, and a YIELD, which may free the context: word 0 acts after word 1. -/
def late : Instr → Bool
  | .yield => true
  | .br _ | .beqz _ _ | .bnez _ _ | .bltz _ _ | .bgez _ _ | .bgtz _ _ | .blez _ _ | .bfull _ _ | .bempty _ _ => true
  | .jmp _ _ | .call _ _ | .fork _ _ | .jmpr _ | .callr _ | .forkr _ | .ret | .endThread => true
  | _ => false

/-- How the last issue ended. -/
def State.faulted (s : State) : Bool := s.iss.res % 4 == 3
def State.waits (s : State) : Bool := s.iss.res == 2
/-- The rank of the last issue's fault (07 R171). -/
def State.rank (s : State) : Nat := s.iss.rank

/-- A transfer that waits to leave; one whose child has gone out and waits to be accepted. -/
def State.departing (s : State) (c slot : Nat) : Bool :=
  match (s.ctx c slot).status with
  | .parked (.depart _ _ _) => true
  | _ => false
def State.sending (s : State) (c slot : Nat) (i : Instr) : Bool := late i && s.waits && (s.ctx c slot).status == .parked .accept

/-- A word 0 whose wait can end in no fault, and hands no register to word 1: word 1 takes effect before the thread parks (07 R152; 08
R190). A read that waits for its register is one where word 1 writes neither that register nor its destination (log 7). -/
def waitsQuietly (i0 i1 : Instr) : Bool :=
  match i0 with
  | .waitx _ _ | .idle | .ksync | .fenceb | .snap _ | .trap _ | .yield => true
  | .rdw d a | .rdwc d a => destination i1 != some (.g a) && (d == .zero || destination i1 != some d)
  | _ => false

/-- The fault with which the last issue of `t` ended, taken in the state before the bundle. -/
def State.refault (s t : State) : State :=
  { (s.takeFault t.iss.core t.iss.slot (t.iss.res / 4) t.iss.detail false t.iss.origin) with iss := t.iss }

/-- Of the states that two words leave, the one of the fault that comes first, if any. -/
def earlierFault (e0 e1 : State) : Option State :=
  if e0.faulted && (!e1.faulted || e0.rank ≤ e1.rank) then some e0
  else if e1.faulted then some e1
  else none

/-- Word 0's sources taken before word 1 writes. -/
def State.latchSources (s : State) (c slot : Nat) (i : Instr) (view : Core) : State :=
  match (s.aim c slot .first false 0 (some view)).readOps c slot 0 (sources i) with
  | .error _ => s
  | .ok (vals, t) => t.modCtx c slot fun x => { x with latch := vals.zipIdx.foldl (fun l e => Tab.put l e.2 e.1) x.latch }

/-- The context back at the bundle of `x`, to issue the other word: word 1 with its own progress, or word 0. -/
def Ctx.again (y x : Ctx) (second : Bool) : Ctx :=
  let y := { y with pc := x.pc, status := .ready, posted := none }
  if second then { y with phase := x.phase1, latch := x.latch1, swapped := true }
  else { y with phase := x.phase, latch := x.latch, swapped := false }

/-- The thread waits to issue its bundle again as the last issue of `t` left it waiting, with no effect. -/
def State.retry (s t : State) (c slot : Nat) : State :=
  match (t.ctx c slot).status with
  | .parked w => s.setStatus c slot (.parked w)
  | _ => t

/-- What the issue of both words comes to: a fault met after the other word has acted leaves neither with an effect (07 R152), and
a wait leaves the whole bundle waiting, but for a word 0 that goes on alone. -/
def State.settleBundle (s u : State) (c slot : Nat) (goesOn : Bool) : State :=
  if u.faulted then s.refault u
  else if u.iss.res = 1 then u
  else if goesOn then u.modCtx c slot fun y => { y with w1done := true }
  else s.retry u c slot

/-- Both words take effect: word 0 and then word 1, or word 1 first where word 0 transfers or waits; that word 0 goes on alone
(log 7). -/
def State.bothWords (s : State) (c slot : Nat) (b : WordPair) (mark : Bool) (view : Core) (after : Bool) : State :=
  if after then
    let l := s.latchSources c slot b.i0 view
    let x := l.ctx c slot
    let t := (l.swapAt c slot).second c slot b false view
    if t.iss.res != 1 then s.settleBundle t c slot false
    else s.settleBundle ((t.modCtx c slot fun y => y.again x false).first c slot b mark view) c slot true
  else
    let x := s.ctx c slot
    let t := s.first c slot b false view
    if t.iss.res != 1 then s.settleBundle t c slot false
    else s.settleBundle ((t.modCtx c slot fun y => y.again x true).second c slot b mark view) c slot false

/-! ### Paired bundles of a redundant pair (08 R199; 09 R225) -/

/-- One word issued by both contexts of a pair: of one that takes effect once, `p` posts it and `slot` performs it; of a
load, the leader goes first. -/
def State.bothIssue (s : State) (c slot p : Nat) (i : Instr) (issue : State → Nat → State) : State :=
  let lead := if pairLoad i && !bit (s.ctx c slot).tstat 2 then slot else p
  let other := if lead = p then slot else p
  let t := issue s lead
  if t.faulted || (!pairOnce i && t.iss.res != 1) then t else issue t other

/-- The contexts of a pair, at one bundle, issue it together. -/
def State.together (s : State) (c slot p : Nat) (b : WordPair) (mark : Bool) (view : Core) : State :=
  let x := s.ctx c slot
  let y := s.ctx c p
  let again := fun (s : State) (second : Bool) =>
    (s.modCtx c slot fun z => z.again x second).modCtx c p fun z => z.again y second
  let first := fun (s : State) (mark : Bool) => s.bothIssue c slot p b.i0 fun s n => s.first c n b mark view
  let second := fun (s : State) (mark : Bool) => s.bothIssue c slot p b.i1 fun s n => s.second c n b mark view
  let e0 := first (again s false) false
  let e1 := second (again s true) false
  let wait := fun (t : State) =>
    let n := if (t.ctx c slot).status == .ready then slot else p
    t.modCtx c n fun z => { z with status := .parked .partner, posted := some (Instr.nop, []) }
  let waitsAlone := e0.waits && (e0.sending c slot b.i0 || e0.departing c slot || waitsQuietly b.i0 b.i1)
  match earlierFault e0 e1 with
  | some t => s.refault t
  | none =>
    if e1.waits then wait e1
    else if e0.waits && !waitsAlone then wait e0
    else if late b.i0 || e0.waits then
      let l := (s.latchSources c slot b.i0 view).latchSources c p b.i0 view
      let x := l.ctx c slot
      let y := l.ctx c p
      let t := second (again l true) false
      let t := (t.modCtx c slot fun z => z.again x false).modCtx c p fun z => z.again y false
      let u := first t mark
      if u.faulted then s.refault u
      else if u.waits then (u.modCtx c slot fun z => { z with w1done := true }).modCtx c p fun z => { z with w1done := true } else u
    else s.settleBundle (second (again (first (again s false) false) true) mark) c slot false

/-- A bundle that holds a word which the pair performs once: the first context waits for the other there. -/
def State.pairedOnce (s : State) (c slot p : Nat) (b : WordPair) (mark : Bool) (view : Core) : State :=
  let x := s.ctx c slot
  let y := s.ctx c p
  let alone := s.modCtx c p fun y => { y with posted := none }
  let e0 := alone.first c slot b false view
  let e1 := (alone.swapAt c slot).second c slot b false view
  let back := fun (t : State) => t.modCtx c p fun z => { z with posted := y.posted }
  let held := fun (t : State) (i : Instr) => t.waits && !(pairOnce i && (t.ctx c slot).status == .parked .partner)
  match earlierFault e0 e1 with
  | some t => t
  | none =>
    if held e1 b.i1 then back e1
    else if held e0 b.i0 && !(e0.sending c slot b.i0 || e0.departing c slot || waitsQuietly b.i0 b.i1) then back e0
    else if y.status == .parked .partner && y.posted.isSome then
      if y.posted == some (Instr.nop, []) && y.pc == x.pc then s.together c slot p b mark view
      else s.takeFault c slot fcMismatch 0 false false
    else s.modCtx c slot fun z => { z with status := .parked .partner, posted := some (Instr.nop, []) }

/-- A paired bundle (07 R152): one unit, both words reading before either writes; a fault of either leaves both without
effect, and a word that must wait keeps the whole bundle waiting, but for a word 0 whose wait can end in no fault, and a transfer
that waits to leave, whose word 1 acts as the message is packed (02 R39; log 7). -/
def State.pairedBundle (s : State) (c slot : Nat) (b : WordPair) : State :=
  let x := s.ctx c slot
  let view := s.core c
  let mark := bit b.w0 30
  let once : Option Nat := if pairOnce b.i0 || pairOnce b.i1 then x.pair else none
  if x.w1done then s.first c slot b mark view
  else match once with
    | some p => s.pairedOnce c slot p b mark view
    | none =>
      let e0 := s.first c slot b false view
      let e1 := (s.swapAt c slot).second c slot b false view
      match earlierFault e0 e1 with
      | some t => t
      | none =>
        if e1.waits then e1
        else if e0.waits && !(e0.sending c slot b.i0 || waitsQuietly b.i0 b.i1) then e0
        else s.bothWords c slot b mark view (late b.i0 || e0.waits)

/-! ### The fetch (02 R32; 07 R151, R153; 14 R324) -/

/-- The instruction of a word. -/
def instrOf (w : Nat) : Option Instr :=
  match decode w with
  | .ok i => some i
  | .error _ => none

/-- The turn of a context is spent: the barrel goes on behind it. -/
def State.spend (s : State) (c slot : Nat) : State :=
  { (s.modCore c fun k => { (k.modCtx slot fun x => { x.unswap with lastIssue := s.now, issued := true }) with lastSlot := slot }) with
    lastCore := c }

/-- The word of a bundle that a context issues. -/
def State.lone (s : State) (c slot w0 w1 : Nat) : Out :=
  let second := (s.ctx c slot).pc.word == 1
  let w := if second then w1 else w0
  match instrOf w with
  | none => execIllegalEncoding c slot w s
  | some i => exec i (s.aim c slot (if second then .lone1 else .lone0) (bit w 30) w none)

/-- The word that an illegal paired bundle reports: word 0 where it is no instruction itself (07 R171). -/
def firstIllegal (w0 w1 : Nat) : Nat :=
  match instrOf w0 with
  | some i => if wellFormed i then w1 else w0
  | none => w0

/-- The bundle at a context's program address, where its core holds it and none of its bits is in error. -/
def State.bundleHere (s : State) (c slot : Nat) : Option Nat :=
  let x := s.ctx c slot
  ((s.core c).placedBlock x.asid x.pc.blk).bind fun p => if p.count ≤ x.pc.off then none else some (s.bundle c p x.pc.off)

/-- The words of a paired bundle of two instructions. -/
def pairOf (b : Nat) : Option WordPair :=
  match decodeBundle b with
  | .paired w0 w1 => match instrOf w0, instrOf w1 with
    | some i0, some i1 => some { w0 := w0, w1 := w1, i0 := i0, i1 := i1 }
    | _, _ => none
  | _ => none

/-- One issue of a ready context. -/
def State.issueAt (s : State) (c slot : Nat) : Out :=
  let s := s.spend c slot
  let x := s.ctx c slot
  match (s.core c).placedBlock x.asid x.pc.blk with
  | none => execEntryFaultAtFetch c slot s
  | some p =>
    if p.count ≤ x.pc.off then execEntryFaultAtFetch c slot s
    else if (Tab.get? s.poison (istoreAt c (p.addr + 8 * x.pc.off) / 8)).isSome then
      .next (s.takeFault c slot fcPoison (pa x.pc.blk x.pc.off) (x.pc.word == 1) true)
    else match decodeBundle (s.bundle c p x.pc.off) with
      | .broken w =>
        let w0 := s.bundle c p x.pc.off % 2 ^ 32
        execIllegalEncoding c slot (if fld w0 31 1 = 0 && isCWord w0 then firstIllegal w0 w else w) s
      | .lone w0 w1 => s.lone c slot w0 w1
      | .paired w0 w1 =>
        match instrOf w0, instrOf w1 with
        | some i0, some i1 => .next (s.pairedBundle c slot { w0 := w0, w1 := w1, i0 := i0, i1 := i1 })
        | _, _ => execIllegalEncoding c slot (firstIllegal w0 w1) s

/-! ### Gangs (02 R46) -/

/-- A bundle issued to a gang's members in ascending slot order; a member that parked, departed, faulted or went elsewhere
than the lowest leaves. The barrel goes on behind the highest member (13 R312). -/
def State.issueGang (s : State) (c : Nat) (gang : List Nat) : State :=
  let s := gang.foldl (fun s n => if (s.ctx c n).status == .ready then Out.state (s.issueAt c n) s else s) s
  let s := s.modCore c fun k => { k with lastSlot := gang.getLastD k.lastSlot }
  let stays := fun (n : Nat) => (s.ctx c n).status == .ready && !(s.ctx c n).gang.isEmpty
  match gang.find? stays with
  | none => gang.foldl (fun s n => s.modCore c fun k => k.leaveGang n) s
  | some low =>
    (gang.filter fun n => !((s.ctx c n).status == .ready && (s.ctx c n).pc == (s.ctx c low).pc)).foldl
      (fun s n => s.modCore c fun k => k.leaveGang n) s

/-! ### Departures of paired bundles (02 R39; 07 R152) -/

/-- What the packing of a thread that waits to leave would meet: the fault's code and detail, if any. -/
def State.departFault (s : State) (c slot : Nat) : Option (Nat × Nat) :=
  let k := s.core c
  let x := k.ctx slot
  match x.status with
  | .parked (.depart t _ j) =>
    (match resolveEntry (k.descsOf x.asid (t / 512)) t j with
    | .error d => some (fcEntry, d)
    | .ok (_, desc, _) => ((s.packParity c slot desc).filter fun e => !x.out.any fun p => p.dest == .g (e - x.win.mainBase)).map fun e => (fcParity, e))
  | _ => none

/-- Word 1 of a paired bundle acts for a thread that is about to leave, unless its transfer is to issue again, or meets a fault,
which leaves the bundle without effect. -/
def State.wordOne (s : State) (c slot : Nat) : State :=
  let x := s.ctx c slot
  match x.status, (s.bundleHere c slot).bind pairOf with
  | .parked (.depart t _ _), some b =>
    if x.w1done || x.pc.word = 1 || ((s.core c).placedBlock x.asid (t / 512)).isSome then s
    else
      let u := (s.modCtx c slot fun y => y.again x true).second c slot b false (s.core c)
      if u.faulted then s.refault u
      else if u.iss.res != 1 then s.retry u c slot
      else
        let v := u.modCtx c slot fun y => { (y.again x false) with status := x.status, w1done := true }
        match v.departFault c slot with
        | some (code, detail) => s.takeFault c slot code detail false false
        | none => v
  | _, _ => s

/-- The turn of a thread that waits to leave, and of its partner: word 1 of its bundle, then the departure. -/
def State.leave (s : State) (c slot : Nat) : Out :=
  let s := (slot :: ((s.ctx c slot).pair).toList).foldl (fun s n => s.wordOne c n) (s.spend c slot)
  if s.departing c slot then execThreadDeparture c slot s else .next s

/-! ### Turns of contexts (13 R312) -/

/-- The partner of a redundant pair that waits for it has what it waits for (09 R225). -/
def State.partnerReady (s : State) (c : Nat) (x : Ctx) : Bool :=
  x.posted.isNone && match x.pair with
    | none => true
    | some p => if bit x.tstat 2 then !(s.ctx c p).loadq.isEmpty else x.loadq.length < 64

/-- The wake condition of a wait holds (02 R29): for the waits that no other step ends. -/
def State.wakes (s : State) (c slot : Nat) (x : Ctx) (w : Wait) : Bool :=
  let k := s.core c
  match w with
  | .marker => x.allReturned s.now
  | .settle => x.settled s.now
  | .fence => k.fenced slot s.now
  | .depart _ _ _ => x.settled s.now && (match x.pair with
      | none => true
      | some p => (match (s.ctx c p).status with | .parked (.depart _ _ _) => (s.ctx c p).settled s.now | _ => false))
  | .room q => k.q.hasRoom q
  | .entry q => k.q.ready q slot
  | .limit => x.outstanding < Config.outstandingLimit
  | .full n => k.isFull slot n
  | .join _ => x.phase == 2
  | .watermark ch g => reached (k.cpdone ch) g
  | .moving until_ => until_ ≤ s.now
  | .loading n => !(Tab.getD k.regs.w n {}).loading
  | .partner => s.partnerReady c x
  | .performed => x.pipe.isEmpty && (match x.pair with | none => true | some p => (k.ctx p).pipe.isEmpty)
  | .ring => k.work.deque.length < Config.dequeDepth || k.work.overflow.entries.length + Config.dequeMove ≤ k.work.overflow.capacity
  | _ => false

/-- The two contexts of a redundant pair wait for each other at different instructions (08 R199). -/
def State.diverged (s : State) (c slot : Nat) (x : Ctx) : Bool :=
  let stuck := fun (n : Nat) (y : Ctx) => match y.status with
    | .parked .partner => !s.wakes c n y .partner
    | .parked (.depart _ _ _) => y.settled s.now
    | _ => false
  match x.pair with
  | none => false
  | some p =>
    let y := s.ctx c p
    stuck slot x && stuck p y && (x.status == .parked .partner || y.status == .parked .partner)

/-- A context may issue: ready or with its wake condition met, not within 7 cycles of its last issue, on a core and die in
service, not of a class that waits out a pre-emption, not of a stopped job. -/
def State.mayIssue (s : State) (c slot : Nat) (x : Ctx) : Bool :=
  let k := s.core c
  let awake := match x.status with
    | .ready => true
    | .parked w => s.wakes c slot x w || s.diverged c slot x
    | _ => false
  awake && !k.csr.stopped && !(s.die (dieOf c)).stopped && (!x.issued || x.lastIssue + 8 ≤ s.now)
    && (slot == 63 || (!(k.work.preempted && x.cls != 0) && !s.jobStopped x.asid))

/-- A list behind a key, and then up to it. -/
def rotate {α : Type} (l : List (Nat × α)) (last : Nat) : List (Nat × α) :=
  List.filter (fun e => last < e.1) l ++ List.filter (fun e => e.1 ≤ last) l

/-- The next context to issue: cores in turn, and on each the barrel's first. -/
def State.nextContext (s : State) : Option (Nat × Nat) :=
  (rotate s.cores s.lastCore).findSome? fun e =>
    ((rotate e.2.ctxs e.2.lastSlot).find? fun x => s.mayIssue e.1 x.1 x.2).map fun x => (e.1, x.1)

/-- A context whose wake condition holds is ready again. -/
def State.wake (s : State) (c slot : Nat) : State :=
  match (s.ctx c slot).status with
  | .parked .marker => (s.passMarker c slot).setStatus c slot .ready
  | .parked _ => s.setStatus c slot .ready
  | _ => s

/-- The turn of a context: its departure, or an issue, with its gang where it has one. -/
def State.turn (s : State) (c slot : Nat) : Out :=
  let x := s.ctx c slot
  if s.diverged c slot x then .next ((s.spend c slot).takeFault c slot fcMismatch 0 (x.pc.word == 1) false)
  else match x.status with
    | .parked (.depart _ _ _) => s.leave c slot
    | _ =>
      let s := s.wake c slot
      if x.gang.isEmpty then s.issueAt c slot else .next (s.issueGang c x.gang)

/-! ### Turns of the script (log 4) -/

/-- An error strikes a word of a copy that a core's cache portion holds (04 R82; 14 R324): word w of memory. -/
def State.strikeLine (s : State) (c w : Nat) : State :=
  match (s.core c).cached (w / 16) with
  | none => s
  | some l =>
    let b := 2 ^ (w % 16)
    let s := s.modCore c fun k => { k with cache := k.cache.map fun e =>
      if e.line == l.line then { e with poison := e.poison ||| b, struck := e.struck ||| b } else e }
    if l.st = .s then s else { s with poison := Tab.put s.poison w true }

/-- An error in a home directory entry (14 R333): every copy is recalled and discarded, the line is poisoned in DRAM, and its
times become the home's high-water time. -/
def State.strikeEntry (s : State) (line : Nat) : State :=
  match s.entry? line with
  | none => s
  | some e =>
    let mine := fun (l : CacheLine) => l.line == line
    let copies := s.cores.flatMap (fun (k : Nat × Core) => k.2.cache.filter mine) ++ s.hedges.flatMap fun (h : Nat × Hedge) => h.2.victim.filter mine
    let high := copies.foldl (fun n l => max n (max l.wts l.rts)) (max e.wts e.rts)
    let key := s.homeKey line
    let h := s.home key
    let s := s.setHome key { entries := h.entries.filter fun e => e.line != line, high := max h.high high, l2 := h.l2.filter fun l => l.line != line }
    let s := { s with cores := s.cores.map (fun (k : Nat × Core) => (k.1, { k.2 with cache := k.2.cache.filter fun l => !mine l })),
                      hedges := s.hedges.map (fun (h : Nat × Hedge) => (h.1, { h.2 with victim := h.2.victim.filter fun l => !mine l })),
                      poison := (List.range 16).foldl (fun p w => Tab.put p (16 * line + w) false) s.poison }
    let die := if key < 1000 then key / 96 else if key < 2000 then farDie (key % 1000) else 0
    s.machineCheck 3 die 0 (if key < 1000 then key % 96 else key % 1000) 0 (line * 128)

/-- An error strikes a word: marked, and in an instruction store logged where the prefetch path has read it (04 R84; that it has is
free, log 5). The record's address is the offset in the store (DESIGN CHOICE, log 94). -/
def State.strikeWord (s : State) (w : Nat) (origin : Bool) : State :=
  let s := { s with poison := Tab.put s.poison w (origin && 2 ^ 45 ≤ w) }
  if w < 2 ^ 47 then s
  else
    let (b, s) := s.takeBit
    let c := (8 * w - 2 ^ 50) / 2 ^ 16 * 8
    if b then s.machineCheck 6 (dieOf c) (c / 256 % 32) (c / 8 % 32) 0 (8 * w % 2 ^ 16) else s

/-- The ordered flow of a message from core to core: on one die between the two, and from die to die one for all, class 0 apart (12
R294; 13 R314); what comes from another chip for a core's porter stays in one order. -/
def coreFlow (src dst cls : Nat) : Nat × Nat :=
  if chipOf src != chipOf dst then (2 ^ 43, dst)
  else
    let own := if cls = 0 then 2 ^ 39 else 0
    if dieOf src = dieOf dst then (own + src, dst) else (own + 2 ^ 40 + src / 8192, dst / 8192)

/-- The ordered flow that a message travels in (08 R187; 12 R294). Copy and drain data have none. -/
def flowOf (i : Instr) : Option (Nat × Nat) :=
  match i with
  | .sendArrival m | .senduArrival m => some (coreFlow (m.tid / 64) (sendCore m) m.cls)
  | .travelMessageArrival dst m | .forkChildArrival dst m | .stolenChildArrival dst m | .wakeArrival dst m =>
    some (coreFlow m.origin dst m.cls)
  | .activeMessageArrival dst p => some (match p.msg with
    | some m => coreFlow (m.tid / 64) dst m.cls
    | none => (2 ^ 43, dst))
  | .ownershipRequest c _ line => some (2 ^ 41 + c, line)
  | .remotePrivateRequest c slot => some (2 ^ 42 + c, slot)
  | _ => none

/-- The message that goes when the n-th is to: the oldest of its flow. -/
def State.flowHead (s : State) (n : Nat) : Nat :=
  match (s.net[n]?).bind flowOf with
  | none => n
  | some f => ((s.net.findIdx? fun i => flowOf i == some f).getD n)

/-- A turn that the script gives. -/
def State.scripted (s : State) (t : Turn) : Out :=
  match t with
  | .event i => exec i s
  | .message n =>
    let n := s.flowHead n
    match s.net[n]? with
    | some i => exec i { s with net := s.net.eraseIdx n }
    | none => .next s
  | .timer n =>
    match s.timers[n]? with
    | some e => exec e.2 { s with timers := s.timers.eraseIdx n }
    | none => .next s
  | .issue c slot => if s.mayIssue c slot (s.ctx c slot) then s.turn c slot else .next s
  | .poison w origin => .next (s.strikeWord w origin)
  | .badMain c e => .next (s.modCore c fun k => { k with badMain := if k.badMain.contains e then k.badMain else k.badMain ++ [e] })
  | .badVec c e => .next (s.modCore c fun k => { k with badVec := if k.badVec.contains e then k.badVec else k.badVec ++ [e] })
  | .badLine c w => .next (s.strikeLine c w)
  | .badPe h row col => .next (s.modHedge h fun x => { x with badPe := if x.badPe.contains (row, col) then x.badPe else x.badPe ++ [(row, col)] })
  | .badEntry line => .next (s.strikeEntry line)
  | .badStore i w => .next (s.strikeStore i w)
  | .badRegion part => .next { s with host := s.host.strikeRegion part }
  | .corrected source die hedge unit addr => .next (s.machineCheck source die hedge unit 0 addr)

/-! ### The step -/

/-- A step that is due, or the oldest message in flight. -/
def State.agentTurn (s : State) : Option Out :=
  match s.timers with
  | e :: rest =>
    if e.1 ≤ s.now then some (exec e.2 { s with timers := rest })
    else match s.net with
      | i :: rest => some (exec i { s with net := rest })
      | [] => none
  | [] =>
    match s.net with
    | i :: rest => some (exec i { s with net := rest })
    | [] => none

/-- Cycles pass while nothing can act: one while a context waits on time alone, else until a step is due. -/
def State.pass (s : State) : State :=
  let timed := s.cores.any fun (k : Nat × Core) => k.2.ctxs.any fun (x : Nat × Ctx) => match x.2.status with
    | .ready => true
    | .parked .marker => true
    | .parked .settle => true
    | .parked .fence => true
    | .parked (.depart _ _ _) => true
    | .parked (.moving _) => true
    | .parked w => s.wakes k.1 x.1 x.2 w
    | _ => false
  if timed then s
  else match s.timers with
    | e :: _ => { s with now := max s.now (e.1 - 1) }
    | [] => s

/-- One step: the script's next turn, else in turn a step of the agents and an issue of the cores (log 4). -/
def State.act (s : State) : Out :=
  match s.script with
  | t :: rest => State.scripted { s with script := rest } t
  | [] =>
    let core := s.nextContext.map fun e => s.turn e.1 e.2
    let agent := s.agentTurn
    let (a, b) := if s.now % 2 = 0 then (core, agent) else (agent, core)
    match a, b with
    | some o, _ => o
    | none, some o => o
    | none, none => .next s.pass

/-- Holders tell the cores that cache them that they have a free context, or none any more (02 R38; 05 R123). -/
def State.hints (s t : State) : State :=
  t.cores.foldl (fun u (e : Nat × Core) =>
    let free := ((t.core e.1).freeSlot none).isSome
    if ((s.core e.1).freeSlot none).isSome == free then u
    else t.cores.foldl (fun u (k : Nat × Core) => k.2.work.map.foldl (fun u (m : MapEntry) =>
      m.holders.foldl (fun u h =>
        if chipOf h == t.chip m.asid && t.phys h == e.1 then u.post (.freeContextHint k.1 m.asid m.blk h free) else u) u) u) u) t

/-- What ends every step: DRAM follows the rings and directories that it has changed, hints go out, and the cycle is over. -/
def State.endStep (s t : State) : State := { (s.hints (s.mirror t)) with now := t.now + 1, iss := {} }

/-- One step and its cycle; a package that a failed boot has halted takes nothing but a reset (17
R377). -/
def State.cycleOnce (s : State) : Out :=
  if !s.host.halted then s.act.map s.endStep
  else match s.script with
    | .event (.packageReset b) :: rest => Out.map (exec (.packageReset b) { s with script := rest }) s.endStep
    | _ => .fault .halted

/-! ### A program placed where the next step fetches (log 1) -/

/-- The bundle that holds a word: a lone word with the no-op behind it; a paired word with a partner that has no effect of
its own. -/
def bundleOf (w : Nat) : Nat :=
  let w := w % 2 ^ 32
  if fld w 31 1 = 1 then w + 2 ^ 32 * 0x80000000
  else if isCWord w then w + 2 ^ 32 * 0x3D009200
  else 2 ^ 32 * w

/-- A block of one bundle, block 1 of ASID 0, placed on core 0, with a thread at it in slot 0. -/
def placedThread : Ctx := { status := .ready, pc := { blk := 1 }, win := { mainCode := 15, vecCode := 8 } }

def State.place (s : State) (b : Nat) : State :=
  let p : Placed := { asid := 0, blk := 1, addr := 0, count := 1, mainCode := 15, vecCode := 8, descs := [] }
  let a := istoreAt 0 0
  let s := { s with mem := s.mem.write a 8 b, poison := s.poison.filter fun e => e.1 != a / 8,
                    host := { s.host with halted := false }, script := Turn.issue 0 0 :: s.script }
  let s := s.modDie 0 fun d => { d with stopped := false }
  s.modCore 0 fun k =>
    { (k.setCtx 0 placedThread) with
      csr := { k.csr with stopped := false },
      work := { k.work with placed := p :: k.work.placed, preempted := false } }

end Sys2Proof.Machine
end

