-- ==== Sys2Proof/Machine/Step.lean ====
section
/-! DEFINITION. The step of the machine, and the placing of one instruction where the step fetches. -/

namespace Sys2Proof.Machine

/-- One step of the package. -/
def step (s : State) : Host.Outcome State Fault Refusal := s.cycleOnce

/-- The state with the instruction of a word placed where the next step fetches (log 1). -/
def State.withFetchWord (s : State) (nbits w : Nat) : State := s.place (bundleOf (w % 2 ^ nbits))

end Sys2Proof.Machine
end

