-- ==== Sys2Proof/Safety.lean ====
section
/-! DEFINITION. The notions that statements about the machine are made of: when a word issues with an effect of its own, how it
ends, and what a step leaves as it was. -/

namespace Sys2Proof.Machine

/-! ### The issue of a word -/

/-- The context that the issue in progress belongs to. -/
abbrev State.me (s : State) : Ctx := s.ctx s.iss.core s.iss.slot

/-- A word issues with an effect of its own: its thread is ready, with no remote accesses of the word behind it that have just been performed
(phase 3), it meets no fault of ranks 1 to 4 and no bad parity (07 R171), its sources read as `vals`, which leaves `t`, and its context is
not one of a redundant pair (08 R199). -/
structure Issues (s : State) (i : Instr) (vals : List Word) (t : State) : Prop where
  ready : s.me.status = .ready
  fresh : s.me.phase ≠ 3
  clean : earlyFault s s.iss.core s.iss.slot i s.iss.word = none
  reads : s.readOps s.iss.core s.iss.slot 0 (sources i) = .ok (vals, t)
  alone : t.me.pair = none

/-- What every completed word does last: a word that popped lets records held at their sources enter the room it made (03 R65),
and a marked word parks its thread, or passes its marker (07 R154). -/
def State.finish (s u : State) (i : Instr) : State :=
  let v := if popping i then u.refill s.iss.core 64 else u
  let w := v.markerAt s.iss.core s.iss.slot s.iss.mark
  { w with iss := { w.iss with res := 1 } }

/-- The word completes with the effect `u`. -/
def Ends (i : Instr) (s u : State) : Prop := exec i s = .next (s.finish u i)

/-- The word faults with a code and a detail double: none of its own effect has happened (14 R317). -/
def Faults (i : Instr) (s : State) (code detail : Nat) (origin : Bool) : Prop :=
  exec i s = .next
    (let v := (s.unload s.iss.core s.iss.slot i).takeFault s.iss.core s.iss.slot code detail (s.iss.place == .lone1) origin
     { v with iss := { v.iss with res := 3 + 4 * code, rank := s.faultRank s.iss.core s.iss.slot i code, detail := detail, origin := origin } })

/-- The word waits, to issue again when the wait ends: nothing but the wait is entered in the thread, which asks for what it waits for. -/
def Waits (i : Instr) (s t : State) (w : Wait) : Prop :=
  exec i s = .next
    (let v := (t.request s.iss.core s.iss.slot w).modCtx s.iss.core s.iss.slot fun y => { y with pc := s.me.pc, status := .parked w }
     { v with iss := { v.iss with res := 2 } })

/-- The place of the next word of the thread (07 R153). -/
abbrev State.nextPlace (s : State) : PC := s.me.pc.next s.iss.place

/-! ### Frames -/

/-- Nothing outside one core differs. -/
def OnlyCore (c : Nat) (t u : State) : Prop :=
  u = { t with cores := u.cores } ∧ ∀ e, e ≠ c → u.core e = t.core e

/-- Nothing outside one context differs. -/
def OnlyCtx (c slot : Nat) (t u : State) : Prop :=
  OnlyCore c t u ∧ u.core c = { t.core c with ctxs := (u.core c).ctxs } ∧ ∀ j, j ≠ slot → u.ctx c j = t.ctx c j

/-- The main-file entry, the operand-file register and the core-shared scalar that a destination names. -/
def destEntry (x : Ctx) : Operand → Option Nat
  | .g n => some (x.win.mainBase + n.val)
  | _ => none
def destOper : Operand → Option Nat
  | .h n => some n.val
  | _ => none
def destShared : Operand → Option Nat
  | .k n => some n.val
  | _ => none

/-- A result `v` reaches destination `d` of a thread between two states (03 R56, R59 to R63), and nothing else differs but fields of
the thread's context other than its operand file: a main register is written and full, a core-shared scalar takes 8 cycles to be visible,
zero discards. -/
structure Writes (c slot : Nat) (d : Operand) (v : Word) (t u : State) : Prop where
  state : u = { t with cores := u.cores }
  cores : ∀ e, e ≠ c → u.core e = t.core e
  core : u.core c = { t.core c with
    file := (u.core c).file, empty := (u.core c).empty, badMain := (u.core c).badMain, ctxs := (u.core c).ctxs,
    regs := { (t.core c).regs with k := (u.core c).regs.k, kOld := (u.core c).regs.kOld } }
  main : ∀ e, Tab.getD (u.core c).file e 0 = if some e = destEntry (t.ctx c slot) d then v else Tab.getD (t.core c).file e 0
  full : ∀ e, e ∈ (u.core c).empty ↔ e ∈ (t.core c).empty ∧ some e ≠ destEntry (t.ctx c slot) d
  sound : ∀ e, e ∈ (u.core c).badMain ↔ e ∈ (t.core c).badMain ∧ some e ≠ destEntry (t.ctx c slot) d
  shared : ∀ n, Tab.getD (u.core c).regs.k n 0 = if some n = destShared d then v else Tab.getD (t.core c).regs.k n 0
  visible : (u.core c).regs.kOld = match destShared d with
    | none => (t.core c).regs.kOld
    | some n => ((t.core c).regs.kOld.filter fun r => t.now < r.at_ + Config.kVisible) ++
        [⟨n, Tab.getD (t.core c).regs.k n 0, slot, t.now⟩]
  ctxs : ∀ j, j ≠ slot → u.ctx c j = t.ctx c j
  oper : ∀ n, Tab.getD (u.ctx c slot).h n 0 = if some n = destOper d then v else Tab.getD (t.ctx c slot).h n 0

/-- A word that has come to `t` completes with a result `v` for its destination (no queue register): the last result of its class is
`v` too unless it pops (03 R62, 09 R203), nothing else of the machine changes but the thread's place, and an outstanding result of
the destination is met (07 R155). -/
def Yields (i : Instr) (d : Operand) (v : Word) (s t : State) : Prop :=
  ∃ u, Ends i s u ∧ Writes t.iss.core t.iss.slot d v t u ∧
    u.me = (let x := if popping i then t.me else t.me.lastResult (isC i) v
            { x with h := u.me.h, out := (t.me.clash (destOf d) v.toNat).out }).complete t.nextPlace

/-- An instruction completes with the result that `f` gives of its source values, whatever they are, and does nothing else. -/
def Results (i : Instr) (d : Operand) (f : List Word → Word) : Prop :=
  ∀ s vals t, Issues s i vals t → (∀ n, d ≠ .q n) → Yields i d (f vals) s t

/-- Between two states the thread of the issue goes on at a place, and nothing else differs. -/
def Moved (t u : State) (p : PC) : Prop :=
  OnlyCtx t.iss.core t.iss.slot t u ∧ u.me = t.me.complete p

/-! ### Branches and transfers (08) -/

/-- A branch of the current block (08 R173): untaken it goes on at the next word; taken it goes to its bundle, or raises the entry fault
when the block has no such bundle. -/
def Branches (i : Instr) (off : Fin 512) (taken : State → List Word → Prop) : Prop :=
  ∀ s vals t, Issues s i vals t →
    let count := (t.core t.iss.core).blockCount t.me.asid t.me.pc.blk
    (¬ taken t vals → ∃ u, Ends i s u ∧ Moved t u t.nextPlace) ∧
    (taken t vals → off < count → ∃ u, Ends i s u ∧ Moved t u { blk := t.me.pc.blk % 2 ^ 24, off := off, word := 0 }) ∧
    (taken t vals → count ≤ off → Faults i s fcEntry (t.me.pc.blk % 2 ^ 24 * 512 + off) false)

/-- The entry descriptors that a core's block-map lookup gives of a block: those of the text it holds, else of the entry, which is of a
block that some core holds (02 R36; 05 R123). -/
def Core.lists (k : Core) (asid blk : Nat) (descs : List Nat) : Prop :=
  ∃ e, k.mapEntry asid blk = some e ∧
    ((∃ p, k.placedBlock asid blk = some p ∧ p.descs = descs) ∨ (k.placedBlock asid blk = none ∧ e.nholders ≠ 0 ∧ e.descs = descs))

/-- An offset is an entry of a block as the core knows it. -/
def Core.declares (k : Core) (asid blk off : Nat) : Prop :=
  ∃ descs, k.lists asid blk descs ∧ (entryAt descs off).isSome

/-- A transfer of a kind to a target double (08 R175) by a thread of slot 0 to 62, for every state in which the target is `d`: the
faults of lines 2, 4, 6 and 8, a transfer within the block, one to another block held on the core with windows of the thread's sizes, a
departure, and the wait for a block-map entry. A call that stays on its core writes LINK; one that departs takes it along. The looked-up
entry becomes the most recently used (05 R123). A block known to be held nowhere is departed to without a check. -/
def Transfers (i : Instr) (kind : Nat) (target : State → List Word → Nat → Prop) : Prop :=
  ∀ s vals t d, Issues s i vals t → target t vals d → t.iss.slot ≠ 63 →
    let k := t.core t.iss.core
    let x := t.me
    let count := k.blockCount x.asid x.pc.blk
    let w := t.mapUse t.iss.core x.asid (d / 512)
    let linked := fun (y : Ctx) => if kind = 1 then { y with link := x.pc.blk % 2 ^ 24 * 512 + (x.pc.off + 1) % 512 } else y
    (2 ^ 33 ≤ d ∨ d / 512 = 0 → Faults i s fcEntry d false) ∧
    (d < 2 ^ 33 → d / 512 ≠ 0 → kind = 1 → count ≤ x.pc.off + 1 → Faults i s fcEntry d false) ∧
    (d < 2 ^ 33 → d / 512 ≠ 0 → (kind = 1 → x.pc.off + 1 < count) →
      (d / 512 = x.pc.blk → count ≤ d % 512 → Faults i s fcEntry d false) ∧
      (d / 512 = x.pc.blk → d % 512 < count → ∃ u, Ends i s u ∧ OnlyCtx t.iss.core t.iss.slot t u ∧
        u.me = (linked t.me).complete { blk := d / 512, off := d % 512, word := 0 }) ∧
      (d / 512 ≠ x.pc.blk → k.mapEntry x.asid (d / 512) = none → Waits i s t (.blockMap (d / 512))) ∧
      (∀ descs, d / 512 ≠ x.pc.blk → k.lists x.asid (d / 512) descs → entryAt descs (d % 512) = none → Faults i s fcEntry d false) ∧
      (∀ p, d / 512 ≠ x.pc.blk → k.declares x.asid (d / 512) (d % 512) → k.placedBlock x.asid (d / 512) = some p →
        8 * (p.mainCode + 1) = x.mainSize → 4 * p.vecCode = x.vecSize →
        ∃ u, Ends i s u ∧ OnlyCtx t.iss.core t.iss.slot w u ∧
          u.me = (linked t.me).complete { blk := d / 512, off := d % 512, word := 0 }) ∧
      (d / 512 ≠ x.pc.blk → k.declares x.asid (d / 512) (d % 512) → k.placedBlock x.asid (d / 512) = none →
        Waits i s w (.depart d kind none)) ∧
      (∀ e, d / 512 ≠ x.pc.blk → k.mapEntry x.asid (d / 512) = some e → e.nholders = 0 → k.placedBlock x.asid (d / 512) = none →
        Waits i s w (.depart d kind none)))

/-! ### Waits, messages and saved threads (08, 02) -/

/-- Every outstanding result of the thread has returned, a record being visible 8 cycles later (07 R154; 09 R214). -/
def Returned (t : State) : Prop :=
  ∀ p ∈ t.me.out, p.returned ∧ (p.kind = .bfld → p.left + 8 ≤ t.now)

/-- R39 step 1: its stores have been accepted too. -/
def Settled (t : State) : Prop := Returned t ∧ t.me.pipe = []

/-- What FENCEB waits for (08 R192): the thread has settled, its chain and matrix commands have ended, and its transfers are complete. -/
def Fenced (t : State) : Prop :=
  Settled t ∧ t.me.cmds = [] ∧ ∀ e ∈ t.me.copies,
    reached (Tab.getD (t.core t.iss.core).units.cpdone e.1 0) (e.2 + 1) ∨
      ∃ u ∈ (t.core t.iss.core).units.transfers, u.req.chan = e.1 ∧ u.req.id = e.2 ∧ u.done

/-- The thread observes a completion or a message at its time (12 R283, R292, R293): at once where its accesses have been performed, else in
its turn behind them. -/
def Observes (x y : Ctx) (time : Nat) : Prop :=
  if x.pipe = [] then y = { x with pt := max x.pt time + 1 }
  else y = { x with pipe := x.pipe ++ [{ observe := some time, asid := x.asid, pc := x.pc }] }

/-- The thread after it has observed what it fenced (12 R292): its PT is past every completion, if there was any to observe. -/
def FenceSeen (t : State) (y : Ctx) : Prop :=
  let tc := fun (ch : Nat) => Tab.getD (t.core t.iss.core).units.cpTc ch 0
  (t.me.copies = [] ∧ t.me.cmdTc = 0 ∧ y = t.me) ∨
  ((t.me.copies ≠ [] ∨ t.me.cmdTc ≠ 0) ∧ ∃ T, t.me.cmdTc ≤ T ∧ (∀ e ∈ t.me.copies, tc e.1 ≤ T) ∧
    (T = t.me.cmdTc ∨ ∃ e ∈ t.me.copies, T = tc e.1) ∧
    y = { t.me with pt := max t.me.pt T + 1, copies := [], cmdTc := 0 })

/-- A message carries a thread's state as an entry descriptor lists it (02 R39, R40): the live registers, those above the thread's window
as zero and full, the live masks, and the thread's time, ASID, class and redundancy. -/
def Carries (t : State) (c slot desc : Nat) (m : Travel) : Prop :=
  let k := t.core c
  let x := t.ctx c slot
  m.pt = x.pt ∧ m.asid = x.asid ∧ m.cls = x.cls ∧ (m.redun ↔ x.tstat.testBit 1) ∧ m.origin = t.coreId x.asid c ∧ m.tid = t.tid c slot ∧
  m.live = desc / 2 ^ 16 % 2 ^ 16 ∧ m.maskLive = desc / 2 ^ 9 % 2 ^ 7 ∧
  (∀ i < 16, (m.full.testBit i ↔ x.mainSize ≤ i ∨ x.win.mainBase + i ∉ k.empty)) ∧
  m.regs = ((List.range 16).filter fun i => desc.testBit (16 + i)).map (fun i =>
    (i, if i < x.mainSize then Tab.getD k.file (x.win.mainBase + i) 0 else 0)) ∧
  m.masks = ((List.range 7).filter fun j => desc.testBit (9 + j)).map fun j => (j + 1, Tab.getD x.masks (j + 1) 0)

/-- A save area holds a thread of a core (02 R51): its context, out of its gang (R46), and the contents and full bits of its windows. -/
def SavedFrom (k : Core) (x : Ctx) (v : SavedCtx) : Prop :=
  v.main = (List.range x.mainSize).map (fun i => Tab.getD k.file (x.win.mainBase + i) 0) ∧
  (∀ i, i ∈ v.empty ↔ i < x.mainSize ∧ x.win.mainBase + i ∈ k.empty) ∧
  v.vec = (List.range x.vecSize).map (fun i => Tab.getD k.vfile (x.win.vecBase + i) 0) ∧
  v.ctx.asid = x.asid ∧ v.ctx.cls = x.cls ∧ v.ctx.pt = x.pt ∧ v.ctx.link = x.link ∧ v.ctx.win = x.win ∧
  (∀ b, v.ctx.tstat.testBit b ↔ x.tstat.testBit b ∧ b ≠ 3) ∧
  v.ctx.h = x.h ∧ v.ctx.lc = x.lc ∧ v.ctx.la = x.la ∧ v.ctx.masks = x.masks ∧ v.ctx.fcode = x.fcode ∧ v.ctx.faddr = x.faddr ∧
  v.ctx.status = .saved

/-- Nothing waits for a context of a core: no arrival, no saved thread, no child. -/
def Core.NoneWaits (k : Core) : Prop :=
  k.work.spill.all = [] ∧ k.work.saved = [] ∧ k.work.deque = [] ∧ k.work.overflow.all = [] ∧ k.work.preempted = false

/-! ### Accesses (04, 09) -/

/-- Where an access of `n` bytes through a record goes (09 R211), found by the machine's own functions after the sources have been
read; `u` is the state with the record read and the translation used. -/
def Locates (t u : State) (bf n : Nat) (kind : Purpose) (f : OffForm) (v : Word) (found : Found) : Prop :=
  ∃ r w, t.record? t.iss.core t.iss.slot bf = (some r, w) ∧ u = w.useTlbs t.iss.core w.me.asid r [f.offset r v] ∧
    found = (u.element t.iss.core t.iss.slot r (f.offset r v) n n kind (f == .byte) 0 0).found

/-- Results of the thread that have not returned (03 R66). -/
def Ctx.unreturned (x : Ctx) : Nat := x.out.countP fun p => !p.returned

/-- A result of an instruction that has just issued: fresh, of a kind, for a destination. -/
structure Begun (u : State) (p : Pending) (kind : PendKind) (d : Dest) (bytes : Nat) (signed : Bool) : Prop where
  fresh : ∀ q ∈ u.me.out, q.seq < p.seq
  kind : p.kind = kind
  dest : p.dest = d
  bytes : p.bytes = bytes
  signed : p.signed = signed
  returned : p.returned = false
  first : p.alt = none ∧ p.clash = false
  asid : p.asid = u.me.asid
  pc : p.pc = u.me.pc

/-- The main-file entry and the vector-file entry that an outstanding result is for. -/
def pendEntry (x : Ctx) : Dest → Option Nat
  | .g n => some (x.win.mainBase + n)
  | _ => none
def pendVec (x : Ctx) : Dest → Option Nat
  | .v n => some (x.win.vecBase + n)
  | _ => none

/-- The line of an address is homed at an SRAM, where nothing holds it, and carries no poison in some bytes (04 R82, R90; 12 R284). -/
def SramReady (u : State) (addr n : Nat) : Prop :=
  isSramLine (addr / 128) ∧ addr / 128 ∉ u.pins ∧ ∀ a, addr ≤ a → a < addr + n → Tab.get? u.poison (a / 8) = none

/-- Neither the core nor its hedge's victim cache holds a copy of a line of DRAM, far or host memory. -/
def Missing (u : State) (addr : Nat) : Prop :=
  isSramLine (addr / 128) = false ∧ (∀ l ∈ (u.core u.iss.core).cache, l.line ≠ addr / 128) ∧
    ∀ l ∈ (u.hedge (hedgeKey u.iss.core)).victim, l.line ≠ addr / 128

/-- A line of DRAM, far or host memory stands at its home: the home has its entry, no agent owns it, and nothing of it is on its way
home (12 R287). -/
def State.AtHome (s : State) (line : Nat) : Prop :=
  isSramLine line = false ∧ (∃ e, s.entry? line = some e ∧ e.st = .s) ∧
    ∀ i ∈ s.net, (∀ w r d p, i ≠ .recallReply line w r d p) ∧ ∀ w r d p b, i ≠ .writeback line w r d p b

/-- The offset of an address in the private memory of the core that owns it, as a thread of the issue's class sees it (04 R86, R98). -/
def ownerOffset (u : State) (q addr : Nat) : Nat := addr - sramAt q (privateView (u.core q).csr.lsplit u.me.cls).1

/-- The bytes from an address on become those of a number, and no other byte of memory changes. -/
def Stores (u v : State) (addr n val : Nat) : Prop :=
  ∀ a, v.mem.byte a = if addr ≤ a ∧ a < addr + n then BitVec.ofNat 8 (val / 256 ^ (a - addr)) else u.mem.byte a

/-- A store is performed in an SRAM: only its bytes, their poison, the line's times, images of a snapshot, the wakes of joiners, and the
thread's context differ. -/
def OnlySram (u v : State) : Prop :=
  v = { u with cores := v.cores, mem := v.mem, poison := v.poison, sramT := v.sramT, net := v.net, yew := v.yew } ∧
  (∀ i ∈ v.net, i ∈ u.net ∨ (∃ d a, i = .joinWake d a) ∨ (∃ q, i = .atomicReturn u.iss.core u.iss.slot q)) ∧
  (∀ e, e ≠ u.iss.core → v.core e = u.core e) ∧
  v.core u.iss.core = { u.core u.iss.core with ctxs := (v.core u.iss.core).ctxs } ∧
  ∀ j, j ≠ u.iss.slot → v.ctx u.iss.core j = u.ctx u.iss.core j

/-! ### Vectors and masks (10) -/

/-- A vector register and a mask as the sources of the issue are read (07 R152; 03 R69), and a vector register as it stands. -/
def State.vecSrc (t : State) (n : Nat) : Nat :=
  let k := t.view t.iss.core
  (Tab.getD k.vfile ((k.ctx t.iss.slot).win.vecBase + n) 0).toNat
def State.maskSrc (t : State) (n : Nat) : Nat :=
  if n = 0 then 2 ^ 128 - 1 else (Tab.getD ((t.view t.iss.core).ctx t.iss.slot).masks n 0).toNat
def State.vecNow (t : State) (n : Nat) : Nat := (Tab.getD (t.core t.iss.core).vfile (t.me.win.vecBase + n) 0).toNat

/-- No load of a vector register is before its marker (07 R155): each is read as it stands. -/
def State.VecsPlain (t : State) : Prop := ∀ n, ((t.view t.iss.core).ctx t.iss.slot).pendFor (.v n) = none

/-- Element k of a register or group of a type: its bits there, and those that carry its value (06 R136, 10 R228). -/
def cell (bits v k : Nat) : Nat := v / 2 ^ (bits * k) % 2 ^ bits
def elemAt (ty : Ty) (v k : Nat) : Nat := v / 2 ^ (ty.bits * k) % 2 ^ (match ty with | .e3m2 => 6 | .e2m1 => 4 | _ => ty.bits)

/-- The active elements of `count` vector registers from vd on are written from a function of their index, and nothing else of the machine
changes but the outstanding results of the thread. -/
structure LaneWrites (t u : State) (bits m vd count : Nat) (f : Nat → Nat) : Prop where
  state : u = { t with cores := u.cores }
  cores : ∀ e, e ≠ t.iss.core → u.core e = t.core e
  core : u.core t.iss.core = { t.core t.iss.core with
    vfile := (u.core t.iss.core).vfile, badVec := (u.core t.iss.core).badVec, ctxs := (u.core t.iss.core).ctxs }
  ctxs : ∀ j, j ≠ t.iss.slot → u.ctx t.iss.core j = t.ctx t.iss.core j
  lanes : ∀ r < count, ∀ k < 1024 / bits, cell bits (u.vecNow (vd + r)) k =
    if m.testBit (r * (1024 / bits) + k) then f (r * (1024 / bits) + k) % 2 ^ bits else cell bits (t.vecNow (vd + r)) k
  rest : ∀ e, (∀ r < count, e ≠ t.me.win.vecBase + (vd + r)) →
    Tab.getD (u.core t.iss.core).vfile e 0 = Tab.getD (t.core t.iss.core).vfile e 0

/-- A vector instruction completes with its active elements written by a function of the sources and the element's index. -/
def Lanes (i : Instr) (ty : Ty) (m vd : Nat) (f : State → List Word → Nat → Nat) : Prop :=
  ∀ s vals t, Issues s i vals t → t.VecsPlain →
    ∃ u, Ends i s u ∧ LaneWrites t u ty.bits (t.maskSrc m) vd 1 (f t vals) ∧ u.me = { t.me with out := u.me.out }.complete t.nextPlace

/-- An instruction completes with mask register md written bit by bit, and nothing else changes. -/
def MaskBits (i : Instr) (md : Nat) (f : State → List Word → Nat → Prop) : Prop :=
  ∀ s vals t, Issues s i vals t → t.VecsPlain →
    ∃ u, Ends i s u ∧ OnlyCtx t.iss.core t.iss.slot t u ∧ u.me = { t.me with masks := u.me.masks }.complete t.nextPlace ∧
      (∀ n, n ≠ md → Tab.getD u.me.masks n 0 = Tab.getD t.me.masks n 0) ∧
      ∀ k < 128, (Tab.getD u.me.masks md 0).getLsbD k ↔ f t vals k

/-- An integer type's value of a code, and the code of an integer modulo its width (06 R140). -/
def intOf (ty : Ty) (c : Nat) : Int := if ty.signed then Int.bmod c (2 ^ ty.bits) else (c % 2 ^ ty.bits : Nat)
def leastOf (ty : Ty) : Int := if ty.signed then -2 ^ (ty.bits - 1) else 0
def greatestOf (ty : Ty) : Int := if ty.signed then 2 ^ (ty.bits - 1) - 1 else 2 ^ ty.bits - 1

/-! ### Queues and engines (03, 10, 11) -/

/-- An operation has joined MEQ with a fresh id, named for its thread, and the hedge's engine is told (11 R255); nothing else differs but
the thread's context. -/
structure Pushed (t u : State) (op : EngOp) : Prop where
  state : u = { t with cores := u.cores, hedges := u.hedges, net := t.net ++ [.engineCandidateStart (hedgeKey t.iss.core)] }
  cores : ∀ e, e ≠ t.iss.core → u.core e = t.core e
  core : u.core t.iss.core = { t.core t.iss.core with
    ctxs := (u.core t.iss.core).ctxs, q := { (t.core t.iss.core).q with meq := (t.core t.iss.core).q.meq ++ [op] } }
  ctxs : ∀ j, j ≠ t.iss.slot → u.ctx t.iss.core j = t.ctx t.iss.core j
  hedge : u.hedge (hedgeKey t.iss.core) = { t.hedge (hedgeKey t.iss.core) with nextOp := op.id + 1 }
  id : op.id = (t.hedge (hedgeKey t.iss.core)).nextOp
  who : op.core = t.iss.core ∧ op.slot = t.iss.slot ∧ op.asid = t.me.asid ∧ op.cls = t.me.cls ∧ (op.redun ↔ t.me.tstat.testBit 1)
  time : op.t0 = t.me.pt ∧ op.since = t.now
  new : op.started = false ∧ op.status = none ∧ op.task = none ∧ op.k = 0 ∧ op.phys = none

/-- A solving instruction (11 R276): once its solve is over (phase 2) it goes on; with its register loading it waits; else the register is
loading, the vector is sent to Hornbeam, and the thread waits for the solve. -/
def Solves (i : Instr) (s t : State) (wd : Nat) (ready : Prop) (idx : List Nat) : Prop :=
  let c := t.iss.core
  (t.me.phase = 2 → ∃ u, Ends i s u ∧ Moved t u t.nextPlace) ∧
  (ready → t.me.phase ≠ 2 → (Tab.getD (t.core c).regs.w wd {}).loading → Waits i s t (.loading wd)) ∧
  (ready → t.me.phase ≠ 2 → (Tab.getD (t.core c).regs.w wd {}).loading = false → ∃ u, Waits i s u .solve ∧ OnlyCore c { t with net := u.net } u ∧
    u.net = t.net ++ [.hornbeamSolveStart (hedgeKey c)] ∧
    (u.core c).units = { (t.core c).units with solves := (t.core c).units.solves ++ [{ wd := wd, idx := idx, slot := t.iss.slot }] } ∧
    (∀ n, Tab.getD (u.core c).regs.w n {} = if n = wd then { Tab.getD (t.core c).regs.w wd {} with loading := true }
      else Tab.getD (t.core c).regs.w n {}) ∧
    (u.core c).file = (t.core c).file ∧ (u.core c).vfile = (t.core c).vfile ∧ (u.core c).q = (t.core c).q ∧
    (∀ j, j ≠ t.iss.slot → u.ctx c j = t.ctx c j) ∧ u.me = { t.me with phase := 2 })

/-- A permutation register can be read as an index vector (03 R70, R71). -/
def ReadsW (t : State) (n : Nat) (idx : List Nat) : Prop :=
  let r := Tab.getD (t.core t.iss.core).regs.w n {}
  r.loading = false ∧ r.valid ∧ idx = r.idx.take r.n

/-- An index vector is a permutation of its positions; the cycle through a position has a length (11 R280). -/
def IsPerm (idx : List Nat) : Prop := idx.Nodup ∧ ∀ x ∈ idx, x < idx.length
def CycleLen (idx : List Nat) (x r : Nat) : Prop :=
  let f := fun y => idx.getD y 0
  1 ≤ r ∧ f^[r] x = x ∧ ∀ j, 1 ≤ j → j < r → f^[j] x ≠ x

/-! ### Threads that travel (02) -/

/-- A message of an ASID for a logical core reaches a core that takes it: its job's messages are not discarded, its name is in service and
the core runs (02 R34, R44, R52). No snapshot is open. -/
structure Reaches (s : State) (dst asid : Nat) : Prop where
  open_ : s.openSnap = none
  kept : s.dropsFor (dieOf dst) asid = false
  serves : (s.rename dst).st = 0
  runs : (s.core (s.phys dst)).csr.stopped = false

/-- Nothing of a class waits before an arrival of a core, nor in the overflow buffer, and the core admits it (02 R43, R44, R51). -/
def State.Admits (s : State) (c : Nat) (m : Travel) : Prop :=
  s.oldestWaiting c (groupOf m.cls) = none ∧ (s.core c).savedMoves (groupOf m.cls) = none ∧ s.diverted c = [] ∧
    s.jobStopped m.asid = false ∧
    ((s.core c).work.preempted = false ∨ m.cls = 0)

/-- A thread stands in a context as its message names it, trimmed to an entry descriptor (02 R41, R42): the live registers with their
values and full bits, every other register of its windows zero and full, the live masks, every other register zero. -/
structure Admitted (k : Core) (slot : Nat) (m : Travel) (desc : Nat) (w : Win) : Prop where
  place : (k.ctx slot).pc = { blk := m.dest / 512, off := m.dest % 512 }
  names : (k.ctx slot).asid = m.asid ∧ (k.ctx slot).cls = m.cls ∧ (k.ctx slot).pt = m.pt ∧ (k.ctx slot).link = m.link
  tstat : (k.ctx slot).tstat = (if m.rolled then 1 else 0) + if m.redun then 2 else 0
  win : (k.ctx slot).win = w
  zero : (k.ctx slot).h = [] ∧ (k.ctx slot).lc = 0 ∧ (k.ctx slot).la = 0 ∧ (k.ctx slot).out = [] ∧ (k.ctx slot).pipe = []
  live : ∀ i v, (i, v) ∈ m.regs → i < 16 → desc.testBit (16 + i) → i < 8 * (w.mainCode + 1) →
    Tab.getD k.file (w.mainBase + i) 0 = v ∧ (w.mainBase + i ∈ k.empty ↔ m.full.testBit i = false)
  dead : ∀ i, i < 8 * (w.mainCode + 1) → (∀ v, (i, v) ∈ m.regs → desc.testBit (16 + i) = false) →
    Tab.getD k.file (w.mainBase + i) 0 = 0 ∧ w.mainBase + i ∉ k.empty
  vectors : ∀ i < 4 * w.vecCode, Tab.getD k.vfile (w.vecBase + i) 0 = 0
  masks : ∀ j v, (j, v) ∈ m.masks → 1 ≤ j → j ≤ 7 → desc.testBit (8 + j) → Tab.getD (k.ctx slot).masks j 0 = v
  deadMasks : ∀ j, 1 ≤ j → j ≤ 7 → (∀ v, (j, v) ∈ m.masks → desc.testBit (8 + j) = false) → Tab.getD (k.ctx slot).masks j 0 = 0

/-! ### Faults (14) -/

/-- A record stands in a job's fault record (14 R320): the newest of its entries, and one more written. Where the job's ring is mapped, the entry's
doubles stand at its place and the head's two doubles follow. -/
structure Recorded (s u : State) (asid : Nat) (r : FaultRec) : Prop where
  entry : ∀ j, s.jobOf asid = some j → s.job j.num = some j →
    u.job j.num = some { j with faults := j.faults ++ [r], written := j.written + 1 }
  ring : ∀ j p, s.jobOf asid = some j → s.job j.num = some j → s.ozineAddr 0 (j.asids.headD 0) j.ring = some p →
    let a := p + 64 + 32 * (j.written % 2 ^ j.log2ring)
    u.mem.read a 8 = r.d0 % 2 ^ 64 ∧ u.mem.read (a + 8) 8 = r.d1 % 2 ^ 64 ∧ u.mem.read (a + 16) 8 = r.d2 % 2 ^ 64 ∧
      u.mem.read (a + 24) 8 = r.d3 % 2 ^ 64 ∧ u.mem.read p 8 = j.log2ring % 2 ^ 64 ∧ u.mem.read (p + 8) 8 = (j.written + 1) % 2 ^ 64 ∧
      ∀ b, (b < a ∨ a + 32 ≤ b) → (b < p ∨ p + 16 ≤ b) → u.mem.byte b = s.mem.byte b
  none : s.jobOf asid = none → u.jobs = s.jobs ∧ u.mem = s.mem

/-- A thread of slot 0 to 62, in no gang and no redundant pair, has taken a fault (14 R317): FCODE and FADDR, frozen, a kind-0 record; with
the job's fault policy 0 Ozine is told to end the job, and a kill of the core is posted where `kill` says. Nothing else of the machine
changes but the progress of the word in its context. -/
structure Frozen (s u : State) (c slot code detail : Nat) (second : Bool) (kill : List Instr) : Prop where
  state : u = { s with cores := u.cores, jobs := u.jobs, mem := u.mem, net := u.net, iss := u.iss }
  cores : ∀ e, e ≠ c → u.core e = s.core e
  core : u.core c = { s.core c with ctxs := (u.core c).ctxs }
  ctxs : ∀ j, j ≠ slot → u.ctx c j = s.ctx c j
  ctx : u.ctx c slot = { s.ctx c slot with
    fcode := code + (if second then 256 else 0), faddr := pa (s.ctx c slot).pc.blk (s.ctx c slot).pc.off, status := .frozen,
    out := (u.ctx c slot).out, latch := (u.ctx c slot).latch, latch1 := (u.ctx c slot).latch1, phase := 0, phase1 := 0, swapped := false,
    posted := none, badPages := [], tstat := (u.ctx c slot).tstat }
  tstat : ∀ n, (u.ctx c slot).tstat.testBit n ↔ (s.ctx c slot).tstat.testBit n ∧ n ≠ 3
  record : Recorded s u (s.ctx c slot).asid (faultRec 0 (s.ctx c slot).asid (s.tid c slot)
    ((code + (if second then 256 else 0)) * 2 ^ 48 + pa (s.ctx c slot).pc.blk (s.ctx c slot).pc.off) detail (s.ctx c slot).pt)
  net : u.net = s.net ++ (match s.jobOf (s.ctx c slot).asid with
    | some j => if j.policy = 0 then [.stop { die := 0, queue := 64, d := [BitVec.ofNat 64 (2 * 2 ^ 56 + (s.ctx c slot).asid), 0] }] else []
    | none => []) ++ kill

/-! ### Commands of the host (17) -/

/-- A command of Ozine's own or of another package, or one of a queue whose completion ring's capability holds (17 R373). -/
def CanAnswer (s : State) (cmd : HostCmd) : Prop :=
  let q := s.queue cmd.die cmd.queue
  64 ≤ cmd.queue ∨ s.capOk q q.cplCap 2 true (ringPlace q.cplCap 16 q.cplTail) 16

/-- A command gets its completion entry (17 R374): its tag and a status at the tail of its queue's completion ring, which advances. Commands of
Ozine's own and of other packages get none. -/
def Answered (s u : State) (cmd : HostCmd) (status : Nat) : Prop :=
  let q := s.queue cmd.die cmd.queue
  let a := ringPlace q.cplCap 16 q.cplTail
  (64 ≤ cmd.queue → u = s) ∧
  (cmd.queue < 64 → u = { s with mem := u.mem, host := u.host } ∧ u.mem.read a 8 = (cmd.d.getD 5 0).toNat ∧ u.mem.read (a + 8) 8 = status ∧
    (∀ b, b < a ∨ a + 16 ≤ b → u.mem.byte b = s.mem.byte b) ∧ u.host = { s.host with queues := u.host.queues, answers := u.host.answers } ∧
    u.queue cmd.die cmd.queue = { q with cplTail := q.cplTail + 1 } ∧
    u.host.answers = s.host.answers ++ [(cmd.die, cmd.queue, cmd.d.getD 5 0, status)])

/-- What reading sources may leave behind: queue registers popped, free values taken, and in the thread itself a popped
entry's latch, PT, an observation behind its accesses, and the results that a read has seen. -/
structure ReadFrame (c slot : Nat) (s t : State) : Prop where
  state : t = { s with cores := t.cores, free := t.free }
  cores : ∀ e, e ≠ c → t.core e = s.core e
  core : t.core c = { s.core c with q := (t.core c).q, ctxs := (t.core c).ctxs }
  ctxs : ∀ j, j ≠ slot → t.ctx c j = s.ctx c j
  ctx : t.ctx c slot = { s.ctx c slot with
    out := (t.ctx c slot).out, pt := (t.ctx c slot).pt, pipe := (t.ctx c slot).pipe, latch := (t.ctx c slot).latch }

end Sys2Proof.Machine
end

