-- ==== Sys2Proof/Certificates/Slice0/Obligations.lean ====
section
/-! DEFINITION. The statements for the provers: the numbered rules of the spec, formalised. -/

open Sys2Proof Sys2Proof.Machine

/-! ### Scalar arithmetic (09) -/

/-- 09 R204: what the instructions with two sources write to d, x and y being the values of a and b.
09 R205 and R206: immediate operands, shifts by a constant, and constants. LIS reads d as its source. -/
def Obligations.ScalarResults : Prop :=
   (∀ d a b : Operand,
      Results (.add d a b) d (fun v => BitVec.ofNat 64 ((val0 v).toNat + (val1 v).toNat)) ∧
      Results (.sub d a b) d (fun v => BitVec.ofInt 64 ((val0 v).toInt - (val1 v).toInt)) ∧
      Results (.mul d a b) d (fun v => BitVec.ofNat 64 ((val0 v).toNat * (val1 v).toNat)) ∧
      Results (.mulhS64 d a b) d (fun v => BitVec.ofInt 64 ((val0 v).toInt * (val1 v).toInt / 2 ^ 64)) ∧
      Results (.mulhN64 d a b) d (fun v => BitVec.ofNat 64 ((val0 v).toNat * (val1 v).toNat / 2 ^ 64)) ∧
      Results (.and d a b) d (fun v => BitVec.ofFnLE fun i : Fin 64 => (val0 v).getLsbD i && (val1 v).getLsbD i) ∧
      Results (.or d a b) d (fun v => BitVec.ofFnLE fun i : Fin 64 => (val0 v).getLsbD i || (val1 v).getLsbD i) ∧
      Results (.xor d a b) d (fun v => BitVec.ofFnLE fun i : Fin 64 => (val0 v).getLsbD i ^^ (val1 v).getLsbD i) ∧
      Results (.shl d a b) d (fun v => BitVec.ofNat 64 ((val0 v).toNat * 2 ^ ((val1 v).toNat % 64))) ∧
      Results (.shrN64 d a b) d (fun v => BitVec.ofNat 64 ((val0 v).toNat / 2 ^ ((val1 v).toNat % 64))) ∧
      Results (.shrS64 d a b) d (fun v => BitVec.ofInt 64 ((val0 v).toInt / 2 ^ ((val1 v).toNat % 64))) ∧
      Results (.sltS64 d a b) d (fun v => if (val0 v).toInt < (val1 v).toInt then 1 else 0) ∧
      Results (.sltN64 d a b) d (fun v => if (val0 v).toNat < (val1 v).toNat then 1 else 0) ∧
      Results (.seq d a b) d (fun v => if val0 v = val1 v then 1 else 0)) ∧
   ((∀ (d a : Operand) (imm : BitVec 8), Results (.addi d a imm) d (fun v => BitVec.ofInt 64 ((val0 v).toInt + imm.toInt))) ∧
    (∀ (d a : Operand) (n : Fin 64),
      Results (.shli d a n) d (fun v => BitVec.ofNat 64 ((val0 v).toNat * 2 ^ n.val)) ∧
      Results (.shriN64 d a n) d (fun v => BitVec.ofNat 64 ((val0 v).toNat / 2 ^ n.val)) ∧
      Results (.shriS64 d a n) d (fun v => BitVec.ofInt 64 ((val0 v).toInt / 2 ^ n.val)) ∧
      Results (.rotri d a n) d (fun v =>
        if n.val = 0 then val0 v
        else BitVec.ofNat 64 ((val0 v).toNat % 2 ^ n.val * 2 ^ (64 - n.val) + (val0 v).toNat / 2 ^ n.val))) ∧
    (∀ (d : Operand) (imm : BitVec 16),
      Results (.li d imm) d (fun _ => BitVec.ofInt 64 imm.toInt) ∧
      sources (.lis d imm) = [d] ∧
      Results (.lis d imm) d (fun v => BitVec.ofNat 64 ((val0 v).toNat % 2 ^ 48 * 2 ^ 16 + imm.toNat))))

/-- 09 R207: bit fields. `l` and `w` are the descriptor's fields, the width cut at bit 63; BFI reads a, b, and then d.
09 R208: the functions of one source. -/
def Obligations.FieldResults : Prop :=
   (∀ d a b : Operand,
      let low := fun (x : Word) => x.toNat % 64
      let width := fun (x : Word) => min (x.toNat / 64 % 64 + 1) (64 - low x)
      Results (.bfx d a b) d (fun v =>
        let f := (val0 v).toNat / 2 ^ low (val1 v) % 2 ^ width (val1 v)
        if (val1 v).getLsbD 12 ∧ 2 ^ (width (val1 v) - 1) ≤ f then BitVec.ofInt 64 ((f : Int) - 2 ^ width (val1 v))
        else BitVec.ofNat 64 f) ∧
      sources (.bfi d a b) = [a, b, d] ∧
      Results (.bfi d a b) d (fun v => BitVec.ofFnLE fun i : Fin 64 =>
        if low (val1 v) ≤ i.val ∧ i.val < low (val1 v) + width (val1 v) then (val0 v).getLsbD (i - low (val1 v))
        else ((v.drop 2).headD 0).getLsbD i)) ∧
   (∀ d a : Operand,
      Results (.mov d a) d (fun v => val0 v) ∧
      Results (.not d a) d (fun v => BitVec.ofFnLE fun i : Fin 64 => !(val0 v).getLsbD i) ∧
      Results (.neg d a) d (fun v => BitVec.ofInt 64 (-(val0 v).toInt)) ∧
      Results (.absS64 d a) d (fun v => BitVec.ofNat 64 (val0 v).toInt.natAbs) ∧
      Results (.popc d a) d (fun v => BitVec.ofNat 64 ((List.range 64).countP fun i => (val0 v).getLsbD i)) ∧
      Results (.clz d a) d (fun v => BitVec.ofNat 64 ((List.range 64).countP fun i => (val0 v).toNat < 2 ^ i)) ∧
      Results (.ctz d a) d (fun v => BitVec.ofNat 64 ((List.range 64).countP fun i => (val0 v).toNat % 2 ^ (i + 1) = 0)) ∧
      Results (.bswap d a) d (fun v => BitVec.ofFnLE fun i : Fin 64 => (val0 v).getLsbD (8 * (7 - i / 8) + i % 8)) ∧
      Results (.brev d a) d (fun v => BitVec.ofFnLE fun i : Fin 64 => (val0 v).getLsbD (63 - i)) ∧
      Results (.sextS8 d a) d (fun v => BitVec.ofInt 64 (Int.bmod (val0 v).toNat (2 ^ 8))) ∧
      Results (.sextS16 d a) d (fun v => BitVec.ofInt 64 (Int.bmod (val0 v).toNat (2 ^ 16))) ∧
      Results (.sextS32 d a) d (fun v => BitVec.ofInt 64 (Int.bmod (val0 v).toNat (2 ^ 32))) ∧
      Results (.zextN8 d a) d (fun v => BitVec.ofNat 64 ((val0 v).toNat % 2 ^ 8)) ∧
      Results (.zextN16 d a) d (fun v => BitVec.ofNat 64 ((val0 v).toNat % 2 ^ 16)) ∧
      Results (.zextN32 d a) d (fun v => BitVec.ofNat 64 ((val0 v).toNat % 2 ^ 32)))

/-! ### Control (08) -/

/-- 08 R173: every branch. BFULL and BEMPTY test the full bit as it stands. -/
def Obligations.BranchesTaken : Prop :=
  ∀ (a : Operand) (g : Fin 128) (off : Fin 512),
    Branches (.br off) off (fun _ _ => True) ∧
    Branches (.beqz a off) off (fun _ v => val0 v = 0) ∧
    Branches (.bnez a off) off (fun _ v => val0 v ≠ 0) ∧
    Branches (.bltz a off) off (fun _ v => (val0 v).toInt < 0) ∧
    Branches (.bgez a off) off (fun _ v => 0 ≤ (val0 v).toInt) ∧
    Branches (.bgtz a off) off (fun _ v => 0 < (val0 v).toInt) ∧
    Branches (.blez a off) off (fun _ v => (val0 v).toInt ≤ 0) ∧
    Branches (.bfull g off) off (fun s _ =>
      ((s.view s.iss.core).ctx s.iss.slot).win.mainBase + g.val ∉ (s.view s.iss.core).empty) ∧
    Branches (.bempty g off) off (fun s _ =>
      ((s.view s.iss.core).ctx s.iss.slot).win.mainBase + g.val ∈ (s.view s.iss.core).empty)

/-- 08 R174 to R176: jumps, calls and returns, the register forms by their operand, RET by LINK, the J forms by an entry descriptor
that the core knows of the block at a distance from the thread's own.
08 R174: a J form's target block below 1 or above 0xFFFFFF, or an entry index at or above the count of a block that is held, is the
entry fault with the J-form detail word. -/
def Obligations.TransfersGo : Prop :=
   ((∀ a, Transfers (.jmpr a) 0 (fun _ v d => d = (val0 v).toNat)) ∧
    (∀ a, Transfers (.callr a) 1 (fun _ v d => d = (val0 v).toNat)) ∧
    Transfers .ret 2 (fun s _ d => d = s.me.link % 2 ^ 64) ∧
    (∀ (kind : Nat) (i : Instr) (e : Fin 16) (delta : BitVec 20), (kind = 0 ∧ i = .jmp e delta) ∨ (kind = 1 ∧ i = .call e delta) →
      Transfers i kind (fun s _ d => ∃ (b o : Nat) (descs : List Nat), (b : Int) = s.me.pc.blk + delta.toInt ∧ 1 ≤ b ∧ b ≤ 0xFFFFFF ∧
        (if b = s.me.pc.blk then (∃ p, (s.core s.iss.core).placedBlock s.me.asid b = some p ∧ p.descs = descs)
         else (s.core s.iss.core).lists s.me.asid b descs) ∧
        (∃ desc, descs[e.val]? = some desc ∧ desc % 512 = o) ∧ d = b * 512 + o))) ∧
   (∀ (i : Instr) (e : Fin 16) (delta : BitVec 20), (i = .jmp e delta ∨ i = .call e delta ∨ i = .fork e delta) →
      ∀ s vals t, Issues s i vals t →
        let bt : Int := t.me.pc.blk + delta.toInt
        let detail := 2 ^ 63 + e.val * 2 ^ 36 + (bt % 2 ^ 36).toNat
        (bt < 1 ∨ 0xFFFFFF < bt → Faults i s fcEntry detail false) ∧
        (∀ p, 1 ≤ bt → bt ≤ 0xFFFFFF → bt = t.me.pc.blk → (t.core t.iss.core).placedBlock t.me.asid bt.toNat = some p →
          p.descs.length ≤ e.val → Faults i s fcEntry detail false) ∧
        (∀ descs, 1 ≤ bt → bt ≤ 0xFFFFFF → bt ≠ t.me.pc.blk → t.iss.slot ≠ 63 → (t.core t.iss.core).lists t.me.asid bt.toNat descs →
          descs.length ≤ e.val → Faults i s fcEntry detail false))

/-- 08 R180: RDW and RDWC wait while the register is empty; once it is full its value goes to d, and RDWC empties it before d is
written, so that a d equal to the register ends full.
08 R179; 05 R129: JOIN reads the counter as a double through bf0: an address above 2^48 is the translation fault, a misaligned one the
alignment fault; where the counter is found the thread parks on it and its load is asked for; a thread that the counter's zero has
released goes on. The wake at the counter's home has every thread parked on it load it again, and tells the scheduler of its records. -/
def Obligations.WaitingReads : Prop :=
   (∀ (d : Operand) (a : Fin 128) (clear : Bool) (i : Instr), i = (if clear then .rdwc d a else .rdw d a) →
      ∀ s vals t, Issues s i vals t →
        let e := t.me.win.mainBase + a.val
        let y := (t.view t.iss.core).ctx t.iss.slot
        (t.me.phase ≠ 2 → e ∈ (t.core t.iss.core).empty → Waits i s t (.full a)) ∧
        (t.me.phase ≠ 2 → e ∉ (t.core t.iss.core).empty → y.pendFor (.g a) = none → (∀ n, d ≠ .q n) →
          ∃ t' : State, t' = { t with cores := t'.cores } ∧ (∀ c, c ≠ t.iss.core → t'.core c = t.core c) ∧
            t'.core t.iss.core = { t.core t.iss.core with empty := (t'.core t.iss.core).empty } ∧
            (∀ x, x ∈ (t'.core t.iss.core).empty ↔ x ∈ (t.core t.iss.core).empty ∨ clear ∧ x = e) ∧
            Yields i d (Tab.getD (t.view t.iss.core).file (y.win.mainBase + a.val) 0) s t')) ∧
   ((∀ a s vals t, Issues s (.join a) vals t →
      let c := t.iss.core
      let slot := t.iss.slot
      let va := (val0 vals).toNat
      let found := t.withPoison c slot 8 .load va (t.locate c t.me.asid t.me.cls flatRecord (val0 vals).toInt 8 8 .load true)
      (t.me.phase = 2 → ∃ u : State, Ends (.join a) s u ∧ Moved t u t.nextPlace) ∧
      (t.me.phase ≠ 2 → 2 ^ 48 ≤ va → Faults (.join a) s fcTranslation va false) ∧
      (t.me.phase ≠ 2 → va < 2 ^ 48 → va % 8 ≠ 0 → Faults (.join a) s fcAlignment va false) ∧
      (∀ rank code d g, t.me.phase ≠ 2 → found = .fault rank code d g → Faults (.join a) s code d g) ∧
      (∀ rank w, t.me.phase ≠ 2 → found = .hold rank w → Waits (.join a) s t w) ∧
      (∀ pa pol, t.me.phase ≠ 2 → found = .at_ pa pol none → t.me.pipe = [] → Missing t pa → ∃ (u : State) (b : Access),
        Waits (.join a) s u (.join pa) ∧ u = { t with cores := u.cores, hedges := u.hedges, net := u.net } ∧ u.mem = t.mem ∧
        u.net = t.net ++ [.fillRequest c slot (pa / 128)] ∧ b.join = some pa ∧ b.line = pa / 128 ∧ b.kind = .load ∧
        b.segs = [(pa % 128 * 8, 64, 0)] ∧ u.me = { t.me with phase := 1, pipe := [b] })) ∧
    (∀ (die addr : Nat) (s : State), (∀ j ∈ (s.die die).joiners, j.1 = addr → j.2.1 = schedWaiter) → ∃ u : State,
      exec (.joinWake die addr) s = .next u ∧ u = { s with dies := u.dies, net := u.net } ∧
      (u.die die).joiners = (s.die die).joiners.filter (fun j => j.1 ≠ addr) ∧
      u.net = s.net ++ ((s.die die).joiners.filter fun j => j.1 = addr).map fun j => .counterZeroWake die j.2.2.2) ∧
    (∀ (die addr c slot va : Nat) (s : State), (s.die die).joiners = [(addr, c, slot, va)] → c ≠ schedWaiter →
      (s.ctx c slot).status = .parked (.join addr) → (s.ctx c slot).pipe = [] → isSramLine (addr / 128) = false →
      (∀ l ∈ (s.core c).cache, l.line ≠ addr / 128) → (∀ l ∈ (s.hedge (hedgeKey c)).victim, l.line ≠ addr / 128) → ∃ (u : State) (b : Access),
      exec (.joinWake die addr) s = .next u ∧ (u.die die).joiners = [] ∧ u.mem = s.mem ∧
      u.net = s.net ++ [.fillRequest c slot (addr / 128)] ∧ b.join = some addr ∧ b.forced ∧ b.line = addr / 128 ∧
      u.ctx c slot = { s.ctx c slot with pipe := [b] }))

/-- 08 R197, R189, R191; 03 R63: NOP does nothing; KSYNC waits until every k write and record change of the core is 8 cycles old; IDLE
waits for 1,024 cycles unless a queue holds an entry; the three timed waits end at their cycle and no sooner.
08 R190: WAITX goes on once the channel's watermark has reached the id, and observes the completions below it; else it waits. -/
def Obligations.TimedWaits : Prop :=
   ((∀ s vals t, Issues s .nop vals t → ∃ u : State, Ends .nop s u ∧ Moved t u t.nextPlace) ∧
    (∀ s vals t, Issues s .ksync vals t →
      let regs := (t.core t.iss.core).regs
      let old := fun (now : Nat) => (∀ r ∈ regs.kOld, r.at_ + 8 ≤ now) ∧ (∀ r ∈ regs.bufOld, r.at_ + 8 ≤ now)
      (t.me.phase = 1 ∨ old t.now → ∃ u : State, Ends .ksync s u ∧ Moved t u t.nextPlace) ∧
      (t.me.phase = 0 → ¬ old t.now → ∃ (u : State) (n : Nat), Waits .ksync s u (.cycle n) ∧ t.now < n ∧ old n ∧ ¬ old (n - 1) ∧
        u = { t with cores := u.cores, timers := u.timers } ∧ (n, .ksyncResume t.iss.core t.iss.slot) ∈ u.timers ∧
        u.me = { t.me with phase := 1 })) ∧
    (∀ s vals t, Issues s .idle vals t →
      let q := (t.core t.iss.core).q
      (t.me.phase = 1 ∨ q.inq ≠ [] ∨ q.evq ≠ [] ∨ q.msq ≠ [] → ∃ u : State, Ends .idle s u ∧ Moved t u t.nextPlace) ∧
      (t.me.phase = 0 → q.inq = [] → q.evq = [] → q.msq = [] → ∃ u : State, Waits .idle s u (.idle (t.now + 1024)) ∧
        u = { t with cores := u.cores, timers := u.timers } ∧ (t.now + 1024, .idleTimeout t.iss.core t.iss.slot) ∈ u.timers ∧
        u.me = { t.me with phase := 1 })) ∧
    (∀ (s : State) (c slot n : Nat) (i : Instr) (w : Wait), (i = .ksyncResume c slot ∧ w = .cycle n) ∨
        (i = .pcycPidxResume c slot ∧ w = .cycle n) ∨ (i = .idleTimeout c slot ∧ w = .idle n) → (s.ctx c slot).status = .parked w →
      ∃ u : State, exec i s = .next u ∧ OnlyCtx c slot s u ∧
        u.ctx c slot = { s.ctx c slot with status := if n ≤ s.now then .ready else .parked w })) ∧
   (∀ (a : Operand) (ch : Fin 4) s vals t, Issues s (.waitx a ch) vals t →
      let k := t.core t.iss.core
      let g := (val0 vals).toNat % 2 ^ 48
      let done := (((Tab.getD k.units.cpdone ch 0 : Nat) : Int) - (g : Nat)) % 2 ^ 48 < 2 ^ 47
      (done → ∃ (u : State) (y : Ctx), Ends (.waitx a ch) s u ∧ OnlyCtx t.iss.core t.iss.slot t u ∧
        Observes t.me y (Tab.getD k.units.cpTc ch 0) ∧ u.me = y.complete t.nextPlace) ∧
      (¬ done → Waits (.waitx a ch) s t (.watermark ch g)))

/-- 08 R192 to R195: FENCEB, TRAP, SNAP and YIELD. A TRAP or SNAP that has been answered (phase 2) goes on; before that it waits as
FENCEB, or as at a switch marker, and then passes its record or its tag on and parks. A YIELD with no interrupt pending, or in a
class-0 thread, goes on; else its context is saved with the address of the next word.
08 R178: END waits until the thread has settled; then its context is free, and where nothing waits for one nothing else of the
core's threads changes. On the porter it completes the handler, and a landing packet's transfer is told. -/
def Obligations.FencesAndRequests : Prop :=
   ((∀ s vals t, Issues s .fenceb vals t →
      (Fenced t → ∃ (u : State) (y : Ctx), Ends .fenceb s u ∧ OnlyCtx t.iss.core t.iss.slot t u ∧ FenceSeen t y ∧ u.me = y.complete t.nextPlace) ∧
      (¬ Fenced t → Waits .fenceb s t .fence)) ∧
    (∀ a s vals t, Issues s (.trap a) vals t →
      (t.me.phase = 2 → ∃ u : State, Ends (.trap a) s u ∧ Moved t u t.nextPlace) ∧
      (t.me.phase ≠ 2 → ¬ Fenced t → Waits (.trap a) s t .fence) ∧
      (t.me.phase ≠ 2 → Fenced t → ∃ (u : State) (y : Ctx), Waits (.trap a) s u .accept ∧ u = { t with cores := u.cores, net := u.net } ∧
        u.net = t.net ++ [.trapRecordAccept t.iss.core t.iss.slot
          { tid := t.tid t.iss.core t.iss.slot, asid := t.me.asid, cls := t.me.cls, next := t.nextPlace.addr, arg := val0 vals }] ∧
        FenceSeen t y ∧ u.me = { y with phase := 1 })) ∧
    (∀ a s vals t, Issues s (.snap a) vals t →
      (t.me.phase = 2 → ∃ u : State, Ends (.snap a) s u ∧ Moved t u t.nextPlace) ∧
      (t.me.phase ≠ 2 → ¬ Returned t → Waits (.snap a) s t .marker) ∧
      (t.me.phase ≠ 2 → Returned t → ∃ u : State, Waits (.snap a) s u .accept ∧ u = { t with cores := u.cores, net := u.net } ∧
        u.net = t.net ++ [.snapRequest t.iss.core t.iss.slot ((val0 vals).toNat % 2 ^ 32)] ∧ u.me = { t.me with phase := 1 })) ∧
    (∀ s vals t, Issues s .yield vals t →
      (¬ Returned t → Waits .yield s t .marker) ∧
      (Returned t → .meshInterrupt t.iss.core ∉ t.net ∨ t.me.cls = 0 → ∃ u : State, Ends .yield s u ∧ Moved t u t.nextPlace) ∧
      (Returned t → .meshInterrupt t.iss.core ∈ t.net → t.me.cls ≠ 0 → ∃ (u : State) (v : SavedCtx), exec .yield s = .next u ∧
        u.ctx t.iss.core t.iss.slot = {} ∧ Tab.get? (u.core t.iss.core).work.saved t.iss.slot = some v ∧
        SavedFrom (t.core t.iss.core) t.me v ∧ v.ctx.pc = t.nextPlace ∧ u.mem = t.mem))) ∧
   (∀ s vals t, Issues s .endThread vals t →
      let k := t.core t.iss.core
      (¬ Settled t → Waits .endThread s t .settle) ∧
      (Settled t → t.iss.slot ≠ 63 → t.me.gang = [] → k.NoneWaits → ∃ u : State, exec .endThread s = .next u ∧
        u.ctx t.iss.core t.iss.slot = {} ∧ (∀ j, j ≠ t.iss.slot → u.ctx t.iss.core j = t.ctx t.iss.core j) ∧
        (u.core t.iss.core).file = k.file ∧ (u.core t.iss.core).units = k.units ∧ (∀ c, c ≠ t.iss.core → u.core c = t.core c) ∧
        u.mem = t.mem ∧ u.net = t.net) ∧
      (Settled t → t.iss.slot = 63 → ∃ u : State, exec .endThread s = .next u ∧ u.ctx t.iss.core 63 = {} ∧
        (u.core t.iss.core).work.porter = none ∧ .porterHandlerStart t.iss.core ∈ u.net ∧
        (∀ i l, k.work.porter = some i → i.land = some l → chipOf l.core = t.chip t.me.asid →
          .copyPacketLanding (t.phys l.core) l.chan l.id l.pkt ∈ u.net) ∧ u.mem = t.mem))

/-- 08 R182: SEND and SENDU check the target's logical core id, wait until the thread has settled, and send one message at the
thread's time: on the package it joins the messages in flight, for another chip of the job it leaves the package, or returns where the
link to that chip has failed (14 R325). -/
def Obligations.SendsLeave : Prop :=
  ∀ (a b : Operand) (unaddressed : Bool) (i : Instr), i = (if unaddressed then .sendu a b else .send a b) →
    ∀ s vals t, Issues s i vals t →
      let dst := (val0 vals).toNat / 2 ^ 14 % 2 ^ 24
      let ok := dst % 8 = 0 ∧ dst / 8 % 32 ≤ 15 ∧ dst / 2 ^ 16 % 2 ^ 8 < t.chips t.me.asid
      (¬ ok → Faults i s fcCoreId dst false) ∧
      (ok → ¬ Settled t → Waits i s t .settle) ∧
      (ok → Settled t → ∃ (u : State) (m : SendMsg), Ends i s u ∧ u = { t with cores := u.cores, yew := u.yew, net := u.net, outbox := u.outbox } ∧
        u.me = { t.me with pt := t.me.pt + 1 }.complete t.nextPlace ∧
        m = { unaddressed := unaddressed, tgt := val0 vals, v := val1 vals, tid := t.tid t.iss.core t.iss.slot, asid := t.me.asid,
              cls := t.me.cls, ts := t.me.pt, cut := t.cutBit t.iss.core t.me.asid } ∧
        (let arrival := if unaddressed then Instr.senduArrival m else .sendArrival m
         if dst / 2 ^ 16 % 2 ^ 8 = t.chip t.me.asid then u.net = t.net ++ [arrival] ∧ u.outbox = t.outbox
         else if t.linkDown t.me.asid dst then u.net = t.net ++ [.returnedSend m] ∧ u.outbox = t.outbox
         else u.outbox = t.outbox ++ [⟨dst / 2 ^ 16 % 2 ^ 8, arrival⟩] ∧ u.net = t.net))

/-- 03 R74, R75; 08 R188: what CSRRD gives of each status register; a read of a channel's watermark observes its completions (12
R292). CSRWR writes LINK from bits [32:0] and clears RB with a 1 in bit [0]; a write of any other register is the privilege fault. -/
def Obligations.StatusRegisters : Prop :=
  (∀ (d : Operand) (n : BitVec 12) s vals t, Issues s (.csrrd d n) vals t → (∀ m, d ≠ .q m) →
    let k := t.core t.iss.core
    let x := t.me
    (∀ e ∈ [(0x000, t.tid t.iss.core t.iss.slot), (0x001, x.pt), (0x002, x.asid), (0x003, x.cls), (0x004, x.link), (0x005, x.tstat),
        (0x006, x.win.vecBase * 2 ^ 24 + x.win.vecCode * 2 ^ 16 + x.win.mainBase * 2 ^ 4 + x.win.mainCode), (0x007, x.fcode),
        (0x008, x.faddr), (0x100, k.csr.lsplit), (0x101, k.csr.vgroup), (0x102, k.csr.dbgctl), (0x103, k.csr.shasid), (0x110, 1024),
        (0x111, 0x0808102004100808), (0x112, t.now - k.csr.cycle0), (0x200, (t.hedge (t.iss.core / 256 % 256)).mecheck),
        (0x300, (t.die (t.iss.core / 8192 % 8)).sparefree), (0xF00, 0x040203FF), (0xF01, 0x024000400C102008), (0xF02, 0), (0xF03, 0),
        (0xF04, t.host.fver)],
      n.toNat = e.1 → Yields (.csrrd d n) d (BitVec.ofNat 64 e.2) s t) ∧
    (∀ ch < 4, n.toNat = 0x104 + ch → ∃ t' : State, OnlyCtx t.iss.core t.iss.slot t t' ∧
      (match Tab.get? k.units.cpTc ch with
        | some tc => Observes t.me t'.me tc
        | none => t' = t) ∧
      Yields (.csrrd d n) d (BitVec.ofNat 64 (Tab.getD k.units.cpdone ch 0)) s t')) ∧
  (∀ (a : Operand) (n : BitVec 12) s vals t, Issues s (.csrwr a n) vals t →
    (n.toNat = 4 → ∃ u : State, Ends (.csrwr a n) s u ∧ OnlyCtx t.iss.core t.iss.slot t u ∧
      u.me = { t.me with link := (val0 vals).toNat % 2 ^ 33 }.complete t.nextPlace) ∧
    (n.toNat = 5 → ∃ u : State, Ends (.csrwr a n) s u ∧ OnlyCtx t.iss.core t.iss.slot t u ∧
      u.me = { t.me with tstat := if (val0 vals).toNat % 2 = 1 then t.me.tstat / 2 * 2 else t.me.tstat }.complete t.nextPlace)) ∧
  (∀ (a : Operand) (n : BitVec 12) (s : State), n.toNat ≠ 4 → n.toNat ≠ 5 → wellFormed (.csrwr a n) → s.me.status = .ready → s.me.phase ≠ 3 →
    Faults (.csrwr a n) s fcPrivilege 0 false)

/-! ### Loads, stores and atomics (04, 09, 12) -/

/-- 04 R99, R105, R107: finding where an access goes changes nothing but the TLBs' order, the results that a read of the record has
seen, and the count of free values. -/
def Obligations.LocatingChanges : Prop :=
  ∀ t u bf n kind f v found, Locates t u bf n kind f v found →
    let c := t.iss.core
    u = { t with cores := u.cores, hedges := u.hedges, free := u.free } ∧
    (∀ e, e ≠ c → u.core e = t.core e) ∧ u.core c = { t.core c with ctxs := (u.core c).ctxs, tlb := (u.core c).tlb } ∧
    (∀ h, u.hedge h = { t.hedge h with l2tlb := (u.hedge h).l2tlb }) ∧
    (∀ j, j ≠ t.iss.slot → u.ctx c j = t.ctx c j) ∧ u.me = { t.me with out := u.me.out }

/-- 09 R209, R211, R212; 04 R100; 12 R283, R285: the scalar loads. A load through an invalid record, and one that is found to fault or to
wait, does so; with 8 results outstanding it waits; else its result is outstanding. One that reads as zero, or whose bytes stand in an
SRAM, has its bits at once and returns by a later step; of a line held nowhere near they are asked for; for one of another core's SRAM
(named by its logical id) the thread waits until that core has performed it, and then any word's thread goes on (04 R98; 14 R316). -/
def Obligations.LoadsBegin : Prop :=
  (∀ (i : Instr) (s : State), encode i ≠ none → s.me.status = .ready → s.me.phase = 3 → ∃ u : State, Ends i s u ∧ Moved s u s.nextPlace) ∧
  ∀ (x idx : Operand) (bf : Fin 64) (sz : Fin 4) (f : OffForm) (signed : Bool) (i : Instr),
    (i, f, signed) ∈ [(Instr.ldN x bf sz idx, OffForm.byte, false), (.ldS x bf sz idx, .byte, true), (.ldeN x bf sz idx, .one, false),
      (.ldeS x bf sz idx, .one, true), (.ldxN x bf sz idx, .two, false), (.ldxS x bf sz idx, .two, true)] →
    ∀ s vals t, Issues s i vals t →
      let c := t.iss.core
      let slot := t.iss.slot
      let n := 2 ^ sz.val
      let place := fun (u : State) (found : Found) => Locates t u bf n .load f (val0 vals) found
      (∀ w, t.record? c slot bf = (none, w) → Faults i s fcBufRec bf false) ∧
      (∀ u rank code d g, place u (.fault rank code d g) → Faults i s code d g) ∧
      (∀ u rank w, place u (.hold rank w) → Waits i s u w) ∧
      (∀ u addr pol o, place u (.at_ addr pol o) → 8 ≤ u.me.unreturned → Waits i s u .limit) ∧
      (∀ u, place u .drop → u.me.unreturned < 8 → u.me.pipe = [] → ∃ (v : State) (p : Pending), Ends i s v ∧ OnlyCtx c slot { u with net := v.net } v ∧
        v.net = u.net ++ [.loadReturn c slot p.seq] ∧ Begun u p .load (destOf x) n signed ∧ p.left = 0 ∧ p.acc = 0 ∧
        v.me = { u.me with out := u.me.out ++ [p], pt := u.me.pt + 1 }.complete t.nextPlace) ∧
      (∀ u addr pol, place u (.at_ addr pol none) → u.me.unreturned < 8 → u.me.pipe = [] → SramReady u addr n → addr % 128 + n ≤ 128 → u.mem.wf →
        ∃ (v : State) (p : Pending), Ends i s v ∧ OnlyCtx c slot { u with net := v.net, sramT := v.sramT } v ∧
          v.net = u.net ++ [.loadReturn c slot p.seq] ∧ Begun u p .load (destOf x) n signed ∧ p.left = 0 ∧ p.acc = u.mem.read addr n ∧
          v.me = { u.me with out := u.me.out ++ [p], pt := max u.me.pt (Tab.getD u.sramT (addr / 128) (0, 0)).1 + 1 }.complete t.nextPlace) ∧
      (∀ u addr pol, place u (.at_ addr pol none) → u.me.unreturned < 8 → u.me.pipe = [] → addr % 128 + n ≤ 128 → Missing u addr →
        ∃ (v : State) (p : Pending) (a : Access), Ends i s v ∧ OnlyCtx c slot { u with net := v.net } v ∧
          v.net = u.net ++ [.fillRequest c slot (addr / 128)] ∧
          Begun u p .load (destOf x) n signed ∧ p.left = 1 ∧ p.acc = 0 ∧ a.seq = p.seq ∧ a.line = addr / 128 ∧ a.kind = .load ∧
          a.segs = [(addr % 128 * 8, 8 * n, 0)] ∧ a.owner = none ∧ a.pol = pol ∧
          v.me = { u.me with out := u.me.out ++ [p], pipe := [a] }.complete t.nextPlace) ∧
      (∀ u addr pol q, place u (.at_ addr pol (some q)) → u.me.unreturned < 8 → u.me.pipe = [] → ownerOffset u q addr % 128 + n ≤ 128 →
        u.coreId u.me.asid q < 2 ^ 30 → ∃ (v : State) (p : Pending) (a : Access), Waits i s v .performed ∧ OnlyCtx c slot { u with net := v.net } v ∧
          v.net = u.net ++ [.remotePrivateRequest c slot] ∧ Begun u p .load (destOf x) n signed ∧ p.left = 1 ∧ p.acc = 0 ∧ a.seq = p.seq ∧
          a.line = ownerOffset u q addr / 128 ∧ a.kind = .load ∧ a.segs = [(ownerOffset u q addr % 128 * 8, 8 * n, 0)] ∧
          a.owner = some (u.coreId u.me.asid q) ∧ a.pol = pol ∧ v.me = { u.me with out := u.me.out ++ [p], pipe := [a], phase := 3 })

/-- 09 R209, R211, R212; 04 R100; 12 R283, R286: the scalar stores. The value's low bytes go to the address found: at once where they stand
in an SRAM, every other byte of memory being left alone; ownership of any other line is asked for first, and a dropped store touches
nothing.
09 R215 to R217; 12 R286: the atomics. One access reads the old value, which is the outstanding result, and writes the value that
the operation gives of it: `v` is the operand, `h` is h0, `m` the magnitude of amax32. ACAS writes nothing where the old value is not h0. -/
def Obligations.StoresBegin : Prop :=
   (∀ (x idx : Operand) (bf : Fin 64) (sz : Fin 4) (f : OffForm) (i : Instr),
      (i, f) ∈ [(Instr.st x bf sz idx, OffForm.byte), (.ste x bf sz idx, .one), (.stx x bf sz idx, .two)] →
      ∀ s vals t, Issues s i vals t →
        let c := t.iss.core
        let slot := t.iss.slot
        let n := 2 ^ sz.val
        let place := fun (u : State) (found : Found) => Locates t u bf n .store f (val1 vals) found
        (∀ w, t.record? c slot bf = (none, w) → Faults i s fcBufRec bf false) ∧
        (∀ u rank code d g, place u (.fault rank code d g) → Faults i s code d g) ∧
        (∀ u rank w, place u (.hold rank w) → Waits i s u w) ∧
        (∀ u, place u .drop → u.me.pipe = [] → ∃ (v : State), Ends i s v ∧ OnlyCtx c slot u v ∧
          v.me = { u.me with pt := u.me.pt + 1 }.complete t.nextPlace) ∧
        (∀ u addr pol, place u (.at_ addr pol none) → u.me.pipe = [] → isSramLine (addr / 128) → addr / 128 ∉ u.pins →
          addr % 128 + n ≤ 128 → u.mem.wf →
          ∃ (v : State), Ends i s v ∧ OnlySram u v ∧ Stores u v addr n (val0 vals).toNat ∧
            v.me = { u.me with pt := max u.me.pt ((Tab.getD u.sramT (addr / 128) (0, 0)).2 + 1) + 1 }.complete t.nextPlace) ∧
        (∀ u addr pol, place u (.at_ addr pol none) → u.me.pipe = [] → addr % 128 + n ≤ 128 → Missing u addr →
          ∃ (v : State) (a : Access), Ends i s v ∧ OnlyCtx c slot { u with net := v.net } v ∧
            v.net = u.net ++ [.ownershipRequest c slot (addr / 128)] ∧
            a.line = addr / 128 ∧ a.kind = .store ∧ a.owner = none ∧ a.mask = (2 ^ (8 * n) - 1) * 2 ^ (addr % 128 * 8) ∧
            a.data = (val0 vals).toNat % 2 ^ (8 * n) * 2 ^ (addr % 128 * 8) ∧
            v.me = { u.me with pipe := [a] }.complete t.nextPlace) ∧
        (∀ u addr pol q, place u (.at_ addr pol (some q)) → u.me.pipe = [] → ownerOffset u q addr % 128 + n ≤ 128 → u.coreId u.me.asid q < 2 ^ 30 →
          let off := ownerOffset u q addr
          ∃ (v : State) (a : Access), Waits i s v .performed ∧ OnlyCtx c slot { u with net := v.net } v ∧
            v.net = u.net ++ [.remotePrivateRequest c slot] ∧ a.line = off / 128 ∧ a.kind = .store ∧ a.owner = some (u.coreId u.me.asid q) ∧
            a.mask = (2 ^ (8 * n) - 1) * 2 ^ (off % 128 * 8) ∧ a.data = (val0 vals).toNat % 2 ^ (8 * n) * 2 ^ (off % 128 * 8) ∧
            v.me = { u.me with pipe := [a], phase := 3 })) ∧
   (∀ (x idx : Operand) (bf : Fin 16) (i : Instr) (op : AtomOp) (n : Nat) (new : Nat → Nat → Nat → Nat),
      (let si := fun (a : Nat) => (BitVec.ofNat 64 a).toInt
       (i = .aswap x bf idx ∧ op = .swap ∧ n = 8 ∧ new = fun v _ _ => v) ∨
       (i = .aadd x bf idx ∧ op = .add ∧ n = 8 ∧ new = fun v old _ => (old + v) % 2 ^ 64) ∨
       (i = .aand x bf idx ∧ op = .and ∧ n = 8 ∧ new = fun v old _ => old &&& v) ∨
       (i = .aor x bf idx ∧ op = .or ∧ n = 8 ∧ new = fun v old _ => old ||| v) ∨
       (i = .axor x bf idx ∧ op = .xor ∧ n = 8 ∧ new = fun v old _ => old ^^^ v) ∨
       (i = .aminS64 x bf idx ∧ op = .minS ∧ n = 8 ∧ new = fun v old _ => if si v < si old then v else old) ∨
       (i = .amaxS64 x bf idx ∧ op = .maxS ∧ n = 8 ∧ new = fun v old _ => if si old < si v then v else old) ∨
       (i = .aminN64 x bf idx ∧ op = .minN ∧ n = 8 ∧ new = fun v old _ => min old v) ∨
       (i = .amaxN64 x bf idx ∧ op = .maxN ∧ n = 8 ∧ new = fun v old _ => max old v) ∨
       (i = .acas x bf idx ∧ op = .cas ∧ n = 8 ∧ new = fun v old h => if old = h then v else old) ∨
       (i = .aamaxF32 x bf idx ∧ op = .amax32 ∧ n = 4 ∧ new = fun v old _ => Sys2Proof.amax32 old (v % 2 ^ 32)) ∨
       (i = .amaxswapF32 x bf idx ∧ op = .amaxswap32 ∧ n = 4 ∧ new = fun v _ _ => v % 2 ^ 32)) →
      ∀ s vals t, Issues s i vals t →
        let c := t.iss.core
        let slot := t.iss.slot
        let y := (t.view c).ctx slot
        let h0 := if op = .cas then Tab.getD y.h 0 0 else 0
        let place := fun (u : State) (found : Found) =>
          (op = .cas → y.pendFor (.h 0) = none) ∧ Locates t u bf n .atomic .byte (val1 vals) found
        (∀ w, t.record? c slot bf = (none, w) → Faults i s fcBufRec bf false) ∧
        (∀ u rank code d g, place u (.fault rank code d g) → Faults i s code d g) ∧
        (∀ u rank w, place u (.hold rank w) → Waits i s u w) ∧
        (∀ u addr pol o, place u (.at_ addr pol o) → 8 ≤ u.me.unreturned → Waits i s u .limit) ∧
        (∀ u addr pol, place u (.at_ addr pol none) → u.me.unreturned < 8 → u.me.pipe = [] → SramReady u addr n → addr % 128 + n ≤ 128 → u.mem.wf →
          ∃ (v : State) (p : Pending), Ends i s v ∧ OnlySram u v ∧ .atomicReturn c slot p.seq ∈ v.net ∧
            Stores u v addr n (new (val0 vals).toNat (u.mem.read addr n) h0.toNat) ∧
            Begun u p .atomic (destOf x) n false ∧ p.left = 0 ∧ p.acc = u.mem.read addr n ∧
            (let ts := max u.me.pt ((Tab.getD u.sramT (addr / 128) (0, 0)).2 + 1)
             v.me = { u.me with out := u.me.out ++ [p], pt := ts + 1 }.complete t.nextPlace)) ∧
        (∀ u addr pol, place u (.at_ addr pol none) → u.me.unreturned < 8 → u.me.pipe = [] → addr % 128 + n ≤ 128 → Missing u addr →
          ∃ (v : State) (p : Pending) (a : Access), Ends i s v ∧ OnlyCtx c slot { u with net := v.net } v ∧
            v.net = u.net ++ [.ownershipRequest c slot (addr / 128)] ∧ Begun u p .atomic (destOf x) n false ∧ p.left = 1 ∧ p.acc = 0 ∧
            a.seq = p.seq ∧ a.line = addr / 128 ∧ a.kind = .atomic op n (val0 vals) h0 ∧ a.owner = none ∧
            a.mask = (2 ^ (8 * n) - 1) * 2 ^ (addr % 128 * 8) ∧
            v.me = { u.me with out := u.me.out ++ [p], pipe := [a] }.complete t.nextPlace) ∧
        (∀ u addr pol q, place u (.at_ addr pol (some q)) → u.me.unreturned < 8 → u.me.pipe = [] → ownerOffset u q addr % 128 + n ≤ 128 →
          u.coreId u.me.asid q < 2 ^ 30 → ∃ (v : State) (p : Pending) (a : Access), Waits i s v .performed ∧
            OnlyCtx c slot { u with net := v.net } v ∧ v.net = u.net ++ [.remotePrivateRequest c slot] ∧
            Begun u p .atomic (destOf x) n false ∧ p.left = 1 ∧ p.acc = 0 ∧ a.seq = p.seq ∧ a.line = ownerOffset u q addr / 128 ∧
            a.kind = .atomic op n (val0 vals) h0 ∧ a.owner = some (u.coreId u.me.asid q) ∧
            a.mask = (2 ^ (8 * n) - 1) * 2 ^ (ownerOffset u q addr % 128 * 8) ∧
            v.me = { u.me with out := u.me.out ++ [p], pipe := [a], phase := 3 }))

/-- 08 R178; 02 R47: FORK and FORKR, with the target that a transfer of their form has, into a block that is the thread's own or whose
entries its core knows. They wait until the thread has settled; a child for a block held on the core goes to the newest end of its
deque (here with no context free to take it), one for a block held elsewhere is sent to the holder and the thread waits for its
acceptance; once that has come (phase 2) the thread goes on. -/
def Obligations.ForksSpawn : Prop :=
  ∀ (i : Instr) (target : State → List Word → Nat → Prop),
    (∃ a, i = .forkr a ∧ target = fun _ v d => d = (val0 v).toNat) ∨
    (∃ (e : Fin 16) (delta : BitVec 20), i = .fork e delta ∧ target = fun s _ d => ∃ (b o : Nat) (descs : List Nat),
      (b : Int) = s.me.pc.blk + delta.toInt ∧ 1 ≤ b ∧ b ≤ 0xFFFFFF ∧
      (if b = s.me.pc.blk then (∃ p, (s.core s.iss.core).placedBlock s.me.asid b = some p ∧ p.descs = descs)
       else (s.core s.iss.core).lists s.me.asid b descs) ∧
      (∃ desc, descs[e.val]? = some desc ∧ desc % 512 = o) ∧ d = b * 512 + o) →
    ∀ s vals t d, Issues s i vals t → target t vals d →
      let c := t.iss.core
      let slot := t.iss.slot
      let k := t.core c
      let x := t.me
      let blk := d / 512
      let w := if blk = x.pc.blk then t else t.mapUse c x.asid blk
      let known := if blk = x.pc.blk then d % 512 < k.blockCount x.asid blk else k.declares x.asid blk (d % 512)
      (2 ^ 33 ≤ d ∨ blk = 0 → Faults i s fcEntry d false) ∧
      (d < 2 ^ 33 → blk ≠ 0 → blk = x.pc.blk → k.blockCount x.asid blk ≤ d % 512 → Faults i s fcEntry d false) ∧
      (d < 2 ^ 33 → blk ≠ 0 → blk ≠ x.pc.blk → k.mapEntry x.asid blk = none → Waits i s t (.blockMap blk)) ∧
      (d < 2 ^ 33 → blk ≠ 0 → slot ≠ 63 → known →
        (x.phase = 2 → ∃ u : State, Ends i s u ∧ Moved w u t.nextPlace) ∧
        (x.phase ≠ 2 → ¬ Settled t → Waits i s w .settle) ∧
        (x.phase ≠ 2 → Settled t → t.packParity c slot (k.descOf x.asid d) = none → (k.placedBlock x.asid blk).isSome →
          k.work.deque.length < 64 → k.freeSlot none = none → ∃ (u : State) (m : Travel) (q : QSlot), Ends i s u ∧ OnlyCore c t u ∧ (u.core c).file = k.file ∧
            (u.core c).work = { (w.core c).work with deque := k.work.deque ++ [q] } ∧ q.body = .travel m ∧ q.returned = false ∧
            m.kind = 3 ∧ m.dest = d ∧ m.link = 0 ∧ m.parent = none ∧ Carries t c slot (k.descOf x.asid d) m ∧
            u.me = x.complete t.nextPlace) ∧
        (∀ e h, x.phase ≠ 2 → Settled t → t.packParity c slot (k.descOf x.asid d) = none → (k.placedBlock x.asid blk).isSome = false →
          k.mapEntry x.asid blk = some e → e.nholders ≠ 0 → e.choose (t.tid c slot) = some h → chipOf h = t.chip x.asid →
          ∃ (u : State) (m : Travel), Waits i s u .accept ∧ u = { w with cores := u.cores, net := u.net, yew := u.yew } ∧
            u.net = t.net ++ [.forkChildArrival h m] ∧ m.kind = 3 ∧ m.dest = d ∧ m.link = 0 ∧ m.parent = some (c, slot) ∧
            Carries t c slot (k.descOf x.asid d) m ∧ u.me = { x with phase := 1 }))

/-- 09 R213, R214; 04 R95; 03 R72: BFLD fetches its record through bf0; the record stands in its entry once the load has returned, and the
thread, which has waited, goes on with the result outstanding until the marker; a record that R95
rejects is the buffer-record fault. BFCLR makes the entry invalid. bf0 can be neither loaded nor cleared.
09 R218 to R220: CPY reads its request from four main registers and its two records; a request that breaks a rule faults; with CPQ full
CPY waits and CPY.nb gives all ones; else, once the thread's accesses have been performed, the request joins CPQ with the channel's next id, which is the result. -/
def Obligations.CopiesIssue : Prop :=
   ((∀ (a : Operand) (bf : Fin 64) s vals t, Issues s (.bfld a bf) vals t →
      let c := t.iss.core
      let slot := t.iss.slot
      let found := fun (u : State) => (u.element c slot flatRecord (val0 vals).toInt 32 32 .load true 0 0).found
      let w := t.useTlbs c t.me.asid flatRecord [(val0 vals).toInt]
      (bf.val = 0 → Faults (.bfld a bf) s fcBufRec 0 false) ∧
      (∀ rank code d g, bf.val ≠ 0 → t.me.phase = 0 → found w = .fault rank code d g → Faults (.bfld a bf) s code d g) ∧
      (∀ rank x, bf.val ≠ 0 → t.me.phase = 0 → found w = .hold rank x → Waits (.bfld a bf) s w x) ∧
      (∀ pa pol, bf.val ≠ 0 → t.me.phase = 0 → found w = .at_ pa pol none → t.me.unreturned < 8 → t.me.pipe = [] → Missing w pa →
        pa % 128 + 32 ≤ 128 → ∃ (u : State) (p : Pending) (b : Access), Waits (.bfld a bf) s u .vector ∧ OnlyCtx c slot { w with net := u.net } u ∧
          u.net = t.net ++ [.fillRequest c slot (pa / 128)] ∧ Begun w p .bfld .discard 32 false ∧ p.queue = bf.val + 1 ∧ p.left = 1 ∧
          b.seq = p.seq ∧ b.line = pa / 128 ∧ b.segs = [(pa % 128 * 8, 256, 0)] ∧ u.me = { t.me with phase := 1, out := t.me.out ++ [p], pipe := [b] }) ∧
      (∀ p l, bf.val ≠ 0 → t.me.phase = 1 → t.me.out = l ++ [p] →
        (t.recordBreaks t.me.asid p.acc → Faults (.bfld a bf) s fcBufRec bf false) ∧
        (¬ t.recordBreaks t.me.asid p.acc → ∃ u : State, Ends (.bfld a bf) s u ∧ OnlyCtx c slot t u ∧
          u.me = { t.me with out := ({ t.me with out := l }.clash (.bf bf) (p.acc + 2 ^ 256)).out ++
            [{ p with dest := .bf bf, acc := p.acc + 2 ^ 256, clash := t.me.out.any (fun q => q.dest == Dest.bf bf), queue := 0 }] }.complete t.nextPlace))) ∧
    (∀ (s : State) (c slot seq bf : Nat) (p : Pending), (s.ctx c slot).out = [p] → p.seq = seq → p.returned = false → p.left = 0 → p.kind = .bfld →
      p.bytes = 32 → p.queue = bf + 1 → p.signed = false → p.dest = .discard → (s.ctx c slot).pair = none → (s.ctx c slot).status = .parked .vector →
      s.recordBreaks p.asid p.acc = false → ∃ u : State, exec (.loadReturn c slot seq) s = .next u ∧ OnlyCore c s u ∧
        (u.core c).buf bf = { r := p.acc, valid := true, asid := p.asid } ∧ (∀ n, n ≠ bf → (u.core c).buf n = (s.core c).buf n) ∧
        (u.core c).file = (s.core c).file ∧ (u.core c).regs.k = (s.core c).regs.k ∧ (u.ctx c slot).status = .ready ∧
        ∃ q, (u.ctx c slot).out = [q] ∧ q.returned ∧ q.left = s.now ∧ q.alt = some ((s.core c).buf bf).word ∧ q.acc = p.acc) ∧
    (∀ (bf : Fin 64) s vals t, Issues s (.bfclr bf) vals t →
      let c := t.iss.core
      (bf.val = 0 → Faults (.bfclr bf) s fcBufRec 0 false) ∧
      (bf.val ≠ 0 → ∃ u : State, Ends (.bfclr bf) s u ∧ OnlyCore c t u ∧
        (u.core c).buf bf = { (t.core c).buf bf with valid := false } ∧ (∀ n, n ≠ bf.val → (u.core c).buf n = (t.core c).buf n) ∧
        (u.core c).file = (t.core c).file ∧ (u.core c).regs.k = (t.core c).regs.k ∧
        u.me = { t.me with out := u.me.out }.complete t.nextPlace))) ∧
   (∀ (d : Operand) (a : Fin 128) (nb : Bool) (i : Instr), i = (if nb then .cpyNb d a else .cpy d a) →
      ∀ s vals t rq v src w dst u, Issues s i vals t → t.readMains t.iss.core t.iss.slot a 4 = (rq, v) →
        let c := t.iss.core
        let slot := t.iss.slot
        let x := t.me
        let owner := x.asid = (t.core c).csr.shasid
        v.record? c slot (rqSrc rq) = (src, w) → w.record? c slot (rqDst rq) = (dst, u) →
        (t.me.phase ≠ 2 → src = none → Faults i s fcBufRec (rqSrc rq) false) ∧
        (t.me.phase ≠ 2 → src ≠ none → dst = none → Faults i s fcBufRec (rqDst rq) false) ∧
        (∀ r r', t.me.phase ≠ 2 → src = some r → dst = some r' →
          ((¬ owner ∧ (rqSrc rq ≠ 0 ∨ rqDst rq ≠ 0)) ∨ recSpace r = 5 ∨ recSpace r' = 5 → Faults i s fcPrivilege 0 false) ∧
          ((owner ∨ (rqSrc rq = 0 ∧ rqDst rq = 0)) → recSpace r ≠ 5 → recSpace r' ≠ 5 →
            (rqFar rq → ¬ u.validCore x.asid (rqCore rq) → Faults i s fcCoreId (rqCore rq) false) ∧
            ((rqFar rq → u.validCore x.asid (rqCore rq)) → u.copyBreaks c x.asid rq r r' → Faults i s fcCopyReq 0 false) ∧
            ((rqFar rq → u.validCore x.asid (rqCore rq)) → ¬ u.copyBreaks c x.asid rq r r' →
              ∀ si di, u.permOf c (recPerm r) = .ok si → u.permOf c (recPerm r') = .ok di →
                (16 ≤ (u.core c).q.cpq.length → nb = false → Waits i s u (.room 2)) ∧
                (16 ≤ (u.core c).q.cpq.length → nb → (∀ n, d ≠ .q n) → Yields i d (BitVec.allOnes 64) s u) ∧
                ((u.core c).q.cpq.length < 16 → u.me.pipe ≠ [] → Waits i s u .performed) ∧
                ((u.core c).q.cpq.length < 16 → u.me.pipe = [] → (∀ n, d ≠ .q n) →
                  let ch := rqChan rq
                  let id := Tab.getD (u.core c).units.nextId ch 0
                  ∃ u' e, Yields i d (BitVec.ofNat 64 id) s u' ∧ u' = { u with cores := u'.cores, net := u.net ++ [.copyAccept c] } ∧
                    (∀ o, o ≠ c → u'.core o = u.core o) ∧
                    (u'.core c).q = { (u.core c).q with cpq := (u.core c).q.cpq ++ [e] } ∧ (u'.core c).file = (u.core c).file ∧
                    (∀ ch', Tab.getD (u'.core c).units.nextId ch' 0 =
                      if ch' = ch then (id + 1) % 2 ^ 48 else Tab.getD (u.core c).units.nextId ch' 0) ∧
                    e = { rq := rq, src := r, dst := r', srcIdx := si, dstIdx := di, chan := ch, id := id, asid := x.asid, cls := x.cls,
                          t0 := x.pt, slot := slot } ∧
                    u'.me = { u.me with copies := u.me.copies ++ [(ch, id)] })))))

/-! ### Vectors, masks and quantisation (10) -/

/-- 10 R246; 06 R144: QSCALE: the smallest scale code c with a ≤ F 2^(c - 127) for a finite magnitude a, the codes of a zero and of a NaN
or infinity. 10 R229: VLQ and VLANE.
10 R235, R236: VCVT converts each element's exact value to the destination type, under the rounding mode and saturation of its
fields, across the register groups of the two types. -/
def Obligations.ConversionLanes : Prop :=
   ((∀ (d a : Operand) (i : Instr) (F : Nat),
      (i, F) ∈ [(Instr.qscaleE4m3 d a, 448), (.qscaleE3m2 d a, 28), (.qscaleE2m1 d a, 6), (.qscalei d a, 7)] →
      ∀ s vals t, Issues s i vals t → (∀ n, d ≠ .q n) → ∃ v, Yields i d v s t ∧
        match fp32.decode ((val0 vals).toNat % 2 ^ 32) with
        | .fin _ 0 _ => v = 0x300
        | .fin _ m e => ∃ c ≤ 253, v = BitVec.ofNat 64 (0x100 + c) ∧ m * 2 ^ (e + 149).toNat ≤ F * 2 ^ (c + 22) ∧
            (c = 0 ∨ F * 2 ^ (c + 21) < m * 2 ^ (e + 149).toNat)
        | _ => v = 0x5FF) ∧
    (∀ d, Results (.vlq d) d fun _ => 1024) ∧
    ∀ d ty, Results (.vlane d ty) d fun _ => match ty with
      | .s8 | .n8 | .e4m3 | .e5m2 | .e3m2 | .e2m1 => 128
      | .s16 | .n16 | .bf16 | .f16 => 64
      | .s32 | .n32 | .f32 => 32
      | .s64 | .n64 => 16) ∧
   (∀ (dt st : Ty) (rm : RMode) (sat : Bool) (m : Fin 8) (vd va : Fin 32) s vals t, Issues s (.vcvt dt st rm sat m vd va) vals t →
      t.VecsPlain →
      let src := fun k => elemAt st (t.vecSrc (va + k / (1024 / st.bits))) (k % (1024 / st.bits))
      let exact := fun c => match st.fmt with
        | some f => f.decode c
        | none => Sys2Proof.Num.fin (intOf st c < 0) (intOf st c).natAbs 0
      ∃ u : State, Ends (.vcvt dt st rm sat m vd va) s u ∧
        LaneWrites t u dt.bits (t.maskSrc m) vd (if st.bits < dt.bits then dt.bits / st.bits else 1) (fun k =>
          match dt.fmt with
          | some f => f.encode rm sat (exact (src k))
          | none => ((exact (src k)).toIntIn rm (leastOf dt) (greatestOf dt) % 2 ^ dt.bits).toNat) ∧
        u.me = { t.me with out := u.me.out }.complete t.nextPlace)

/-- 10 R232 to R234; 06 R138 to R140: element-wise arithmetic under a mask: floating-point results are exact results rounded to nearest
even, integer results wrap or saturate, logic works on the bits; inactive elements keep their value. -/
def Obligations.LaneArithmetic : Prop :=
  ∀ (ty : Ty) (m : Fin 8) (vd va vb : Fin 32) (x : Operand),
    let a := fun (t : State) k => elemAt ty (t.vecSrc va) k
    let b := fun (t : State) k => elemAt ty (t.vecSrc vb) k
    let d := fun (t : State) k => elemAt ty (t.vecSrc vd) k
    let code := fun (v : Int) => (v % 2 ^ ty.bits).toNat
    let sat := fun (v : Int) => code (max (leastOf ty) (min (greatestOf ty) v))
    let num := fun (g : Sys2Proof.Num → Sys2Proof.Num → Sys2Proof.Num) (h : Int → Int → Int) (p q : Nat) => match ty.fmt with
      | some f => f.encode .rne false (g (f.decode p) (f.decode q))
      | none => code (h (intOf ty p) (intOf ty q))
    let s0 := fun (vals : List Word) => (val0 vals).toNat % 2 ^ ty.bits
    Lanes (.vadd ty m vd va vb) ty m vd (fun t _ k => num Sys2Proof.Num.add (· + ·) (a t k) (b t k)) ∧
    Lanes (.vsub ty m vd va vb) ty m vd (fun t _ k => num (fun p q => p.add q.neg) (· - ·) (a t k) (b t k)) ∧
    Lanes (.vmul ty m vd va vb) ty m vd (fun t _ k => num Sys2Proof.Num.mul (· * ·) (a t k) (b t k)) ∧
    Lanes (.vfma ty m vd va vb) ty m vd (fun t _ k => match ty.fmt with
      | some f => f.encode .rne false (((f.decode (a t k)).mul (f.decode (b t k))).add (f.decode (d t k)))
      | none => code (intOf ty (a t k) * intOf ty (b t k) + intOf ty (d t k))) ∧
    Lanes (.vmin ty m vd va vb) ty m vd (fun t _ k => num Sys2Proof.Num.min min (a t k) (b t k)) ∧
    Lanes (.vmax ty m vd va vb) ty m vd (fun t _ k => num Sys2Proof.Num.max max (a t k) (b t k)) ∧
    Lanes (.vaddsat ty m vd va vb) ty m vd (fun t _ k => sat (intOf ty (a t k) + intOf ty (b t k))) ∧
    Lanes (.vsubsat ty m vd va vb) ty m vd (fun t _ k => sat (intOf ty (a t k) - intOf ty (b t k))) ∧
    Lanes (.vand ty m vd va vb) ty m vd (fun t _ k => a t k &&& b t k) ∧
    Lanes (.vor ty m vd va vb) ty m vd (fun t _ k => a t k ||| b t k) ∧
    Lanes (.vxor ty m vd va vb) ty m vd (fun t _ k => a t k ^^^ b t k) ∧
    Lanes (.vandn ty m vd va vb) ty m vd (fun t _ k => a t k &&& (2 ^ ty.bits - 1 - b t k)) ∧
    Lanes (.vbcast ty m vd x) ty m vd (fun _ v _ => s0 v) ∧
    Lanes (.vaddx ty m vd x) ty m vd (fun t v k => num Sys2Proof.Num.add (· + ·) (d t k) (s0 v)) ∧
    Lanes (.vmulx ty m vd x) ty m vd (fun t v k => num Sys2Proof.Num.mul (· * ·) (d t k) (s0 v)) ∧
    Lanes (.vmaxx ty m vd x) ty m vd (fun t v k => num Sys2Proof.Num.max max (d t k) (s0 v)) ∧
    Lanes (.vsel ty m vd va) ty m vd (fun t _ k => a t k)

/-- 10 R230, R231, R233: comparisons under a governing mask, mask logic, MFROM and BOUND, bit by bit; MPOP, MTOLO and MTOHI. -/
def Obligations.MaskResults : Prop :=
  ∀ (ty : Ty) (m md ma mb : Fin 8) (va vb : Fin 32) (x y : Operand),
    let p := fun (t : State) k => elemAt ty (t.vecSrc va) k
    let q := fun (t : State) k => elemAt ty (t.vecSrc vb) k
    let on := fun (t : State) (k : Nat) => k < 1024 / ty.bits ∧ (t.maskSrc m).testBit k
    let cmp := fun (g : Sys2Proof.Num → Sys2Proof.Num → Bool) (h : Int → Int → Prop) (a b : Nat) => match ty.fmt with
      | some f => g (f.decode a) (f.decode b) = true
      | none => h (intOf ty a) (intOf ty b)
    let le := fun (u v : Sys2Proof.Num) => u.lt v || u.same v
    MaskBits (.vceq ty m md va vb) md (fun t _ k => on t k ∧ cmp Sys2Proof.Num.same (· = ·) (p t k) (q t k)) ∧
    MaskBits (.vclt ty m md va vb) md (fun t _ k => on t k ∧ cmp Sys2Proof.Num.lt (· < ·) (p t k) (q t k)) ∧
    MaskBits (.vcle ty m md va vb) md (fun t _ k => on t k ∧ cmp le (· ≤ ·) (p t k) (q t k)) ∧
    MaskBits (.vcne ty m md va vb) md (fun t _ k => on t k ∧ cmp (fun u v => !u.same v) (· ≠ ·) (p t k) (q t k)) ∧
    MaskBits (.mand md ma mb) md (fun t _ k => (t.maskSrc ma).testBit k ∧ (t.maskSrc mb).testBit k) ∧
    MaskBits (.mor md ma mb) md (fun t _ k => (t.maskSrc ma).testBit k ∨ (t.maskSrc mb).testBit k) ∧
    MaskBits (.mxor md ma mb) md (fun t _ k => ((t.maskSrc ma).testBit k ^^ (t.maskSrc mb).testBit k) = true) ∧
    MaskBits (.mandn md ma mb) md (fun t _ k => (t.maskSrc ma).testBit k ∧ ¬ (t.maskSrc mb).testBit k) ∧
    MaskBits (.mnot md ma) md (fun t _ k => ¬ (t.maskSrc ma).testBit k) ∧
    MaskBits (.mmov md ma) md (fun t _ k => (t.maskSrc ma).testBit k) ∧
    MaskBits (.mfrom md x) md (fun _ v k => (val0 v).getLsbD k) ∧
    MaskBits (.bound md ty x y) md (fun _ v k => k < 1024 / ty.bits ∧ (val0 v).toInt + k < (val1 v).toInt) ∧
    (∀ s vals t, (Issues s (.mpop ma x) vals t → (∀ n, x ≠ .q n) →
        Yields (.mpop ma x) x (BitVec.ofNat 64 ((List.range 128).countP fun k => (t.maskSrc ma).testBit k)) s t) ∧
      (Issues s (.mtolo ma x) vals t → (∀ n, x ≠ .q n) → Yields (.mtolo ma x) x (BitVec.ofNat 64 (t.maskSrc ma % 2 ^ 64)) s t) ∧
      (Issues s (.mtohi ma x) vals t → (∀ n, x ≠ .q n) → Yields (.mtohi ma x) x (BitVec.ofNat 64 (t.maskSrc ma / 2 ^ 64)) s t))

/-- 10 R237 to R239; 06 R139, R148: reductions combine the active elements by the tree, then an initial value from d, a NaN being the canonical one; VCOMPRESS packs the active
elements at the bottom, the rest being zero, and VEXPAND spreads them; both count the active elements in h, and VCOMPRESS sets NONE
when there is none; VROWMV permutes elements by a valid w register. -/
def Obligations.MovesAndReductions : Prop :=
  ∀ (ty : Ty) (m : Fin 8) (vd va : Fin 32) (d : Operand) (h : Fin 4) (w : Fin 8),
    let actives := fun (t : State) (n : Nat) => (List.range n).filter fun k => (t.maskSrc m).testBit k
    let N := 1024 / ty.bits
    (∀ i op one zeroStart, (i = .vrsum ty m va d ∧ op = RedOp.sum ∧ zeroStart = true ∨ i = .vrmax ty m va d ∧ op = .max ∧ zeroStart = false ∨
        i = .vrmin ty m va d ∧ op = .min ∧ zeroStart = false ∨ i = .vramax ty m va d ∧ op = .amax ∧ zeroStart = true) →
      one = op.eval ty → ∀ s vals t, Issues s i vals t → t.VecsPlain → (∀ n, d ≠ .q n) →
        let leaves := (List.range N).map fun k => if (t.maskSrc m).testBit k then some (elemAt ty (t.vecSrc va) k) else none
        let start := if d ≠ .zero then some ((val0 vals).toNat % 2 ^ ty.bits) else if zeroStart then some 0 else none
        ∃ r, Yields i d (if ty.signed then BitVec.ofInt 64 (intOf ty r) else BitVec.ofNat 64 r) s t ∧
          match reduceTree one 7 leaves, start with
          | none, none => r = op.identity ty
          | none, some x => r = x
          | some x, none => r = (match ty.fmt with
              | some f => if f.decode (x % 2 ^ (1 + f.eb + f.mb)) = .nan then f.nanCode else x
              | none => x)
          | some x, some y => r = one x y) ∧
    (∀ s vals t, Issues s (.vcompress ty m vd va h) vals t → t.VecsPlain → ∃ t' : State, LaneWrites t t' ty.bits (2 ^ 128 - 1) vd 1
        (fun k => ((actives t N)[k]?.map fun j => elemAt ty (t.vecSrc va) j).getD 0) ∧
      (t'.me.tstat.testBit 8 ↔ actives t N = []) ∧
      t'.me = { t.me with out := t'.me.out, tstat := t'.me.tstat } ∧
      Yields (.vcompress ty m vd va h) (.h h) (BitVec.ofNat 64 (actives t N).length) s t') ∧
    (∀ s vals t, Issues s (.vexpand ty m vd va h) vals t → t.VecsPlain → ∃ t' : State, LaneWrites t t' ty.bits (t.maskSrc m) vd 1
        (fun k => elemAt ty (t.vecSrc va) (actives t k).length) ∧ t'.me = { t.me with out := t'.me.out } ∧
      Yields (.vexpand ty m vd va h) (.h h) (BitVec.ofNat 64 (actives t N).length) s t') ∧
    (∀ s vals t, Issues s (.vrowmv ty m vd va w) vals t → t.VecsPlain →
      let r := Tab.getD (t.core t.iss.core).regs.w w {}
      (r.loading → Waits (.vrowmv ty m vd va w) s t (.loading w)) ∧
      (r.loading = false → r.valid = false ∨ N < (r.idx.take r.n).length → Faults (.vrowmv ty m vd va w) s fcPermInvalid w false) ∧
      (r.loading = false → r.valid → (r.idx.take r.n).length ≤ N → ∃ u : State, Ends (.vrowmv ty m vd va w) s u ∧
        LaneWrites t u ty.bits (t.maskSrc m) vd 1 (fun k => elemAt ty (t.vecSrc va) ((r.idx.take r.n)[k]?.getD k)) ∧
        u.me = { t.me with out := u.me.out }.complete t.nextPlace))

/-- 10 R241 to R243, R253: vector loads and stores. The active elements are located each by itself; the first fault or wait among them is
the instruction's; without an active element a load returns at once and a store touches nothing. Where every active element stands in
an SRAM that can serve it, a load has each element's bits in its place, and a store leaves each element's bytes (of the last element
where elements overlap) and no other byte of memory changed. Packed elements have 4 or 6 bits; in space 0, which reaches no SRAM, the two
bytes of one that lies over the end of a page are located apart. -/
def Obligations.VectorAccesses : Prop :=
  ∀ (sz : Fin 4) (m : Fin 8) (vd : Fin 32) (bf : Fin 64) (idx : Operand) (i : Instr) (load : Bool) (w n : Nat),
    (i = .vld sz m vd bf idx ∧ load = true ∧ w = 0 ∧ n = 2 ^ sz.val) ∨ (i = .vst sz m vd bf idx ∧ load = false ∧ w = 0 ∧ n = 2 ^ sz.val) ∨
    (i = .vldpE2m1 m vd bf idx ∧ load = true ∧ w = 4 ∧ n = 1) ∨ (i = .vldpE3m2 m vd bf idx ∧ load = true ∧ w = 6 ∧ n = 1) ∨
    (i = .vstpE2m1 m vd bf idx ∧ load = false ∧ w = 4 ∧ n = 1) ∨ (i = .vstpE3m2 m vd bf idx ∧ load = false ∧ w = 6 ∧ n = 1) →
    ∀ s vals t r u0, Issues s i vals t → t.VecsPlain → t.record? t.iss.core t.iss.slot bf = (some r, u0) →
      let c := t.iss.core
      let slot := t.iss.slot
      let e0 := (val0 vals).toInt
      let kind := if load then Purpose.load else .store
      let act := (List.range (128 / n)).filter fun k => (t.maskSrc m).testBit k
      let u := u0.useTlbs c u0.me.asid r (if w = 0 then act.map fun (k : Nat) => e0 + k * recStride0 r else packedTouched e0 w act)
      let value := if load then 0 else t.vecSrc vd
      let es := if w = 0 then u.stridedElems c slot r e0 n kind act value else act.flatMap fun k => u.packedElem c slot r e0 w kind value k
      let size := if w = 0 then 2 ^ (8 * n) else 2 ^ w
      (∀ rank code d g, firstFault (es.map Elem.found) = some (.fault rank code d g) → Faults i s code d g) ∧
      (∀ rank x, firstFault (es.map Elem.found) = some (.hold rank x) → Waits i s u x) ∧
      (load → firstFault (es.map Elem.found) = none → 8 ≤ u.me.unreturned → Waits i s u .limit) ∧
      (load → act = [] → u.me.unreturned < 8 → ∃ (v : State) (p : Pending), Ends i s v ∧ OnlyCtx c slot { u with net := v.net } v ∧
        v.net = u.net ++ [.loadReturn c slot p.seq] ∧ Begun u p .load (.v vd) 128 false ∧ p.left = 0 ∧ p.mask = 0 ∧
        v.me = { u.me with out := u.me.out ++ [p] }.complete t.nextPlace) ∧
      (load = false → act = [] → u.me.pipe = [] → ∃ (v : State), Ends i s v ∧ OnlyCtx c slot u v ∧ v.me = u.me.complete t.nextPlace) ∧
      (∀ (addr : Nat → Nat) pol, act ≠ [] → u.me.pipe = [] → u.mem.wf → (w ≠ 0 → recSpace r ≠ 0) →
        (∀ e ∈ es.zip act, e.1.found = .at_ (addr e.2) pol none ∧ (w = 0 → addr e.2 % n = 0) ∧
          SramReady u (addr e.2) (if w = 0 then n else (e.1.bitOff + w + 7) / 8) ∧
          (w ≠ 0 → isSramLine ((addr e.2 + 1) / 128) ∧ (addr e.2 + 1) / 128 ∉ u.pins)) →
        (load → u.me.unreturned < 8 → ∃ (v : State) (p : Pending), Ends i s v ∧ OnlyCtx c slot { u with net := v.net, sramT := v.sramT } v ∧
          v.net = u.net ++ [.loadReturn c slot p.seq] ∧ Begun u p .load (.v vd) 128 false ∧ p.left = 0 ∧
          (∀ e ∈ es.zip act, p.acc / 2 ^ (8 * n * e.2) % 2 ^ (8 * n) =
            u.mem.read (addr e.2) (if w = 0 then n else (e.1.bitOff + w + 7) / 8) / 2 ^ e.1.bitOff % size) ∧
          (∀ b < 1024, p.mask.testBit b ↔ b / (8 * n) ∈ act) ∧
          v.me = { u.me with out := u.me.out ++ [p], pt := v.me.pt }.complete t.nextPlace) ∧
        (load = false → ∃ (v : State), Ends i s v ∧ OnlySram u v ∧ v.me = { u.me with pt := v.me.pt }.complete t.nextPlace ∧
          (∀ a, (∀ e ∈ es.zip act, a < addr e.2 ∨ addr e.2 + (if w = 0 then n else (e.1.bitOff + w + 7) / 8) ≤ a) →
            v.mem.byte a = u.mem.byte a) ∧
          (w = 0 → ∀ k a, k ∈ act → addr k ≤ a → a < addr k + n → (∀ j ∈ act, k < j → a < addr j ∨ addr j + n ≤ a) →
            v.mem.byte a = BitVec.ofNat 8 (t.vecSrc vd / 256 ^ (n * k + (a - addr k))))))

/-- 10 R247, R253; 06 R144, R145: QPACK stores the 64-byte block of 64 FP32 values under h0: a scale kind of 3 is the operand-value fault; an
offset off 64 bytes the alignment fault, after every fault of a lower rank; a block that stands in an SRAM is written whole. -/
def Obligations.BlocksPacked : Prop :=
  ∀ (vp : Fin 16) (bf : Fin 64) (idx : Operand) (i : Instr) (f : BlockFmt),
    (i, f) ∈ [(Instr.qpackE4m3 vp bf idx, BlockFmt.xe4m3), (.qpackE3m2 vp bf idx, .e3m2), (.qpackE2m1 vp bf idx, .e2m1),
      (.qpacki vp bf idx, .int4)] →
    ∀ s vals t, Issues s i vals t → t.VecsPlain → ((t.view t.iss.core).ctx t.iss.slot).pendFor (.h 0) = none →
      let c := t.iss.core
      let slot := t.iss.slot
      let h0 := (Tab.getD ((t.view c).ctx slot).h 0 0).toNat
      let xs := (List.range 64).map fun k => cell 32 (t.vecSrc (2 * vp + k / 32)) (k % 32)
      let explicit := h0.testBit 8
      let kind := h0 / 2 ^ 9 % 4
      let block := if ¬ explicit then encodeBlock f none xs
        else if xs.any (fun x => match fp32.decode x with | .fin _ _ _ => false | _ => true) then poisonedBlock
        else if xs.all (fun x => match fp32.decode x with | .fin _ 0 _ => true | _ => false) then zeroBlock
        else if kind = 0 then encodeBlock f (some (h0 % 256)) xs else if kind = 1 then zeroBlock else poisonedBlock
      (explicit → kind = 3 → Faults i s fcOperand h0 false) ∧
      (¬ (explicit ∧ kind = 3) → (∀ w, t.record? c slot bf = (none, w) → Faults i s fcBufRec bf false) ∧
        ∀ u, (∀ rank code d g, Locates t u bf 64 .store .byte (val0 vals) (.fault rank code d g) → rank ≤ 5 → Faults i s code d g) ∧
          (∀ addr pol, Locates t u bf 64 .store .byte (val0 vals) (.at_ addr pol none) → (val0 vals).toInt % 64 ≠ 0 →
            Faults i s fcAlignment ((val0 vals).toNat) false) ∧
          (∀ addr pol, Locates t u bf 64 .store .byte (val0 vals) (.at_ addr pol none) → (val0 vals).toInt % 64 = 0 →
            u.me.pipe = [] → isSramLine (addr / 128) → addr / 128 ∉ u.pins → addr % 128 + 64 ≤ 128 → u.mem.wf →
            ∃ (v : State), Ends i s v ∧ OnlySram u v ∧ Stores u v addr 64 block ∧ v.me = { u.me with pt := v.me.pt }.complete t.nextPlace))

/-! ### Queues, matrix commands and permutations (03, 10, 11) -/

/-- 03 R65, R66; 10 R248, R251; 11 R257, R261, R274: a result whose destination is q0, q3 or q6 is pushed, once the thread's accesses have been
performed. TKQ takes an aligned address below 2^48;
CHQ takes a descriptor address; MEQ takes a ZERO, or a multiplying command of scratchpad operands at once, and holds the thread while
vector operands are staged. Each waits for room; a command that breaks a rule is the operand-value fault, after the window fault of the
registers it names (07 R171). -/
def Obligations.QueuePushes : Prop :=
  ∀ (i : Instr) (n : Fin 8) s vals t v, Issues s i vals t → destination i = some (.q n) → scalarEval i vals = some v →
    let c := t.iss.core
    let slot := t.iss.slot
    let a := v.toNat
    let q := (t.core c).q
    let id := (t.hedge (hedgeKey c)).nextOp
    let x := if popping i ∨ t.me.phase = 2 then t.me else t.me.lastResult (isC i) v
    let clear := t.me.phase = 2 ∨ t.me.pipe = []
    (¬ clear → Waits i s t .performed) ∧
    (n.val = 6 → clear →
      (2 ^ 48 ≤ a ∨ a % 64 ≠ 0 → Faults i s fcOperand a false) ∧
      (a < 2 ^ 48 → a % 64 = 0 → 8 ≤ q.tkq.length → Waits i s t (.room 6)) ∧
      (a < 2 ^ 48 → a % 64 = 0 → q.tkq.length < 8 → ∃ u : State, Ends i s u ∧ OnlyCore c { t with net := t.net ++ [.tkqAccept c] } u ∧
        (u.core c).q = { q with tkq := q.tkq ++ [(a, t.me.asid, t.me.cls, t.me.pt)] } ∧ (u.core c).file = (t.core c).file ∧
        u.me = x.complete t.nextPlace)) ∧
    (n.val = 3 → clear →
      (4 ≤ q.chq.length → Waits i s t (.room 3)) ∧
      (q.chq.length < 4 → ∃ u : State, Ends i s u ∧
        OnlyCore c { t with net := t.net ++ [.chainCommandAccept c], hedges := u.hedges } u ∧
        (u.core c).q = { q with chq := q.chq ++ [{ id := id, addr := a, asid := t.me.asid, cls := t.me.cls, t0 := t.me.pt, slot := slot }] } ∧
        (u.core c).file = (t.core c).file ∧ u.me = { x with cmds := t.me.cmds ++ [id] }.complete t.nextPlace)) ∧
    (n.val = 0 → clear →
      let d := a
      let owner := t.me.asid = (t.core c).csr.shasid
      let perm := cmdKind d < 2 ∧ cmdPerm d ≠ 0 ∧ cmdPerm d < 9
      (t.me.phase = 2 → ∃ u : State, Ends i s u ∧ OnlyCtx c slot t u ∧ u.me = x.complete t.nextPlace) ∧
      (t.me.phase ≠ 2 → perm → ¬ owner → Faults i s fcPrivilege 0 false) ∧
      (∀ r, t.me.phase ≠ 2 → (perm → owner) → cmdWindow t.me d = some r → Faults i s fcWindow r false) ∧
      (t.me.phase ≠ 2 → (perm → owner) → cmdWindow t.me d = none → cmdBreaks d → Faults i s fcOperand d false) ∧
      (t.me.phase ≠ 2 → ¬ cmdBreaks d → cmdKind d = 2 → 8 ≤ q.meq.length → Waits i s t (.room 0)) ∧
      (t.me.phase ≠ 2 → ¬ cmdBreaks d → cmdKind d = 2 → q.meq.length < 8 → ∃ (u : State) (op : EngOp), Ends i s u ∧ Pushed t u op ∧ op.kind = .zero ∧
        op.d0 = v ∧ op.tile = cmdTile d ∧ u.me = { x with cmds := t.me.cmds ++ [id] }.complete t.nextPlace) ∧
      (∀ pa pb idx t1 t2, t.me.phase ≠ 2 → (perm → owner) → ¬ cmdBreaks d → cmdWindow t.me d = none → cmdKind d < 2 →
        (if cmdPad d false then ∃ l, t.readMains c slot (cmdReg d false) 2 = (l, t1) ∧ pa = (l[0]?.getD 0, l[1]?.getD 0) else t1 = t ∧ pa = (0, 0)) →
        (if cmdPad d true then ∃ l, t1.readMains c slot (cmdReg d true) 2 = (l, t2) ∧ pb = (l[0]?.getD 0, l[1]?.getD 0)
          else t2 = t1 ∧ pb = (0, 0)) →
        let bad := fun (b : Bool) w => cmdPad d b ∧ padBreaks w (kBytes (cmdFmt d b) (cmdSparse d) b) (cmdRows d b) (cmdSteps d)
        let w := Tab.getD (t.core c).regs.w (cmdPerm d - 1) {}
        (bad false pa ∨ bad true pb → Faults i s fcOperand d false) ∧
        (¬ bad false pa → ¬ bad true pb → (if cmdPerm d = 0 then idx = [] else ReadsW t (cmdPerm d - 1) idx ∧ cmdRows d false % w.n = 0) →
          (8 ≤ q.meq.length → Waits i s t2 (.room 0)) ∧
          (q.meq.length < 8 → ∃ (u : State) (op : EngOp), Pushed t2 u op ∧ op.kind = (if cmdKind d = 0 then .mma else .mmac) ∧ op.d0 = v ∧
            op.tile = cmdTile d ∧ op.aPair = pa ∧ op.bPair = pb ∧ op.perm = idx ∧ op.staged = false ∧
            (let y := { t2.me with cmds := t.me.cmds ++ [id] }
             if cmdPad d false && cmdPad d true then
               Ends i s u ∧ u.me = (if popping i then y else y.lastResult (isC i) v).complete t.nextPlace
             else Waits i s u .engine ∧ u.me = { (if popping i then y else y.lastResult (isC i) v) with phase := 1 })))))

/-- 11 R254, R266 to R270: ACCLD and ACCST wait for MEQ and then for the engine; the row that the engine has read stands in the thread's latch
when it resumes, and becomes four vector registers; poison that the engine met while the thread was away is its fault. A row above 127 is
the operand-value fault. DRAIN checks its request and its target and is pushed. Each is pushed once the thread's accesses have been
performed (12 R291). -/
def Obligations.AccumulatorMoves : Prop :=
  (∀ (tl : Fin 4) (vq : Fin 8) (a : Operand) s vals t, Issues s (.accld tl vq a) vals t →
    let row := (val0 vals).toNat
    (t.me.phase = 2 → Tab.get? t.me.latch 99 ≠ none → Faults (.accld tl vq a) s fcPoison row false) ∧
    (t.me.phase = 2 → Tab.get? t.me.latch 99 = none → ∃ u : State, Ends (.accld tl vq a) s u ∧
      LaneWrites t u 64 (2 ^ 64 - 1) (4 * vq) 4 (fun k => (Tab.getD t.me.latch (100 + k) 0).toNat) ∧
      u.me = { t.me with out := u.me.out }.complete t.nextPlace) ∧
    (t.me.phase ≠ 2 → 128 ≤ row → Faults (.accld tl vq a) s fcOperand row false) ∧
    (t.me.phase ≠ 2 → row < 128 → 8 ≤ (t.core t.iss.core).q.meq.length → Waits (.accld tl vq a) s t (.room 0)) ∧
    (t.me.phase ≠ 2 → row < 128 → (t.core t.iss.core).q.meq.length < 8 → t.me.pipe ≠ [] → Waits (.accld tl vq a) s t .performed) ∧
    (t.me.phase ≠ 2 → row < 128 → (t.core t.iss.core).q.meq.length < 8 → t.me.pipe = [] → ∃ (u : State) (op : EngOp), Waits (.accld tl vq a) s u .engine ∧ Pushed t u op ∧
      op.kind = .accld ∧ op.tile = tl ∧ op.row = row ∧ op.v = 4 * vq ∧ u.me = { t.me with phase := 1 })) ∧
  (∀ (tl : Fin 4) (vq : Fin 8) (a : Operand) s vals t, Issues s (.accst tl vq a) vals t → t.VecsPlain →
    let row := (val0 vals).toNat
    (t.me.phase = 2 → ∃ u : State, Ends (.accst tl vq a) s u ∧ Moved t u t.nextPlace) ∧
    (t.me.phase ≠ 2 → 128 ≤ row → Faults (.accst tl vq a) s fcOperand row false) ∧
    (t.me.phase ≠ 2 → row < 128 → 8 ≤ (t.core t.iss.core).q.meq.length → Waits (.accst tl vq a) s t (.room 0)) ∧
    (t.me.phase ≠ 2 → row < 128 → (t.core t.iss.core).q.meq.length < 8 → t.me.pipe ≠ [] → Waits (.accst tl vq a) s t .performed) ∧
    (t.me.phase ≠ 2 → row < 128 → (t.core t.iss.core).q.meq.length < 8 → t.me.pipe = [] → ∃ (u : State) (op : EngOp), Waits (.accst tl vq a) s u .engine ∧ Pushed t u op ∧
      op.kind = .accst ∧ op.tile = tl ∧ op.row = row ∧ op.staged ∧
      op.aRegs.map BitVec.toNat = (List.range 4).map (fun j => t.vecSrc (4 * vq + j)) ∧ u.me = { t.me with phase := 1 })) ∧
  (∀ (tl : Fin 4) (a : Fin 128) s vals t l u, Issues s (.drain tl a) vals t → t.readMains t.iss.core t.iss.slot a 2 = (l, u) →
    let i := Instr.drain tl a
    let d0 := (l[0]?.getD 0).toNat
    let d1 := (l[1]?.getD 0).toNat
    let named := drainPerm d0 ≠ 0 ∧ drainPerm d0 < 9
    let owner := t.me.asid = (t.core t.iss.core).csr.shasid
    let w := Tab.getD (t.core t.iss.core).regs.w (drainPerm d0 - 1) {}
    (named → ¬ owner → Faults i s fcPrivilege 0 false) ∧
    ((named → owner) → drainBreaks0 d0 ∨ (named ∧ w.valid ∧ w.loading = false ∧ 128 % w.n ≠ 0) → Faults i s fcOperand d0 false) ∧
    ((named → owner) → ¬ drainBreaks0 d0 → (named → w.valid → w.loading = false → 128 % w.n = 0) →
      (drainBreaks1 d1 → Faults i s fcOperand d1 false) ∧
      (¬ drainBreaks1 d1 → ¬ u.validCore t.me.asid (drainDst d0) → Faults i s fcCoreId (drainDst d0) false) ∧
      (∀ idx, ¬ drainBreaks1 d1 → u.validCore t.me.asid (drainDst d0) →
        (if drainPerm d0 = 0 then idx = [] else ReadsW t (drainPerm d0 - 1) idx) →
        (8 ≤ (t.core t.iss.core).q.meq.length → Waits i s u (.room 0)) ∧
        ((t.core t.iss.core).q.meq.length < 8 → t.me.pipe ≠ [] → Waits i s u .performed) ∧
        ((t.core t.iss.core).q.meq.length < 8 → t.me.pipe = [] → ∃ (v : State) (op : EngOp), Ends i s v ∧ Pushed u v op ∧ op.kind = .drain ∧ op.tile = tl ∧ op.perm = idx ∧
          op.d0.toNat = d0 ∧ op.d1.toNat = d1 ∧ v.me = u.me.complete t.nextPlace))))

/-- 11 R276 to R279; 03 R70, R71: the solving instructions and the vectors they send: a loaded one, a composition, an inverse, a draw, the
positions of a mask; the faults of their operands; and Hornbeam's solve, which leaves the register valid with the vector.
11 R280, R282: PIDX and PCYC wait at most 64 cycles and then give what they found at issue: an element; the number of cycles, of fixed
points, the longest cycle, the order, the cycle through an index. PSTORE stores the index vector, zero-padded to 128 bytes. -/
def Obligations.PermutationsSolved : Prop :=
   ((∀ (wd wa wb : Fin 8) s vals t, Issues s (.pcomp wd wa wb) vals t → ∀ a b, ReadsW t wa a → ReadsW t wb b →
      (t.me.phase ≠ 2 → a.length ≠ b.length → Faults (.pcomp wd wa wb) s fcOperand b.length false) ∧
      Solves (.pcomp wd wa wb) s t wd (a.length = b.length) (b.map fun j => a.getD j 0)) ∧
    (∀ (wd wa : Fin 8) s vals t, Issues s (.pinv wd wa) vals t → ∀ a, ReadsW t wa a → IsPerm a →
      ∃ l, l.length = a.length ∧ (∀ k < a.length, l.getD (a.getD k 0) 0 = k) ∧ Solves (.pinv wd wa) s t wd True l) ∧
    (∀ (wd : Fin 8) (a : Fin 128) s vals t l, Issues s (.prand wd a) vals t → t.readMains t.iss.core t.iss.slot a 2 = (l, t) →
      let n := (l[1]?.getD 0).toNat
      (t.me.phase ≠ 2 → n = 0 ∨ 128 < n → Faults (.prand wd a) s fcOperand n false) ∧
      (shuffle (n - 1) (l[0]?.getD 0).toNat (List.range n)).Perm (List.range n) ∧
      Solves (.prand wd a) s t wd (1 ≤ n ∧ n ≤ 128) (shuffle (n - 1) (l[0]?.getD 0).toNat (List.range n))) ∧
    (∀ (wd m : Fin 8) (a : Operand) s vals t, Issues s (.pcompact wd m a) vals t →
      let n := (val0 vals).toNat
      (t.me.phase ≠ 2 → n = 0 ∨ 128 < n → Faults (.pcompact wd m a) s fcOperand n false) ∧
      Solves (.pcompact wd m a) s t wd (1 ≤ n ∧ n ≤ 128)
        (((List.range n).filter fun k => (t.maskSrc m).testBit k) ++ (List.range n).filter fun k => !(t.maskSrc m).testBit k)) ∧
    (∀ (wd : Fin 8) (a : Operand) s vals t, Issues s (.pload wd a) vals t →
      let c := t.iss.core
      let w := (val0 vals).toNat
      let n := w / 2 ^ 48 % 2 ^ 8
      let busy := (Tab.getD (t.core c).regs.w wd {}).loading
      let v := BitVec.ofNat 64 (w % 2 ^ 48)
      let z := t.useTlbs c t.me.asid flatRecord [v.toInt]
      let found := (z.element c t.iss.slot flatRecord v.toInt 128 128 .load true 0 0).found
      (t.me.phase = 2 → ∃ u : State, Ends (.pload wd a) s u ∧ Moved t u t.nextPlace) ∧
      (t.me.phase = 0 → w / 2 ^ 56 ≠ 0 ∨ n = 0 ∨ 128 < n → Faults (.pload wd a) s fcOperand w false) ∧
      (t.me.phase = 0 → w / 2 ^ 56 = 0 → 1 ≤ n → n ≤ 128 →
        (busy → Waits (.pload wd a) s t (.loading wd)) ∧
        (∀ rank code d g, busy = false → found = .fault rank code d g → Faults (.pload wd a) s code d g) ∧
        (∀ rank x, busy = false → found = .hold rank x → Waits (.pload wd a) s z x) ∧
        (∀ pa pol, busy = false → found = .at_ pa pol none → t.me.unreturned < 8 → t.me.pipe = [] → Missing z pa → pa % 128 = 0 →
          ∃ (u : State) (p : Pending) (b : Access), Waits (.pload wd a) s u .vector ∧ u.net = t.net ++ [.fillRequest c t.iss.slot (pa / 128)] ∧ u.mem = t.mem ∧
            (Tab.getD (u.core c).regs.w wd {}).loading ∧ Begun z p .bfld .discard 128 false ∧ p.mask = n ∧ p.queue = wd.val + 1 ∧
            b.seq = p.seq ∧ b.line = pa / 128 ∧ u.me = { t.me with phase := 1, out := t.me.out ++ [p], pipe := [b] })) ∧
      (∀ l p, t.me.phase = 1 → t.me.out = l ++ [p] →
        let n := p.mask
        let idx := (List.range n).map fun i => p.acc / 256 ^ i % 256
        let bad := fun (i : Nat) => i < n ∧ (n ≤ idx.getD i 0 ∨ idx.getD i 0 ∈ idx.take i)
        (∀ i u, bad i → (∀ j < i, ¬ bad j) → u < n → u ∉ idx → (∀ x < u, x ∈ idx) →
          Faults (.pload wd a) s fcPermValidity ((if n ≤ idx.getD i 0 then 2 ^ 16 else 0) + i * 256 + u) false) ∧
        ((∀ i, ¬ bad i) → ∃ u : State, Waits (.pload wd a) s u .solve ∧ (Tab.getD (u.core c).regs.w wd {}).loading ∧
          (u.core c).units.solves = (t.core c).units.solves ++ [{ wd := wd, idx := idx, slot := t.iss.slot }] ∧
          u.net = t.net ++ [.hornbeamSolveStart (hedgeKey c)] ∧ u.mem = t.mem ∧ u.me = { t.me with phase := 2, out := l }))) ∧
    (∀ (h : Nat) (s : State),
      ((s.hedge h).horn ≠ none ∨ s.nextSolver h = none → exec (.hornbeamSolveStart h) s = .next s) ∧
      (∀ c, (s.hedge h).horn = none → s.nextSolver h = some c → ∃ u : State, exec (.hornbeamSolveStart h) s = .next u ∧
        u = { s with hedges := u.hedges, timers := u.timers } ∧ (u.hedge h).horn = some c ∧
        (∃ n ≤ s.now + 300, (n, .hornbeamSolveComplete h) ∈ u.timers) ∧ (s.core c).units.solves ≠ []) ∧
      (∀ c v rest, (s.hedge h).horn = some c → (s.core c).units.solves = v :: rest → (s.ctx c v.slot).status = .parked .solve → ∃ u : State,
        exec (.hornbeamSolveComplete h) s = .next u ∧ u = { s with cores := u.cores, hedges := u.hedges, net := u.net } ∧
        (u.hedge h).horn = none ∧ u.net = s.net ++ [.hornbeamSolveStart h] ∧ (u.core c).units.solves = rest ∧
        (let w := Tab.getD (u.core c).regs.w v.wd {}
         w.idx = v.idx ∧ w.n = v.idx.length ∧ w.valid ∧ w.loading = false) ∧
        (∀ n, n ≠ v.wd → Tab.getD (u.core c).regs.w n {} = Tab.getD (s.core c).regs.w n {}) ∧ (u.core c).file = (s.core c).file ∧
        u.ctx c v.slot = { s.ctx c v.slot with status := .ready }))) ∧
   ((∀ (wa : Fin 8) (d : Operand) (kind : CycKind) (i : Instr) s vals t idx, i = .pidx wa d ∨ i = .pcyc wa kind d → Issues s i vals t →
      ReadsW t wa idx →
      let x := (val0 vals).toNat
      let indexed := i = .pidx wa d ∨ kind = .through
      (t.me.phase ≠ 0 → (∀ n, d ≠ .q n) → Yields i d (Tab.getD t.me.latch 100 0) s t) ∧
      (t.me.phase = 0 → indexed → idx.length ≤ x → Faults i s fcOperand x false) ∧
      (t.me.phase = 0 → (indexed → x < idx.length) → IsPerm idx → ∃ (u : State) (n : Nat) (r : Nat), Waits i s u (.cycle n) ∧ t.now ≤ n ∧ n ≤ t.now + 64 ∧
        OnlyCtx t.iss.core t.iss.slot { t with free := u.free, timers := u.timers } u ∧
        (n, .pcycPidxResume t.iss.core t.iss.slot) ∈ u.timers ∧
        u.me = { t.me with phase := 1, latch := Tab.put t.me.latch 100 (BitVec.ofNat 64 r) } ∧
        (i = .pidx wa d → r = idx.getD x 0) ∧
        (i = .pcyc wa kind d → match kind with
          | .through => CycleLen idx x r
          | .fixed => r = (List.range idx.length).countP fun k => idx.getD k 0 = k
          | .longest => (idx = [] ∧ r = 0) ∨ ((∃ k < idx.length, CycleLen idx k r) ∧ ∀ k < idx.length, ∀ l, CycleLen idx k l → l ≤ r)
          | .order => 1 ≤ r ∧ (∀ k < idx.length, (fun y => idx.getD y 0)^[r] k = k) ∧
              ∀ j, 1 ≤ j → j < r → ∃ k < idx.length, (fun y => idx.getD y 0)^[j] k ≠ k
          | .cycles => ∃ heads : List Nat, heads.Nodup ∧ r = heads.length ∧
              ∀ k, k ∈ heads ↔ k < idx.length ∧ ∀ j, k ≤ (fun y => idx.getD y 0)^[j] k))) ∧
    (∀ (wa : Fin 8) (a : Operand) s vals t, Issues s (.pstore wa a) vals t →
      let c := t.iss.core
      let z := t.useTlbs c t.me.asid flatRecord [(val0 vals).toInt]
      let found := (z.element c t.iss.slot flatRecord (val0 vals).toInt 128 128 .store true 0 0).found
      let r := Tab.getD (t.core c).regs.w wa {}
      (r.loading → Waits (.pstore wa a) s t (.loading wa)) ∧
      (r.loading = false → r.valid = false → Faults (.pstore wa a) s fcPermInvalid wa false) ∧
      (∀ idx, ReadsW t wa idx → 2 ^ 48 ≤ (val0 vals).toNat → Faults (.pstore wa a) s fcOperand (val0 vals).toNat false) ∧
      (∀ idx, ReadsW t wa idx → (val0 vals).toNat < 2 ^ 48 →
        (∀ rank code d g, found = .fault rank code d g → Faults (.pstore wa a) s code d g) ∧
        (∀ rank x, found = .hold rank x → Waits (.pstore wa a) s z x) ∧
        (∀ pa pol, found = .at_ pa pol none → t.me.pipe = [] → Missing z pa → pa % 128 = 0 → (∀ x ∈ idx, x < 128) → idx.length ≤ 128 →
          ∃ (u : State) (b : Access), Ends (.pstore wa a) s u ∧ OnlyCtx c t.iss.slot { z with net := u.net } u ∧
            u.net = t.net ++ [.ownershipRequest c t.iss.slot (pa / 128)] ∧ b.kind = .store ∧ b.line = pa / 128 ∧ b.mask = 2 ^ 1024 - 1 ∧
            (∀ k < 128, b.data / 256 ^ k % 256 = idx.getD k 0) ∧ u.me = { t.me with pipe := [b] }.complete t.nextPlace))))

/-- 10 R244, R245: QMAXX joins the round of its key at its core, which holds four, contributes to every core of its group and waits; the
round's maximum becomes its result. A breach of its fields is the operand-value fault, a round that is gone the exchange-timeout fault.
10 R244, R245: a contribution that arrives joins the round of its key, opens one, or is discarded after a timeout; the last one gives
the round its maximum and wakes its thread; one for a core out of service comes back as an error. The timeout of a round discards its
key and faults its thread, at once where it waits in its context, else when it issues again. -/
def Obligations.MaximaExchanged : Prop :=
   ((∀ (d a : Operand) s vals t, Issues s (.qmaxx d a) vals t →
      let i := Instr.qmaxx d a
      let c := t.iss.core
      let slot := t.iss.slot
      let w := (val0 vals).toNat
      let g := w / 2 ^ 32 % 8
      let tag := w / 2 ^ 40 % 2 ^ 8
      let k := t.core c
      let bad := w / 2 ^ 48 ≠ 0 ∨ w / 2 ^ 35 % 2 ^ 5 ≠ 0 ∨ 5 < g
      let key := t.me.asid * 2 ^ 48 + tag * 2 ^ 40 + g * 2 ^ 32
      let mine := fun (r : Round) => r.keyed t.me.asid g tag && r.slot == some slot
      (bad → Faults i s fcOperand w false) ∧
      (¬ bad → t.me.phase = 1 →
        (∀ r, k.units.rounds.find? (fun r => mine r && (r.result.isSome || r.failed.isSome)) = some r →
          (∀ code detail, r.failed = some (code, detail) → Faults i s code detail false) ∧
          (r.failed = none → (∀ n, d ≠ .q n) → ∃ t' : State, OnlyCore c t t' ∧
            t'.core c = { k with units := { k.units with rounds := k.units.rounds.erase r } } ∧
            Yields i d (BitVec.ofNat 64 (r.result.getD 0)) s t')) ∧
        ((∀ r ∈ k.units.rounds, mine r → r.result = none ∧ r.failed = none) → (∃ r ∈ k.units.rounds, mine r) → ∃ u : State,
          Waits i s u (.round g tag) ∧ OnlyCtx c slot t u ∧ u.me = t.me) ∧
        ((∀ r ∈ k.units.rounds, ¬ mine r) → Faults i s fcTimeout key false)) ∧
      (¬ bad → t.me.phase = 0 → k.units.heldRounds = [] → (∀ r ∈ k.units.rounds, ¬ r.keyed t.me.asid g tag) → k.openRounds.length < 4 → 1 ≤ g →
        (∀ m ∈ groupMembers (t.logical c) g, (t.rename m).st = 0) → t.logical c ∈ groupMembers (t.logical c) g → ∃ (u : State) (r : Round),
          Waits i s u (.round g tag) ∧ u = { t with cores := u.cores, net := u.net, timers := u.timers, yew := u.yew } ∧
          (u.core c).units.rounds = k.units.rounds ++ [r] ∧ r.keyed t.me.asid g tag ∧ r.slot = some slot ∧ r.contributed ∧
          r.got = [(t.logical c, w % 2 ^ 32)] ∧ r.result = none ∧ (t.now + 65536, .qmaxxTimeout c t.me.asid g tag) ∈ u.timers ∧
          u.net = t.net ++ ((groupMembers (t.logical c) g).filter (· ≠ t.logical c)).map (fun m =>
            .qmaxxContribution m t.me.asid g tag (t.logical c) (BitVec.ofNat 32 w) (t.cutBit c t.me.asid)) ∧ u.me = { t.me with phase := 1 }))) ∧
   ((∀ (dst asid g tag source : Nat) (amax : BitVec 32) (cut : Bool) (s : State),
      let i := Instr.qmaxxContribution dst asid g tag source amax cut
      let c := s.phys dst
      let k := s.core c
      (s.dropsFor (dieOf dst) asid = false → (s.rename dst).st ≠ 0 → ∃ u : State, exec i s = .next u ∧ u = { s with net := u.net, yew := u.yew } ∧
        u.net = s.net ++ [.errorMessageArrival (.qmaxx (s.phys source) asid g tag (s.chip asid * 65536 + dst))]) ∧
      (Reaches s dst asid → source < 2 ^ 32 →
        ((asid, g, tag) ∈ k.units.dropped → ∃ u : State, exec i s = .next u ∧ u = { s with yew := u.yew }) ∧
        ((asid, g, tag) ∉ k.units.dropped → k.units.heldRounds = [] → (∀ r ∈ k.openRounds, ¬ r.keyed asid g tag) → k.openRounds.length < 4 → 1 ≤ g →
          ∃ (u : State) (r : Round), exec i s = .next u ∧ u = { s with cores := u.cores, timers := u.timers, yew := u.yew } ∧
            (u.core c).units.rounds = k.units.rounds ++ [r] ∧ r.keyed asid g tag ∧ r.got = [(source, amax.toNat)] ∧ r.slot = none ∧
            r.result = none ∧ (s.now + 65536, .qmaxxTimeout c asid g tag) ∈ u.timers) ∧
        (∀ r l l', (asid, g, tag) ∉ k.units.dropped → k.units.heldRounds = [] → k.units.rounds = l ++ r :: l' → (∀ q ∈ l, ¬ q.keyed asid g tag) →
          r.keyed asid g tag → r.result = none → r.failed = none → (∀ e ∈ r.got, e.1 ≠ source) → r.got.length + 1 = 2 ^ g →
          ∃ (u : State) (r' : Round), exec i s = .next u ∧ u = { s with cores := u.cores, yew := u.yew } ∧ (u.core c).units.rounds = l ++ r' :: l' ∧
            r'.got = r.got ++ [(source, amax.toNat)] ∧ r'.result = some (r'.got.foldl (fun m e => Sys2Proof.amax32 m e.2) 0) ∧
            (∀ slot, r.slot = some slot → (s.ctx c slot).status = .parked (.round g tag) → (s.ctx c slot).asid = asid →
              (u.ctx c slot).status = .ready)))) ∧
    (∀ (c asid g tag : Nat) (s : State),
      ((∀ r ∈ (s.core c).openRounds, r.keyed asid g tag → s.now < r.opened + 65536) → exec (.qmaxxTimeout c asid g tag) s = .next s) ∧
      (∀ r, (s.core c).openRounds.find? (fun r => r.keyed asid g tag && r.opened + 65536 ≤ s.now) = some r → r.slot = none →
        (s.core c).units.heldRounds = [] → ∃ u : State, exec (.qmaxxTimeout c asid g tag) s = .next u ∧ OnlyCore c s u ∧
          (u.core c).units.rounds = (s.core c).units.rounds.erase r ∧ (asid, g, tag) ∈ (u.core c).units.dropped) ∧
      (∀ r slot, (s.core c).openRounds.find? (fun r => r.keyed asid g tag && r.opened + 65536 ≤ s.now) = some r → r.slot = some slot → r.contributed →
        (s.core c).units.heldRounds = [] → ∃ u : State, exec (.qmaxxTimeout c asid g tag) s = .next u ∧
          (slot < 63 → (s.ctx c slot).status = .parked (.round g tag) → (s.ctx c slot).asid = asid →
            (u.ctx c slot).status = .frozen ∧ (u.ctx c slot).fcode % 256 = 0x15 ∧ (u.core c).units.rounds = (s.core c).units.rounds.erase r) ∧
          (64 ≤ slot ∨ (s.ctx c slot).status ≠ .parked (.round g tag) ∨ (s.ctx c slot).asid ≠ asid →
            { r with failed := some (fcTimeout, asid * 2 ^ 48 + tag * 2 ^ 40 + g * 2 ^ 32) } ∈ (u.core c).units.rounds))))

/-! ### Threads that travel (02) -/

/-- 02 R33, R34, R36, R38, R39, R52; 05 R123: the departure of a settled thread to the holder that its block-map entry chooses, or back to its transfer
where the block has come to be held here; a message that came back, or whose directory entry was read for it, goes to the block's only
holder as that entry lists it, or to Boxwood where there is none; one that a sealed core returned waits in the spill queue, marked returned;
what an entry read, an invalidation with its acknowledgement, and a hint do. -/
def Obligations.ThreadsDepart : Prop :=
  (∀ (s : State) (c slot d kind h : Nat) (e : MapEntry),
    let k := s.core c
    let x := s.ctx c slot
    x.status = .parked (.depart d kind none) → x.pipe = [] → (∀ p ∈ x.out, p.returned ∧ (p.kind = .bfld → p.left + 8 ≤ s.now)) →
    x.pair = none →
    ((k.placedBlock x.asid (d / 512)).isSome → ∃ u : State, exec (.threadDeparture c slot) s = .next u ∧ OnlyCtx c slot s u ∧
      u.ctx c slot = { x with status := .ready }) ∧
    (∀ desc, x.gang = [] → slot ≠ 63 → k.placedBlock x.asid (d / 512) = none → k.mapEntry x.asid (d / 512) = some e →
    e.nholders ≠ 0 → entryAt e.descs (d % 512) = some desc → s.packParity c slot desc = none →
    e.choose (s.tid c slot) = some h → chipOf h = s.chip x.asid → k.NoneWaits → ∃ (u : State) (m : Travel),
      exec (.threadDeparture c slot) s = .next u ∧ u = { s with cores := u.cores, net := u.net, yew := u.yew } ∧
      u.net = s.net ++ [.travelMessageArrival h m] ∧ m.dest = d ∧ m.kind = kind ∧
      m.link = (if kind = 1 then x.pc.blk % 2 ^ 24 * 512 + (x.pc.off + 1) % 512 else x.link) ∧ m.j = none ∧ m.rolled = false ∧
      Carries s c slot desc m ∧ u.ctx c slot = {} ∧ (∀ j, j ≠ slot → u.ctx c j = s.ctx c j) ∧
      (u.core c).file = k.file ∧ (u.core c).vfile = k.vfile ∧ (u.core c).regs = k.regs ∧ ∀ a, a ≠ c → u.core a = s.core a)) ∧
  (∀ (s : State) (m : Travel) (i : Instr) (c die : Nat),
    i = .returnedTravelMessage m ∧ c = s.phys m.origin ∧ die = dieOf m.origin ∧ (s.rename m.origin).st = 0 ∧
        (∀ h, m.back = some h → chipOf h = s.chip m.asid ∧ (s.rename h).st ≠ 1) ∨
      (∃ a b, i = .blockDirectoryReadReturn c a b (some m)) ∧ die = dieOf c →
    s.openSnap = none → s.dropsFor die m.asid = false → m.kind = 0 → m.parent = none → m.j = none →
    let dir := s.dirBlock (dieOf c) m.asid (m.dest / 512)
    (∀ b h desc, dir = some b → b.placing = false → b.holders = [h] → entryAt b.descs (m.dest % 512) = some desc →
      chipOf h = s.chip m.asid → (s.rename h).st = 0 → ∃ u : State,
      exec i s = .next u ∧ u = { s with cores := u.cores, net := u.net, yew := u.yew } ∧
      u.net = s.net ++ [.travelMessageArrival h { m with
        live := desc / 2 ^ 16 % 2 ^ 16, maskLive := desc / 2 ^ 9 % 2 ^ 7, regs := m.regs.filter fun r => (desc / 2 ^ 16 % 2 ^ 16).testBit r.1,
        masks := m.masks.filter fun r => (desc / 2 ^ 9 % 2 ^ 7).testBit (r.1 - 1), cut := false, back := none }] ∧
      OnlyCore c { s with net := u.net, yew := u.yew } u ∧
      (u.core c).mapEntry m.asid (m.dest / 512) = some (s.mapOf c m.asid (m.dest / 512)) ∧ (u.core c).ctxs = (s.core c).ctxs) ∧
    (dir = none → ∃ u : State, exec i s = .next u ∧ u = { s with cores := u.cores, dies := u.dies, yew := u.yew, host := u.host } ∧
      (u.die (dieOf c)).hold = (s.die (dieOf c)).hold ++ [{ m with cut := false }] ∧
      u.host.signals = s.host.signals ++ [(1, m.asid, m.dest / 512)] ∧ (u.core c).mapEntry m.asid (m.dest / 512) = none)) ∧
  (∀ (s : State) (m : Travel) (h : Nat),
    let c := s.phys m.origin
    (s.rename m.origin).st = 0 → s.openSnap = none → s.dropsFor (dieOf m.origin) m.asid = false → m.back = some h → chipOf h = s.chip m.asid →
    (s.rename h).st = 1 → (s.core c).work.spill.full = false → s.diverted c = [] → ∃ (u : State) (q : QSlot),
      exec (.returnedTravelMessage m) s = .next u ∧ u = { s with cores := u.cores, yew := u.yew, host := u.host } ∧
      OnlyCore c { s with yew := u.yew, host := u.host } u ∧ (u.core c).work.spill.entries = (s.core c).work.spill.entries ++ [q] ∧
      q.returned ∧ q.body = .travel m ∧ (u.core c).ctxs = (s.core c).ctxs ∧ (u.core c).mapEntry m.asid (m.dest / 512) = none) ∧
  (∀ (s : State) (c asid blk : Nat), ∃ u : State, exec (.blockDirectoryReadReturn c asid blk none) s = .next u ∧ OnlyCore c s u ∧
    (u.core c).mapEntry asid blk = some (s.mapOf c asid blk) ∧ ∀ slot, u.ctx c slot =
      if (s.ctx c slot).status = .parked (.blockMap blk) ∧ (s.ctx c slot).asid = asid then { s.ctx c slot with status := .ready } else s.ctx c slot) ∧
  (∀ (s : State) (c asid blk : Nat),
    ((∀ e ∈ s.dies, e.2.removals = []) → ∃ u : State, exec (.blockMapInvalidation c asid blk) s = .next u ∧
      OnlyCore c { s with dies := u.dies } u ∧ (∀ d, u.die d = s.die d) ∧ (u.core c).ctxs = (s.core c).ctxs ∧
      ∀ a b, (u.core c).mapEntry a b = if a = asid ∧ b = blk then none else (s.core c).mapEntry a b) ∧
    (∀ (r : Removal) (d : Nat), (s.dies.map Prod.fst).Nodup → (s.die d).removals = [r] → (∀ e ∈ s.dies, e.1 ≠ d → e.2.removals = []) →
      r.asid = asid → r.blk = blk → r.acked < r.sent → ∃ u : State,
        exec (.blockMapInvalidation c asid blk) s = .next u ∧ u = { s with cores := u.cores, dies := u.dies } ∧
        (r.acked + 1 < r.sent → u.die d = { s.die d with removals := [{ r with acked := r.acked + 1 }] } ∧ ∀ a, a ≠ d → u.die a = s.die a) ∧
        (r.acked + 1 = r.sent → (u.die d).removals = [] ∧
          ((s.core (s.phys r.holder)).placedBlock asid blk = none → ∀ a b, u.dirBlock a asid blk = some b → r.holder ∉ b.holders) ∧
          (∀ p, (s.core (s.phys r.holder)).placedBlock asid blk = some p → (s.core (s.phys r.holder)).idleBlock p →
            (∀ a b, u.dirBlock a asid blk = some b → r.holder ∉ b.holders) ∧
            (u.core (s.phys r.holder)).work.placed = (s.core (s.phys r.holder)).work.placed.erase p)))) ∧
  (∀ (s : State) (c asid blk holder : Nat) (free : Bool) (e : MapEntry), (s.core c).mapEntry asid blk = some e → holder ∈ e.holders →
    ∃ (u : State) (e' : MapEntry), exec (.freeContextHint c asid blk holder free) s = .next u ∧ OnlyCore c s u ∧ (u.core c).mapEntry asid blk = some e' ∧
      e' = { e with hints := e'.hints } ∧ ∀ h, h ∈ e'.hints ↔ if h = holder then free = true else h ∈ e.hints)

/-- 02 R41 to R45; 05 R114, R115: a travelling or stolen thread that reaches a core that holds its block is admitted into the context of
lowest number, and opens a gathering window (here with none open); where no context is free it waits in the spill queue. One
that its core does not hold goes back to its origin; the messages of a discarding job are counted. The close of a window makes a gang of
its members, or lets a single one go on alone. -/
def Obligations.ThreadsArrive : Prop :=
  (∀ (s : State) (dst : Nat) (m : Travel) (i : Instr) (p : Placed) (desc : Nat), i = .travelMessageArrival dst m ∨ i = .stolenChildArrival dst m →
    Reaches s dst m.asid → (s.core (s.phys dst)).placedBlock m.asid (m.dest / 512) = some p → entryAt p.descs (m.dest % 512) = some desc →
    let c := s.phys dst
    let k := s.core c
    (∀ slot w, s.Admits c m → m.redun = false → k.freeSlot none = some slot → k.newWindow p slot = some w → k.work.gathers = [] →
      (m.regs.map Prod.fst).Nodup → (m.masks.map Prod.fst).Nodup → ∃ u : State, exec i s = .next u ∧
        u = { s with cores := u.cores, timers := u.timers, yew := u.yew } ∧ Admitted (u.core c) slot m desc w ∧
        (u.ctx c slot).status = .gathering ∧ (∀ j, j ≠ slot → u.ctx c j = s.ctx c j) ∧ (∀ a, a ≠ c → u.core a = s.core a) ∧
        (u.core c).regs = k.regs ∧ (u.core c).q = k.q ∧ (u.core c).work = { k.work with gathers :=
          [{ blk := m.dest / 512, off := m.dest % 512, asid := m.asid, cls := m.cls, close := s.now + 64, members := [slot] }] } ∧
        (s.now + 64, .gatheringWindowClose c (m.dest / 512) (m.dest % 512) m.asid m.cls) ∈ u.timers) ∧
    (s.Admits c m → m.cls ≠ 0 → k.freeSlot none = none → k.work.spill.full = false → ∃ (u : State) (q : QSlot) (m' : Travel),
      exec i s = .next u ∧ u = { s with cores := u.cores, yew := u.yew, host := u.host } ∧ OnlyCore c { s with yew := u.yew, host := u.host } u ∧
      (u.core c).ctxs = k.ctxs ∧ (u.core c).work.spill.entries = k.work.spill.entries ++ [q] ∧ q.waits = some m' ∧
      m' = { m with live := m'.live, maskLive := m'.maskLive, regs := m'.regs, masks := m'.masks })) ∧
  (∀ (s : State) (dst : Nat) (m : Travel), chipOf m.origin = s.chip m.asid → (s.rename m.origin).st = 0 → s.dropsFor (dieOf dst) m.asid = false →
    ((s.rename dst).st = 1 →
      exec (.travelMessageArrival dst m) s = .next { s with net := s.net ++ [.returnedTravelMessage { m with back := some dst }] }) ∧
    (Reaches s dst m.asid → (s.core (s.phys dst)).placedBlock m.asid (m.dest / 512) = none →
      exec (.travelMessageArrival dst m) s = .next { s with net := s.net ++ [.returnedTravelMessage m] })) ∧
  (∀ (s : State) (dst : Nat) (m : Travel) (j : Job), s.jobOf m.asid = some j → dieOf dst ∈ j.discarding → ∃ (u : State) (j' : Job),
    exec (.travelMessageArrival dst m) s = .next u ∧ u = { s with jobs := u.jobs, yew := u.yew, mem := u.mem } ∧
    u.jobOf m.asid = some j' ∧ j' = { j with discarded := j.discarded + 1, faults := j'.faults }) ∧
  (∀ (s : State) (c : Nat) (g : Gather), (s.core c).work.gathers = [g] → g.close ≤ s.now → g.members.Nodup → g.members ≠ [] →
    (∀ n ∈ g.members, (s.ctx c n).status = .gathering ∧ (s.ctx c n).asid = g.asid ∧ (s.ctx c n).cls = g.cls ∧
      (s.ctx c n).pc.blk = g.blk ∧ (s.ctx c n).pc.off = g.off ∧ (s.ctx c n).issued = false) → ∃ u : State, exec (.gatheringWindowClose c g.blk g.off g.asid g.cls) s = .next u ∧
      OnlyCore c s u ∧ (u.core c).work.gathers = [] ∧ (∀ n, n ∉ g.members → u.ctx c n = s.ctx c n) ∧
      (∀ n, g.members = [n] → u.ctx c n = { s.ctx c n with status := .ready }) ∧
      (2 ≤ g.members.length → ∀ n ∈ g.members, (u.ctx c n).status = .ready ∧ (u.ctx c n).tstat.testBit 3 ∧
        (u.ctx c n).gang.Pairwise (· < ·) ∧ (∀ j, j ∈ (u.ctx c n).gang ↔ j ∈ g.members) ∧
        u.ctx c n = { s.ctx c n with status := .ready, gang := (u.ctx c n).gang, tstat := (u.ctx c n).tstat }))

/-- 02 R47, R49, R51; 05 R112: a fork child that reaches a holder (here with no context free) joins the newest end of its deque and its parent
goes on; an idle core of the child's domain takes the oldest entry of the first deque in rank that has one, and finds nothing where none has, what a deque's owner takes in the same cycle going first; a mesh interrupt has every context of a lower
class saved, and each is saved once it has settled. -/
def Obligations.ChildrenAndPreemption : Prop :=
  (∀ (s : State) (dst : Nat) (m : Travel) (p : Placed) (pc ps : Nat), Reaches s dst m.asid →
    let c := s.phys dst
    let k := s.core c
    k.placedBlock m.asid (m.dest / 512) = some p → k.work.deque.length < 64 → k.freeSlot none = none →
    m.parent = some (pc, ps) → (s.ctx pc ps).status = .parked .accept → Tab.get? (s.core pc).work.saved ps = none → ∃ (u : State) (q : QSlot) (m' : Travel),
      exec (.forkChildArrival dst m) s = .next u ∧ u = { s with cores := u.cores, yew := u.yew } ∧ (∀ a, a ≠ c → a ≠ pc → u.core a = s.core a) ∧
      (u.core c).work = { k.work with deque := k.work.deque ++ [q] } ∧ q.waits = some m' ∧ q.returned = false ∧ q.body = .travel m' ∧
      m' = { m with live := m'.live, maskLive := m'.maskLive, regs := m'.regs, masks := m'.masks, parent := none } ∧
      u.ctx pc ps = { s.ctx pc ps with phase := 2, status := .ready } ∧
      ∀ a j, (a, j) ≠ (pc, ps) → u.ctx a j = s.ctx a j) ∧
  (∀ (s w : State) (thief owner : Nat), w = s.ownerTakes owner →
      (∀ v ∈ w.victims thief, (w.core v).work.deque = [] ∧ (w.core v).work.overflow.all = []) ∨ (w.core thief).idle = false →
      exec (.steal thief owner) s = .next w) ∧
  (∀ (r s : State) (thief owner victim : Nat) (q : QSlot) (l : List QSlot) (m : Travel) (before after : List Nat),
    let t := s.core thief
    s = r.ownerTakes owner → s.victims thief = before ++ victim :: after → (∀ v ∈ before, (s.core v).work.deque = [] ∧ (s.core v).work.overflow.all = []) →
    (s.core victim).work.deque = q :: l → (s.core victim).work.overflow.all = [] → q.waits = some m → t.idle → t.work.preempted = false →
    t.csr.stopped = false → s.inDomain thief victim m → s.jobStopped m.asid = false →
    chipOf (s.coreId m.asid thief) = s.chip m.asid → ∃ (u : State) (m' : Travel), exec (.steal thief owner) r = .next u ∧
      u = { s with cores := u.cores, net := u.net, yew := u.yew } ∧ OnlyCore victim { s with net := u.net, yew := u.yew } u ∧
      u.core victim = { s.core victim with work := { (s.core victim).work with deque := l } } ∧
      u.net = s.net ++ [.stolenChildArrival (s.coreId m.asid thief) m'] ∧
      m' = { m with kind := 4, origin := s.coreId m.asid victim, cut := s.cutBit victim m.asid }) ∧
  (∀ (s : State) (c : Nat) (n : Nat), (s.core c).work.preempted = false → (s.core c).csr.stopped = false →
    n < 63 → (s.ctx c n).status ≠ .free → (s.ctx c n).cls ≠ 0 → ∃ u : State, exec (.meshInterrupt c) s = .next u ∧
      u = { s with cores := u.cores, net := u.net } ∧ OnlyCore c { s with net := u.net } u ∧
      u.core c = { s.core c with work := { (s.core c).work with preempted := true } } ∧
      (∃ l, u.net = s.net ++ l ∧ ∀ i, i ∈ l ↔ ∃ j, (∃ x, (j, x) ∈ (s.core c).ctxs ∧ j < 63 ∧ x.status ≠ .free ∧ x.cls ≠ 0) ∧ i = .contextSave c j) ∧
      .contextSave c n ∈ u.net) ∧
  (∀ (s : State) (c slot n : Nat),
    let k := s.core c
    let x := s.ctx c slot
    k.work.preempted → k.csr.stopped = false → slot ≠ 63 → x.status ≠ .free → x.cls ≠ 0 → (∀ o ∈ k.q.meq, o.slot = slot → o.staged) →
    (x.status = .parked .engine ∨ x.status = .parked .solve → ∃ u : State, exec (.contextSave c slot) s = .next u ∧
      u = { s with timers := u.timers } ∧ (s.now + 8, .contextSave c slot) ∈ u.timers) ∧
    (x.status ≠ .parked .engine → x.status ≠ .parked .solve → x.pipe = [] →
      (∀ p ∈ x.out, p.returned ∧ (p.kind = .bfld → p.left + 8 ≤ s.now)) → k.badMain = [] → k.badVec = [] → x.gang = [] →
      n < 63 → n ≠ slot → (s.ctx c n).status ≠ .free → (s.ctx c n).cls ≠ 0 → ∃ (u : State) (v : SavedCtx), exec (.contextSave c slot) s = .next u ∧
        u = { s with cores := u.cores, dies := u.dies } ∧ Tab.get? (u.core c).work.saved slot = some v ∧ SavedFrom k x v ∧
        u.ctx c slot = {} ∧ (∀ j, j ≠ slot → u.ctx c j = s.ctx c j) ∧ (∀ a, a ≠ c → u.core a = s.core a)))

/-! ### Homes, translation and returns (04, 09, 12) -/

/-- 12 R285 to R287: requests at the home of a line that no other core owns and that carries no poison. A load of one piece takes its lease, is
performed at the later of the thread's time and the line's write time, and at policy 0 and 1 leaves a leased copy; a request for ownership is granted;
the granted store is performed past the lease, and makes the line exclusive dirty. A line that another owns is recalled first.
12 R287, R288; 04 R98: a recalled owner gives up its line, with the data where it is dirty, and keeps a leased copy; the home takes back what is
returned or written back; a remote private load is performed at the SRAM of the core that holds the owner's name, behind that core's checks of
privilege and of its split, or answered by an error where the owner is out of service. -/
def Obligations.HomesServe : Prop :=
   ((∀ (s : State) (c slot line lo n d : Nat) (a : Access) (p : Pending) (e : HomeEntry) (i : Instr),
      let x := s.ctx c slot
      let q : Pending := { p with left := 0, acc := p.acc + s.mem.read (line * 128) 128 / 2 ^ lo % 2 ^ n * 2 ^ d }
      i = .fillRequest c slot line ∨ i = .leaseRenewal c slot line → x.pipe = [a] → a.line = line → a.posted → a.kind = .load → a.join = none →
      a.segs = [(lo, n, d)] → x.out = [p] → p.seq = a.seq → a.seq ≠ 0 → p.left = 1 → p.kind = .load → s.entry? line = some e → e.recalling = false →
      e.st = .s → (∀ w < 16, Tab.get? s.poison (16 * line + w) = none) → (∀ b ∈ (s.core c).cache, b.line = line) → 
        let ts := max x.pt e.wts
        let rts := max e.rts (if a.pol < 2 then ts + 1024 else ts)
        ∃ u : State,
        exec i s = .next u ∧ u = { s with cores := u.cores, homes := u.homes, net := u.net } ∧ u.net = s.net ++ [.loadReturn c slot p.seq] ∧
        OnlyCore c { s with homes := u.homes, net := u.net } u ∧ u.entry? line = some { e with rts := rts, stamp := s.now } ∧
        (a.pol < 2 → ∃ b, (u.core c).cache = [b] ∧ b.line = line ∧ b.data = s.mem.read (line * 128) 128 ∧ b.wts = e.wts ∧ b.rts = rts ∧ b.st = .s) ∧
        (2 ≤ a.pol → (u.core c).cache = (s.core c).cache) ∧ (∀ j, j ≠ slot → u.ctx c j = s.ctx c j) ∧
        u.ctx c slot = { x with pt := ts + 1, pipe := [], out := [q] }) ∧
    (∀ (s : State) (c slot line : Nat) (a : Access) (r : List Access) (e : HomeEntry),
      let x := s.ctx c slot
      x.pipe = a :: r → a.line = line → a.posted → a.excl → a.owner = none → isSramLine line = false → a.pol < 2 → s.entry? line = some e →
      e.recalling = false → (∀ b ∈ (s.core c).cache, b.line ≠ line) → (∀ b ∈ (s.hedge (hedgeKey c)).victim, b.line ≠ line) →
      (e.st = .s → ∃ u : State, exec (.ownershipRequest c slot line) s = .next u ∧ u = { s with homes := u.homes, net := u.net } ∧
        u.net = s.net ++ [.ownershipGrant c slot line] ∧ u.entry? line = some { e with st := .x, owner := c, stamp := s.now }) ∧
      (e.st = .x ∨ e.st = .m → e.owner ≠ c → ∃ u : State, exec (.ownershipRequest c slot line) s = .next u ∧
        u = { s with homes := u.homes, net := u.net, timers := u.timers } ∧ u.net = s.net ++ [.recall line e.owner] ∧
        u.entry? line = some { e with recalling := true } ∧ (s.now + 8, .ownershipRequest c slot line) ∈ u.timers)) ∧
    (∀ (s : State) (c slot line o n v : Nat) (a : Access) (e : HomeEntry),
      let x := s.ctx c slot
      s.openSnap = none → s.entry? line = some e → e.owner = c → e.st = .x → e.recalling = false → (s.core c).cache = [] → s.mem.wf →
      (∀ b ∈ (s.hedge (hedgeKey c)).victim, b.line ≠ line) → (∀ d ∈ s.dies, d.2.joiners = []) → isSramLine line = false →
      x.pipe = [a] → a.line = line → a.kind = .store → a.seq = 0 → a.owner = none → a.join = none → a.pol < 2 → a.forced = false → 1 ≤ n → o + n ≤ 128 →
      a.mask = (2 ^ (8 * n) - 1) * 2 ^ (8 * o) → a.data = v * 2 ^ (8 * o) → v < 2 ^ (8 * n) → 
        let ts := max x.pt (e.rts + 1)
        ∃ (u : State) (b : CacheLine),
        exec (.ownershipGrant c slot line) s = .next u ∧ u = { s with cores := u.cores, homes := u.homes, mem := u.mem, poison := u.poison } ∧
        Stores s u (line * 128 + o) n v ∧ u.entry? line = some { e with st := .m } ∧ (u.core c).cache = [b] ∧ b.line = line ∧ b.st = .m ∧
        b.wts = ts ∧ b.rts = ts ∧ u.ctx c slot = { x with pt := ts + 1, pipe := [] } ∧ ∀ j, j ≠ slot → u.ctx c j = s.ctx c j)) ∧
   ((∀ (s : State) (line owner : Nat) (l : CacheLine), l.st ≠ .s →
      let copy := if owner < 2 ^ 20 then (s.core owner).cache else (s.hedge (owner - 2 ^ 20)).victim
      copy.find? (fun e => e.line == line) = some l → ∃ u : State, exec (.recall line owner) s = .next u ∧
        u.net = s.net ++ [.recallReply line l.wts l.rts (if l.st = .m then some l.data else none) l.marks] ∧
        (owner < 2 ^ 20 → OnlyCore owner { s with net := u.net } u ∧ (u.core owner).ctxs = (s.core owner).ctxs ∧
          (u.core owner).cached line = some { l with st := .s, cut := false } ∧ ∀ n, n ≠ line → (u.core owner).cached n = (s.core owner).cached n) ∧
        (2 ^ 20 ≤ owner → u = { s with net := u.net, hedges := u.hedges } ∧
          (u.hedge (owner - 2 ^ 20)).victim.find? (fun e => e.line == line) = some { l with st := .s, cut := false })) ∧
    (∀ (s : State) (line wts rts poison dat : Nat) (data : Option Nat) (e : HomeEntry) (i : Instr), s.entry? line = some e →
      (i = .recallReply line wts rts data poison ∧ e.recalling) ∨
        (i = .writeback line wts rts dat 0 data.isSome ∧ data.getD dat = dat ∧ poison = 0 ∧ e.owner < 2 ^ 20 ∧ ∀ b ∈ (s.core e.owner).cache, b.line ≠ line) →
      ∃ u : State, exec i s = .next u ∧ u = { s with homes := u.homes, mem := u.mem, poison := u.poison } ∧
        u.entry? line = some { e with st := .s, wts := max e.wts wts, rts := max e.rts rts, recalling := false } ∧
        (data = none → u.mem = s.mem) ∧ (∀ v, data = some v → Stores s u (line * 128) 128 v)) ∧
    (∀ (s : State) (c slot o lo n d : Nat) (a : Access) (p : Pending),
      let x := s.ctx c slot
      let k := s.core (s.phys o)
      let view := privateView k.csr.lsplit x.cls
      let line := a.line + sramAt (s.phys o) view.1 / 128
      let t := Tab.getD s.sramT line (0, 0)
      let q : Pending := { p with left := 0, acc := p.acc + s.mem.read (line * 128) 128 / 2 ^ lo % 2 ^ n * 2 ^ d }
      x.pipe = [a] → a.owner = some o → o < 2 ^ 30 →
      ((s.rename o).st ≠ 0 ∨ k.csr.stopped → exec (.remotePrivateRequest c slot) s =
        .next { s with net := s.net ++ [.errorMessageArrival (.access c slot o)] }) ∧
      ((s.rename o).st = 0 → k.csr.stopped = false → s.splitWaits (s.phys o) = false →
        (s.viewOpen (s.phys o) a.asid x.cls = false → slot < 63 → ∃ u : State, exec (.remotePrivateRequest c slot) s = .next u ∧
          (u.ctx c slot).status = .frozen ∧ (u.ctx c slot).fcode % 256 = 0x02) ∧
        (s.viewOpen (s.phys o) a.asid x.cls → view.2 < a.end_ → slot < 63 → ∃ u : State, exec (.remotePrivateRequest c slot) s = .next u ∧
          (u.ctx c slot).status = .frozen ∧ (u.ctx c slot).fcode % 256 = 0x08) ∧
        (s.viewOpen (s.phys o) a.asid x.cls → a.end_ ≤ view.2 → line ∉ s.pins → a.kind = .load → a.segs = [(lo, n, d)] → a.join = none →
          x.out = [p] → p.seq = a.seq → a.seq ≠ 0 → p.left = 1 → p.kind = .load → (∀ w < 16, Tab.get? s.poison (16 * line + w) = none) → ∃ u : State,
          exec (.remotePrivateRequest c slot) s = .next u ∧ u = { s with cores := u.cores, sramT := u.sramT, net := u.net } ∧
          u.net = s.net ++ [.loadReturn c slot p.seq] ∧ OnlyCore c { s with sramT := u.sramT, net := u.net } u ∧
          Tab.getD u.sramT line (0, 0) = (t.1, max t.2 (max x.pt t.1)) ∧ (∀ j, j ≠ slot → u.ctx c j = s.ctx c j) ∧
          u.ctx c slot = { x with pt := max x.pt t.1 + 1, pipe := [], out := [q] }))))

/-- 04 R103 to R108: a page walk whose three tables are sound and hold the page lets every thread that waits for it go on, with the leaf in its
TLBs; an absent leaf has them wait for Ozine, who is told. A shootdown asks every hedge it names, each drops the page, and the last answer ends it. -/
def Obligations.TranslationSteps : Prop :=
  (∀ (s : State) (die asid va : Nat) (d : AsidEntry), Tab.get? (s.die die).asids asid = some d →
    let a0 := d.root + 8 * (va / 2 ^ 34 % 2 ^ 14)
    let e0 := s.mem.read a0 8
    let a1 := e0 / 2 ^ 16 % 2 ^ 32 * 65536 + 8 * (va / 2 ^ 21 % 2 ^ 13)
    let e1 := s.mem.read a1 8
    let a2 := e1 / 2 ^ 16 % 2 ^ 32 * 65536 + 8 * (va / 2 ^ 16 % 2 ^ 5)
    let e2 := s.mem.read a2 8
    let sound := fun (e : Nat) => e / 2 ^ 48 % 2 ^ 12 = 0 ∧ e / 2 ^ 4 % 2 ^ 12 = 0 ∧ e.testBit 60 = false
    let waits := fun (c slot : Nat) => dieOf c = die ∧ (s.ctx c slot).asid = asid ∧ ∃ v, (s.ctx c slot).status = .parked (.walk v) ∧ v / 65536 = va / 65536
    (s.cores.map Prod.fst).Nodup → (∀ c, ((s.core c).ctxs.map Prod.fst).Nodup) →
    (∀ a ∈ [a0, a1, a2], Tab.get? s.poison (a / 8) = none ∧ s.AtHome (a / 128)) → sound e0 → sound e1 → sound e2 → e0 / 2 ^ 61 = 1 → e1 / 2 ^ 61 = 1 →
    (1 ≤ e2 / 2 ^ 61 → e2 / 2 ^ 61 ≤ 5 → ∃ u : State, exec (.pageWalkComplete die asid va) s = .next u ∧
      u = { s with cores := u.cores, hedges := u.hedges, dies := u.dies, homes := u.homes, net := u.net } ∧
      ∀ c slot, (waits c slot → u.ctx c slot = { s.ctx c slot with status := .ready } ∧
          ∃ t ∈ (u.core c).tlb, t.asid = asid ∧ t.vpn = va / 65536 ∧ t.pte = e2 ∧ t.large = false) ∧
        (¬ waits c slot → u.ctx c slot = s.ctx c slot)) ∧
    (e2 / 2 ^ 61 = 0 → ∃ u : State, exec (.pageWalkComplete die asid va) s = .next u ∧
      u = { s with cores := u.cores, dies := u.dies, homes := u.homes, net := u.net, host := u.host } ∧
      u.host.signals = s.host.signals ++ [(6, asid, va)] ∧ ∀ c slot,
        (∀ v, waits c slot → (s.ctx c slot).status = .parked (.walk v) → u.ctx c slot = { s.ctx c slot with status := .parked (.pageIn v) }) ∧
        (¬ waits c slot → u.ctx c slot = s.ctx c slot))) ∧
  (∀ (s : State) (die asid va : Nat) (hedges : List Nat), hedges ≠ [] → ∃ u : State, exec (.tlbShootdown die asid va hedges) s = .next u ∧
    u = { s with dies := u.dies, net := u.net } ∧ u.net = s.net ++ hedges.map (fun h => .shootdownAck die h asid va) ∧
    (u.die die).shoots = (s.die die).shoots ++ [{ asid := asid, va := va, sent := hedges.length, acked := 0 }]) ∧
  (∀ (s : State) (die hedge asid va : Nat),
    (s.usesPage hedge va → ∃ u : State, exec (.shootdownAck die hedge asid va) s = .next u ∧
      u = { s with cores := u.cores, hedges := u.hedges, timers := u.timers } ∧ (s.now + 8, .shootdownAck die hedge asid va) ∈ u.timers) ∧
    (s.usesPage hedge va = false → ∃ u : State, exec (.shootdownAck die hedge asid va) s = .next u ∧
      u = { s with cores := u.cores, hedges := u.hedges, dies := u.dies } ∧
      (∀ c, (u.core c).tlb = if hedgeKey c = hedge then (s.core c).tlb.filter (fun e => !e.hits asid va) else (s.core c).tlb) ∧
      (u.hedge hedge).l2tlb = (s.hedge hedge).l2tlb.filter (fun e => !e.hits asid va) ∧ (∀ c slot, u.ctx c slot = s.ctx c slot) ∧
      (∀ t, (s.die die).shoots = [t] → t.asid = asid → t.va = va →
        (u.die die).shoots = if t.acked + 1 < t.sent then [{ t with acked := t.acked + 1 }] else [])))

/-- 09 R212, R216; 07 R154, R155; 10 R243: a load or atomic whose accesses have been performed returns its result to its register: extended, full, or
into the active elements of a vector; a thread parked at a switch marker with no other result goes on, and none is outstanding. -/
def Obligations.ResultsReturn : Prop :=
  ∀ (s : State) (c slot seq : Nat) (p : Pending) (l l' : List Pending) (i : Instr), i = .loadReturn c slot seq ∨ i = .atomicReturn c slot seq →
    let k := s.core c
    let x := s.ctx c slot
    let v := if p.signed then (BitVec.signExtend 64 (BitVec.ofNat (8 * p.bytes) p.acc)).toNat else p.acc
    x.out = l ++ p :: l' → p.seq = seq → (∀ q ∈ l ++ l', q.seq ≠ seq) → p.returned = false → p.left = 0 → p.kind = .load ∨ p.kind = .atomic →
    x.pair = none → p.clash = false → (x.status = .parked .marker → l = [] ∧ l' = []) → ∃ u : State,
      exec i s = .next u ∧ OnlyCore c s u ∧ (∀ j, j ≠ slot → u.ctx c j = s.ctx c j) ∧
      (∀ e, Tab.getD (u.core c).file e 0 = if pendEntry x p.dest = some e then BitVec.ofNat 64 v else Tab.getD k.file e 0) ∧
      (∀ e, e ∈ (u.core c).empty ↔ e ∈ k.empty ∧ pendEntry x p.dest ≠ some e) ∧
      (∀ n, Tab.getD (u.ctx c slot).h n 0 = if p.dest = .h n then BitVec.ofNat 64 v else Tab.getD x.h n 0) ∧
      (∀ n, Tab.getD (u.core c).regs.k n 0 = if p.dest = .k n then BitVec.ofNat 64 v else Tab.getD k.regs.k n 0) ∧
      (∀ e, ∀ b < 1024, (Tab.getD (u.core c).vfile e 0).getLsbD b =
        if pendVec x p.dest = some e ∧ p.mask.testBit b then v.testBit b else (Tab.getD k.vfile e 0).getLsbD b) ∧
      (x.status = .parked .marker → u.ctx c slot = { x with h := (u.ctx c slot).h, out := [], status := .ready }) ∧
      (x.status ≠ .parked .marker → u.ctx c slot = { x with h := (u.ctx c slot).h, out := (u.ctx c slot).out } ∧
        ∃ q ∈ (u.ctx c slot).out, q.seq = seq ∧ q.returned ∧ q.acc = v ∧ q.dest = p.dest)

/-! ### Messages and the porter (08, 09) -/

/-- 08 R183, R184; 12 R293: an addressed message writes its register full, at the message's time, and ends the target's wait on it and its IDLE;
an unaddressed one joins INQ, or the spill queue when INQ is full; one that cannot be delivered goes back, and then into the job's fault record.
08 R193, R195; 13 R313; 02 R51: a trap record that Boxwood accepts, or Yew's answer, lets the waiting thread go on; a pre-empted core with no
class-0 thread left gives a saved context its slot, windows, registers and state back. -/
def Obligations.MessagesDelivered : Prop :=
   ((∀ (s : State) (m : SendMsg), Reaches s (sendCore m) m.asid → chipOf (m.tid / 64) = s.chip m.asid →
      let c := s.phys (sendCore m)
      let k := s.core c
      let slot := m.tgt.toNat / 2 ^ 8 % 2 ^ 6
      let n := m.tgt.toNat % 2 ^ 7
      let x := s.ctx c slot
      let back := ∃ u : State, exec (.sendArrival m) s = .next u ∧ u = { s with net := u.net, yew := u.yew } ∧ u.net = s.net ++ [.returnedSend m]
      (slot ≠ 63 → x.status = .free ∨ x.asid ≠ m.asid → (∀ v ∈ k.work.saved, v.2.slot = slot → v.2.ctx.asid ≠ m.asid) → back) ∧
      (slot ≠ 63 → x.status ≠ .free → x.asid = m.asid → x.mainSize ≤ n → back) ∧
      (slot ≠ 63 → x.status ≠ .free → x.asid = m.asid → n < x.mainSize → x.pair = none → ∃ u : State, exec (.sendArrival m) s = .next u ∧
        u = { s with cores := u.cores, yew := u.yew } ∧ OnlyCore c { s with yew := u.yew } u ∧ (∀ j, j ≠ slot → u.ctx c j = s.ctx c j) ∧
        (∀ e, Tab.getD (u.core c).file e 0 = if e = x.win.mainBase + n then m.v else Tab.getD k.file e 0) ∧
        (∀ e, e ∈ (u.core c).empty ↔ e ∈ k.empty ∧ e ≠ x.win.mainBase + n) ∧ (u.core c).regs = k.regs ∧ (u.core c).q = k.q ∧
        Observes { x with out := (u.ctx c slot).out, status := (u.ctx c slot).status } (u.ctx c slot) m.ts ∧
        ((u.ctx c slot).status = .ready ∧ (x.status = .parked (.full n) ∨ ∃ t, x.status = .parked (.idle t)) ∨
          (u.ctx c slot).status = x.status ∧ x.status ≠ .parked (.full n) ∧ ∀ t, x.status ≠ .parked (.idle t))) ∧
      (slot = 63 → k.handlerOf (activeItem m) = none → back) ∧
      (slot = 63 → (k.handlerOf (activeItem m)).isSome → ∃ (u : State) (i : PorterItem), exec (.sendArrival m) s = .next u ∧ u = { s with cores := u.cores, net := u.net, yew := u.yew } ∧
        u.net = s.net ++ [.porterHandlerStart c] ∧ (u.core c).work = { k.work with porterQ := k.work.porterQ ++ [i] } ∧
        i.blk * 512 + i.off = m.v.toNat % 2 ^ 33 ∧ i.asid = m.asid ∧ i.cls = m.cls ∧ i.pt = m.ts + 1 ∧
        i.regs = [(0, BitVec.ofNat 64 (m.v.toNat / 2 ^ 33)), (1, BitVec.ofNat 64 m.tid)] ∧ (u.core c).ctxs = k.ctxs)) ∧
    (∀ (s : State) (m : SendMsg), Reaches s (sendCore m) m.asid → chipOf (m.tid / 64) = s.chip m.asid →
      let c := s.phys (sendCore m)
      let k := s.core c
      (k.csr.shasid ≠ m.asid → ∃ u : State, exec (.senduArrival m) s = .next u ∧ u = { s with net := u.net, yew := u.yew } ∧
        u.net = s.net ++ [.returnedSend m]) ∧
      (k.csr.shasid = m.asid → k.q.inq.length < 16 → k.q.held = [] → k.q.waiters = [] → k.work.spill.all = [] → s.diverted c = [] → ∃ u : State, exec (.senduArrival m) s = .next u ∧
        OnlyCore c { s with yew := u.yew } u ∧ (u.core c).q = { k.q with inq := k.q.inq ++ [(m.v, m.ts)] } ∧ (u.core c).file = k.file ∧
        ∀ slot, u.ctx c slot = (match (s.ctx c slot).status with
          | .parked (.idle _) => { s.ctx c slot with status := .ready }
          | _ => s.ctx c slot)) ∧
      (k.csr.shasid = m.asid → 16 ≤ k.q.inq.length → k.work.spill.full = false → s.diverted c = [] → ∃ (u : State) (q : QSlot), exec (.senduArrival m) s = .next u ∧
        u = { s with cores := u.cores, yew := u.yew, host := u.host } ∧ (u.core c).work.spill.entries = k.work.spill.entries ++ [q] ∧
        q.body = .send m ∧ q.returned = false ∧ (u.core c).q = k.q ∧ (u.core c).ctxs = k.ctxs)) ∧
    (∀ (s : State) (m : SendMsg) (j : Job), s.jobOf m.asid = some j → dieOf (m.tid / 64) ∉ j.discarding → s.job j.num = some j → ∃ (u : State) (j' : Job),
      exec (.returnedSend m) s = .next u ∧ u = { s with jobs := u.jobs, mem := u.mem } ∧ u.jobOf m.asid = some j' ∧
      j' = { j with faults := j'.faults, written := j.written + 1 } ∧
      j'.faults = j.faults ++ [{ d0 := 2 ^ 60 + m.asid * 2 ^ 30 + m.tid, d1 := 0, d2 := m.tgt.toNat, d3 := m.v.toNat }])) ∧
   ((∀ (s : State) (c slot : Nat) (r : TrapRec) (i : Instr), i = .trapRecordAccept c slot r ∨ i = .snapAnswer c slot → s.openSnap = none →
      (s.ctx c slot).status = .parked .accept → Tab.get? (s.core c).work.saved slot = none → ∃ u : State, exec i s = .next u ∧
        u = { s with cores := u.cores, dies := u.dies } ∧ (i = .snapAnswer c slot → u.dies = s.dies) ∧
        (i = .trapRecordAccept c slot r → (u.die (dieOf c)).traps = (s.die (dieOf c)).traps ++ [r]) ∧
        OnlyCtx c slot { s with dies := u.dies } u ∧ u.ctx c slot = { s.ctx c slot with phase := 2, status := .ready }) ∧
    (∀ (s : State) (c n : Nat) (v : SavedCtx),
      let k := s.core c
      let w := v.ctx.win
      k.work.preempted → (∀ e ∈ k.ctxs, e.1 ≠ 63 → e.2.status = .free) → k.work.saved = [(n, v)] → n < 63 → k.work.spill.all = [] → k.work.deque = [] →
      k.work.overflow.all = [] → s.diverted c = [] → v.main.length = 8 * (w.mainCode + 1) → v.vec.length = 4 * w.vecCode → (∀ g t, v.ctx.prior ≠ some (.parked (.round g t))) →
      ∃ u : State, exec (.coreResume c) s = .next u ∧ OnlyCore c s u ∧ (u.core c).work = { k.work with preempted := false, saved := [] } ∧
        u.ctx c n = { v.ctx with status := v.ctx.prior.getD .ready, prior := none } ∧ (∀ j, j ≠ n → u.ctx c j = s.ctx c j) ∧
        (∀ i < 8 * (w.mainCode + 1), v.main[i]? = some (Tab.getD (u.core c).file (w.mainBase + i) 0) ∧ (w.mainBase + i ∈ (u.core c).empty ↔ i ∈ v.empty)) ∧
        ∀ i < 4 * w.vecCode, v.vec[i]? = some (Tab.getD (u.core c).vfile (w.vecBase + i) 0)))

/-- 08 R185, R186; 09 R222, R223; 04 R98: active messages and landing packets join the porter's queue, and the idle porter takes the oldest: a handler starts
in its windows with only its arguments not zero, and a store of another chip, a copy engine's told to it, is performed at the SRAM. A SEND of
another chip's thread joins that queue (08 R182), and its turn writes the register. What would use a split that waits to change, and what comes
from another chip behind it, stays at its router (04 R86; the order of what another chip sends: log 98). -/
def Obligations.PorterServes : Prop :=
  (∀ (s : State) (dst : Nat) (i : PorterItem), Reaches s dst i.asid →
    let c := s.phys dst
    let k := s.core c
    let queued := fun (ev : Instr) => ∃ u : State, exec ev s = .next u ∧ u = { s with cores := u.cores, net := u.net, yew := u.yew } ∧
      u.net = s.net ++ [.porterHandlerStart c] ∧ (u.core c).work = { k.work with porterQ := k.work.porterQ ++ [i] } ∧ (u.core c).ctxs = k.ctxs
    (s.itemAway i → s.splitWaits c → ∃ u : State, exec (.activeMessageArrival dst i) s = .next u ∧ u = { s with timers := u.timers } ∧
      (2 ^ 64, .activeMessageArrival dst i) ∈ u.timers) ∧
    (s.itemAway i = false ∨ s.splitWaits c = false → i.wr.isSome ∨ (carriedMsg i).isSome ∨ (k.handlerOf i).isSome → queued (.activeMessageArrival dst i)) ∧
    (i.wr = none → carriedMsg i = none → i.land = none → k.handlerOf i = none → ∀ m, i.msg = some m → chipOf (m.tid / 64) = s.chip m.asid → ∃ u : State,
      exec (.activeMessageArrival dst i) s = .next u ∧ u = { s with net := u.net, yew := u.yew } ∧ u.net = s.net ++ [.returnedSend m]) ∧
    (∀ m, sendCore m = dst → i = carriedItem m → chipOf (m.tid / 64) ≠ s.chip m.asid → s.splitWaits c = false →
      (m.unaddressed = false → m.tgt.toNat / 2 ^ 8 % 2 ^ 6 ≠ 63 → queued (.sendArrival m)) ∧ queued (.senduArrival m)) ∧
    (∀ l, i.land = some l → i.msg = none → i.wr = none → chipOf l.core = s.chip i.asid → s.splitWaits c = false →
      (k.csr.shasid = i.asid → (k.handlerOf i).isSome → queued (.landingPacketArrival dst i)) ∧
      (k.csr.shasid ≠ i.asid ∨ k.handlerOf i = none → ∃ u : State, exec (.landingPacketArrival dst i) s = .next u ∧ u = { s with net := u.net, yew := u.yew } ∧
        u.net = s.net ++ [.copyPacketLanding (s.phys l.core) l.chan l.id (l.pkt + 2 ^ 32 * 3)]))) ∧
  (∀ (s : State) (c : Nat) (i : PorterItem) (l : List PorterItem),
    let k := s.core c
    k.work.porter = none → k.csr.stopped = false → k.work.porterQ = i :: l → s.jobStopped i.asid = false → k.work.porters = [] →
    (∀ p off, i.wr = none → carriedMsg i = none → k.handlerOf i = some (p, off) → (i.regs.map Prod.fst).Nodup → (∀ r ∈ i.regs, r.1 < 32) → ∃ u : State,
      exec (.porterHandlerStart c) s = .next u ∧ OnlyCore c s u ∧ (u.core c).work = { k.work with porterQ := l, porter := some i } ∧
      (∀ j, j ≠ 63 → u.ctx c j = s.ctx c j) ∧
      u.ctx c 63 = { status := .ready, pc := { blk := i.blk, off := off }, asid := i.asid, cls := i.cls, pt := i.pt,
                     win := { mainBase := 2016, mainCode := p.mainCode, vecBase := 252, vecCode := p.vecCode } } ∧
      (∀ r ∈ i.regs, Tab.getD (u.core c).file (2016 + r.1) 0 = r.2) ∧
      (∀ n < 32, (∀ r ∈ i.regs, r.1 ≠ n) → Tab.getD (u.core c).file (2016 + n) 0 = 0) ∧ (∀ n < 32, 2016 + n ∉ (u.core c).empty) ∧
      (∀ n < 4, Tab.getD (u.core c).vfile (252 + n) 0 = 0) ∧ (∀ e < 2016, Tab.getD (u.core c).file e 0 = Tab.getD k.file e 0)) ∧
    (∀ m,
      let slot := m.tgt.toNat / 2 ^ 8 % 2 ^ 6
      let n := m.tgt.toNat % 2 ^ 7
      let x := s.ctx c slot
      i.wr = none → i.msg = some m → m.unaddressed = false → slot ≠ 63 → x.status ≠ .free → x.asid = m.asid → n < x.mainSize → x.pair = none → ∃ u : State,
      exec (.porterHandlerStart c) s = .next u ∧ u = { s with cores := u.cores, net := s.net ++ [.porterHandlerStart c] } ∧ (∀ e, e ≠ c → u.core e = s.core e) ∧
      (u.core c).work = { k.work with porterQ := l } ∧ (∀ j, j ≠ slot → u.ctx c j = s.ctx c j) ∧
      (∀ e, Tab.getD (u.core c).file e 0 = if e = x.win.mainBase + n then m.v else Tab.getD k.file e 0) ∧
      (∀ e, e ∈ (u.core c).empty ↔ e ∈ k.empty ∧ e ≠ x.win.mainBase + n) ∧
      Observes { x with out := (u.ctx c slot).out, status := (u.ctx c slot).status } (u.ctx c slot) m.ts) ∧
    (∀ w, i.wr = some w → w.op = 0 → w.h = 0 → s.viewOpen c i.asid i.cls →
      let view := privateView k.csr.lsplit i.cls
      let a := sramAt c (view.1 + w.offset)
      w.offset + w.bytes ≤ view.2 → a / 128 ∉ s.pins → a % 128 + w.bytes ≤ 128 → s.openSnap = none → (∀ d ∈ s.dies, d.2.joiners = []) → s.mem.wf →
      1 ≤ w.bytes → w.value < 2 ^ (8 * w.bytes) → ∃ u : State, exec (.porterHandlerStart c) s = .next u ∧
        u = { s with cores := u.cores, mem := u.mem, poison := u.poison, sramT := u.sramT, net := u.net, outbox := u.outbox } ∧
        Stores s u a w.bytes w.value ∧ (i.land = none → u.net = s.net ++ [.porterHandlerStart c] ∧ u.outbox = s.outbox) ∧
        (∀ q, i.land = some q → chipOf q.core ≠ s.chip i.asid → u.net = s.net ++ [.porterHandlerStart c] ∧
          u.outbox = s.outbox ++ [{ chip := chipOf q.core, msg := .copyPacketLanding (s.phys q.core) q.chan q.id q.pkt }]) ∧ (u.core c).work = { k.work with porterQ := l } ∧ (u.core c).ctxs = k.ctxs ∧
        let ts := max i.pt ((Tab.getD s.sramT (a / 128) (0, 0)).2 + 1)
        Tab.getD u.sramT (a / 128) (0, 0) = (ts, ts)))

/-! ### The copy engine and the chain unit (05, 09, 10, 14) -/

/-- 05 R120; 09 R221, R222; 04 R90: the head of CPQ is accepted unless its channel is frozen or full or a line it writes is pinned, and pins its
SRAM lines; a packet whose bytes were read leaves for the line that holds its destination; the last packet of a transfer is performed past the line's lease, and the completion enters EVQ and moves the
watermark; a handler that failed ends its transfer with its status.
14 R322: a frozen channel that Ozine resumes is open again; one that it flushes ends its requests of CPQ with ADDRSPACE, and is open again. -/
def Obligations.CopiesRun : Prop :=
   ((∀ (s : State) (c : Nat) (r : CopyReq) (rest : List CopyReq), (s.core c).q.cpq = r :: rest →
      let k := s.core c
      let full := 4096 ≤ (k.units.transfers.filter fun t => t.req.chan == r.chan && !t.done).length
      let pinned := ∃ l ∈ s.copyLines c r, l ∈ s.pins
      (r.chan ∈ k.units.frozen ∨ full ∨ pinned → exec (.copyAccept c) s = .next s) ∧
      (r.chan ∉ k.units.frozen → ¬ full → ¬ pinned → k.csr.stopped = false → s.jobStopped r.asid = false → ∃ (u : State) (t : Transfer),
        exec (.copyAccept c) s = .next u ∧
        OnlyCore c { s with net := u.net, pins := s.pins ++ s.copyLines c r } u ∧ (u.core c).q = { k.q with cpq := rest } ∧ (u.core c).ctxs = k.ctxs ∧
        (u.core c).units = { k.units with transfers := k.units.transfers ++ [t] } ∧
        t = { req := r, tc := r.t0, lines := s.copyLines c r, row := t.row, byte := t.byte } ∧
        ∀ i ∈ u.net, i ∈ s.net ∨ i = .copyAccept c ∨ i = .copyPacketStart c)) ∧
    (∀ (s z w : State) (c : Nat) (t : Transfer) (se de : Int) (n v ts a : Nat) (o : Option Nat), (s.core c).nextChan = some t → (s.core c).csr.stopped = false →
      let s' := s.modCore c fun k => { k with units := { k.units with lastChan := t.req.chan } }
      t.packet = (se, de, n) → n ≠ 0 → recBounds t.req.src = 0 → recBounds t.req.dst = 0 → rqHandler t.req.rq = 0 →
      s'.readBytes c t.req.asid t.req.cls t.req.src t.req.t0 (se + (0 : Nat)) n = .ok (v, ts, z) →
      z.packetPlace c t.req (de + (0 : Nat)) n = (.at_ a o, w) → ∃ (u : State) (p : Packet),
        exec (.copyPacketStart c) s = .next u ∧ u = { w with cores := u.cores, net := u.net } ∧ OnlyCore c { w with net := u.net } u ∧
        p = { pkt := t.next, line := a / 128, mask := (2 ^ (8 * n) - 1) * 2 ^ (a % 128 * 8), data := v % 2 ^ (8 * n) * 2 ^ (a % 128 * 8), remote := o } ∧
        (u.core c).units.transfers = (w.core c).units.transfers.map (fun y =>
          if y.req.chan = t.req.chan ∧ y.req.id = t.req.id then { y.pass with tc := max y.tc ts, flying := y.flying ++ [p] } else y) ∧
        .copyPacketLanding c t.req.chan t.req.id t.next ∈ u.net) ∧
    (∀ (s : State) (c ch id pkt : Nat) (t : Transfer) (p : Packet),
      let k := s.core c
      k.units.transfers = [t] → t.req.chan = ch → t.req.id = id → t.done = false → t.status = none → t.flying = [p] → p.pkt = pkt % 2 ^ 32 →
      t.lines = [] → s.dropsFor (dieOf c) t.req.asid = false → k.q.evq.length < 32 → k.q.held = [] → k.q.waiters = [] → k.q.cpq = [] → Tab.getD k.units.cpdone ch 0 = id → id < 2 ^ 48 →
      (∀ e o n v, pkt < 2 ^ 32 → rqCount t.req.rq ≤ t.row → rqEvent t.req.rq → p.remote = none → s.AtHome p.line → s.entry? p.line = some e →
        s.openSnap = none → (∀ d ∈ s.dies, d.2.joiners = []) → s.mem.wf → 1 ≤ n → o + n ≤ 128 → p.mask = (2 ^ (8 * n) - 1) * 2 ^ (8 * o) →
        p.data = v * 2 ^ (8 * o) → v < 2 ^ (8 * n) → 
          let ts := max t.req.t0 (e.rts + 1)
          ∃ u : State,
          exec (.copyPacketLanding c ch id pkt) s = .next u ∧ u = { s with cores := u.cores, homes := u.homes, mem := u.mem, poison := u.poison } ∧
          Stores s u (p.line * 128 + o) n v ∧ u.entry? p.line = some { e with st := .s, wts := ts, rts := ts, stamp := s.now } ∧
          (u.core c).units.transfers = [] ∧ Tab.getD (u.core c).units.cpdone ch 0 = (id + 1) % 2 ^ 48 ∧
          (u.core c).q = { k.q with evq := k.q.evq ++ [(BitVec.ofNat 64 (ch * 2 ^ 58 + id), max t.tc ts)] }) ∧
      (∀ st, pkt / 2 ^ 32 = st → st ≠ 0 → st ≠ 8 → ∃ u : State, exec (.copyPacketLanding c ch id pkt) s = .next u ∧ u = { s with cores := u.cores } ∧
        (u.core c).units.transfers = [] ∧ Tab.getD (u.core c).units.cpdone ch 0 = (id + 1) % 2 ^ 48 ∧
        (u.core c).q = { k.q with evq := k.q.evq ++ [(BitVec.ofNat 64 (ch * 2 ^ 58 + st * 2 ^ 48 + id), t.tc)] }))) ∧
   ((∀ (s : State) (c ch : Nat), ∃ u : State, exec (.channelResume c ch) s = .next u ∧ OnlyCore c { s with net := u.net } u ∧
      (u.core c).units = { (s.core c).units with frozen := (s.core c).units.frozen.filter (· ≠ ch) } ∧ (u.core c).q = (s.core c).q ∧
      (u.core c).ctxs = (s.core c).ctxs ∧ .copyAccept c ∈ u.net) ∧
    (∀ (s : State) (c ch : Nat) (r : CopyReq),
      let k := s.core c
      (ch ∉ k.units.frozen → exec (.channelFlush c ch) s = .next s) ∧
      (ch ∈ k.units.frozen → k.q.cpq.filter (fun e => e.chan == ch) = [r] → k.units.transfers = [] → s.dropsFor (dieOf c) r.asid = false → k.q.evq.length < 32 →
        k.q.held = [] → k.q.waiters = [] → Tab.getD k.units.cpdone ch 0 = r.id → r.id < 2 ^ 48 → ∃ u : State, exec (.channelFlush c ch) s = .next u ∧
          OnlyCore c { s with net := u.net } u ∧ ch ∉ (u.core c).units.frozen ∧ (u.core c).units.transfers = [] ∧ .copyAccept c ∈ u.net ∧
          Tab.getD (u.core c).units.cpdone ch 0 = (r.id + 1) % 2 ^ 48 ∧
          (u.core c).q = { k.q with cpq := k.q.cpq.filter (fun e => e.chan != ch),
                                    evq := k.q.evq ++ [(BitVec.ofNat 64 (ch * 2 ^ 58 + 8 * 2 ^ 48 + r.id), r.t0)] })))

/-- 10 R248 to R250; 04 R90: the chain unit takes the oldest command, one at a time; a misaligned descriptor ends it with status 09H; a sound descriptor
and its records stand until the run, with the SRAM lines that the command writes pinned; a run that reaches its last element without an amax word ends with status 0 and a record where one is asked for,
and its thread's FENCEB no longer waits for it. -/
def Obligations.ChainsRun : Prop :=
  (∀ (s : State) (c : Nat) (q : ChainReq) (rest : List ChainReq), (s.core c).q.chq = q :: rest → (s.core c).csr.stopped = false → s.jobStopped q.asid = false →
    (s.core c).units.chains = [] →
    let k := s.core c
    let s' := s.modCore c fun k => { k with q := { k.q with chq := rest }, units := { k.units with chain := some { req := q, tc := q.t0 } } }
    (k.units.chain ≠ none → exec (.chainCommandAccept c) s = .next s) ∧
    (k.units.chain = none → q.addr % 128 ≠ 0 → s.dropsFor (dieOf c) q.asid = false → k.q.evq.length < 32 → k.q.held = [] → k.q.waiters = [] → ∃ u : State,
      exec (.chainCommandAccept c) s = .next u ∧ OnlyCore c { s with net := u.net } u ∧ (u.core c).units = k.units ∧
      (u.core c).q = { k.q with chq := rest, evq := k.q.evq ++ [(BitVec.ofNat 64 (2 ^ 60 + 9 * 2 ^ 48 + q.addr % 2 ^ 48), q.t0)] }) ∧
    (∀ z w v ts a b d, k.units.chain = none → q.addr % 128 = 0 → s'.readVirtual c q.asid q.t0 q.addr 16 = .ok (v, ts, z) →
      let r : ChainRun := { req := q, tc := max q.t0 ts, d := (List.range 16).map fun i => v / 2 ^ (64 * i) % 2 ^ 64 }
      chBreaks r = false → (z.core c).csr.shasid = q.asid → z.chainRecords c r = (some a, some b, some d, w) →
      chStreamBreaks r a (chOffset r 1) = false → chStreamBreaks r d (chOffset r 2) = false → (chTwo r → chStreamBreaks r b (chOffset r 3) = false) →
      (chD r 7 % 4 = 0 ∨ recFormat d = 0x30) →
      let lines := w.chainLines c { r with src := a, src2 := b, dst := d }
      (∀ l ∈ lines, l ∉ w.pins) → ∃ u : State, exec (.chainCommandAccept c) s = .next u ∧ OnlyCore c { w with net := u.net, pins := w.pins ++ lines } u ∧
        (u.core c).units = { (w.core c).units with chain := some { r with src := a, src2 := b, dst := d, lines := lines } } ∧
        .chainCommandComplete c ∈ u.net)) ∧
  (∀ (s z : State) (c slot : Nat) (r r' : ChainRun),
    let x := s.chainRun c r { rec_ := r.src, off := chOffset r 1 } { rec_ := r.src2, off := chOffset r 3 } [] (chCount r - r.next)
    (s.core c).units.chain = some r → (s.core c).csr.stopped = false → r.wait = none → r.d ≠ [] → r.next ≠ 0 → x.stop = none →
    x.st.chainFlush c x.run = (r', z) → r'.lines = [] → chAmax r' = false → r'.req.id ∈ (z.ctx c slot).cmds → z.dropsFor (dieOf c) r'.req.asid = false → (z.core c).q.evq.length < 32 →
    (z.core c).q.held = [] → (z.core c).q.waiters = [] → ∃ u : State, exec (.chainCommandComplete c) s = .next u ∧ OnlyCore c { z with net := u.net } u ∧
      (u.core c).units.chain = none ∧ r'.req.id ∉ (u.ctx c slot).cmds ∧ (u.ctx c slot).cmdTc = max (z.ctx c slot).cmdTc r'.tc ∧
      (u.core c).q.evq = (z.core c).q.evq ++ if chEvent r' then [(BitVec.ofNat 64 (2 ^ 60 + r'.req.addr % 2 ^ 48), r'.tc)] else [])

/-! ### The task scheduler and the matrix engine (05, 11, 13) -/

/-- 05 R116; 11 R274; 13 R303 to R306: a pushed record enters its die's view with its pusher as origin, and its class's queue where its counter is zero;
a waiting record whose counter comes to zero is queued; a selected tile record that runs leaves its queue and offers its tiles in order,
each at the engine whose grant to the ASID comes next; without a grant the record fails. -/
def Obligations.TasksScheduled : Prop :=
  (∀ (s z y : State) (c a asid cls pt v ts v8 ts8 : Nat) (rest : List (Nat × Nat × Nat × Nat)),
    let die := dieOf c
    let name := asid * 2 ^ 48 + a
    let r : Rec := { addr := name, asid := asid, header := 0, origAsid := asid, origCls := cls, cls := cls, since := z.now, ts := pt, redun := (z.jobOf asid).any Job.redun }
    let z1 := (z.modCore c fun k => { k with q := { k.q with tkq := rest } }).modDie die fun d => { d with recs := d.recs ++ [r] }
    let k := v8 % 2 ^ 64 / 2 ^ 59 % 4
    (s.core c).q.tkq = (a, asid, cls, pt) :: rest → (s.core c).csr.stopped = false → s.jobStopped asid = false → a < 2 ^ 48 →
    s.schedRead die asid pt a 1 = .ok (v, ts, z) → (z.die die).queueOpen (tkClass v) → (∀ e ∈ (z.die die).recs, e.addr ≠ name) →
    z1.schedRead die asid pt a 8 = .ok (v8, ts8, y) → (y.die die).recs = (z1.die die).recs → (y.core c).q = (z1.core c).q → v8 / 2 ^ (64 * 7 + 62) % 4 = 0 →
    v8 / 2 ^ 64 % 2 ^ 64 = 0 → (y.die die).queueOpen k → ∃ u : State, exec (.tkqAccept c) s = .next u ∧ u.mem = y.mem ∧ (u.core c).q.tkq = rest ∧
      ((u.die die).taskRing k).all = ((y.die die).taskRing k).all ++ [name] ∧
      (u.die die).recs = (z.die die).recs ++ [{ r with st := .queued, cls := k, since := y.now, ts := max pt ts8 }]) ∧
  (∀ (s : State) (c a asid cls pt v ts : Nat) (rest : List (Nat × Nat × Nat × Nat)) (z : State), (s.core c).q.tkq = (a, asid, cls, pt) :: rest →
    s.schedRead (dieOf c) asid pt a 1 = .ok (v, ts, z) → (z.die (dieOf c)).queueOpen (tkClass v) = false → (s.core c).csr.stopped = false → s.jobStopped asid = false →
    exec (.tkqAccept c) s = .next z) ∧
  (∀ (s z : State) (die name v ts : Nat) (r : Rec), name < 2 ^ 64 → s.record! die name = some r → r.st = .waiting → r.wait = none →
    s.schedRead die r.asid r.ts (name % 2 ^ 48 + 8) 1 = .ok (v, ts, z) → (z.die die).recs = [r] → (z.die die).queueOpen r.cls → ∃ u : State,
      exec (.counterZeroWake die name) s = .next u ∧ u.mem = z.mem ∧ (u.die die).recs = [{ r with st := .queued, since := z.now, ts := max r.ts ts }] ∧
      ((u.die die).taskRing r.cls).all = ((z.die die).taskRing r.cls).all ++ [name] ∧ ∃ n, (n, .taskSelect die) ∈ u.timers) ∧
  (∀ (s z w : State) (die v ts count : Nat) (desc : List Word) (r : Rec), s.nextRec die = some r → (s.die die).lastSelect + 16 ≤ s.now →
    let s' := s.modDie die fun d => { d with lastSelect := s.now }
    let l := (List.range 8).map fun i => BitVec.ofNat 64 (v / 2 ^ (64 * i) % 2 ^ 64)
    s'.schedRead die r.asid r.ts (r.addr % 2 ^ 48) 8 = .ok (v, ts, z) →
    (z.modRec die r.addr fun q => { q with ts := ts, sel := ts }).judge die { r with ts := ts, sel := ts } l = (.run count desc, w) → v % 2 ^ 64 / 2 ^ 61 = 0 →
    (w.die die).recs = [{ r with ts := ts, sel := ts }] → (∀ k, ((w.die die).taskRing k).all.count r.addr ≤ 1) → ((w.die die).holdRing r.cls).all = [] → ∃ u : State,
      exec (.taskSelect die) s = .next u ∧ .tileOffer die r.addr 0 ∈ u.net ∧ u.mem = w.mem ∧
      (u.die die).recs = [{ r with ts := ts, sel := ts, st := .issuing, count := count, desc := l ++ desc }] ∧ ∀ k, r.addr ∉ ((u.die die).taskRing k).all) ∧
  (∀ (s : State) (die name i n g : Nat) (r : Rec), s.record! die name = some r → r.st = .issuing → i < r.count →
    let h := die * 32 + n
    (n < 32 → s.nextGrant h r.asid = some g → (∀ n' < 32, ∀ g', s.nextGrant (die * 32 + n') r.asid = some g' → g < g' ∨ g = g' ∧ n ≤ n') → ∃ (u : State) (o : EngOp),
      exec (.tileOffer die name i) s = .next u ∧ u = { s with dies := u.dies, hedges := u.hedges, net := u.net } ∧
      (u.hedge h).ops = (s.hedge h).ops ++ [o] ∧ o.kind = .mmac ∧ o.task = some (die, name, i) ∧ o.asid = r.asid ∧ o.cls = r.cls ∧ o.t0 = r.ts + 1 ∧
      o.since = s.now ∧ o.desc = r.desc.drop 8 ∧ o.started = false ∧
      u.net = s.net ++ .engineCandidateStart h :: (if i + 1 < r.count then [.tileOffer die name (i + 1)] else []) ∧
      u.record! die name = some { r with offered := i + 1 }) ∧
    ((∀ n' < 32, s.nextGrant (die * 32 + n') r.asid = none) → ∃ u : State, exec (.tileOffer die name i) s = .next u ∧ u.record! die name = none))

/-- 11 R255, R262, R264, R265; 06 R147; 13 R309, R311: the only multiplying command that waits takes the free array; MMA on a poisoned region
ends with status 01H; else its k-steps follow, MMAC's on a region of +0; each k-step puts its sums into the tile and the last one settles status 0; the end is
recorded in MSQ where it is asked for or failed. -/
def Obligations.EngineCommands : Prop :=
  (∀ (s : State) (h i : Nat) (o : EngOp),
    let c := coreKey (h / 32) (h % 32) i
    h < 256 → i < 17 → (s.core c).q.meq = [o] → (∀ j < 17, j ≠ i → (s.core (coreKey (h / 32) (h % 32) j)).q.meq = []) → o.core = c → o.task = none → o.cls ≠ 0 →
    (s.core c).csr.stopped = false → s.jobStopped o.asid = false → (s.hedge h).ops = [] → (s.hedge h).running = none → (s.hedge h).borrows = [] →
    (s.hedge h).overtaken = [] → o.kind = .mma ∨ o.kind = .mmac → ∃ (u : State) (o' : EngOp), exec (.engineCandidateStart h) s = .next u ∧
      u = { s with cores := u.cores, hedges := u.hedges, net := u.net } ∧ (u.hedge h).running = some o.id ∧ (u.hedge h).ops = [o'] ∧
      o' = { o with aRegs := o'.aRegs, bRegs := o'.bRegs, staged := true, phys := some o.tile, started := true } ∧ (u.core c).q.meq = [] ∧
      (if o.kind = .mma then Instr.mma h o.id else .mmac h o.id) ∈ u.net ∧ (u.core c).file = (s.core c).file ∧ (u.hedge h).tiles = (s.hedge h).tiles) ∧
  (∀ (s : State) (h id p : Nat) (o : EngOp) (i : Instr), s.op? h id = some o → (i = .mma h id ∧ o.kind = .mma) ∨ (i = .mmac h id ∧ o.kind = .mmac) →
    o.phys = some p → o.status = none → o.wait = none → o.k = 0 → o.check = false → cmdSparse o.d0.toNat = false → (s.hedge h).checks + 1 ≠ (s.hedge h).mecheck →
    let m := cmdRows o.d0.toNat false
    let n := cmdRows o.d0.toNat true
    let t := (s.hedge h).tile p
    let inside := fun (e : Nat) => e / 128 < m ∧ e % 128 < n
    (o.kind = .mma → (∃ e ∈ t.poison, inside e) → ∃ u : State, exec i s = .next u ∧ u = { s with hedges := u.hedges, net := u.net } ∧
      u.net = s.net ++ [.matrixCommandComplete h id] ∧ u.op? h id = some { o with status := some 1 } ∧ (u.hedge h).tiles = (s.hedge h).tiles) ∧
    (o.kind = .mmac ∨ (∀ e ∈ t.poison, ¬ inside e) → ∃ u : State, exec i s = .next u ∧ u = { s with hedges := u.hedges, timers := u.timers } ∧
      (s.now + 64, .kStepBoundary h) ∈ u.timers ∧ u.op? h id = some o ∧ ((u.hedge h).tile p).clear = false ∧
      (∀ e, Tab.getD ((u.hedge h).tile p).elems e 0 = if o.kind = .mmac ∧ inside e then 0 else Tab.getD t.elems e 0) ∧
      (∀ e, e ∈ ((u.hedge h).tile p).poison ↔ e ∈ t.poison ∧ ¬ (o.kind = .mmac ∧ inside e)) ∧ ∀ q, q ≠ p → (u.hedge h).tile q = (s.hedge h).tile q)) ∧
  (∀ (s : State) (h id p : Nat) (o : EngOp), s.op? h id = some o → o.phys = some p → ∃ u : State, exec (.zero h id) s = .next u ∧
    u = { s with hedges := u.hedges, timers := u.timers } ∧ (s.now + 64, .matrixCommandComplete h id) ∈ u.timers ∧ u.op? h id = some { o with status := some 0 } ∧
    (u.hedge h).tile p = { elems := [], poison := [], clear := true, tc := ((s.hedge h).tile p).tc } ∧ ∀ q, q ≠ p → (u.hedge h).tile q = (s.hedge h).tile q) ∧
  (∀ (s z w : State) (h id p ta tb : Nat) (o : EngOp) (la lb : List Nat) (a b : List (List (Option Sys2Proof.Num))), (s.hedge h).running = some id → s.op? h id = some o →
    o.status = none → o.phys = some p → o.check = false →
    let d := o.d0.toNat
    s.rowsBytes h o false o.k (List.range (cmdRows d false)) = .ok (la, ta, z) → z.rowsBytes h o true o.k (List.range (cmdRows d true)) = .ok (lb, tb, w) →
    decodeRows (cmdFmt d false) (cmdSparse d) false la = (.values [], a) → decodeRows (cmdFmt d true) (cmdSparse d) true lb = (.values [], b) →
    w.op? h id = some o → (w.hedge h).badPe = [] → w.openSnap = none → (∀ j < 17, (w.core (coreKey (h / 32) (h % 32) j)).q.meq = []) →
    (∀ e ∈ (w.hedge h).ops, e.staged) → ∃ u : State, exec (.kStepBoundary h) s = .next u ∧
      u = { w with hedges := u.hedges, net := u.net, timers := u.timers } ∧ (u.hedge h).tile p = ((w.hedge h).tile p).kStep a b ∧
      (o.k + 1 = cmdSteps d → u.net = w.net ++ [.matrixCommandComplete h id] ∧
        u.op? h id = some { o with k := o.k + 1, tc := max o.tc (max ta tb), wait := none, status := some 0 }) ∧
      (o.k + 1 ≠ cmdSteps d → u.net = w.net ∧ (w.now + 64, .kStepBoundary h) ∈ u.timers ∧
        u.op? h id = some { o with k := o.k + 1, tc := max o.tc (max ta tb), wait := none })) ∧
  (∀ (s : State) (h id p : Nat) (o : EngOp), s.op? h id = some o → o.task = none → o.orphan = false → o.check = false → o.phys = some p → o.cls ≠ 0 →
    s.dropsFor (dieOf o.core) o.asid = false → (s.core o.core).q.msq.length < 8 → (s.core o.core).q.held = [] → (s.core o.core).q.waiters = [] → id ∈ (s.ctx o.core o.slot).cmds → 
      let st := o.status.getD 0
      let word : Word := BitVec.ofNat 64 (2 * 2 ^ 60 + st * 2 ^ 48 + o.d0.toNat % 2 ^ 12)
      ∃ u : State,
      exec (.matrixCommandComplete h id) s = .next u ∧ u = { s with cores := u.cores, hedges := u.hedges, net := u.net } ∧ u.op? h id = none ∧
      (u.hedge h).running ≠ some id ∧ (u.hedge h).tile p = { (s.hedge h).tile p with tc := max ((s.hedge h).tile p).tc o.tc } ∧ id ∉ (u.ctx o.core o.slot).cmds ∧
      (u.core o.core).q.msq = (if o.d0.toNat.testBit 35 ∨ st ≠ 0 then (s.core o.core).q.msq ++ [(word, o.tc)] else (s.core o.core).q.msq))

/-- 05 R125; 11 R267; 13 R310: slot boundaries, frames and their tables; a class-0 borrowing takes a spilled tile, returns after the quiet time,
and gives the tile its contents back; ACCLD gives its thread a row as 64 doubles, ACCST writes one. -/
def Obligations.TilesAndRows : Prop :=
  (∀ (s : State) (h : Nat), ∃ u : State, exec (.slotBoundary h) s = .next u ∧ u = { s with net := u.net, timers := u.timers } ∧ .engineCandidateStart h ∈ u.net) ∧
  (∀ (s : State) (h : Nat), ((s.hedge h).nextSlots = none → exec (.frameStart h) s = .next s) ∧
    (∀ t, (s.hedge h).nextSlots = some t → ∃ u : State, exec (.frameStart h) s = .next u ∧ u = { s with hedges := u.hedges, net := u.net } ∧
      u.hedge h = { s.hedge h with slots := t, nextSlots := none } ∧ .engineCandidateStart h ∈ u.net)) ∧
  (∀ (s : State) (h t : Nat) (b : Borrow), (s.hedge h).borrows = [b] → b.phys = t → b.busy → b.spilled = none → ∃ u : State,
    exec (.tileSpillComplete h t) s = .next u ∧ u = { s with hedges := u.hedges, net := u.net } ∧
    (u.hedge h).borrows = [{ b with busy := false, spilled := some ((s.hedge h).tile t) }] ∧ (u.hedge h).tile t = {} ∧
    ∀ q, q ≠ t → (u.hedge h).tile q = (s.hedge h).tile q) ∧
  (∀ (s : State) (h : Nat) (b : Borrow), (s.hedge h).borrows = [b] → b.op = none → b.busy = false → (∀ o ∈ (s.hedge h).ops, o.staged → o.cls ≠ 0) →
    (s.hedge h).lastClass0 + 65536 ≤ s.now → ∃ u : State, exec (.borrowReturn h) s = .next u ∧ u = { s with hedges := u.hedges, timers := u.timers } ∧
      (u.hedge h).borrows = [{ b with busy := true }] ∧ (s.now + (if b.spilled.isSome then 512 else 64), .tileRefillComplete h b.phys) ∈ u.timers ∧
      (u.hedge h).tiles = (s.hedge h).tiles) ∧
  (∀ (s : State) (h t : Nat) (b : Borrow), (s.hedge h).borrows = [b] → b.phys = t → b.op = none → b.busy → ∃ u : State,
    exec (.tileRefillComplete h t) s = .next u ∧ u = { s with hedges := u.hedges, net := u.net } ∧ (u.hedge h).borrows = [] ∧
    (u.hedge h).tile t = b.spilled.getD {} ∧ ∀ q, q ≠ t → (u.hedge h).tile q = (s.hedge h).tile q) ∧
  (∀ (s : State) (h id p : Nat) (o : EngOp), s.op? h id = some o → o.phys = some p → o.cls ≠ 0 → o.orphan = false →
    let x := s.ctx o.core o.slot
    let t := (s.hedge h).tile p
    x.status = .parked .engine → Tab.get? (s.core o.core).work.saved o.slot = none →
    ((∀ e ∈ t.poison, e / 128 ≠ o.row) → ∃ u : State, exec (.accldComplete h id) s = .next u ∧
      u = { s with cores := u.cores, hedges := u.hedges, net := u.net } ∧ OnlyCtx o.core o.slot { s with hedges := u.hedges, net := u.net } u ∧
      u.op? h id = none ∧ (u.hedge h).tile p = { t with tc := max t.tc o.tc } ∧
      (let y := { x with latch := (u.ctx o.core o.slot).latch, phase := 2, status := .ready }
       if t.tc = 0 then u.ctx o.core o.slot = y else Observes y (u.ctx o.core o.slot) t.tc) ∧
      ∀ i < 64, Tab.getD (u.ctx o.core o.slot).latch (100 + i) 0 =
        BitVec.ofNat 64 ((Tab.getD t.elems (128 * o.row + 2 * i) 0).toNat + (Tab.getD t.elems (128 * o.row + 2 * i + 1) 0).toNat * 2 ^ 32)) ∧
    (o.slot ≠ 63 → (∃ e ∈ t.poison, e / 128 = o.row) → ∃ u : State, exec (.accldComplete h id) s = .next u ∧ (u.ctx o.core o.slot).status = .frozen ∧
      (u.ctx o.core o.slot).fcode % 256 = fcPoison ∧ u.op? h id = none) ∧
    (o.aRegs.length = 4 → ∃ u : State, exec (.accstComplete h id) s = .next u ∧ u = { s with cores := u.cores, hedges := u.hedges, net := u.net } ∧
      OnlyCtx o.core o.slot { s with hedges := u.hedges, net := u.net } u ∧ u.op? h id = none ∧ u.ctx o.core o.slot = { x with phase := 2, status := .ready } ∧
      (∀ e, Tab.getD ((u.hedge h).tile p).elems e 0 = if e / 128 = o.row then
        BitVec.ofNat 32 ((o.aRegs.getD (e % 128 / 32) 0).toNat / 2 ^ (32 * (e % 32))) else Tab.getD t.elems e 0) ∧
      (∀ e, e ∈ ((u.hedge h).tile p).poison ↔ e ∈ t.poison ∧ e / 128 ≠ o.row) ∧ ∀ q, q ≠ p → (u.hedge h).tile q = (s.hedge h).tile q))

/-- 11 R271 to R273; 01 R25; 02 R45: a drain of an unpoisoned tile to a core in service reads the tile, pins its output's lines and writes them one
by one, in the SRAM of the core that holds the destination's name then; then its record enters MSQ where it is asked for, or its wake goes out first; a wake that reaches a holder of its block starts a thread at its entry. -/
def Obligations.DrainsRun : Prop :=
  (∀ (s : State) (h id p : Nat) (o : EngOp), s.op? h id = some o → o.phys = some p → o.task = none → o.k = 0 → o.status = none →
    let d := o.d0.toNat
    let c := s.phys (drainDst d)
    let t := (s.hedge h).tile p
    let view := privateView (s.core c).csr.lsplit o.cls
    let a := sramAt c (view.1 + o.d1.toNat % 2 ^ 32)
    let lines := (drainLines o t).map fun e => ((a + e.1) / 128, e.2)
    t.poison = [] → chipOf (drainDst d) = s.chip o.asid → (s.rename (drainDst d)).st = 0 → s.viewOpen c o.asid o.cls →
    o.d1.toNat % 2 ^ 32 + 128 * drainRowBytes (drainFmt d) ≤ view.2 → s.yew.snaps = [] → (∀ l ∈ lines, l.1 ∉ s.pins) → ∃ u : State,
      exec (.drainStart h id) s = .next u ∧ u = { s with hedges := u.hedges, net := u.net, pins := u.pins } ∧ u.pins = s.pins ++ lines.map Prod.fst ∧
      .drainLineWrite h id (lines.headD (0, 0)).1 ∈ u.net ∧ (u.hedge h).tiles = (s.hedge h).tiles ∧
      u.op? h id = some { o with k := 1, lines := lines, tc := max o.tc (t.tc + 1), t0 := if t.tc = 0 then o.t0 else max o.t0 (t.tc + 1) }) ∧
  (∀ (s : State) (h id line v : Nat) (o : EngOp) (rest : List (Nat × Nat)), s.op? h id = some o → o.lines = (line, v) :: rest → (∀ l ∈ rest, l.1 ≠ line) →
    let dst := drainDst o.d0.toNat
    let at_ := sramAt (s.phys dst) 0 / 128 + line % 8192
    o.task = none → chipOf dst = s.chip o.asid → (s.rename dst).st = 0 → (s.core (s.phys dst)).csr.stopped = false → s.splitWaits (s.phys dst) = false →
    s.openSnap = none → (∀ e ∈ s.dies, e.2.joiners = []) →
    (∀ e ∈ s.cores, e.2.units.transfers = [] ∧ e.2.units.chain = none ∧ e.2.units.chains = [] ∧ e.2.q.cpq = [] ∧ e.2.q.chq = [] ∧
      ∀ x ∈ e.2.ctxs, x.2.pipe = []) → s.mem.wf → v < 2 ^ 1024 → 
      let ts := max o.t0 ((Tab.getD s.sramT at_ (0, 0)).2 + 1)
      ∃ u : State,
      exec (.drainLineWrite h id line) s = .next u ∧
      u = { s with hedges := u.hedges, mem := u.mem, poison := u.poison, sramT := u.sramT, pins := u.pins, net := u.net } ∧
      Stores s u (at_ * 128) 128 v ∧ Tab.getD u.sramT at_ (0, 0) = (ts, ts) ∧ (∀ l, l ∈ u.pins ↔ l ∈ s.pins ∧ l ≠ line) ∧
      u.op? h id = some { o with lines := rest, tc := max o.tc ts } ∧
      u.net = s.net ++ [if rest = [] then .drainComplete h id else .drainLineWrite h id (rest.headD (0, 0)).1]) ∧
  (∀ (s : State) (h id : Nat) (o : EngOp), s.op? h id = some o → o.task = none → o.status = none → o.cls ≠ 0 → o.orphan = false →
    (∀ die, s.dropsFor die o.asid = false) → (s.core o.core).q.msq.length < 8 → (s.core o.core).q.held = [] → (s.core o.core).q.waiters = [] →
    let dst := drainDst o.d0.toNat
    let d1 := o.d1.toNat
    let word : Word := BitVec.ofNat 64 (2 * 2 ^ 60 + (dst * 2 ^ 24 + d1 % 2 ^ 32 / 2 ^ 7 % 2 ^ 24) % 2 ^ 48)
    (d1 / 2 ^ 40 = 0 → ∃ u : State, exec (.drainComplete h id) s = .next u ∧ u = { s with cores := u.cores, hedges := u.hedges, net := u.net } ∧
      u.op? h id = none ∧ (u.core o.core).q.msq = (if o.d0.toNat.testBit 36 then (s.core o.core).q.msq ++ [(word, o.tc)] else (s.core o.core).q.msq)) ∧
    (d1 / 2 ^ 40 ≠ 0 → chipOf dst = s.chip o.asid → ∃ (u : State) (m : Travel), exec (.drainComplete h id) s = .next u ∧
      u = { s with hedges := u.hedges, net := u.net, yew := u.yew } ∧ u.net = s.net ++ [.wakeArrival dst m] ∧ u.op? h id = some { o with status := some 0 } ∧
      m.kind = 5 ∧ m.dest = d1 / 2 ^ 40 * 512 ∧ m.j = some (d1 / 2 ^ 36 % 16) ∧ m.asid = o.asid ∧ m.cls = o.cls ∧ m.pt = o.tc + 1 ∧ m.link = 0 ∧
      (0, BitVec.ofNat 64 (d1 % 2 ^ 32)) ∈ m.regs ∧ (1, BitVec.ofNat 64 (s.coreId o.asid o.core * 4 + o.tile)) ∈ m.regs)) ∧
  (∀ (s : State) (dst slot e desc : Nat) (m : Travel) (p : Placed) (w : Win), Reaches s dst m.asid → m.dest < 2 ^ 33 →
    let c := s.phys dst
    let k := s.core c
    k.placedBlock m.asid (m.dest / 512) = some p → m.j = some e → p.descs[e]? = some desc → s.Admits c m → m.redun = false → m.parent = none →
    k.freeSlot none = some slot → k.newWindow p slot = some w → k.work.gathers = [] → (m.regs.map Prod.fst).Nodup → (m.masks.map Prod.fst).Nodup → ∃ u : State,
      exec (.wakeArrival dst m) s = .next u ∧ u = { s with cores := u.cores, timers := u.timers, yew := u.yew } ∧
      Admitted (u.core c) slot { m with dest := p.blk % 2 ^ 24 * 512 + desc % 512 } desc w ∧ (u.ctx c slot).status = .gathering ∧
      (∀ j, j ≠ slot → u.ctx c j = s.ctx c j) ∧ ∀ a, a ≠ c → u.core a = s.core a)

/-! ### Snapshots (15) -/

/-- 08 R195; 15 R337, R339, R345, R348, R349: a request opens a snapshot, in which the requesting core takes its cut at once; while another is open it is held; a
marker makes its core cut; the finish closes it once everything has been cut and copied; a release frees a finished one.
15 R340 to R343; 04 R105: the one snapshot takes the copy of a page that it awaits while its die's store has room, and the page's writers go on: the leaf of a
page of memory becomes snap-copied; the leaf of a page not yet written becomes snap-shared; a copied line loses its cut bit. -/
def Obligations.SnapshotsTaken : Prop :=
   ((∀ (s : State) (c slot tag : Nat) (j : Job), s.jobOf (s.ctx c slot).asid = some j → s.job j.num = some j →
      (s.openSnap = none → ∃ (u : State) (n : Snap), exec (.snapRequest c slot tag) s = .next u ∧ u.openSnap = some n ∧
        n.job = j.num ∧ n.tag = tag ∧ (∃ k ∈ n.cores, k.core = c ∧ k.image = s.cutImage c j.asids) ∧ .snapAnswer c slot ∈ u.net ∧
        (∀ e ∈ s.cores, e.2.csr.stopped = false → .snapshotMarker e.1 tag ∈ u.net) ∧ (s.now + 64, .snapshotFinish j.num tag) ∈ u.timers ∧ u.mem = s.mem) ∧
      (∀ n, s.openSnap = some n → n.job = j.num → n.tag = tag → exec (.snapRequest c slot tag) s = .next { s with net := s.net ++ [.snapAnswer c slot] }) ∧
      (∀ n, s.openSnap = some n → n.job ≠ j.num ∨ n.tag ≠ tag → (s.yew.held.filter fun r => r.job == j.num).length < 4 → ∃ u : State,
        exec (.snapRequest c slot tag) s = .next u ∧ u = { s with net := u.net, yew := u.yew } ∧ u.net = s.net ++ [.snapAnswer c slot] ∧
        u.yew = { s.yew with held := s.yew.held ++ [{ job := j.num, tag := tag }] })) ∧
    (∀ (s : State) (job tag : Nat) (j : Job), (s.openSnap.isSome → exec (.snapshotOpen job tag) s = .next s) ∧
      (s.openSnap = none → s.quiet → s.job job = some j → ∃ (u : State) (n : Snap), exec (.snapshotOpen job tag) s = .next u ∧ u.openSnap = some n ∧
        n.job = job ∧ n.tag = tag ∧ n.cores = [] ∧ (∀ e ∈ s.cores, e.2.csr.stopped = false → .snapshotMarker e.1 tag ∈ u.net ∧ e.1 ∈ n.wantCores) ∧
        (s.now + 64, .snapshotFinish job tag) ∈ u.timers ∧ u.mem = s.mem ∧ u.cores = s.cores)) ∧
    (∀ (s : State) (c tag : Nat) (n : Snap), s.openSnap = some n → (n.tag ≠ tag → exec (.snapshotMarker c tag) s = .next s) ∧
      (n.tag = tag → (s.core c).csr.stopped = false → (∀ k ∈ n.cores, k.core ≠ c) → ∃ (u : State) (n' : Snap), exec (.snapshotMarker c tag) s = .next u ∧
        u.openSnap = some n' ∧ (∃ k ∈ n'.cores, k.core = c ∧ k.image = s.cutImage c (s.snapAsids n)) ∧ c ∉ n'.wantCores ∧ u.mem = s.mem ∧
        (∀ a slot, u.ctx a slot = s.ctx a slot) ∧ ∀ a, a ≠ c → u.core a = s.core a)) ∧
    (∀ (s : State) (job tag : Nat) (n : Snap), s.yew.snaps = [n] → n.status = 0 → n.job = job → n.tag = tag → n.wantHedges = [] → s.cutLines = [] →
      (n.wantCores = [] → n.pinned = [] → n.leaves = [] → s.channelsClosed job → s.yew.held = [] → ∃ u : State, exec (.snapshotFinish job tag) s = .next u ∧
        u = { s with yew := u.yew } ∧ u.yew = { s.yew with snaps := [{ n with status := 1, finished := s.now }] }) ∧
      (n.wantCores ≠ [] ∨ n.pinned ≠ [] ∨ n.leaves ≠ [] ∨ s.channelsClosed job = false → ∃ u : State, exec (.snapshotFinish job tag) s = .next u ∧
        u = { s with timers := u.timers } ∧ (s.now + 64, .snapshotFinish job tag) ∈ u.timers)) ∧
    (∀ (s : State) (job tag : Nat) (n : Snap), s.yew.snaps = [n] → n.job = job → n.tag = tag →
      (n.status ≠ 1 → ∃ u : State, exec (.yewRelease job tag) s = .next u ∧ u = { s with host := u.host } ∧ u.host.signals = s.host.signals ++ [(10, job, 1)]) ∧
      (n.status = 1 → ∃ (u : State) (n' : Snap), exec (.yewRelease job tag) s = .next u ∧ (10, job, 0) ∈ u.host.signals ∧ u.yew.snaps = [n'] ∧ n'.status = 3 ∧
        n'.pages = [] ∧ n'.cores = [] ∧ ∀ c, (u.core c).file = (s.core c).file))) ∧
   ((∀ (s : State) (n : Snap) (base : Nat), s.yew.snaps = [n] → n.awaits base → s.storeUsed (s.pageDie base) + pageUnits base ≤ 16 * (s.die (s.pageDie base)).yew.size →
      let copied := fun (u : State) => ∃ n', u.yew.snaps = [n'] ∧ n'.pages = n.pages ++ [(base, (s.pageImage base).1, (s.pageImage base).2)] ∧
        base ∉ n'.uncopied ∧ base ∉ n'.pinned ∧ n'.cores = n.cores ∧ n'.status = n.status
      (∀ page, page * 4096 = base → ∃ u : State, exec (.sramPageCopy page) s = .next u ∧ copied u ∧ u.mem = s.mem ∧ ∀ c slot, u.ctx c slot =
        if (s.ctx c slot).status = .parked (.sramCopy page) then { s.ctx c slot with status := .ready } else s.ctx c slot) ∧
      (∃ u : State, exec (.pinnedPageCopy base) s = .next u ∧ copied u ∧ u.mem = s.mem) ∧
      (∀ die asid va slot e, s.leafOf die asid va = some (slot, e) → pteAddr e false 0 = base → e < 2 ^ 64 → s.mem.wf → ∃ u : State,
        exec (.snapPageCopy die asid va) s = .next u ∧ copied u ∧
        (e / 2 ^ 61 = 1 ∨ e / 2 ^ 61 = 3 → Stores s u slot 8 (e % 2 ^ 61 + 4 * 2 ^ 61)) ∧ (e / 2 ^ 61 ≠ 1 → e / 2 ^ 61 ≠ 3 → u.mem = s.mem) ∧
        ∀ c t v, (s.ctx c t).status = .parked (.pageCopy v) → v / 65536 = va / 65536 → u.ctx c t = { s.ctx c t with status := .ready })) ∧
    (∀ (s : State) (line : Nat), ∃ u : State, exec (.cutLineCopy line) s = .next u ∧ u = { s with cores := u.cores, hedges := u.hedges } ∧
      (∀ c, u.core c = { s.core c with cache := (u.core c).cache } ∧ (u.core c).cache = (s.core c).cache.map fun l =>
        if l.line = line then { l with cut := false } else l) ∧
      ∀ h, (u.hedge h).victim = (s.hedge h).victim.map fun l => if l.line = line then { l with cut := false } else l) ∧
    (∀ (s : State) (n : Snap) (die asid va slot e : Nat), s.yew.snaps = [n] →
      ((die, asid, va) ∉ n.leaves → exec (.snapshotLeafRewrite die asid va) s = .next s) ∧
      ((die, asid, va) ∈ n.leaves → s.leafOf die asid va = some (slot, e) → e / 2 ^ 61 = 1 ∨ e / 2 ^ 61 = 4 → n.status ≤ 1 → pteAddr e false 0 ∈ n.uncopied →
        s.mem.wf → ∃ (u : State) (n' : Snap), exec (.snapshotLeafRewrite die asid va) s = .next u ∧ Stores s u slot 8 (e % 2 ^ 61 + 3 * 2 ^ 61) ∧
          u.yew.snaps = [n'] ∧ n' = { n with leaves := n'.leaves } ∧ (die, asid, va) ∉ n'.leaves ∧
          (∀ c, ∀ t ∈ (u.core c).tlb, t.hits asid va = false) ∧ ∀ c t, u.ctx c t = s.ctx c t)))

/-- 15 R349 to R351: without a finished snapshot of the tag a rollback is refused; with one it completes, its open snapshot having failed first, and Yew
answers that it has; of one core and one page of memory it is said what it leaves: the page is as at the
cut, and the captured thread is back in its slot with its registers, RB set and PT past every time of the job. A command of Ozine whose reserved
fields are not 0, or that names neither, is answered 2 and does nothing. -/
def Obligations.RolledBack : Prop :=
  (∀ (s : State) (job : Nat) (d0 d1 : Word),
    let cmd := d0.toNat / 2 ^ 60
    let tag := d0.toNat % 2 ^ 32
    let legal := d0.toNat / 2 ^ 32 % 2 ^ 28 = 0 ∧ d1 = 0
    (¬ legal ∨ cmd = 0 ∨ 2 < cmd → ∃ u : State, exec (.managementWindowWrite (.yewCommand job d0 d1)) s = .next u ∧
      u = { s with host := u.host } ∧ u.host.signals = s.host.signals ++ [(10, job, 2)]) ∧
    (legal → cmd = 1 → exec (.managementWindowWrite (.yewCommand job d0 d1)) s = exec (.yewRollback job tag) s) ∧
    (legal → cmd = 2 → exec (.managementWindowWrite (.yewCommand job d0 d1)) s = exec (.yewRelease job tag) s)) ∧
  (∀ (s : State) (job tag : Nat), s.openSnap = none → s.finishedAt job tag = none → ∃ u : State, exec (.yewRollback job tag) s = .next u ∧
    u = { s with host := u.host } ∧ u.host.signals = s.host.signals ++ [(10, job, 1)]) ∧
  (∀ (s s' : State) (job tag i : Nat) (j : Job) (n : Snap),
    (s' = s ∧ ∀ o, s.openSnap = some o → o.job ≠ job) ∨ (s' = s.failOpen ∧ ∃ o, s.openSnap = some o ∧ o.job = job) →
    s'.job job = some j → s'.finishedAt job tag = some i → s'.yew.snaps[i]? = some n → ∃ u : State, exec (.yewRollback job tag) s = .next u ∧
      u = { s'.rollbackTo j i n with host := u.host } ∧ u.host.signals = (s'.rollbackTo j i n).host.signals ++ [(10, job, 0)]) ∧
  (∀ (s : State) (c slot base : Nat) (j : Job) (n : Snap) (k : CoreCut) (x : Ctx) (img : Memory), s.job j.num = some j → s.yew.snaps = [n] → n.job = j.num →
    n.status = 1 → n.cores = [k] → n.hedges = [] → n.scheds = [] → n.channel = [] → n.pages = [(base, img, [])] → s.snapLeaves j.asids = [] →
    base % 65536 = 0 → base < 2 ^ 48 → img.wf → (∀ a ∈ img, base ≤ a.1 ∧ a.1 < base + 65536) → s.mem.wf → s.phys k.name = c → slot < 63 →
    let kc := s.core c
    let idle := fun (w : CoreWork) => w.spill.all = [] ∧ w.deque = [] ∧ w.overflow.all = [] ∧ w.saved = []
    (∀ h ∈ s.hedges, h.2.ops = []) → (∀ e ∈ s.cores, e.2.units.transfers = [] ∧ e.2.units.chain = none) →
    kc.csr.stopped = false → kc.work.preempted = false → idle kc.work → idle k.image.work → k.image.work.gathers = [] → k.image.units.transfers = [] →
    k.image.units.rounds = [] → (∀ e ∈ kc.ctxs, e.2.status = .free ∨ e.2.asid ∈ j.asids) → k.image.ctxs = [(slot, x)] → x.status = .ready → x.pipe = [] →
    x.out = [] → ∃ u : State, exec (.yewRollback j.num n.tag) s = .next u ∧ (10, j.num, 0) ∈ u.host.signals ∧
      (∀ a, u.mem.byte a = if base ≤ a ∧ a < base + 65536 then img.byte a else s.mem.byte a) ∧ (u.job j.num).map Job.st = some .running ∧
      u.ctx c slot = { x with pt := s.jobTime j [] + 1, tstat := (u.ctx c slot).tstat } ∧
      (∀ b, (u.ctx c slot).tstat.testBit b = (b == 0 || x.tstat.testBit b)) ∧
      (∀ i < x.mainSize, Tab.getD (u.core c).file (x.win.mainBase + i) 0 = Tab.getD k.image.file (x.win.mainBase + i) 0 ∧
        (x.win.mainBase + i ∈ (u.core c).empty ↔ x.win.mainBase + i ∈ k.image.empty)) ∧
      ∀ i < x.vecSize, Tab.getD (u.core c).vfile (x.win.vecBase + i) 0 = Tab.getD k.image.vfile (x.win.vecBase + i) 0)

/-! ### Faults and containment (14) -/

/-- 07 R171; 14 R316 to R318, R320: an instruction meets illegal-encoding first, then privilege, window, hazard (in debug mode, at its first issue), the
privilege of an engine's use (11 R254) and bad parity, and takes the first that applies; a thread that takes a fault freezes with FCODE and FADDR and a record. A word that is no instruction, and a flow
that has left its block, freeze their thread too; the members of a pair freeze together; the porter goes on.
14 R317, R318: a frozen thread (here in no pair) that Ozine reissues is ready at the faulting word; one that it ends is free, with nothing that waits for its
context; one that it ends for the job's fault entry (an address that the step names: log 62) sends a message with no live register to the
entry's block on the thread's own core, for its ASID, class and time. -/
def Obligations.FaultsFreeze : Prop :=
   ((∀ (i : Instr) (s : State), encode i ≠ none → s.me.status = .ready → s.me.phase ≠ 3 → s.iss.view = none →
      let c := s.iss.core
      let slot := s.iss.slot
      (wellFormed i = false → Faults i s fcIllegal s.iss.word false) ∧
      (wellFormed i → privilegeFault s c slot i → Faults i s fcPrivilege 0 false) ∧
      (∀ n, wellFormed i → privilegeFault s c slot i = false → windowFault s.me i = some n → Faults i s fcWindow n false) ∧
      (∀ n, wellFormed i → privilegeFault s c slot i = false → windowFault s.me i = none → s.debugMode c → s.me.phase = 0 →
        hazardFault s.me i = some n → Faults i s fcHazard n false) ∧
      (wellFormed i → privilegeFault s c slot i = false → windowFault s.me i = none → (s.debugMode c → s.me.phase = 0 → hazardFault s.me i = none) →
        engineFault s c slot i → Faults i s fcPrivilege 0 false) ∧
      (∀ n, wellFormed i → privilegeFault s c slot i = false → windowFault s.me i = none →
        (s.debugMode c → s.me.phase = 0 → hazardFault s.me i = none) → engineFault s c slot i = false → parityFault (s.core c) s.me i = some n → Faults i s fcParity n false)) ∧
    (∀ (i : Instr) (s : State) (code detail : Nat) (origin : Bool), Faults i s code detail origin → (∀ w a, i ≠ .pload w a) → s.iss.slot ≠ 63 →
      s.me.pair = none → s.me.gang = [] → ∃ u : State, exec i s = .next u ∧ Frozen s u s.iss.core s.iss.slot code detail (s.iss.place = .lone1)
        (if code = fcParity ∨ origin then [.coreKill s.iss.core 1] else if code = fcMismatch then [.coreKill s.iss.core 3] else [])) ∧
    (∀ (s : State) (c slot word : Nat), slot ≠ 63 → (s.ctx c slot).pair = none → (s.ctx c slot).gang = [] → ∃ u : State,
      exec (.illegalEncoding c slot word) s = .next u ∧ Frozen s u c slot 0x01 word ((s.ctx c slot).pc.word = 1) []) ∧
    (∀ (s : State) (c slot : Nat), slot ≠ 63 → (s.ctx c slot).pair = none → (s.ctx c slot).gang = [] →
      let x := s.ctx c slot
      ∃ u : State, exec (.entryFaultAtFetch c slot) s = .next u ∧
        Frozen s u c slot 0x05 (x.pc.blk % 2 ^ 24 * 512 + (s.core c).blockCount x.asid x.pc.blk % 512) (x.pc.word = 1) []) ∧
    (∀ (s : State) (c slot p word : Nat), slot ≠ 63 → (s.ctx c slot).pair = some p → p ≠ slot → ∃ u : State,
      exec (.illegalEncoding c slot word) s = .next u ∧ (u.ctx c slot).status = .frozen ∧ (u.ctx c p).status = .frozen ∧
      (u.ctx c p).fcode = (u.ctx c slot).fcode ∧ (u.ctx c p).faddr = (u.ctx c slot).faddr ∧
      Recorded s u (s.ctx c slot).asid (faultRec 0 (s.ctx c slot).asid (s.tid c slot) ((u.ctx c slot).fcode * 2 ^ 48 + (u.ctx c slot).faddr) word (s.ctx c slot).pt)) ∧
    (∀ (s : State) (c word : Nat), ∃ u : State, exec (.illegalEncoding c 63 word) s = .next u ∧ u.ctx c 63 = {} ∧ (u.core c).work.porter = none ∧
      (∀ j, j ≠ 63 → u.ctx c j = s.ctx c j) ∧ (∀ e, e ≠ c → u.core e = s.core e) ∧ .porterHandlerStart c ∈ u.net ∧
      (∀ i l, (s.core c).work.porter = some i → i.land = some l → chipOf l.core = s.chip (s.ctx c 63).asid →
        .copyPacketLanding (s.phys l.core) l.chan l.id (l.pkt + 2 ^ 32 * 3) ∈ u.net) ∧
      Recorded s u (s.ctx c 63).asid (faultRec 6 (s.ctx c 63).asid (s.tid c 63)
        ((1 + if (s.ctx c 63).pc.word = 1 then 256 else 0) * 2 ^ 48 + pa (s.ctx c 63).pc.blk (s.ctx c 63).pc.off) word (s.ctx c 63).pt))) ∧
   (∀ (s : State) (c slot : Nat),
      let x := s.ctx c slot
      x.status = .frozen → x.pair = none → Tab.get? (s.core c).work.saved slot = none →
      (∃ u : State, exec (.frozenThreadReissue c slot) s = .next u ∧ OnlyCtx c slot s u ∧
        u.ctx c slot = { x with status := .ready, pc := { x.pc with word := x.fcode / 256 % 2 } }) ∧
      (x.gang = [] → (s.core c).NoneWaits → ∃ u : State, exec (.frozenThreadEnd c slot) s = .next u ∧ u.ctx c slot = {} ∧
        (∀ j, j ≠ slot → u.ctx c j = s.ctx c j) ∧ (u.core c).file = (s.core c).file ∧ (u.core c).units = (s.core c).units ∧
        (∀ e, e ≠ c → u.core e = s.core e) ∧ u = { s with cores := u.cores }) ∧
      (∀ entry, x.gang = [] → (s.core c).NoneWaits → chipOf (s.coreId x.asid c) = s.chip x.asid → ∃ (u : State) (m : Travel), exec (.frozenThreadFaultEntry c slot entry) s = .next u ∧
        u.ctx c slot = {} ∧ (∀ j, j ≠ slot → u.ctx c j = s.ctx c j) ∧ (∀ e, e ≠ c → u.core e = s.core e) ∧
        u.net = s.net ++ [.travelMessageArrival m.origin m] ∧ u = { s with cores := u.cores, net := u.net, yew := u.yew } ∧
        m.dest = entry ∧ m.origin = s.coreId x.asid c ∧ m.asid = x.asid ∧ m.cls = x.cls ∧ m.pt = x.pt ∧ m.live = 0 ∧ m.regs = [] ∧ m.masks = [] ∧
        (m.redun ↔ x.tstat.testBit 1) ∧ m.rolled = false))

/-- 14 R328, R398: a core in service that passes its self-tests has sent the heartbeat of its period; one with a bad entry of its register file allocated
fails them from then on; the supervisor kills a core that no heartbeat has come from for 196,608 cycles. 14 R329, R330, R403: a kill (here with no
transfer, chain command or porter item under way) stops the core, seals its name, enters a kill record for each job with a thread there, and
leaves its name's partners their error messages; accepted engine work goes on.
14 R329, R331, R332; 01 R15, R26: once a killed core's name is sealed, the hedge's spare takes the name with LSPLIT, VGROUP and SHASID of the killed core,
every other register at reset and a blank SRAM, and SPAREFREE falls by 1; where the spare serves already the name is lost, and Ozine hears of it. Here no block was placed on the killed core
and nothing waited there; a job whose recovery mode is 0 ends. -/
def Obligations.CoresKilled : Prop :=
   ((∀ (s : State) (c : Nat), (s.core c).csr.stopped = false → ∃ u : State, exec (.heartbeat c) s = .next u ∧ OnlyCore c s u ∧
      u.core c = { s.core c with csr := if (s.core c).csr.hbFail ∨ (s.core c).badFile then { (s.core c).csr with hbFail := true }
        else { (s.core c).csr with lastHb := s.now + (65535 - s.cycle c % 65536) } }) ∧
    (∀ (s : State) (c : Nat), (s.core c).csr.stopped = false →
      (s.now < (s.core c).csr.lastHb + 196608 → exec (.heartbeatTimeout c) s = .next s) ∧
      ((s.core c).csr.lastHb + 196608 ≤ s.now → exec (.heartbeatTimeout c) s = .next { s with net := s.net ++ [.coreKill c 2] })) ∧
    (∀ (s : State) (c cause : Nat),
      let k := s.core c
      let name := s.logical c
      k.csr.stopped = false → s.phys name = c → k.units.transfers = [] → k.units.chain = none → k.work.porter = none → k.work.porterQ = [] → k.work.porters = [] →
      s.openSnap = none → (s.jobs.map Job.num).Nodup → ∃ u : State, exec (.coreKill c cause) s = .next u ∧
        u = { s with cores := u.cores, dies := u.dies, hedges := u.hedges, jobs := u.jobs, mem := u.mem, net := u.net } ∧
        (u.core c).csr.stopped ∧ (u.core c).ctxs = [] ∧ (u.core c).regs = {} ∧ (u.core c).q = {} ∧ (u.core c).units = {} ∧ (u.core c).work.deque = [] ∧
        (u.core c).work.spill = k.work.spill ∧ (u.core c).work.overflow = k.work.overflow ∧ (u.core c).work.placed = k.work.placed ∧
        (u.core c).csr.killCause = cause ∧ (∀ e, e ≠ c → u.core e = s.core e) ∧
        (u.rename name).st = 1 ∧ (u.rename name).phys = (s.rename name).phys ∧ (∀ n, dieOf n ≠ dieOf name ∨ 16 * hedgeOf n + coreOf n ≠ 16 * hedgeOf name + coreOf name → u.rename n = s.rename n) ∧
        (∀ j ∈ s.jobs, j.st ≠ .ended → u.job j.num = some (if k.holdsJob j.asids.contains then
          { j with faults := j.faults ++ [faultRec 3 (j.asids.headD 0) 0 0 (cause * 2 ^ 48 + j.chip * 65536 + name) (s.cycle c)], written := j.written + 1 }
          else j)) ∧
        (∀ e k' r, (e, k') ∈ s.cores → dieOf (s.logical e) = dieOf name → s.logical e ≠ name → r ∈ k'.openRounds → name ∈ groupMembers (s.logical e) r.g →
          .errorMessageArrival (.qmaxx e r.asid r.g r.tag (s.chip r.asid * 65536 + name)) ∈ u.net) ∧
        (u.hedge (hedgeKey c)).ops = (s.hedge (hedgeKey c)).ops.map (fun o => if o.core = c ∧ o.task = none then { o with orphan := true } else o) ∧
        ∀ d, (u.die d).joiners = (s.die d).joiners.filter fun j => j.2.1 != c)) ∧
   (∀ (s : State) (c chosen : Nat),
      let k := s.core c
      let name := s.logical c
      let spare := coreKey (dieOf c) (hedgeOf c) 16
      k.csr.stopped → s.phys name = c → (s.rename name).st = 1 → k.NoneWaits → k.work.placed = [] → (∀ e ∈ s.cores, ∀ q ∈ e.2.work.spill.all, q.returned = false) →
      (spare ≠ c → (s.core spare).csr.stopped = false → (∀ n < 16, s.phys (coreKey (dieOf c) (hedgeOf c) n) ≠ spare) → k.csr.killed = [] → ∃ u : State,
        exec (.spareRemap c chosen) s = .next u ∧
        u = { s with cores := u.cores, dies := u.dies, mem := u.mem, poison := u.poison, sramT := u.sramT } ∧
        (∀ a, u.mem.byte a = if sramAt spare 0 ≤ a ∧ a < sramAt spare 0 + 2 ^ 20 then Memory.byte [] a else s.mem.byte a) ∧
        u.rename name = { st := 0, phys := 16 } ∧ (u.die (dieOf c)).sparefree = (s.die (dieOf c)).sparefree - 1 ∧
        u.core spare = { csr := { lsplit := k.csr.lsplit, vgroup := k.csr.vgroup, shasid := k.csr.shasid, cycle0 := s.now, lastHb := s.now },
                         work := { spill := k.work.spill, overflow := k.work.overflow } } ∧
        (∀ e, e ≠ c → e ≠ spare → u.core e = s.core e) ∧ ∀ n, dieOf n ≠ dieOf name ∨ 16 * hedgeOf n + coreOf n ≠ 16 * hedgeOf name + coreOf name → u.rename n = s.rename n) ∧
      (spare = c ∨ (s.core spare).csr.stopped ∨ (∃ n < 16, s.phys (coreKey (dieOf c) (hedgeOf c) n) = spare) → k.csr.killed = [] → ∃ u : State,
        exec (.spareRemap c chosen) s = .next u ∧ u = { s with cores := u.cores, dies := u.dies, host := u.host } ∧
        u.host.signals = s.host.signals ++ [(16, dieOf c, name)] ∧ u.rename name = { st := 2, phys := (s.rename name).phys } ∧ (u.die (dieOf c)).sparefree = (s.die (dieOf c)).sparefree ∧
        (∀ e, e ≠ c → u.core e = s.core e) ∧ ∀ n, dieOf n ≠ dieOf name ∨ 16 * hedgeOf n + coreOf n ≠ 16 * hedgeOf name + coreOf name → u.rename n = s.rename n) ∧
      (∀ j w, k.csr.killed = [(j.num, w)] → s.job j.num = some j → j.recovery = 0 → k.csr.killCause ≠ 4 → ∃ u : State,
        exec (.spareRemap c chosen) s = .next u ∧ u.job j.num = none))

/-- 14 R323, R325: a flit that fails its check is sent again; whether the replay gets through is open (log 5), and the eighth replay in a row that fails
ends the link: a mesh link's failure stands in the error log and ends the jobs with an ASID open on its die. 14 R330: an error message from a core out of
service ends what was outstanding toward it: a thread's remote access with the remote-error fault, a copy transfer with status REMOTE. -/
def Obligations.PartnersTold : Prop :=
  (∀ (s : State) (l : Link), linkExists l = false → exec (.flitCrcError l) s = .next s) ∧
  (∀ (s : State) (l : Link), linkExists l → l ∉ s.host.failedLinks →
    let n := ((s.host.crc.find? fun e => e.1 == l).map Prod.snd).getD 0
    let rest := s.host.crc.filter fun e => e.1 != l
    (Config.freeBit s.free → exec (.flitCrcError l) s = .next { s with free := s.free + 1, host := { s.host with crc := rest } }) ∧
    (Config.freeBit s.free = false → n + 1 < 8 → exec (.flitCrcError l) s =
      .next { s with free := s.free + 1, host := { s.host with crc := rest ++ [(l, n + 1)] } }) ∧
    (∀ d, l = .mesh d → Config.freeBit s.free = false → 8 ≤ n + 1 → ∃ u : State, exec (.flitCrcError l) s = .next u ∧
      l ∈ u.host.failedLinks ∧ (∀ j ∈ s.jobs, j.st ≠ .ended → s.onDie d j → u.job j.num = none) ∧
      ((∀ j ∈ s.jobs, j.st ≠ .ended → s.onDie d j = false) → u = { s with free := s.free + 1, host := u.host, dies := u.dies } ∧
        u.host = { s.host with failedLinks := s.host.failedLinks ++ [l], crc := rest } ∧
        (u.die d).errlog = (s.die d).errlog ++ [(BitVec.ofNat 64 (8 * 2 ^ 56 + d * 2 ^ 53), 0)]))) ∧
  (∀ (s : State) (c slot owner o : Nat) (a : Access) (rest : List Access),
    let x := s.ctx c slot
    slot ≠ 63 → x.pair = none → x.gang = [] → x.pipe = a :: rest → a.owner = some o → (∀ p ∈ x.out, p.seq = a.seq → p.bytes ≠ 128) → ∃ u v : State,
      exec (.errorMessageArrival (.access c slot owner)) s = .next u ∧ OnlyCtx c slot s v ∧
      v.ctx c slot = { x with pc := a.pc, pipe := rest, out := x.out.filter fun p => p.seq != a.seq || a.seq == 0 } ∧
      Frozen v u c slot 0x0F owner (a.pc.word = 1) []) ∧
  (∀ (s : State) (c ch id : Nat) (t : Transfer),
    let k := s.core c
    k.units.transfers = [t] → t.req.chan = ch → t.req.id = id → t.done = false → t.status = none → t.flying = [] → t.lines = [] → s.dropsFor (dieOf c) t.req.asid = false →
    k.q.evq.length < 32 → k.q.held = [] → k.q.waiters = [] → k.q.cpq = [] → Tab.getD k.units.cpdone ch 0 = id → id < 2 ^ 48 → ∃ u : State,
      exec (.errorMessageArrival (.transfer c ch id)) s = .next u ∧ u = { s with cores := u.cores } ∧ OnlyCore c s u ∧
      (u.core c).units.transfers = [] ∧ Tab.getD (u.core c).units.cpdone ch 0 = (id + 1) % 2 ^ 48 ∧
      (u.core c).q = { k.q with evq := k.q.evq ++ [(BitVec.ofNat 64 (ch * 2 ^ 58 + 5 * 2 ^ 48 + id), t.tc)] })

/-! ### Ozine (02, 04, 05, 17) -/

/-- 02 R33, R35; 05 R122: a block placed on a core in service (here one that no directory names) has its text in the instruction store and its holder in every die's
directory, and a thread held for it goes on to the holder with the registers that its entry lists; without valid text the held threads stay
with a kind-5 record. Which core Ozine chooses, and where in its instruction store, is its own (log 11), but the first holder of a block that the
program places goes to the core it names while that has room. -/
def Obligations.BlocksPlaced : Prop :=
  (∀ (s : State) (die asid blk dst other a : Nat) (p : Placed) (j : Job), s.imageAt a asid blk = some p → s.jobOf asid = some j →
    j.places.find? (fun e => e.1 == blk) = some (blk, other) → other ≠ dst → s.dirBlock die asid blk = none → (∀ m ∈ (s.die die).hold, m.thief ≠ some dst) →
    (freeRun ((s.core (s.phys other)).work.placed.map fun p => (p.addr, 8 * p.count)) (8 * p.count) 8 Config.istoreBytes).isSome →
    exec (.blockPlacement die asid blk dst (some a)) s = .next s) ∧
  (∀ (s : State) (die asid blk dst a r desc : Nat) (p : Placed) (m : Travel) (j : Job),
    let c := s.phys dst
    s.jobOf asid = some j → j.colocs = [] → s.placeAllowed die asid dst p false → (∀ d < 8, (s.die d).bucketTakes asid blk) → m.thief = none →
    s.imageAt a asid blk = some p → s.validCore asid dst → chipOf dst = s.chip asid → (s.rename dst).st = 0 → (s.core c).placedBlock asid blk = none →
    freeRun ((s.core c).work.placed.map fun p => (p.addr, 8 * p.count)) (8 * p.count) 8 Config.istoreBytes = some r → die < 8 →
    (∀ d < 8, s.dirBlock d asid blk = none) → s.mem.wf → (s.die die).hold = [m] → m.asid = asid → m.dest / 512 = blk → m.kind = 0 → m.j = none →
    entryAt p.descs (m.dest % 512) = some desc → ∃ u : State, exec (.blockPlacement die asid blk dst (some a)) s = .next u ∧
      u = { s with cores := u.cores, dies := u.dies, mem := u.mem, poison := u.poison, net := u.net } ∧ (∀ e, e ≠ c → u.core e = s.core e) ∧
      u.core c = { s.core c with work := { (s.core c).work with placed := (s.core c).work.placed ++ [{ p with addr := r }] } } ∧
      (∀ i < 8 * p.count, u.mem.byte (istoreAt c r + i) = s.mem.byte (a + 128 + i)) ∧
      (∀ b, b < istoreAt c r ∨ istoreAt c r + 8 * p.count ≤ b → u.mem.byte b = s.mem.byte b) ∧ (u.die die).hold = [] ∧
      (∀ d < 8, ∃ b, u.dirBlock d asid blk = some b ∧ b.placing = false ∧ b.holders = [dst] ∧ b.descs = p.descs) ∧
      u.net = s.net ++ [.travelMessageArrival dst { trimTravel m desc with cut := s.stillCut m }]) ∧
  (∀ (s : State) (die asid blk dst : Nat) (j : Job),
    let held := (s.die die).hold.filter fun m => m.asid == asid && m.dest / 512 == blk
    s.jobOf asid = some j → s.job j.num = some j → ∃ u : State, exec (.blockPlacement die asid blk dst none) s = .next u ∧
      u = { s with dies := u.dies, jobs := u.jobs, mem := u.mem, yew := u.yew } ∧
      (u.die die).hold = (s.die die).hold.filter (fun m => !(m.asid == asid && m.dest / 512 == blk)) ∧
      u.job j.num = some { j with faults := j.faults ++ [faultRec 5 asid 0 (blk % 2 ^ 24 * 512) held.length 0], written := j.written + 1,
                                  kept := j.kept ++ held })

/-- 04 R105: once Ozine has brought a page in, the threads that waited for it go on, under the leaf that it wrote; where it finds no mapping, they report the page
fault when they issue again. 17 R376: a trap leaves its die's queue and its thread is answered by SEND to g7: allocation gives zeroed pages,
mapped read-write, at the frames that Ozine takes (log 11) or all ones; a free unmaps what was allocated; a log keeps 256 readable bytes; any
other service answers all ones. The answer's time 0 is the model's (log 55). -/
def Obligations.OzineServes : Prop :=
  (∀ (s : State) (die asid va : Nat) (e : Word),
    let l := s.ctxsOf die fun x => x.waits asid fun w => w.absents va
    ∃ u : State, exec (.pageInComplete die asid va (some e)) s = .next u ∧
      u.mem = (match s.leafSlot die asid va with | some a => s.mem.write a 8 e.toNat | none => s.mem) ∧
      ∀ c slot, ((c, slot) ∈ l → (u.ctx c slot).status = .ready) ∧ ((c, slot) ∉ l → u.ctx c slot = s.ctx c slot)) ∧
  (∀ (s : State) (die asid va : Nat),
    let l := s.ctxsOf die fun x => x.waits asid fun w => w.absents va
    l.Nodup → (∀ e ∈ s.cores, e.2.units = {}) → (∀ h ∈ s.hedges, h.2.ops = []) → (s.die die).recs = [] → (s.die die).roots = [] → ∃ u : State,
      exec (.pageInComplete die asid va none) s = .next u ∧ u = { s with cores := u.cores } ∧
      ∀ c slot, u.ctx c slot = if (c, slot) ∈ l then
        { s.ctx c slot with status := .ready, badPages := Tab.put (s.ctx c slot).badPages ((s.ctx c slot).waitAddr / 65536) 0x0D } else s.ctx c slot) ∧
  (∀ (s : State) (r : TrapRec) (die : Nat) (d : Die), s.dies.find? (fun e => e.2.traps.contains r) = some (die, d) → s.die die = d →
    let service := r.arg.toNat / 2 ^ 56
    let n := r.arg.toNat % 2 ^ 56
    let ones_ : Word := BitVec.ofNat 64 (2 ^ 64 - 1)
    let answer : Word → SendMsg := fun v =>
      { unaddressed := false, tgt := BitVec.ofNat 64 (r.tid * 256 + 7), v := v, tid := s.chip r.asid * 2 ^ 22, asid := r.asid, cls := r.cls, ts := 0, cut := false }
    let rest : State → State := fun u => { u with dies := s.dies, jobs := s.jobs, mem := s.mem, poison := s.poison, cores := s.cores, hedges := s.hedges }
    let told := fun (u : State) (v : Word) => rest u = { s with host := u.host, net := u.net, yew := u.yew } ∧
      (u.die die).traps = d.traps.erase r ∧ u.net = s.net ++ [.sendArrival (answer v)]
    (service ≠ 1 → service ≠ 2 → service ≠ 3 → ∃ u : State, exec (.trapUnknownService r) s = .next u ∧ told u ones_ ∧ u.mem = s.mem) ∧
    (service = 1 → ∃ u : State, exec (.trapAllocate r none) s = .next u ∧ told u ones_ ∧ u.mem = s.mem) ∧
    (∀ f page slots j, service = 1 → n ≠ 0 → s.jobOf r.asid = some j → s.job j.num = some j → freePages (s.absentLeaves die r.asid) j.allocs n = some (page, slots) →
      f % 65536 = 0 → inDram (f / 2 ^ 36) f → inDram (f / 2 ^ 36) (f + 65536 * n - 1) → slots.Nodup → (∀ a ∈ slots, a + 8 ≤ f ∨ f + 65536 * n ≤ a) → ∃ u : State,
      exec (.trapAllocate r (some f)) s = .next u ∧ told u (BitVec.ofNat 64 (page * 65536)) ∧
      u.job j.num = some { j with allocs := j.allocs ++ [(page * 65536, n)] } ∧ (∀ b, f ≤ b → b < f + 65536 * n → u.mem.byte b = 0) ∧
      ∀ i a, slots[i]? = some a → u.mem.read a 8 = 2 ^ 61 + f + 65536 * i + 7) ∧
    (∀ j p, service = 2 → s.jobOf r.asid = some j → s.job j.num = some j → j.allocs.find? (fun a => a.1 == n) = some (n, 1) →
      s.leafSlot die r.asid n = some p → (∀ o ∈ s.yew.snaps, ∀ b, o.awaits b = false) → ∃ u : State, exec (.trapFree r) s = .next u ∧ told u 0 ∧ u.job j.num = some { j with allocs := j.allocs.erase (n, 1) } ∧
        u.mem.read p 8 = 0 ∧ ∀ b, b < p ∨ p + 8 ≤ b → u.mem.byte b = s.mem.byte b) ∧
    (∀ j, service = 2 → s.jobOf r.asid = some j → j.allocs.find? (fun a => a.1 == n) = none → ∃ u : State, exec (.trapFree r) s = .next u ∧ told u ones_ ∧ u.mem = s.mem) ∧
    (∀ l, service = 3 → n % 8 = 0 → s.userBytes die r.asid n 256 = some l → ∃ u : State, exec (.trapLog r) s = .next u ∧ told u 0 ∧
      u.host = { s.host with logs := s.host.logs ++ [(r.asid, l)] } ∧ u.mem = s.mem) ∧
    (service = 3 → n % 8 ≠ 0 ∨ s.userBytes die r.asid n 256 = none → ∃ u : State, exec (.trapLog r) s = .next u ∧ told u ones_ ∧ u.host = s.host ∧ u.mem = s.mem))

/-- 05 R109, R113, R114, R122, R124, R125; 13 R302; 15 R336; 01 R15, R26; 03 R75: a commit word that names the copy not in force, under that copy's
own version, puts it in force, and any other leaves what is in force. A name that goes to a hedge's spare finds it blank, and SPAREFREE
follows. A grown ring takes new entries in its new place, with indices of its own, and keeps the old ones until they are drained; other
addresses of a scheduler's rings are taken only while every ring is empty. The limits on a copy are those of its rule. -/
def Obligations.BlocksCommitted : Prop :=
  (∀ (s : State) (die : Nat) (word : Word),
    let d := s.die die
    let n := word.toNat % 512
    let own : Rename := { st := 0, phys := n % 16 }
    let r := Tab.getD d.pendRename n own
    let old := Tab.getD d.rename n own
    let spare := coreKey die (n / 16) 16
    let k := s.core spare
    let good := word.toNat / 512 = d.renameVersion + 1 ∧ r.st ≤ 2 ∧ r.phys ≤ 16 ∧
      ∀ i < 16, i ≠ n % 16 → (Tab.getD d.rename (n / 16 * 16 + i) { st := 0, phys := i }).phys ≠ r.phys
    (¬ good → exec (.renameCommit die word) s = .next s) ∧
    (good → (∀ e ∈ s.cores, ∀ q ∈ e.2.work.spill.all, q.returned = false) → ∃ u : State, exec (.renameCommit die word) s = .next u ∧
      u = { s with dies := u.dies, cores := u.cores, mem := u.mem, poison := u.poison, sramT := u.sramT } ∧ (∀ e, e ≠ die → u.die e = s.die e) ∧
      u.die die = { d with rename := Tab.put d.rename n r, renameVersion := d.renameVersion + 1,
                           sparefree := d.sparefree + (if old.phys = 16 then 1 else 0) - (if r.phys = 16 then 1 else 0) } ∧
      (∀ e, e ≠ spare → u.core e = s.core e) ∧
      (r.phys ≠ 16 ∨ old.phys = 16 → u = { s with dies := u.dies }) ∧
      (r.phys = 16 → old.phys ≠ 16 →
        (∀ b, u.mem.byte b = if sramAt spare 0 ≤ b ∧ b < sramAt spare 0 + 2 ^ 20 then 0 else s.mem.byte b) ∧
        u.core spare = { csr := { lsplit := k.csr.lsplit, vgroup := k.csr.vgroup, shasid := k.csr.shasid, cycle0 := s.now, lastHb := s.now,
                                  stopped := k.csr.stopped },
                         work := { spill := k.work.spill, overflow := k.work.overflow, placed := k.work.placed } }))) ∧
  (∀ (s : State) (h : Nat) (word : Word),
    let x := s.hedge h
    (¬ (word.toNat % 2 ≠ x.slotCopy ∧ word.toNat / 2 = x.pendSlots.2) → exec (.slotTableCommit h word) s = .next s) ∧
    (word.toNat % 2 ≠ x.slotCopy → word.toNat / 2 = x.pendSlots.2 → ∃ u : State, exec (.slotTableCommit h word) s = .next u ∧
      u = { s with hedges := u.hedges, timers := u.timers } ∧ (u.hedge h).slots = x.slots ∧ (u.hedge h).nextSlots = some x.pendSlots.1 ∧
      (u.hedge h).slotVersion = x.pendSlots.2 ∧ (u.hedge h).slotCopy = 1 - x.slotCopy ∧ (∀ e, e ≠ h → u.hedge e = s.hedge e) ∧
      (s.now + (65536 - s.now % 65536), .frameStart h) ∈ u.timers)) ∧
  (∀ (s : State) (die : Nat) (word : Word),
    let d := s.die die
    let p := d.pendSched
    let moved := p.queues ≠ d.sched.queues ∨ p.holds ≠ d.sched.holds
    let good := word.toNat % 2 ≠ d.sched.copy ∧ word.toNat / 2 = p.version ∧ (∀ a, a ∈ p.queues ∨ a ∈ p.holds → a % 64 = 0 ∧ inDram die a) ∧
      p.queues.length ≤ 4 ∧ p.holds.length ≤ 4 ∧
      (moved → (∀ e ∈ d.tasks, e.2.occupancy = 0) ∧ ∀ e ∈ d.holds, e.2.occupancy = 0)
    (¬ good → exec (.schedulerConfigCommit die word) s = .next s) ∧
    (good → ∃ u : State, exec (.schedulerConfigCommit die word) s = .next u ∧ u = { s with dies := u.dies } ∧ (∀ e, e ≠ die → u.die e = s.die e) ∧
      u.die die = { d with sched := { p with copy := 1 - d.sched.copy }, pendSched := d.sched, tasks := (u.die die).tasks, holds := (u.die die).holds } ∧
      (¬ moved → (u.die die).tasks = d.tasks ∧ (u.die die).holds = d.holds) ∧
      (moved → (∀ i a, p.queues[i]? = some a → (u.die die).taskRing i = s.adopt a (d.taskRing i)) ∧
        ∀ i a, p.holds[i]? = some a → (u.die die).holdRing i = s.adopt a (d.holdRing i)))) ∧
  (∀ (s : State) (die : Nat) (word : Word),
    let d := s.die die
    let p := d.pendYew
    let good := word.toNat % 2 ≠ d.yew.copy ∧ word.toNat / 2 = p.version ∧ 16 ≤ p.size ∧ p.size < 2 ^ 16 ∧ p.hwm < p.size ∧
      p.base % 65536 = 0 ∧ inDram die p.base ∧ p.asids.length ≤ 8
    (s.openSnap ≠ none ∨ ¬ good → exec (.yewConfigCommit die word) s = .next s) ∧
    (good → s.openSnap = none → p.asids = [] → ∃ u : State, exec (.yewConfigCommit die word) s = .next u ∧ u = { s with dies := u.dies } ∧
      (∀ e, e ≠ die → u.die e = { s.die e with yewSignalled := (u.die e).yewSignalled }) ∧
      u.die die = { d with yew := { p with copy := 1 - d.yew.copy }, pendYew := d.yew, yewSignalled := (u.die die).yewSignalled } ∧
      ∀ e, (u.die e).yewSignalled → (s.die e).yewSignalled)) ∧
  (∀ (r : Machine.Ring QSlot) (word : Word) (copy : Option RingCopy),
    let good := fun (p : RingCopy) => word.toNat % 2 ≠ r.copy ∧ word.toNat / 2 = p.version ∧ 10 ≤ p.log2cap ∧ p.log2cap ≤ 20 ∧
      p.hwm + 256 ≤ 2 ^ p.log2cap ∧ p.base % 65536 = 0 ∧ p.base ≠ 0 ∧ p.base < 2 ^ 39 ∧ inDram (p.base / 2 ^ 36) p.base ∧ r.drained
    (∀ p, copy = some p → good p → r.commit word copy =
      { r with old := r.entries, oldBase := r.base, oldLog2cap := r.log2cap, oldHead := r.head, oldTail := r.tail,
               entries := [], head := 0, tail := 0, base := p.base, log2cap := p.log2cap, hwm := p.hwm, version := p.version, copy := 1 - r.copy,
               pending := { base := r.base, log2cap := r.log2cap, version := r.version, hwm := r.hwm }, drained := r.entries = [],
               signalled := r.signalled ∧ p.hwm < r.entries.length }) ∧
    ((∀ p, copy = some p → ¬ good p) → r.commit word copy = r)) ∧
  (∀ (s : State) (word : Word),
    let told := fun (die : Nat) (u : State) => ∀ i ∈ u.net, i ∈ s.net ∨ (∃ n, i = .counterZeroWake die n) ∨ ∃ c, i = .tkqAccept c
    (∀ c, let r := (s.core c).work.overflow
      ∃ u : State, exec (.ringGrowthCommit (.deque c) word) s = .next u ∧ OnlyCore c { s with mem := (s.commitWord r word).mem } u ∧
        u.core c = { s.core c with work := { (s.core c).work with overflow := s.commitRing word r } }) ∧
    (∀ c, let r := (s.core c).work.spill
      (s.core c).NoneWaits → (s.die (dieOf c)).overflow.all = [] → ∃ u : State, exec (.ringGrowthCommit (.spill c) word) s = .next u ∧
        OnlyCore c { s with mem := (s.commitWord r word).mem } u ∧
        u.core c = { s.core c with work := { (s.core c).work with spill := s.commitRing word r } }) ∧
    (∀ die, let r := (s.die die).overflow
      ∃ u : State, exec (.ringGrowthCommit (.overflow die) word) s = .next u ∧ u = { s with dies := u.dies, mem := (s.commitWord r word).mem } ∧
        (∀ e, e ≠ die → u.die e = s.die e) ∧ u.die die = { s.die die with overflow := s.commitRing word r }) ∧
    (∀ die cls, ((s.die die).holdRing cls).all = [] →
      (let r := (s.die die).taskRing cls
       ∃ u : State, exec (.ringGrowthCommit (.task die cls) word) s = .next u ∧ u = { s with dies := u.dies, mem := (s.commitWord r word).mem, net := u.net } ∧
         (∀ e, e ≠ die → u.die e = s.die e) ∧ told die u ∧ u.die die = { s.die die with tasks := Tab.put (s.die die).tasks cls (s.commitRing word r) }) ∧
      (let r := (s.die die).holdRing cls
       ∃ u : State, exec (.ringGrowthCommit (.hold die cls) word) s = .next u ∧ u = { s with dies := u.dies, mem := (s.commitWord r word).mem, net := u.net } ∧
         (∀ e, e ≠ die → u.die e = s.die e) ∧ told die u ∧ u.die die = { s.die die with holds := Tab.put (s.die die).holds cls (s.commitRing word r) })) ∧
    (∀ die copy version, let d := s.die die
      let p := d.pendDir
      let bucket := fun (b : DirBlock) => dirBucket p.log2 b.asid b.blk
      let good := copy % 2 ≠ d.dir.copy ∧ version % 2 ^ 63 = p.version ∧ 4 ≤ p.log2 ∧ p.log2 ≤ 20 ∧ inDram die p.base ∧
        ∀ b ∈ d.blocks, (d.blocks.filter fun e => bucket e == bucket b).length ≤ 8
      (¬ good → exec (.blockDirectoryCommit die copy version) s = .next s) ∧
      (good → ∃ u : State, exec (.blockDirectoryCommit die copy version) s = .next u ∧ u = { s with dies := u.dies } ∧
        (∀ e, e ≠ die → u.die e = s.die e) ∧ u.die die = { d with dir := { p with copy := 1 - d.dir.copy }, pendDir := d.dir })))

/-- 03 R64, R70, R74, R75, R79, R80; 04 R86, R88, R106; 00 R5: the registers that Ozine writes. LSPLIT takes a legal value while slots 0 to 62 are empty and
the porter is idle, and waits while it is not; what the core's router held is then let in: a change of the cache code empties the cache portion and zeroes the scratchpad, one of the reserve alone zeroes what
moves. VGROUP empties the victim cache, and the cache portion of whose ways it lends more; each write of DBGCTL governs instructions that issue 8 or more cycles later; a new
SHASID zeroes the shared registers, but for a register that is loading; an illegal value changes nothing and is answered by a value error. -/
def Obligations.RegistersWritten : Prop :=
  (∀ (s : State) (c : Nat) (v : Word),
    let k := s.core c
    let old := k.csr.lsplit
    let new := v.toNat
    let idle := s.porterIdle c
    let zeroed := fun (u : State) (lo hi : Nat) => ∀ b, u.mem.byte b = if lo ≤ b ∧ b < hi then 0 else s.mem.byte b
    (∀ e ∈ s.timers, e.1 < 2 ^ 64) →
    (lsplitValid new = false ∨ k.slotsEmpty = false → exec (.lsplit c v) s = .next (s.signal 15 0x100 c)) ∧
    (lsplitValid new → k.slotsEmpty → idle = false → ∃ u : State, exec (.lsplit c v) s = .next u ∧ u = { s with timers := u.timers } ∧
      (s.now + 8, .lsplit c v) ∈ u.timers) ∧
    (lsplitValid new → k.slotsEmpty → idle → old % 8 = new % 8 → ∃ u : State, exec (.lsplit c v) s = .next u ∧
      u = { s with cores := u.cores, mem := u.mem, poison := u.poison } ∧ (∀ e, e ≠ c → u.core e = s.core e) ∧
      u.core c = { k with csr := { k.csr with lsplit := new } } ∧
      zeroed u (sramAt c (scratchSize old - max (reserveSize old) (reserveSize new)))
        (sramAt c (scratchSize old - max (reserveSize old) (reserveSize new)) +
          (scratchSize old - min (reserveSize old) (reserveSize new) - (scratchSize old - max (reserveSize old) (reserveSize new))))) ∧
    (lsplitValid new → k.slotsEmpty → idle → old % 8 ≠ new % 8 → ∃ u : State, exec (.lsplit c v) s = .next u ∧
      u = { s with cores := u.cores, mem := u.mem, poison := u.poison, net := u.net } ∧ (∀ e, e ≠ c → u.core e = s.core e) ∧
      u.core c = { k with cache := [], csr := { k.csr with lsplit := new } } ∧
      (∀ l ∈ k.cache, l.st ≠ .s → .writeback l.line l.wts l.rts l.data l.marks (l.st == .m) ∈ u.net) ∧
      zeroed u (sramAt c 0) (sramAt c 0 + max (scratchSize old) (scratchSize new)))) ∧
  (∀ (s : State) (c : Nat) (v : Word), lsplitValid v.toNat → (s.core c).slotsEmpty → s.porterIdle c → ∃ u : State, exec (.lsplit c v) s = .next u ∧
    (∀ e ∈ u.timers, e.1 < 2 ^ 64) ∧ ∀ i, (2 ^ 64, i) ∈ s.timers → i ∈ u.net) ∧
  (∀ (s : State) (c : Nat) (v : Word),
    let h := hedgeKey c
    let g := v.toNat % 4
    let k := s.core c
    let free := ∀ i < 17, (s.core (coreKey (h / 32) (h % 32) i)).slotsEmpty
    (g = 3 ∨ ¬ free → exec (.vgroup c v) s = .next (s.signal 15 0x101 c)) ∧
    (g ≠ 3 → free → ∃ u : State, exec (.vgroup c v) s = .next u ∧ u = { s with cores := u.cores, hedges := u.hedges, net := u.net } ∧
      (∀ e, e ≠ c → u.core e = s.core e) ∧
      u.core c = { k with csr := { k.csr with vgroup := g }, cache := if k.csr.vgroup < g then [] else k.cache } ∧
      (∀ l, l ∈ (s.hedge h).victim ∨ (k.csr.vgroup < g ∧ l ∈ k.cache) → l.st ≠ .s →
        .writeback l.line l.wts l.rts l.data l.marks (l.st == .m) ∈ u.net) ∧
      u.hedge h = { s.hedge h with victim := [] } ∧ ∀ e, e ≠ h → u.hedge e = s.hedge e)) ∧
  (∀ (s : State) (c : Nat) (v : Word), ∃ u w : State, exec (.dbgctl c v) s = .next u ∧ OnlyCore c s u ∧
    u.core c = { s.core c with csr := { (s.core c).csr with dbgctl := v.toNat % 2, dbgOld := (u.core c).csr.dbgOld } } ∧
    (∀ n, (({ u with now := s.now + n } : State).debugMode c ↔
      if n < 8 then ({ s with now := s.now + n } : State).debugMode c = true else v.toNat % 2 = 1)) ∧
    exec (.shasid c v) s = .next w ∧
    (v.toNat % 2 ^ 16 = (s.core c).csr.shasid → w = s) ∧
    (v.toNat % 2 ^ 16 ≠ (s.core c).csr.shasid → OnlyCore c s w ∧
      w.core c = { s.core c with regs := { w := (w.core c).regs.w }, csr := { (s.core c).csr with shasid := v.toNat % 2 ^ 16 } } ∧
      ∀ e ∈ (w.core c).regs.w, e.2 = { loading := true } ∧ ∃ x, (e.1, x) ∈ (s.core c).regs.w ∧ x.loading)) ∧
  (∀ (s : State) (h : Nat) (v : Word),
    (v.toNat < 8 ∨ 4096 < v.toNat → exec (.mecheck h v) s = .next (s.signal 15 0x200 h)) ∧
    (8 ≤ v.toNat → v.toNat ≤ 4096 → ∃ u : State, exec (.mecheck h v) s = .next u ∧ u = { s with hedges := u.hedges } ∧
      (∀ e, e ≠ h → u.hedge e = s.hedge e) ∧ u.hedge h = { s.hedge h with mecheck := v.toNat, checks := 0 })) ∧
  (∀ (s : State) (c h : Nat) (v : Word),
    exec (.managementWindowWrite (.coreCsr c 0x100 v)) s = exec (.lsplit c v) s ∧ exec (.managementWindowWrite (.coreCsr c 0x101 v)) s = exec (.vgroup c v) s ∧
    exec (.managementWindowWrite (.coreCsr c 0x102 v)) s = exec (.dbgctl c v) s ∧ exec (.managementWindowWrite (.coreCsr c 0x103 v)) s = exec (.shasid c v) s ∧
    exec (.managementWindowWrite (.hedgeCsr h 0x200 v)) s = exec (.mecheck h v) s) ∧
  (∀ (s : State) (die desc entry st phys : Nat) (n : Word),
    let a : AsidEntry := { root := desc / 2 ^ 59 % 2 ^ 31 * 2 ^ 17, farBase := desc / 2 ^ 90 % 2 ^ 43, farLimit := desc / 2 ^ 133 % 2 ^ 43 }
    ∃ u v w : State,
    exec (.managementWindowWrite (.asidEntry die desc)) s = .next u ∧ u = { s with dies := u.dies } ∧ (∀ e, e ≠ die → u.die e = s.die e) ∧
    u.die die = { s.die die with asids := Tab.put (s.die die).asids (desc % 2 ^ 16) a } ∧
    exec (.managementWindowWrite (.renameCopy die entry st phys)) s = .next v ∧ v = { s with dies := v.dies } ∧ (∀ e, e ≠ die → v.die e = s.die e) ∧
    v.die die = { s.die die with pendRename := Tab.put (s.die die).pendRename entry { st := st, phys := phys } } ∧
    exec (.managementWindowWrite (.dieCsr die 0x300 n)) s = .next w ∧ w = { s with dies := w.dies } ∧ (∀ e, e ≠ die → w.die e = s.die e) ∧
    w.die die = { s.die die with sparefree := n.toNat % 64 }) ∧
  (∀ (s : State) (c addr v : Nat), addr < Config.istoreBytes → (∀ p ∈ (s.core c).work.placed, addr < p.addr ∨ p.addr + 8 * p.count ≤ addr) → ∃ u : State,
    exec (.managementWindowWrite (.istore c addr v)) s = .next u ∧ u = { s with mem := u.mem } ∧ Stores s u (istoreAt c addr) 1 v)

/-! ### The host's side (17) -/

/-- 17 R371, R375, R402; 13 R297: a launch of a whole job whose header can be read opens the job as its doubles say; one of another chip's part asks chip 0 to
join. A join that fits is entered and answered; an answer settles the waiting command. Stopping a job freezes its threads where they stand;
ending it leaves none of them; where another package has part of the job, the command goes there too and is answered once that has stopped (log 65). A command that its function may not give, or that breaks a limit, changes nothing but its answer. -/
def Obligations.JobsLaunchedAndStopped : Prop :=
  (∀ (s : State) (cmd : HostCmd), CanAnswer s cmd →
    let asid := cmdAsid cmd
    (cmdOpcode cmd ≠ 1 → ∃ u : State, exec (.launch cmd) s = .next u ∧ Answered s u cmd 1) ∧
    (cmdOpcode cmd = 1 → s.asidOpen cmd = false → ∃ u : State, exec (.launch cmd) s = .next u ∧ Answered s u cmd 2) ∧
    (cmdOpcode cmd = 1 → s.asidOpen cmd → cmdReserved cmd [1, 2, 3, 4, 6, 7] ∨ launchBreaks cmd ∨ s.jobOf asid ≠ none ∨ s.job (lcJob cmd) ≠ none →
      ∃ u : State, exec (.launch cmd) s = .next u ∧ Answered s u cmd 1) ∧
    (∀ g z, cmdOpcode cmd = 1 → s.asidOpen cmd → cmdReserved cmd [1, 2, 3, 4, 6, 7] = false → launchBreaks cmd = false → s.jobOf asid = none →
      s.job (lcJob cmd) = none → lcChip cmd = 0 → lcChips cmd = 1 → cmdDouble cmd 1 ≠ 0 → cmdDouble cmd 7 = 0 →
      s.readHeader cmd.die asid (cmdDouble cmd 1) = (some g, z) → z.host = s.host → z.jobs = s.jobs →
      (g.features &&& s.host.drvfeat ≠ g.features → ∃ u : State, exec (.launch cmd) s = .next u ∧ Answered z u cmd 3) ∧
      (g.features &&& s.host.drvfeat = g.features → ∃ (u : State) (j : Job), exec (.launch cmd) s = .next u ∧ u.job (lcJob cmd) = some j ∧
        j = { jobOfCmd cmd g.cls g.features [] with started := true, faults := j.faults, written := j.written } ∧
        (cmd.queue < 64 → u.host.answers = s.host.answers ++ [(cmd.die, cmd.queue, cmd.d.getD 5 0, 0)])))) ∧
  (∀ (s z : State) (cmd : HostCmd) (map : Tab (Word × Word)), cmdOpcode cmd = 1 → s.asidOpen cmd → cmdReserved cmd [1, 2, 3, 4, 6, 7] = false →
    launchBreaks cmd = false → s.jobOf (cmdAsid cmd) = none → s.job (lcJob cmd) = none → lcChip cmd ≠ 0 → cmdDouble cmd 1 = 0 →
    s.readMap cmd.die (cmdAsid cmd) (cmdDouble cmd 7) (lcChip cmd) (lcChips cmd) = (some map, z) → ∃ u : State, exec (.launch cmd) s = .next u ∧
      u = { z with jobs := u.jobs, mem := u.mem, outbox := u.outbox } ∧ u.jobs = z.jobs ++ [{ jobOfCmd cmd 0 0 map with cmd := some cmd }] ∧
      u.outbox = z.outbox ++ [{ chip := 0, msg := .managementMessage (.join (lcJob cmd) (lcChip cmd) (lcChips cmd)) }]) ∧
  (∀ (s : State) (num chip chips : Nat) (j : Job),
    let reply := fun (u : State) (cls features status : Nat) =>
      u.outbox = s.outbox ++ [{ chip := chip, msg := .managementMessage (.answer num cls features status) }]
    (s.job num = none → ∃ u : State, exec (.managementMessage (.join num chip chips)) s = .next u ∧ u = { s with outbox := u.outbox } ∧ reply u 0 0 1) ∧
    (s.job num = some j → j.chip = 0 → j.chips = chips → 0 < chip → chip < chips → (j.joined.filter (· != chip)).length + 2 < chips → ∃ u : State,
      exec (.managementMessage (.join num chip chips)) s = .next u ∧ u = { s with outbox := u.outbox, jobs := u.jobs } ∧ reply u j.cls j.features 0 ∧
      u.job num = some { j with joined := j.joined.filter (· != chip) ++ [chip] })) ∧
  (∀ (s : State) (num cls features status : Nat) (j : Job) (cmd : HostCmd), s.job num = some j → j.cmd = some cmd → CanAnswer s cmd →
    (status ≠ 0 → status < 2 ^ 64 → ∃ u v : State, exec (.managementMessage (.answer num cls features status)) s = .next u ∧ v = { s with jobs := v.jobs } ∧
      v.job num = none ∧ Answered v u cmd status) ∧
    (status = 0 → features &&& s.host.drvfeat = features → ∃ u v : State, exec (.managementMessage (.answer num cls features status)) s = .next u ∧
      v = { s with jobs := v.jobs } ∧ v.job num = some { j with cls := cls, features := features, started := true, cmd := none } ∧ Answered v u cmd 0)) ∧
  (∀ (s : State) (num chip : Nat) (digest hop : Word) (j : Job), s.job num = some j → j.st = .stopped → j.chip ≠ chip → ∃ u : State,
    exec (.managementMessage (.digest num chip digest hop)) s = .next u ∧ u = { s with jobs := u.jobs } ∧
    u.job num = some { j with digests := Tab.put j.digests chip (digest, hop) }) ∧
  (∀ (s : State) (cmd : HostCmd) (j : Job), CanAnswer s cmd → s.jobOf (cmdAsid cmd) = some j → s.job j.num = some j →
    cmd.queue ≠ 64 ∨ cmdOpcode cmd ≠ 0 → cmd.queue ≠ 65 → s.asidOpen cmd → cmdReserved cmd [1] = false → j.chips = 1 → j.chip = 0 →
    (cmdDouble cmd 1 = 1 → j.st ≠ .stopped → ∃ u v : State, exec (.stop cmd) s = .next u ∧ v = { s with cores := v.cores, jobs := v.jobs } ∧
      v.job j.num = some { j with st := .stopped } ∧ Answered v u cmd 0 ∧ ∀ c slot, v.ctx c slot =
        if (s.ctx c slot).asid ∈ j.asids ∧ slot ≠ 63 ∧ (s.ctx c slot).status ≠ .free ∧ (s.ctx c slot).status ≠ .stopped then
          { s.ctx c slot with prior := some (s.ctx c slot).status, status := .stopped }
        else s.ctx c slot) ∧
    (cmdDouble cmd 1 = 0 → ∃ u : State, exec (.stop cmd) s = .next u ∧ u.job j.num = none ∧
      ∀ c slot, (u.ctx c slot).status ≠ .free → (u.ctx c slot).asid ∉ j.asids)) ∧
  (∀ (s : State) (cmd : HostCmd) (j : Job), cmd.queue < 64 → s.jobOf (cmdAsid cmd) = some j → s.job j.num = some j → s.asidOpen cmd →
    cmdReserved cmd [1] = false → cmdDouble cmd 1 = 1 → j.chips = 2 → j.chip < 2 → j.num < 2 ^ 24 → j.asids = [cmdAsid cmd] → ∃ u v : State, exec (.stop cmd) s = .next u ∧
      exec (.managementMessage (.command { cmd with d := [BitVec.ofNat 64 (2 * 2 ^ 56), 1, 0, 0, 0, 0, 0, 0, BitVec.ofNat 64 (256 * j.num + (1 - j.chip))] })) s = .next v ∧
      (u.job j.num).map Job.st = some .stopped ∧ u.host = { s.host with stops := s.host.stops ++ [{ cmd := cmd, job := j.num, chips := [1 - j.chip] }] } ∧
      (∃ c : HostCmd, c.d = (List.range 8).map (fun i => cmd.d.getD i 0) ++ [BitVec.ofNat 64 (256 * j.num + j.chip)] ∧
        u.outbox = s.outbox ++ [{ chip := 1 - j.chip, msg := .managementMessage (.command c) }]) ∧
      (v.job j.num).map Job.st = some .stopped ∧ v.host = s.host ∧
      v.outbox = s.outbox ++ [{ chip := 1 - j.chip, msg := .managementMessage (.stopped j.num j.chip) }]) ∧
  (∀ (s : State) (num chip : Nat) (cmd : HostCmd), CanAnswer s cmd → s.host.stops = [{ cmd := cmd, job := num, chips := [chip] }] → ∃ u : State,
    exec (.managementMessage (.stopped num chip)) s = .next u ∧ Answered { s with host := { s.host with stops := [] } } u cmd 0) ∧
  (∀ (s : State) (cmd : HostCmd), CanAnswer s cmd → cmd.queue ≠ 64 ∨ cmdOpcode cmd ≠ 0 → cmdReserved cmd [1] = false → cmdDouble cmd 1 < 2 →
    s.asidOpen cmd = false ∨ s.jobOf (cmdAsid cmd) = none → ∃ u : State, exec (.stop cmd) s = .next u ∧ Answered s u cmd 2)

/-- 15 R349; 17 R372, R375, R379, R380: HOST_SNAPSHOT asks Yew for a snapshot; HOST_ROLLBACK and HOST_RELEASE act on the finished snapshot of the tag, and answer status 4
without one; ATTEST writes its answer in the host's buffer (the host window: log 37), takes the next leaf of the key, and reserves a run of leaves before its first is used; MIGRATE_OUT takes a
snapshot, and once it has finished stops the job; MIGRATE_IN opens the job stopped, with the snapshot, and the other chips are sent the package's identity digest. Elsewhere the job lies on this package alone. -/
def Obligations.HostCommandsServed : Prop :=
  (∀ (s : State) (cmd : HostCmd) (j : Job) (n : Snap),
    let tag := cmdDouble cmd 1
    CanAnswer s cmd → cmdReserved cmd [1] = false → tag < 2 ^ 32 → s.asidOpen cmd → s.jobOf (cmdAsid cmd) = some j → j.chips = 1 → j.chip = 0 →
    (s.openSnap = some n → n.job = j.num → n.tag = tag → ∃ u : State, exec (.hostSnapshot cmd) s = .next u ∧ Answered s u cmd 0) ∧
    (s.openSnap = some n → n.job ≠ j.num → (s.yew.held.filter fun r => r.job == j.num) = [] → ∃ u : State, exec (.hostSnapshot cmd) s = .next u ∧
      Answered { s with yew := { s.yew with held := s.yew.held ++ [{ job := j.num, tag := tag }] } } u cmd 0) ∧
    (s.openSnap = none → ∃ u : State, exec (.hostSnapshot cmd) s = .next u ∧ Answered (s.openSnapshot j.num tag) u cmd 0) ∧
    (s.finishedAt j.num tag = none → ∃ u v : State, exec (.hostRollback cmd) s = .next u ∧ exec (.hostRelease cmd) s = .next v ∧ Answered s u cmd 4 ∧ Answered s v cmd 4) ∧
    (∀ i, s.finishedAt j.num tag = some i → ∃ u : State, exec (.hostRelease cmd) s = .next u ∧ Answered (s.dropSnap i 3) u cmd 0) ∧
    (∀ t, s.rollback j.num tag = some t → ∃ u : State, exec (.hostRollback cmd) s = .next u ∧ Answered t u cmd 0)) ∧
  (∀ (s : State) (cmd : HostCmd),
    let tag := cmdDouble cmd 1
    CanAnswer s cmd → cmdReserved cmd [1] = false → tag < 2 ^ 32 → s.asidOpen cmd = false → ∃ u v w : State, exec (.hostSnapshot cmd) s = .next u ∧
      exec (.hostRollback cmd) s = .next v ∧ exec (.hostRelease cmd) s = .next w ∧ Answered s u cmd 2 ∧ Answered s v cmd 2 ∧ Answered s w cmd 2) ∧
  (∀ (s : State) (cmd : HostCmd),
    let at_ := cmdDouble cmd 6
    let a := 2 ^ 44 + at_
    let c := ringPlace (s.queue cmd.die cmd.queue).cplCap 16 (s.queue cmd.die cmd.queue).cplTail
    CanAnswer s cmd → cmdReserved cmd [1, 2, 3, 4, 6] = false → cmdAsid cmd = 0 → at_ % 64 = 0 → at_ + 8640 ≤ 2 ^ 44 →
    64 ≤ cmd.queue ∨ c + 16 ≤ a ∨ a + 8640 ≤ c → ∃ u v : State, exec (.attest cmd) s = .next u ∧ Answered v u cmd 0 ∧
      v = { s with mem := v.mem, host := { s.host with leaf := s.host.leaf + 1, leafA := v.host.leafA, leafB := v.host.leafB } } ∧
      (let newest := if s.host.leafB.seq ≤ s.host.leafA.seq then s.host.leafA else s.host.leafB
       let next : LeafCopy := { seq := newest.seq + 1, end_ := s.host.leaf + 1024 }
       (v.host.leafA, v.host.leafB) = if s.host.leaf < newest.end_ then (s.host.leafA, s.host.leafB)
         else if s.host.leafB.seq ≤ s.host.leafA.seq then (s.host.leafA, next) else (next, s.host.leafB)) ∧
      (∀ b, b < a ∨ a + 8640 ≤ b → v.mem.byte b = s.mem.byte b) ∧
      (∀ i < 4, u.mem.read (a + 8 * i) 8 = cmdDouble cmd (i + 1)) ∧ u.mem.read (a + 32) 32 = s.host.imageDigest % 2 ^ 256 ∧ u.mem.read (a + 64) 8 = feat0 ∧ u.mem.read (a + 72) 8 = feat1 ∧
      u.mem.read (a + 80) 16 = 0 ∧ u.mem.read (a + 96) 8 = s.host.fver % 2 ^ 64 ∧ u.mem.read (a + 104) 8 = 8392) ∧
  (∀ (s : State) (cmd : HostCmd) (j : Job) (n : Snap),
    let tag := cmdDouble cmd 1
    CanAnswer s cmd → cmdReserved { cmd with d := cmd.d.take 8 } [1, 7] = false → tag < 2 ^ 32 → s.asidOpen cmd →
    (s.jobOf (cmdAsid cmd) = none → ∃ u : State, exec (.migrateOut cmd) s = .next u ∧ Answered s u cmd 7) ∧
    (s.jobOf (cmdAsid cmd) = some j → cmd.d.length = 8 → s.openSnap = none → ∃ u : State, exec (.migrateOut cmd) s = .next u ∧
      u = { s.openSnapshot j.num tag with timers := u.timers } ∧ (s.now + 64, .migrateOut { cmd with d := cmd.d ++ [1] }) ∈ u.timers) ∧
    (s.jobOf (cmdAsid cmd) = some j → s.job j.num = some j → cmdDouble cmd 8 = 1 → s.yew.held = [] → s.openSnap = none → j.chips = 1 → j.chip = 0 → j.st ≠ .stopped →
      (s.yew.snaps.filter fun e => e.job == j.num && e.tag == tag) = [n] → n.status = 1 → ∃ u v : State, exec (.migrateOut cmd) s = .next u ∧ Answered v u cmd 0 ∧
        v = { s with cores := v.cores, jobs := v.jobs } ∧ v.job j.num = some { j with st := .stopped })) ∧
  (∀ (s : State) (cmd : HostCmd) (cls : Nat),
    let tag := cmdDouble cmd 1
    CanAnswer s cmd → cmdReserved cmd [1, 2, 3, 4, 6, 7] = false → launchBreaks cmd = false → tag < 2 ^ 32 → s.asidOpen cmd →
    (s.jobOf (cmdAsid cmd) ≠ none → ∃ u : State, exec (.migrateIn cmd cls) s = .next u ∧ Answered s u cmd 7) ∧
    (s.jobOf (cmdAsid cmd) = none → s.job (lcJob cmd) = none → ∃ u v : State, exec (.migrateIn cmd cls) s = .next u ∧ Answered v u cmd 0 ∧
      v = { s with jobs := v.jobs, mem := v.mem, yew := v.yew, host := v.host, outbox := v.outbox } ∧
      (∀ c, c < lcChips cmd → c ≠ lcChip cmd → ∃ o ∈ v.outbox, o.chip = c ∧ o.msg = .managementMessage (.digest (lcJob cmd) (lcChip cmd) s.host.identity s.host.identity)) ∧
      v.jobs = s.jobs ++ [{ jobOfCmd cmd cls 0 [] with header := 0, st := .stopped, started := true }] ∧
      v.yew = { s.yew with snaps := s.yew.snaps ++ [{ job := lcJob cmd, tag := tag, status := 1 }] } ∧
      v.host = { s.host with fver := s.host.fver / 2 ^ 32 * 2 ^ 32 + (s.host.fver + 1) % 2 ^ 32 }))

/-- 17 R367, R373, R374, R375; 14 R321: a wake word's store has a mapped queue served in ring order, and records the wake of an unmapped one, which is then paged in;
a command is what its opcode names. A queue is unmapped, repaired and mapped with its indices kept; a capability that does not hold freezes it. A
host request inside a window opened to its function is performed; any other freezes the function, whose requests then complete as unsupported. -/
def Obligations.QueuesServed : Prop :=
  (∀ (s : State) (fn die queue tail : Nat),
    let q := s.queue die queue
    let at_ := ringPlace q.cmdCap 64 q.head
    let cmd : HostCmd := { die := die, queue := queue, d := (List.range 8).map fun i => BitVec.ofNat 64 (s.mem.read (at_ + 8 * i) 8) }
    let woken := s.modQueue die queue fun q => { q with tail := tail, wake := false, head := q.head + 1 }
    (q.fn ≠ fn ∨ (Tab.getD s.host.fns fn {}).frozen → exec (.wakeWordStore fn die queue tail) s = .next s) ∧
    (q.fn = fn → (Tab.getD s.host.fns fn {}).frozen = false → q.frozen = false → q.mapped → q.tail ≤ tail → tail = q.head + 1 → 64 ≤ capLength q.cmdCap →
      s.capOk q q.cmdCap 1 false at_ 64 → s.capOk q q.cplCap 2 true (ringPlace q.cplCap 16 q.cplTail) 16 →
      exec (.wakeWordStore fn die queue tail) s = .next (woken.serveCmd cmd)) ∧
    (q.fn = fn → (Tab.getD s.host.fns fn {}).frozen = false → q.frozen = false → q.mapped → q.head < tail → q.tail ≤ tail → 64 ≤ capLength q.cmdCap →
      s.capOk q q.cmdCap 1 false at_ 64 = false → ∃ u : State, exec (.wakeWordStore fn die queue tail) s = .next u ∧ u = { s with host := u.host } ∧
      u.queue die queue = { q with tail := tail, wake := false, frozen := true } ∧ u.host.signals = s.host.signals ++ [(12, die, queue)]) ∧
    (q.fn = fn → (Tab.getD s.host.fns fn {}).frozen = false → q.frozen = false → q.mapped = false → ∃ u : State,
      exec (.wakeWordStore fn die queue tail) s = .next u ∧ u = { s with host := u.host, net := u.net } ∧
      u.queue die queue = { q with tail := max q.tail tail, wake := true } ∧ .queuePageIn die queue ∈ u.net)) ∧
  (∀ (s : State) (cmd : HostCmd),
    (cmdOpcode cmd = 1 → exec (.launch cmd) s = .next (s.serveCmd cmd)) ∧ (cmdOpcode cmd = 2 → exec (.stop cmd) s = .next (s.serveCmd cmd)) ∧
    (cmdOpcode cmd = 3 → exec (.hostSnapshot cmd) s = .next (s.serveCmd cmd)) ∧ (cmdOpcode cmd = 4 → exec (.hostRollback cmd) s = .next (s.serveCmd cmd)) ∧
    (cmdOpcode cmd = 5 → exec (.hostRelease cmd) s = .next (s.serveCmd cmd)) ∧ (cmdOpcode cmd = 6 → exec (.attest cmd) s = .next (s.serveCmd cmd)) ∧
    (cmdOpcode cmd = 7 → exec (.migrateOut cmd) s = .next (s.serveCmd cmd)) ∧
    (cmdOpcode cmd = 0 ∨ 8 < cmdOpcode cmd → CanAnswer s cmd → Answered s (s.serveCmd cmd) cmd 1)) ∧
  (∀ (s : State) (die queue : Nat),
    let q := s.queue die queue
    let save := fun (write : Bool) => s.capOk q q.saveCap 3 write (capBase q.saveCap) 1
    let set := fun (u : State) (q' : HQueue) => u = { s with host := u.host } ∧ u.host = { s.host with queues := u.host.queues } ∧ u.queue die queue = q'
    (q.mapped = false → q.frozen = false → q.wake = false → save false → ∃ u : State, exec (.queuePageIn die queue) s = .next u ∧ set u { q with mapped := true }) ∧
    (q.mapped = false → q.frozen = false → save false = false → ∃ u : State, exec (.queuePageIn die queue) s = .next u ∧
      u.queue die queue = { q with frozen := true } ∧ u.host.signals = s.host.signals ++ [(12, die, queue)]) ∧
    (q.mapped → q.frozen = false → save true → ∃ u : State, exec (.queueUnmap die queue) s = .next u ∧ set u { q with mapped := false }) ∧
    (q.frozen → q.mapped → q.tail ≤ q.head → ∃ u : State, exec (.queueRepair die queue) s = .next u ∧
      let fresh := fun (cap type : Nat) => s.seal (capWithGen cap (Tab.getD q.gens type 0))
      set u { q with frozen := false, cmdCap := fresh q.cmdCap 1, cplCap := fresh q.cplCap 2, saveCap := fresh q.saveCap 3, wake := false })) ∧
  (∀ (s : State) (fn addr bytes : Nat) (write : Option Nat),
    let f := Tab.getD s.host.fns fn {}
    let inside := ∃ w ∈ f.windows, w.1 ≤ addr ∧ addr + bytes ≤ w.1 + w.2
    (f.frozen → exec (.hostBar2Request fn addr bytes write) s = .next { s with host := { s.host with bar2 := s.host.bar2 ++ [(fn, addr, none)] } }) ∧
    (f.frozen = false → ¬ inside → ∃ u : State, exec (.hostBar2Request fn addr bytes write) s = .next u ∧ u = { s with host := u.host } ∧
      Tab.getD u.host.fns fn {} = { f with frozen := true } ∧ u.host.bar2 = s.host.bar2 ++ [(fn, addr, none)] ∧
      u.host.signals = s.host.signals ++ [(13, fn, addr)]) ∧
    (f.frozen = false → inside → addr % 128 + bytes ≤ 128 → write = none → exec (.hostBar2Request fn addr bytes write) s =
      .next { s with host := { s.host with bar2 := s.host.bar2 ++ [(fn, addr, some (s.mem.read addr bytes))] } }) ∧
    (∀ v, f.frozen = false → inside → addr % 128 + bytes ≤ 128 → 1 ≤ bytes → write = some v → s.AtHome (addr / 128) → s.openSnap = none → (∀ d ∈ s.dies, d.2.joiners = []) → s.mem.wf → ∃ u : State,
      exec (.hostBar2Request fn addr bytes write) s = .next u ∧ Stores s u addr bytes v ∧ u.host.bar2 = s.host.bar2 ++ [(fn, addr, some v)]))

/-- 05 R109; 14 R333; 17 R367, R377, R378, R379, R381, R382, R384; 04 R83: a function-level reset thaws its function and, of the physical function, clears DRVFEAT; DRVFEAT takes
only bits that FEAT0 offers; a firmware update needs every job stopped and raises the change count; heat slows a die's clock, restores it or
stops the die and ends every job; the watchdog leaves every committed configuration in force; package reset leaves the reset state but for far and
host memory, with a new sealing key, or the package halted when the boot failed or its image is not valid; the identity key goes on from the
newest good copy of its leaf, or is enrolled anew. -/
def Obligations.PackageGoverned : Prop :=
  (∀ (s : State) (fn : Nat), ∃ u : State, exec (.functionLevelReset fn) s = .next u ∧ u = { s with host := u.host } ∧
    u.host = { s.host with fns := u.host.fns, drvfeat := if fn = 0 then 0 else s.host.drvfeat } ∧
    ∀ n, Tab.getD u.host.fns n {} = if n = fn then { Tab.getD s.host.fns fn {} with frozen := false } else Tab.getD s.host.fns n {}) ∧
  (∀ (s : State) (v : Word), exec (.drvfeat v) s = .next
    (if v.toNat &&& (feat0 % 1024) = v.toNat then { s with host := { s.host with drvfeat := v.toNat } } else s)) ∧
  (∀ (s : State) (n : Nat),
    ((∃ j ∈ s.jobs, j.st = .running) → exec (.firmwareUpdate n) s = .next s) ∧
    ((∀ j ∈ s.jobs, j.st ≠ .running) → exec (.firmwareUpdate n) s = .next
      { s with host := { s.host with fver := n % 2 ^ 32 * 2 ^ 32 + (s.host.fver + 1) % 2 ^ 32 } })) ∧
  (∀ (s : State) (die : Nat), ∃ u v w : State,
    exec (.thermalThrottle die) s = .next u ∧ u = { s with dies := u.dies } ∧ (∀ e, e ≠ die → u.die e = s.die e) ∧
    u.die die = { s.die die with clockDown := (s.die die).clockDown + 1 } ∧
    exec (.thermalRestore die) s = .next v ∧ v = { s with dies := v.dies } ∧ (∀ e, e ≠ die → v.die e = s.die e) ∧
    v.die die = { s.die die with clockDown := 0 } ∧
    exec (.thermalStop die) s = .next w ∧ (w.die die).stopped ∧ ∀ j ∈ w.jobs, j.st = .ended) ∧
  (∀ (s : State) (die : Nat), exec (.watchdogFires die) s = .next { s with host := { s.host with signals := s.host.signals ++ [(14, die, 0)] } }) ∧
  (∀ (s : State) (step : Nat) (img : BootImage),
    let valid := Config.shake256 img.rootKey = Config.romDigest ∧
      (img.owner = none → Config.verifies img.rootKey (bootMessage img) img.signature) ∧
      (∀ key cert, img.owner = some (key, cert) → Config.verifies img.rootKey key cert ∧ Config.verifies key (bootMessage img) img.signature)
    let a := s.host.leafA
    let b := s.host.leafB
    let base : Hostside := if s.host.helper ∧ (a.good ∨ b.good) then
        { keyDraw := s.host.keyDraw + 1, leaf := if a.good ∧ (b.good = false ∨ b.seq ≤ a.seq) then a.end_ else b.end_, leafA := a, leafB := b,
          enrolled := s.host.enrolled }
      else { keyDraw := s.host.keyDraw + 1, enrolled := s.host.enrolled + 1 }
    ∃ u v : State,
    exec (.packageReset (.fetched img)) s = .next u ∧ exec (.packageReset (.failed step)) s = .next v ∧
    u = { State.reset with mem := u.mem, poison := u.poison, host := u.host, free := s.free, script := s.script, outbox := s.outbox } ∧
    v = { u with host := v.host } ∧
    (∀ a, u.mem.byte a = if 2 ^ 43 ≤ a ∧ a < 2 ^ 48 then s.mem.byte a else 0) ∧
    (valid → u.host = { base with bootstat := 2 ^ 63, fver := img.ozine % 2 ^ 32 * 2 ^ 32, cxl := img.cxlMode, image := some img }) ∧
    (¬ valid → u.host = { base with bootstat := 3, halted := true }) ∧ v.host = { base with bootstat := step, halted := true })

/-! ### Reading operands, markers, redundant pairs (03, 07, 08) -/

/-- 03 R56, R61 to R63, R65 to R67; 07 R155; 12 R292: what each source operand gives: a register with no outstanding result its value, one before its marker the
old or the new value (a free choice: log 5), k within 8 cycles of its write the old or the new, 0xFF and q7 zero; a pop the queue's oldest entry, once, at
its time. An instruction whose pop finds nothing waits for an entry, or leaves its result outstanding where its pop is deferred.
07 R154, R155; 09 R214: a marked word parks its thread until every outstanding result has returned, and a marker that finds all of them returned leaves none
outstanding and the thread ready. -/
def Obligations.OperandsRead : Prop :=
   ((∀ (s : State) (c slot pos : Nat), s.iss.view = none → Tab.get? (s.ctx c slot).latch pos = none →
      let k := s.core c
      let x := s.ctx c slot
      (∀ n, x.pendFor (.g n.val) = none → ∃ t : State, s.readOp c slot pos (.g n) = .val (Tab.getD k.file (x.win.mainBase + n.val) 0) t ∧ t = s) ∧
      (∀ n p, x.pendFor (.g n.val) = some p → ∃ (v : Word) (t : State), s.readOp c slot pos (.g n) = .val v t ∧ ReadFrame c slot s t ∧
        (v = Tab.getD k.file (x.win.mainBase + n.val) 0 ∨ v = BitVec.ofNat 64 (p.alt.getD 0))) ∧
      (∀ n, x.pendFor (.h n.val) = none → s.readOp c slot pos (.h n) = .val (Tab.getD x.h n.val 0) s) ∧
      s.readOp c slot pos .lc = .val x.lc s ∧ s.readOp c slot pos .la = .val x.la s ∧ s.readOp c slot pos .zero = .val 0 s ∧
      s.readOp c slot pos (.q 7) = .val 0 s ∧
      (∀ n, x.pendFor (.k n.val) = none → (∀ r ∈ k.regs.kOld, r.n = n.val → r.at_ + 8 ≤ s.now) →
        s.readOp c slot pos (.k n) = .val (Tab.getD k.regs.k n.val 0) s) ∧
      (∀ n r, x.pendFor (.k n.val) = none → k.regs.kOld.filter (fun e => e.n == n.val) = [r] → s.now < r.at_ + 8 → ∃ (v : Word) (t : State),
        s.readOp c slot pos (.k n) = .val v t ∧ ReadFrame c slot s t ∧ (v = r.old ∨ v = Tab.getD k.regs.k n.val 0)) ∧
      (∀ n, x.pendFor (.k n.val) = none → ∃ (v : Word) (t : State), s.readOp c slot pos (.k n) = .val v t ∧ ReadFrame c slot s t ∧
        (v = Tab.getD k.regs.k n.val 0 ∨ ∃ r ∈ k.regs.kOld, r.n = n.val ∧ s.now < r.at_ + 8 ∧ v = r.old)) ∧
      (∀ n, n.val ≠ 7 → k.q.ready n.val slot = false → s.readOp c slot pos (.q n) = .wait n.val) ∧
      (∀ n e rest, n.val = 1 ∨ n.val = 4 ∨ n.val = 5 → k.q.ready n.val slot → k.q.entries n.val = e :: rest → ∃ t : State,
        s.readOp c slot pos (.q n) = .val e.1 t ∧ ReadFrame c slot s t ∧ (t.core c).q.entries n.val = rest ∧
        (∀ m, m ≠ n.val → (t.core c).q.entries m = k.q.entries m) ∧ Tab.get? (t.ctx c slot).latch pos = some e.1 ∧
        Observes { x with latch := (t.ctx c slot).latch } (t.ctx c slot) e.2)) ∧
    (∀ (i : Instr) (s u : State) (q : Nat), s.me.status = .ready → s.me.phase ≠ 3 → earlyFault s s.iss.core s.iss.slot i s.iss.word = none →
      s.readOps s.iss.core s.iss.slot 0 (sources i) = .error (q, u) → encode i ≠ none →
      (defers i = false → Waits i s s (.entry q)) ∧
      (defers i → 8 ≤ s.me.unreturned → Waits i s s .limit) ∧
      (∀ n, defers i → s.me.unreturned < 8 → sources i = [.q n] → ∃ (v : State) (p : Pending), Ends i s v ∧ OnlyCore s.iss.core s v ∧
        v.me = { s.me with out := s.me.out ++ [p] }.complete s.nextPlace ∧ (∀ o ∈ s.me.out, o.seq < p.seq) ∧ p.kind = .pop ∧ p.pop = some i ∧
        p.dest = (match destination i with | some d => destOf d | none => .discard) ∧ p.returned = false ∧ p.alt = none ∧
        (∀ j, j ≠ s.iss.slot → v.ctx s.iss.core j = s.ctx s.iss.core j) ∧
        v.core s.iss.core = { s.core s.iss.core with ctxs := (v.core s.iss.core).ctxs, q := (v.core s.iss.core).q } ∧
        (v.core s.iss.core).q = { (s.core s.iss.core).q with waiters := (s.core s.iss.core).q.waiters ++ [(n.val, s.iss.slot, p.seq)] }))) ∧
   (∀ (s : State), Issues s .nop [] s →
      (s.iss.mark = false → ∃ u : State, exec .nop s = .next { u with iss := { s.iss with res := 1 } } ∧ Moved s u s.nextPlace) ∧
      (s.iss.mark → ¬ Returned s → ∃ u : State, exec .nop s = .next { u with iss := { s.iss with res := 1 } } ∧ OnlyCtx s.iss.core s.iss.slot s u ∧
        u.me = { s.me.complete s.nextPlace with status := .parked .marker }) ∧
      (s.iss.mark → Returned s → (∀ p ∈ s.me.out, p.clash = false) → ∃ u : State, exec .nop s = .next { u with iss := { s.iss with res := 1 } } ∧
        OnlyCtx s.iss.core s.iss.slot s u ∧ u.me = { s.me.complete s.nextPlace with out := [] }) ∧
      (∀ p d, s.iss.mark → Returned s → s.me.out = [p] → p.clash → p.alt = some d → p.dest = .h 0 → ∃ u : State,
        exec .nop s = .next { u with iss := { s.iss with res := 1 } } ∧ u.me.out = [] ∧
        (Tab.getD u.me.h 0 0 = Tab.getD s.me.h 0 0 ∨ Tab.getD u.me.h 0 0 = BitVec.ofNat 64 d)))

/-- 08 R199; 09 R225; 14 R326: of a redundant pair, the first context to reach an instruction that takes effect once waits for the other, unequal source values
never let it complete, and an equal pair performs it once and both go on; the trailing context takes a load's value from the leading one's queue, for
which it waits while it is empty, and a full queue makes the leader wait. -/
def Obligations.PairsActOnce : Prop :=
  ∀ (i : Instr) (s t : State) (vals : List Word) (p : Nat), s.me.status = .ready → s.me.phase ≠ 3 → earlyFault s s.iss.core s.iss.slot i s.iss.word = none →
    s.readOps s.iss.core s.iss.slot 0 (sources i) = .ok (vals, t) → t.me.pair = some p → p ≠ s.iss.slot → encode i ≠ none →
    let c := s.iss.core
    let all := vals ++ s.extraVals c s.iss.slot i
    (pairOnce i → pairLoad i = false → (t.ctx c p).posted = none → ∃ u : State, Waits i s u .partner ∧ OnlyCtx c s.iss.slot t u ∧
      u.me = { t.me with posted := some (i, all) }) ∧
    (∀ o, pairOnce i → pairLoad i = false → (t.ctx c p).posted = some o → o ≠ (i, all) → ∀ w, ¬ Ends i s w) ∧
    (∀ b, i = .bfclr b → (t.ctx c p).posted = some (i, all) → s.iss.mark = false → (t.ctx c p).status = .parked .partner →
      (t.ctx c p).out = [] → (t.ctx c p).pipe = [] → t.me.out = [] →
      b ≠ 0 → ∃ u : State, exec i s = .next u ∧ u.me = t.me.complete s.nextPlace ∧
      (u.ctx c p).status = .ready ∧ (u.ctx c p).pc = (t.ctx c p).pc.next s.iss.place ∧ (u.ctx c p).posted = none ∧
      (∀ j, j ≠ s.iss.slot → j ≠ p → u.ctx c j = t.ctx c j)) ∧
    (pairLoad i → t.me.tstat.testBit 2 → (t.ctx c p).loadq = [] → Waits i s t .partner) ∧
    (pairLoad i → t.me.tstat.testBit 2 = false → (t.ctx c p).pipe ≠ [] → Waits i s t .performed) ∧
    (pairLoad i → t.me.tstat.testBit 2 = false → (t.ctx c p).pipe = [] → 64 ≤ t.me.loadq.length → Waits i s t .partner) ∧
    (∀ e v rest, pairLoad i → t.me.tstat.testBit 2 → (t.ctx c p).loadq = (i, all, e, some v) :: rest → t.me.unreturned < 8 → ∃ u : State,
      exec i s = .next u ∧ (u.ctx c p).loadq = rest ∧ u.me.pc = s.nextPlace) ∧
    (∀ e v o rest, pairLoad i → t.me.tstat.testBit 2 → (t.ctx c p).loadq = (o, v, e) :: rest → o ≠ i ∨ v ≠ all → Faults i s fcMismatch 0 false)

/-! ### Encodings (07) -/

/-- 07 R150, R157 to R170: the word that an instruction has, laid in its bytes with any L and S bits, decodes to that instruction with every
operand, as the table's decoder does. -/
def Obligations.EncodedWordsDecode : Prop :=
  ∀ (i : Instr) (w : Nat), encode i = some w → w < 2 ^ 30 ∧ decodeTableWord 32 w = some i ∧
    ∀ (l m : Bool) (rest : List (BitVec 8)), decodeBytes (bytesOfWord (l.toNat * 2 ^ 31 + m.toNat * 2 ^ 30 + w) ++ rest) = .ok (i, rest)

/-- 07 R157 to R170: a word that decodes is the word of the instruction that it decodes to, so that no bit of it is left unread; a word of an unassigned major, or with a
reserved field that is not zero, decodes to nothing. -/
def Obligations.WordsHaveOneMeaning : Prop :=
  (∀ (w : Nat) (i : Instr), w < 2 ^ 30 → decode w = .ok i → encode i = some w) ∧
  (∀ (w : Nat), 0x18 ≤ w / 2 ^ 24 % 64 → w / 2 ^ 24 % 64 ≤ 0x1F → ∃ e, decode w = .error e) ∧
  (∀ (w : Nat), w / 2 ^ 24 % 64 = 0x01 → w / 2 ^ 9 % 8 ≠ 0 → ∃ e, decode w = .error e) ∧
  (∀ (w : Nat), w / 2 ^ 24 % 64 = 0x17 → w / 2 ^ 8 % 32 ≠ 0 → ∃ e, decode w = .error e) ∧
  (∀ (w : Nat), w / 2 ^ 24 % 64 = 0x3F → w / 2 ^ 8 % 8 ≠ 0 → ∃ e, decode w = .error e)

/-- 07 R151: the kind of a bundle follows from word 0's L bit: 0 is a pair of a C-class word and an A-class word whose L and S are 0, 1 is two lone words whose L is 1;
any other is broken.
07 (the worked lines after R171): words written out in the spec decode to the lines that they stand for. -/
def Obligations.SpecWordsDecode : Prop :=
   (∀ (w0 w1 : Nat), w0 < 2 ^ 32 → w1 < 2 ^ 32 →
      let b := w1 * 2 ^ 32 + w0
      (w0 / 2 ^ 31 = 1 → w1 / 2 ^ 31 = 1 → decodeBundle b = .lone w0 w1) ∧
      (w0 / 2 ^ 31 = 1 → w1 / 2 ^ 31 = 0 → decodeBundle b = .broken w1) ∧
      (w0 / 2 ^ 31 = 0 → w0.testBit 29 = false → w1.testBit 29 → w1 / 2 ^ 30 = 0 → decodeBundle b = .paired w0 w1) ∧
      (w0 / 2 ^ 31 = 0 → w0.testBit 29 ∨ w1.testBit 29 = false ∨ w1 / 2 ^ 30 ≠ 0 → ∃ w, decodeBundle b = .broken w)) ∧
   (decode 0x49040E09 = .ok (.ldeN (.g 4) 3 2 (.g 9)) ∧ decode 0x20020281 = .ok (.add (.g 2) (.g 2) (.h 1)) ∧
    decode 0xB003FFFE = .ok (.li (.g 3) 0xFFFE) ∧ decode 0xC1032011 = .ok (.bnez (.g 3) 17) ∧ decode 0xB58C9843 = .ok (.vfma .f32 1 6 2 3) ∧
    decode 0x80000000 = .ok .nop ∧ decodeBundle 0x2002028149040E09 = .paired 0x49040E09 0x20020281 ∧
    decodeBundle 0xC1032011B003FFFE = .lone 0xB003FFFE 0xC1032011 ∧ decodeBundle 0 = .broken 0)

/-! ### The step (07, 13) -/

/-- 07 R151 to R153; 02 R32; 13 R312: when the context that issues next is ready and stands at a word of a lone bundle that decodes to i, the step is exec of i there, with the
barrel's record of the turn before it, and after it what its rings and directories leave in DRAM, the hints of free contexts and the cycle; a word that is no instruction, and a place past its block, freeze the thread;
the two words of a paired bundle act in order, the sources read before either writes, and a fault of word 0 comes first. A message in flight is
its own step. Whose turn it is, is the model's choice (logs 4, 10). -/
def Obligations.StepRunsTheDecodedInstruction : Prop :=
  (∀ (s z : State) (c slot : Nat) (p : Placed) (b : Nat),
    let x := s.ctx c slot
    s.host.halted = false →
    (s.script = [] ∧ s.now % 2 = 0 ∧ s.nextContext = some (c, slot) ∧ z = s.spend c slot ∨
      ∃ rest, s.script = .issue c slot :: rest ∧ s.mayIssue c slot x ∧ z = ({ s with script := rest } : State).spend c slot) →
    x.status = .ready → x.gang = [] → x.pair = none → x.swapped = false → (s.core c).placedBlock x.asid x.pc.blk = some p →
    let ends := fun (o : Host.Outcome State Fault Refusal) => match o with | .next t => Host.Outcome.next (s.endStep t) | o => o
    (p.count ≤ x.pc.off → step s = ends (exec (.entryFaultAtFetch c slot) z)) ∧
    (x.pc.off < p.count → s.bundle c p x.pc.off = b → Tab.get? s.poison (istoreAt c (p.addr + 8 * x.pc.off) / 8) = none →
      (∀ w0 w1 i, decodeBundle b = .lone w0 w1 → x.pc.word = 0 → decode w0 = .ok i →
        step s = ends (exec i { z with iss := { core := c, slot := slot, place := .lone0, mark := w0.testBit 30, word := w0, view := none } })) ∧
      (∀ w0 w1 i, decodeBundle b = .lone w0 w1 → x.pc.word = 1 → decode w1 = .ok i →
        step s = ends (exec i { z with iss := { core := c, slot := slot, place := .lone1, mark := w1.testBit 30, word := w1, view := none } })) ∧
      (∀ w0 w1 e, decodeBundle b = .lone w0 w1 → x.pc.word = 0 → decode w0 = .error e → step s = ends (exec (.illegalEncoding c slot w0) z)) ∧
      (∀ w, decodeBundle b = .broken w → step s = ends (exec (.illegalEncoding c slot w) z)) ∧
      (∀ w0 w1 e, decodeBundle b = .paired w0 w1 → decode w0 = .error e → step s = ends (exec (.illegalEncoding c slot w0) z)) ∧
      (∀ w0 w1 i0 i1 e0 e1 t u, decodeBundle b = .paired w0 w1 → decode w0 = .ok i0 → decode w1 = .ok i1 → x.w1done = false →
        let k := z.core c
        let at0 : Bool → Issue := fun m => { core := c, slot := slot, place := .first, mark := m, word := w0, view := some k }
        let at1 : Bool → Issue := fun m => { core := c, slot := slot, place := .second, mark := m, word := w1, view := some k }
        let swapped := fun (t : State) => t.modCtx c slot Ctx.swap
        exec i0 { z with iss := at0 false } = .next e0 → exec i1 { swapped z with iss := at1 false } = .next e1 →
        (e0.iss.res % 4 = 3 → e1.iss.res % 4 ≠ 3 → step s = ends (.next e0)) ∧
        (e0.iss.res % 4 ≠ 3 → e1.iss.res % 4 = 3 → step s = ends (.next e1)) ∧
        (e0.iss.res = 1 → e1.iss.res = 1 → late i0 = false → t = e0 →
          exec i1 { t.modCtx c slot fun y => y.again (z.ctx c slot) true with iss := at1 (w0.testBit 30) } = .next u → u.iss.res = 1 → step s = ends (.next u))))) ∧
  (∀ (s : State) (i : Instr) (rest : List Instr), s.host.halted = false → s.script = [] → s.now % 2 = 1 → s.timers = [] → s.net = i :: rest →
    step s = (match exec i { s with net := rest } with | .next t => .next (s.endStep t) | o => o)) ∧
  (∀ (s t : State), s.endStep t = { s.hints (s.mirror t) with now := t.now + 1, iss := {} } ∧
    ((∀ c, t.core c = s.core c) → (∀ d, t.die d = s.die d) → (s.endStep t).mem = t.mem ∧ (s.endStep t).net = t.net)) ∧
  (∀ (s : State), s.host.halted → s.script = [] → step s = .fault .halted)

/-! ### Reset and memory (01, 03, 04, 05) -/

/-- 01 R24; 02 R44; 03 R54, R58, R59, R63, R70, R72, R75, R79, R80; 04 R81, R83; 05 R110, R120, R124, R126, R128, R129; 17 R381: what package reset leaves, where the spec says it. -/
def Obligations.ResetLeaves : Prop :=
  let s := State.reset
  (∀ c slot, (s.ctx c slot).status = .free) ∧
  (∀ c, let k := s.core c
    (∀ e, Tab.getD k.file e 0 = 0 ∧ e ∉ k.empty ∧ e ∉ k.badMain) ∧ (∀ e, Tab.getD k.vfile e 0 = 0 ∧ e ∉ k.badVec) ∧
    (∀ n, Tab.getD k.regs.k n 0 = 0) ∧ (∀ n, (Tab.getD k.regs.w n {}).valid = false) ∧ (∀ n, n ≠ 0 → (k.buf n).valid = false) ∧
    k.csr.lsplit = 2 ∧ k.csr.vgroup = 0 ∧ k.csr.dbgctl = 0 ∧ k.csr.shasid = 0 ∧ s.cycle c = 0 ∧ (∀ n, Tab.getD k.units.cpdone n 0 = 0 ∧ Tab.getD k.units.nextId n 0 = 0) ∧
    k.q = {} ∧ k.work.deque = [] ∧ k.work.spill.all = [] ∧ k.work.gathers = [] ∧ k.work.map = [] ∧ k.cache = [] ∧ k.tlb = []) ∧
  (∀ h, (s.hedge h).mecheck = 64 ∧ (s.hedge h).checks = 0 ∧ ∀ t, (s.hedge h).tile t = {}) ∧
  (∀ d, (s.die d).sparefree = 32 ∧ (s.die d).blocks = [] ∧ (s.die d).hold = [] ∧ (s.die d).overflow.capacity = 4096 ∧ (s.die d).joiners = []) ∧
  (∀ id, (s.rename id).st = 0 ∧ (s.rename id).phys = coreOf id) ∧ (∀ a, a < 2 ^ 39 ∨ 2 ^ 48 ≤ a → s.mem.byte a = 0) ∧ s.host.drvfeat = 0

/-- The form of memory that makes equal memories equal data (the model's own: log 2), addresses strictly rising and no zero byte listed: it holds at reset, and a write of
any number of bytes keeps it, gives those bytes and touches no other. -/
def Obligations.MemoryCanonical : Prop :=
  State.reset.mem.wf ∧ ∀ (m : Memory) (a n v : Nat), m.wf → (m.write a n v).wf ∧
    ∀ b, (m.write a n v).byte b = if a ≤ b ∧ b < a + n then BitVec.ofNat 8 (v / 256 ^ (b - a)) else m.byte b

/-- Every step keeps the memory's canonical form (the model's own: log 2). -/
def Obligations.StepsKeepMemoryCanonical : Prop :=
  ∀ s s' : State, s.mem.wf → step s = .next s' → s'.mem.wf
end

