-- ==== Sys2Proof/Laws/Tab.lean ====
section
/-! SUPPORT. Reading a table after it has been changed. -/

namespace Sys2Proof

variable {α : Type}

theorem Tab.get?_put (t : Tab α) (k j : Nat) (v : α) :
    Tab.get? (Tab.put t k v) j = if j = k then some v else Tab.get? t j := by
  induction t with
  | nil =>
    by_cases h : j = k
    · simp [Tab.put, Tab.get?, h]
    · simp [Tab.put, Tab.get?, h, Ne.symm h]
  | cons e t ih =>
    simp only [Tab.put]
    split
    · by_cases h : j = k
      · simp [Tab.get?, h]
      · simp [Tab.get?, h, Ne.symm h]
    · split
      · rename_i h1 h2
        have hk : k = e.1 := by simpa using h2
        by_cases h : j = k
        · simp [Tab.get?, h]
        · have : e.1 ≠ j := fun he => h (by omega)
          simp [Tab.get?, h, Ne.symm h, this]
      · rename_i h1 h2
        have hk : ¬ k = e.1 := by simpa using h2
        by_cases he : e.1 = j
        · have : ¬ j = k := fun hj => hk (by omega)
          simp [Tab.get?, he, this]
        · have hb : (e.1 == j) = false := by simpa using he
          simp only [Tab.get?, List.find?_cons, hb] at ih ⊢
          exact ih

@[simp] theorem Tab.get?_put_self (t : Tab α) (k : Nat) (v : α) : Tab.get? (Tab.put t k v) k = some v := by
  simp [Tab.get?_put]

theorem Tab.get?_put_ne (t : Tab α) {k j : Nat} (v : α) (h : j ≠ k) : Tab.get? (Tab.put t k v) j = Tab.get? t j := by
  simp [Tab.get?_put, h]

@[simp] theorem Tab.getD_put_self (t : Tab α) (k : Nat) (v d : α) : Tab.getD (Tab.put t k v) k d = v := by
  simp [Tab.getD]

theorem Tab.getD_put_ne (t : Tab α) {k j : Nat} (v d : α) (h : j ≠ k) :
    Tab.getD (Tab.put t k v) j d = Tab.getD t j d := by
  simp [Tab.getD, Tab.get?_put, h]

theorem Tab.get?_del (t : Tab α) (k j : Nat) : Tab.get? (Tab.del t k) j = if j = k then none else Tab.get? t j := by
  induction t with
  | nil => simp [Tab.del, Tab.get?]
  | cons e t ih =>
    simp only [Tab.get?, Tab.del] at ih ⊢
    by_cases he : e.1 = k
    · by_cases hj : j = k
      · simp [hj]
      · have : ¬ k = j := fun h => hj h.symm
        simpa [List.filter_cons, List.find?_cons, he, hj, this] using ih
    · by_cases hj : e.1 = j
      · have : ¬ j = k := fun h => he (by omega)
        simp [hj, this]
      · simpa [List.filter_cons, List.find?_cons, he, hj] using ih

theorem Tab.getD_set [DecidableEq α] (t : Tab α) (k j : Nat) (v d : α) :
    Tab.getD (Tab.set t k v d) j d = if j = k then v else Tab.getD t j d := by
  by_cases hv : v = d
  · by_cases hj : j = k
    · simp [Tab.set, Tab.getD, Tab.get?_del, hv, hj]
    · simp [Tab.set, Tab.getD, Tab.get?_del, hv, hj]
  · by_cases hj : j = k
    · simp [Tab.set, Tab.getD, hv, hj]
    · simp [Tab.set, Tab.getD, Tab.get?_put, hv, hj]

@[simp] theorem Tab.getD_set_self [DecidableEq α] (t : Tab α) (k : Nat) (v d : α) :
    Tab.getD (Tab.set t k v d) k d = v := by
  simp [Tab.getD_set]

theorem Tab.getD_set_ne [DecidableEq α] (t : Tab α) {k j : Nat} (v d : α) (h : j ≠ k) :
    Tab.getD (Tab.set t k v d) j d = Tab.getD t j d := by
  simp [Tab.getD_set, h]

end Sys2Proof
end

