-- ==== Sys2Proof/Laws/State.lean ====
section
/-! SUPPORT. Reading the state after one of its updates: a lemma for each field that the update leaves, and for each part that it
writes. -/

namespace Sys2Proof.Machine

/-! ### State.setCore -/

@[simp] theorem State.now_setCore (s : State) (c : Nat) (k : Core) : (s.setCore c k).now = s.now := rfl
@[simp] theorem State.mem_setCore (s : State) (c : Nat) (k : Core) : (s.setCore c k).mem = s.mem := rfl
@[simp] theorem State.poison_setCore (s : State) (c : Nat) (k : Core) : (s.setCore c k).poison = s.poison := rfl
@[simp] theorem State.pins_setCore (s : State) (c : Nat) (k : Core) : (s.setCore c k).pins = s.pins := rfl
@[simp] theorem State.sramT_setCore (s : State) (c : Nat) (k : Core) : (s.setCore c k).sramT = s.sramT := rfl
@[simp] theorem State.homes_setCore (s : State) (c : Nat) (k : Core) : (s.setCore c k).homes = s.homes := rfl
@[simp] theorem State.hedges_setCore (s : State) (c : Nat) (k : Core) : (s.setCore c k).hedges = s.hedges := rfl
@[simp] theorem State.dies_setCore (s : State) (c : Nat) (k : Core) : (s.setCore c k).dies = s.dies := rfl
@[simp] theorem State.jobs_setCore (s : State) (c : Nat) (k : Core) : (s.setCore c k).jobs = s.jobs := rfl
@[simp] theorem State.yew_setCore (s : State) (c : Nat) (k : Core) : (s.setCore c k).yew = s.yew := rfl
@[simp] theorem State.host_setCore (s : State) (c : Nat) (k : Core) : (s.setCore c k).host = s.host := rfl
@[simp] theorem State.net_setCore (s : State) (c : Nat) (k : Core) : (s.setCore c k).net = s.net := rfl
@[simp] theorem State.timers_setCore (s : State) (c : Nat) (k : Core) : (s.setCore c k).timers = s.timers := rfl
@[simp] theorem State.script_setCore (s : State) (c : Nat) (k : Core) : (s.setCore c k).script = s.script := rfl
@[simp] theorem State.outbox_setCore (s : State) (c : Nat) (k : Core) : (s.setCore c k).outbox = s.outbox := rfl
@[simp] theorem State.iss_setCore (s : State) (c : Nat) (k : Core) : (s.setCore c k).iss = s.iss := rfl
@[simp] theorem State.free_setCore (s : State) (c : Nat) (k : Core) : (s.setCore c k).free = s.free := rfl
@[simp] theorem State.lastCore_setCore (s : State) (c : Nat) (k : Core) : (s.setCore c k).lastCore = s.lastCore := rfl

/-! ### State.modCore -/

@[simp] theorem State.now_modCore (s : State) (c : Nat) (f : Core → Core) : (s.modCore c f).now = s.now := rfl
@[simp] theorem State.mem_modCore (s : State) (c : Nat) (f : Core → Core) : (s.modCore c f).mem = s.mem := rfl
@[simp] theorem State.poison_modCore (s : State) (c : Nat) (f : Core → Core) : (s.modCore c f).poison = s.poison := rfl
@[simp] theorem State.pins_modCore (s : State) (c : Nat) (f : Core → Core) : (s.modCore c f).pins = s.pins := rfl
@[simp] theorem State.sramT_modCore (s : State) (c : Nat) (f : Core → Core) : (s.modCore c f).sramT = s.sramT := rfl
@[simp] theorem State.homes_modCore (s : State) (c : Nat) (f : Core → Core) : (s.modCore c f).homes = s.homes := rfl
@[simp] theorem State.hedges_modCore (s : State) (c : Nat) (f : Core → Core) : (s.modCore c f).hedges = s.hedges := rfl
@[simp] theorem State.dies_modCore (s : State) (c : Nat) (f : Core → Core) : (s.modCore c f).dies = s.dies := rfl
@[simp] theorem State.jobs_modCore (s : State) (c : Nat) (f : Core → Core) : (s.modCore c f).jobs = s.jobs := rfl
@[simp] theorem State.yew_modCore (s : State) (c : Nat) (f : Core → Core) : (s.modCore c f).yew = s.yew := rfl
@[simp] theorem State.host_modCore (s : State) (c : Nat) (f : Core → Core) : (s.modCore c f).host = s.host := rfl
@[simp] theorem State.net_modCore (s : State) (c : Nat) (f : Core → Core) : (s.modCore c f).net = s.net := rfl
@[simp] theorem State.timers_modCore (s : State) (c : Nat) (f : Core → Core) : (s.modCore c f).timers = s.timers := rfl
@[simp] theorem State.script_modCore (s : State) (c : Nat) (f : Core → Core) : (s.modCore c f).script = s.script := rfl
@[simp] theorem State.outbox_modCore (s : State) (c : Nat) (f : Core → Core) : (s.modCore c f).outbox = s.outbox := rfl
@[simp] theorem State.iss_modCore (s : State) (c : Nat) (f : Core → Core) : (s.modCore c f).iss = s.iss := rfl
@[simp] theorem State.free_modCore (s : State) (c : Nat) (f : Core → Core) : (s.modCore c f).free = s.free := rfl
@[simp] theorem State.lastCore_modCore (s : State) (c : Nat) (f : Core → Core) : (s.modCore c f).lastCore = s.lastCore := rfl

/-! ### State.modCtx -/

@[simp] theorem State.now_modCtx (s : State) (c n : Nat) (f : Ctx → Ctx) : (s.modCtx c n f).now = s.now := rfl
@[simp] theorem State.mem_modCtx (s : State) (c n : Nat) (f : Ctx → Ctx) : (s.modCtx c n f).mem = s.mem := rfl
@[simp] theorem State.poison_modCtx (s : State) (c n : Nat) (f : Ctx → Ctx) : (s.modCtx c n f).poison = s.poison := rfl
@[simp] theorem State.pins_modCtx (s : State) (c n : Nat) (f : Ctx → Ctx) : (s.modCtx c n f).pins = s.pins := rfl
@[simp] theorem State.sramT_modCtx (s : State) (c n : Nat) (f : Ctx → Ctx) : (s.modCtx c n f).sramT = s.sramT := rfl
@[simp] theorem State.homes_modCtx (s : State) (c n : Nat) (f : Ctx → Ctx) : (s.modCtx c n f).homes = s.homes := rfl
@[simp] theorem State.hedges_modCtx (s : State) (c n : Nat) (f : Ctx → Ctx) : (s.modCtx c n f).hedges = s.hedges := rfl
@[simp] theorem State.dies_modCtx (s : State) (c n : Nat) (f : Ctx → Ctx) : (s.modCtx c n f).dies = s.dies := rfl
@[simp] theorem State.jobs_modCtx (s : State) (c n : Nat) (f : Ctx → Ctx) : (s.modCtx c n f).jobs = s.jobs := rfl
@[simp] theorem State.yew_modCtx (s : State) (c n : Nat) (f : Ctx → Ctx) : (s.modCtx c n f).yew = s.yew := rfl
@[simp] theorem State.host_modCtx (s : State) (c n : Nat) (f : Ctx → Ctx) : (s.modCtx c n f).host = s.host := rfl
@[simp] theorem State.net_modCtx (s : State) (c n : Nat) (f : Ctx → Ctx) : (s.modCtx c n f).net = s.net := rfl
@[simp] theorem State.timers_modCtx (s : State) (c n : Nat) (f : Ctx → Ctx) : (s.modCtx c n f).timers = s.timers := rfl
@[simp] theorem State.script_modCtx (s : State) (c n : Nat) (f : Ctx → Ctx) : (s.modCtx c n f).script = s.script := rfl
@[simp] theorem State.outbox_modCtx (s : State) (c n : Nat) (f : Ctx → Ctx) : (s.modCtx c n f).outbox = s.outbox := rfl
@[simp] theorem State.iss_modCtx (s : State) (c n : Nat) (f : Ctx → Ctx) : (s.modCtx c n f).iss = s.iss := rfl
@[simp] theorem State.free_modCtx (s : State) (c n : Nat) (f : Ctx → Ctx) : (s.modCtx c n f).free = s.free := rfl
@[simp] theorem State.lastCore_modCtx (s : State) (c n : Nat) (f : Ctx → Ctx) : (s.modCtx c n f).lastCore = s.lastCore := rfl

/-! ### State.setHedge -/

@[simp] theorem State.now_setHedge (s : State) (h : Nat) (k : Hedge) : (s.setHedge h k).now = s.now := rfl
@[simp] theorem State.mem_setHedge (s : State) (h : Nat) (k : Hedge) : (s.setHedge h k).mem = s.mem := rfl
@[simp] theorem State.poison_setHedge (s : State) (h : Nat) (k : Hedge) : (s.setHedge h k).poison = s.poison := rfl
@[simp] theorem State.pins_setHedge (s : State) (h : Nat) (k : Hedge) : (s.setHedge h k).pins = s.pins := rfl
@[simp] theorem State.sramT_setHedge (s : State) (h : Nat) (k : Hedge) : (s.setHedge h k).sramT = s.sramT := rfl
@[simp] theorem State.homes_setHedge (s : State) (h : Nat) (k : Hedge) : (s.setHedge h k).homes = s.homes := rfl
@[simp] theorem State.cores_setHedge (s : State) (h : Nat) (k : Hedge) : (s.setHedge h k).cores = s.cores := rfl
@[simp] theorem State.dies_setHedge (s : State) (h : Nat) (k : Hedge) : (s.setHedge h k).dies = s.dies := rfl
@[simp] theorem State.jobs_setHedge (s : State) (h : Nat) (k : Hedge) : (s.setHedge h k).jobs = s.jobs := rfl
@[simp] theorem State.yew_setHedge (s : State) (h : Nat) (k : Hedge) : (s.setHedge h k).yew = s.yew := rfl
@[simp] theorem State.host_setHedge (s : State) (h : Nat) (k : Hedge) : (s.setHedge h k).host = s.host := rfl
@[simp] theorem State.net_setHedge (s : State) (h : Nat) (k : Hedge) : (s.setHedge h k).net = s.net := rfl
@[simp] theorem State.timers_setHedge (s : State) (h : Nat) (k : Hedge) : (s.setHedge h k).timers = s.timers := rfl
@[simp] theorem State.script_setHedge (s : State) (h : Nat) (k : Hedge) : (s.setHedge h k).script = s.script := rfl
@[simp] theorem State.outbox_setHedge (s : State) (h : Nat) (k : Hedge) : (s.setHedge h k).outbox = s.outbox := rfl
@[simp] theorem State.iss_setHedge (s : State) (h : Nat) (k : Hedge) : (s.setHedge h k).iss = s.iss := rfl
@[simp] theorem State.free_setHedge (s : State) (h : Nat) (k : Hedge) : (s.setHedge h k).free = s.free := rfl
@[simp] theorem State.lastCore_setHedge (s : State) (h : Nat) (k : Hedge) : (s.setHedge h k).lastCore = s.lastCore := rfl

/-! ### State.modHedge -/

@[simp] theorem State.now_modHedge (s : State) (h : Nat) (f : Hedge → Hedge) : (s.modHedge h f).now = s.now := rfl
@[simp] theorem State.mem_modHedge (s : State) (h : Nat) (f : Hedge → Hedge) : (s.modHedge h f).mem = s.mem := rfl
@[simp] theorem State.poison_modHedge (s : State) (h : Nat) (f : Hedge → Hedge) : (s.modHedge h f).poison = s.poison := rfl
@[simp] theorem State.pins_modHedge (s : State) (h : Nat) (f : Hedge → Hedge) : (s.modHedge h f).pins = s.pins := rfl
@[simp] theorem State.sramT_modHedge (s : State) (h : Nat) (f : Hedge → Hedge) : (s.modHedge h f).sramT = s.sramT := rfl
@[simp] theorem State.homes_modHedge (s : State) (h : Nat) (f : Hedge → Hedge) : (s.modHedge h f).homes = s.homes := rfl
@[simp] theorem State.cores_modHedge (s : State) (h : Nat) (f : Hedge → Hedge) : (s.modHedge h f).cores = s.cores := rfl
@[simp] theorem State.dies_modHedge (s : State) (h : Nat) (f : Hedge → Hedge) : (s.modHedge h f).dies = s.dies := rfl
@[simp] theorem State.jobs_modHedge (s : State) (h : Nat) (f : Hedge → Hedge) : (s.modHedge h f).jobs = s.jobs := rfl
@[simp] theorem State.yew_modHedge (s : State) (h : Nat) (f : Hedge → Hedge) : (s.modHedge h f).yew = s.yew := rfl
@[simp] theorem State.host_modHedge (s : State) (h : Nat) (f : Hedge → Hedge) : (s.modHedge h f).host = s.host := rfl
@[simp] theorem State.net_modHedge (s : State) (h : Nat) (f : Hedge → Hedge) : (s.modHedge h f).net = s.net := rfl
@[simp] theorem State.timers_modHedge (s : State) (h : Nat) (f : Hedge → Hedge) : (s.modHedge h f).timers = s.timers := rfl
@[simp] theorem State.script_modHedge (s : State) (h : Nat) (f : Hedge → Hedge) : (s.modHedge h f).script = s.script := rfl
@[simp] theorem State.outbox_modHedge (s : State) (h : Nat) (f : Hedge → Hedge) : (s.modHedge h f).outbox = s.outbox := rfl
@[simp] theorem State.iss_modHedge (s : State) (h : Nat) (f : Hedge → Hedge) : (s.modHedge h f).iss = s.iss := rfl
@[simp] theorem State.free_modHedge (s : State) (h : Nat) (f : Hedge → Hedge) : (s.modHedge h f).free = s.free := rfl
@[simp] theorem State.lastCore_modHedge (s : State) (h : Nat) (f : Hedge → Hedge) : (s.modHedge h f).lastCore = s.lastCore := rfl

/-! ### State.setDie -/

@[simp] theorem State.now_setDie (s : State) (d : Nat) (k : Die) : (s.setDie d k).now = s.now := rfl
@[simp] theorem State.mem_setDie (s : State) (d : Nat) (k : Die) : (s.setDie d k).mem = s.mem := rfl
@[simp] theorem State.poison_setDie (s : State) (d : Nat) (k : Die) : (s.setDie d k).poison = s.poison := rfl
@[simp] theorem State.pins_setDie (s : State) (d : Nat) (k : Die) : (s.setDie d k).pins = s.pins := rfl
@[simp] theorem State.sramT_setDie (s : State) (d : Nat) (k : Die) : (s.setDie d k).sramT = s.sramT := rfl
@[simp] theorem State.homes_setDie (s : State) (d : Nat) (k : Die) : (s.setDie d k).homes = s.homes := rfl
@[simp] theorem State.cores_setDie (s : State) (d : Nat) (k : Die) : (s.setDie d k).cores = s.cores := rfl
@[simp] theorem State.hedges_setDie (s : State) (d : Nat) (k : Die) : (s.setDie d k).hedges = s.hedges := rfl
@[simp] theorem State.jobs_setDie (s : State) (d : Nat) (k : Die) : (s.setDie d k).jobs = s.jobs := rfl
@[simp] theorem State.yew_setDie (s : State) (d : Nat) (k : Die) : (s.setDie d k).yew = s.yew := rfl
@[simp] theorem State.host_setDie (s : State) (d : Nat) (k : Die) : (s.setDie d k).host = s.host := rfl
@[simp] theorem State.net_setDie (s : State) (d : Nat) (k : Die) : (s.setDie d k).net = s.net := rfl
@[simp] theorem State.timers_setDie (s : State) (d : Nat) (k : Die) : (s.setDie d k).timers = s.timers := rfl
@[simp] theorem State.script_setDie (s : State) (d : Nat) (k : Die) : (s.setDie d k).script = s.script := rfl
@[simp] theorem State.outbox_setDie (s : State) (d : Nat) (k : Die) : (s.setDie d k).outbox = s.outbox := rfl
@[simp] theorem State.iss_setDie (s : State) (d : Nat) (k : Die) : (s.setDie d k).iss = s.iss := rfl
@[simp] theorem State.free_setDie (s : State) (d : Nat) (k : Die) : (s.setDie d k).free = s.free := rfl
@[simp] theorem State.lastCore_setDie (s : State) (d : Nat) (k : Die) : (s.setDie d k).lastCore = s.lastCore := rfl

/-! ### State.modDie -/

@[simp] theorem State.now_modDie (s : State) (d : Nat) (f : Die → Die) : (s.modDie d f).now = s.now := rfl
@[simp] theorem State.mem_modDie (s : State) (d : Nat) (f : Die → Die) : (s.modDie d f).mem = s.mem := rfl
@[simp] theorem State.poison_modDie (s : State) (d : Nat) (f : Die → Die) : (s.modDie d f).poison = s.poison := rfl
@[simp] theorem State.pins_modDie (s : State) (d : Nat) (f : Die → Die) : (s.modDie d f).pins = s.pins := rfl
@[simp] theorem State.sramT_modDie (s : State) (d : Nat) (f : Die → Die) : (s.modDie d f).sramT = s.sramT := rfl
@[simp] theorem State.homes_modDie (s : State) (d : Nat) (f : Die → Die) : (s.modDie d f).homes = s.homes := rfl
@[simp] theorem State.cores_modDie (s : State) (d : Nat) (f : Die → Die) : (s.modDie d f).cores = s.cores := rfl
@[simp] theorem State.hedges_modDie (s : State) (d : Nat) (f : Die → Die) : (s.modDie d f).hedges = s.hedges := rfl
@[simp] theorem State.jobs_modDie (s : State) (d : Nat) (f : Die → Die) : (s.modDie d f).jobs = s.jobs := rfl
@[simp] theorem State.yew_modDie (s : State) (d : Nat) (f : Die → Die) : (s.modDie d f).yew = s.yew := rfl
@[simp] theorem State.host_modDie (s : State) (d : Nat) (f : Die → Die) : (s.modDie d f).host = s.host := rfl
@[simp] theorem State.net_modDie (s : State) (d : Nat) (f : Die → Die) : (s.modDie d f).net = s.net := rfl
@[simp] theorem State.timers_modDie (s : State) (d : Nat) (f : Die → Die) : (s.modDie d f).timers = s.timers := rfl
@[simp] theorem State.script_modDie (s : State) (d : Nat) (f : Die → Die) : (s.modDie d f).script = s.script := rfl
@[simp] theorem State.outbox_modDie (s : State) (d : Nat) (f : Die → Die) : (s.modDie d f).outbox = s.outbox := rfl
@[simp] theorem State.iss_modDie (s : State) (d : Nat) (f : Die → Die) : (s.modDie d f).iss = s.iss := rfl
@[simp] theorem State.free_modDie (s : State) (d : Nat) (f : Die → Die) : (s.modDie d f).free = s.free := rfl
@[simp] theorem State.lastCore_modDie (s : State) (d : Nat) (f : Die → Die) : (s.modDie d f).lastCore = s.lastCore := rfl

/-! ### State.post -/

@[simp] theorem State.now_post (s : State) (i : Instr) : (s.post i).now = s.now := rfl
@[simp] theorem State.mem_post (s : State) (i : Instr) : (s.post i).mem = s.mem := rfl
@[simp] theorem State.poison_post (s : State) (i : Instr) : (s.post i).poison = s.poison := rfl
@[simp] theorem State.pins_post (s : State) (i : Instr) : (s.post i).pins = s.pins := rfl
@[simp] theorem State.sramT_post (s : State) (i : Instr) : (s.post i).sramT = s.sramT := rfl
@[simp] theorem State.homes_post (s : State) (i : Instr) : (s.post i).homes = s.homes := rfl
@[simp] theorem State.cores_post (s : State) (i : Instr) : (s.post i).cores = s.cores := rfl
@[simp] theorem State.hedges_post (s : State) (i : Instr) : (s.post i).hedges = s.hedges := rfl
@[simp] theorem State.dies_post (s : State) (i : Instr) : (s.post i).dies = s.dies := rfl
@[simp] theorem State.jobs_post (s : State) (i : Instr) : (s.post i).jobs = s.jobs := rfl
@[simp] theorem State.yew_post (s : State) (i : Instr) : (s.post i).yew = s.yew := rfl
@[simp] theorem State.host_post (s : State) (i : Instr) : (s.post i).host = s.host := rfl
@[simp] theorem State.timers_post (s : State) (i : Instr) : (s.post i).timers = s.timers := rfl
@[simp] theorem State.script_post (s : State) (i : Instr) : (s.post i).script = s.script := rfl
@[simp] theorem State.outbox_post (s : State) (i : Instr) : (s.post i).outbox = s.outbox := rfl
@[simp] theorem State.iss_post (s : State) (i : Instr) : (s.post i).iss = s.iss := rfl
@[simp] theorem State.free_post (s : State) (i : Instr) : (s.post i).free = s.free := rfl
@[simp] theorem State.lastCore_post (s : State) (i : Instr) : (s.post i).lastCore = s.lastCore := rfl

/-! ### State.after -/

@[simp] theorem State.now_after (s : State) (n : Nat) (i : Instr) : (s.after n i).now = s.now := rfl
@[simp] theorem State.mem_after (s : State) (n : Nat) (i : Instr) : (s.after n i).mem = s.mem := rfl
@[simp] theorem State.poison_after (s : State) (n : Nat) (i : Instr) : (s.after n i).poison = s.poison := rfl
@[simp] theorem State.pins_after (s : State) (n : Nat) (i : Instr) : (s.after n i).pins = s.pins := rfl
@[simp] theorem State.sramT_after (s : State) (n : Nat) (i : Instr) : (s.after n i).sramT = s.sramT := rfl
@[simp] theorem State.homes_after (s : State) (n : Nat) (i : Instr) : (s.after n i).homes = s.homes := rfl
@[simp] theorem State.cores_after (s : State) (n : Nat) (i : Instr) : (s.after n i).cores = s.cores := rfl
@[simp] theorem State.hedges_after (s : State) (n : Nat) (i : Instr) : (s.after n i).hedges = s.hedges := rfl
@[simp] theorem State.dies_after (s : State) (n : Nat) (i : Instr) : (s.after n i).dies = s.dies := rfl
@[simp] theorem State.jobs_after (s : State) (n : Nat) (i : Instr) : (s.after n i).jobs = s.jobs := rfl
@[simp] theorem State.yew_after (s : State) (n : Nat) (i : Instr) : (s.after n i).yew = s.yew := rfl
@[simp] theorem State.host_after (s : State) (n : Nat) (i : Instr) : (s.after n i).host = s.host := rfl
@[simp] theorem State.net_after (s : State) (n : Nat) (i : Instr) : (s.after n i).net = s.net := rfl
@[simp] theorem State.script_after (s : State) (n : Nat) (i : Instr) : (s.after n i).script = s.script := rfl
@[simp] theorem State.outbox_after (s : State) (n : Nat) (i : Instr) : (s.after n i).outbox = s.outbox := rfl
@[simp] theorem State.iss_after (s : State) (n : Nat) (i : Instr) : (s.after n i).iss = s.iss := rfl
@[simp] theorem State.free_after (s : State) (n : Nat) (i : Instr) : (s.after n i).free = s.free := rfl
@[simp] theorem State.lastCore_after (s : State) (n : Nat) (i : Instr) : (s.after n i).lastCore = s.lastCore := rfl

/-! ### State.signal -/

@[simp] theorem State.now_signal (s : State) (k a b : Nat) : (s.signal k a b).now = s.now := rfl
@[simp] theorem State.mem_signal (s : State) (k a b : Nat) : (s.signal k a b).mem = s.mem := rfl
@[simp] theorem State.poison_signal (s : State) (k a b : Nat) : (s.signal k a b).poison = s.poison := rfl
@[simp] theorem State.pins_signal (s : State) (k a b : Nat) : (s.signal k a b).pins = s.pins := rfl
@[simp] theorem State.sramT_signal (s : State) (k a b : Nat) : (s.signal k a b).sramT = s.sramT := rfl
@[simp] theorem State.homes_signal (s : State) (k a b : Nat) : (s.signal k a b).homes = s.homes := rfl
@[simp] theorem State.cores_signal (s : State) (k a b : Nat) : (s.signal k a b).cores = s.cores := rfl
@[simp] theorem State.hedges_signal (s : State) (k a b : Nat) : (s.signal k a b).hedges = s.hedges := rfl
@[simp] theorem State.dies_signal (s : State) (k a b : Nat) : (s.signal k a b).dies = s.dies := rfl
@[simp] theorem State.jobs_signal (s : State) (k a b : Nat) : (s.signal k a b).jobs = s.jobs := rfl
@[simp] theorem State.yew_signal (s : State) (k a b : Nat) : (s.signal k a b).yew = s.yew := rfl
@[simp] theorem State.net_signal (s : State) (k a b : Nat) : (s.signal k a b).net = s.net := rfl
@[simp] theorem State.timers_signal (s : State) (k a b : Nat) : (s.signal k a b).timers = s.timers := rfl
@[simp] theorem State.script_signal (s : State) (k a b : Nat) : (s.signal k a b).script = s.script := rfl
@[simp] theorem State.outbox_signal (s : State) (k a b : Nat) : (s.signal k a b).outbox = s.outbox := rfl
@[simp] theorem State.iss_signal (s : State) (k a b : Nat) : (s.signal k a b).iss = s.iss := rfl
@[simp] theorem State.free_signal (s : State) (k a b : Nat) : (s.signal k a b).free = s.free := rfl
@[simp] theorem State.lastCore_signal (s : State) (k a b : Nat) : (s.signal k a b).lastCore = s.lastCore := rfl

/-! ### State.modJob -/

@[simp] theorem State.now_modJob (s : State) (n : Nat) (f : Job → Job) : (s.modJob n f).now = s.now := rfl
@[simp] theorem State.mem_modJob (s : State) (n : Nat) (f : Job → Job) : (s.modJob n f).mem = s.mem := rfl
@[simp] theorem State.poison_modJob (s : State) (n : Nat) (f : Job → Job) : (s.modJob n f).poison = s.poison := rfl
@[simp] theorem State.pins_modJob (s : State) (n : Nat) (f : Job → Job) : (s.modJob n f).pins = s.pins := rfl
@[simp] theorem State.sramT_modJob (s : State) (n : Nat) (f : Job → Job) : (s.modJob n f).sramT = s.sramT := rfl
@[simp] theorem State.homes_modJob (s : State) (n : Nat) (f : Job → Job) : (s.modJob n f).homes = s.homes := rfl
@[simp] theorem State.cores_modJob (s : State) (n : Nat) (f : Job → Job) : (s.modJob n f).cores = s.cores := rfl
@[simp] theorem State.hedges_modJob (s : State) (n : Nat) (f : Job → Job) : (s.modJob n f).hedges = s.hedges := rfl
@[simp] theorem State.dies_modJob (s : State) (n : Nat) (f : Job → Job) : (s.modJob n f).dies = s.dies := rfl
@[simp] theorem State.yew_modJob (s : State) (n : Nat) (f : Job → Job) : (s.modJob n f).yew = s.yew := rfl
@[simp] theorem State.host_modJob (s : State) (n : Nat) (f : Job → Job) : (s.modJob n f).host = s.host := rfl
@[simp] theorem State.net_modJob (s : State) (n : Nat) (f : Job → Job) : (s.modJob n f).net = s.net := rfl
@[simp] theorem State.timers_modJob (s : State) (n : Nat) (f : Job → Job) : (s.modJob n f).timers = s.timers := rfl
@[simp] theorem State.script_modJob (s : State) (n : Nat) (f : Job → Job) : (s.modJob n f).script = s.script := rfl
@[simp] theorem State.outbox_modJob (s : State) (n : Nat) (f : Job → Job) : (s.modJob n f).outbox = s.outbox := rfl
@[simp] theorem State.iss_modJob (s : State) (n : Nat) (f : Job → Job) : (s.modJob n f).iss = s.iss := rfl
@[simp] theorem State.free_modJob (s : State) (n : Nat) (f : Job → Job) : (s.modJob n f).free = s.free := rfl
@[simp] theorem State.lastCore_modJob (s : State) (n : Nat) (f : Job → Job) : (s.modJob n f).lastCore = s.lastCore := rfl

/-! ### State.setStatus -/

@[simp] theorem State.now_setStatus (s : State) (c n : Nat) (x : Status) : (s.setStatus c n x).now = s.now := rfl
@[simp] theorem State.mem_setStatus (s : State) (c n : Nat) (x : Status) : (s.setStatus c n x).mem = s.mem := rfl
@[simp] theorem State.poison_setStatus (s : State) (c n : Nat) (x : Status) : (s.setStatus c n x).poison = s.poison := rfl
@[simp] theorem State.pins_setStatus (s : State) (c n : Nat) (x : Status) : (s.setStatus c n x).pins = s.pins := rfl
@[simp] theorem State.sramT_setStatus (s : State) (c n : Nat) (x : Status) : (s.setStatus c n x).sramT = s.sramT := rfl
@[simp] theorem State.homes_setStatus (s : State) (c n : Nat) (x : Status) : (s.setStatus c n x).homes = s.homes := rfl
@[simp] theorem State.hedges_setStatus (s : State) (c n : Nat) (x : Status) : (s.setStatus c n x).hedges = s.hedges := rfl
@[simp] theorem State.dies_setStatus (s : State) (c n : Nat) (x : Status) : (s.setStatus c n x).dies = s.dies := rfl
@[simp] theorem State.jobs_setStatus (s : State) (c n : Nat) (x : Status) : (s.setStatus c n x).jobs = s.jobs := rfl
@[simp] theorem State.yew_setStatus (s : State) (c n : Nat) (x : Status) : (s.setStatus c n x).yew = s.yew := rfl
@[simp] theorem State.host_setStatus (s : State) (c n : Nat) (x : Status) : (s.setStatus c n x).host = s.host := rfl
@[simp] theorem State.net_setStatus (s : State) (c n : Nat) (x : Status) : (s.setStatus c n x).net = s.net := rfl
@[simp] theorem State.timers_setStatus (s : State) (c n : Nat) (x : Status) : (s.setStatus c n x).timers = s.timers := rfl
@[simp] theorem State.script_setStatus (s : State) (c n : Nat) (x : Status) : (s.setStatus c n x).script = s.script := rfl
@[simp] theorem State.outbox_setStatus (s : State) (c n : Nat) (x : Status) : (s.setStatus c n x).outbox = s.outbox := rfl
@[simp] theorem State.iss_setStatus (s : State) (c n : Nat) (x : Status) : (s.setStatus c n x).iss = s.iss := rfl
@[simp] theorem State.free_setStatus (s : State) (c n : Nat) (x : Status) : (s.setStatus c n x).free = s.free := rfl
@[simp] theorem State.lastCore_setStatus (s : State) (c n : Nat) (x : Status) : (s.setStatus c n x).lastCore = s.lastCore := rfl

/-! ### Core.setCtx and Core.modCtx -/

@[simp] theorem Core.file_setCtx (k : Core) (n : Nat) (x : Ctx) : (k.setCtx n x).file = k.file := rfl
@[simp] theorem Core.file_modCtx (k : Core) (n : Nat) (f : Ctx → Ctx) : (k.modCtx n f).file = k.file := rfl
@[simp] theorem Core.empty_setCtx (k : Core) (n : Nat) (x : Ctx) : (k.setCtx n x).empty = k.empty := rfl
@[simp] theorem Core.empty_modCtx (k : Core) (n : Nat) (f : Ctx → Ctx) : (k.modCtx n f).empty = k.empty := rfl
@[simp] theorem Core.badMain_setCtx (k : Core) (n : Nat) (x : Ctx) : (k.setCtx n x).badMain = k.badMain := rfl
@[simp] theorem Core.badMain_modCtx (k : Core) (n : Nat) (f : Ctx → Ctx) : (k.modCtx n f).badMain = k.badMain := rfl
@[simp] theorem Core.vfile_setCtx (k : Core) (n : Nat) (x : Ctx) : (k.setCtx n x).vfile = k.vfile := rfl
@[simp] theorem Core.vfile_modCtx (k : Core) (n : Nat) (f : Ctx → Ctx) : (k.modCtx n f).vfile = k.vfile := rfl
@[simp] theorem Core.badVec_setCtx (k : Core) (n : Nat) (x : Ctx) : (k.setCtx n x).badVec = k.badVec := rfl
@[simp] theorem Core.badVec_modCtx (k : Core) (n : Nat) (f : Ctx → Ctx) : (k.modCtx n f).badVec = k.badVec := rfl
@[simp] theorem Core.lastSlot_setCtx (k : Core) (n : Nat) (x : Ctx) : (k.setCtx n x).lastSlot = k.lastSlot := rfl
@[simp] theorem Core.lastSlot_modCtx (k : Core) (n : Nat) (f : Ctx → Ctx) : (k.modCtx n f).lastSlot = k.lastSlot := rfl
@[simp] theorem Core.regs_setCtx (k : Core) (n : Nat) (x : Ctx) : (k.setCtx n x).regs = k.regs := rfl
@[simp] theorem Core.regs_modCtx (k : Core) (n : Nat) (f : Ctx → Ctx) : (k.modCtx n f).regs = k.regs := rfl
@[simp] theorem Core.q_setCtx (k : Core) (n : Nat) (x : Ctx) : (k.setCtx n x).q = k.q := rfl
@[simp] theorem Core.q_modCtx (k : Core) (n : Nat) (f : Ctx → Ctx) : (k.modCtx n f).q = k.q := rfl
@[simp] theorem Core.units_setCtx (k : Core) (n : Nat) (x : Ctx) : (k.setCtx n x).units = k.units := rfl
@[simp] theorem Core.units_modCtx (k : Core) (n : Nat) (f : Ctx → Ctx) : (k.modCtx n f).units = k.units := rfl
@[simp] theorem Core.work_setCtx (k : Core) (n : Nat) (x : Ctx) : (k.setCtx n x).work = k.work := rfl
@[simp] theorem Core.work_modCtx (k : Core) (n : Nat) (f : Ctx → Ctx) : (k.modCtx n f).work = k.work := rfl
@[simp] theorem Core.csr_setCtx (k : Core) (n : Nat) (x : Ctx) : (k.setCtx n x).csr = k.csr := rfl
@[simp] theorem Core.csr_modCtx (k : Core) (n : Nat) (f : Ctx → Ctx) : (k.modCtx n f).csr = k.csr := rfl
@[simp] theorem Core.cache_setCtx (k : Core) (n : Nat) (x : Ctx) : (k.setCtx n x).cache = k.cache := rfl
@[simp] theorem Core.cache_modCtx (k : Core) (n : Nat) (f : Ctx → Ctx) : (k.modCtx n f).cache = k.cache := rfl
@[simp] theorem Core.tlb_setCtx (k : Core) (n : Nat) (x : Ctx) : (k.setCtx n x).tlb = k.tlb := rfl
@[simp] theorem Core.tlb_modCtx (k : Core) (n : Nat) (f : Ctx → Ctx) : (k.modCtx n f).tlb = k.tlb := rfl

@[simp] theorem Core.ctx_setCtx_self (k : Core) (n : Nat) (x : Ctx) : (k.setCtx n x).ctx n = x := by simp [Core.ctx, Core.setCtx]
theorem Core.ctx_setCtx_ne (k : Core) {n m : Nat} (x : Ctx) (h : m ≠ n) : (k.setCtx n x).ctx m = k.ctx m := by
  simp [Core.ctx, Core.setCtx, Tab.getD_put_ne, h]
@[simp] theorem Core.ctx_modCtx_self (k : Core) (n : Nat) (f : Ctx → Ctx) : (k.modCtx n f).ctx n = f (k.ctx n) := by
  simp [Core.modCtx]
theorem Core.ctx_modCtx_ne (k : Core) {n m : Nat} (f : Ctx → Ctx) (h : m ≠ n) : (k.modCtx n f).ctx m = k.ctx m := by
  simp [Core.modCtx, Core.ctx_setCtx_ne, h]

/-! ### The parts of the state -/

@[simp] theorem State.core_setCore_self (s : State) (c : Nat) (k : Core) : (s.setCore c k).core c = k := by
  simp [State.core, State.setCore]
theorem State.core_setCore_ne (s : State) {c d : Nat} (k : Core) (h : d ≠ c) : (s.setCore c k).core d = s.core d := by
  simp [State.core, State.setCore, Tab.getD_put_ne, h]
@[simp] theorem State.core_modCore_self (s : State) (c : Nat) (f : Core → Core) : (s.modCore c f).core c = f (s.core c) := by
  simp [State.modCore]
theorem State.core_modCore_ne (s : State) {c d : Nat} (f : Core → Core) (h : d ≠ c) : (s.modCore c f).core d = s.core d := by
  simp [State.modCore, State.core_setCore_ne, h]
@[simp] theorem State.core_modCtx_self (s : State) (c n : Nat) (f : Ctx → Ctx) :
    (s.modCtx c n f).core c = (s.core c).modCtx n f := by simp [State.modCtx]
theorem State.core_modCtx_ne (s : State) {c d : Nat} (n : Nat) (f : Ctx → Ctx) (h : d ≠ c) :
    (s.modCtx c n f).core d = s.core d := by simp [State.modCtx, State.core_modCore_ne, h]
@[simp] theorem State.ctx_modCtx_self (s : State) (c n : Nat) (f : Ctx → Ctx) : (s.modCtx c n f).ctx c n = f (s.ctx c n) := by
  simp [State.ctx]
theorem State.ctx_modCtx_ne (s : State) (c : Nat) {n m : Nat} (f : Ctx → Ctx) (h : m ≠ n) :
    (s.modCtx c n f).ctx c m = s.ctx c m := by simp [State.ctx, Core.ctx_modCtx_ne, h]
@[simp] theorem State.hedge_setHedge_self (s : State) (h : Nat) (k : Hedge) : (s.setHedge h k).hedge h = k := by
  simp [State.hedge, State.setHedge]
theorem State.hedge_setHedge_ne (s : State) {h g : Nat} (k : Hedge) (e : g ≠ h) : (s.setHedge h k).hedge g = s.hedge g := by
  simp [State.hedge, State.setHedge, Tab.getD_put_ne, e]
@[simp] theorem State.hedge_modHedge_self (s : State) (h : Nat) (f : Hedge → Hedge) : (s.modHedge h f).hedge h = f (s.hedge h) := by
  simp [State.modHedge]
theorem State.hedge_modHedge_ne (s : State) {h g : Nat} (f : Hedge → Hedge) (e : g ≠ h) :
    (s.modHedge h f).hedge g = s.hedge g := by simp [State.modHedge, State.hedge_setHedge_ne, e]
@[simp] theorem State.die_setDie_self (s : State) (d : Nat) (k : Die) : (s.setDie d k).die d = k := by
  simp [State.die, State.setDie]
theorem State.die_setDie_ne (s : State) {d e : Nat} (k : Die) (h : e ≠ d) : (s.setDie d k).die e = s.die e := by
  simp [State.die, State.setDie, Tab.getD_put_ne, h]
@[simp] theorem State.die_modDie_self (s : State) (d : Nat) (f : Die → Die) : (s.modDie d f).die d = f (s.die d) := by
  simp [State.modDie]
theorem State.die_modDie_ne (s : State) {d e : Nat} (f : Die → Die) (h : e ≠ d) : (s.modDie d f).die e = s.die e := by
  simp [State.modDie, State.die_setDie_ne, h]

/-! ### What an update of another part leaves of a core, a hedge or a die -/

@[simp] theorem State.core_post (s : State) (i : Instr) (x : Nat) : (s.post i).core x = s.core x := rfl
@[simp] theorem State.hedge_post (s : State) (i : Instr) (x : Nat) : (s.post i).hedge x = s.hedge x := rfl
@[simp] theorem State.die_post (s : State) (i : Instr) (x : Nat) : (s.post i).die x = s.die x := rfl
@[simp] theorem State.core_after (s : State) (n : Nat) (i : Instr) (x : Nat) : (s.after n i).core x = s.core x := rfl
@[simp] theorem State.hedge_after (s : State) (n : Nat) (i : Instr) (x : Nat) : (s.after n i).hedge x = s.hedge x := rfl
@[simp] theorem State.die_after (s : State) (n : Nat) (i : Instr) (x : Nat) : (s.after n i).die x = s.die x := rfl
@[simp] theorem State.core_signal (s : State) (k a b : Nat) (x : Nat) : (s.signal k a b).core x = s.core x := rfl
@[simp] theorem State.hedge_signal (s : State) (k a b : Nat) (x : Nat) : (s.signal k a b).hedge x = s.hedge x := rfl
@[simp] theorem State.die_signal (s : State) (k a b : Nat) (x : Nat) : (s.signal k a b).die x = s.die x := rfl
@[simp] theorem State.core_modJob (s : State) (n : Nat) (f : Job → Job) (x : Nat) : (s.modJob n f).core x = s.core x := rfl
@[simp] theorem State.hedge_modJob (s : State) (n : Nat) (f : Job → Job) (x : Nat) : (s.modJob n f).hedge x = s.hedge x := rfl
@[simp] theorem State.die_modJob (s : State) (n : Nat) (f : Job → Job) (x : Nat) : (s.modJob n f).die x = s.die x := rfl
@[simp] theorem State.core_modHedge (s : State) (h : Nat) (f : Hedge → Hedge) (x : Nat) : (s.modHedge h f).core x = s.core x := rfl
@[simp] theorem State.core_modDie (s : State) (d : Nat) (f : Die → Die) (x : Nat) : (s.modDie d f).core x = s.core x := rfl
@[simp] theorem State.hedge_modCore (s : State) (c : Nat) (f : Core → Core) (x : Nat) : (s.modCore c f).hedge x = s.hedge x := rfl
@[simp] theorem State.hedge_modDie (s : State) (d : Nat) (f : Die → Die) (x : Nat) : (s.modDie d f).hedge x = s.hedge x := rfl
@[simp] theorem State.die_modCore (s : State) (c : Nat) (f : Core → Core) (x : Nat) : (s.modCore c f).die x = s.die x := rfl
@[simp] theorem State.die_modHedge (s : State) (h : Nat) (f : Hedge → Hedge) (x : Nat) : (s.modHedge h f).die x = s.die x := rfl

end Sys2Proof.Machine
end

