-- ==== Sys2Proof/Laws/Operands.lean ====
section
/-! SUPPORT. What reading operands can do: every read leaves a ReadFrame, and what each operand form gives. -/

namespace Sys2Proof.Machine

theorem ReadFrame.refl (c slot : Nat) (s : State) : ReadFrame c slot s s := ⟨rfl, fun _ _ => rfl, rfl, fun _ _ => rfl, rfl⟩

theorem ReadFrame.trans {c slot : Nat} {s t u : State} (h : ReadFrame c slot s t) (g : ReadFrame c slot t u) :
    ReadFrame c slot s u where
  state := by rw [g.state, h.state]
  cores e he := (g.cores e he).trans (h.cores e he)
  core := by rw [g.core, h.core]
  ctxs j hj := (g.ctxs j hj).trans (h.ctxs j hj)
  ctx := by rw [g.ctx, h.ctx]

/-- A free value taken. -/
theorem ReadFrame.free (c slot : Nat) (s : State) (n : Nat) : ReadFrame c slot s { s with free := n } :=
  ⟨rfl, fun _ _ => rfl, rfl, fun _ _ => rfl, rfl⟩

/-- The thread's own fields out, pt, pipe and latch changed. -/
theorem ReadFrame.modCtx (c slot : Nat) (s : State) (f : Ctx → Ctx)
    (h : f (s.ctx c slot) = { s.ctx c slot with
      out := (f (s.ctx c slot)).out, pt := (f (s.ctx c slot)).pt, pipe := (f (s.ctx c slot)).pipe, latch := (f (s.ctx c slot)).latch }) :
    ReadFrame c slot s (s.modCtx c slot f) where
  state := rfl
  cores e he := by simp [State.core_modCtx_ne, he]
  core := by simp [Core.modCtx, Core.setCtx]
  ctxs j hj := by simp [State.ctx_modCtx_ne, hj]
  ctx := by simpa using h

/-- The core's queues changed. -/
theorem ReadFrame.modQ (c slot : Nat) (s : State) (f : CoreQueues → CoreQueues) :
    ReadFrame c slot s (s.modCore c fun k => { k with q := f k.q }) where
  state := rfl
  cores e he := by simp [State.core_modCore_ne, he]
  core := by simp
  ctxs j hj := by simp [State.ctx, Core.ctx]
  ctx := by simp [State.ctx, Core.ctx]

theorem State.readEither_frame {s t : State} {c slot : Nat} {d : Dest} {n v : Word} {x : Ctx}
    (h : s.readEither c slot d n x = (v, t)) : ReadFrame c slot s t := by
  unfold State.readEither State.takeBit at h
  split at h
  · cases h; exact .refl ..
  · dsimp only at h
    split at h
    · cases h; exact .free ..
    · cases h; exact (ReadFrame.free c slot s _).trans (.modCtx _ _ _ _ rfl)

theorem State.readK_frame {s t : State} {c slot n : Nat} {k : Core} {v : Word} (h : s.readK n k = (v, t)) :
    ReadFrame c slot s t := by
  unfold State.readK State.takeBit State.takeNat at h
  dsimp only at h
  split at h
  · cases h; exact .refl ..
  · cases h; exact .free ..
  · cases h; exact .free ..

/-- An observation changes a thread's time, or stands behind its accesses. -/
theorem Ctx.observe_frame (x : Ctx) (n : Nat) :
    x.observe n = { x with pt := (x.observe n).pt, pipe := (x.observe n).pipe } := by
  unfold Ctx.observe
  split <;> rfl

theorem State.readOp_frame {s t : State} {c slot pos : Nat} {o : Operand} {v : Word}
    (h : s.readOp c slot pos o = .val v t) : ReadFrame c slot s t := by
  unfold State.readOp at h
  dsimp only at h
  split at h
  · cases h; exact .refl ..
  · cases o with
    | g n =>
      dsimp only at h
      generalize e : s.readEither c slot _ _ _ = r at h
      obtain ⟨w, u⟩ := r
      cases h; exact readEither_frame e
    | h n =>
      dsimp only at h
      generalize e : s.readEither c slot _ _ _ = r at h
      obtain ⟨w, u⟩ := r
      cases h; exact readEither_frame e
    | k n =>
      dsimp only at h
      generalize e : s.readK _ _ = r at h
      obtain ⟨w, u⟩ := r
      dsimp only at h
      generalize f : u.readEither c slot _ _ _ = r at h
      obtain ⟨w', u'⟩ := r
      cases h
      exact (readK_frame e).trans (readEither_frame f)
    | lc | la | zero => cases h; exact .refl ..
    | q n =>
      dsimp only at h
      split at h
      · cases h; exact .refl ..
      · split at h
        · split at h
          · cases h
          · cases h
            exact ReadFrame.trans (.modQ c slot s fun q => { (q.setEntries n.val _) with
              waiters := q.waiters.eraseP fun w => w.1 == n.val && w.2.1 == slot && w.2.2 == 0 }) (.modCtx _ _ _ _ (by dsimp only; rw [Ctx.observe_frame]))
        · cases h

theorem State.readOps_frame {c slot : Nat} (l : List Operand) : ∀ {s t : State} {pos : Nat} {vs : List Word},
    s.readOps c slot pos l = .ok (vs, t) → ReadFrame c slot s t := by
  induction l with
  | nil => intro s t pos vs h; cases h; exact .refl ..
  | cons o l ih =>
    intro s t pos vs h
    unfold State.readOps at h
    split at h
    · cases h
    · rename_i v u e
      split at h
      · cases h
      · rename_i ws w g
        cases h
        exact (readOp_frame e).trans (ih g)

end Sys2Proof.Machine
end

