-- ==== Sys2Proof/Laws/Issue.lean ====
section
/-! SUPPORT. What the issue of a word does once its sources are read: one lemma for each way in which its effect ends. -/

namespace Sys2Proof.Machine

theorem Issues.iss {s t : State} {i : Instr} {vals : List Word} (h : Issues s i vals t) : t.iss = s.iss := by
  rw [(State.readOps_frame _ h.reads).state]

theorem Issues.frame {s t : State} {i : Instr} {vals : List Word} (h : Issues s i vals t) :
    ReadFrame s.iss.core s.iss.slot s t := State.readOps_frame _ h.reads

theorem Issues.now {s t : State} {i : Instr} {vals : List Word} (h : Issues s i vals t) : t.now = s.now := by
  rw [h.frame.state]

theorem Issues.me {s t : State} {i : Instr} {vals : List Word} (h : Issues s i vals t) :
    t.me = { s.me with out := t.me.out, pt := t.me.pt, pipe := t.me.pipe, latch := t.me.latch } := by
  have := h.frame.ctx
  simpa [State.me, h.iss] using this

theorem Issues.core {s t : State} {i : Instr} {vals : List Word} (h : Issues s i vals t) :
    t.core t.iss.core = { s.core s.iss.core with q := (t.core t.iss.core).q, ctxs := (t.core t.iss.core).ctxs } := by
  have := h.frame.core
  simpa [h.iss] using this

theorem Issues.nextPlace {s t : State} {i : Instr} {vals : List Word} (h : Issues s i vals t) : t.nextPlace = s.nextPlace := by
  show t.me.pc.next t.iss.place = s.me.pc.next s.iss.place
  rw [h.me, h.iss]

/-- A word that issues goes on with its own effect. -/
theorem Issues.issue {s t : State} {i : Instr} {vals : List Word} (h : Issues s i vals t) (body : List Word → State → Act) :
    s.issue i body = s.conclude s.iss.core s.iss.slot i (body vals t) := by
  have hp : (t.ctx s.iss.core s.iss.slot).pair = none := by have := h.alone; simpa [State.me, h.iss] using this
  have hr : (s.ctx s.iss.core s.iss.slot).status = .ready := h.ready
  have hf : (s.ctx s.iss.core s.iss.slot).phase ≠ 3 := h.fresh
  simp [State.issue, hr, hf, h.clean, h.reads, State.pairAct, hp]

theorem State.conclude_next (s u : State) (i : Instr) :
    s.conclude s.iss.core s.iss.slot i (.next u) =
      s.finish (u.modCtx s.iss.core s.iss.slot fun x => x.complete s.nextPlace) i := rfl

theorem State.conclude_goto (s u : State) (i : Instr) (d : Nat) :
    s.conclude s.iss.core s.iss.slot i (.goto d u) =
      s.finish (u.modCtx s.iss.core s.iss.slot fun x => x.complete (PC.at_ d)) i := rfl

theorem State.conclude_hold (s u : State) (i : Instr) (w : Wait) :
    s.conclude s.iss.core s.iss.slot i (.hold w u) =
      (let v := (u.request s.iss.core s.iss.slot w).modCtx s.iss.core s.iss.slot fun y => { y with pc := s.me.pc, status := .parked w }
       { v with iss := { v.iss with res := 2 } }) := rfl

theorem State.conclude_gone (s u : State) (i : Instr) :
    s.conclude s.iss.core s.iss.slot i (.gone u) = { u with iss := { u.iss with res := 1 } } := rfl

theorem State.conclude_fault (s : State) (i : Instr) (code d : Nat) (o : Bool) :
    s.conclude s.iss.core s.iss.slot i (.fault code d o) =
      (let v := (s.unload s.iss.core s.iss.slot i).takeFault s.iss.core s.iss.slot code d (s.iss.place == .lone1) o
       { v with iss := { v.iss with res := 3 + 4 * code, rank := s.faultRank s.iss.core s.iss.slot i code, detail := d, origin := o } }) := rfl

end Sys2Proof.Machine
end

