-- ==== Sys2Proof/Laws/Memory.lean ====
section
/-! SUPPORT. Memory: what a read after a write gives, and that every operation keeps the canonical form. -/

namespace Sys2Proof.Machine

/-! ### Bytes -/

theorem Memory.byte_nil (a : Nat) : Memory.byte [] a = 0 := rfl

theorem Memory.byte_cons (c : Host.Cell) (m : Memory) (a : Nat) :
    Memory.byte (c :: m) a = if c.1 = a then c.2 else Memory.byte m a := by
  by_cases h : c.1 = a <;> simp [Memory.byte, h]

theorem Memory.byte_append (l m : Memory) (a : Nat) :
    Memory.byte (l ++ m) a = if ∃ c ∈ l, c.1 = a then Memory.byte l a else Memory.byte m a := by
  induction l with
  | nil => simp
  | cons c l ih =>
    rw [List.cons_append, Memory.byte_cons, Memory.byte_cons, ih]
    by_cases h : c.1 = a <;> simp [h]

theorem Memory.byte_filter (m : Memory) (p : Nat → Bool) (a : Nat) (h : p a) :
    Memory.byte (m.filter fun c => p c.1) a = Memory.byte m a := by
  induction m with
  | nil => rfl
  | cons c m ih =>
    by_cases hc : p c.1
    · simp [hc, Memory.byte_cons, ih]
    · have : c.1 ≠ a := fun e => hc (e ▸ h)
      simp [hc, Memory.byte_cons, ih, this]

theorem Memory.byte_none (m : Memory) (a : Nat) (h : ∀ c ∈ m, c.1 ≠ a) : Memory.byte m a = 0 := by
  have : List.find? (fun c => c.1 == a) m = none := by simpa using h
  simp [Memory.byte, this]

theorem cellsOf_mem {a n v : Nat} {c : Host.Cell} (h : c ∈ cellsOf a n v) : a ≤ c.1 ∧ c.1 < a + n ∧ c.2 ≠ 0 := by
  simp only [cellsOf, List.mem_filterMap, List.mem_range] at h
  obtain ⟨i, hi, h⟩ := h
  split at h
  · cases h
  · cases h; exact ⟨by simp, by simpa using hi, by assumption⟩

theorem cellsOf_succ (a n v : Nat) : cellsOf a (n + 1) v = cellsOf a n v ++
    (if BitVec.ofNat 8 (v / 256 ^ n) = 0#8 then [] else [(a + n, BitVec.ofNat 8 (v / 256 ^ n))]) := by
  simp only [cellsOf, List.range_succ, List.filterMap_append, List.filterMap_cons, List.filterMap_nil]
  split <;> rename_i h <;> split at h <;> simp_all

theorem cellsOf_byte (a n v i : Nat) (h : i < n) : Memory.byte (cellsOf a n v) (a + i) = BitVec.ofNat 8 (v / 256 ^ i) := by
  induction n with
  | zero => omega
  | succ n ih =>
    rw [cellsOf_succ, Memory.byte_append]
    by_cases hi : i < n
    · by_cases he : ∃ c ∈ cellsOf a n v, c.1 = a + i
      · rw [if_pos he, ih hi]
      · rw [if_neg he, ← ih hi, Memory.byte_none (cellsOf a n v) _ (fun c hc => fun e => he ⟨c, hc, e⟩)]
        split
        · rfl
        · rw [Memory.byte_cons, if_neg (by simp; omega)]; rfl
    · have : i = n := by omega
      subst this
      have : ¬ ∃ c ∈ cellsOf a i v, c.1 = a + i := fun ⟨c, hc, e⟩ => by have := (cellsOf_mem hc).2.1; omega
      rw [if_neg this]
      split
      · rename_i h0; rw [h0]; rfl
      · rw [Memory.byte_cons, if_pos rfl]

/-- A read of one byte after a write (00 R4). -/
theorem Memory.byte_write (m : Memory) (a n v b : Nat) :
    (m.write a n v).byte b = if a ≤ b ∧ b < a + n then BitVec.ofNat 8 (v / 256 ^ (b - a)) else m.byte b := by
  simp only [Memory.write, Memory.byte_append]
  by_cases h1 : b < a
  · have hf := Memory.byte_filter m (fun x => x < a) b (by simpa using h1)
    rw [if_neg (c := a ≤ b ∧ b < a + n) (by omega)]
    split
    · exact hf
    · rename_i hn
      have hb : Memory.byte m b = 0 := by
        rw [← hf]; exact Memory.byte_none _ _ fun c hc e => hn ⟨c, hc, e⟩
      rw [hb]
      split
      · rename_i he; obtain ⟨c, hc, rfl⟩ := he; have := (cellsOf_mem hc).1; omega
      · exact Memory.byte_none _ _ fun c hc => by simp at hc; omega
  · rw [if_neg (by rintro ⟨c, hc, rfl⟩; simp at hc; omega)]
    by_cases h2 : b < a + n
    · rw [if_pos (c := a ≤ b ∧ b < a + n) ⟨by omega, h2⟩]
      have := cellsOf_byte a n v (b - a) (by omega)
      rw [show a + (b - a) = b by omega] at this
      split
      · exact this
      · rename_i hn
        rw [← this, Memory.byte_none (cellsOf a n v) b fun c hc e => hn ⟨c, hc, e⟩]
        exact Memory.byte_none _ _ fun c hc => by simp at hc; omega
    · rw [if_neg (c := a ≤ b ∧ b < a + n) (by omega), if_neg (by rintro ⟨c, hc, rfl⟩; have := (cellsOf_mem hc).2.1; omega)]
      exact Memory.byte_filter m (fun x => a + n ≤ x) b (by simpa using h2)

/-! ### Numbers -/

theorem Memory.wf_nil : Memory.wf [] = true := by simp [Memory.wf]

theorem Memory.wf_cons {c : Host.Cell} {m : Memory} : Memory.wf (c :: m) = true ↔
    (∀ d ∈ m, c.1 < d.1) ∧ c.2 ≠ 0 ∧ Memory.wf m = true := by
  simp only [Memory.wf, List.pairwise_cons, Bool.and_eq_true, decide_eq_true_eq, List.all_cons, bne_iff_ne]
  constructor
  · rintro ⟨⟨a, b⟩, c, d⟩; exact ⟨a, c, b, d⟩
  · rintro ⟨a, c, b, d⟩; exact ⟨⟨a, b⟩, c, d⟩

theorem Memory.wf_filter {m : Memory} (h : m.wf = true) (p : Host.Cell → Bool) : Memory.wf (m.filter p) = true := by
  simp only [Memory.wf, Bool.and_eq_true, decide_eq_true_eq, List.all_eq_true] at *
  exact ⟨h.1.filter p, fun c hc => h.2 c (List.mem_filter.1 hc).1⟩

theorem cellsOf_wf (a n v : Nat) : Memory.wf (cellsOf a n v) = true := by
  simp only [Memory.wf, Bool.and_eq_true, decide_eq_true_eq, List.all_eq_true]
  refine ⟨?_, fun c hc => by simpa using (cellsOf_mem hc).2.2⟩
  induction n with
  | zero => simp [cellsOf]
  | succ n ih =>
    rw [cellsOf_succ, List.pairwise_append]
    refine ⟨ih, by split <;> simp, fun c hc d hd => ?_⟩
    split at hd
    · cases hd
    · simp at hd; subst hd; have := (cellsOf_mem hc).2.1; exact this

/-- A write keeps the canonical form. -/
theorem Memory.wf_write {m : Memory} (h : m.wf = true) (a n v : Nat) : (m.write a n v).wf = true := by
  have hf := fun p => Memory.wf_filter h p
  have hc := cellsOf_wf a n v
  simp only [Memory.wf, Memory.write, Bool.and_eq_true, decide_eq_true_eq, List.all_eq_true, List.pairwise_append] at *
  refine ⟨⟨(hf _).1, ⟨hc.1, (hf _).1, fun c h1 d h2 => ?_⟩, fun c h1 d h2 => ?_⟩, fun c h1 => ?_⟩
  · have := (cellsOf_mem h1).2.1
    simp at h2; omega
  · simp at h1
    rcases List.mem_append.1 h2 with h2 | h2
    · have := (cellsOf_mem h2).1; omega
    · simp at h2; omega
  · rcases List.mem_append.1 h1 with h1 | h1
    · exact (hf _).2 c h1
    · rcases List.mem_append.1 h1 with h1 | h1
      · exact hc.2 c h1
      · exact (hf _).2 c h1

theorem Memory.foldl_add (l : List Host.Cell) (g : Host.Cell → Nat) (n : Nat) :
    l.foldl (fun acc c => acc + g c) n = n + l.foldl (fun acc c => acc + g c) 0 := by
  induction l generalizing n with
  | nil => simp
  | cons c l ih => simp only [List.foldl_cons]; rw [ih, ih (0 + g c)]; omega

/-- A read is the number whose digits are the bytes (00 R4). -/
theorem Memory.read_sum {m : Memory} (h : m.wf = true) (a n : Nat) :
    m.read a n = ∑ i ∈ Finset.range n, (m.byte (a + i)).toNat * 256 ^ i := by
  induction m with
  | nil => simp [Memory.read, Memory.byte_nil]
  | cons c m ih =>
    obtain ⟨h1, h2, h3⟩ := Memory.wf_cons.1 h
    have hz : Memory.byte m c.1 = 0 := Memory.byte_none _ _ fun d hd => by have := h1 d hd; omega
    have hs : ∀ i, (Memory.byte (c :: m) (a + i)).toNat * 256 ^ i =
        (Memory.byte m (a + i)).toNat * 256 ^ i + (if c.1 = a + i then c.2.toNat * 256 ^ i else 0) := by
      intro i
      rw [Memory.byte_cons]
      split
      · rename_i e; rw [← e, hz]; simp
      · simp
    simp only [hs, Finset.sum_add_distrib]
    rw [← ih h3]
    by_cases hc : a ≤ c.1 ∧ c.1 < a + n
    · have : ∑ i ∈ Finset.range n, (if c.1 = a + i then c.2.toNat * 256 ^ i else 0) = c.2.toNat * 256 ^ (c.1 - a) := by
        rw [Finset.sum_eq_single (c.1 - a)]
        · rw [if_pos (by omega)]
        · intro i _ hi; rw [if_neg (by omega)]
        · intro hi; exact absurd (Finset.mem_range.2 (by omega)) hi
      rw [this]
      simp only [Memory.read, List.filter_cons, decide_eq_true_eq, Bool.and_eq_true, hc.1, hc.2, and_self, if_true, List.foldl_cons]
      rw [Memory.foldl_add]; omega
    · have : ∑ i ∈ Finset.range n, (if c.1 = a + i then c.2.toNat * 256 ^ i else 0) = 0 :=
        Finset.sum_eq_zero fun i hi => if_neg (by have := Finset.mem_range.1 hi; omega)
      rw [this]
      simp only [Memory.read, List.filter_cons, decide_eq_true_eq, Bool.and_eq_true, hc, if_false, Nat.add_zero]

theorem digits_lt (d : Nat → BitVec 8) (n : Nat) : ∑ i ∈ Finset.range n, (d i).toNat * 256 ^ i < 256 ^ n := by
  induction n with
  | zero => simp
  | succ n ih =>
    rw [Finset.sum_range_succ, Nat.pow_succ]
    have : (d n).toNat ≤ 255 := by have := (d n).isLt; omega
    nlinarith [Nat.mul_le_mul_right (256 ^ n) this]

/-- A field of whole bytes of a read is the read of those bytes. -/
theorem Memory.read_field {m : Memory} (h : m.wf = true) (a n j k : Nat) (hn : j + k ≤ n) :
    m.read a n / 256 ^ j % 256 ^ k = m.read (a + j) k := by
  rw [Memory.read_sum h, Memory.read_sum h]
  obtain ⟨r, rfl⟩ := Nat.exists_eq_add_of_le hn
  rw [Finset.sum_range_add, Finset.sum_range_add]
  have e1 : ∀ i, (m.byte (a + (j + i))).toNat * 256 ^ (j + i) = 256 ^ j * ((m.byte (a + j + i)).toNat * 256 ^ i) := fun i => by
    rw [Nat.pow_add, Nat.add_assoc]; ring
  have e2 : ∀ i, (m.byte (a + (j + k + i))).toNat * 256 ^ (j + k + i) = 256 ^ j * (256 ^ k * ((m.byte (a + (j + k + i))).toNat * 256 ^ i)) := fun i => by
    rw [Nat.pow_add, Nat.pow_add]; ring
  simp only [e1, e2, ← Finset.mul_sum]
  have l1 := digits_lt (fun i => m.byte (a + i)) j
  have l2 := digits_lt (fun i => m.byte (a + j + i)) k
  rw [show ∀ x y z : Nat, x + 256 ^ j * y + 256 ^ j * z = x + 256 ^ j * (y + z) by intros; ring,
    Nat.add_mul_div_left _ _ (by positivity), Nat.div_eq_of_lt l1, Nat.zero_add, Nat.add_mul_mod_self_left, Nat.mod_eq_of_lt l2]

theorem Memory.read_lt {m : Memory} (h : m.wf = true) (a n : Nat) : m.read a n < 256 ^ n := by
  rw [Memory.read_sum h]; exact digits_lt (fun i => m.byte (a + i)) n

end Sys2Proof.Machine
end

