-- ==== Sys2Proof/Laws/PerInstr.lean ====
section
/-! SUPPORT. Facts about single instructions as syntax: the word that encode gives an instruction lies in 30 bits and decodes
to that instruction, whatever its bundle's L and S bits (07 R150). -/

namespace Sys2Proof.Laws

/-! ### The pieces of a word -/

theorem Operand.code_lt (o : Operand) : o.code < 256 := by
  cases o with
  | g n => have := n.isLt; simp only [Operand.code]; omega
  | h n => have := n.isLt; simp only [Operand.code]; omega
  | k n => have := n.isLt; simp only [Operand.code]; omega
  | q n => have := n.isLt; simp only [Operand.code]; omega
  | _ => decide

/-- Each operand code names its operand (03 R56). -/
theorem decOperand_code (o : Operand) : decOperand o.code = some o := by
  cases o with
  | g n => revert n; decide
  | h n => revert n; decide
  | k n => revert n; decide
  | q n => revert n; decide
  | _ => decide

theorem Ty.code_lt (t : Ty) : t.code < 15 := by cases t <;> decide
theorem decTy_code (t : Ty) : decTy t.code = some t := by cases t <;> rfl
theorem RMode.code_lt (r : RMode) : r.code < 4 := by cases r <;> decide
theorem CycKind.code_lt (k : CycKind) : k.code < 5 := by cases k <;> decide

variable {w lo : Nat}

theorem opAt_code {o : Operand} (h : fld w lo 8 = o.code) : opAt w lo = .ok o := by
  simp [opAt, h, decOperand_code]

theorem gAt_code {a : Fin 128} (h : fld w lo 8 = a.val) : gAt w lo = .ok a := by
  have := a.isLt
  simp only [gAt, h, if_pos this]
  exact congrArg _ (Fin.ext (Nat.mod_eq_of_lt this))

theorem tyAt_code {t : Ty} (h : fld w lo 4 = t.code) : tyAt w lo = .ok t := by
  simp [tyAt, h, decTy_code]

theorem finAt_eq {n : Nat} [NeZero n] {b : Nat} {v : Fin n} (h : fld w lo b = v.val) : finAt n w lo b = v := by
  simp only [finAt, h]
  exact Fin.ext (Nat.mod_eq_of_lt v.isLt)

theorem ofNat_eq {k b : Nat} {v : BitVec k} (h : fld w lo b = v.toNat) : BitVec.ofNat k (fld w lo b) = v := by
  rw [h]; simp

theorem decRm_code {r : RMode} (h : fld w lo 2 = r.code) : decRm (fld w lo 2) = r := by
  rw [h]; cases r <;> rfl

theorem decCyc_code {k : CycKind} (h : fld w lo 3 = k.code) : decCyc (fld w lo 3) = some k := by
  rw [h]; cases k <;> rfl

theorem bool_eq {b : Bool} (h : fld w lo 1 = b.toNat) : (fld w lo 1 == 1) = b := by
  rw [h]; cases b <;> rfl

/-- A word with its bundle's bits (07 R150). -/
abbrev flags (l m : Bool) (w : Nat) : Nat := l.toNat * 2 ^ 31 + m.toNat * 2 ^ 30 + w

/-! ### The round trip, by instruction -/

/-- The word of an instruction fits below bit 30, and decodes to it under any L and S bits. -/
def RoundTrip.Statement (i : Instr) : Prop :=
  ∀ w, encode i = some w → w < 2 ^ 30 ∧ ∀ l m, decode (flags l m w) = .ok i

theorem RoundTrip.of_event {i : Instr} (h : encode i = none) : RoundTrip.Statement i := fun w hw => by simp [h] at hw

theorem RoundTrip.of_code {i : Instr} {w : Nat} (h : encode i = some w) (hw : w < 2 ^ 30)
    (hd : ∀ l m, decode (flags l m w) = .ok i) : RoundTrip.Statement i := fun v hv => by
  rw [h] at hv; injection hv with hv; subst hv; exact ⟨hw, hd⟩

theorem RoundTrip.bool_lt (b : Bool) : b.toNat < 2 := by cases b <;> decide

theorem RoundTrip.waitx_all (a : Operand) : ∀ c : Fin 4, RoundTrip.Statement (.waitx a c) := by
  have ha := Operand.code_lt a
  intro c
  have hc := c.isLt
  refine RoundTrip.of_code rfl (by simp only [w3, wd]; omega) fun l m => ?_
  have hl := RoundTrip.bool_lt l; have hm := RoundTrip.bool_lt m
  generalize hW : flags l m _ = W
  simp only [flags, w3, wd] at hW
  have e0 : fld W 29 1 = 0 := by simp only [fld]; omega
  have e1 : fld W 24 6 = 0 := by simp only [fld]; omega
  have f0 : fld W 0 8 = 0x10 + c.val := by simp only [fld]; omega
  have f1 : fld W 16 8 = 0 := by simp only [fld]; omega
  have f2 : opAt W 8 = .ok a := opAt_code (by simp only [fld]; omega)
  clear hW
  match c with
  | 0 => simp only [decode, decC, decCtl, zeroAt, e0, e1, f0, f1, f2]; rfl
  | 1 => simp only [decode, decC, decCtl, zeroAt, e0, e1, f0, f1, f2]; rfl
  | 2 => simp only [decode, decC, decCtl, zeroAt, e0, e1, f0, f1, f2]; rfl
  | 3 => simp only [decode, decC, decCtl, zeroAt, e0, e1, f0, f1, f2]; rfl

theorem RoundTrip.vlane_all (d : Operand) (t : Ty) : RoundTrip.Statement (.vlane d t) := by
  have hd := Operand.code_lt d; have ht := Ty.code_lt t
  refine RoundTrip.of_code rfl (by simp only [w3, wd]; omega) fun l m => ?_
  have hl := RoundTrip.bool_lt l; have hm := RoundTrip.bool_lt m
  generalize hW : flags l m _ = W
  simp only [flags, w3, wd] at hW
  have e0 : fld W 29 1 = 1 := by simp only [fld]; omega
  have e1 : fld W 24 6 = 0x34 := by simp only [fld]; omega
  have f0 : fld W 0 8 = 0x20 + t.code := by simp only [fld]; omega
  have f1 : fld W 8 8 = 0 := by simp only [fld]; omega
  have f2 : opAt W 16 = .ok d := opAt_code (by simp only [fld]; omega)
  have f3 : tyAt W 0 = .ok t := tyAt_code (by simp only [fld]; omega)
  clear hW
  cases t <;> simp only [decode, decA, decUn, decVlane, zeroAt, Ty.code, e0, e1, f0, f1, f2, f3] <;> rfl

theorem RoundTrip.nop : RoundTrip.Statement (.nop) := by
  refine RoundTrip.of_code rfl (by simp only [w3, wd]; omega) fun l m => ?_
  have hl := RoundTrip.bool_lt l; have hm := RoundTrip.bool_lt m
  generalize hW : flags l m _ = W
  simp only [flags, w3, wd] at hW
  have e0 : fld W 29 1 = 0 := by simp only [fld]; omega
  have e1 : fld W 24 6 = 0 := by simp only [fld]; omega
  have f0 : fld W 0 8 = 0 := by simp only [fld]; omega
  have f1 : fld W 8 16 = 0 := by simp only [fld]; omega
  simp only [decode, decC, decCtl, zeroAt, e0, e1, f0, f1]
  rfl

theorem RoundTrip.ksync : RoundTrip.Statement (.ksync) := by
  refine RoundTrip.of_code rfl (by simp only [w3, wd]; omega) fun l m => ?_
  have hl := RoundTrip.bool_lt l; have hm := RoundTrip.bool_lt m
  generalize hW : flags l m _ = W
  simp only [flags, w3, wd] at hW
  have e0 : fld W 29 1 = 0 := by simp only [fld]; omega
  have e1 : fld W 24 6 = 0 := by simp only [fld]; omega
  have f0 : fld W 0 8 = 1 := by simp only [fld]; omega
  have f1 : fld W 8 16 = 0 := by simp only [fld]; omega
  simp only [decode, decC, decCtl, zeroAt, e0, e1, f0, f1]
  rfl

theorem RoundTrip.idle : RoundTrip.Statement (.idle) := by
  refine RoundTrip.of_code rfl (by simp only [w3, wd]; omega) fun l m => ?_
  have hl := RoundTrip.bool_lt l; have hm := RoundTrip.bool_lt m
  generalize hW : flags l m _ = W
  simp only [flags, w3, wd] at hW
  have e0 : fld W 29 1 = 0 := by simp only [fld]; omega
  have e1 : fld W 24 6 = 0 := by simp only [fld]; omega
  have f0 : fld W 0 8 = 2 := by simp only [fld]; omega
  have f1 : fld W 8 16 = 0 := by simp only [fld]; omega
  simp only [decode, decC, decCtl, zeroAt, e0, e1, f0, f1]
  rfl

theorem RoundTrip.endThread : RoundTrip.Statement (.endThread) := by
  refine RoundTrip.of_code rfl (by simp only [w3, wd]; omega) fun l m => ?_
  have hl := RoundTrip.bool_lt l; have hm := RoundTrip.bool_lt m
  generalize hW : flags l m _ = W
  simp only [flags, w3, wd] at hW
  have e0 : fld W 29 1 = 0 := by simp only [fld]; omega
  have e1 : fld W 24 6 = 0 := by simp only [fld]; omega
  have f0 : fld W 0 8 = 3 := by simp only [fld]; omega
  have f1 : fld W 8 16 = 0 := by simp only [fld]; omega
  simp only [decode, decC, decCtl, zeroAt, e0, e1, f0, f1]
  rfl

theorem RoundTrip.ret : RoundTrip.Statement (.ret) := by
  refine RoundTrip.of_code rfl (by simp only [w3, wd]; omega) fun l m => ?_
  have hl := RoundTrip.bool_lt l; have hm := RoundTrip.bool_lt m
  generalize hW : flags l m _ = W
  simp only [flags, w3, wd] at hW
  have e0 : fld W 29 1 = 0 := by simp only [fld]; omega
  have e1 : fld W 24 6 = 0 := by simp only [fld]; omega
  have f0 : fld W 0 8 = 4 := by simp only [fld]; omega
  have f1 : fld W 8 16 = 0 := by simp only [fld]; omega
  simp only [decode, decC, decCtl, zeroAt, e0, e1, f0, f1]
  rfl

theorem RoundTrip.jmpr (x0 : Operand) : RoundTrip.Statement (.jmpr x0) := by
  have hx0 := Operand.code_lt x0
  refine RoundTrip.of_code rfl (by simp only [w3, wd]; omega) fun l m => ?_
  have hl := RoundTrip.bool_lt l; have hm := RoundTrip.bool_lt m
  generalize hW : flags l m _ = W
  simp only [flags, w3, wd] at hW
  have e0 : fld W 29 1 = 0 := by simp only [fld]; omega
  have e1 : fld W 24 6 = 0 := by simp only [fld]; omega
  have f0 : fld W 0 8 = 5 := by simp only [fld]; omega
  have f1 : fld W 16 8 = 0 := by simp only [fld]; omega
  have f2 : opAt W 8 = .ok x0 := opAt_code (by simp only [fld]; omega)
  simp only [decode, decC, decCtl, zeroAt, e0, e1, f0, f1, f2]
  rfl

theorem RoundTrip.callr (x0 : Operand) : RoundTrip.Statement (.callr x0) := by
  have hx0 := Operand.code_lt x0
  refine RoundTrip.of_code rfl (by simp only [w3, wd]; omega) fun l m => ?_
  have hl := RoundTrip.bool_lt l; have hm := RoundTrip.bool_lt m
  generalize hW : flags l m _ = W
  simp only [flags, w3, wd] at hW
  have e0 : fld W 29 1 = 0 := by simp only [fld]; omega
  have e1 : fld W 24 6 = 0 := by simp only [fld]; omega
  have f0 : fld W 0 8 = 6 := by simp only [fld]; omega
  have f1 : fld W 16 8 = 0 := by simp only [fld]; omega
  have f2 : opAt W 8 = .ok x0 := opAt_code (by simp only [fld]; omega)
  simp only [decode, decC, decCtl, zeroAt, e0, e1, f0, f1, f2]
  rfl

theorem RoundTrip.forkr (x0 : Operand) : RoundTrip.Statement (.forkr x0) := by
  have hx0 := Operand.code_lt x0
  refine RoundTrip.of_code rfl (by simp only [w3, wd]; omega) fun l m => ?_
  have hl := RoundTrip.bool_lt l; have hm := RoundTrip.bool_lt m
  generalize hW : flags l m _ = W
  simp only [flags, w3, wd] at hW
  have e0 : fld W 29 1 = 0 := by simp only [fld]; omega
  have e1 : fld W 24 6 = 0 := by simp only [fld]; omega
  have f0 : fld W 0 8 = 7 := by simp only [fld]; omega
  have f1 : fld W 16 8 = 0 := by simp only [fld]; omega
  have f2 : opAt W 8 = .ok x0 := opAt_code (by simp only [fld]; omega)
  simp only [decode, decC, decCtl, zeroAt, e0, e1, f0, f1, f2]
  rfl

theorem RoundTrip.join (x0 : Operand) : RoundTrip.Statement (.join x0) := by
  have hx0 := Operand.code_lt x0
  refine RoundTrip.of_code rfl (by simp only [w3, wd]; omega) fun l m => ?_
  have hl := RoundTrip.bool_lt l; have hm := RoundTrip.bool_lt m
  generalize hW : flags l m _ = W
  simp only [flags, w3, wd] at hW
  have e0 : fld W 29 1 = 0 := by simp only [fld]; omega
  have e1 : fld W 24 6 = 0 := by simp only [fld]; omega
  have f0 : fld W 0 8 = 8 := by simp only [fld]; omega
  have f1 : fld W 16 8 = 0 := by simp only [fld]; omega
  have f2 : opAt W 8 = .ok x0 := opAt_code (by simp only [fld]; omega)
  simp only [decode, decC, decCtl, zeroAt, e0, e1, f0, f1, f2]
  rfl

theorem RoundTrip.rdw (x0 : Operand) (x1 : Fin 128) : RoundTrip.Statement (.rdw x0 x1) := by
  have hx0 := Operand.code_lt x0; have hx1 := x1.isLt
  refine RoundTrip.of_code rfl (by simp only [w3, wd]; omega) fun l m => ?_
  have hl := RoundTrip.bool_lt l; have hm := RoundTrip.bool_lt m
  generalize hW : flags l m _ = W
  simp only [flags, w3, wd] at hW
  have e0 : fld W 29 1 = 0 := by simp only [fld]; omega
  have e1 : fld W 24 6 = 0 := by simp only [fld]; omega
  have f0 : fld W 0 8 = 9 := by simp only [fld]; omega
  have f1 : opAt W 16 = .ok x0 := opAt_code (by simp only [fld]; omega)
  have f2 : gAt W 8 = .ok x1 := gAt_code (by simp only [fld]; omega)
  simp only [decode, decC, decCtl, e0, e1, f0, f1, f2]
  rfl

theorem RoundTrip.rdwc (x0 : Operand) (x1 : Fin 128) : RoundTrip.Statement (.rdwc x0 x1) := by
  have hx0 := Operand.code_lt x0; have hx1 := x1.isLt
  refine RoundTrip.of_code rfl (by simp only [w3, wd]; omega) fun l m => ?_
  have hl := RoundTrip.bool_lt l; have hm := RoundTrip.bool_lt m
  generalize hW : flags l m _ = W
  simp only [flags, w3, wd] at hW
  have e0 : fld W 29 1 = 0 := by simp only [fld]; omega
  have e1 : fld W 24 6 = 0 := by simp only [fld]; omega
  have f0 : fld W 0 8 = 10 := by simp only [fld]; omega
  have f1 : opAt W 16 = .ok x0 := opAt_code (by simp only [fld]; omega)
  have f2 : gAt W 8 = .ok x1 := gAt_code (by simp only [fld]; omega)
  simp only [decode, decC, decCtl, e0, e1, f0, f1, f2]
  rfl

theorem RoundTrip.trap (x0 : Operand) : RoundTrip.Statement (.trap x0) := by
  have hx0 := Operand.code_lt x0
  refine RoundTrip.of_code rfl (by simp only [w3, wd]; omega) fun l m => ?_
  have hl := RoundTrip.bool_lt l; have hm := RoundTrip.bool_lt m
  generalize hW : flags l m _ = W
  simp only [flags, w3, wd] at hW
  have e0 : fld W 29 1 = 0 := by simp only [fld]; omega
  have e1 : fld W 24 6 = 0 := by simp only [fld]; omega
  have f0 : fld W 0 8 = 11 := by simp only [fld]; omega
  have f1 : fld W 16 8 = 0 := by simp only [fld]; omega
  have f2 : opAt W 8 = .ok x0 := opAt_code (by simp only [fld]; omega)
  simp only [decode, decC, decCtl, zeroAt, e0, e1, f0, f1, f2]
  rfl

theorem RoundTrip.fenceb : RoundTrip.Statement (.fenceb) := by
  refine RoundTrip.of_code rfl (by simp only [w3, wd]; omega) fun l m => ?_
  have hl := RoundTrip.bool_lt l; have hm := RoundTrip.bool_lt m
  generalize hW : flags l m _ = W
  simp only [flags, w3, wd] at hW
  have e0 : fld W 29 1 = 0 := by simp only [fld]; omega
  have e1 : fld W 24 6 = 0 := by simp only [fld]; omega
  have f0 : fld W 0 8 = 12 := by simp only [fld]; omega
  have f1 : fld W 8 16 = 0 := by simp only [fld]; omega
  simp only [decode, decC, decCtl, zeroAt, e0, e1, f0, f1]
  rfl

theorem RoundTrip.snap (x0 : Operand) : RoundTrip.Statement (.snap x0) := by
  have hx0 := Operand.code_lt x0
  refine RoundTrip.of_code rfl (by simp only [w3, wd]; omega) fun l m => ?_
  have hl := RoundTrip.bool_lt l; have hm := RoundTrip.bool_lt m
  generalize hW : flags l m _ = W
  simp only [flags, w3, wd] at hW
  have e0 : fld W 29 1 = 0 := by simp only [fld]; omega
  have e1 : fld W 24 6 = 0 := by simp only [fld]; omega
  have f0 : fld W 0 8 = 13 := by simp only [fld]; omega
  have f1 : fld W 16 8 = 0 := by simp only [fld]; omega
  have f2 : opAt W 8 = .ok x0 := opAt_code (by simp only [fld]; omega)
  simp only [decode, decC, decCtl, zeroAt, e0, e1, f0, f1, f2]
  rfl

theorem RoundTrip.yield : RoundTrip.Statement (.yield) := by
  refine RoundTrip.of_code rfl (by simp only [w3, wd]; omega) fun l m => ?_
  have hl := RoundTrip.bool_lt l; have hm := RoundTrip.bool_lt m
  generalize hW : flags l m _ = W
  simp only [flags, w3, wd] at hW
  have e0 : fld W 29 1 = 0 := by simp only [fld]; omega
  have e1 : fld W 24 6 = 0 := by simp only [fld]; omega
  have f0 : fld W 0 8 = 14 := by simp only [fld]; omega
  have f1 : fld W 8 16 = 0 := by simp only [fld]; omega
  simp only [decode, decC, decCtl, zeroAt, e0, e1, f0, f1]
  rfl

theorem RoundTrip.waitx (x0 : Operand) (x1 : Fin 4) : RoundTrip.Statement (.waitx x0 x1) := by
  revert x1
  exact RoundTrip.waitx_all x0

theorem RoundTrip.br (x0 : Fin 512) : RoundTrip.Statement (.br x0) := by
  have hx0 := x0.isLt
  refine RoundTrip.of_code rfl (by simp only [wB, wd]; omega) fun l m => ?_
  have hl := RoundTrip.bool_lt l; have hm := RoundTrip.bool_lt m
  generalize hW : flags l m _ = W
  simp only [flags, wB, wd] at hW
  have e0 : fld W 29 1 = 0 := by simp only [fld]; omega
  have e1 : fld W 24 6 = 1 := by simp only [fld]; omega
  have f0 : fld W 9 3 = 0 := by simp only [fld]; omega
  have f1 : fld W 12 4 = 0 := by simp only [fld]; omega
  have f2 : fld W 16 8 = 0 := by simp only [fld]; omega
  have f3 : finAt 512 W 0 9 = x0 := finAt_eq (by simp only [fld]; omega)
  simp only [decode, decC, decBr, zeroAt, e0, e1, f0, f1, f2, f3]
  rfl

theorem RoundTrip.beqz (x0 : Operand) (x1 : Fin 512) : RoundTrip.Statement (.beqz x0 x1) := by
  have hx0 := Operand.code_lt x0; have hx1 := x1.isLt
  refine RoundTrip.of_code rfl (by simp only [wB, wd]; omega) fun l m => ?_
  have hl := RoundTrip.bool_lt l; have hm := RoundTrip.bool_lt m
  generalize hW : flags l m _ = W
  simp only [flags, wB, wd] at hW
  have e0 : fld W 29 1 = 0 := by simp only [fld]; omega
  have e1 : fld W 24 6 = 1 := by simp only [fld]; omega
  have f0 : fld W 9 3 = 0 := by simp only [fld]; omega
  have f1 : fld W 12 4 = 1 := by simp only [fld]; omega
  have f2 : opAt W 16 = .ok x0 := opAt_code (by simp only [fld]; omega)
  have f3 : finAt 512 W 0 9 = x1 := finAt_eq (by simp only [fld]; omega)
  simp only [decode, decC, decBr, zeroAt, e0, e1, f0, f1, f2, f3]
  rfl

theorem RoundTrip.bnez (x0 : Operand) (x1 : Fin 512) : RoundTrip.Statement (.bnez x0 x1) := by
  have hx0 := Operand.code_lt x0; have hx1 := x1.isLt
  refine RoundTrip.of_code rfl (by simp only [wB, wd]; omega) fun l m => ?_
  have hl := RoundTrip.bool_lt l; have hm := RoundTrip.bool_lt m
  generalize hW : flags l m _ = W
  simp only [flags, wB, wd] at hW
  have e0 : fld W 29 1 = 0 := by simp only [fld]; omega
  have e1 : fld W 24 6 = 1 := by simp only [fld]; omega
  have f0 : fld W 9 3 = 0 := by simp only [fld]; omega
  have f1 : fld W 12 4 = 2 := by simp only [fld]; omega
  have f2 : opAt W 16 = .ok x0 := opAt_code (by simp only [fld]; omega)
  have f3 : finAt 512 W 0 9 = x1 := finAt_eq (by simp only [fld]; omega)
  simp only [decode, decC, decBr, zeroAt, e0, e1, f0, f1, f2, f3]
  rfl

theorem RoundTrip.bltz (x0 : Operand) (x1 : Fin 512) : RoundTrip.Statement (.bltz x0 x1) := by
  have hx0 := Operand.code_lt x0; have hx1 := x1.isLt
  refine RoundTrip.of_code rfl (by simp only [wB, wd]; omega) fun l m => ?_
  have hl := RoundTrip.bool_lt l; have hm := RoundTrip.bool_lt m
  generalize hW : flags l m _ = W
  simp only [flags, wB, wd] at hW
  have e0 : fld W 29 1 = 0 := by simp only [fld]; omega
  have e1 : fld W 24 6 = 1 := by simp only [fld]; omega
  have f0 : fld W 9 3 = 0 := by simp only [fld]; omega
  have f1 : fld W 12 4 = 3 := by simp only [fld]; omega
  have f2 : opAt W 16 = .ok x0 := opAt_code (by simp only [fld]; omega)
  have f3 : finAt 512 W 0 9 = x1 := finAt_eq (by simp only [fld]; omega)
  simp only [decode, decC, decBr, zeroAt, e0, e1, f0, f1, f2, f3]
  rfl

theorem RoundTrip.bgez (x0 : Operand) (x1 : Fin 512) : RoundTrip.Statement (.bgez x0 x1) := by
  have hx0 := Operand.code_lt x0; have hx1 := x1.isLt
  refine RoundTrip.of_code rfl (by simp only [wB, wd]; omega) fun l m => ?_
  have hl := RoundTrip.bool_lt l; have hm := RoundTrip.bool_lt m
  generalize hW : flags l m _ = W
  simp only [flags, wB, wd] at hW
  have e0 : fld W 29 1 = 0 := by simp only [fld]; omega
  have e1 : fld W 24 6 = 1 := by simp only [fld]; omega
  have f0 : fld W 9 3 = 0 := by simp only [fld]; omega
  have f1 : fld W 12 4 = 4 := by simp only [fld]; omega
  have f2 : opAt W 16 = .ok x0 := opAt_code (by simp only [fld]; omega)
  have f3 : finAt 512 W 0 9 = x1 := finAt_eq (by simp only [fld]; omega)
  simp only [decode, decC, decBr, zeroAt, e0, e1, f0, f1, f2, f3]
  rfl

theorem RoundTrip.bgtz (x0 : Operand) (x1 : Fin 512) : RoundTrip.Statement (.bgtz x0 x1) := by
  have hx0 := Operand.code_lt x0; have hx1 := x1.isLt
  refine RoundTrip.of_code rfl (by simp only [wB, wd]; omega) fun l m => ?_
  have hl := RoundTrip.bool_lt l; have hm := RoundTrip.bool_lt m
  generalize hW : flags l m _ = W
  simp only [flags, wB, wd] at hW
  have e0 : fld W 29 1 = 0 := by simp only [fld]; omega
  have e1 : fld W 24 6 = 1 := by simp only [fld]; omega
  have f0 : fld W 9 3 = 0 := by simp only [fld]; omega
  have f1 : fld W 12 4 = 5 := by simp only [fld]; omega
  have f2 : opAt W 16 = .ok x0 := opAt_code (by simp only [fld]; omega)
  have f3 : finAt 512 W 0 9 = x1 := finAt_eq (by simp only [fld]; omega)
  simp only [decode, decC, decBr, zeroAt, e0, e1, f0, f1, f2, f3]
  rfl

theorem RoundTrip.blez (x0 : Operand) (x1 : Fin 512) : RoundTrip.Statement (.blez x0 x1) := by
  have hx0 := Operand.code_lt x0; have hx1 := x1.isLt
  refine RoundTrip.of_code rfl (by simp only [wB, wd]; omega) fun l m => ?_
  have hl := RoundTrip.bool_lt l; have hm := RoundTrip.bool_lt m
  generalize hW : flags l m _ = W
  simp only [flags, wB, wd] at hW
  have e0 : fld W 29 1 = 0 := by simp only [fld]; omega
  have e1 : fld W 24 6 = 1 := by simp only [fld]; omega
  have f0 : fld W 9 3 = 0 := by simp only [fld]; omega
  have f1 : fld W 12 4 = 6 := by simp only [fld]; omega
  have f2 : opAt W 16 = .ok x0 := opAt_code (by simp only [fld]; omega)
  have f3 : finAt 512 W 0 9 = x1 := finAt_eq (by simp only [fld]; omega)
  simp only [decode, decC, decBr, zeroAt, e0, e1, f0, f1, f2, f3]
  rfl

theorem RoundTrip.bfull (x0 : Fin 128) (x1 : Fin 512) : RoundTrip.Statement (.bfull x0 x1) := by
  have hx0 := x0.isLt; have hx1 := x1.isLt
  refine RoundTrip.of_code rfl (by simp only [wB, wd]; omega) fun l m => ?_
  have hl := RoundTrip.bool_lt l; have hm := RoundTrip.bool_lt m
  generalize hW : flags l m _ = W
  simp only [flags, wB, wd] at hW
  have e0 : fld W 29 1 = 0 := by simp only [fld]; omega
  have e1 : fld W 24 6 = 1 := by simp only [fld]; omega
  have f0 : fld W 9 3 = 0 := by simp only [fld]; omega
  have f1 : fld W 12 4 = 7 := by simp only [fld]; omega
  have f2 : gAt W 16 = .ok x0 := gAt_code (by simp only [fld]; omega)
  have f3 : finAt 512 W 0 9 = x1 := finAt_eq (by simp only [fld]; omega)
  simp only [decode, decC, decBr, zeroAt, e0, e1, f0, f1, f2, f3]
  rfl

theorem RoundTrip.bempty (x0 : Fin 128) (x1 : Fin 512) : RoundTrip.Statement (.bempty x0 x1) := by
  have hx0 := x0.isLt; have hx1 := x1.isLt
  refine RoundTrip.of_code rfl (by simp only [wB, wd]; omega) fun l m => ?_
  have hl := RoundTrip.bool_lt l; have hm := RoundTrip.bool_lt m
  generalize hW : flags l m _ = W
  simp only [flags, wB, wd] at hW
  have e0 : fld W 29 1 = 0 := by simp only [fld]; omega
  have e1 : fld W 24 6 = 1 := by simp only [fld]; omega
  have f0 : fld W 9 3 = 0 := by simp only [fld]; omega
  have f1 : fld W 12 4 = 8 := by simp only [fld]; omega
  have f2 : gAt W 16 = .ok x0 := gAt_code (by simp only [fld]; omega)
  have f3 : finAt 512 W 0 9 = x1 := finAt_eq (by simp only [fld]; omega)
  simp only [decode, decC, decBr, zeroAt, e0, e1, f0, f1, f2, f3]
  rfl

theorem RoundTrip.jmp (x0 : Fin 16) (x1 : BitVec 20) : RoundTrip.Statement (.jmp x0 x1) := by
  have hx0 := x0.isLt; have hx1 := x1.isLt
  refine RoundTrip.of_code rfl (by simp only [wJ, wd]; omega) fun l m => ?_
  have hl := RoundTrip.bool_lt l; have hm := RoundTrip.bool_lt m
  generalize hW : flags l m _ = W
  simp only [flags, wJ, wd] at hW
  have e0 : fld W 29 1 = 0 := by simp only [fld]; omega
  have e1 : fld W 24 6 = 2 := by simp only [fld]; omega
  have f0 : finAt 16 W 20 4 = x0 := finAt_eq (by simp only [fld]; omega)
  have f1 : BitVec.ofNat 20 (fld W 0 20) = x1 := ofNat_eq (by simp only [fld]; omega)
  simp only [decode, decC, e0, e1, f0, f1]
  rfl

theorem RoundTrip.call (x0 : Fin 16) (x1 : BitVec 20) : RoundTrip.Statement (.call x0 x1) := by
  have hx0 := x0.isLt; have hx1 := x1.isLt
  refine RoundTrip.of_code rfl (by simp only [wJ, wd]; omega) fun l m => ?_
  have hl := RoundTrip.bool_lt l; have hm := RoundTrip.bool_lt m
  generalize hW : flags l m _ = W
  simp only [flags, wJ, wd] at hW
  have e0 : fld W 29 1 = 0 := by simp only [fld]; omega
  have e1 : fld W 24 6 = 3 := by simp only [fld]; omega
  have f0 : finAt 16 W 20 4 = x0 := finAt_eq (by simp only [fld]; omega)
  have f1 : BitVec.ofNat 20 (fld W 0 20) = x1 := ofNat_eq (by simp only [fld]; omega)
  simp only [decode, decC, e0, e1, f0, f1]
  rfl

theorem RoundTrip.fork (x0 : Fin 16) (x1 : BitVec 20) : RoundTrip.Statement (.fork x0 x1) := by
  have hx0 := x0.isLt; have hx1 := x1.isLt
  refine RoundTrip.of_code rfl (by simp only [wJ, wd]; omega) fun l m => ?_
  have hl := RoundTrip.bool_lt l; have hm := RoundTrip.bool_lt m
  generalize hW : flags l m _ = W
  simp only [flags, wJ, wd] at hW
  have e0 : fld W 29 1 = 0 := by simp only [fld]; omega
  have e1 : fld W 24 6 = 4 := by simp only [fld]; omega
  have f0 : finAt 16 W 20 4 = x0 := finAt_eq (by simp only [fld]; omega)
  have f1 : BitVec.ofNat 20 (fld W 0 20) = x1 := ofNat_eq (by simp only [fld]; omega)
  simp only [decode, decC, e0, e1, f0, f1]
  rfl

theorem RoundTrip.send (x0 : Operand) (x1 : Operand) : RoundTrip.Statement (.send x0 x1) := by
  have hx0 := Operand.code_lt x0; have hx1 := Operand.code_lt x1
  refine RoundTrip.of_code rfl (by simp only [w3, wd]; omega) fun l m => ?_
  have hl := RoundTrip.bool_lt l; have hm := RoundTrip.bool_lt m
  generalize hW : flags l m _ = W
  simp only [flags, w3, wd] at hW
  have e0 : fld W 29 1 = 0 := by simp only [fld]; omega
  have e1 : fld W 24 6 = 5 := by simp only [fld]; omega
  have f0 : fld W 0 8 = 0 := by simp only [fld]; omega
  have f1 : opAt W 16 = .ok x0 := opAt_code (by simp only [fld]; omega)
  have f2 : opAt W 8 = .ok x1 := opAt_code (by simp only [fld]; omega)
  simp only [decode, decC, decSend, zeroAt, e0, e1, f0, f1, f2]
  rfl

theorem RoundTrip.sendu (x0 : Operand) (x1 : Operand) : RoundTrip.Statement (.sendu x0 x1) := by
  have hx0 := Operand.code_lt x0; have hx1 := Operand.code_lt x1
  refine RoundTrip.of_code rfl (by simp only [w3, wd]; omega) fun l m => ?_
  have hl := RoundTrip.bool_lt l; have hm := RoundTrip.bool_lt m
  generalize hW : flags l m _ = W
  simp only [flags, w3, wd] at hW
  have e0 : fld W 29 1 = 0 := by simp only [fld]; omega
  have e1 : fld W 24 6 = 5 := by simp only [fld]; omega
  have f0 : fld W 0 8 = 1 := by simp only [fld]; omega
  have f1 : opAt W 16 = .ok x0 := opAt_code (by simp only [fld]; omega)
  have f2 : opAt W 8 = .ok x1 := opAt_code (by simp only [fld]; omega)
  simp only [decode, decC, decSend, e0, e1, f0, f1, f2]
  rfl

theorem RoundTrip.csrrd (x0 : Operand) (x1 : BitVec 12) : RoundTrip.Statement (.csrrd x0 x1) := by
  have hx0 := Operand.code_lt x0; have hx1 := x1.isLt
  refine RoundTrip.of_code rfl (by simp only [wd]; omega) fun l m => ?_
  have hl := RoundTrip.bool_lt l; have hm := RoundTrip.bool_lt m
  generalize hW : flags l m _ = W
  simp only [flags, wd] at hW
  have e0 : fld W 29 1 = 0 := by simp only [fld]; omega
  have e1 : fld W 24 6 = 6 := by simp only [fld]; omega
  have f0 : fld W 12 4 = 0 := by simp only [fld]; omega
  have f1 : opAt W 16 = .ok x0 := opAt_code (by simp only [fld]; omega)
  have f2 : BitVec.ofNat 12 (fld W 0 12) = x1 := ofNat_eq (by simp only [fld]; omega)
  simp only [decode, decC, decCsr, zeroAt, e0, e1, f0, f1, f2]
  rfl

theorem RoundTrip.csrwr (x0 : Operand) (x1 : BitVec 12) : RoundTrip.Statement (.csrwr x0 x1) := by
  have hx0 := Operand.code_lt x0; have hx1 := x1.isLt
  refine RoundTrip.of_code rfl (by simp only [wd]; omega) fun l m => ?_
  have hl := RoundTrip.bool_lt l; have hm := RoundTrip.bool_lt m
  generalize hW : flags l m _ = W
  simp only [flags, wd] at hW
  have e0 : fld W 29 1 = 0 := by simp only [fld]; omega
  have e1 : fld W 24 6 = 6 := by simp only [fld]; omega
  have f0 : fld W 12 4 = 1 := by simp only [fld]; omega
  have f1 : opAt W 16 = .ok x0 := opAt_code (by simp only [fld]; omega)
  have f2 : BitVec.ofNat 12 (fld W 0 12) = x1 := ofNat_eq (by simp only [fld]; omega)
  simp only [decode, decC, decCsr, e0, e1, f0, f1, f2]
  rfl

theorem RoundTrip.ldN (x0 : Operand) (x1 : Fin 64) (x2 : Fin 4) (x3 : Operand) : RoundTrip.Statement (.ldN x0 x1 x2 x3) := by
  have hx0 := Operand.code_lt x0; have hx1 := x1.isLt; have hx2 := x2.isLt; have hx3 := Operand.code_lt x3
  refine RoundTrip.of_code rfl (by simp only [wM, wd]; omega) fun l m => ?_
  have hl := RoundTrip.bool_lt l; have hm := RoundTrip.bool_lt m
  generalize hW : flags l m _ = W
  simp only [flags, wM, wd] at hW
  have e0 : fld W 29 1 = 0 := by simp only [fld]; omega
  have e1 : fld W 24 6 = 7 := by simp only [fld]; omega
  have f0 : opAt W 16 = .ok x0 := opAt_code (by simp only [fld]; omega)
  have f1 : finAt 64 W 10 6 = x1 := finAt_eq (by simp only [fld]; omega)
  have f2 : finAt 4 W 8 2 = x2 := finAt_eq (by simp only [fld]; omega)
  have f3 : opAt W 0 = .ok x3 := opAt_code (by simp only [fld]; omega)
  simp only [decode, decC, decM, e0, e1, f0, f1, f2, f3]
  rfl

theorem RoundTrip.ldS (x0 : Operand) (x1 : Fin 64) (x2 : Fin 4) (x3 : Operand) : RoundTrip.Statement (.ldS x0 x1 x2 x3) := by
  have hx0 := Operand.code_lt x0; have hx1 := x1.isLt; have hx2 := x2.isLt; have hx3 := Operand.code_lt x3
  refine RoundTrip.of_code rfl (by simp only [wM, wd]; omega) fun l m => ?_
  have hl := RoundTrip.bool_lt l; have hm := RoundTrip.bool_lt m
  generalize hW : flags l m _ = W
  simp only [flags, wM, wd] at hW
  have e0 : fld W 29 1 = 0 := by simp only [fld]; omega
  have e1 : fld W 24 6 = 8 := by simp only [fld]; omega
  have f0 : opAt W 16 = .ok x0 := opAt_code (by simp only [fld]; omega)
  have f1 : finAt 64 W 10 6 = x1 := finAt_eq (by simp only [fld]; omega)
  have f2 : finAt 4 W 8 2 = x2 := finAt_eq (by simp only [fld]; omega)
  have f3 : opAt W 0 = .ok x3 := opAt_code (by simp only [fld]; omega)
  simp only [decode, decC, decM, e0, e1, f0, f1, f2, f3]
  rfl

theorem RoundTrip.ldeN (x0 : Operand) (x1 : Fin 64) (x2 : Fin 4) (x3 : Operand) : RoundTrip.Statement (.ldeN x0 x1 x2 x3) := by
  have hx0 := Operand.code_lt x0; have hx1 := x1.isLt; have hx2 := x2.isLt; have hx3 := Operand.code_lt x3
  refine RoundTrip.of_code rfl (by simp only [wM, wd]; omega) fun l m => ?_
  have hl := RoundTrip.bool_lt l; have hm := RoundTrip.bool_lt m
  generalize hW : flags l m _ = W
  simp only [flags, wM, wd] at hW
  have e0 : fld W 29 1 = 0 := by simp only [fld]; omega
  have e1 : fld W 24 6 = 9 := by simp only [fld]; omega
  have f0 : opAt W 16 = .ok x0 := opAt_code (by simp only [fld]; omega)
  have f1 : finAt 64 W 10 6 = x1 := finAt_eq (by simp only [fld]; omega)
  have f2 : finAt 4 W 8 2 = x2 := finAt_eq (by simp only [fld]; omega)
  have f3 : opAt W 0 = .ok x3 := opAt_code (by simp only [fld]; omega)
  simp only [decode, decC, decM, e0, e1, f0, f1, f2, f3]
  rfl

theorem RoundTrip.ldeS (x0 : Operand) (x1 : Fin 64) (x2 : Fin 4) (x3 : Operand) : RoundTrip.Statement (.ldeS x0 x1 x2 x3) := by
  have hx0 := Operand.code_lt x0; have hx1 := x1.isLt; have hx2 := x2.isLt; have hx3 := Operand.code_lt x3
  refine RoundTrip.of_code rfl (by simp only [wM, wd]; omega) fun l m => ?_
  have hl := RoundTrip.bool_lt l; have hm := RoundTrip.bool_lt m
  generalize hW : flags l m _ = W
  simp only [flags, wM, wd] at hW
  have e0 : fld W 29 1 = 0 := by simp only [fld]; omega
  have e1 : fld W 24 6 = 10 := by simp only [fld]; omega
  have f0 : opAt W 16 = .ok x0 := opAt_code (by simp only [fld]; omega)
  have f1 : finAt 64 W 10 6 = x1 := finAt_eq (by simp only [fld]; omega)
  have f2 : finAt 4 W 8 2 = x2 := finAt_eq (by simp only [fld]; omega)
  have f3 : opAt W 0 = .ok x3 := opAt_code (by simp only [fld]; omega)
  simp only [decode, decC, decM, e0, e1, f0, f1, f2, f3]
  rfl

theorem RoundTrip.ldxN (x0 : Operand) (x1 : Fin 64) (x2 : Fin 4) (x3 : Operand) : RoundTrip.Statement (.ldxN x0 x1 x2 x3) := by
  have hx0 := Operand.code_lt x0; have hx1 := x1.isLt; have hx2 := x2.isLt; have hx3 := Operand.code_lt x3
  refine RoundTrip.of_code rfl (by simp only [wM, wd]; omega) fun l m => ?_
  have hl := RoundTrip.bool_lt l; have hm := RoundTrip.bool_lt m
  generalize hW : flags l m _ = W
  simp only [flags, wM, wd] at hW
  have e0 : fld W 29 1 = 0 := by simp only [fld]; omega
  have e1 : fld W 24 6 = 11 := by simp only [fld]; omega
  have f0 : opAt W 16 = .ok x0 := opAt_code (by simp only [fld]; omega)
  have f1 : finAt 64 W 10 6 = x1 := finAt_eq (by simp only [fld]; omega)
  have f2 : finAt 4 W 8 2 = x2 := finAt_eq (by simp only [fld]; omega)
  have f3 : opAt W 0 = .ok x3 := opAt_code (by simp only [fld]; omega)
  simp only [decode, decC, decM, e0, e1, f0, f1, f2, f3]
  rfl

theorem RoundTrip.ldxS (x0 : Operand) (x1 : Fin 64) (x2 : Fin 4) (x3 : Operand) : RoundTrip.Statement (.ldxS x0 x1 x2 x3) := by
  have hx0 := Operand.code_lt x0; have hx1 := x1.isLt; have hx2 := x2.isLt; have hx3 := Operand.code_lt x3
  refine RoundTrip.of_code rfl (by simp only [wM, wd]; omega) fun l m => ?_
  have hl := RoundTrip.bool_lt l; have hm := RoundTrip.bool_lt m
  generalize hW : flags l m _ = W
  simp only [flags, wM, wd] at hW
  have e0 : fld W 29 1 = 0 := by simp only [fld]; omega
  have e1 : fld W 24 6 = 12 := by simp only [fld]; omega
  have f0 : opAt W 16 = .ok x0 := opAt_code (by simp only [fld]; omega)
  have f1 : finAt 64 W 10 6 = x1 := finAt_eq (by simp only [fld]; omega)
  have f2 : finAt 4 W 8 2 = x2 := finAt_eq (by simp only [fld]; omega)
  have f3 : opAt W 0 = .ok x3 := opAt_code (by simp only [fld]; omega)
  simp only [decode, decC, decM, e0, e1, f0, f1, f2, f3]
  rfl

theorem RoundTrip.st (x0 : Operand) (x1 : Fin 64) (x2 : Fin 4) (x3 : Operand) : RoundTrip.Statement (.st x0 x1 x2 x3) := by
  have hx0 := Operand.code_lt x0; have hx1 := x1.isLt; have hx2 := x2.isLt; have hx3 := Operand.code_lt x3
  refine RoundTrip.of_code rfl (by simp only [wM, wd]; omega) fun l m => ?_
  have hl := RoundTrip.bool_lt l; have hm := RoundTrip.bool_lt m
  generalize hW : flags l m _ = W
  simp only [flags, wM, wd] at hW
  have e0 : fld W 29 1 = 0 := by simp only [fld]; omega
  have e1 : fld W 24 6 = 13 := by simp only [fld]; omega
  have f0 : opAt W 16 = .ok x0 := opAt_code (by simp only [fld]; omega)
  have f1 : finAt 64 W 10 6 = x1 := finAt_eq (by simp only [fld]; omega)
  have f2 : finAt 4 W 8 2 = x2 := finAt_eq (by simp only [fld]; omega)
  have f3 : opAt W 0 = .ok x3 := opAt_code (by simp only [fld]; omega)
  simp only [decode, decC, decM, e0, e1, f0, f1, f2, f3]
  rfl

theorem RoundTrip.ste (x0 : Operand) (x1 : Fin 64) (x2 : Fin 4) (x3 : Operand) : RoundTrip.Statement (.ste x0 x1 x2 x3) := by
  have hx0 := Operand.code_lt x0; have hx1 := x1.isLt; have hx2 := x2.isLt; have hx3 := Operand.code_lt x3
  refine RoundTrip.of_code rfl (by simp only [wM, wd]; omega) fun l m => ?_
  have hl := RoundTrip.bool_lt l; have hm := RoundTrip.bool_lt m
  generalize hW : flags l m _ = W
  simp only [flags, wM, wd] at hW
  have e0 : fld W 29 1 = 0 := by simp only [fld]; omega
  have e1 : fld W 24 6 = 14 := by simp only [fld]; omega
  have f0 : opAt W 16 = .ok x0 := opAt_code (by simp only [fld]; omega)
  have f1 : finAt 64 W 10 6 = x1 := finAt_eq (by simp only [fld]; omega)
  have f2 : finAt 4 W 8 2 = x2 := finAt_eq (by simp only [fld]; omega)
  have f3 : opAt W 0 = .ok x3 := opAt_code (by simp only [fld]; omega)
  simp only [decode, decC, decM, e0, e1, f0, f1, f2, f3]
  rfl

theorem RoundTrip.stx (x0 : Operand) (x1 : Fin 64) (x2 : Fin 4) (x3 : Operand) : RoundTrip.Statement (.stx x0 x1 x2 x3) := by
  have hx0 := Operand.code_lt x0; have hx1 := x1.isLt; have hx2 := x2.isLt; have hx3 := Operand.code_lt x3
  refine RoundTrip.of_code rfl (by simp only [wM, wd]; omega) fun l m => ?_
  have hl := RoundTrip.bool_lt l; have hm := RoundTrip.bool_lt m
  generalize hW : flags l m _ = W
  simp only [flags, wM, wd] at hW
  have e0 : fld W 29 1 = 0 := by simp only [fld]; omega
  have e1 : fld W 24 6 = 15 := by simp only [fld]; omega
  have f0 : opAt W 16 = .ok x0 := opAt_code (by simp only [fld]; omega)
  have f1 : finAt 64 W 10 6 = x1 := finAt_eq (by simp only [fld]; omega)
  have f2 : finAt 4 W 8 2 = x2 := finAt_eq (by simp only [fld]; omega)
  have f3 : opAt W 0 = .ok x3 := opAt_code (by simp only [fld]; omega)
  simp only [decode, decC, decM, e0, e1, f0, f1, f2, f3]
  rfl

theorem RoundTrip.aswap (x0 : Operand) (x1 : Fin 16) (x2 : Operand) : RoundTrip.Statement (.aswap x0 x1 x2) := by
  have hx0 := Operand.code_lt x0; have hx1 := x1.isLt; have hx2 := Operand.code_lt x2
  refine RoundTrip.of_code rfl (by simp only [wAT, wd]; omega) fun l m => ?_
  have hl := RoundTrip.bool_lt l; have hm := RoundTrip.bool_lt m
  generalize hW : flags l m _ = W
  simp only [flags, wAT, wd] at hW
  have e0 : fld W 29 1 = 0 := by simp only [fld]; omega
  have e1 : fld W 24 6 = 16 := by simp only [fld]; omega
  have f0 : opAt W 16 = .ok x0 := opAt_code (by simp only [fld]; omega)
  have f1 : opAt W 0 = .ok x2 := opAt_code (by simp only [fld]; omega)
  have f2 : finAt 16 W 8 4 = x1 := finAt_eq (by simp only [fld]; omega)
  have f3 : fld W 12 4 = 0 := by simp only [fld]; omega
  simp only [decode, decC, decAtom, zeroAt, e0, e1, f0, f1, f2, f3]
  rfl

theorem RoundTrip.aadd (x0 : Operand) (x1 : Fin 16) (x2 : Operand) : RoundTrip.Statement (.aadd x0 x1 x2) := by
  have hx0 := Operand.code_lt x0; have hx1 := x1.isLt; have hx2 := Operand.code_lt x2
  refine RoundTrip.of_code rfl (by simp only [wAT, wd]; omega) fun l m => ?_
  have hl := RoundTrip.bool_lt l; have hm := RoundTrip.bool_lt m
  generalize hW : flags l m _ = W
  simp only [flags, wAT, wd] at hW
  have e0 : fld W 29 1 = 0 := by simp only [fld]; omega
  have e1 : fld W 24 6 = 16 := by simp only [fld]; omega
  have f0 : opAt W 16 = .ok x0 := opAt_code (by simp only [fld]; omega)
  have f1 : opAt W 0 = .ok x2 := opAt_code (by simp only [fld]; omega)
  have f2 : finAt 16 W 8 4 = x1 := finAt_eq (by simp only [fld]; omega)
  have f3 : fld W 12 4 = 1 := by simp only [fld]; omega
  simp only [decode, decC, decAtom, e0, e1, f0, f1, f2, f3]
  rfl

theorem RoundTrip.aand (x0 : Operand) (x1 : Fin 16) (x2 : Operand) : RoundTrip.Statement (.aand x0 x1 x2) := by
  have hx0 := Operand.code_lt x0; have hx1 := x1.isLt; have hx2 := Operand.code_lt x2
  refine RoundTrip.of_code rfl (by simp only [wAT, wd]; omega) fun l m => ?_
  have hl := RoundTrip.bool_lt l; have hm := RoundTrip.bool_lt m
  generalize hW : flags l m _ = W
  simp only [flags, wAT, wd] at hW
  have e0 : fld W 29 1 = 0 := by simp only [fld]; omega
  have e1 : fld W 24 6 = 16 := by simp only [fld]; omega
  have f0 : opAt W 16 = .ok x0 := opAt_code (by simp only [fld]; omega)
  have f1 : opAt W 0 = .ok x2 := opAt_code (by simp only [fld]; omega)
  have f2 : finAt 16 W 8 4 = x1 := finAt_eq (by simp only [fld]; omega)
  have f3 : fld W 12 4 = 2 := by simp only [fld]; omega
  simp only [decode, decC, decAtom, e0, e1, f0, f1, f2, f3]
  rfl

theorem RoundTrip.aor (x0 : Operand) (x1 : Fin 16) (x2 : Operand) : RoundTrip.Statement (.aor x0 x1 x2) := by
  have hx0 := Operand.code_lt x0; have hx1 := x1.isLt; have hx2 := Operand.code_lt x2
  refine RoundTrip.of_code rfl (by simp only [wAT, wd]; omega) fun l m => ?_
  have hl := RoundTrip.bool_lt l; have hm := RoundTrip.bool_lt m
  generalize hW : flags l m _ = W
  simp only [flags, wAT, wd] at hW
  have e0 : fld W 29 1 = 0 := by simp only [fld]; omega
  have e1 : fld W 24 6 = 16 := by simp only [fld]; omega
  have f0 : opAt W 16 = .ok x0 := opAt_code (by simp only [fld]; omega)
  have f1 : opAt W 0 = .ok x2 := opAt_code (by simp only [fld]; omega)
  have f2 : finAt 16 W 8 4 = x1 := finAt_eq (by simp only [fld]; omega)
  have f3 : fld W 12 4 = 3 := by simp only [fld]; omega
  simp only [decode, decC, decAtom, e0, e1, f0, f1, f2, f3]
  rfl

theorem RoundTrip.axor (x0 : Operand) (x1 : Fin 16) (x2 : Operand) : RoundTrip.Statement (.axor x0 x1 x2) := by
  have hx0 := Operand.code_lt x0; have hx1 := x1.isLt; have hx2 := Operand.code_lt x2
  refine RoundTrip.of_code rfl (by simp only [wAT, wd]; omega) fun l m => ?_
  have hl := RoundTrip.bool_lt l; have hm := RoundTrip.bool_lt m
  generalize hW : flags l m _ = W
  simp only [flags, wAT, wd] at hW
  have e0 : fld W 29 1 = 0 := by simp only [fld]; omega
  have e1 : fld W 24 6 = 16 := by simp only [fld]; omega
  have f0 : opAt W 16 = .ok x0 := opAt_code (by simp only [fld]; omega)
  have f1 : opAt W 0 = .ok x2 := opAt_code (by simp only [fld]; omega)
  have f2 : finAt 16 W 8 4 = x1 := finAt_eq (by simp only [fld]; omega)
  have f3 : fld W 12 4 = 4 := by simp only [fld]; omega
  simp only [decode, decC, decAtom, e0, e1, f0, f1, f2, f3]
  rfl

theorem RoundTrip.aminS64 (x0 : Operand) (x1 : Fin 16) (x2 : Operand) : RoundTrip.Statement (.aminS64 x0 x1 x2) := by
  have hx0 := Operand.code_lt x0; have hx1 := x1.isLt; have hx2 := Operand.code_lt x2
  refine RoundTrip.of_code rfl (by simp only [wAT, wd]; omega) fun l m => ?_
  have hl := RoundTrip.bool_lt l; have hm := RoundTrip.bool_lt m
  generalize hW : flags l m _ = W
  simp only [flags, wAT, wd] at hW
  have e0 : fld W 29 1 = 0 := by simp only [fld]; omega
  have e1 : fld W 24 6 = 16 := by simp only [fld]; omega
  have f0 : opAt W 16 = .ok x0 := opAt_code (by simp only [fld]; omega)
  have f1 : opAt W 0 = .ok x2 := opAt_code (by simp only [fld]; omega)
  have f2 : finAt 16 W 8 4 = x1 := finAt_eq (by simp only [fld]; omega)
  have f3 : fld W 12 4 = 5 := by simp only [fld]; omega
  simp only [decode, decC, decAtom, e0, e1, f0, f1, f2, f3]
  rfl

theorem RoundTrip.amaxS64 (x0 : Operand) (x1 : Fin 16) (x2 : Operand) : RoundTrip.Statement (.amaxS64 x0 x1 x2) := by
  have hx0 := Operand.code_lt x0; have hx1 := x1.isLt; have hx2 := Operand.code_lt x2
  refine RoundTrip.of_code rfl (by simp only [wAT, wd]; omega) fun l m => ?_
  have hl := RoundTrip.bool_lt l; have hm := RoundTrip.bool_lt m
  generalize hW : flags l m _ = W
  simp only [flags, wAT, wd] at hW
  have e0 : fld W 29 1 = 0 := by simp only [fld]; omega
  have e1 : fld W 24 6 = 16 := by simp only [fld]; omega
  have f0 : opAt W 16 = .ok x0 := opAt_code (by simp only [fld]; omega)
  have f1 : opAt W 0 = .ok x2 := opAt_code (by simp only [fld]; omega)
  have f2 : finAt 16 W 8 4 = x1 := finAt_eq (by simp only [fld]; omega)
  have f3 : fld W 12 4 = 6 := by simp only [fld]; omega
  simp only [decode, decC, decAtom, e0, e1, f0, f1, f2, f3]
  rfl

theorem RoundTrip.aminN64 (x0 : Operand) (x1 : Fin 16) (x2 : Operand) : RoundTrip.Statement (.aminN64 x0 x1 x2) := by
  have hx0 := Operand.code_lt x0; have hx1 := x1.isLt; have hx2 := Operand.code_lt x2
  refine RoundTrip.of_code rfl (by simp only [wAT, wd]; omega) fun l m => ?_
  have hl := RoundTrip.bool_lt l; have hm := RoundTrip.bool_lt m
  generalize hW : flags l m _ = W
  simp only [flags, wAT, wd] at hW
  have e0 : fld W 29 1 = 0 := by simp only [fld]; omega
  have e1 : fld W 24 6 = 16 := by simp only [fld]; omega
  have f0 : opAt W 16 = .ok x0 := opAt_code (by simp only [fld]; omega)
  have f1 : opAt W 0 = .ok x2 := opAt_code (by simp only [fld]; omega)
  have f2 : finAt 16 W 8 4 = x1 := finAt_eq (by simp only [fld]; omega)
  have f3 : fld W 12 4 = 7 := by simp only [fld]; omega
  simp only [decode, decC, decAtom, e0, e1, f0, f1, f2, f3]
  rfl

theorem RoundTrip.amaxN64 (x0 : Operand) (x1 : Fin 16) (x2 : Operand) : RoundTrip.Statement (.amaxN64 x0 x1 x2) := by
  have hx0 := Operand.code_lt x0; have hx1 := x1.isLt; have hx2 := Operand.code_lt x2
  refine RoundTrip.of_code rfl (by simp only [wAT, wd]; omega) fun l m => ?_
  have hl := RoundTrip.bool_lt l; have hm := RoundTrip.bool_lt m
  generalize hW : flags l m _ = W
  simp only [flags, wAT, wd] at hW
  have e0 : fld W 29 1 = 0 := by simp only [fld]; omega
  have e1 : fld W 24 6 = 16 := by simp only [fld]; omega
  have f0 : opAt W 16 = .ok x0 := opAt_code (by simp only [fld]; omega)
  have f1 : opAt W 0 = .ok x2 := opAt_code (by simp only [fld]; omega)
  have f2 : finAt 16 W 8 4 = x1 := finAt_eq (by simp only [fld]; omega)
  have f3 : fld W 12 4 = 8 := by simp only [fld]; omega
  simp only [decode, decC, decAtom, e0, e1, f0, f1, f2, f3]
  rfl

theorem RoundTrip.acas (x0 : Operand) (x1 : Fin 16) (x2 : Operand) : RoundTrip.Statement (.acas x0 x1 x2) := by
  have hx0 := Operand.code_lt x0; have hx1 := x1.isLt; have hx2 := Operand.code_lt x2
  refine RoundTrip.of_code rfl (by simp only [wAT, wd]; omega) fun l m => ?_
  have hl := RoundTrip.bool_lt l; have hm := RoundTrip.bool_lt m
  generalize hW : flags l m _ = W
  simp only [flags, wAT, wd] at hW
  have e0 : fld W 29 1 = 0 := by simp only [fld]; omega
  have e1 : fld W 24 6 = 16 := by simp only [fld]; omega
  have f0 : opAt W 16 = .ok x0 := opAt_code (by simp only [fld]; omega)
  have f1 : opAt W 0 = .ok x2 := opAt_code (by simp only [fld]; omega)
  have f2 : finAt 16 W 8 4 = x1 := finAt_eq (by simp only [fld]; omega)
  have f3 : fld W 12 4 = 9 := by simp only [fld]; omega
  simp only [decode, decC, decAtom, e0, e1, f0, f1, f2, f3]
  rfl

theorem RoundTrip.aamaxF32 (x0 : Operand) (x1 : Fin 16) (x2 : Operand) : RoundTrip.Statement (.aamaxF32 x0 x1 x2) := by
  have hx0 := Operand.code_lt x0; have hx1 := x1.isLt; have hx2 := Operand.code_lt x2
  refine RoundTrip.of_code rfl (by simp only [wAT, wd]; omega) fun l m => ?_
  have hl := RoundTrip.bool_lt l; have hm := RoundTrip.bool_lt m
  generalize hW : flags l m _ = W
  simp only [flags, wAT, wd] at hW
  have e0 : fld W 29 1 = 0 := by simp only [fld]; omega
  have e1 : fld W 24 6 = 16 := by simp only [fld]; omega
  have f0 : opAt W 16 = .ok x0 := opAt_code (by simp only [fld]; omega)
  have f1 : opAt W 0 = .ok x2 := opAt_code (by simp only [fld]; omega)
  have f2 : finAt 16 W 8 4 = x1 := finAt_eq (by simp only [fld]; omega)
  have f3 : fld W 12 4 = 10 := by simp only [fld]; omega
  simp only [decode, decC, decAtom, e0, e1, f0, f1, f2, f3]
  rfl

theorem RoundTrip.amaxswapF32 (x0 : Operand) (x1 : Fin 16) (x2 : Operand) : RoundTrip.Statement (.amaxswapF32 x0 x1 x2) := by
  have hx0 := Operand.code_lt x0; have hx1 := x1.isLt; have hx2 := Operand.code_lt x2
  refine RoundTrip.of_code rfl (by simp only [wAT, wd]; omega) fun l m => ?_
  have hl := RoundTrip.bool_lt l; have hm := RoundTrip.bool_lt m
  generalize hW : flags l m _ = W
  simp only [flags, wAT, wd] at hW
  have e0 : fld W 29 1 = 0 := by simp only [fld]; omega
  have e1 : fld W 24 6 = 16 := by simp only [fld]; omega
  have f0 : opAt W 16 = .ok x0 := opAt_code (by simp only [fld]; omega)
  have f1 : opAt W 0 = .ok x2 := opAt_code (by simp only [fld]; omega)
  have f2 : finAt 16 W 8 4 = x1 := finAt_eq (by simp only [fld]; omega)
  have f3 : fld W 12 4 = 11 := by simp only [fld]; omega
  simp only [decode, decC, decAtom, e0, e1, f0, f1, f2, f3]
  rfl

theorem RoundTrip.bfld (x0 : Operand) (x1 : Fin 64) : RoundTrip.Statement (.bfld x0 x1) := by
  have hx0 := Operand.code_lt x0; have hx1 := x1.isLt
  refine RoundTrip.of_code rfl (by simp only [wd]; omega) fun l m => ?_
  have hl := RoundTrip.bool_lt l; have hm := RoundTrip.bool_lt m
  generalize hW : flags l m _ = W
  simp only [flags, wd] at hW
  have e0 : fld W 29 1 = 0 := by simp only [fld]; omega
  have e1 : fld W 24 6 = 17 := by simp only [fld]; omega
  have f0 : fld W 0 8 = 0 := by simp only [fld]; omega
  have f1 : fld W 14 2 = 0 := by simp only [fld]; omega
  have f2 : opAt W 16 = .ok x0 := opAt_code (by simp only [fld]; omega)
  have f3 : finAt 64 W 8 6 = x1 := finAt_eq (by simp only [fld]; omega)
  simp only [decode, decC, decBfl, zeroAt, e0, e1, f0, f1, f2, f3]
  rfl

theorem RoundTrip.bfclr (x0 : Fin 64) : RoundTrip.Statement (.bfclr x0) := by
  have hx0 := x0.isLt
  refine RoundTrip.of_code rfl (by simp only [wd]; omega) fun l m => ?_
  have hl := RoundTrip.bool_lt l; have hm := RoundTrip.bool_lt m
  generalize hW : flags l m _ = W
  simp only [flags, wd] at hW
  have e0 : fld W 29 1 = 0 := by simp only [fld]; omega
  have e1 : fld W 24 6 = 17 := by simp only [fld]; omega
  have f0 : fld W 0 8 = 0 := by simp only [fld]; omega
  have f1 : fld W 14 2 = 1 := by simp only [fld]; omega
  have f2 : fld W 16 8 = 0 := by simp only [fld]; omega
  have f3 : finAt 64 W 8 6 = x0 := finAt_eq (by simp only [fld]; omega)
  simp only [decode, decC, decBfl, zeroAt, e0, e1, f0, f1, f2, f3]
  rfl

theorem RoundTrip.cpy (x0 : Operand) (x1 : Fin 128) : RoundTrip.Statement (.cpy x0 x1) := by
  have hx0 := Operand.code_lt x0; have hx1 := x1.isLt
  refine RoundTrip.of_code rfl (by simp only [w3, wd]; omega) fun l m => ?_
  have hl := RoundTrip.bool_lt l; have hm := RoundTrip.bool_lt m
  generalize hW : flags l m _ = W
  simp only [flags, w3, wd] at hW
  have e0 : fld W 29 1 = 0 := by simp only [fld]; omega
  have e1 : fld W 24 6 = 18 := by simp only [fld]; omega
  have f0 : fld W 1 7 = 0 := by simp only [fld]; omega
  have f1 : opAt W 16 = .ok x0 := opAt_code (by simp only [fld]; omega)
  have f2 : gAt W 8 = .ok x1 := gAt_code (by simp only [fld]; omega)
  have f3 : fld W 0 1 = 0 := by simp only [fld]; omega
  simp only [decode, decC, decCpy, zeroAt, e0, e1, f0, f1, f2, f3]
  rfl

theorem RoundTrip.cpyNb (x0 : Operand) (x1 : Fin 128) : RoundTrip.Statement (.cpyNb x0 x1) := by
  have hx0 := Operand.code_lt x0; have hx1 := x1.isLt
  refine RoundTrip.of_code rfl (by simp only [w3, wd]; omega) fun l m => ?_
  have hl := RoundTrip.bool_lt l; have hm := RoundTrip.bool_lt m
  generalize hW : flags l m _ = W
  simp only [flags, w3, wd] at hW
  have e0 : fld W 29 1 = 0 := by simp only [fld]; omega
  have e1 : fld W 24 6 = 18 := by simp only [fld]; omega
  have f0 : fld W 1 7 = 0 := by simp only [fld]; omega
  have f1 : opAt W 16 = .ok x0 := opAt_code (by simp only [fld]; omega)
  have f2 : gAt W 8 = .ok x1 := gAt_code (by simp only [fld]; omega)
  have f3 : fld W 0 1 = 1 := by simp only [fld]; omega
  simp only [decode, decC, decCpy, zeroAt, e0, e1, f0, f1, f2, f3]
  rfl

theorem RoundTrip.vld (x0 : Fin 4) (x1 : Fin 8) (x2 : Fin 32) (x3 : Fin 64) (x4 : Operand) : RoundTrip.Statement (.vld x0 x1 x2 x3 x4) := by
  have hx0 := x0.isLt; have hx1 := x1.isLt; have hx2 := x2.isLt; have hx3 := x3.isLt; have hx4 := Operand.code_lt x4
  refine RoundTrip.of_code rfl (by simp only [wVM, wd]; omega) fun l m => ?_
  have hl := RoundTrip.bool_lt l; have hm := RoundTrip.bool_lt m
  generalize hW : flags l m _ = W
  simp only [flags, wVM, wd] at hW
  have e0 : fld W 29 1 = 0 := by simp only [fld]; omega
  have e1 : fld W 24 6 = 19 := by simp only [fld]; omega
  have f0 : finAt 4 W 22 2 = x0 := finAt_eq (by simp only [fld]; omega)
  have f1 : finAt 8 W 19 3 = x1 := finAt_eq (by simp only [fld]; omega)
  have f2 : finAt 32 W 14 5 = x2 := finAt_eq (by simp only [fld]; omega)
  have f3 : finAt 64 W 8 6 = x3 := finAt_eq (by simp only [fld]; omega)
  have f4 : opAt W 0 = .ok x4 := opAt_code (by simp only [fld]; omega)
  simp only [decode, decC, decVmem, e0, e1, f0, f1, f2, f3, f4]
  rfl

theorem RoundTrip.vst (x0 : Fin 4) (x1 : Fin 8) (x2 : Fin 32) (x3 : Fin 64) (x4 : Operand) : RoundTrip.Statement (.vst x0 x1 x2 x3 x4) := by
  have hx0 := x0.isLt; have hx1 := x1.isLt; have hx2 := x2.isLt; have hx3 := x3.isLt; have hx4 := Operand.code_lt x4
  refine RoundTrip.of_code rfl (by simp only [wVM, wd]; omega) fun l m => ?_
  have hl := RoundTrip.bool_lt l; have hm := RoundTrip.bool_lt m
  generalize hW : flags l m _ = W
  simp only [flags, wVM, wd] at hW
  have e0 : fld W 29 1 = 0 := by simp only [fld]; omega
  have e1 : fld W 24 6 = 20 := by simp only [fld]; omega
  have f0 : finAt 4 W 22 2 = x0 := finAt_eq (by simp only [fld]; omega)
  have f1 : finAt 8 W 19 3 = x1 := finAt_eq (by simp only [fld]; omega)
  have f2 : finAt 32 W 14 5 = x2 := finAt_eq (by simp only [fld]; omega)
  have f3 : finAt 64 W 8 6 = x3 := finAt_eq (by simp only [fld]; omega)
  have f4 : opAt W 0 = .ok x4 := opAt_code (by simp only [fld]; omega)
  simp only [decode, decC, decVmem, e0, e1, f0, f1, f2, f3, f4]
  rfl

theorem RoundTrip.vldpE2m1 (x0 : Fin 8) (x1 : Fin 32) (x2 : Fin 64) (x3 : Operand) : RoundTrip.Statement (.vldpE2m1 x0 x1 x2 x3) := by
  have hx0 := x0.isLt; have hx1 := x1.isLt; have hx2 := x2.isLt; have hx3 := Operand.code_lt x3
  refine RoundTrip.of_code rfl (by simp only [wVM, wd]; omega) fun l m => ?_
  have hl := RoundTrip.bool_lt l; have hm := RoundTrip.bool_lt m
  generalize hW : flags l m _ = W
  simp only [flags, wVM, wd] at hW
  have e0 : fld W 29 1 = 0 := by simp only [fld]; omega
  have e1 : fld W 24 6 = 21 := by simp only [fld]; omega
  have f0 : fld W 22 2 = 0 := by simp only [fld]; omega
  have f1 : finAt 8 W 19 3 = x0 := finAt_eq (by simp only [fld]; omega)
  have f2 : finAt 32 W 14 5 = x1 := finAt_eq (by simp only [fld]; omega)
  have f3 : finAt 64 W 8 6 = x2 := finAt_eq (by simp only [fld]; omega)
  have f4 : opAt W 0 = .ok x3 := opAt_code (by simp only [fld]; omega)
  simp only [decode, decC, decVldp, zeroAt, e0, e1, f0, f1, f2, f3, f4]
  rfl

theorem RoundTrip.vldpE3m2 (x0 : Fin 8) (x1 : Fin 32) (x2 : Fin 64) (x3 : Operand) : RoundTrip.Statement (.vldpE3m2 x0 x1 x2 x3) := by
  have hx0 := x0.isLt; have hx1 := x1.isLt; have hx2 := x2.isLt; have hx3 := Operand.code_lt x3
  refine RoundTrip.of_code rfl (by simp only [wVM, wd]; omega) fun l m => ?_
  have hl := RoundTrip.bool_lt l; have hm := RoundTrip.bool_lt m
  generalize hW : flags l m _ = W
  simp only [flags, wVM, wd] at hW
  have e0 : fld W 29 1 = 0 := by simp only [fld]; omega
  have e1 : fld W 24 6 = 21 := by simp only [fld]; omega
  have f0 : fld W 22 2 = 1 := by simp only [fld]; omega
  have f1 : finAt 8 W 19 3 = x0 := finAt_eq (by simp only [fld]; omega)
  have f2 : finAt 32 W 14 5 = x1 := finAt_eq (by simp only [fld]; omega)
  have f3 : finAt 64 W 8 6 = x2 := finAt_eq (by simp only [fld]; omega)
  have f4 : opAt W 0 = .ok x3 := opAt_code (by simp only [fld]; omega)
  simp only [decode, decC, decVldp, e0, e1, f0, f1, f2, f3, f4]
  rfl

theorem RoundTrip.vstpE2m1 (x0 : Fin 8) (x1 : Fin 32) (x2 : Fin 64) (x3 : Operand) : RoundTrip.Statement (.vstpE2m1 x0 x1 x2 x3) := by
  have hx0 := x0.isLt; have hx1 := x1.isLt; have hx2 := x2.isLt; have hx3 := Operand.code_lt x3
  refine RoundTrip.of_code rfl (by simp only [wVM, wd]; omega) fun l m => ?_
  have hl := RoundTrip.bool_lt l; have hm := RoundTrip.bool_lt m
  generalize hW : flags l m _ = W
  simp only [flags, wVM, wd] at hW
  have e0 : fld W 29 1 = 0 := by simp only [fld]; omega
  have e1 : fld W 24 6 = 21 := by simp only [fld]; omega
  have f0 : fld W 22 2 = 2 := by simp only [fld]; omega
  have f1 : finAt 8 W 19 3 = x0 := finAt_eq (by simp only [fld]; omega)
  have f2 : finAt 32 W 14 5 = x1 := finAt_eq (by simp only [fld]; omega)
  have f3 : finAt 64 W 8 6 = x2 := finAt_eq (by simp only [fld]; omega)
  have f4 : opAt W 0 = .ok x3 := opAt_code (by simp only [fld]; omega)
  simp only [decode, decC, decVldp, e0, e1, f0, f1, f2, f3, f4]
  rfl

theorem RoundTrip.vstpE3m2 (x0 : Fin 8) (x1 : Fin 32) (x2 : Fin 64) (x3 : Operand) : RoundTrip.Statement (.vstpE3m2 x0 x1 x2 x3) := by
  have hx0 := x0.isLt; have hx1 := x1.isLt; have hx2 := x2.isLt; have hx3 := Operand.code_lt x3
  refine RoundTrip.of_code rfl (by simp only [wVM, wd]; omega) fun l m => ?_
  have hl := RoundTrip.bool_lt l; have hm := RoundTrip.bool_lt m
  generalize hW : flags l m _ = W
  simp only [flags, wVM, wd] at hW
  have e0 : fld W 29 1 = 0 := by simp only [fld]; omega
  have e1 : fld W 24 6 = 21 := by simp only [fld]; omega
  have f0 : fld W 22 2 = 3 := by simp only [fld]; omega
  have f1 : finAt 8 W 19 3 = x0 := finAt_eq (by simp only [fld]; omega)
  have f2 : finAt 32 W 14 5 = x1 := finAt_eq (by simp only [fld]; omega)
  have f3 : finAt 64 W 8 6 = x2 := finAt_eq (by simp only [fld]; omega)
  have f4 : opAt W 0 = .ok x3 := opAt_code (by simp only [fld]; omega)
  simp only [decode, decC, decVldp, e0, e1, f0, f1, f2, f3, f4]
  rfl

theorem RoundTrip.qpackE4m3 (x0 : Fin 16) (x1 : Fin 64) (x2 : Operand) : RoundTrip.Statement (.qpackE4m3 x0 x1 x2) := by
  have hx0 := x0.isLt; have hx1 := x1.isLt; have hx2 := Operand.code_lt x2
  refine RoundTrip.of_code rfl (by simp only [wVM, wd]; omega) fun l m => ?_
  have hl := RoundTrip.bool_lt l; have hm := RoundTrip.bool_lt m
  generalize hW : flags l m _ = W
  simp only [flags, wVM, wd] at hW
  have e0 : fld W 29 1 = 0 := by simp only [fld]; omega
  have e1 : fld W 24 6 = 22 := by simp only [fld]; omega
  have f0 : fld W 19 3 = 0 := by simp only [fld]; omega
  have f1 : fld W 14 1 = 0 := by simp only [fld]; omega
  have f2 : fld W 22 2 = 0 := by simp only [fld]; omega
  have f3 : finAt 16 W 15 4 = x0 := finAt_eq (by simp only [fld]; omega)
  have f4 : finAt 64 W 8 6 = x1 := finAt_eq (by simp only [fld]; omega)
  have f5 : opAt W 0 = .ok x2 := opAt_code (by simp only [fld]; omega)
  simp only [decode, decC, decQpack, zeroAt, e0, e1, f0, f1, f2, f3, f4, f5]
  rfl

theorem RoundTrip.qpackE3m2 (x0 : Fin 16) (x1 : Fin 64) (x2 : Operand) : RoundTrip.Statement (.qpackE3m2 x0 x1 x2) := by
  have hx0 := x0.isLt; have hx1 := x1.isLt; have hx2 := Operand.code_lt x2
  refine RoundTrip.of_code rfl (by simp only [wVM, wd]; omega) fun l m => ?_
  have hl := RoundTrip.bool_lt l; have hm := RoundTrip.bool_lt m
  generalize hW : flags l m _ = W
  simp only [flags, wVM, wd] at hW
  have e0 : fld W 29 1 = 0 := by simp only [fld]; omega
  have e1 : fld W 24 6 = 22 := by simp only [fld]; omega
  have f0 : fld W 19 3 = 0 := by simp only [fld]; omega
  have f1 : fld W 14 1 = 0 := by simp only [fld]; omega
  have f2 : fld W 22 2 = 1 := by simp only [fld]; omega
  have f3 : finAt 16 W 15 4 = x0 := finAt_eq (by simp only [fld]; omega)
  have f4 : finAt 64 W 8 6 = x1 := finAt_eq (by simp only [fld]; omega)
  have f5 : opAt W 0 = .ok x2 := opAt_code (by simp only [fld]; omega)
  simp only [decode, decC, decQpack, zeroAt, e0, e1, f0, f1, f2, f3, f4, f5]
  rfl

theorem RoundTrip.qpackE2m1 (x0 : Fin 16) (x1 : Fin 64) (x2 : Operand) : RoundTrip.Statement (.qpackE2m1 x0 x1 x2) := by
  have hx0 := x0.isLt; have hx1 := x1.isLt; have hx2 := Operand.code_lt x2
  refine RoundTrip.of_code rfl (by simp only [wVM, wd]; omega) fun l m => ?_
  have hl := RoundTrip.bool_lt l; have hm := RoundTrip.bool_lt m
  generalize hW : flags l m _ = W
  simp only [flags, wVM, wd] at hW
  have e0 : fld W 29 1 = 0 := by simp only [fld]; omega
  have e1 : fld W 24 6 = 22 := by simp only [fld]; omega
  have f0 : fld W 19 3 = 0 := by simp only [fld]; omega
  have f1 : fld W 14 1 = 0 := by simp only [fld]; omega
  have f2 : fld W 22 2 = 2 := by simp only [fld]; omega
  have f3 : finAt 16 W 15 4 = x0 := finAt_eq (by simp only [fld]; omega)
  have f4 : finAt 64 W 8 6 = x1 := finAt_eq (by simp only [fld]; omega)
  have f5 : opAt W 0 = .ok x2 := opAt_code (by simp only [fld]; omega)
  simp only [decode, decC, decQpack, zeroAt, e0, e1, f0, f1, f2, f3, f4, f5]
  rfl

theorem RoundTrip.qpacki (x0 : Fin 16) (x1 : Fin 64) (x2 : Operand) : RoundTrip.Statement (.qpacki x0 x1 x2) := by
  have hx0 := x0.isLt; have hx1 := x1.isLt; have hx2 := Operand.code_lt x2
  refine RoundTrip.of_code rfl (by simp only [wVM, wd]; omega) fun l m => ?_
  have hl := RoundTrip.bool_lt l; have hm := RoundTrip.bool_lt m
  generalize hW : flags l m _ = W
  simp only [flags, wVM, wd] at hW
  have e0 : fld W 29 1 = 0 := by simp only [fld]; omega
  have e1 : fld W 24 6 = 22 := by simp only [fld]; omega
  have f0 : fld W 19 3 = 0 := by simp only [fld]; omega
  have f1 : fld W 14 1 = 0 := by simp only [fld]; omega
  have f2 : fld W 22 2 = 3 := by simp only [fld]; omega
  have f3 : finAt 16 W 15 4 = x0 := finAt_eq (by simp only [fld]; omega)
  have f4 : finAt 64 W 8 6 = x1 := finAt_eq (by simp only [fld]; omega)
  have f5 : opAt W 0 = .ok x2 := opAt_code (by simp only [fld]; omega)
  simp only [decode, decC, decQpack, zeroAt, e0, e1, f0, f1, f2, f3, f4, f5]
  rfl

theorem RoundTrip.accld (x0 : Fin 4) (x1 : Fin 8) (x2 : Operand) : RoundTrip.Statement (.accld x0 x1 x2) := by
  have hx0 := x0.isLt; have hx1 := x1.isLt; have hx2 := Operand.code_lt x2
  refine RoundTrip.of_code rfl (by simp only [wMX, wd]; omega) fun l m => ?_
  have hl := RoundTrip.bool_lt l; have hm := RoundTrip.bool_lt m
  generalize hW : flags l m _ = W
  simp only [flags, wMX, wd] at hW
  have e0 : fld W 29 1 = 0 := by simp only [fld]; omega
  have e1 : fld W 24 6 = 23 := by simp only [fld]; omega
  have f0 : fld W 8 5 = 0 := by simp only [fld]; omega
  have f1 : fld W 20 4 = 0 := by simp only [fld]; omega
  have f2 : fld W 13 2 = 0 := by simp only [fld]; omega
  have f3 : finAt 4 W 18 2 = x0 := finAt_eq (by simp only [fld]; omega)
  have f4 : finAt 8 W 15 3 = x1 := finAt_eq (by simp only [fld]; omega)
  have f5 : opAt W 0 = .ok x2 := opAt_code (by simp only [fld]; omega)
  simp only [decode, decC, decMtx, zeroAt, e0, e1, f0, f1, f2, f3, f4, f5]
  rfl

theorem RoundTrip.accst (x0 : Fin 4) (x1 : Fin 8) (x2 : Operand) : RoundTrip.Statement (.accst x0 x1 x2) := by
  have hx0 := x0.isLt; have hx1 := x1.isLt; have hx2 := Operand.code_lt x2
  refine RoundTrip.of_code rfl (by simp only [wMX, wd]; omega) fun l m => ?_
  have hl := RoundTrip.bool_lt l; have hm := RoundTrip.bool_lt m
  generalize hW : flags l m _ = W
  simp only [flags, wMX, wd] at hW
  have e0 : fld W 29 1 = 0 := by simp only [fld]; omega
  have e1 : fld W 24 6 = 23 := by simp only [fld]; omega
  have f0 : fld W 8 5 = 0 := by simp only [fld]; omega
  have f1 : fld W 20 4 = 1 := by simp only [fld]; omega
  have f2 : fld W 13 2 = 0 := by simp only [fld]; omega
  have f3 : finAt 4 W 18 2 = x0 := finAt_eq (by simp only [fld]; omega)
  have f4 : finAt 8 W 15 3 = x1 := finAt_eq (by simp only [fld]; omega)
  have f5 : opAt W 0 = .ok x2 := opAt_code (by simp only [fld]; omega)
  simp only [decode, decC, decMtx, zeroAt, e0, e1, f0, f1, f2, f3, f4, f5]
  rfl

theorem RoundTrip.drain (x0 : Fin 4) (x1 : Fin 128) : RoundTrip.Statement (.drain x0 x1) := by
  have hx0 := x0.isLt; have hx1 := x1.isLt
  refine RoundTrip.of_code rfl (by simp only [wMX, wd]; omega) fun l m => ?_
  have hl := RoundTrip.bool_lt l; have hm := RoundTrip.bool_lt m
  generalize hW : flags l m _ = W
  simp only [flags, wMX, wd] at hW
  have e0 : fld W 29 1 = 0 := by simp only [fld]; omega
  have e1 : fld W 24 6 = 23 := by simp only [fld]; omega
  have f0 : fld W 8 5 = 0 := by simp only [fld]; omega
  have f1 : fld W 20 4 = 2 := by simp only [fld]; omega
  have f2 : fld W 13 5 = 0 := by simp only [fld]; omega
  have f3 : finAt 4 W 18 2 = x0 := finAt_eq (by simp only [fld]; omega)
  have f4 : gAt W 0 = .ok x1 := gAt_code (by simp only [fld]; omega)
  simp only [decode, decC, decMtx, zeroAt, e0, e1, f0, f1, f2, f3, f4]
  rfl

theorem RoundTrip.add (x0 : Operand) (x1 : Operand) (x2 : Operand) : RoundTrip.Statement (.add x0 x1 x2) := by
  have hx0 := Operand.code_lt x0; have hx1 := Operand.code_lt x1; have hx2 := Operand.code_lt x2
  refine RoundTrip.of_code rfl (by simp only [w3, wd]; omega) fun l m => ?_
  have hl := RoundTrip.bool_lt l; have hm := RoundTrip.bool_lt m
  generalize hW : flags l m _ = W
  simp only [flags, w3, wd] at hW
  have e0 : fld W 29 1 = 1 := by simp only [fld]; omega
  have e1 : fld W 24 6 = 32 := by simp only [fld]; omega
  have f0 : opAt W 16 = .ok x0 := opAt_code (by simp only [fld]; omega)
  have f1 : opAt W 8 = .ok x1 := opAt_code (by simp only [fld]; omega)
  have f2 : opAt W 0 = .ok x2 := opAt_code (by simp only [fld]; omega)
  simp only [decode, decA, decT, e0, e1, f0, f1, f2]
  rfl

theorem RoundTrip.sub (x0 : Operand) (x1 : Operand) (x2 : Operand) : RoundTrip.Statement (.sub x0 x1 x2) := by
  have hx0 := Operand.code_lt x0; have hx1 := Operand.code_lt x1; have hx2 := Operand.code_lt x2
  refine RoundTrip.of_code rfl (by simp only [w3, wd]; omega) fun l m => ?_
  have hl := RoundTrip.bool_lt l; have hm := RoundTrip.bool_lt m
  generalize hW : flags l m _ = W
  simp only [flags, w3, wd] at hW
  have e0 : fld W 29 1 = 1 := by simp only [fld]; omega
  have e1 : fld W 24 6 = 33 := by simp only [fld]; omega
  have f0 : opAt W 16 = .ok x0 := opAt_code (by simp only [fld]; omega)
  have f1 : opAt W 8 = .ok x1 := opAt_code (by simp only [fld]; omega)
  have f2 : opAt W 0 = .ok x2 := opAt_code (by simp only [fld]; omega)
  simp only [decode, decA, decT, e0, e1, f0, f1, f2]
  rfl

theorem RoundTrip.mul (x0 : Operand) (x1 : Operand) (x2 : Operand) : RoundTrip.Statement (.mul x0 x1 x2) := by
  have hx0 := Operand.code_lt x0; have hx1 := Operand.code_lt x1; have hx2 := Operand.code_lt x2
  refine RoundTrip.of_code rfl (by simp only [w3, wd]; omega) fun l m => ?_
  have hl := RoundTrip.bool_lt l; have hm := RoundTrip.bool_lt m
  generalize hW : flags l m _ = W
  simp only [flags, w3, wd] at hW
  have e0 : fld W 29 1 = 1 := by simp only [fld]; omega
  have e1 : fld W 24 6 = 34 := by simp only [fld]; omega
  have f0 : opAt W 16 = .ok x0 := opAt_code (by simp only [fld]; omega)
  have f1 : opAt W 8 = .ok x1 := opAt_code (by simp only [fld]; omega)
  have f2 : opAt W 0 = .ok x2 := opAt_code (by simp only [fld]; omega)
  simp only [decode, decA, decT, e0, e1, f0, f1, f2]
  rfl

theorem RoundTrip.mulhS64 (x0 : Operand) (x1 : Operand) (x2 : Operand) : RoundTrip.Statement (.mulhS64 x0 x1 x2) := by
  have hx0 := Operand.code_lt x0; have hx1 := Operand.code_lt x1; have hx2 := Operand.code_lt x2
  refine RoundTrip.of_code rfl (by simp only [w3, wd]; omega) fun l m => ?_
  have hl := RoundTrip.bool_lt l; have hm := RoundTrip.bool_lt m
  generalize hW : flags l m _ = W
  simp only [flags, w3, wd] at hW
  have e0 : fld W 29 1 = 1 := by simp only [fld]; omega
  have e1 : fld W 24 6 = 35 := by simp only [fld]; omega
  have f0 : opAt W 16 = .ok x0 := opAt_code (by simp only [fld]; omega)
  have f1 : opAt W 8 = .ok x1 := opAt_code (by simp only [fld]; omega)
  have f2 : opAt W 0 = .ok x2 := opAt_code (by simp only [fld]; omega)
  simp only [decode, decA, decT, e0, e1, f0, f1, f2]
  rfl

theorem RoundTrip.mulhN64 (x0 : Operand) (x1 : Operand) (x2 : Operand) : RoundTrip.Statement (.mulhN64 x0 x1 x2) := by
  have hx0 := Operand.code_lt x0; have hx1 := Operand.code_lt x1; have hx2 := Operand.code_lt x2
  refine RoundTrip.of_code rfl (by simp only [w3, wd]; omega) fun l m => ?_
  have hl := RoundTrip.bool_lt l; have hm := RoundTrip.bool_lt m
  generalize hW : flags l m _ = W
  simp only [flags, w3, wd] at hW
  have e0 : fld W 29 1 = 1 := by simp only [fld]; omega
  have e1 : fld W 24 6 = 36 := by simp only [fld]; omega
  have f0 : opAt W 16 = .ok x0 := opAt_code (by simp only [fld]; omega)
  have f1 : opAt W 8 = .ok x1 := opAt_code (by simp only [fld]; omega)
  have f2 : opAt W 0 = .ok x2 := opAt_code (by simp only [fld]; omega)
  simp only [decode, decA, decT, e0, e1, f0, f1, f2]
  rfl

theorem RoundTrip.and (x0 : Operand) (x1 : Operand) (x2 : Operand) : RoundTrip.Statement (.and x0 x1 x2) := by
  have hx0 := Operand.code_lt x0; have hx1 := Operand.code_lt x1; have hx2 := Operand.code_lt x2
  refine RoundTrip.of_code rfl (by simp only [w3, wd]; omega) fun l m => ?_
  have hl := RoundTrip.bool_lt l; have hm := RoundTrip.bool_lt m
  generalize hW : flags l m _ = W
  simp only [flags, w3, wd] at hW
  have e0 : fld W 29 1 = 1 := by simp only [fld]; omega
  have e1 : fld W 24 6 = 37 := by simp only [fld]; omega
  have f0 : opAt W 16 = .ok x0 := opAt_code (by simp only [fld]; omega)
  have f1 : opAt W 8 = .ok x1 := opAt_code (by simp only [fld]; omega)
  have f2 : opAt W 0 = .ok x2 := opAt_code (by simp only [fld]; omega)
  simp only [decode, decA, decT, e0, e1, f0, f1, f2]
  rfl

theorem RoundTrip.or (x0 : Operand) (x1 : Operand) (x2 : Operand) : RoundTrip.Statement (.or x0 x1 x2) := by
  have hx0 := Operand.code_lt x0; have hx1 := Operand.code_lt x1; have hx2 := Operand.code_lt x2
  refine RoundTrip.of_code rfl (by simp only [w3, wd]; omega) fun l m => ?_
  have hl := RoundTrip.bool_lt l; have hm := RoundTrip.bool_lt m
  generalize hW : flags l m _ = W
  simp only [flags, w3, wd] at hW
  have e0 : fld W 29 1 = 1 := by simp only [fld]; omega
  have e1 : fld W 24 6 = 38 := by simp only [fld]; omega
  have f0 : opAt W 16 = .ok x0 := opAt_code (by simp only [fld]; omega)
  have f1 : opAt W 8 = .ok x1 := opAt_code (by simp only [fld]; omega)
  have f2 : opAt W 0 = .ok x2 := opAt_code (by simp only [fld]; omega)
  simp only [decode, decA, decT, e0, e1, f0, f1, f2]
  rfl

theorem RoundTrip.xor (x0 : Operand) (x1 : Operand) (x2 : Operand) : RoundTrip.Statement (.xor x0 x1 x2) := by
  have hx0 := Operand.code_lt x0; have hx1 := Operand.code_lt x1; have hx2 := Operand.code_lt x2
  refine RoundTrip.of_code rfl (by simp only [w3, wd]; omega) fun l m => ?_
  have hl := RoundTrip.bool_lt l; have hm := RoundTrip.bool_lt m
  generalize hW : flags l m _ = W
  simp only [flags, w3, wd] at hW
  have e0 : fld W 29 1 = 1 := by simp only [fld]; omega
  have e1 : fld W 24 6 = 39 := by simp only [fld]; omega
  have f0 : opAt W 16 = .ok x0 := opAt_code (by simp only [fld]; omega)
  have f1 : opAt W 8 = .ok x1 := opAt_code (by simp only [fld]; omega)
  have f2 : opAt W 0 = .ok x2 := opAt_code (by simp only [fld]; omega)
  simp only [decode, decA, decT, e0, e1, f0, f1, f2]
  rfl

theorem RoundTrip.shl (x0 : Operand) (x1 : Operand) (x2 : Operand) : RoundTrip.Statement (.shl x0 x1 x2) := by
  have hx0 := Operand.code_lt x0; have hx1 := Operand.code_lt x1; have hx2 := Operand.code_lt x2
  refine RoundTrip.of_code rfl (by simp only [w3, wd]; omega) fun l m => ?_
  have hl := RoundTrip.bool_lt l; have hm := RoundTrip.bool_lt m
  generalize hW : flags l m _ = W
  simp only [flags, w3, wd] at hW
  have e0 : fld W 29 1 = 1 := by simp only [fld]; omega
  have e1 : fld W 24 6 = 40 := by simp only [fld]; omega
  have f0 : opAt W 16 = .ok x0 := opAt_code (by simp only [fld]; omega)
  have f1 : opAt W 8 = .ok x1 := opAt_code (by simp only [fld]; omega)
  have f2 : opAt W 0 = .ok x2 := opAt_code (by simp only [fld]; omega)
  simp only [decode, decA, decT, e0, e1, f0, f1, f2]
  rfl

theorem RoundTrip.shrN64 (x0 : Operand) (x1 : Operand) (x2 : Operand) : RoundTrip.Statement (.shrN64 x0 x1 x2) := by
  have hx0 := Operand.code_lt x0; have hx1 := Operand.code_lt x1; have hx2 := Operand.code_lt x2
  refine RoundTrip.of_code rfl (by simp only [w3, wd]; omega) fun l m => ?_
  have hl := RoundTrip.bool_lt l; have hm := RoundTrip.bool_lt m
  generalize hW : flags l m _ = W
  simp only [flags, w3, wd] at hW
  have e0 : fld W 29 1 = 1 := by simp only [fld]; omega
  have e1 : fld W 24 6 = 41 := by simp only [fld]; omega
  have f0 : opAt W 16 = .ok x0 := opAt_code (by simp only [fld]; omega)
  have f1 : opAt W 8 = .ok x1 := opAt_code (by simp only [fld]; omega)
  have f2 : opAt W 0 = .ok x2 := opAt_code (by simp only [fld]; omega)
  simp only [decode, decA, decT, e0, e1, f0, f1, f2]
  rfl

theorem RoundTrip.shrS64 (x0 : Operand) (x1 : Operand) (x2 : Operand) : RoundTrip.Statement (.shrS64 x0 x1 x2) := by
  have hx0 := Operand.code_lt x0; have hx1 := Operand.code_lt x1; have hx2 := Operand.code_lt x2
  refine RoundTrip.of_code rfl (by simp only [w3, wd]; omega) fun l m => ?_
  have hl := RoundTrip.bool_lt l; have hm := RoundTrip.bool_lt m
  generalize hW : flags l m _ = W
  simp only [flags, w3, wd] at hW
  have e0 : fld W 29 1 = 1 := by simp only [fld]; omega
  have e1 : fld W 24 6 = 42 := by simp only [fld]; omega
  have f0 : opAt W 16 = .ok x0 := opAt_code (by simp only [fld]; omega)
  have f1 : opAt W 8 = .ok x1 := opAt_code (by simp only [fld]; omega)
  have f2 : opAt W 0 = .ok x2 := opAt_code (by simp only [fld]; omega)
  simp only [decode, decA, decT, e0, e1, f0, f1, f2]
  rfl

theorem RoundTrip.sltS64 (x0 : Operand) (x1 : Operand) (x2 : Operand) : RoundTrip.Statement (.sltS64 x0 x1 x2) := by
  have hx0 := Operand.code_lt x0; have hx1 := Operand.code_lt x1; have hx2 := Operand.code_lt x2
  refine RoundTrip.of_code rfl (by simp only [w3, wd]; omega) fun l m => ?_
  have hl := RoundTrip.bool_lt l; have hm := RoundTrip.bool_lt m
  generalize hW : flags l m _ = W
  simp only [flags, w3, wd] at hW
  have e0 : fld W 29 1 = 1 := by simp only [fld]; omega
  have e1 : fld W 24 6 = 43 := by simp only [fld]; omega
  have f0 : opAt W 16 = .ok x0 := opAt_code (by simp only [fld]; omega)
  have f1 : opAt W 8 = .ok x1 := opAt_code (by simp only [fld]; omega)
  have f2 : opAt W 0 = .ok x2 := opAt_code (by simp only [fld]; omega)
  simp only [decode, decA, decT, e0, e1, f0, f1, f2]
  rfl

theorem RoundTrip.sltN64 (x0 : Operand) (x1 : Operand) (x2 : Operand) : RoundTrip.Statement (.sltN64 x0 x1 x2) := by
  have hx0 := Operand.code_lt x0; have hx1 := Operand.code_lt x1; have hx2 := Operand.code_lt x2
  refine RoundTrip.of_code rfl (by simp only [w3, wd]; omega) fun l m => ?_
  have hl := RoundTrip.bool_lt l; have hm := RoundTrip.bool_lt m
  generalize hW : flags l m _ = W
  simp only [flags, w3, wd] at hW
  have e0 : fld W 29 1 = 1 := by simp only [fld]; omega
  have e1 : fld W 24 6 = 44 := by simp only [fld]; omega
  have f0 : opAt W 16 = .ok x0 := opAt_code (by simp only [fld]; omega)
  have f1 : opAt W 8 = .ok x1 := opAt_code (by simp only [fld]; omega)
  have f2 : opAt W 0 = .ok x2 := opAt_code (by simp only [fld]; omega)
  simp only [decode, decA, decT, e0, e1, f0, f1, f2]
  rfl

theorem RoundTrip.seq (x0 : Operand) (x1 : Operand) (x2 : Operand) : RoundTrip.Statement (.seq x0 x1 x2) := by
  have hx0 := Operand.code_lt x0; have hx1 := Operand.code_lt x1; have hx2 := Operand.code_lt x2
  refine RoundTrip.of_code rfl (by simp only [w3, wd]; omega) fun l m => ?_
  have hl := RoundTrip.bool_lt l; have hm := RoundTrip.bool_lt m
  generalize hW : flags l m _ = W
  simp only [flags, w3, wd] at hW
  have e0 : fld W 29 1 = 1 := by simp only [fld]; omega
  have e1 : fld W 24 6 = 45 := by simp only [fld]; omega
  have f0 : opAt W 16 = .ok x0 := opAt_code (by simp only [fld]; omega)
  have f1 : opAt W 8 = .ok x1 := opAt_code (by simp only [fld]; omega)
  have f2 : opAt W 0 = .ok x2 := opAt_code (by simp only [fld]; omega)
  simp only [decode, decA, decT, e0, e1, f0, f1, f2]
  rfl

theorem RoundTrip.addi (x0 : Operand) (x1 : Operand) (x2 : BitVec 8) : RoundTrip.Statement (.addi x0 x1 x2) := by
  have hx0 := Operand.code_lt x0; have hx1 := Operand.code_lt x1; have hx2 := x2.isLt
  refine RoundTrip.of_code rfl (by simp only [w3, wd]; omega) fun l m => ?_
  have hl := RoundTrip.bool_lt l; have hm := RoundTrip.bool_lt m
  generalize hW : flags l m _ = W
  simp only [flags, w3, wd] at hW
  have e0 : fld W 29 1 = 1 := by simp only [fld]; omega
  have e1 : fld W 24 6 = 46 := by simp only [fld]; omega
  have f0 : opAt W 16 = .ok x0 := opAt_code (by simp only [fld]; omega)
  have f1 : opAt W 8 = .ok x1 := opAt_code (by simp only [fld]; omega)
  have f2 : BitVec.ofNat 8 (fld W 0 8) = x2 := ofNat_eq (by simp only [fld]; omega)
  simp only [decode, decA, e0, e1, f0, f1, f2]
  rfl

theorem RoundTrip.shli (x0 : Operand) (x1 : Operand) (x2 : Fin 64) : RoundTrip.Statement (.shli x0 x1 x2) := by
  have hx0 := Operand.code_lt x0; have hx1 := Operand.code_lt x1; have hx2 := x2.isLt
  refine RoundTrip.of_code rfl (by simp only [w3, wd]; omega) fun l m => ?_
  have hl := RoundTrip.bool_lt l; have hm := RoundTrip.bool_lt m
  generalize hW : flags l m _ = W
  simp only [flags, w3, wd] at hW
  have e0 : fld W 29 1 = 1 := by simp only [fld]; omega
  have e1 : fld W 24 6 = 47 := by simp only [fld]; omega
  have f0 : opAt W 16 = .ok x0 := opAt_code (by simp only [fld]; omega)
  have f1 : opAt W 8 = .ok x1 := opAt_code (by simp only [fld]; omega)
  have f2 : finAt 64 W 0 6 = x2 := finAt_eq (by simp only [fld]; omega)
  have f3 : fld W 6 2 = 0 := by simp only [fld]; omega
  simp only [decode, decA, decShi, zeroAt, e0, e1, f0, f1, f2, f3]
  rfl

theorem RoundTrip.shriN64 (x0 : Operand) (x1 : Operand) (x2 : Fin 64) : RoundTrip.Statement (.shriN64 x0 x1 x2) := by
  have hx0 := Operand.code_lt x0; have hx1 := Operand.code_lt x1; have hx2 := x2.isLt
  refine RoundTrip.of_code rfl (by simp only [w3, wd]; omega) fun l m => ?_
  have hl := RoundTrip.bool_lt l; have hm := RoundTrip.bool_lt m
  generalize hW : flags l m _ = W
  simp only [flags, w3, wd] at hW
  have e0 : fld W 29 1 = 1 := by simp only [fld]; omega
  have e1 : fld W 24 6 = 47 := by simp only [fld]; omega
  have f0 : opAt W 16 = .ok x0 := opAt_code (by simp only [fld]; omega)
  have f1 : opAt W 8 = .ok x1 := opAt_code (by simp only [fld]; omega)
  have f2 : finAt 64 W 0 6 = x2 := finAt_eq (by simp only [fld]; omega)
  have f3 : fld W 6 2 = 1 := by simp only [fld]; omega
  simp only [decode, decA, decShi, e0, e1, f0, f1, f2, f3]
  rfl

theorem RoundTrip.shriS64 (x0 : Operand) (x1 : Operand) (x2 : Fin 64) : RoundTrip.Statement (.shriS64 x0 x1 x2) := by
  have hx0 := Operand.code_lt x0; have hx1 := Operand.code_lt x1; have hx2 := x2.isLt
  refine RoundTrip.of_code rfl (by simp only [w3, wd]; omega) fun l m => ?_
  have hl := RoundTrip.bool_lt l; have hm := RoundTrip.bool_lt m
  generalize hW : flags l m _ = W
  simp only [flags, w3, wd] at hW
  have e0 : fld W 29 1 = 1 := by simp only [fld]; omega
  have e1 : fld W 24 6 = 47 := by simp only [fld]; omega
  have f0 : opAt W 16 = .ok x0 := opAt_code (by simp only [fld]; omega)
  have f1 : opAt W 8 = .ok x1 := opAt_code (by simp only [fld]; omega)
  have f2 : finAt 64 W 0 6 = x2 := finAt_eq (by simp only [fld]; omega)
  have f3 : fld W 6 2 = 2 := by simp only [fld]; omega
  simp only [decode, decA, decShi, e0, e1, f0, f1, f2, f3]
  rfl

theorem RoundTrip.rotri (x0 : Operand) (x1 : Operand) (x2 : Fin 64) : RoundTrip.Statement (.rotri x0 x1 x2) := by
  have hx0 := Operand.code_lt x0; have hx1 := Operand.code_lt x1; have hx2 := x2.isLt
  refine RoundTrip.of_code rfl (by simp only [w3, wd]; omega) fun l m => ?_
  have hl := RoundTrip.bool_lt l; have hm := RoundTrip.bool_lt m
  generalize hW : flags l m _ = W
  simp only [flags, w3, wd] at hW
  have e0 : fld W 29 1 = 1 := by simp only [fld]; omega
  have e1 : fld W 24 6 = 47 := by simp only [fld]; omega
  have f0 : opAt W 16 = .ok x0 := opAt_code (by simp only [fld]; omega)
  have f1 : opAt W 8 = .ok x1 := opAt_code (by simp only [fld]; omega)
  have f2 : finAt 64 W 0 6 = x2 := finAt_eq (by simp only [fld]; omega)
  have f3 : fld W 6 2 = 3 := by simp only [fld]; omega
  simp only [decode, decA, decShi, e0, e1, f0, f1, f2, f3]
  rfl

theorem RoundTrip.li (x0 : Operand) (x1 : BitVec 16) : RoundTrip.Statement (.li x0 x1) := by
  have hx0 := Operand.code_lt x0; have hx1 := x1.isLt
  refine RoundTrip.of_code rfl (by simp only [wd]; omega) fun l m => ?_
  have hl := RoundTrip.bool_lt l; have hm := RoundTrip.bool_lt m
  generalize hW : flags l m _ = W
  simp only [flags, wd] at hW
  have e0 : fld W 29 1 = 1 := by simp only [fld]; omega
  have e1 : fld W 24 6 = 48 := by simp only [fld]; omega
  have f0 : opAt W 16 = .ok x0 := opAt_code (by simp only [fld]; omega)
  have f1 : BitVec.ofNat 16 (fld W 0 16) = x1 := ofNat_eq (by simp only [fld]; omega)
  simp only [decode, decA, e0, e1, f0, f1]
  rfl

theorem RoundTrip.lis (x0 : Operand) (x1 : BitVec 16) : RoundTrip.Statement (.lis x0 x1) := by
  have hx0 := Operand.code_lt x0; have hx1 := x1.isLt
  refine RoundTrip.of_code rfl (by simp only [wd]; omega) fun l m => ?_
  have hl := RoundTrip.bool_lt l; have hm := RoundTrip.bool_lt m
  generalize hW : flags l m _ = W
  simp only [flags, wd] at hW
  have e0 : fld W 29 1 = 1 := by simp only [fld]; omega
  have e1 : fld W 24 6 = 49 := by simp only [fld]; omega
  have f0 : opAt W 16 = .ok x0 := opAt_code (by simp only [fld]; omega)
  have f1 : BitVec.ofNat 16 (fld W 0 16) = x1 := ofNat_eq (by simp only [fld]; omega)
  simp only [decode, decA, e0, e1, f0, f1]
  rfl

theorem RoundTrip.bfx (x0 : Operand) (x1 : Operand) (x2 : Operand) : RoundTrip.Statement (.bfx x0 x1 x2) := by
  have hx0 := Operand.code_lt x0; have hx1 := Operand.code_lt x1; have hx2 := Operand.code_lt x2
  refine RoundTrip.of_code rfl (by simp only [w3, wd]; omega) fun l m => ?_
  have hl := RoundTrip.bool_lt l; have hm := RoundTrip.bool_lt m
  generalize hW : flags l m _ = W
  simp only [flags, w3, wd] at hW
  have e0 : fld W 29 1 = 1 := by simp only [fld]; omega
  have e1 : fld W 24 6 = 50 := by simp only [fld]; omega
  have f0 : opAt W 16 = .ok x0 := opAt_code (by simp only [fld]; omega)
  have f1 : opAt W 8 = .ok x1 := opAt_code (by simp only [fld]; omega)
  have f2 : opAt W 0 = .ok x2 := opAt_code (by simp only [fld]; omega)
  simp only [decode, decA, decT, e0, e1, f0, f1, f2]
  rfl

theorem RoundTrip.bfi (x0 : Operand) (x1 : Operand) (x2 : Operand) : RoundTrip.Statement (.bfi x0 x1 x2) := by
  have hx0 := Operand.code_lt x0; have hx1 := Operand.code_lt x1; have hx2 := Operand.code_lt x2
  refine RoundTrip.of_code rfl (by simp only [w3, wd]; omega) fun l m => ?_
  have hl := RoundTrip.bool_lt l; have hm := RoundTrip.bool_lt m
  generalize hW : flags l m _ = W
  simp only [flags, w3, wd] at hW
  have e0 : fld W 29 1 = 1 := by simp only [fld]; omega
  have e1 : fld W 24 6 = 51 := by simp only [fld]; omega
  have f0 : opAt W 16 = .ok x0 := opAt_code (by simp only [fld]; omega)
  have f1 : opAt W 8 = .ok x1 := opAt_code (by simp only [fld]; omega)
  have f2 : opAt W 0 = .ok x2 := opAt_code (by simp only [fld]; omega)
  simp only [decode, decA, decT, e0, e1, f0, f1, f2]
  rfl

theorem RoundTrip.mov (x0 : Operand) (x1 : Operand) : RoundTrip.Statement (.mov x0 x1) := by
  have hx0 := Operand.code_lt x0; have hx1 := Operand.code_lt x1
  refine RoundTrip.of_code rfl (by simp only [w3, wd]; omega) fun l m => ?_
  have hl := RoundTrip.bool_lt l; have hm := RoundTrip.bool_lt m
  generalize hW : flags l m _ = W
  simp only [flags, w3, wd] at hW
  have e0 : fld W 29 1 = 1 := by simp only [fld]; omega
  have e1 : fld W 24 6 = 52 := by simp only [fld]; omega
  have f0 : fld W 0 8 = 0 := by simp only [fld]; omega
  have f1 : opAt W 16 = .ok x0 := opAt_code (by simp only [fld]; omega)
  have f2 : opAt W 8 = .ok x1 := opAt_code (by simp only [fld]; omega)
  simp only [decode, decA, decUn, zeroAt, e0, e1, f0, f1, f2]
  rfl

theorem RoundTrip.not (x0 : Operand) (x1 : Operand) : RoundTrip.Statement (.not x0 x1) := by
  have hx0 := Operand.code_lt x0; have hx1 := Operand.code_lt x1
  refine RoundTrip.of_code rfl (by simp only [w3, wd]; omega) fun l m => ?_
  have hl := RoundTrip.bool_lt l; have hm := RoundTrip.bool_lt m
  generalize hW : flags l m _ = W
  simp only [flags, w3, wd] at hW
  have e0 : fld W 29 1 = 1 := by simp only [fld]; omega
  have e1 : fld W 24 6 = 52 := by simp only [fld]; omega
  have f0 : fld W 0 8 = 1 := by simp only [fld]; omega
  have f1 : opAt W 16 = .ok x0 := opAt_code (by simp only [fld]; omega)
  have f2 : opAt W 8 = .ok x1 := opAt_code (by simp only [fld]; omega)
  simp only [decode, decA, decUn, e0, e1, f0, f1, f2]
  rfl

theorem RoundTrip.neg (x0 : Operand) (x1 : Operand) : RoundTrip.Statement (.neg x0 x1) := by
  have hx0 := Operand.code_lt x0; have hx1 := Operand.code_lt x1
  refine RoundTrip.of_code rfl (by simp only [w3, wd]; omega) fun l m => ?_
  have hl := RoundTrip.bool_lt l; have hm := RoundTrip.bool_lt m
  generalize hW : flags l m _ = W
  simp only [flags, w3, wd] at hW
  have e0 : fld W 29 1 = 1 := by simp only [fld]; omega
  have e1 : fld W 24 6 = 52 := by simp only [fld]; omega
  have f0 : fld W 0 8 = 2 := by simp only [fld]; omega
  have f1 : opAt W 16 = .ok x0 := opAt_code (by simp only [fld]; omega)
  have f2 : opAt W 8 = .ok x1 := opAt_code (by simp only [fld]; omega)
  simp only [decode, decA, decUn, e0, e1, f0, f1, f2]
  rfl

theorem RoundTrip.absS64 (x0 : Operand) (x1 : Operand) : RoundTrip.Statement (.absS64 x0 x1) := by
  have hx0 := Operand.code_lt x0; have hx1 := Operand.code_lt x1
  refine RoundTrip.of_code rfl (by simp only [w3, wd]; omega) fun l m => ?_
  have hl := RoundTrip.bool_lt l; have hm := RoundTrip.bool_lt m
  generalize hW : flags l m _ = W
  simp only [flags, w3, wd] at hW
  have e0 : fld W 29 1 = 1 := by simp only [fld]; omega
  have e1 : fld W 24 6 = 52 := by simp only [fld]; omega
  have f0 : fld W 0 8 = 3 := by simp only [fld]; omega
  have f1 : opAt W 16 = .ok x0 := opAt_code (by simp only [fld]; omega)
  have f2 : opAt W 8 = .ok x1 := opAt_code (by simp only [fld]; omega)
  simp only [decode, decA, decUn, e0, e1, f0, f1, f2]
  rfl

theorem RoundTrip.popc (x0 : Operand) (x1 : Operand) : RoundTrip.Statement (.popc x0 x1) := by
  have hx0 := Operand.code_lt x0; have hx1 := Operand.code_lt x1
  refine RoundTrip.of_code rfl (by simp only [w3, wd]; omega) fun l m => ?_
  have hl := RoundTrip.bool_lt l; have hm := RoundTrip.bool_lt m
  generalize hW : flags l m _ = W
  simp only [flags, w3, wd] at hW
  have e0 : fld W 29 1 = 1 := by simp only [fld]; omega
  have e1 : fld W 24 6 = 52 := by simp only [fld]; omega
  have f0 : fld W 0 8 = 4 := by simp only [fld]; omega
  have f1 : opAt W 16 = .ok x0 := opAt_code (by simp only [fld]; omega)
  have f2 : opAt W 8 = .ok x1 := opAt_code (by simp only [fld]; omega)
  simp only [decode, decA, decUn, e0, e1, f0, f1, f2]
  rfl

theorem RoundTrip.clz (x0 : Operand) (x1 : Operand) : RoundTrip.Statement (.clz x0 x1) := by
  have hx0 := Operand.code_lt x0; have hx1 := Operand.code_lt x1
  refine RoundTrip.of_code rfl (by simp only [w3, wd]; omega) fun l m => ?_
  have hl := RoundTrip.bool_lt l; have hm := RoundTrip.bool_lt m
  generalize hW : flags l m _ = W
  simp only [flags, w3, wd] at hW
  have e0 : fld W 29 1 = 1 := by simp only [fld]; omega
  have e1 : fld W 24 6 = 52 := by simp only [fld]; omega
  have f0 : fld W 0 8 = 5 := by simp only [fld]; omega
  have f1 : opAt W 16 = .ok x0 := opAt_code (by simp only [fld]; omega)
  have f2 : opAt W 8 = .ok x1 := opAt_code (by simp only [fld]; omega)
  simp only [decode, decA, decUn, e0, e1, f0, f1, f2]
  rfl

theorem RoundTrip.ctz (x0 : Operand) (x1 : Operand) : RoundTrip.Statement (.ctz x0 x1) := by
  have hx0 := Operand.code_lt x0; have hx1 := Operand.code_lt x1
  refine RoundTrip.of_code rfl (by simp only [w3, wd]; omega) fun l m => ?_
  have hl := RoundTrip.bool_lt l; have hm := RoundTrip.bool_lt m
  generalize hW : flags l m _ = W
  simp only [flags, w3, wd] at hW
  have e0 : fld W 29 1 = 1 := by simp only [fld]; omega
  have e1 : fld W 24 6 = 52 := by simp only [fld]; omega
  have f0 : fld W 0 8 = 6 := by simp only [fld]; omega
  have f1 : opAt W 16 = .ok x0 := opAt_code (by simp only [fld]; omega)
  have f2 : opAt W 8 = .ok x1 := opAt_code (by simp only [fld]; omega)
  simp only [decode, decA, decUn, e0, e1, f0, f1, f2]
  rfl

theorem RoundTrip.bswap (x0 : Operand) (x1 : Operand) : RoundTrip.Statement (.bswap x0 x1) := by
  have hx0 := Operand.code_lt x0; have hx1 := Operand.code_lt x1
  refine RoundTrip.of_code rfl (by simp only [w3, wd]; omega) fun l m => ?_
  have hl := RoundTrip.bool_lt l; have hm := RoundTrip.bool_lt m
  generalize hW : flags l m _ = W
  simp only [flags, w3, wd] at hW
  have e0 : fld W 29 1 = 1 := by simp only [fld]; omega
  have e1 : fld W 24 6 = 52 := by simp only [fld]; omega
  have f0 : fld W 0 8 = 7 := by simp only [fld]; omega
  have f1 : opAt W 16 = .ok x0 := opAt_code (by simp only [fld]; omega)
  have f2 : opAt W 8 = .ok x1 := opAt_code (by simp only [fld]; omega)
  simp only [decode, decA, decUn, e0, e1, f0, f1, f2]
  rfl

theorem RoundTrip.brev (x0 : Operand) (x1 : Operand) : RoundTrip.Statement (.brev x0 x1) := by
  have hx0 := Operand.code_lt x0; have hx1 := Operand.code_lt x1
  refine RoundTrip.of_code rfl (by simp only [w3, wd]; omega) fun l m => ?_
  have hl := RoundTrip.bool_lt l; have hm := RoundTrip.bool_lt m
  generalize hW : flags l m _ = W
  simp only [flags, w3, wd] at hW
  have e0 : fld W 29 1 = 1 := by simp only [fld]; omega
  have e1 : fld W 24 6 = 52 := by simp only [fld]; omega
  have f0 : fld W 0 8 = 8 := by simp only [fld]; omega
  have f1 : opAt W 16 = .ok x0 := opAt_code (by simp only [fld]; omega)
  have f2 : opAt W 8 = .ok x1 := opAt_code (by simp only [fld]; omega)
  simp only [decode, decA, decUn, e0, e1, f0, f1, f2]
  rfl

theorem RoundTrip.sextS8 (x0 : Operand) (x1 : Operand) : RoundTrip.Statement (.sextS8 x0 x1) := by
  have hx0 := Operand.code_lt x0; have hx1 := Operand.code_lt x1
  refine RoundTrip.of_code rfl (by simp only [w3, wd]; omega) fun l m => ?_
  have hl := RoundTrip.bool_lt l; have hm := RoundTrip.bool_lt m
  generalize hW : flags l m _ = W
  simp only [flags, w3, wd] at hW
  have e0 : fld W 29 1 = 1 := by simp only [fld]; omega
  have e1 : fld W 24 6 = 52 := by simp only [fld]; omega
  have f0 : fld W 0 8 = 9 := by simp only [fld]; omega
  have f1 : opAt W 16 = .ok x0 := opAt_code (by simp only [fld]; omega)
  have f2 : opAt W 8 = .ok x1 := opAt_code (by simp only [fld]; omega)
  simp only [decode, decA, decUn, e0, e1, f0, f1, f2]
  rfl

theorem RoundTrip.sextS16 (x0 : Operand) (x1 : Operand) : RoundTrip.Statement (.sextS16 x0 x1) := by
  have hx0 := Operand.code_lt x0; have hx1 := Operand.code_lt x1
  refine RoundTrip.of_code rfl (by simp only [w3, wd]; omega) fun l m => ?_
  have hl := RoundTrip.bool_lt l; have hm := RoundTrip.bool_lt m
  generalize hW : flags l m _ = W
  simp only [flags, w3, wd] at hW
  have e0 : fld W 29 1 = 1 := by simp only [fld]; omega
  have e1 : fld W 24 6 = 52 := by simp only [fld]; omega
  have f0 : fld W 0 8 = 10 := by simp only [fld]; omega
  have f1 : opAt W 16 = .ok x0 := opAt_code (by simp only [fld]; omega)
  have f2 : opAt W 8 = .ok x1 := opAt_code (by simp only [fld]; omega)
  simp only [decode, decA, decUn, e0, e1, f0, f1, f2]
  rfl

theorem RoundTrip.sextS32 (x0 : Operand) (x1 : Operand) : RoundTrip.Statement (.sextS32 x0 x1) := by
  have hx0 := Operand.code_lt x0; have hx1 := Operand.code_lt x1
  refine RoundTrip.of_code rfl (by simp only [w3, wd]; omega) fun l m => ?_
  have hl := RoundTrip.bool_lt l; have hm := RoundTrip.bool_lt m
  generalize hW : flags l m _ = W
  simp only [flags, w3, wd] at hW
  have e0 : fld W 29 1 = 1 := by simp only [fld]; omega
  have e1 : fld W 24 6 = 52 := by simp only [fld]; omega
  have f0 : fld W 0 8 = 11 := by simp only [fld]; omega
  have f1 : opAt W 16 = .ok x0 := opAt_code (by simp only [fld]; omega)
  have f2 : opAt W 8 = .ok x1 := opAt_code (by simp only [fld]; omega)
  simp only [decode, decA, decUn, e0, e1, f0, f1, f2]
  rfl

theorem RoundTrip.zextN8 (x0 : Operand) (x1 : Operand) : RoundTrip.Statement (.zextN8 x0 x1) := by
  have hx0 := Operand.code_lt x0; have hx1 := Operand.code_lt x1
  refine RoundTrip.of_code rfl (by simp only [w3, wd]; omega) fun l m => ?_
  have hl := RoundTrip.bool_lt l; have hm := RoundTrip.bool_lt m
  generalize hW : flags l m _ = W
  simp only [flags, w3, wd] at hW
  have e0 : fld W 29 1 = 1 := by simp only [fld]; omega
  have e1 : fld W 24 6 = 52 := by simp only [fld]; omega
  have f0 : fld W 0 8 = 12 := by simp only [fld]; omega
  have f1 : opAt W 16 = .ok x0 := opAt_code (by simp only [fld]; omega)
  have f2 : opAt W 8 = .ok x1 := opAt_code (by simp only [fld]; omega)
  simp only [decode, decA, decUn, e0, e1, f0, f1, f2]
  rfl

theorem RoundTrip.zextN16 (x0 : Operand) (x1 : Operand) : RoundTrip.Statement (.zextN16 x0 x1) := by
  have hx0 := Operand.code_lt x0; have hx1 := Operand.code_lt x1
  refine RoundTrip.of_code rfl (by simp only [w3, wd]; omega) fun l m => ?_
  have hl := RoundTrip.bool_lt l; have hm := RoundTrip.bool_lt m
  generalize hW : flags l m _ = W
  simp only [flags, w3, wd] at hW
  have e0 : fld W 29 1 = 1 := by simp only [fld]; omega
  have e1 : fld W 24 6 = 52 := by simp only [fld]; omega
  have f0 : fld W 0 8 = 13 := by simp only [fld]; omega
  have f1 : opAt W 16 = .ok x0 := opAt_code (by simp only [fld]; omega)
  have f2 : opAt W 8 = .ok x1 := opAt_code (by simp only [fld]; omega)
  simp only [decode, decA, decUn, e0, e1, f0, f1, f2]
  rfl

theorem RoundTrip.zextN32 (x0 : Operand) (x1 : Operand) : RoundTrip.Statement (.zextN32 x0 x1) := by
  have hx0 := Operand.code_lt x0; have hx1 := Operand.code_lt x1
  refine RoundTrip.of_code rfl (by simp only [w3, wd]; omega) fun l m => ?_
  have hl := RoundTrip.bool_lt l; have hm := RoundTrip.bool_lt m
  generalize hW : flags l m _ = W
  simp only [flags, w3, wd] at hW
  have e0 : fld W 29 1 = 1 := by simp only [fld]; omega
  have e1 : fld W 24 6 = 52 := by simp only [fld]; omega
  have f0 : fld W 0 8 = 14 := by simp only [fld]; omega
  have f1 : opAt W 16 = .ok x0 := opAt_code (by simp only [fld]; omega)
  have f2 : opAt W 8 = .ok x1 := opAt_code (by simp only [fld]; omega)
  simp only [decode, decA, decUn, e0, e1, f0, f1, f2]
  rfl

theorem RoundTrip.qmaxx (x0 : Operand) (x1 : Operand) : RoundTrip.Statement (.qmaxx x0 x1) := by
  have hx0 := Operand.code_lt x0; have hx1 := Operand.code_lt x1
  refine RoundTrip.of_code rfl (by simp only [w3, wd]; omega) fun l m => ?_
  have hl := RoundTrip.bool_lt l; have hm := RoundTrip.bool_lt m
  generalize hW : flags l m _ = W
  simp only [flags, w3, wd] at hW
  have e0 : fld W 29 1 = 1 := by simp only [fld]; omega
  have e1 : fld W 24 6 = 52 := by simp only [fld]; omega
  have f0 : fld W 0 8 = 16 := by simp only [fld]; omega
  have f1 : opAt W 16 = .ok x0 := opAt_code (by simp only [fld]; omega)
  have f2 : opAt W 8 = .ok x1 := opAt_code (by simp only [fld]; omega)
  simp only [decode, decA, decUn, e0, e1, f0, f1, f2]
  rfl

theorem RoundTrip.qscaleE4m3 (x0 : Operand) (x1 : Operand) : RoundTrip.Statement (.qscaleE4m3 x0 x1) := by
  have hx0 := Operand.code_lt x0; have hx1 := Operand.code_lt x1
  refine RoundTrip.of_code rfl (by simp only [w3, wd]; omega) fun l m => ?_
  have hl := RoundTrip.bool_lt l; have hm := RoundTrip.bool_lt m
  generalize hW : flags l m _ = W
  simp only [flags, w3, wd] at hW
  have e0 : fld W 29 1 = 1 := by simp only [fld]; omega
  have e1 : fld W 24 6 = 52 := by simp only [fld]; omega
  have f0 : fld W 0 8 = 17 := by simp only [fld]; omega
  have f1 : opAt W 16 = .ok x0 := opAt_code (by simp only [fld]; omega)
  have f2 : opAt W 8 = .ok x1 := opAt_code (by simp only [fld]; omega)
  simp only [decode, decA, decUn, e0, e1, f0, f1, f2]
  rfl

theorem RoundTrip.qscaleE3m2 (x0 : Operand) (x1 : Operand) : RoundTrip.Statement (.qscaleE3m2 x0 x1) := by
  have hx0 := Operand.code_lt x0; have hx1 := Operand.code_lt x1
  refine RoundTrip.of_code rfl (by simp only [w3, wd]; omega) fun l m => ?_
  have hl := RoundTrip.bool_lt l; have hm := RoundTrip.bool_lt m
  generalize hW : flags l m _ = W
  simp only [flags, w3, wd] at hW
  have e0 : fld W 29 1 = 1 := by simp only [fld]; omega
  have e1 : fld W 24 6 = 52 := by simp only [fld]; omega
  have f0 : fld W 0 8 = 18 := by simp only [fld]; omega
  have f1 : opAt W 16 = .ok x0 := opAt_code (by simp only [fld]; omega)
  have f2 : opAt W 8 = .ok x1 := opAt_code (by simp only [fld]; omega)
  simp only [decode, decA, decUn, e0, e1, f0, f1, f2]
  rfl

theorem RoundTrip.qscaleE2m1 (x0 : Operand) (x1 : Operand) : RoundTrip.Statement (.qscaleE2m1 x0 x1) := by
  have hx0 := Operand.code_lt x0; have hx1 := Operand.code_lt x1
  refine RoundTrip.of_code rfl (by simp only [w3, wd]; omega) fun l m => ?_
  have hl := RoundTrip.bool_lt l; have hm := RoundTrip.bool_lt m
  generalize hW : flags l m _ = W
  simp only [flags, w3, wd] at hW
  have e0 : fld W 29 1 = 1 := by simp only [fld]; omega
  have e1 : fld W 24 6 = 52 := by simp only [fld]; omega
  have f0 : fld W 0 8 = 19 := by simp only [fld]; omega
  have f1 : opAt W 16 = .ok x0 := opAt_code (by simp only [fld]; omega)
  have f2 : opAt W 8 = .ok x1 := opAt_code (by simp only [fld]; omega)
  simp only [decode, decA, decUn, e0, e1, f0, f1, f2]
  rfl

theorem RoundTrip.qscalei (x0 : Operand) (x1 : Operand) : RoundTrip.Statement (.qscalei x0 x1) := by
  have hx0 := Operand.code_lt x0; have hx1 := Operand.code_lt x1
  refine RoundTrip.of_code rfl (by simp only [w3, wd]; omega) fun l m => ?_
  have hl := RoundTrip.bool_lt l; have hm := RoundTrip.bool_lt m
  generalize hW : flags l m _ = W
  simp only [flags, w3, wd] at hW
  have e0 : fld W 29 1 = 1 := by simp only [fld]; omega
  have e1 : fld W 24 6 = 52 := by simp only [fld]; omega
  have f0 : fld W 0 8 = 20 := by simp only [fld]; omega
  have f1 : opAt W 16 = .ok x0 := opAt_code (by simp only [fld]; omega)
  have f2 : opAt W 8 = .ok x1 := opAt_code (by simp only [fld]; omega)
  simp only [decode, decA, decUn, e0, e1, f0, f1, f2]
  rfl

theorem RoundTrip.vlq (x0 : Operand) : RoundTrip.Statement (.vlq x0) := by
  have hx0 := Operand.code_lt x0
  refine RoundTrip.of_code rfl (by simp only [w3, wd]; omega) fun l m => ?_
  have hl := RoundTrip.bool_lt l; have hm := RoundTrip.bool_lt m
  generalize hW : flags l m _ = W
  simp only [flags, w3, wd] at hW
  have e0 : fld W 29 1 = 1 := by simp only [fld]; omega
  have e1 : fld W 24 6 = 52 := by simp only [fld]; omega
  have f0 : fld W 0 8 = 31 := by simp only [fld]; omega
  have f1 : fld W 8 8 = 0 := by simp only [fld]; omega
  have f2 : opAt W 16 = .ok x0 := opAt_code (by simp only [fld]; omega)
  simp only [decode, decA, decUn, zeroAt, e0, e1, f0, f1, f2]
  rfl

theorem RoundTrip.vlane (x0 : Operand) (x1 : Ty) : RoundTrip.Statement (.vlane x0 x1) := by
  exact RoundTrip.vlane_all x0 x1

theorem RoundTrip.vadd (x0 : Ty) (x1 : Fin 8) (x2 : Fin 32) (x3 : Fin 32) (x4 : Fin 32) : RoundTrip.Statement (.vadd x0 x1 x2 x3 x4) := by
  have hx0 := Ty.code_lt x0; have hx1 := x1.isLt; have hx2 := x2.isLt; have hx3 := x3.isLt; have hx4 := x4.isLt
  refine RoundTrip.of_code rfl (by simp only [wV, wd]; omega) fun l m => ?_
  have hl := RoundTrip.bool_lt l; have hm := RoundTrip.bool_lt m
  generalize hW : flags l m _ = W
  simp only [flags, wV, wd] at hW
  have e0 : fld W 29 1 = 1 := by simp only [fld]; omega
  have e1 : fld W 24 6 = 53 := by simp only [fld]; omega
  have f0 : fld W 18 2 = 0 := by simp only [fld]; omega
  have f1 : tyAt W 20 = .ok x0 := tyAt_code (by simp only [fld]; omega)
  have f2 : finAt 8 W 15 3 = x1 := finAt_eq (by simp only [fld]; omega)
  have f3 : finAt 32 W 10 5 = x2 := finAt_eq (by simp only [fld]; omega)
  have f4 : finAt 32 W 5 5 = x3 := finAt_eq (by simp only [fld]; omega)
  have f5 : finAt 32 W 0 5 = x4 := finAt_eq (by simp only [fld]; omega)
  simp only [decode, decA, decVec, decV, zeroAt, e0, e1, f0, f1, f2, f3, f4, f5]
  rfl

theorem RoundTrip.vsub (x0 : Ty) (x1 : Fin 8) (x2 : Fin 32) (x3 : Fin 32) (x4 : Fin 32) : RoundTrip.Statement (.vsub x0 x1 x2 x3 x4) := by
  have hx0 := Ty.code_lt x0; have hx1 := x1.isLt; have hx2 := x2.isLt; have hx3 := x3.isLt; have hx4 := x4.isLt
  refine RoundTrip.of_code rfl (by simp only [wV, wd]; omega) fun l m => ?_
  have hl := RoundTrip.bool_lt l; have hm := RoundTrip.bool_lt m
  generalize hW : flags l m _ = W
  simp only [flags, wV, wd] at hW
  have e0 : fld W 29 1 = 1 := by simp only [fld]; omega
  have e1 : fld W 24 6 = 53 := by simp only [fld]; omega
  have f0 : fld W 18 2 = 1 := by simp only [fld]; omega
  have f1 : tyAt W 20 = .ok x0 := tyAt_code (by simp only [fld]; omega)
  have f2 : finAt 8 W 15 3 = x1 := finAt_eq (by simp only [fld]; omega)
  have f3 : finAt 32 W 10 5 = x2 := finAt_eq (by simp only [fld]; omega)
  have f4 : finAt 32 W 5 5 = x3 := finAt_eq (by simp only [fld]; omega)
  have f5 : finAt 32 W 0 5 = x4 := finAt_eq (by simp only [fld]; omega)
  simp only [decode, decA, decVec, decV, e0, e1, f0, f1, f2, f3, f4, f5]
  rfl

theorem RoundTrip.vmul (x0 : Ty) (x1 : Fin 8) (x2 : Fin 32) (x3 : Fin 32) (x4 : Fin 32) : RoundTrip.Statement (.vmul x0 x1 x2 x3 x4) := by
  have hx0 := Ty.code_lt x0; have hx1 := x1.isLt; have hx2 := x2.isLt; have hx3 := x3.isLt; have hx4 := x4.isLt
  refine RoundTrip.of_code rfl (by simp only [wV, wd]; omega) fun l m => ?_
  have hl := RoundTrip.bool_lt l; have hm := RoundTrip.bool_lt m
  generalize hW : flags l m _ = W
  simp only [flags, wV, wd] at hW
  have e0 : fld W 29 1 = 1 := by simp only [fld]; omega
  have e1 : fld W 24 6 = 53 := by simp only [fld]; omega
  have f0 : fld W 18 2 = 2 := by simp only [fld]; omega
  have f1 : tyAt W 20 = .ok x0 := tyAt_code (by simp only [fld]; omega)
  have f2 : finAt 8 W 15 3 = x1 := finAt_eq (by simp only [fld]; omega)
  have f3 : finAt 32 W 10 5 = x2 := finAt_eq (by simp only [fld]; omega)
  have f4 : finAt 32 W 5 5 = x3 := finAt_eq (by simp only [fld]; omega)
  have f5 : finAt 32 W 0 5 = x4 := finAt_eq (by simp only [fld]; omega)
  simp only [decode, decA, decVec, decV, e0, e1, f0, f1, f2, f3, f4, f5]
  rfl

theorem RoundTrip.vfma (x0 : Ty) (x1 : Fin 8) (x2 : Fin 32) (x3 : Fin 32) (x4 : Fin 32) : RoundTrip.Statement (.vfma x0 x1 x2 x3 x4) := by
  have hx0 := Ty.code_lt x0; have hx1 := x1.isLt; have hx2 := x2.isLt; have hx3 := x3.isLt; have hx4 := x4.isLt
  refine RoundTrip.of_code rfl (by simp only [wV, wd]; omega) fun l m => ?_
  have hl := RoundTrip.bool_lt l; have hm := RoundTrip.bool_lt m
  generalize hW : flags l m _ = W
  simp only [flags, wV, wd] at hW
  have e0 : fld W 29 1 = 1 := by simp only [fld]; omega
  have e1 : fld W 24 6 = 53 := by simp only [fld]; omega
  have f0 : fld W 18 2 = 3 := by simp only [fld]; omega
  have f1 : tyAt W 20 = .ok x0 := tyAt_code (by simp only [fld]; omega)
  have f2 : finAt 8 W 15 3 = x1 := finAt_eq (by simp only [fld]; omega)
  have f3 : finAt 32 W 10 5 = x2 := finAt_eq (by simp only [fld]; omega)
  have f4 : finAt 32 W 5 5 = x3 := finAt_eq (by simp only [fld]; omega)
  have f5 : finAt 32 W 0 5 = x4 := finAt_eq (by simp only [fld]; omega)
  simp only [decode, decA, decVec, decV, e0, e1, f0, f1, f2, f3, f4, f5]
  rfl

theorem RoundTrip.vmin (x0 : Ty) (x1 : Fin 8) (x2 : Fin 32) (x3 : Fin 32) (x4 : Fin 32) : RoundTrip.Statement (.vmin x0 x1 x2 x3 x4) := by
  have hx0 := Ty.code_lt x0; have hx1 := x1.isLt; have hx2 := x2.isLt; have hx3 := x3.isLt; have hx4 := x4.isLt
  refine RoundTrip.of_code rfl (by simp only [wV, wd]; omega) fun l m => ?_
  have hl := RoundTrip.bool_lt l; have hm := RoundTrip.bool_lt m
  generalize hW : flags l m _ = W
  simp only [flags, wV, wd] at hW
  have e0 : fld W 29 1 = 1 := by simp only [fld]; omega
  have e1 : fld W 24 6 = 54 := by simp only [fld]; omega
  have f0 : fld W 18 2 = 0 := by simp only [fld]; omega
  have f1 : tyAt W 20 = .ok x0 := tyAt_code (by simp only [fld]; omega)
  have f2 : finAt 8 W 15 3 = x1 := finAt_eq (by simp only [fld]; omega)
  have f3 : finAt 32 W 10 5 = x2 := finAt_eq (by simp only [fld]; omega)
  have f4 : finAt 32 W 5 5 = x3 := finAt_eq (by simp only [fld]; omega)
  have f5 : finAt 32 W 0 5 = x4 := finAt_eq (by simp only [fld]; omega)
  simp only [decode, decA, decVec, decV, zeroAt, e0, e1, f0, f1, f2, f3, f4, f5]
  rfl

theorem RoundTrip.vmax (x0 : Ty) (x1 : Fin 8) (x2 : Fin 32) (x3 : Fin 32) (x4 : Fin 32) : RoundTrip.Statement (.vmax x0 x1 x2 x3 x4) := by
  have hx0 := Ty.code_lt x0; have hx1 := x1.isLt; have hx2 := x2.isLt; have hx3 := x3.isLt; have hx4 := x4.isLt
  refine RoundTrip.of_code rfl (by simp only [wV, wd]; omega) fun l m => ?_
  have hl := RoundTrip.bool_lt l; have hm := RoundTrip.bool_lt m
  generalize hW : flags l m _ = W
  simp only [flags, wV, wd] at hW
  have e0 : fld W 29 1 = 1 := by simp only [fld]; omega
  have e1 : fld W 24 6 = 54 := by simp only [fld]; omega
  have f0 : fld W 18 2 = 1 := by simp only [fld]; omega
  have f1 : tyAt W 20 = .ok x0 := tyAt_code (by simp only [fld]; omega)
  have f2 : finAt 8 W 15 3 = x1 := finAt_eq (by simp only [fld]; omega)
  have f3 : finAt 32 W 10 5 = x2 := finAt_eq (by simp only [fld]; omega)
  have f4 : finAt 32 W 5 5 = x3 := finAt_eq (by simp only [fld]; omega)
  have f5 : finAt 32 W 0 5 = x4 := finAt_eq (by simp only [fld]; omega)
  simp only [decode, decA, decVec, decV, e0, e1, f0, f1, f2, f3, f4, f5]
  rfl

theorem RoundTrip.vaddsat (x0 : Ty) (x1 : Fin 8) (x2 : Fin 32) (x3 : Fin 32) (x4 : Fin 32) : RoundTrip.Statement (.vaddsat x0 x1 x2 x3 x4) := by
  have hx0 := Ty.code_lt x0; have hx1 := x1.isLt; have hx2 := x2.isLt; have hx3 := x3.isLt; have hx4 := x4.isLt
  refine RoundTrip.of_code rfl (by simp only [wV, wd]; omega) fun l m => ?_
  have hl := RoundTrip.bool_lt l; have hm := RoundTrip.bool_lt m
  generalize hW : flags l m _ = W
  simp only [flags, wV, wd] at hW
  have e0 : fld W 29 1 = 1 := by simp only [fld]; omega
  have e1 : fld W 24 6 = 54 := by simp only [fld]; omega
  have f0 : fld W 18 2 = 2 := by simp only [fld]; omega
  have f1 : tyAt W 20 = .ok x0 := tyAt_code (by simp only [fld]; omega)
  have f2 : finAt 8 W 15 3 = x1 := finAt_eq (by simp only [fld]; omega)
  have f3 : finAt 32 W 10 5 = x2 := finAt_eq (by simp only [fld]; omega)
  have f4 : finAt 32 W 5 5 = x3 := finAt_eq (by simp only [fld]; omega)
  have f5 : finAt 32 W 0 5 = x4 := finAt_eq (by simp only [fld]; omega)
  simp only [decode, decA, decVec, decV, e0, e1, f0, f1, f2, f3, f4, f5]
  rfl

theorem RoundTrip.vsubsat (x0 : Ty) (x1 : Fin 8) (x2 : Fin 32) (x3 : Fin 32) (x4 : Fin 32) : RoundTrip.Statement (.vsubsat x0 x1 x2 x3 x4) := by
  have hx0 := Ty.code_lt x0; have hx1 := x1.isLt; have hx2 := x2.isLt; have hx3 := x3.isLt; have hx4 := x4.isLt
  refine RoundTrip.of_code rfl (by simp only [wV, wd]; omega) fun l m => ?_
  have hl := RoundTrip.bool_lt l; have hm := RoundTrip.bool_lt m
  generalize hW : flags l m _ = W
  simp only [flags, wV, wd] at hW
  have e0 : fld W 29 1 = 1 := by simp only [fld]; omega
  have e1 : fld W 24 6 = 54 := by simp only [fld]; omega
  have f0 : fld W 18 2 = 3 := by simp only [fld]; omega
  have f1 : tyAt W 20 = .ok x0 := tyAt_code (by simp only [fld]; omega)
  have f2 : finAt 8 W 15 3 = x1 := finAt_eq (by simp only [fld]; omega)
  have f3 : finAt 32 W 10 5 = x2 := finAt_eq (by simp only [fld]; omega)
  have f4 : finAt 32 W 5 5 = x3 := finAt_eq (by simp only [fld]; omega)
  have f5 : finAt 32 W 0 5 = x4 := finAt_eq (by simp only [fld]; omega)
  simp only [decode, decA, decVec, decV, e0, e1, f0, f1, f2, f3, f4, f5]
  rfl

theorem RoundTrip.vand (x0 : Ty) (x1 : Fin 8) (x2 : Fin 32) (x3 : Fin 32) (x4 : Fin 32) : RoundTrip.Statement (.vand x0 x1 x2 x3 x4) := by
  have hx0 := Ty.code_lt x0; have hx1 := x1.isLt; have hx2 := x2.isLt; have hx3 := x3.isLt; have hx4 := x4.isLt
  refine RoundTrip.of_code rfl (by simp only [wV, wd]; omega) fun l m => ?_
  have hl := RoundTrip.bool_lt l; have hm := RoundTrip.bool_lt m
  generalize hW : flags l m _ = W
  simp only [flags, wV, wd] at hW
  have e0 : fld W 29 1 = 1 := by simp only [fld]; omega
  have e1 : fld W 24 6 = 55 := by simp only [fld]; omega
  have f0 : fld W 18 2 = 0 := by simp only [fld]; omega
  have f1 : tyAt W 20 = .ok x0 := tyAt_code (by simp only [fld]; omega)
  have f2 : finAt 8 W 15 3 = x1 := finAt_eq (by simp only [fld]; omega)
  have f3 : finAt 32 W 10 5 = x2 := finAt_eq (by simp only [fld]; omega)
  have f4 : finAt 32 W 5 5 = x3 := finAt_eq (by simp only [fld]; omega)
  have f5 : finAt 32 W 0 5 = x4 := finAt_eq (by simp only [fld]; omega)
  simp only [decode, decA, decVec, decV, zeroAt, e0, e1, f0, f1, f2, f3, f4, f5]
  rfl

theorem RoundTrip.vor (x0 : Ty) (x1 : Fin 8) (x2 : Fin 32) (x3 : Fin 32) (x4 : Fin 32) : RoundTrip.Statement (.vor x0 x1 x2 x3 x4) := by
  have hx0 := Ty.code_lt x0; have hx1 := x1.isLt; have hx2 := x2.isLt; have hx3 := x3.isLt; have hx4 := x4.isLt
  refine RoundTrip.of_code rfl (by simp only [wV, wd]; omega) fun l m => ?_
  have hl := RoundTrip.bool_lt l; have hm := RoundTrip.bool_lt m
  generalize hW : flags l m _ = W
  simp only [flags, wV, wd] at hW
  have e0 : fld W 29 1 = 1 := by simp only [fld]; omega
  have e1 : fld W 24 6 = 55 := by simp only [fld]; omega
  have f0 : fld W 18 2 = 1 := by simp only [fld]; omega
  have f1 : tyAt W 20 = .ok x0 := tyAt_code (by simp only [fld]; omega)
  have f2 : finAt 8 W 15 3 = x1 := finAt_eq (by simp only [fld]; omega)
  have f3 : finAt 32 W 10 5 = x2 := finAt_eq (by simp only [fld]; omega)
  have f4 : finAt 32 W 5 5 = x3 := finAt_eq (by simp only [fld]; omega)
  have f5 : finAt 32 W 0 5 = x4 := finAt_eq (by simp only [fld]; omega)
  simp only [decode, decA, decVec, decV, e0, e1, f0, f1, f2, f3, f4, f5]
  rfl

theorem RoundTrip.vxor (x0 : Ty) (x1 : Fin 8) (x2 : Fin 32) (x3 : Fin 32) (x4 : Fin 32) : RoundTrip.Statement (.vxor x0 x1 x2 x3 x4) := by
  have hx0 := Ty.code_lt x0; have hx1 := x1.isLt; have hx2 := x2.isLt; have hx3 := x3.isLt; have hx4 := x4.isLt
  refine RoundTrip.of_code rfl (by simp only [wV, wd]; omega) fun l m => ?_
  have hl := RoundTrip.bool_lt l; have hm := RoundTrip.bool_lt m
  generalize hW : flags l m _ = W
  simp only [flags, wV, wd] at hW
  have e0 : fld W 29 1 = 1 := by simp only [fld]; omega
  have e1 : fld W 24 6 = 55 := by simp only [fld]; omega
  have f0 : fld W 18 2 = 2 := by simp only [fld]; omega
  have f1 : tyAt W 20 = .ok x0 := tyAt_code (by simp only [fld]; omega)
  have f2 : finAt 8 W 15 3 = x1 := finAt_eq (by simp only [fld]; omega)
  have f3 : finAt 32 W 10 5 = x2 := finAt_eq (by simp only [fld]; omega)
  have f4 : finAt 32 W 5 5 = x3 := finAt_eq (by simp only [fld]; omega)
  have f5 : finAt 32 W 0 5 = x4 := finAt_eq (by simp only [fld]; omega)
  simp only [decode, decA, decVec, decV, e0, e1, f0, f1, f2, f3, f4, f5]
  rfl

theorem RoundTrip.vandn (x0 : Ty) (x1 : Fin 8) (x2 : Fin 32) (x3 : Fin 32) (x4 : Fin 32) : RoundTrip.Statement (.vandn x0 x1 x2 x3 x4) := by
  have hx0 := Ty.code_lt x0; have hx1 := x1.isLt; have hx2 := x2.isLt; have hx3 := x3.isLt; have hx4 := x4.isLt
  refine RoundTrip.of_code rfl (by simp only [wV, wd]; omega) fun l m => ?_
  have hl := RoundTrip.bool_lt l; have hm := RoundTrip.bool_lt m
  generalize hW : flags l m _ = W
  simp only [flags, wV, wd] at hW
  have e0 : fld W 29 1 = 1 := by simp only [fld]; omega
  have e1 : fld W 24 6 = 55 := by simp only [fld]; omega
  have f0 : fld W 18 2 = 3 := by simp only [fld]; omega
  have f1 : tyAt W 20 = .ok x0 := tyAt_code (by simp only [fld]; omega)
  have f2 : finAt 8 W 15 3 = x1 := finAt_eq (by simp only [fld]; omega)
  have f3 : finAt 32 W 10 5 = x2 := finAt_eq (by simp only [fld]; omega)
  have f4 : finAt 32 W 5 5 = x3 := finAt_eq (by simp only [fld]; omega)
  have f5 : finAt 32 W 0 5 = x4 := finAt_eq (by simp only [fld]; omega)
  simp only [decode, decA, decVec, decV, e0, e1, f0, f1, f2, f3, f4, f5]
  rfl

theorem RoundTrip.vceq (x0 : Ty) (x1 : Fin 8) (x2 : Fin 8) (x3 : Fin 32) (x4 : Fin 32) : RoundTrip.Statement (.vceq x0 x1 x2 x3 x4) := by
  have hx0 := Ty.code_lt x0; have hx1 := x1.isLt; have hx2 := x2.isLt; have hx3 := x3.isLt; have hx4 := x4.isLt
  refine RoundTrip.of_code rfl (by simp only [wV, wd]; omega) fun l m => ?_
  have hl := RoundTrip.bool_lt l; have hm := RoundTrip.bool_lt m
  generalize hW : flags l m _ = W
  simp only [flags, wV, wd] at hW
  have e0 : fld W 29 1 = 1 := by simp only [fld]; omega
  have e1 : fld W 24 6 = 56 := by simp only [fld]; omega
  have f0 : fld W 18 2 = 0 := by simp only [fld]; omega
  have f1 : fld W 13 2 = 0 := by simp only [fld]; omega
  have f2 : tyAt W 20 = .ok x0 := tyAt_code (by simp only [fld]; omega)
  have f3 : finAt 8 W 15 3 = x1 := finAt_eq (by simp only [fld]; omega)
  have f4 : finAt 8 W 10 3 = x2 := finAt_eq (by simp only [fld]; omega)
  have f5 : finAt 32 W 5 5 = x3 := finAt_eq (by simp only [fld]; omega)
  have f6 : finAt 32 W 0 5 = x4 := finAt_eq (by simp only [fld]; omega)
  simp only [decode, decA, decVec, decVcmp, zeroAt, e0, e1, f0, f1, f2, f3, f4, f5, f6]
  rfl

theorem RoundTrip.vclt (x0 : Ty) (x1 : Fin 8) (x2 : Fin 8) (x3 : Fin 32) (x4 : Fin 32) : RoundTrip.Statement (.vclt x0 x1 x2 x3 x4) := by
  have hx0 := Ty.code_lt x0; have hx1 := x1.isLt; have hx2 := x2.isLt; have hx3 := x3.isLt; have hx4 := x4.isLt
  refine RoundTrip.of_code rfl (by simp only [wV, wd]; omega) fun l m => ?_
  have hl := RoundTrip.bool_lt l; have hm := RoundTrip.bool_lt m
  generalize hW : flags l m _ = W
  simp only [flags, wV, wd] at hW
  have e0 : fld W 29 1 = 1 := by simp only [fld]; omega
  have e1 : fld W 24 6 = 56 := by simp only [fld]; omega
  have f0 : fld W 18 2 = 1 := by simp only [fld]; omega
  have f1 : fld W 13 2 = 0 := by simp only [fld]; omega
  have f2 : tyAt W 20 = .ok x0 := tyAt_code (by simp only [fld]; omega)
  have f3 : finAt 8 W 15 3 = x1 := finAt_eq (by simp only [fld]; omega)
  have f4 : finAt 8 W 10 3 = x2 := finAt_eq (by simp only [fld]; omega)
  have f5 : finAt 32 W 5 5 = x3 := finAt_eq (by simp only [fld]; omega)
  have f6 : finAt 32 W 0 5 = x4 := finAt_eq (by simp only [fld]; omega)
  simp only [decode, decA, decVec, decVcmp, zeroAt, e0, e1, f0, f1, f2, f3, f4, f5, f6]
  rfl

theorem RoundTrip.vcle (x0 : Ty) (x1 : Fin 8) (x2 : Fin 8) (x3 : Fin 32) (x4 : Fin 32) : RoundTrip.Statement (.vcle x0 x1 x2 x3 x4) := by
  have hx0 := Ty.code_lt x0; have hx1 := x1.isLt; have hx2 := x2.isLt; have hx3 := x3.isLt; have hx4 := x4.isLt
  refine RoundTrip.of_code rfl (by simp only [wV, wd]; omega) fun l m => ?_
  have hl := RoundTrip.bool_lt l; have hm := RoundTrip.bool_lt m
  generalize hW : flags l m _ = W
  simp only [flags, wV, wd] at hW
  have e0 : fld W 29 1 = 1 := by simp only [fld]; omega
  have e1 : fld W 24 6 = 56 := by simp only [fld]; omega
  have f0 : fld W 18 2 = 2 := by simp only [fld]; omega
  have f1 : fld W 13 2 = 0 := by simp only [fld]; omega
  have f2 : tyAt W 20 = .ok x0 := tyAt_code (by simp only [fld]; omega)
  have f3 : finAt 8 W 15 3 = x1 := finAt_eq (by simp only [fld]; omega)
  have f4 : finAt 8 W 10 3 = x2 := finAt_eq (by simp only [fld]; omega)
  have f5 : finAt 32 W 5 5 = x3 := finAt_eq (by simp only [fld]; omega)
  have f6 : finAt 32 W 0 5 = x4 := finAt_eq (by simp only [fld]; omega)
  simp only [decode, decA, decVec, decVcmp, zeroAt, e0, e1, f0, f1, f2, f3, f4, f5, f6]
  rfl

theorem RoundTrip.vcne (x0 : Ty) (x1 : Fin 8) (x2 : Fin 8) (x3 : Fin 32) (x4 : Fin 32) : RoundTrip.Statement (.vcne x0 x1 x2 x3 x4) := by
  have hx0 := Ty.code_lt x0; have hx1 := x1.isLt; have hx2 := x2.isLt; have hx3 := x3.isLt; have hx4 := x4.isLt
  refine RoundTrip.of_code rfl (by simp only [wV, wd]; omega) fun l m => ?_
  have hl := RoundTrip.bool_lt l; have hm := RoundTrip.bool_lt m
  generalize hW : flags l m _ = W
  simp only [flags, wV, wd] at hW
  have e0 : fld W 29 1 = 1 := by simp only [fld]; omega
  have e1 : fld W 24 6 = 56 := by simp only [fld]; omega
  have f0 : fld W 18 2 = 3 := by simp only [fld]; omega
  have f1 : fld W 13 2 = 0 := by simp only [fld]; omega
  have f2 : tyAt W 20 = .ok x0 := tyAt_code (by simp only [fld]; omega)
  have f3 : finAt 8 W 15 3 = x1 := finAt_eq (by simp only [fld]; omega)
  have f4 : finAt 8 W 10 3 = x2 := finAt_eq (by simp only [fld]; omega)
  have f5 : finAt 32 W 5 5 = x3 := finAt_eq (by simp only [fld]; omega)
  have f6 : finAt 32 W 0 5 = x4 := finAt_eq (by simp only [fld]; omega)
  simp only [decode, decA, decVec, decVcmp, zeroAt, e0, e1, f0, f1, f2, f3, f4, f5, f6]
  rfl

theorem RoundTrip.vcvt (x0 : Ty) (x1 : Ty) (x2 : RMode) (x3 : Bool) (x4 : Fin 8) (x5 : Fin 32) (x6 : Fin 32) : RoundTrip.Statement (.vcvt x0 x1 x2 x3 x4 x5 x6) := by
  have hx0 := Ty.code_lt x0; have hx1 := Ty.code_lt x1; have hx2 := RMode.code_lt x2; have hx3 := RoundTrip.bool_lt x3; have hx4 := x4.isLt; have hx5 := x5.isLt; have hx6 := x6.isLt
  refine RoundTrip.of_code rfl (by simp only [wd]; omega) fun l m => ?_
  have hl := RoundTrip.bool_lt l; have hm := RoundTrip.bool_lt m
  generalize hW : flags l m _ = W
  simp only [flags, wd] at hW
  have e0 : fld W 29 1 = 1 := by simp only [fld]; omega
  have e1 : fld W 24 6 = 57 := by simp only [fld]; omega
  have f0 : tyAt W 20 = .ok x0 := tyAt_code (by simp only [fld]; omega)
  have f1 : tyAt W 16 = .ok x1 := tyAt_code (by simp only [fld]; omega)
  have f2 : decRm (fld W 14 2) = x2 := decRm_code (by simp only [fld]; omega)
  have f3 : (fld W 13 1 == 1) = x3 := bool_eq (by simp only [fld]; omega)
  have f4 : finAt 8 W 10 3 = x4 := finAt_eq (by simp only [fld]; omega)
  have f5 : finAt 32 W 5 5 = x5 := finAt_eq (by simp only [fld]; omega)
  have f6 : finAt 32 W 0 5 = x6 := finAt_eq (by simp only [fld]; omega)
  simp only [decode, decA, e0, e1, f0, f1, f2, f3, f4, f5, f6]
  rfl

theorem RoundTrip.vbcast (x0 : Ty) (x1 : Fin 8) (x2 : Fin 32) (x3 : Operand) : RoundTrip.Statement (.vbcast x0 x1 x2 x3) := by
  have hx0 := Ty.code_lt x0; have hx1 := x1.isLt; have hx2 := x2.isLt; have hx3 := Operand.code_lt x3
  refine RoundTrip.of_code rfl (by simp only [wd]; omega) fun l m => ?_
  have hl := RoundTrip.bool_lt l; have hm := RoundTrip.bool_lt m
  generalize hW : flags l m _ = W
  simp only [flags, wd] at hW
  have e0 : fld W 29 1 = 1 := by simp only [fld]; omega
  have e1 : fld W 24 6 = 58 := by simp only [fld]; omega
  have f0 : fld W 18 2 = 0 := by simp only [fld]; omega
  have f1 : fld W 8 2 = 0 := by simp only [fld]; omega
  have f2 : tyAt W 20 = .ok x0 := tyAt_code (by simp only [fld]; omega)
  have f3 : finAt 8 W 15 3 = x1 := finAt_eq (by simp only [fld]; omega)
  have f4 : finAt 32 W 10 5 = x2 := finAt_eq (by simp only [fld]; omega)
  have f5 : opAt W 0 = .ok x3 := opAt_code (by simp only [fld]; omega)
  simp only [decode, decA, decVec, decVx, zeroAt, e0, e1, f0, f1, f2, f3, f4, f5]
  rfl

theorem RoundTrip.vaddx (x0 : Ty) (x1 : Fin 8) (x2 : Fin 32) (x3 : Operand) : RoundTrip.Statement (.vaddx x0 x1 x2 x3) := by
  have hx0 := Ty.code_lt x0; have hx1 := x1.isLt; have hx2 := x2.isLt; have hx3 := Operand.code_lt x3
  refine RoundTrip.of_code rfl (by simp only [wd]; omega) fun l m => ?_
  have hl := RoundTrip.bool_lt l; have hm := RoundTrip.bool_lt m
  generalize hW : flags l m _ = W
  simp only [flags, wd] at hW
  have e0 : fld W 29 1 = 1 := by simp only [fld]; omega
  have e1 : fld W 24 6 = 58 := by simp only [fld]; omega
  have f0 : fld W 18 2 = 1 := by simp only [fld]; omega
  have f1 : fld W 8 2 = 0 := by simp only [fld]; omega
  have f2 : tyAt W 20 = .ok x0 := tyAt_code (by simp only [fld]; omega)
  have f3 : finAt 8 W 15 3 = x1 := finAt_eq (by simp only [fld]; omega)
  have f4 : finAt 32 W 10 5 = x2 := finAt_eq (by simp only [fld]; omega)
  have f5 : opAt W 0 = .ok x3 := opAt_code (by simp only [fld]; omega)
  simp only [decode, decA, decVec, decVx, zeroAt, e0, e1, f0, f1, f2, f3, f4, f5]
  rfl

theorem RoundTrip.vmulx (x0 : Ty) (x1 : Fin 8) (x2 : Fin 32) (x3 : Operand) : RoundTrip.Statement (.vmulx x0 x1 x2 x3) := by
  have hx0 := Ty.code_lt x0; have hx1 := x1.isLt; have hx2 := x2.isLt; have hx3 := Operand.code_lt x3
  refine RoundTrip.of_code rfl (by simp only [wd]; omega) fun l m => ?_
  have hl := RoundTrip.bool_lt l; have hm := RoundTrip.bool_lt m
  generalize hW : flags l m _ = W
  simp only [flags, wd] at hW
  have e0 : fld W 29 1 = 1 := by simp only [fld]; omega
  have e1 : fld W 24 6 = 58 := by simp only [fld]; omega
  have f0 : fld W 18 2 = 2 := by simp only [fld]; omega
  have f1 : fld W 8 2 = 0 := by simp only [fld]; omega
  have f2 : tyAt W 20 = .ok x0 := tyAt_code (by simp only [fld]; omega)
  have f3 : finAt 8 W 15 3 = x1 := finAt_eq (by simp only [fld]; omega)
  have f4 : finAt 32 W 10 5 = x2 := finAt_eq (by simp only [fld]; omega)
  have f5 : opAt W 0 = .ok x3 := opAt_code (by simp only [fld]; omega)
  simp only [decode, decA, decVec, decVx, zeroAt, e0, e1, f0, f1, f2, f3, f4, f5]
  rfl

theorem RoundTrip.vmaxx (x0 : Ty) (x1 : Fin 8) (x2 : Fin 32) (x3 : Operand) : RoundTrip.Statement (.vmaxx x0 x1 x2 x3) := by
  have hx0 := Ty.code_lt x0; have hx1 := x1.isLt; have hx2 := x2.isLt; have hx3 := Operand.code_lt x3
  refine RoundTrip.of_code rfl (by simp only [wd]; omega) fun l m => ?_
  have hl := RoundTrip.bool_lt l; have hm := RoundTrip.bool_lt m
  generalize hW : flags l m _ = W
  simp only [flags, wd] at hW
  have e0 : fld W 29 1 = 1 := by simp only [fld]; omega
  have e1 : fld W 24 6 = 58 := by simp only [fld]; omega
  have f0 : fld W 18 2 = 3 := by simp only [fld]; omega
  have f1 : fld W 8 2 = 0 := by simp only [fld]; omega
  have f2 : tyAt W 20 = .ok x0 := tyAt_code (by simp only [fld]; omega)
  have f3 : finAt 8 W 15 3 = x1 := finAt_eq (by simp only [fld]; omega)
  have f4 : finAt 32 W 10 5 = x2 := finAt_eq (by simp only [fld]; omega)
  have f5 : opAt W 0 = .ok x3 := opAt_code (by simp only [fld]; omega)
  simp only [decode, decA, decVec, decVx, zeroAt, e0, e1, f0, f1, f2, f3, f4, f5]
  rfl

theorem RoundTrip.vrsum (x0 : Ty) (x1 : Fin 8) (x2 : Fin 32) (x3 : Operand) : RoundTrip.Statement (.vrsum x0 x1 x2 x3) := by
  have hx0 := Ty.code_lt x0; have hx1 := x1.isLt; have hx2 := x2.isLt; have hx3 := Operand.code_lt x3
  refine RoundTrip.of_code rfl (by simp only [wd]; omega) fun l m => ?_
  have hl := RoundTrip.bool_lt l; have hm := RoundTrip.bool_lt m
  generalize hW : flags l m _ = W
  simp only [flags, wd] at hW
  have e0 : fld W 29 1 = 1 := by simp only [fld]; omega
  have e1 : fld W 24 6 = 59 := by simp only [fld]; omega
  have f0 : fld W 18 2 = 0 := by simp only [fld]; omega
  have f1 : fld W 8 2 = 0 := by simp only [fld]; omega
  have f2 : tyAt W 20 = .ok x0 := tyAt_code (by simp only [fld]; omega)
  have f3 : finAt 8 W 15 3 = x1 := finAt_eq (by simp only [fld]; omega)
  have f4 : finAt 32 W 10 5 = x2 := finAt_eq (by simp only [fld]; omega)
  have f5 : opAt W 0 = .ok x3 := opAt_code (by simp only [fld]; omega)
  simp only [decode, decA, decVec, decVec.decVred, zeroAt, e0, e1, f0, f1, f2, f3, f4, f5]
  rfl

theorem RoundTrip.vrmax (x0 : Ty) (x1 : Fin 8) (x2 : Fin 32) (x3 : Operand) : RoundTrip.Statement (.vrmax x0 x1 x2 x3) := by
  have hx0 := Ty.code_lt x0; have hx1 := x1.isLt; have hx2 := x2.isLt; have hx3 := Operand.code_lt x3
  refine RoundTrip.of_code rfl (by simp only [wd]; omega) fun l m => ?_
  have hl := RoundTrip.bool_lt l; have hm := RoundTrip.bool_lt m
  generalize hW : flags l m _ = W
  simp only [flags, wd] at hW
  have e0 : fld W 29 1 = 1 := by simp only [fld]; omega
  have e1 : fld W 24 6 = 59 := by simp only [fld]; omega
  have f0 : fld W 18 2 = 1 := by simp only [fld]; omega
  have f1 : fld W 8 2 = 0 := by simp only [fld]; omega
  have f2 : tyAt W 20 = .ok x0 := tyAt_code (by simp only [fld]; omega)
  have f3 : finAt 8 W 15 3 = x1 := finAt_eq (by simp only [fld]; omega)
  have f4 : finAt 32 W 10 5 = x2 := finAt_eq (by simp only [fld]; omega)
  have f5 : opAt W 0 = .ok x3 := opAt_code (by simp only [fld]; omega)
  simp only [decode, decA, decVec, decVec.decVred, zeroAt, e0, e1, f0, f1, f2, f3, f4, f5]
  rfl

theorem RoundTrip.vrmin (x0 : Ty) (x1 : Fin 8) (x2 : Fin 32) (x3 : Operand) : RoundTrip.Statement (.vrmin x0 x1 x2 x3) := by
  have hx0 := Ty.code_lt x0; have hx1 := x1.isLt; have hx2 := x2.isLt; have hx3 := Operand.code_lt x3
  refine RoundTrip.of_code rfl (by simp only [wd]; omega) fun l m => ?_
  have hl := RoundTrip.bool_lt l; have hm := RoundTrip.bool_lt m
  generalize hW : flags l m _ = W
  simp only [flags, wd] at hW
  have e0 : fld W 29 1 = 1 := by simp only [fld]; omega
  have e1 : fld W 24 6 = 59 := by simp only [fld]; omega
  have f0 : fld W 18 2 = 2 := by simp only [fld]; omega
  have f1 : fld W 8 2 = 0 := by simp only [fld]; omega
  have f2 : tyAt W 20 = .ok x0 := tyAt_code (by simp only [fld]; omega)
  have f3 : finAt 8 W 15 3 = x1 := finAt_eq (by simp only [fld]; omega)
  have f4 : finAt 32 W 10 5 = x2 := finAt_eq (by simp only [fld]; omega)
  have f5 : opAt W 0 = .ok x3 := opAt_code (by simp only [fld]; omega)
  simp only [decode, decA, decVec, decVec.decVred, zeroAt, e0, e1, f0, f1, f2, f3, f4, f5]
  rfl

theorem RoundTrip.vramax (x0 : Ty) (x1 : Fin 8) (x2 : Fin 32) (x3 : Operand) : RoundTrip.Statement (.vramax x0 x1 x2 x3) := by
  have hx0 := Ty.code_lt x0; have hx1 := x1.isLt; have hx2 := x2.isLt; have hx3 := Operand.code_lt x3
  refine RoundTrip.of_code rfl (by simp only [wd]; omega) fun l m => ?_
  have hl := RoundTrip.bool_lt l; have hm := RoundTrip.bool_lt m
  generalize hW : flags l m _ = W
  simp only [flags, wd] at hW
  have e0 : fld W 29 1 = 1 := by simp only [fld]; omega
  have e1 : fld W 24 6 = 59 := by simp only [fld]; omega
  have f0 : fld W 18 2 = 3 := by simp only [fld]; omega
  have f1 : fld W 8 2 = 0 := by simp only [fld]; omega
  have f2 : tyAt W 20 = .ok x0 := tyAt_code (by simp only [fld]; omega)
  have f3 : finAt 8 W 15 3 = x1 := finAt_eq (by simp only [fld]; omega)
  have f4 : finAt 32 W 10 5 = x2 := finAt_eq (by simp only [fld]; omega)
  have f5 : opAt W 0 = .ok x3 := opAt_code (by simp only [fld]; omega)
  simp only [decode, decA, decVec, decVec.decVred, zeroAt, e0, e1, f0, f1, f2, f3, f4, f5]
  rfl

theorem RoundTrip.vcompress (x0 : Ty) (x1 : Fin 8) (x2 : Fin 32) (x3 : Fin 32) (x4 : Fin 4) : RoundTrip.Statement (.vcompress x0 x1 x2 x3 x4) := by
  have hx0 := Ty.code_lt x0; have hx1 := x1.isLt; have hx2 := x2.isLt; have hx3 := x3.isLt; have hx4 := x4.isLt
  refine RoundTrip.of_code rfl (by simp only [wV, wd]; omega) fun l m => ?_
  have hl := RoundTrip.bool_lt l; have hm := RoundTrip.bool_lt m
  generalize hW : flags l m _ = W
  simp only [flags, wV, wd] at hW
  have e0 : fld W 29 1 = 1 := by simp only [fld]; omega
  have e1 : fld W 24 6 = 60 := by simp only [fld]; omega
  have f0 : fld W 18 2 = 0 := by simp only [fld]; omega
  have f1 : fld W 0 3 = 0 := by simp only [fld]; omega
  have f2 : tyAt W 20 = .ok x0 := tyAt_code (by simp only [fld]; omega)
  have f3 : finAt 8 W 15 3 = x1 := finAt_eq (by simp only [fld]; omega)
  have f4 : finAt 32 W 10 5 = x2 := finAt_eq (by simp only [fld]; omega)
  have f5 : finAt 32 W 5 5 = x3 := finAt_eq (by simp only [fld]; omega)
  have f6 : finAt 4 W 3 2 = x4 := finAt_eq (by simp only [fld]; omega)
  simp only [decode, decA, decVpk, zeroAt, e0, e1, f0, f1, f2, f3, f4, f5, f6]
  rfl

theorem RoundTrip.vexpand (x0 : Ty) (x1 : Fin 8) (x2 : Fin 32) (x3 : Fin 32) (x4 : Fin 4) : RoundTrip.Statement (.vexpand x0 x1 x2 x3 x4) := by
  have hx0 := Ty.code_lt x0; have hx1 := x1.isLt; have hx2 := x2.isLt; have hx3 := x3.isLt; have hx4 := x4.isLt
  refine RoundTrip.of_code rfl (by simp only [wV, wd]; omega) fun l m => ?_
  have hl := RoundTrip.bool_lt l; have hm := RoundTrip.bool_lt m
  generalize hW : flags l m _ = W
  simp only [flags, wV, wd] at hW
  have e0 : fld W 29 1 = 1 := by simp only [fld]; omega
  have e1 : fld W 24 6 = 60 := by simp only [fld]; omega
  have f0 : fld W 18 2 = 1 := by simp only [fld]; omega
  have f1 : fld W 0 3 = 0 := by simp only [fld]; omega
  have f2 : tyAt W 20 = .ok x0 := tyAt_code (by simp only [fld]; omega)
  have f3 : finAt 8 W 15 3 = x1 := finAt_eq (by simp only [fld]; omega)
  have f4 : finAt 32 W 10 5 = x2 := finAt_eq (by simp only [fld]; omega)
  have f5 : finAt 32 W 5 5 = x3 := finAt_eq (by simp only [fld]; omega)
  have f6 : finAt 4 W 3 2 = x4 := finAt_eq (by simp only [fld]; omega)
  simp only [decode, decA, decVpk, zeroAt, e0, e1, f0, f1, f2, f3, f4, f5, f6]
  rfl

theorem RoundTrip.vrowmv (x0 : Ty) (x1 : Fin 8) (x2 : Fin 32) (x3 : Fin 32) (x4 : Fin 8) : RoundTrip.Statement (.vrowmv x0 x1 x2 x3 x4) := by
  have hx0 := Ty.code_lt x0; have hx1 := x1.isLt; have hx2 := x2.isLt; have hx3 := x3.isLt; have hx4 := x4.isLt
  refine RoundTrip.of_code rfl (by simp only [wV, wd]; omega) fun l m => ?_
  have hl := RoundTrip.bool_lt l; have hm := RoundTrip.bool_lt m
  generalize hW : flags l m _ = W
  simp only [flags, wV, wd] at hW
  have e0 : fld W 29 1 = 1 := by simp only [fld]; omega
  have e1 : fld W 24 6 = 60 := by simp only [fld]; omega
  have f0 : fld W 18 2 = 2 := by simp only [fld]; omega
  have f1 : fld W 3 2 = 0 := by simp only [fld]; omega
  have f2 : tyAt W 20 = .ok x0 := tyAt_code (by simp only [fld]; omega)
  have f3 : finAt 8 W 15 3 = x1 := finAt_eq (by simp only [fld]; omega)
  have f4 : finAt 32 W 10 5 = x2 := finAt_eq (by simp only [fld]; omega)
  have f5 : finAt 32 W 5 5 = x3 := finAt_eq (by simp only [fld]; omega)
  have f6 : finAt 8 W 0 3 = x4 := finAt_eq (by simp only [fld]; omega)
  simp only [decode, decA, decVpk, zeroAt, e0, e1, f0, f1, f2, f3, f4, f5, f6]
  rfl

theorem RoundTrip.vsel (x0 : Ty) (x1 : Fin 8) (x2 : Fin 32) (x3 : Fin 32) : RoundTrip.Statement (.vsel x0 x1 x2 x3) := by
  have hx0 := Ty.code_lt x0; have hx1 := x1.isLt; have hx2 := x2.isLt; have hx3 := x3.isLt
  refine RoundTrip.of_code rfl (by simp only [wV, wd]; omega) fun l m => ?_
  have hl := RoundTrip.bool_lt l; have hm := RoundTrip.bool_lt m
  generalize hW : flags l m _ = W
  simp only [flags, wV, wd] at hW
  have e0 : fld W 29 1 = 1 := by simp only [fld]; omega
  have e1 : fld W 24 6 = 60 := by simp only [fld]; omega
  have f0 : fld W 18 2 = 3 := by simp only [fld]; omega
  have f1 : fld W 0 5 = 0 := by simp only [fld]; omega
  have f2 : tyAt W 20 = .ok x0 := tyAt_code (by simp only [fld]; omega)
  have f3 : finAt 8 W 15 3 = x1 := finAt_eq (by simp only [fld]; omega)
  have f4 : finAt 32 W 10 5 = x2 := finAt_eq (by simp only [fld]; omega)
  have f5 : finAt 32 W 5 5 = x3 := finAt_eq (by simp only [fld]; omega)
  simp only [decode, decA, decVpk, zeroAt, e0, e1, f0, f1, f2, f3, f4, f5]
  rfl

theorem RoundTrip.mand (x0 : Fin 8) (x1 : Fin 8) (x2 : Fin 8) : RoundTrip.Statement (.mand x0 x1 x2) := by
  have hx0 := x0.isLt; have hx1 := x1.isLt; have hx2 := x2.isLt
  refine RoundTrip.of_code rfl (by simp only [wMK, wd]; omega) fun l m => ?_
  have hl := RoundTrip.bool_lt l; have hm := RoundTrip.bool_lt m
  generalize hW : flags l m _ = W
  simp only [flags, wMK, wd] at hW
  have e0 : fld W 29 1 = 1 := by simp only [fld]; omega
  have e1 : fld W 24 6 = 61 := by simp only [fld]; omega
  have f0 : fld W 8 1 = 0 := by simp only [fld]; omega
  have f1 : fld W 18 6 = 0 := by simp only [fld]; omega
  have f2 : fld W 0 8 = 0 := by simp only [fld]; omega
  have f3 : finAt 8 W 15 3 = x0 := finAt_eq (by simp only [fld]; omega)
  have f4 : finAt 8 W 12 3 = x1 := finAt_eq (by simp only [fld]; omega)
  have f5 : finAt 8 W 9 3 = x2 := finAt_eq (by simp only [fld]; omega)
  simp only [decode, decA, decMk, zeroAt, e0, e1, f0, f1, f2, f3, f4, f5]
  rfl

theorem RoundTrip.mor (x0 : Fin 8) (x1 : Fin 8) (x2 : Fin 8) : RoundTrip.Statement (.mor x0 x1 x2) := by
  have hx0 := x0.isLt; have hx1 := x1.isLt; have hx2 := x2.isLt
  refine RoundTrip.of_code rfl (by simp only [wMK, wd]; omega) fun l m => ?_
  have hl := RoundTrip.bool_lt l; have hm := RoundTrip.bool_lt m
  generalize hW : flags l m _ = W
  simp only [flags, wMK, wd] at hW
  have e0 : fld W 29 1 = 1 := by simp only [fld]; omega
  have e1 : fld W 24 6 = 61 := by simp only [fld]; omega
  have f0 : fld W 8 1 = 0 := by simp only [fld]; omega
  have f1 : fld W 18 6 = 1 := by simp only [fld]; omega
  have f2 : fld W 0 8 = 0 := by simp only [fld]; omega
  have f3 : finAt 8 W 15 3 = x0 := finAt_eq (by simp only [fld]; omega)
  have f4 : finAt 8 W 12 3 = x1 := finAt_eq (by simp only [fld]; omega)
  have f5 : finAt 8 W 9 3 = x2 := finAt_eq (by simp only [fld]; omega)
  simp only [decode, decA, decMk, zeroAt, e0, e1, f0, f1, f2, f3, f4, f5]
  rfl

theorem RoundTrip.mxor (x0 : Fin 8) (x1 : Fin 8) (x2 : Fin 8) : RoundTrip.Statement (.mxor x0 x1 x2) := by
  have hx0 := x0.isLt; have hx1 := x1.isLt; have hx2 := x2.isLt
  refine RoundTrip.of_code rfl (by simp only [wMK, wd]; omega) fun l m => ?_
  have hl := RoundTrip.bool_lt l; have hm := RoundTrip.bool_lt m
  generalize hW : flags l m _ = W
  simp only [flags, wMK, wd] at hW
  have e0 : fld W 29 1 = 1 := by simp only [fld]; omega
  have e1 : fld W 24 6 = 61 := by simp only [fld]; omega
  have f0 : fld W 8 1 = 0 := by simp only [fld]; omega
  have f1 : fld W 18 6 = 2 := by simp only [fld]; omega
  have f2 : fld W 0 8 = 0 := by simp only [fld]; omega
  have f3 : finAt 8 W 15 3 = x0 := finAt_eq (by simp only [fld]; omega)
  have f4 : finAt 8 W 12 3 = x1 := finAt_eq (by simp only [fld]; omega)
  have f5 : finAt 8 W 9 3 = x2 := finAt_eq (by simp only [fld]; omega)
  simp only [decode, decA, decMk, zeroAt, e0, e1, f0, f1, f2, f3, f4, f5]
  rfl

theorem RoundTrip.mandn (x0 : Fin 8) (x1 : Fin 8) (x2 : Fin 8) : RoundTrip.Statement (.mandn x0 x1 x2) := by
  have hx0 := x0.isLt; have hx1 := x1.isLt; have hx2 := x2.isLt
  refine RoundTrip.of_code rfl (by simp only [wMK, wd]; omega) fun l m => ?_
  have hl := RoundTrip.bool_lt l; have hm := RoundTrip.bool_lt m
  generalize hW : flags l m _ = W
  simp only [flags, wMK, wd] at hW
  have e0 : fld W 29 1 = 1 := by simp only [fld]; omega
  have e1 : fld W 24 6 = 61 := by simp only [fld]; omega
  have f0 : fld W 8 1 = 0 := by simp only [fld]; omega
  have f1 : fld W 18 6 = 3 := by simp only [fld]; omega
  have f2 : fld W 0 8 = 0 := by simp only [fld]; omega
  have f3 : finAt 8 W 15 3 = x0 := finAt_eq (by simp only [fld]; omega)
  have f4 : finAt 8 W 12 3 = x1 := finAt_eq (by simp only [fld]; omega)
  have f5 : finAt 8 W 9 3 = x2 := finAt_eq (by simp only [fld]; omega)
  simp only [decode, decA, decMk, zeroAt, e0, e1, f0, f1, f2, f3, f4, f5]
  rfl

theorem RoundTrip.mnot (x0 : Fin 8) (x1 : Fin 8) : RoundTrip.Statement (.mnot x0 x1) := by
  have hx0 := x0.isLt; have hx1 := x1.isLt
  refine RoundTrip.of_code rfl (by simp only [wMK, wd]; omega) fun l m => ?_
  have hl := RoundTrip.bool_lt l; have hm := RoundTrip.bool_lt m
  generalize hW : flags l m _ = W
  simp only [flags, wMK, wd] at hW
  have e0 : fld W 29 1 = 1 := by simp only [fld]; omega
  have e1 : fld W 24 6 = 61 := by simp only [fld]; omega
  have f0 : fld W 8 1 = 0 := by simp only [fld]; omega
  have f1 : fld W 18 6 = 4 := by simp only [fld]; omega
  have f2 : fld W 0 8 = 0 := by simp only [fld]; omega
  have f3 : fld W 9 3 = 0 := by simp only [fld]; omega
  have f4 : finAt 8 W 15 3 = x0 := finAt_eq (by simp only [fld]; omega)
  have f5 : finAt 8 W 12 3 = x1 := finAt_eq (by simp only [fld]; omega)
  simp only [decode, decA, decMk, zeroAt, e0, e1, f0, f1, f2, f3, f4, f5]
  rfl

theorem RoundTrip.mmov (x0 : Fin 8) (x1 : Fin 8) : RoundTrip.Statement (.mmov x0 x1) := by
  have hx0 := x0.isLt; have hx1 := x1.isLt
  refine RoundTrip.of_code rfl (by simp only [wMK, wd]; omega) fun l m => ?_
  have hl := RoundTrip.bool_lt l; have hm := RoundTrip.bool_lt m
  generalize hW : flags l m _ = W
  simp only [flags, wMK, wd] at hW
  have e0 : fld W 29 1 = 1 := by simp only [fld]; omega
  have e1 : fld W 24 6 = 61 := by simp only [fld]; omega
  have f0 : fld W 8 1 = 0 := by simp only [fld]; omega
  have f1 : fld W 18 6 = 5 := by simp only [fld]; omega
  have f2 : fld W 0 8 = 0 := by simp only [fld]; omega
  have f3 : fld W 9 3 = 0 := by simp only [fld]; omega
  have f4 : finAt 8 W 15 3 = x0 := finAt_eq (by simp only [fld]; omega)
  have f5 : finAt 8 W 12 3 = x1 := finAt_eq (by simp only [fld]; omega)
  simp only [decode, decA, decMk, zeroAt, e0, e1, f0, f1, f2, f3, f4, f5]
  rfl

theorem RoundTrip.mpop (x0 : Fin 8) (x1 : Operand) : RoundTrip.Statement (.mpop x0 x1) := by
  have hx0 := x0.isLt; have hx1 := Operand.code_lt x1
  refine RoundTrip.of_code rfl (by simp only [wMK, wd]; omega) fun l m => ?_
  have hl := RoundTrip.bool_lt l; have hm := RoundTrip.bool_lt m
  generalize hW : flags l m _ = W
  simp only [flags, wMK, wd] at hW
  have e0 : fld W 29 1 = 1 := by simp only [fld]; omega
  have e1 : fld W 24 6 = 61 := by simp only [fld]; omega
  have f0 : fld W 8 1 = 0 := by simp only [fld]; omega
  have f1 : fld W 18 6 = 6 := by simp only [fld]; omega
  have f2 : fld W 15 3 = 0 := by simp only [fld]; omega
  have f3 : fld W 9 3 = 0 := by simp only [fld]; omega
  have f4 : finAt 8 W 12 3 = x0 := finAt_eq (by simp only [fld]; omega)
  have f5 : opAt W 0 = .ok x1 := opAt_code (by simp only [fld]; omega)
  simp only [decode, decA, decMk, zeroAt, e0, e1, f0, f1, f2, f3, f4, f5]
  rfl

theorem RoundTrip.mfrom (x0 : Fin 8) (x1 : Operand) : RoundTrip.Statement (.mfrom x0 x1) := by
  have hx0 := x0.isLt; have hx1 := Operand.code_lt x1
  refine RoundTrip.of_code rfl (by simp only [wMK, wd]; omega) fun l m => ?_
  have hl := RoundTrip.bool_lt l; have hm := RoundTrip.bool_lt m
  generalize hW : flags l m _ = W
  simp only [flags, wMK, wd] at hW
  have e0 : fld W 29 1 = 1 := by simp only [fld]; omega
  have e1 : fld W 24 6 = 61 := by simp only [fld]; omega
  have f0 : fld W 8 1 = 0 := by simp only [fld]; omega
  have f1 : fld W 18 6 = 7 := by simp only [fld]; omega
  have f2 : fld W 9 6 = 0 := by simp only [fld]; omega
  have f3 : finAt 8 W 15 3 = x0 := finAt_eq (by simp only [fld]; omega)
  have f4 : opAt W 0 = .ok x1 := opAt_code (by simp only [fld]; omega)
  simp only [decode, decA, decMk, zeroAt, e0, e1, f0, f1, f2, f3, f4]
  rfl

theorem RoundTrip.mtolo (x0 : Fin 8) (x1 : Operand) : RoundTrip.Statement (.mtolo x0 x1) := by
  have hx0 := x0.isLt; have hx1 := Operand.code_lt x1
  refine RoundTrip.of_code rfl (by simp only [wMK, wd]; omega) fun l m => ?_
  have hl := RoundTrip.bool_lt l; have hm := RoundTrip.bool_lt m
  generalize hW : flags l m _ = W
  simp only [flags, wMK, wd] at hW
  have e0 : fld W 29 1 = 1 := by simp only [fld]; omega
  have e1 : fld W 24 6 = 61 := by simp only [fld]; omega
  have f0 : fld W 8 1 = 0 := by simp only [fld]; omega
  have f1 : fld W 18 6 = 8 := by simp only [fld]; omega
  have f2 : fld W 15 3 = 0 := by simp only [fld]; omega
  have f3 : fld W 9 3 = 0 := by simp only [fld]; omega
  have f4 : finAt 8 W 12 3 = x0 := finAt_eq (by simp only [fld]; omega)
  have f5 : opAt W 0 = .ok x1 := opAt_code (by simp only [fld]; omega)
  simp only [decode, decA, decMk, zeroAt, e0, e1, f0, f1, f2, f3, f4, f5]
  rfl

theorem RoundTrip.mtohi (x0 : Fin 8) (x1 : Operand) : RoundTrip.Statement (.mtohi x0 x1) := by
  have hx0 := x0.isLt; have hx1 := Operand.code_lt x1
  refine RoundTrip.of_code rfl (by simp only [wMK, wd]; omega) fun l m => ?_
  have hl := RoundTrip.bool_lt l; have hm := RoundTrip.bool_lt m
  generalize hW : flags l m _ = W
  simp only [flags, wMK, wd] at hW
  have e0 : fld W 29 1 = 1 := by simp only [fld]; omega
  have e1 : fld W 24 6 = 61 := by simp only [fld]; omega
  have f0 : fld W 8 1 = 0 := by simp only [fld]; omega
  have f1 : fld W 18 6 = 9 := by simp only [fld]; omega
  have f2 : fld W 15 3 = 0 := by simp only [fld]; omega
  have f3 : fld W 9 3 = 0 := by simp only [fld]; omega
  have f4 : finAt 8 W 12 3 = x0 := finAt_eq (by simp only [fld]; omega)
  have f5 : opAt W 0 = .ok x1 := opAt_code (by simp only [fld]; omega)
  simp only [decode, decA, decMk, zeroAt, e0, e1, f0, f1, f2, f3, f4, f5]
  rfl

theorem RoundTrip.bound (x0 : Fin 8) (x1 : Ty) (x2 : Operand) (x3 : Operand) : RoundTrip.Statement (.bound x0 x1 x2 x3) := by
  have hx0 := x0.isLt; have hx1 := Ty.code_lt x1; have hx2 := Operand.code_lt x2; have hx3 := Operand.code_lt x3
  refine RoundTrip.of_code rfl (by simp only [wd]; omega) fun l m => ?_
  have hl := RoundTrip.bool_lt l; have hm := RoundTrip.bool_lt m
  generalize hW : flags l m _ = W
  simp only [flags, wd] at hW
  have e0 : fld W 29 1 = 1 := by simp only [fld]; omega
  have e1 : fld W 24 6 = 62 := by simp only [fld]; omega
  have f0 : fld W 16 1 = 0 := by simp only [fld]; omega
  have f1 : finAt 8 W 21 3 = x0 := finAt_eq (by simp only [fld]; omega)
  have f2 : tyAt W 17 = .ok x1 := tyAt_code (by simp only [fld]; omega)
  have f3 : opAt W 8 = .ok x2 := opAt_code (by simp only [fld]; omega)
  have f4 : opAt W 0 = .ok x3 := opAt_code (by simp only [fld]; omega)
  simp only [decode, decA, decBound, zeroAt, e0, e1, f0, f1, f2, f3, f4]
  rfl

theorem RoundTrip.pload (x0 : Fin 8) (x1 : Operand) : RoundTrip.Statement (.pload x0 x1) := by
  have hx0 := x0.isLt; have hx1 := Operand.code_lt x1
  refine RoundTrip.of_code rfl (by simp only [wPM, wd]; omega) fun l m => ?_
  have hl := RoundTrip.bool_lt l; have hm := RoundTrip.bool_lt m
  generalize hW : flags l m _ = W
  simp only [flags, wPM, wd] at hW
  have e0 : fld W 29 1 = 1 := by simp only [fld]; omega
  have e1 : fld W 24 6 = 63 := by simp only [fld]; omega
  have f0 : fld W 8 3 = 0 := by simp only [fld]; omega
  have f1 : fld W 20 4 = 0 := by simp only [fld]; omega
  have f2 : fld W 11 6 = 0 := by simp only [fld]; omega
  have f3 : finAt 8 W 17 3 = x0 := finAt_eq (by simp only [fld]; omega)
  have f4 : opAt W 0 = .ok x1 := opAt_code (by simp only [fld]; omega)
  simp only [decode, decA, decPerm, zeroAt, e0, e1, f0, f1, f2, f3, f4]
  rfl

theorem RoundTrip.pcomp (x0 : Fin 8) (x1 : Fin 8) (x2 : Fin 8) : RoundTrip.Statement (.pcomp x0 x1 x2) := by
  have hx0 := x0.isLt; have hx1 := x1.isLt; have hx2 := x2.isLt
  refine RoundTrip.of_code rfl (by simp only [wPM, wd]; omega) fun l m => ?_
  have hl := RoundTrip.bool_lt l; have hm := RoundTrip.bool_lt m
  generalize hW : flags l m _ = W
  simp only [flags, wPM, wd] at hW
  have e0 : fld W 29 1 = 1 := by simp only [fld]; omega
  have e1 : fld W 24 6 = 63 := by simp only [fld]; omega
  have f0 : fld W 8 3 = 0 := by simp only [fld]; omega
  have f1 : fld W 20 4 = 1 := by simp only [fld]; omega
  have f2 : fld W 0 8 = 0 := by simp only [fld]; omega
  have f3 : finAt 8 W 17 3 = x0 := finAt_eq (by simp only [fld]; omega)
  have f4 : finAt 8 W 14 3 = x1 := finAt_eq (by simp only [fld]; omega)
  have f5 : finAt 8 W 11 3 = x2 := finAt_eq (by simp only [fld]; omega)
  simp only [decode, decA, decPerm, zeroAt, e0, e1, f0, f1, f2, f3, f4, f5]
  rfl

theorem RoundTrip.pinv (x0 : Fin 8) (x1 : Fin 8) : RoundTrip.Statement (.pinv x0 x1) := by
  have hx0 := x0.isLt; have hx1 := x1.isLt
  refine RoundTrip.of_code rfl (by simp only [wPM, wd]; omega) fun l m => ?_
  have hl := RoundTrip.bool_lt l; have hm := RoundTrip.bool_lt m
  generalize hW : flags l m _ = W
  simp only [flags, wPM, wd] at hW
  have e0 : fld W 29 1 = 1 := by simp only [fld]; omega
  have e1 : fld W 24 6 = 63 := by simp only [fld]; omega
  have f0 : fld W 8 3 = 0 := by simp only [fld]; omega
  have f1 : fld W 20 4 = 2 := by simp only [fld]; omega
  have f2 : fld W 0 8 = 0 := by simp only [fld]; omega
  have f3 : fld W 11 3 = 0 := by simp only [fld]; omega
  have f4 : finAt 8 W 17 3 = x0 := finAt_eq (by simp only [fld]; omega)
  have f5 : finAt 8 W 14 3 = x1 := finAt_eq (by simp only [fld]; omega)
  simp only [decode, decA, decPerm, zeroAt, e0, e1, f0, f1, f2, f3, f4, f5]
  rfl

theorem RoundTrip.prand (x0 : Fin 8) (x1 : Fin 128) : RoundTrip.Statement (.prand x0 x1) := by
  have hx0 := x0.isLt; have hx1 := x1.isLt
  refine RoundTrip.of_code rfl (by simp only [wPM, wd]; omega) fun l m => ?_
  have hl := RoundTrip.bool_lt l; have hm := RoundTrip.bool_lt m
  generalize hW : flags l m _ = W
  simp only [flags, wPM, wd] at hW
  have e0 : fld W 29 1 = 1 := by simp only [fld]; omega
  have e1 : fld W 24 6 = 63 := by simp only [fld]; omega
  have f0 : fld W 8 3 = 0 := by simp only [fld]; omega
  have f1 : fld W 20 4 = 3 := by simp only [fld]; omega
  have f2 : fld W 11 6 = 0 := by simp only [fld]; omega
  have f3 : finAt 8 W 17 3 = x0 := finAt_eq (by simp only [fld]; omega)
  have f4 : gAt W 0 = .ok x1 := gAt_code (by simp only [fld]; omega)
  simp only [decode, decA, decPerm, zeroAt, e0, e1, f0, f1, f2, f3, f4]
  rfl

theorem RoundTrip.pcompact (x0 : Fin 8) (x1 : Fin 8) (x2 : Operand) : RoundTrip.Statement (.pcompact x0 x1 x2) := by
  have hx0 := x0.isLt; have hx1 := x1.isLt; have hx2 := Operand.code_lt x2
  refine RoundTrip.of_code rfl (by simp only [wPM, wd]; omega) fun l m => ?_
  have hl := RoundTrip.bool_lt l; have hm := RoundTrip.bool_lt m
  generalize hW : flags l m _ = W
  simp only [flags, wPM, wd] at hW
  have e0 : fld W 29 1 = 1 := by simp only [fld]; omega
  have e1 : fld W 24 6 = 63 := by simp only [fld]; omega
  have f0 : fld W 8 3 = 0 := by simp only [fld]; omega
  have f1 : fld W 20 4 = 4 := by simp only [fld]; omega
  have f2 : fld W 11 3 = 0 := by simp only [fld]; omega
  have f3 : finAt 8 W 17 3 = x0 := finAt_eq (by simp only [fld]; omega)
  have f4 : finAt 8 W 14 3 = x1 := finAt_eq (by simp only [fld]; omega)
  have f5 : opAt W 0 = .ok x2 := opAt_code (by simp only [fld]; omega)
  simp only [decode, decA, decPerm, zeroAt, e0, e1, f0, f1, f2, f3, f4, f5]
  rfl

theorem RoundTrip.pcyc (x0 : Fin 8) (x1 : CycKind) (x2 : Operand) : RoundTrip.Statement (.pcyc x0 x1 x2) := by
  have hx0 := x0.isLt; have hx1 := CycKind.code_lt x1; have hx2 := Operand.code_lt x2
  refine RoundTrip.of_code rfl (by simp only [wPM, wd]; omega) fun l m => ?_
  have hl := RoundTrip.bool_lt l; have hm := RoundTrip.bool_lt m
  generalize hW : flags l m _ = W
  simp only [flags, wPM, wd] at hW
  have e0 : fld W 29 1 = 1 := by simp only [fld]; omega
  have e1 : fld W 24 6 = 63 := by simp only [fld]; omega
  have f0 : fld W 8 3 = 0 := by simp only [fld]; omega
  have f1 : fld W 20 4 = 5 := by simp only [fld]; omega
  have f2 : fld W 17 3 = 0 := by simp only [fld]; omega
  have f3 : finAt 8 W 14 3 = x0 := finAt_eq (by simp only [fld]; omega)
  have f4 : decCyc (fld W 11 3) = some x1 := decCyc_code (by simp only [fld]; omega)
  have f5 : opAt W 0 = .ok x2 := opAt_code (by simp only [fld]; omega)
  simp only [decode, decA, decPerm, decPcyc, zeroAt, e0, e1, f0, f1, f2, f3, f4, f5]
  rfl

theorem RoundTrip.pstore (x0 : Fin 8) (x1 : Operand) : RoundTrip.Statement (.pstore x0 x1) := by
  have hx0 := x0.isLt; have hx1 := Operand.code_lt x1
  refine RoundTrip.of_code rfl (by simp only [wPM, wd]; omega) fun l m => ?_
  have hl := RoundTrip.bool_lt l; have hm := RoundTrip.bool_lt m
  generalize hW : flags l m _ = W
  simp only [flags, wPM, wd] at hW
  have e0 : fld W 29 1 = 1 := by simp only [fld]; omega
  have e1 : fld W 24 6 = 63 := by simp only [fld]; omega
  have f0 : fld W 8 3 = 0 := by simp only [fld]; omega
  have f1 : fld W 20 4 = 6 := by simp only [fld]; omega
  have f2 : fld W 17 3 = 0 := by simp only [fld]; omega
  have f3 : fld W 11 3 = 0 := by simp only [fld]; omega
  have f4 : finAt 8 W 14 3 = x0 := finAt_eq (by simp only [fld]; omega)
  have f5 : opAt W 0 = .ok x1 := opAt_code (by simp only [fld]; omega)
  simp only [decode, decA, decPerm, zeroAt, e0, e1, f0, f1, f2, f3, f4, f5]
  rfl

theorem RoundTrip.pidx (x0 : Fin 8) (x1 : Operand) : RoundTrip.Statement (.pidx x0 x1) := by
  have hx0 := x0.isLt; have hx1 := Operand.code_lt x1
  refine RoundTrip.of_code rfl (by simp only [wPM, wd]; omega) fun l m => ?_
  have hl := RoundTrip.bool_lt l; have hm := RoundTrip.bool_lt m
  generalize hW : flags l m _ = W
  simp only [flags, wPM, wd] at hW
  have e0 : fld W 29 1 = 1 := by simp only [fld]; omega
  have e1 : fld W 24 6 = 63 := by simp only [fld]; omega
  have f0 : fld W 8 3 = 0 := by simp only [fld]; omega
  have f1 : fld W 20 4 = 7 := by simp only [fld]; omega
  have f2 : fld W 17 3 = 0 := by simp only [fld]; omega
  have f3 : fld W 11 3 = 0 := by simp only [fld]; omega
  have f4 : finAt 8 W 14 3 = x0 := finAt_eq (by simp only [fld]; omega)
  have f5 : opAt W 0 = .ok x1 := opAt_code (by simp only [fld]; omega)
  simp only [decode, decA, decPerm, zeroAt, e0, e1, f0, f1, f2, f3, f4, f5]
  rfl

theorem RoundTrip.threadDeparture (x0 : Nat) (x1 : Nat) : RoundTrip.Statement (.threadDeparture x0 x1) := RoundTrip.of_event rfl
theorem RoundTrip.travelMessageArrival (x0 : Nat) (x1 : Travel) : RoundTrip.Statement (.travelMessageArrival x0 x1) := RoundTrip.of_event rfl
theorem RoundTrip.returnedTravelMessage (x0 : Travel) : RoundTrip.Statement (.returnedTravelMessage x0) := RoundTrip.of_event rfl
theorem RoundTrip.blockDirectoryReadReturn (x0 : Nat) (x1 : Nat) (x2 : Nat) (x3 : Option Travel) : RoundTrip.Statement (.blockDirectoryReadReturn x0 x1 x2 x3) := RoundTrip.of_event rfl
theorem RoundTrip.gatheringWindowClose (x0 : Nat) (x1 : Nat) (x2 : Nat) (x3 : Nat) (x4 : Nat) : RoundTrip.Statement (.gatheringWindowClose x0 x1 x2 x3 x4) := RoundTrip.of_event rfl
theorem RoundTrip.forkChildArrival (x0 : Nat) (x1 : Travel) : RoundTrip.Statement (.forkChildArrival x0 x1) := RoundTrip.of_event rfl
theorem RoundTrip.stolenChildArrival (x0 : Nat) (x1 : Travel) : RoundTrip.Statement (.stolenChildArrival x0 x1) := RoundTrip.of_event rfl
theorem RoundTrip.contextSave (x0 : Nat) (x1 : Nat) : RoundTrip.Statement (.contextSave x0 x1) := RoundTrip.of_event rfl
theorem RoundTrip.coreResume (x0 : Nat) : RoundTrip.Statement (.coreResume x0) := RoundTrip.of_event rfl
theorem RoundTrip.loadReturn (x0 : Nat) (x1 : Nat) (x2 : Nat) : RoundTrip.Statement (.loadReturn x0 x1 x2) := RoundTrip.of_event rfl
theorem RoundTrip.atomicReturn (x0 : Nat) (x1 : Nat) (x2 : Nat) : RoundTrip.Statement (.atomicReturn x0 x1 x2) := RoundTrip.of_event rfl
theorem RoundTrip.fillRequest (x0 : Nat) (x1 : Nat) (x2 : Nat) : RoundTrip.Statement (.fillRequest x0 x1 x2) := RoundTrip.of_event rfl
theorem RoundTrip.leaseRenewal (x0 : Nat) (x1 : Nat) (x2 : Nat) : RoundTrip.Statement (.leaseRenewal x0 x1 x2) := RoundTrip.of_event rfl
theorem RoundTrip.ownershipRequest (x0 : Nat) (x1 : Nat) (x2 : Nat) : RoundTrip.Statement (.ownershipRequest x0 x1 x2) := RoundTrip.of_event rfl
theorem RoundTrip.ownershipGrant (x0 : Nat) (x1 : Nat) (x2 : Nat) : RoundTrip.Statement (.ownershipGrant x0 x1 x2) := RoundTrip.of_event rfl
theorem RoundTrip.recall (x0 : Nat) (x1 : Nat) : RoundTrip.Statement (.recall x0 x1) := RoundTrip.of_event rfl
theorem RoundTrip.recallReply (x0 : Nat) (x1 : Nat) (x2 : Nat) (x3 : Option Nat) (x4 : Nat) : RoundTrip.Statement (.recallReply x0 x1 x2 x3 x4) := RoundTrip.of_event rfl
theorem RoundTrip.writeback (x0 : Nat) (x1 : Nat) (x2 : Nat) (x3 : Nat) (x4 : Nat) (x5 : Bool) : RoundTrip.Statement (.writeback x0 x1 x2 x3 x4 x5) := RoundTrip.of_event rfl
theorem RoundTrip.pageWalkComplete (x0 : Nat) (x1 : Nat) (x2 : Nat) : RoundTrip.Statement (.pageWalkComplete x0 x1 x2) := RoundTrip.of_event rfl
theorem RoundTrip.shootdownAck (x0 : Nat) (x1 : Nat) (x2 : Nat) (x3 : Nat) : RoundTrip.Statement (.shootdownAck x0 x1 x2 x3) := RoundTrip.of_event rfl
theorem RoundTrip.remotePrivateRequest (x0 : Nat) (x1 : Nat) : RoundTrip.Statement (.remotePrivateRequest x0 x1) := RoundTrip.of_event rfl
theorem RoundTrip.sendArrival (x0 : SendMsg) : RoundTrip.Statement (.sendArrival x0) := RoundTrip.of_event rfl
theorem RoundTrip.senduArrival (x0 : SendMsg) : RoundTrip.Statement (.senduArrival x0) := RoundTrip.of_event rfl
theorem RoundTrip.returnedSend (x0 : SendMsg) : RoundTrip.Statement (.returnedSend x0) := RoundTrip.of_event rfl
theorem RoundTrip.activeMessageArrival (x0 : Nat) (x1 : PorterItem) : RoundTrip.Statement (.activeMessageArrival x0 x1) := RoundTrip.of_event rfl
theorem RoundTrip.porterHandlerStart (x0 : Nat) : RoundTrip.Statement (.porterHandlerStart x0) := RoundTrip.of_event rfl
theorem RoundTrip.trapRecordAccept (x0 : Nat) (x1 : Nat) (x2 : TrapRec) : RoundTrip.Statement (.trapRecordAccept x0 x1 x2) := RoundTrip.of_event rfl
theorem RoundTrip.snapRequest (x0 : Nat) (x1 : Nat) (x2 : Nat) : RoundTrip.Statement (.snapRequest x0 x1 x2) := RoundTrip.of_event rfl
theorem RoundTrip.snapAnswer (x0 : Nat) (x1 : Nat) : RoundTrip.Statement (.snapAnswer x0 x1) := RoundTrip.of_event rfl
theorem RoundTrip.idleTimeout (x0 : Nat) (x1 : Nat) : RoundTrip.Statement (.idleTimeout x0 x1) := RoundTrip.of_event rfl
theorem RoundTrip.joinWake (x0 : Nat) (x1 : Nat) : RoundTrip.Statement (.joinWake x0 x1) := RoundTrip.of_event rfl
theorem RoundTrip.copyAccept (x0 : Nat) : RoundTrip.Statement (.copyAccept x0) := RoundTrip.of_event rfl
theorem RoundTrip.copyPacketStart (x0 : Nat) : RoundTrip.Statement (.copyPacketStart x0) := RoundTrip.of_event rfl
theorem RoundTrip.copyPacketLanding (x0 : Nat) (x1 : Nat) (x2 : Nat) (x3 : Nat) : RoundTrip.Statement (.copyPacketLanding x0 x1 x2 x3) := RoundTrip.of_event rfl
theorem RoundTrip.landingPacketArrival (x0 : Nat) (x1 : PorterItem) : RoundTrip.Statement (.landingPacketArrival x0 x1) := RoundTrip.of_event rfl
theorem RoundTrip.qmaxxContribution (x0 : Nat) (x1 : Nat) (x2 : Nat) (x3 : Nat) (x4 : Nat) (x5 : BitVec 32) (x6 : Bool) : RoundTrip.Statement (.qmaxxContribution x0 x1 x2 x3 x4 x5 x6) := RoundTrip.of_event rfl
theorem RoundTrip.qmaxxTimeout (x0 : Nat) (x1 : Nat) (x2 : Nat) (x3 : Nat) : RoundTrip.Statement (.qmaxxTimeout x0 x1 x2 x3) := RoundTrip.of_event rfl
theorem RoundTrip.chainCommandAccept (x0 : Nat) : RoundTrip.Statement (.chainCommandAccept x0) := RoundTrip.of_event rfl
theorem RoundTrip.chainCommandComplete (x0 : Nat) : RoundTrip.Statement (.chainCommandComplete x0) := RoundTrip.of_event rfl
theorem RoundTrip.mma (x0 : Nat) (x1 : Nat) : RoundTrip.Statement (.mma x0 x1) := RoundTrip.of_event rfl
theorem RoundTrip.mmac (x0 : Nat) (x1 : Nat) : RoundTrip.Statement (.mmac x0 x1) := RoundTrip.of_event rfl
theorem RoundTrip.zero (x0 : Nat) (x1 : Nat) : RoundTrip.Statement (.zero x0 x1) := RoundTrip.of_event rfl
theorem RoundTrip.kStepBoundary (x0 : Nat) : RoundTrip.Statement (.kStepBoundary x0) := RoundTrip.of_event rfl
theorem RoundTrip.matrixCommandComplete (x0 : Nat) (x1 : Nat) : RoundTrip.Statement (.matrixCommandComplete x0 x1) := RoundTrip.of_event rfl
theorem RoundTrip.accldComplete (x0 : Nat) (x1 : Nat) : RoundTrip.Statement (.accldComplete x0 x1) := RoundTrip.of_event rfl
theorem RoundTrip.accstComplete (x0 : Nat) (x1 : Nat) : RoundTrip.Statement (.accstComplete x0 x1) := RoundTrip.of_event rfl
theorem RoundTrip.drainStart (x0 : Nat) (x1 : Nat) : RoundTrip.Statement (.drainStart x0 x1) := RoundTrip.of_event rfl
theorem RoundTrip.drainLineWrite (x0 : Nat) (x1 : Nat) (x2 : Nat) : RoundTrip.Statement (.drainLineWrite x0 x1 x2) := RoundTrip.of_event rfl
theorem RoundTrip.drainComplete (x0 : Nat) (x1 : Nat) : RoundTrip.Statement (.drainComplete x0 x1) := RoundTrip.of_event rfl
theorem RoundTrip.wakeArrival (x0 : Nat) (x1 : Travel) : RoundTrip.Statement (.wakeArrival x0 x1) := RoundTrip.of_event rfl
theorem RoundTrip.hornbeamSolveStart (x0 : Nat) : RoundTrip.Statement (.hornbeamSolveStart x0) := RoundTrip.of_event rfl
theorem RoundTrip.hornbeamSolveComplete (x0 : Nat) : RoundTrip.Statement (.hornbeamSolveComplete x0) := RoundTrip.of_event rfl
theorem RoundTrip.tkqAccept (x0 : Nat) : RoundTrip.Statement (.tkqAccept x0) := RoundTrip.of_event rfl
theorem RoundTrip.counterZeroWake (x0 : Nat) (x1 : Nat) : RoundTrip.Statement (.counterZeroWake x0 x1) := RoundTrip.of_event rfl
theorem RoundTrip.taskSelect (x0 : Nat) : RoundTrip.Statement (.taskSelect x0) := RoundTrip.of_event rfl
theorem RoundTrip.tileOffer (x0 : Nat) (x1 : Nat) (x2 : Nat) : RoundTrip.Statement (.tileOffer x0 x1 x2) := RoundTrip.of_event rfl
theorem RoundTrip.engineCandidateStart (x0 : Nat) : RoundTrip.Statement (.engineCandidateStart x0) := RoundTrip.of_event rfl
theorem RoundTrip.tileSpillComplete (x0 : Nat) (x1 : Nat) : RoundTrip.Statement (.tileSpillComplete x0 x1) := RoundTrip.of_event rfl
theorem RoundTrip.tileRefillComplete (x0 : Nat) (x1 : Nat) : RoundTrip.Statement (.tileRefillComplete x0 x1) := RoundTrip.of_event rfl
theorem RoundTrip.frameStart (x0 : Nat) : RoundTrip.Statement (.frameStart x0) := RoundTrip.of_event rfl
theorem RoundTrip.coreKill (x0 : Nat) (x1 : Nat) : RoundTrip.Statement (.coreKill x0 x1) := RoundTrip.of_event rfl
theorem RoundTrip.snapshotOpen (x0 : Nat) (x1 : Nat) : RoundTrip.Statement (.snapshotOpen x0 x1) := RoundTrip.of_event rfl
theorem RoundTrip.snapshotMarker (x0 : Nat) (x1 : Nat) : RoundTrip.Statement (.snapshotMarker x0 x1) := RoundTrip.of_event rfl
theorem RoundTrip.snapPageCopy (x0 : Nat) (x1 : Nat) (x2 : Nat) : RoundTrip.Statement (.snapPageCopy x0 x1 x2) := RoundTrip.of_event rfl
theorem RoundTrip.sramPageCopy (x0 : Nat) : RoundTrip.Statement (.sramPageCopy x0) := RoundTrip.of_event rfl
theorem RoundTrip.snapshotFinish (x0 : Nat) (x1 : Nat) : RoundTrip.Statement (.snapshotFinish x0 x1) := RoundTrip.of_event rfl
theorem RoundTrip.lsplit (x0 : Nat) (x1 : Word) : RoundTrip.Statement (.lsplit x0 x1) := RoundTrip.of_event rfl
theorem RoundTrip.managementMessage (x0 : MgmtMsg) : RoundTrip.Statement (.managementMessage x0) := RoundTrip.of_event rfl
theorem RoundTrip.meshInterrupt (x0 : Nat) : RoundTrip.Statement (.meshInterrupt x0) := RoundTrip.of_event rfl
theorem RoundTrip.borrowReturn (x0 : Nat) : RoundTrip.Statement (.borrowReturn x0) := RoundTrip.of_event rfl
theorem RoundTrip.errorMessageArrival (x0 : ErrMsg) : RoundTrip.Statement (.errorMessageArrival x0) := RoundTrip.of_event rfl
theorem RoundTrip.snapshotLeafRewrite (x0 : Nat) (x1 : Nat) (x2 : Nat) : RoundTrip.Statement (.snapshotLeafRewrite x0 x1 x2) := RoundTrip.of_event rfl
theorem RoundTrip.cutLineCopy (x0 : Nat) : RoundTrip.Statement (.cutLineCopy x0) := RoundTrip.of_event rfl
theorem RoundTrip.pinnedPageCopy (x0 : Nat) : RoundTrip.Statement (.pinnedPageCopy x0) := RoundTrip.of_event rfl
theorem RoundTrip.queuePageIn (x0 : Nat) (x1 : Nat) : RoundTrip.Statement (.queuePageIn x0 x1) := RoundTrip.of_event rfl
theorem RoundTrip.stop (x0 : HostCmd) : RoundTrip.Statement (.stop x0) := RoundTrip.of_event rfl
theorem RoundTrip.entryFaultAtFetch (x0 : Nat) (x1 : Nat) : RoundTrip.Statement (.entryFaultAtFetch x0 x1) := RoundTrip.of_event rfl
theorem RoundTrip.slotBoundary (x0 : Nat) : RoundTrip.Statement (.slotBoundary x0) := RoundTrip.of_event rfl
theorem RoundTrip.ksyncResume (x0 : Nat) (x1 : Nat) : RoundTrip.Statement (.ksyncResume x0 x1) := RoundTrip.of_event rfl
theorem RoundTrip.pcycPidxResume (x0 : Nat) (x1 : Nat) : RoundTrip.Statement (.pcycPidxResume x0 x1) := RoundTrip.of_event rfl
theorem RoundTrip.migrateOut (x0 : HostCmd) : RoundTrip.Statement (.migrateOut x0) := RoundTrip.of_event rfl
theorem RoundTrip.illegalEncoding (x0 : Nat) (x1 : Nat) (x2 : Nat) : RoundTrip.Statement (.illegalEncoding x0 x1 x2) := RoundTrip.of_event rfl
theorem RoundTrip.blockPlacement (x0 : Nat) (x1 : Nat) (x2 : Nat) (x3 : Nat) (x4 : Option Nat) : RoundTrip.Statement (.blockPlacement x0 x1 x2 x3 x4) := RoundTrip.of_event rfl
theorem RoundTrip.blockMapInvalidation (x0 : Nat) (x1 : Nat) (x2 : Nat) : RoundTrip.Statement (.blockMapInvalidation x0 x1 x2) := RoundTrip.of_event rfl
theorem RoundTrip.freeContextHint (x0 : Nat) (x1 : Nat) (x2 : Nat) (x3 : Nat) (x4 : Bool) : RoundTrip.Statement (.freeContextHint x0 x1 x2 x3 x4) := RoundTrip.of_event rfl
theorem RoundTrip.steal (x0 : Nat) (x1 : Nat) : RoundTrip.Statement (.steal x0 x1) := RoundTrip.of_event rfl
theorem RoundTrip.pageInComplete (x0 : Nat) (x1 : Nat) (x2 : Nat) (x3 : Option Word) : RoundTrip.Statement (.pageInComplete x0 x1 x2 x3) := RoundTrip.of_event rfl
theorem RoundTrip.tlbShootdown (x0 : Nat) (x1 : Nat) (x2 : Nat) (x3 : List Nat) : RoundTrip.Statement (.tlbShootdown x0 x1 x2 x3) := RoundTrip.of_event rfl
theorem RoundTrip.trapAllocate (x0 : TrapRec) (x1 : Option Nat) : RoundTrip.Statement (.trapAllocate x0 x1) := RoundTrip.of_event rfl
theorem RoundTrip.trapFree (x0 : TrapRec) : RoundTrip.Statement (.trapFree x0) := RoundTrip.of_event rfl
theorem RoundTrip.trapLog (x0 : TrapRec) : RoundTrip.Statement (.trapLog x0) := RoundTrip.of_event rfl
theorem RoundTrip.trapUnknownService (x0 : TrapRec) : RoundTrip.Statement (.trapUnknownService x0) := RoundTrip.of_event rfl
theorem RoundTrip.channelResume (x0 : Nat) (x1 : Nat) : RoundTrip.Statement (.channelResume x0 x1) := RoundTrip.of_event rfl
theorem RoundTrip.channelFlush (x0 : Nat) (x1 : Nat) : RoundTrip.Statement (.channelFlush x0 x1) := RoundTrip.of_event rfl
theorem RoundTrip.frozenThreadReissue (x0 : Nat) (x1 : Nat) : RoundTrip.Statement (.frozenThreadReissue x0 x1) := RoundTrip.of_event rfl
theorem RoundTrip.frozenThreadEnd (x0 : Nat) (x1 : Nat) : RoundTrip.Statement (.frozenThreadEnd x0 x1) := RoundTrip.of_event rfl
theorem RoundTrip.frozenThreadFaultEntry (x0 : Nat) (x1 : Nat) (x2 : Nat) : RoundTrip.Statement (.frozenThreadFaultEntry x0 x1 x2) := RoundTrip.of_event rfl
theorem RoundTrip.heartbeatTimeout (x0 : Nat) : RoundTrip.Statement (.heartbeatTimeout x0) := RoundTrip.of_event rfl
theorem RoundTrip.spareRemap (x0 : Nat) (x1 : Nat) : RoundTrip.Statement (.spareRemap x0 x1) := RoundTrip.of_event rfl
theorem RoundTrip.flitCrcError (x0 : Link) : RoundTrip.Statement (.flitCrcError x0) := RoundTrip.of_event rfl
theorem RoundTrip.packageReset (x0 : BootResult) : RoundTrip.Statement (.packageReset x0) := RoundTrip.of_event rfl
theorem RoundTrip.wakeWordStore (x0 : Nat) (x1 : Nat) (x2 : Nat) (x3 : Nat) : RoundTrip.Statement (.wakeWordStore x0 x1 x2 x3) := RoundTrip.of_event rfl
theorem RoundTrip.yewRelease (x0 : Nat) (x1 : Nat) : RoundTrip.Statement (.yewRelease x0 x1) := RoundTrip.of_event rfl
theorem RoundTrip.hostBar2Request (x0 : Nat) (x1 : Nat) (x2 : Nat) (x3 : Option Nat) : RoundTrip.Statement (.hostBar2Request x0 x1 x2 x3) := RoundTrip.of_event rfl
theorem RoundTrip.functionLevelReset (x0 : Nat) : RoundTrip.Statement (.functionLevelReset x0) := RoundTrip.of_event rfl
theorem RoundTrip.drvfeat (x0 : Word) : RoundTrip.Statement (.drvfeat x0) := RoundTrip.of_event rfl
theorem RoundTrip.firmwareUpdate (x0 : Nat) : RoundTrip.Statement (.firmwareUpdate x0) := RoundTrip.of_event rfl
theorem RoundTrip.thermalThrottle (x0 : Nat) : RoundTrip.Statement (.thermalThrottle x0) := RoundTrip.of_event rfl
theorem RoundTrip.thermalRestore (x0 : Nat) : RoundTrip.Statement (.thermalRestore x0) := RoundTrip.of_event rfl
theorem RoundTrip.thermalStop (x0 : Nat) : RoundTrip.Statement (.thermalStop x0) := RoundTrip.of_event rfl
theorem RoundTrip.renameCommit (x0 : Nat) (x1 : Word) : RoundTrip.Statement (.renameCommit x0 x1) := RoundTrip.of_event rfl
theorem RoundTrip.slotTableCommit (x0 : Nat) (x1 : Word) : RoundTrip.Statement (.slotTableCommit x0 x1) := RoundTrip.of_event rfl
theorem RoundTrip.schedulerConfigCommit (x0 : Nat) (x1 : Word) : RoundTrip.Statement (.schedulerConfigCommit x0 x1) := RoundTrip.of_event rfl
theorem RoundTrip.yewConfigCommit (x0 : Nat) (x1 : Word) : RoundTrip.Statement (.yewConfigCommit x0 x1) := RoundTrip.of_event rfl
theorem RoundTrip.ringGrowthCommit (x0 : RingName) (x1 : Word) : RoundTrip.Statement (.ringGrowthCommit x0 x1) := RoundTrip.of_event rfl
theorem RoundTrip.blockDirectoryCommit (x0 : Nat) (x1 : Nat) (x2 : Nat) : RoundTrip.Statement (.blockDirectoryCommit x0 x1 x2) := RoundTrip.of_event rfl
theorem RoundTrip.yewRollback (x0 : Nat) (x1 : Nat) : RoundTrip.Statement (.yewRollback x0 x1) := RoundTrip.of_event rfl
theorem RoundTrip.vgroup (x0 : Nat) (x1 : Word) : RoundTrip.Statement (.vgroup x0 x1) := RoundTrip.of_event rfl
theorem RoundTrip.dbgctl (x0 : Nat) (x1 : Word) : RoundTrip.Statement (.dbgctl x0 x1) := RoundTrip.of_event rfl
theorem RoundTrip.shasid (x0 : Nat) (x1 : Word) : RoundTrip.Statement (.shasid x0 x1) := RoundTrip.of_event rfl
theorem RoundTrip.mecheck (x0 : Nat) (x1 : Word) : RoundTrip.Statement (.mecheck x0 x1) := RoundTrip.of_event rfl
theorem RoundTrip.managementWindowWrite (x0 : MgmtWrite) : RoundTrip.Statement (.managementWindowWrite x0) := RoundTrip.of_event rfl
theorem RoundTrip.queueUnmap (x0 : Nat) (x1 : Nat) : RoundTrip.Statement (.queueUnmap x0 x1) := RoundTrip.of_event rfl
theorem RoundTrip.queueRepair (x0 : Nat) (x1 : Nat) : RoundTrip.Statement (.queueRepair x0 x1) := RoundTrip.of_event rfl
theorem RoundTrip.watchdogFires (x0 : Nat) : RoundTrip.Statement (.watchdogFires x0) := RoundTrip.of_event rfl
theorem RoundTrip.launch (x0 : HostCmd) : RoundTrip.Statement (.launch x0) := RoundTrip.of_event rfl
theorem RoundTrip.hostSnapshot (x0 : HostCmd) : RoundTrip.Statement (.hostSnapshot x0) := RoundTrip.of_event rfl
theorem RoundTrip.hostRollback (x0 : HostCmd) : RoundTrip.Statement (.hostRollback x0) := RoundTrip.of_event rfl
theorem RoundTrip.hostRelease (x0 : HostCmd) : RoundTrip.Statement (.hostRelease x0) := RoundTrip.of_event rfl
theorem RoundTrip.attest (x0 : HostCmd) : RoundTrip.Statement (.attest x0) := RoundTrip.of_event rfl
theorem RoundTrip.heartbeat (x0 : Nat) : RoundTrip.Statement (.heartbeat x0) := RoundTrip.of_event rfl
theorem RoundTrip.migrateIn (x0 : HostCmd) (x1 : Nat) : RoundTrip.Statement (.migrateIn x0 x1) := RoundTrip.of_event rfl

end Sys2Proof.Laws
end

