-- ==== Sys2Proof/Laws/Result.lean ====
section
/-! SUPPORT. Where a result goes: writing a destination operand, and the completion of every instruction that does nothing else. -/

namespace Sys2Proof.Machine

theorem Tab.put_put {α : Type} (t : Tab α) (k : Nat) (v w : α) : Tab.put (Tab.put t k v) k w = Tab.put t k w := by
  induction t with
  | nil => simp [Tab.put]
  | cons e t ih =>
    simp only [Tab.put]
    split
    · simp [Tab.put]
    · split
      · simp [Tab.put]
      · rename_i h1 h2
        have h3 : ¬ k = e.1 := by simpa using h2
        simp [Tab.put, h1, ih, h3]

theorem Core.modCtx_modCtx (k : Core) (n : Nat) (f g : Ctx → Ctx) : (k.modCtx n f).modCtx n g = k.modCtx n fun x => g (f x) := by
  simp [Core.modCtx, Core.setCtx, Core.ctx, Tab.put_put]

theorem State.modCore_modCore (s : State) (c : Nat) (f g : Core → Core) :
    (s.modCore c f).modCore c g = s.modCore c fun k => g (f k) := by
  simp [State.modCore, State.setCore, State.core, Tab.put_put]

theorem State.modCtx_modCtx (s : State) (c n : Nat) (f g : Ctx → Ctx) :
    (s.modCtx c n f).modCtx c n g = s.modCtx c n fun x => g (f x) := by
  simp [State.modCtx, State.modCore_modCore, Core.modCtx_modCtx]

theorem State.writeOp_writes (s : State) (c slot : Nat) (d : Operand) (v : Word) (f : Ctx → Ctx)
    (hf : ∀ x, (f x).h = x.h) :
    Writes c slot d v s ((s.writeOp c slot d v).modCtx c slot f) := by
  cases d <;>
  exact {
    state := rfl
    cores := fun e he => by simp [State.writeOp, State.core_modCtx_ne, State.core_modCore_ne, he]
    core := by simp [State.writeOp, destOf, Core.putDest, Core.writeMain, Core.writeK, Core.modCtx, Core.setCtx]
    main := fun e => by
      simp [State.writeOp, destOf, Core.putDest, Core.writeMain, Core.writeK, destEntry, Tab.getD_set, State.ctx, Ctx.clash]
    full := fun e => by
      simp [State.writeOp, destOf, Core.putDest, Core.writeMain, Core.writeK, destEntry, State.ctx, Ctx.clash]
    sound := fun e => by
      simp [State.writeOp, destOf, Core.putDest, Core.writeMain, Core.writeK, destEntry, State.ctx, Ctx.clash]
    shared := fun n => by
      simp [State.writeOp, destOf, Core.putDest, Core.writeMain, Core.writeK, destShared, Tab.getD_set]
    visible := by simp [State.writeOp, destOf, Core.putDest, Core.writeMain, Core.writeK, destShared]
    ctxs := fun j hj => by
      simp [State.writeOp, destOf, Core.putDest, Core.writeMain, Core.writeK, State.ctx, hj, Core.modCtx, Core.setCtx, Core.ctx, Tab.getD_put_ne]
    oper := fun n => by
      simp [State.writeOp, destOf, Core.putDest, Core.writeMain, Core.writeK, destOper, Tab.getD_set, State.ctx, hf, Ctx.clash, Core.modCtx, Core.setCtx, Core.ctx] }

/-- A result for a destination that is no queue. -/
theorem State.result_writes (s : State) (c slot : Nat) (i : Instr) (d : Operand) (v : Word) (hd : ∀ n, d ≠ .q n) (p : PC) :
    ∃ t, s.result c slot i d v = .next t ∧ Writes c slot d v s (t.modCtx c slot fun x => x.complete p) ∧
      (t.modCtx c slot fun x => x.complete p).ctx c slot =
        (let x := if popping i then s.ctx c slot else (s.ctx c slot).lastResult (isC i) v
         { x with h := (t.ctx c slot).h, out := ((s.ctx c slot).clash (destOf d) v.toNat).out }).complete p := by
  have hc : ∀ g : Ctx → Ctx, ((s.writeOp c slot d v).modCtx c slot g).ctx c slot =
      g { s.ctx c slot with h := ((s.writeOp c slot d v).ctx c slot).h, out := ((s.ctx c slot).clash (destOf d) v.toNat).out } := by
    intro g
    cases d <;>
      simp [State.writeOp, destOf, Core.putDest, Core.writeMain, Core.writeK, State.ctx, Ctx.clash, Core.modCtx, Core.setCtx, Core.ctx]
  by_cases hp : popping i
  · refine ⟨s.writeOp c slot d v, ?_, State.writeOp_writes _ _ _ _ _ _ fun _ => rfl, ?_⟩
    · cases d with
      | q n => exact absurd rfl (hd n)
      | _ => simp [State.result, hp, Operand.isQueue]
    · rw [hc]; simp [hp, Ctx.complete]
  · refine ⟨(s.writeOp c slot d v).modCtx c slot fun x => x.lastResult (isC i) v, ?_, ?_, ?_⟩
    · cases d with
      | q n => exact absurd rfl (hd n)
      | _ => simp [State.result, hp, Operand.isQueue]
    · rw [State.modCtx_modCtx]
      exact State.writeOp_writes _ _ _ _ _ _ fun x => by cases h : isC i <;> simp [Ctx.lastResult, Ctx.complete]
    · rw [State.modCtx_modCtx, hc, hc]
      cases h : isC i <;> simp [Ctx.lastResult, Ctx.complete, hp]

/-- A word whose effect comes to a result completes with it. -/
theorem yields_of {i : Instr} {d : Operand} {v : Word} {s t u : State} {vals : List Word} {body : List Word → State → Act}
    (hi : Issues s i vals t) (hd : ∀ n, d ≠ .q n) (he : exec i s = .next (s.issue i body)) (hu : u.iss = t.iss)
    (hp : u.me.pc = t.me.pc) (hb : body vals t = u.result t.iss.core t.iss.slot i d v) : Yields i d v s u := by
  obtain ⟨w, hw, hf, hx⟩ := u.result_writes t.iss.core t.iss.slot i d v hd t.nextPlace
  have hn : u.nextPlace = t.nextPlace := by simp [State.nextPlace, hp, hu]
  refine ⟨_, ?_, by rw [hu]; exact hf, ?_⟩
  · rw [Ends, he, hi.issue, hb, hw, State.conclude_next, ← hi.iss, hi.nextPlace]
  · have hc : (w.modCtx t.iss.core t.iss.slot fun x => x.complete t.nextPlace).iss = t.iss := by
      rw [hf.state]; exact hu
    rw [hn]
    simp only [State.me, hc, hu]
    simpa [Ctx.complete] using hx

/-- A word whose effect is a result of its source values and nothing else completes with it. -/
theorem results_of {i : Instr} {d : Operand} {f : List Word → Word}
    (h : ∀ s vals t, Issues s i vals t → ∃ body, exec i s = .next (s.issue i body) ∧
      body vals t = t.result t.iss.core t.iss.slot i d (f vals)) : Results i d f := by
  intro s vals t hi hd
  obtain ⟨body, he, hb⟩ := h s vals t hi
  exact yields_of hi hd he rfl rfl hb

theorem OnlyCtx.modCtx (c slot : Nat) (s : State) (f : Ctx → Ctx) : OnlyCtx c slot s (s.modCtx c slot f) :=
  ⟨⟨rfl, fun e he => by simp [State.core_modCtx_ne, he]⟩, by simp [Core.modCtx, Core.setCtx],
    fun j hj => by simp [State.ctx_modCtx_ne, hj]⟩

theorem Moved.modCtx (u : State) (p : PC) : Moved u (u.modCtx u.iss.core u.iss.slot fun x => x.complete p) p :=
  ⟨.modCtx .., by simp [State.me]⟩

/-- A word whose effect leaves the thread at the next word. -/
theorem ends_next {i : Instr} {s t u : State} {vals : List Word} {body : List Word → State → Act} (hi : Issues s i vals t)
    (he : exec i s = .next (s.issue i body)) (hb : body vals t = .next u) :
    Ends i s (u.modCtx t.iss.core t.iss.slot fun x => x.complete t.nextPlace) := by
  rw [Ends, he, hi.issue, hb, State.conclude_next, hi.iss, hi.nextPlace]

/-- A word whose effect leaves the thread at a program address. -/
theorem ends_goto {i : Instr} {s t u : State} {vals : List Word} {body : List Word → State → Act} {d : Nat} (hi : Issues s i vals t)
    (he : exec i s = .next (s.issue i body)) (hb : body vals t = .goto d u) :
    Ends i s (u.modCtx t.iss.core t.iss.slot fun x => x.complete (PC.at_ d)) := by
  rw [Ends, he, hi.issue, hb, State.conclude_goto, hi.iss]

theorem moved_next {i : Instr} {s t : State} {vals : List Word} {body : List Word → State → Act} (hi : Issues s i vals t)
    (he : exec i s = .next (s.issue i body)) (hb : body vals t = .next t) : ∃ u, Ends i s u ∧ Moved t u t.nextPlace :=
  ⟨_, ends_next hi he hb, .modCtx ..⟩

theorem moved_goto {i : Instr} {s t : State} {vals : List Word} {body : List Word → State → Act} {d : Nat} (hi : Issues s i vals t)
    (he : exec i s = .next (s.issue i body)) (hb : body vals t = .goto d t) : ∃ u, Ends i s u ∧ Moved t u (PC.at_ d) :=
  ⟨_, ends_goto hi he hb, .modCtx ..⟩

theorem waits_of {i : Instr} {s t u : State} {vals : List Word} {body : List Word → State → Act} {w : Wait} (hi : Issues s i vals t)
    (he : exec i s = .next (s.issue i body)) (hb : body vals t = .hold w u) : Waits i s u w := by
  rw [Waits, he, hi.issue, hb, State.conclude_hold]

theorem faults_of {i : Instr} {s t : State} {vals : List Word} {body : List Word → State → Act} {code d : Nat} {o : Bool}
    (hi : Issues s i vals t) (he : exec i s = .next (s.issue i body)) (hb : body vals t = .fault code d o) : Faults i s code d o := by
  rw [Faults, he, hi.issue, hb, State.conclude_fault]

theorem gone_of {i : Instr} {s t u : State} {vals : List Word} {body : List Word → State → Act} (hi : Issues s i vals t)
    (he : exec i s = .next (s.issue i body)) (hb : body vals t = .gone u) :
    exec i s = .next { u with iss := { u.iss with res := 1 } } := by
  rw [he, hi.issue, hb, State.conclude_gone]

theorem PC.at_pa (b o : Nat) : PC.at_ (pa b o) = { blk := b % 2 ^ 24, off := o % 512, word := 0 } := by
  have h : (b % 16777216 * 512 + o % 512) / 512 = b % 16777216 := by omega
  have g : (b % 16777216 * 512 + o % 512) % 512 = o % 512 := by omega
  simp [PC.at_, pa, h, g]

end Sys2Proof.Machine
end

