-- ==== Sys2Proof/Laws/Transfer.lean ====
section
/-! SUPPORT. The cases of a transfer to a program address (08 R175), for a thread that is not the porter's. -/

namespace Sys2Proof.Machine

theorem Core.porterBars_other (k : Core) (x : Ctx) {slot : Nat} (h : slot ≠ 63) (blk : Nat) : k.porterBars x slot blk = false := by
  simp [Core.porterBars, h]

/-- What a lookup of the block map says of a block whose text or entry a core has. -/
theorem Core.known_lists {k : Core} {asid blk : Nat} {descs : List Nat} (h : k.lists asid blk descs) :
    k.known asid blk = some (descs, false) := by
  obtain ⟨e, he, ⟨p, hp, hd⟩ | ⟨hp, hn, hd⟩⟩ := h
  · simp [Core.known, he, hp, hd]
  · simp [Core.known, he, hp, hd, hn]

theorem Core.known_nowhere {k : Core} {asid blk : Nat} {e : MapEntry} (he : k.mapEntry asid blk = some e) (hn : e.nholders = 0)
    (hp : k.placedBlock asid blk = none) : k.known asid blk = some (e.descs, true) := by
  simp [Core.known, he, hp, hn]

variable {t : State} {c slot kind d : Nat}

theorem State.transfer_bad (hs : slot ≠ 63) (h : 2 ^ 33 ≤ d ∨ d / 512 = 0) :
    t.transfer c slot kind (.addr d) = .fault fcEntry d false := by
  simp only [State.transfer, Core.porterBars_other _ _ hs, Bool.false_eq_true, if_false]
  rw [show (t.core c).ctx slot = t.ctx c slot from rfl]
  rw [if_pos (by simpa using h)]

theorem State.transfer_last (hs : slot ≠ 63) (h : d < 2 ^ 33) (h0 : d / 512 ≠ 0) (hk : kind = 1)
    (ho : (t.core c).blockCount (t.ctx c slot).asid (t.ctx c slot).pc.blk ≤ (t.ctx c slot).pc.off + 1) :
    t.transfer c slot kind (.addr d) = .fault fcEntry d false := by
  have hn : ¬ (2 ^ 33 ≤ d ∨ d / 512 = 0) := by omega
  simp only [State.transfer, Core.porterBars_other _ _ hs, Bool.false_eq_true, if_false]
  rw [show (t.core c).ctx slot = t.ctx c slot from rfl]
  rw [if_neg (by simpa using hn), if_pos (by simpa [hk] using ho)]

section
variable (hs : slot ≠ 63) (h : d < 2 ^ 33) (h0 : d / 512 ≠ 0)
  (ho : kind = 1 → (t.ctx c slot).pc.off + 1 < (t.core c).blockCount (t.ctx c slot).asid (t.ctx c slot).pc.blk)
include hs h h0 ho

/-- Past the checks of lines 2 and 4, a transfer is one within its block, or goes by what the core knows of the block it names. -/
theorem State.transfer_checked :
    t.transfer c slot kind (.addr d) =
      if d / 512 = (t.ctx c slot).pc.blk then
        if (t.core c).blockCount (t.ctx c slot).asid (t.ctx c slot).pc.blk ≤ d % 512 then .fault fcEntry d false
        else if kind = 3 then t.forkChild c slot d none
        else .goto d (t.setLink c slot kind)
      else match (t.core c).known (t.ctx c slot).asid (d / 512) with
        | none => .hold (.blockMap (d / 512)) t
        | some (descs, nowhere) =>
          let u := t.mapUse c (t.ctx c slot).asid (d / 512)
          if !nowhere && (entryAt descs (d % 512)).isNone then .fault fcEntry d false
          else if kind = 3 then u.forkChild c slot d none
          else match (t.core c).placedBlock (t.ctx c slot).asid (d / 512) with
            | some p => u.settleAt c slot kind p d
            | none => .hold (.depart d kind none) u := by
  have hn : ¬ (2 ^ 33 ≤ d ∨ d / 512 = 0) := by omega
  have hl : ¬ (kind = 1 ∧ (t.core c).blockCount (t.ctx c slot).asid (t.ctx c slot).pc.blk ≤ (t.ctx c slot).pc.off + 1) :=
    fun g => absurd (ho g.1) (by omega)
  simp only [State.transfer, Core.porterBars_other _ _ hs, Bool.false_eq_true, if_false]
  rw [show (t.core c).ctx slot = t.ctx c slot from rfl]
  rw [if_neg (by simpa using hn), if_neg (by simpa using hl)]
  all_goals rfl

theorem State.transfer_past (hb : d / 512 = (t.ctx c slot).pc.blk)
    (hc : (t.core c).blockCount (t.ctx c slot).asid (t.ctx c slot).pc.blk ≤ d % 512) :
    t.transfer c slot kind (.addr d) = .fault fcEntry d false := by
  rw [State.transfer_checked hs h h0 ho, if_pos hb, if_pos hc]

theorem State.transfer_miss (hb : d / 512 ≠ (t.ctx c slot).pc.blk) (hm : (t.core c).mapEntry (t.ctx c slot).asid (d / 512) = none) :
    t.transfer c slot kind (.addr d) = .hold (.blockMap (d / 512)) t := by
  rw [State.transfer_checked hs h h0 ho, if_neg hb]
  simp [Core.known, hm]

theorem State.transfer_undeclared {descs : List Nat} (hb : d / 512 ≠ (t.ctx c slot).pc.blk)
    (hm : (t.core c).lists (t.ctx c slot).asid (d / 512) descs) (he : entryAt descs (d % 512) = none) :
    t.transfer c slot kind (.addr d) = .fault fcEntry d false := by
  rw [State.transfer_checked hs h h0 ho, if_neg hb]
  simp [Core.known_lists hm, he]

theorem State.transfer_within (h3 : kind ≠ 3) (hb : d / 512 = (t.ctx c slot).pc.blk)
    (hc : d % 512 < (t.core c).blockCount (t.ctx c slot).asid (t.ctx c slot).pc.blk) :
    t.transfer c slot kind (.addr d) = .goto d (t.setLink c slot kind) := by
  rw [State.transfer_checked hs h h0 ho, if_pos hb, if_neg (Nat.not_le.2 hc), if_neg h3]

theorem State.transfer_here {p : Placed} (h3 : kind ≠ 3) (hb : d / 512 ≠ (t.ctx c slot).pc.blk)
    (hm : (t.core c).declares (t.ctx c slot).asid (d / 512) (d % 512))
    (hp : (t.core c).placedBlock (t.ctx c slot).asid (d / 512) = some p) :
    t.transfer c slot kind (.addr d) = (t.mapUse c (t.ctx c slot).asid (d / 512)).settleAt c slot kind p d := by
  obtain ⟨descs, hl, he⟩ := hm
  rw [State.transfer_checked hs h h0 ho, if_neg hb]
  have he' : entryAt descs (d % 512) ≠ none := by simpa [Option.isSome_iff_ne_none] using he
  simp [Core.known_lists hl, he', h3, hp]

theorem State.transfer_away (h3 : kind ≠ 3) (hb : d / 512 ≠ (t.ctx c slot).pc.blk)
    (hm : (t.core c).declares (t.ctx c slot).asid (d / 512) (d % 512))
    (hp : (t.core c).placedBlock (t.ctx c slot).asid (d / 512) = none) :
    t.transfer c slot kind (.addr d) = .hold (.depart d kind none) (t.mapUse c (t.ctx c slot).asid (d / 512)) := by
  obtain ⟨descs, hl, he⟩ := hm
  rw [State.transfer_checked hs h h0 ho, if_neg hb]
  have he' : entryAt descs (d % 512) ≠ none := by simpa [Option.isSome_iff_ne_none] using he
  simp [Core.known_lists hl, he', h3, hp]

theorem State.transfer_nowhere {e : MapEntry} (h3 : kind ≠ 3) (hb : d / 512 ≠ (t.ctx c slot).pc.blk)
    (hm : (t.core c).mapEntry (t.ctx c slot).asid (d / 512) = some e) (hn : e.nholders = 0)
    (hp : (t.core c).placedBlock (t.ctx c slot).asid (d / 512) = none) :
    t.transfer c slot kind (.addr d) = .hold (.depart d kind none) (t.mapUse c (t.ctx c slot).asid (d / 512)) := by
  rw [State.transfer_checked hs h h0 ho, if_neg hb]
  simp [Core.known_nowhere hm hn hp, h3, hp]

end

end Sys2Proof.Machine
end

