-- ==== Sys2Proof/Laws/Waits.lean ====
section
/-! SUPPORT. When a thread has settled or fenced, what it observes then, what a save area holds of it, and what a router holds while a
split waits. -/

namespace Sys2Proof.Machine

/-- The test of 07 R154 and 09 R214, in its own words. -/
theorem returned_iff (t : State) : t.me.allReturned t.now = true ↔ Returned t := by
  simp only [Ctx.allReturned, Returned, List.all_eq_true, Bool.and_eq_true, Bool.or_eq_true, decide_eq_true_eq, bne_iff_ne, ne_eq]
  constructor
  · intro h p hp; exact ⟨(h p hp).1, fun hk => (h p hp).2.resolve_left (by simp [hk])⟩
  · intro h p hp; refine ⟨(h p hp).1, ?_⟩; by_cases hk : p.kind = .bfld
    · exact Or.inr ((h p hp).2 hk)
    · exact Or.inl hk

/-- The test of R39 step 1. -/
theorem settled_iff (t : State) : t.me.settled t.now = true ↔ Settled t := by
  simp [Ctx.settled, Settled, returned_iff]

/-- The test of FENCEB (08 R192). -/
theorem fenced_iff (t : State) : (t.core t.iss.core).fenced t.iss.slot t.now = true ↔ Fenced t := by
  have h := settled_iff t
  simp only [Core.fenced, Fenced, Bool.and_eq_true, List.isEmpty_iff, List.all_eq_true, Bool.or_eq_true, List.any_eq_true, beq_iff_eq, Core.cpdone]
  rw [← h]
  simp only [State.me, State.ctx, and_assoc]

/-- What the end of a fence does. -/
theorem fenceDone_seen (t : State) (hp : t.me.pipe = []) : ∃ y, FenceSeen t y ∧
    OnlyCtx t.iss.core t.iss.slot t (t.fenceDone t.iss.core t.iss.slot) ∧ (t.fenceDone t.iss.core t.iss.slot).me = y ∧
    (t.fenceDone t.iss.core t.iss.slot).iss = t.iss ∧ (t.fenceDone t.iss.core t.iss.slot).net = t.net ∧ t.fenceDone t.iss.core t.iss.slot = {t with cores := (t.fenceDone t.iss.core t.iss.slot).cores} := by
  have hx : (t.core t.iss.core).ctx t.iss.slot = t.me := rfl
  by_cases h : t.me.copies = [] ∧ t.me.cmdTc = 0
  · have : t.fenceDone t.iss.core t.iss.slot = t := by simp [State.fenceDone, hx, h.1, h.2]
    rw [this]; exact ⟨t.me, Or.inl ⟨h.1, h.2, rfl⟩, ⟨⟨rfl, fun _ _ => rfl⟩, rfl, fun _ _ => rfl⟩, rfl, rfl, rfl, rfl⟩
  · have h' : (t.me.copies.isEmpty && decide (t.me.cmdTc = 0)) = false := by simp; intro h1; exact fun h2 => h ⟨h1, h2⟩
    have e : t.fenceDone t.iss.core t.iss.slot = t.modCtx t.iss.core t.iss.slot fun x => { x.observe (t.me.copies.foldl (fun m e => max m (Tab.getD (t.core t.iss.core).units.cpTc e.1 0)) t.me.cmdTc) with copies := [], cmdTc := 0 } := by
      simp only [State.fenceDone, hx, h']; rfl
    have key : ∀ (f : Nat × Nat → Nat) (l : List (Nat × Nat)) (a : Nat), a ≤ l.foldl (fun m e => max m (f e)) a ∧ (∀ e ∈ l, f e ≤ l.foldl (fun m e => max m (f e)) a) ∧ (l.foldl (fun m e => max m (f e)) a = a ∨ ∃ e ∈ l, l.foldl (fun m e => max m (f e)) a = f e) := by
      intro f l
      induction l with
      | nil => simp
      | cons x l ih =>
        intro a
        obtain ⟨i1, i2, i3⟩ := ih (max a (f x))
        simp only [List.foldl_cons, List.mem_cons, forall_eq_or_imp, exists_eq_or_imp]
        refine ⟨by omega, ⟨by omega, i2⟩, ?_⟩
        rcases i3 with i3 | i3
        · rw [i3]; rcases le_total a (f x) with h | h <;> simp [h]
        · exact Or.inr (Or.inr i3)
    rw [e]
    obtain ⟨k1, k2, k3⟩ := key (fun e => Tab.getD (t.core t.iss.core).units.cpTc e.1 0) t.me.copies t.me.cmdTc
    refine ⟨_, Or.inr ⟨by tauto, _, k1, k2, k3, rfl⟩, .modCtx .., ?_, rfl, rfl, rfl⟩
    have hp' : (t.ctx t.iss.core t.iss.slot).pipe = [] := hp
    simp [State.me, Ctx.observe, hp']

/-- Two steps within one context. -/
theorem OnlyCtx.trans {c sl : Nat} {a b d : State} (h : OnlyCtx c sl a b) (g : OnlyCtx c sl b d) : OnlyCtx c sl a d :=
  ⟨⟨by rw [g.1.1, h.1.1], fun e he => (g.1.2 e he).trans (h.1.2 e he)⟩, by rw [g.2.1, h.2.1], fun j hj => (g.2.2 j hj).trans (h.2.2 j hj)⟩

/-! What a save leaves of a context. -/

theorem Ctx.saved_asid (x : Ctx) : x.saved.asid = x.asid := by
  unfold Ctx.saved Ctx.unswap Ctx.swap Ctx.dropLoads; dsimp only; repeat' split
  all_goals rfl
theorem Ctx.saved_cls (x : Ctx) : x.saved.cls = x.cls := by
  unfold Ctx.saved Ctx.unswap Ctx.swap Ctx.dropLoads; dsimp only; repeat' split
  all_goals rfl
theorem Ctx.saved_pt (x : Ctx) : x.saved.pt = x.pt := by
  unfold Ctx.saved Ctx.unswap Ctx.swap Ctx.dropLoads; dsimp only; repeat' split
  all_goals rfl
theorem Ctx.saved_link (x : Ctx) : x.saved.link = x.link := by
  unfold Ctx.saved Ctx.unswap Ctx.swap Ctx.dropLoads; dsimp only; repeat' split
  all_goals rfl
theorem Ctx.saved_tstat (x : Ctx) : x.saved.tstat = x.tstat := by
  unfold Ctx.saved Ctx.unswap Ctx.swap Ctx.dropLoads; dsimp only; repeat' split
  all_goals rfl
theorem Ctx.saved_win (x : Ctx) : x.saved.win = x.win := by
  unfold Ctx.saved Ctx.unswap Ctx.swap Ctx.dropLoads; dsimp only; repeat' split
  all_goals rfl
theorem Ctx.saved_h (x : Ctx) : x.saved.h = x.h := by
  unfold Ctx.saved Ctx.unswap Ctx.swap Ctx.dropLoads; dsimp only; repeat' split
  all_goals rfl
theorem Ctx.saved_lc (x : Ctx) : x.saved.lc = x.lc := by
  unfold Ctx.saved Ctx.unswap Ctx.swap Ctx.dropLoads; dsimp only; repeat' split
  all_goals rfl
theorem Ctx.saved_la (x : Ctx) : x.saved.la = x.la := by
  unfold Ctx.saved Ctx.unswap Ctx.swap Ctx.dropLoads; dsimp only; repeat' split
  all_goals rfl
theorem Ctx.saved_masks (x : Ctx) : x.saved.masks = x.masks := by
  unfold Ctx.saved Ctx.unswap Ctx.swap Ctx.dropLoads; dsimp only; repeat' split
  all_goals rfl
theorem Ctx.saved_fcode (x : Ctx) : x.saved.fcode = x.fcode := by
  unfold Ctx.saved Ctx.unswap Ctx.swap Ctx.dropLoads; dsimp only; repeat' split
  all_goals rfl
theorem Ctx.saved_faddr (x : Ctx) : x.saved.faddr = x.faddr := by
  unfold Ctx.saved Ctx.unswap Ctx.swap Ctx.dropLoads; dsimp only; repeat' split
  all_goals rfl
theorem Ctx.saved_pc (x : Ctx) : x.saved.pc = x.pc := by
  unfold Ctx.saved Ctx.unswap Ctx.swap Ctx.dropLoads; dsimp only; repeat' split
  all_goals rfl

/-- A member leaves its gang: contexts alone change. -/
theorem Core.leaveGang_ctxs (k : Core) (n : Nat) : k.leaveGang n = { k with ctxs := (k.leaveGang n).ctxs } := by
  have hf : ∀ (f : Nat → Ctx → Ctx) (l : List Nat) (k : Core),
      l.foldl (fun k m => k.modCtx m (f m)) k = { k with ctxs := (l.foldl (fun k m => k.modCtx m (f m)) k).ctxs } := by
    intro f l
    induction l with
    | nil => exact fun k => rfl
    | cons a l ih => intro k; rw [List.foldl_cons, ih]; rfl
  unfold Core.leaveGang
  dsimp only
  rw [hf]
  rfl

/-- The context of the member that leaves. -/
theorem Core.leaveGang_ctx (k : Core) (n : Nat) :
    (k.leaveGang n).ctx n = { k.ctx n with gang := [], tstat := (k.ctx n).tstat &&& ((k.ctx n).tstat ^^^ 8) } := by
  have hf : ∀ (f : Nat → Ctx → Ctx) (l : List Nat), n ∉ l → ∀ k : Core, (l.foldl (fun k m => k.modCtx m (f m)) k).ctx n = k.ctx n := by
    intro f l
    induction l with
    | nil => exact fun _ k => rfl
    | cons a l ih =>
      intro h k
      rw [List.foldl_cons, ih (fun g => h (List.mem_cons_of_mem _ g))]
      have : n ≠ a := fun g => h (g ▸ List.mem_cons_self ..)
      simp [Core.modCtx, Core.setCtx, Core.ctx, Tab.getD_put_ne, this]
  unfold Core.leaveGang
  dsimp only
  rw [hf _ _ (by simp)]
  simp [Core.modCtx, Core.setCtx, Core.ctx]

theorem testBit_ungang (t b : Nat) : (t &&& (t ^^^ 8)).testBit b ↔ t.testBit b ∧ b ≠ 3 := by
  have h8 : Nat.testBit 8 b = decide (3 = b) := by rw [show (8 : Nat) = 2 ^ 3 from rfl, Nat.testBit_two_pow]
  rw [Nat.testBit_and, Nat.testBit_xor, h8]
  by_cases h : 3 = b <;> cases ht : t.testBit b <;> (simp [h]; try omega)

/-- What a save area holds of a thread. -/
theorem saved_of (k : Core) (sl : Nat) (v : SavedCtx)
    (hv : v = { (k.leaveGang sl).saveCtx sl with ctx := ((k.leaveGang sl).saveCtx sl).ctx.saved }) : SavedFrom k (k.ctx sl) v := by
  subst hv
  have hc := k.leaveGang_ctx sl
  have hk := k.leaveGang_ctxs sl
  simp only [Core.saveCtx, hc, SavedFrom, Ctx.saved_asid, Ctx.saved_cls, Ctx.saved_pt, Ctx.saved_link, Ctx.saved_tstat, Ctx.saved_win, Ctx.saved_h,
    Ctx.saved_lc, Ctx.saved_la, Ctx.saved_masks, Ctx.saved_fcode, Ctx.saved_faddr, testBit_ungang]
  refine ⟨?_, fun i => ?_, ?_, trivial, trivial, trivial, trivial, trivial, fun b => trivial, trivial, trivial, trivial, trivial, trivial, trivial, rfl⟩
  · rw [hk]; rfl
  · simp only [Core.isFull, hc]; rw [hk]; simp [Ctx.mainSize]
  · rw [hk]; rfl

/-- A context saved (02 R51): its slot is free, and its save area holds the thread. -/
theorem State.saveContext_saved (s : State) (c slot : Nat) :
    (s.saveContext c slot).ctx c slot = {} ∧ ∃ v, Tab.get? ((s.saveContext c slot).core c).work.saved slot = some v ∧
      SavedFrom (s.core c) (s.ctx c slot) v ∧ v.ctx.pc = (s.ctx c slot).pc ∧ v.ctx.prior = some (s.ctx c slot).status.resumes ∧ v.slot = slot := by
  have hc : ∀ (t : State) (d : Tab Die), ({ t with dies := d } : State).core c = t.core c := fun _ _ => rfl
  have hx := (s.core c).leaveGang_ctx slot
  unfold State.saveContext
  dsimp only
  refine ⟨?_, _, ?_, saved_of (s.core c) slot _ rfl, ?_, ?_, rfl⟩
  · rw [State.ctx, hc, State.core_modCore_self]; exact Core.ctx_setCtx_self ..
  · rw [hc, State.core_modCore_self]
    simp only [Core.work_setCtx, Core.shelve, Core.reslot]
    exact Tab.get?_put_self ..
  · show ((((s.core c).leaveGang slot).ctx slot).saved).pc = _
    rw [Ctx.saved_pc, hx]; rfl
  · show some (((s.core c).leaveGang slot).ctx slot).status.resumes = _
    rw [hx]; rfl

/-! ### What a router holds (04 R86) -/

theorem mem_insertBy {α : Type} (key : α → Nat) (x y : α) : ∀ l : List α, y ∈ insertBy key x l ↔ y = x ∨ y ∈ l
  | [] => by simp [insertBy]
  | z :: l => by
    rw [insertBy]
    split
    · rw [List.mem_cons]
    · rw [List.mem_cons, mem_insertBy key x y l, List.mem_cons]; tauto

/-- A held message waits among the timers; the rest of the state stays. -/
theorem State.mem_timers_hold (s : State) (i : Instr) : (2 ^ 64, i) ∈ (s.hold i).timers := (mem_insertBy ..).2 (.inl rfl)
theorem State.hold_frame (s : State) (i : Instr) : s.hold i = { s with timers := (s.hold i).timers } := rfl

/-- Letting in empties the routers into the net, and changes nothing where they hold nothing. -/
theorem State.letIn_timers (s : State) : ∀ e ∈ s.letIn.timers, e.1 < 2 ^ 64 := fun _ he => of_decide_eq_true (List.mem_filter.1 he).2
theorem State.mem_net_letIn (s : State) (i : Instr) (h : (2 ^ 64, i) ∈ s.timers) : i ∈ s.letIn.net :=
  List.mem_append_left _ (List.mem_map.2 ⟨_, List.mem_filter.2 ⟨h, by simp [heldTime]⟩, rfl⟩)
theorem State.letIn_none (s : State) (h : ∀ e ∈ s.timers, e.1 < 2 ^ 64) : s.letIn = s := by
  have h1 : s.timers.filter (fun e => heldTime ≤ e.1) = [] := List.filter_eq_nil_iff.2 fun e he => by
    simpa using Nat.lt_of_lt_of_eq (h e he) (Eq.refl heldTime)
  have h2 : s.timers.filter (fun e => e.1 < heldTime) = s.timers := List.filter_eq_self.2 fun e he => decide_eq_true (h e he)
  rw [State.letIn, h1, h2]
  rfl

end Sys2Proof.Machine
end

