-- ==== Sys2Proof/Tests/Slice0.lean ====
section
/-! SUPPORT. The author's tests: the well-formedness checks each refuse a term; a word of every instruction, its fields written out
from the spec, decodes to it; one step of instructions and events with results worked out from the spec; and for each statement states
and operands that meet its hypotheses. -/

set_option Elab.async false

namespace Sys2Proof.Tests

open Sys2Proof Sys2Proof.Machine

/-- A word from its major opcode and its fields, most significant first (07 R157). -/
def tWord (op : Nat) (fields : List (Nat × Nat)) : Nat := fields.foldl (fun w f => w * 2 ^ f.2 + f.1) op
def tReads (l : List (Nat × List (Nat × Nat) × Instr)) : Bool := l.all fun e => decodeTableWord 32 (tWord e.1 e.2.1) == some e.2.2

/-! ### Decoding: a word of every instruction, its fields written out from the tables of 07 R157 to R170 -/

/-- 07 R161, R163, R164. -/
theorem test_words_control : tReads [
  (0x00, [(0, 8), (0, 8), (0, 8)], .nop),
  (0x00, [(0, 8), (0, 8), (1, 8)], .ksync),
  (0x00, [(0, 8), (0, 8), (2, 8)], .idle),
  (0x00, [(0, 8), (0, 8), (3, 8)], .endThread),
  (0x00, [(0, 8), (0, 8), (4, 8)], .ret),
  (0x00, [(0, 8), (0, 8), (0xc, 8)], .fenceb),
  (0x00, [(0, 8), (0, 8), (0xe, 8)], .yield),
  (0x00, [(0, 8), (0x7f, 8), (5, 8)], .jmpr (.g 127)),
  (0x00, [(0, 8), (0x81, 8), (6, 8)], .callr (.h 1)),
  (0x00, [(0, 8), (0x9f, 8), (7, 8)], .forkr (.k 15)),
  (0x00, [(0, 8), (0x85, 8), (8, 8)], .join .la),
  (0x00, [(0, 8), (0xa5, 8), (0xb, 8)], .trap (.q 5)),
  (0x00, [(0, 8), (0xff, 8), (0xd, 8)], .snap .zero),
  (0x00, [(0xa6, 8), (0x7f, 8), (9, 8)], .rdw (.q 6) 127),
  (0x00, [(0x90, 8), (5, 8), (0xa, 8)], .rdwc (.k 0) 5),
  (0x00, [(0, 8), (0x84, 8), (0x13, 8)], .waitx .lc 3),
  (0x01, [(0, 8), (0, 4), (0, 3), (0x1ff, 9)], .br 511),
  (0x01, [(0xa4, 8), (1, 4), (0, 3), (0x101, 9)], .beqz (.q 4) 257),
  (0x01, [(0xa4, 8), (2, 4), (0, 3), (0x102, 9)], .bnez (.q 4) 258),
  (0x01, [(0xa4, 8), (3, 4), (0, 3), (0x103, 9)], .bltz (.q 4) 259),
  (0x01, [(0xa4, 8), (4, 4), (0, 3), (0x104, 9)], .bgez (.q 4) 260),
  (0x01, [(0xa4, 8), (5, 4), (0, 3), (0x105, 9)], .bgtz (.q 4) 261),
  (0x01, [(0xa4, 8), (6, 4), (0, 3), (0x106, 9)], .blez (.q 4) 262),
  (0x01, [(0x7f, 8), (7, 4), (0, 3), (1, 9)], .bfull 127 1),
  (0x01, [(3, 8), (8, 4), (0, 3), (2, 9)], .bempty 3 2),
  (0x02, [(0xf, 4), (0x80001, 20)], .jmp 15 0x80001),
  (0x03, [(0xf, 4), (0x80001, 20)], .call 15 0x80001),
  (0x04, [(0xf, 4), (0x80001, 20)], .fork 15 0x80001),
  (0x05, [(4, 8), (0xa1, 8), (0, 8)], .send (.g 4) (.q 1)),
  (0x05, [(0x85, 8), (0x80, 8), (1, 8)], .sendu .la (.h 0)),
  (0x06, [(0xa3, 8), (0, 4), (0x112, 12)], .csrrd (.q 3) 0x112),
  (0x06, [(0xa7, 8), (1, 4), (4, 12)], .csrwr (.q 7) 4)] = true := by decide

/-- 07 R161, R164 to R166. -/
theorem test_words_memory : tReads [
  (0x07, [(0x83, 8), (0x3f, 6), (3, 2), (0x9f, 8)], .ldN (.h 3) 63 3 (.k 15)),
  (0x08, [(0x83, 8), (0x3f, 6), (0, 2), (0x9f, 8)], .ldS (.h 3) 63 0 (.k 15)),
  (0x09, [(0x83, 8), (0x3f, 6), (1, 2), (0x9f, 8)], .ldeN (.h 3) 63 1 (.k 15)),
  (0x0A, [(0x83, 8), (0x3f, 6), (2, 2), (0x9f, 8)], .ldeS (.h 3) 63 2 (.k 15)),
  (0x0B, [(0x83, 8), (0x3f, 6), (3, 2), (0x9f, 8)], .ldxN (.h 3) 63 3 (.k 15)),
  (0x0C, [(0x83, 8), (0x3f, 6), (0, 2), (0x9f, 8)], .ldxS (.h 3) 63 0 (.k 15)),
  (0x0D, [(0x85, 8), (0x21, 6), (1, 2), (0xff, 8)], .st .la 33 1 .zero),
  (0x0E, [(0x85, 8), (0x21, 6), (2, 2), (0xff, 8)], .ste .la 33 2 .zero),
  (0x0F, [(0x85, 8), (0x21, 6), (3, 2), (0xff, 8)], .stx .la 33 3 .zero),
  (0x10, [(0x7f, 8), (0, 4), (0xf, 4), (0x84, 8)], .aswap (.g 127) 15 .lc),
  (0x10, [(0x7f, 8), (1, 4), (0xe, 4), (0x84, 8)], .aadd (.g 127) 14 .lc),
  (0x10, [(0x7f, 8), (2, 4), (0xd, 4), (0x84, 8)], .aand (.g 127) 13 .lc),
  (0x10, [(0x7f, 8), (3, 4), (0xc, 4), (0x84, 8)], .aor (.g 127) 12 .lc),
  (0x10, [(0x7f, 8), (4, 4), (0xb, 4), (0x84, 8)], .axor (.g 127) 11 .lc),
  (0x10, [(0x7f, 8), (5, 4), (0xa, 4), (0x84, 8)], .aminS64 (.g 127) 10 .lc),
  (0x10, [(0x7f, 8), (6, 4), (9, 4), (0x84, 8)], .amaxS64 (.g 127) 9 .lc),
  (0x10, [(0x7f, 8), (7, 4), (8, 4), (0x84, 8)], .aminN64 (.g 127) 8 .lc),
  (0x10, [(0x7f, 8), (8, 4), (7, 4), (0x84, 8)], .amaxN64 (.g 127) 7 .lc),
  (0x10, [(0x7f, 8), (9, 4), (6, 4), (0x84, 8)], .acas (.g 127) 6 .lc),
  (0x10, [(0x7f, 8), (0xa, 4), (5, 4), (0x84, 8)], .aamaxF32 (.g 127) 5 .lc),
  (0x10, [(0x7f, 8), (0xb, 4), (4, 4), (0x84, 8)], .amaxswapF32 (.g 127) 4 .lc),
  (0x11, [(0x90, 8), (0, 2), (0x3f, 6), (0, 8)], .bfld (.k 0) 63),
  (0x11, [(0, 8), (1, 2), (1, 6), (0, 8)], .bfclr 1),
  (0x12, [(0x9f, 8), (0x7c, 8), (0, 7), (0, 1)], .cpy (.k 15) 124),
  (0x12, [(0xff, 8), (8, 8), (0, 7), (1, 1)], .cpyNb .zero 8),
  (0x13, [(3, 2), (5, 3), (0x1f, 5), (0x3e, 6), (0x81, 8)], .vld 3 5 31 62 (.h 1)),
  (0x14, [(0, 2), (5, 3), (0x1f, 5), (0x3e, 6), (0x81, 8)], .vst 0 5 31 62 (.h 1)),
  (0x15, [(0, 2), (7, 3), (0x1e, 5), (2, 6), (9, 8)], .vldpE2m1 7 30 2 (.g 9)),
  (0x15, [(1, 2), (7, 3), (0x1e, 5), (2, 6), (9, 8)], .vldpE3m2 7 30 2 (.g 9)),
  (0x15, [(2, 2), (7, 3), (0x1e, 5), (2, 6), (9, 8)], .vstpE2m1 7 30 2 (.g 9)),
  (0x15, [(3, 2), (7, 3), (0x1e, 5), (2, 6), (9, 8)], .vstpE3m2 7 30 2 (.g 9)),
  (0x16, [(0, 2), (0, 3), (0x1e, 5), (0x3d, 6), (9, 8)], .qpackE4m3 15 61 (.g 9)),
  (0x16, [(1, 2), (0, 3), (0x1e, 5), (0x3d, 6), (9, 8)], .qpackE3m2 15 61 (.g 9)),
  (0x16, [(2, 2), (0, 3), (0x1e, 5), (0x3d, 6), (9, 8)], .qpackE2m1 15 61 (.g 9)),
  (0x16, [(3, 2), (0, 3), (0x1e, 5), (0x3d, 6), (9, 8)], .qpacki 15 61 (.g 9)),
  (0x17, [(0, 4), (3, 2), (0x1c, 5), (0, 5), (0x85, 8)], .accld 3 7 .la),
  (0x17, [(1, 4), (2, 2), (4, 5), (0, 5), (0x90, 8)], .accst 2 1 (.k 0)),
  (0x17, [(2, 4), (1, 2), (0, 5), (0, 5), (0x7e, 8)], .drain 1 126)] = true := by decide

/-- 07 R162, R167. -/
theorem test_words_scalar : tReads [
  (0x20, [(0xa0, 8), (0xa5, 8), (0x84, 8)], .add (.q 0) (.q 5) .lc),
  (0x21, [(0xa0, 8), (0xa5, 8), (0x84, 8)], .sub (.q 0) (.q 5) .lc),
  (0x22, [(0xa0, 8), (0xa5, 8), (0x84, 8)], .mul (.q 0) (.q 5) .lc),
  (0x23, [(0xa0, 8), (0xa5, 8), (0x84, 8)], .mulhS64 (.q 0) (.q 5) .lc),
  (0x24, [(0xa0, 8), (0xa5, 8), (0x84, 8)], .mulhN64 (.q 0) (.q 5) .lc),
  (0x25, [(0xa0, 8), (0xa5, 8), (0x84, 8)], .and (.q 0) (.q 5) .lc),
  (0x26, [(0xa0, 8), (0xa5, 8), (0x84, 8)], .or (.q 0) (.q 5) .lc),
  (0x27, [(0xa0, 8), (0xa5, 8), (0x84, 8)], .xor (.q 0) (.q 5) .lc),
  (0x28, [(0xa0, 8), (0xa5, 8), (0x84, 8)], .shl (.q 0) (.q 5) .lc),
  (0x29, [(0xa0, 8), (0xa5, 8), (0x84, 8)], .shrN64 (.q 0) (.q 5) .lc),
  (0x2A, [(0xa0, 8), (0xa5, 8), (0x84, 8)], .shrS64 (.q 0) (.q 5) .lc),
  (0x2B, [(0xa0, 8), (0xa5, 8), (0x84, 8)], .sltS64 (.q 0) (.q 5) .lc),
  (0x2C, [(0xa0, 8), (0xa5, 8), (0x84, 8)], .sltN64 (.q 0) (.q 5) .lc),
  (0x2D, [(0xa0, 8), (0xa5, 8), (0x84, 8)], .seq (.q 0) (.q 5) .lc),
  (0x2E, [(4, 8), (0x81, 8), (0x80, 8)], .addi (.g 4) (.h 1) 0x80),
  (0x2F, [(0x83, 8), (0xa4, 8), (0x3f, 8)], .shli (.h 3) (.q 4) 63),
  (0x2F, [(0x83, 8), (0xa4, 8), (0x7e, 8)], .shriN64 (.h 3) (.q 4) 62),
  (0x2F, [(0x83, 8), (0xa4, 8), (0xbd, 8)], .shriS64 (.h 3) (.q 4) 61),
  (0x2F, [(0x83, 8), (0xa4, 8), (0xfc, 8)], .rotri (.h 3) (.q 4) 60),
  (0x30, [(0xa6, 8), (0xfffe, 16)], .li (.q 6) 0xFFFE),
  (0x31, [(0x9f, 8), (0x8001, 16)], .lis (.k 15) 0x8001),
  (0x32, [(0xa3, 8), (0xa1, 8), (0xa7, 8)], .bfx (.q 3) (.q 1) (.q 7)),
  (0x33, [(0x80, 8), (4, 8), (9, 8)], .bfi (.h 0) (.g 4) (.g 9)),
  (0x34, [(0x7f, 8), (0xa4, 8), (0, 8)], .mov (.g 127) (.q 4)),
  (0x34, [(0x7f, 8), (0xa4, 8), (1, 8)], .not (.g 127) (.q 4)),
  (0x34, [(0x7f, 8), (0xa4, 8), (2, 8)], .neg (.g 127) (.q 4)),
  (0x34, [(0x7f, 8), (0xa4, 8), (3, 8)], .absS64 (.g 127) (.q 4)),
  (0x34, [(0x7f, 8), (0xa4, 8), (4, 8)], .popc (.g 127) (.q 4)),
  (0x34, [(0x7f, 8), (0xa4, 8), (5, 8)], .clz (.g 127) (.q 4)),
  (0x34, [(0x7f, 8), (0xa4, 8), (6, 8)], .ctz (.g 127) (.q 4)),
  (0x34, [(0x7f, 8), (0xa4, 8), (7, 8)], .bswap (.g 127) (.q 4)),
  (0x34, [(0x7f, 8), (0xa4, 8), (8, 8)], .brev (.g 127) (.q 4)),
  (0x34, [(0x7f, 8), (0xa4, 8), (9, 8)], .sextS8 (.g 127) (.q 4)),
  (0x34, [(0x7f, 8), (0xa4, 8), (0xa, 8)], .sextS16 (.g 127) (.q 4)),
  (0x34, [(0x7f, 8), (0xa4, 8), (0xb, 8)], .sextS32 (.g 127) (.q 4)),
  (0x34, [(0x7f, 8), (0xa4, 8), (0xc, 8)], .zextN8 (.g 127) (.q 4)),
  (0x34, [(0x7f, 8), (0xa4, 8), (0xd, 8)], .zextN16 (.g 127) (.q 4)),
  (0x34, [(0x7f, 8), (0xa4, 8), (0xe, 8)], .zextN32 (.g 127) (.q 4)),
  (0x34, [(0x83, 8), (0x84, 8), (0x10, 8)], .qmaxx (.h 3) .lc),
  (0x34, [(0x83, 8), (0x84, 8), (0x11, 8)], .qscaleE4m3 (.h 3) .lc),
  (0x34, [(0x83, 8), (0x84, 8), (0x12, 8)], .qscaleE3m2 (.h 3) .lc),
  (0x34, [(0x83, 8), (0x84, 8), (0x13, 8)], .qscaleE2m1 (.h 3) .lc),
  (0x34, [(0x83, 8), (0x84, 8), (0x14, 8)], .qscalei (.h 3) .lc),
  (0x34, [(0x90, 8), (0, 8), (0x1f, 8)], .vlq (.k 0)),
  (0x34, [(0xff, 8), (0, 8), (0x2e, 8)], .vlane .zero .e2m1)] = true := by decide

/-- 07 R162, R168, R169. -/
theorem test_words_vector : tReads [
  (0x35, [(8, 4), (0, 2), (6, 3), (0x1f, 5), (1, 5), (0x10, 5)], .vadd .f32 6 31 1 16),
  (0x35, [(8, 4), (1, 2), (6, 3), (0x1f, 5), (1, 5), (0x10, 5)], .vsub .f32 6 31 1 16),
  (0x35, [(8, 4), (2, 2), (6, 3), (0x1f, 5), (1, 5), (0x10, 5)], .vmul .f32 6 31 1 16),
  (0x35, [(8, 4), (3, 2), (6, 3), (0x1f, 5), (1, 5), (0x10, 5)], .vfma .f32 6 31 1 16),
  (0x36, [(0xa, 4), (0, 2), (6, 3), (0x1f, 5), (1, 5), (0x10, 5)], .vmin .f16 6 31 1 16),
  (0x36, [(0xa, 4), (1, 2), (6, 3), (0x1f, 5), (1, 5), (0x10, 5)], .vmax .f16 6 31 1 16),
  (0x36, [(5, 4), (2, 2), (6, 3), (0x1f, 5), (1, 5), (0x10, 5)], .vaddsat .n16 6 31 1 16),
  (0x36, [(5, 4), (3, 2), (6, 3), (0x1f, 5), (1, 5), (0x10, 5)], .vsubsat .n16 6 31 1 16),
  (0x37, [(7, 4), (0, 2), (6, 3), (0x1f, 5), (1, 5), (0x10, 5)], .vand .n64 6 31 1 16),
  (0x37, [(7, 4), (1, 2), (6, 3), (0x1f, 5), (1, 5), (0x10, 5)], .vor .n64 6 31 1 16),
  (0x37, [(7, 4), (2, 2), (6, 3), (0x1f, 5), (1, 5), (0x10, 5)], .vxor .n64 6 31 1 16),
  (0x37, [(7, 4), (3, 2), (6, 3), (0x1f, 5), (1, 5), (0x10, 5)], .vandn .n64 6 31 1 16),
  (0x38, [(9, 4), (0, 2), (3, 3), (0, 2), (7, 3), (0x1e, 5), (2, 5)], .vceq .bf16 3 7 30 2),
  (0x38, [(9, 4), (1, 2), (3, 3), (0, 2), (7, 3), (0x1e, 5), (2, 5)], .vclt .bf16 3 7 30 2),
  (0x38, [(9, 4), (2, 2), (3, 3), (0, 2), (7, 3), (0x1e, 5), (2, 5)], .vcle .bf16 3 7 30 2),
  (0x38, [(9, 4), (3, 2), (3, 3), (0, 2), (7, 3), (0x1e, 5), (2, 5)], .vcne .bf16 3 7 30 2),
  (0x39, [(0xb, 4), (8, 4), (3, 2), (1, 1), (2, 3), (5, 5), (0x1c, 5)], .vcvt .e4m3 .f32 .rup true 2 5 28),
  (0x39, [(0, 4), (0xe, 4), (1, 2), (0, 1), (0, 3), (1, 5), (2, 5)], .vcvt .s8 .e2m1 .rz false 0 1 2),
  (0x39, [(2, 4), (6, 4), (2, 2), (0, 1), (1, 3), (1, 5), (2, 5)], .vcvt .s32 .n32 .rdn false 1 1 2),
  (0x3A, [(1, 4), (0, 2), (4, 3), (0x11, 5), (0, 2), (0x9f, 8)], .vbcast .s16 4 17 (.k 15)),
  (0x3A, [(1, 4), (1, 2), (4, 3), (0x11, 5), (0, 2), (0x9f, 8)], .vaddx .s16 4 17 (.k 15)),
  (0x3A, [(1, 4), (2, 2), (4, 3), (0x11, 5), (0, 2), (0x9f, 8)], .vmulx .s16 4 17 (.k 15)),
  (0x3A, [(1, 4), (3, 2), (4, 3), (0x11, 5), (0, 2), (0x9f, 8)], .vmaxx .s16 4 17 (.k 15)),
  (0x3B, [(8, 4), (0, 2), (2, 3), (9, 5), (0, 2), (0x83, 8)], .vrsum .f32 2 9 (.h 3)),
  (0x3B, [(8, 4), (1, 2), (2, 3), (9, 5), (0, 2), (0x83, 8)], .vrmax .f32 2 9 (.h 3)),
  (0x3B, [(8, 4), (2, 2), (2, 3), (9, 5), (0, 2), (0x83, 8)], .vrmin .f32 2 9 (.h 3)),
  (0x3B, [(8, 4), (3, 2), (2, 3), (9, 5), (0, 2), (0x83, 8)], .vramax .f32 2 9 (.h 3)),
  (0x3C, [(0xd, 4), (0, 2), (1, 3), (8, 5), (4, 5), (3, 2), (0, 3)], .vcompress .e3m2 1 8 4 3),
  (0x3C, [(0xd, 4), (1, 2), (1, 3), (8, 5), (4, 5), (3, 2), (0, 3)], .vexpand .e3m2 1 8 4 3),
  (0x3C, [(0xc, 4), (2, 2), (1, 3), (8, 5), (4, 5), (0, 2), (7, 3)], .vrowmv .e5m2 1 8 4 7),
  (0x3C, [(3, 4), (3, 2), (5, 3), (8, 5), (4, 5), (0, 5)], .vsel .s64 5 8 4),
  (0x3D, [(0, 6), (7, 3), (2, 3), (5, 3), (0, 1), (0, 8)], .mand 7 2 5),
  (0x3D, [(1, 6), (7, 3), (2, 3), (5, 3), (0, 1), (0, 8)], .mor 7 2 5),
  (0x3D, [(2, 6), (7, 3), (2, 3), (5, 3), (0, 1), (0, 8)], .mxor 7 2 5),
  (0x3D, [(3, 6), (7, 3), (2, 3), (5, 3), (0, 1), (0, 8)], .mandn 7 2 5),
  (0x3D, [(4, 6), (1, 3), (6, 3), (0, 3), (0, 1), (0, 8)], .mnot 1 6),
  (0x3D, [(5, 6), (1, 3), (6, 3), (0, 3), (0, 1), (0, 8)], .mmov 1 6),
  (0x3D, [(6, 6), (0, 3), (3, 3), (0, 3), (0, 1), (9, 8)], .mpop 3 (.g 9)),
  (0x3D, [(8, 6), (0, 3), (3, 3), (0, 3), (0, 1), (9, 8)], .mtolo 3 (.g 9)),
  (0x3D, [(9, 6), (0, 3), (3, 3), (0, 3), (0, 1), (9, 8)], .mtohi 3 (.g 9)),
  (0x3D, [(7, 6), (4, 3), (0, 3), (0, 3), (0, 1), (0x85, 8)], .mfrom 4 .la),
  (0x3E, [(7, 3), (0xe, 4), (0, 1), (4, 8), (0x90, 8)], .bound 7 .e2m1 (.g 4) (.k 0))] = true := by decide

/-- 07 R170. -/
theorem test_words_permutation : tReads [
  (0x3F, [(0, 4), (7, 3), (0, 3), (0, 3), (0, 3), (9, 8)], .pload 7 (.g 9)),
  (0x3F, [(1, 4), (1, 3), (2, 3), (3, 3), (0, 3), (0, 8)], .pcomp 1 2 3),
  (0x3F, [(2, 4), (6, 3), (5, 3), (0, 3), (0, 3), (0, 8)], .pinv 6 5),
  (0x3F, [(3, 4), (4, 3), (0, 3), (0, 3), (0, 3), (0x7e, 8)], .prand 4 126),
  (0x3F, [(4, 4), (3, 3), (2, 3), (0, 3), (0, 3), (0x9f, 8)], .pcompact 3 2 (.k 15)),
  (0x3F, [(5, 4), (0, 3), (7, 3), (0, 3), (0, 3), (0x81, 8)], .pcyc 7 .cycles (.h 1)),
  (0x3F, [(5, 4), (0, 3), (7, 3), (1, 3), (0, 3), (0x81, 8)], .pcyc 7 .fixed (.h 1)),
  (0x3F, [(5, 4), (0, 3), (7, 3), (2, 3), (0, 3), (0x81, 8)], .pcyc 7 .longest (.h 1)),
  (0x3F, [(5, 4), (0, 3), (7, 3), (3, 3), (0, 3), (0x81, 8)], .pcyc 7 .order (.h 1)),
  (0x3F, [(5, 4), (0, 3), (7, 3), (4, 3), (0, 3), (0x81, 8)], .pcyc 7 .through (.h 1)),
  (0x3F, [(6, 4), (0, 3), (1, 3), (0, 3), (0, 3), (0xff, 8)], .pstore 1 .zero),
  (0x3F, [(7, 4), (0, 3), (6, 3), (0, 3), (0, 3), (0x90, 8)], .pidx 6 (.k 0))] = true := by decide

/-! ### Well-formedness: each check refuses a term -/

theorem test_ill_formed : ([
    -- a source that is not poppable; lc, la and a pop-only queue as destinations (03 R56, R65)
    .jmpr (.q 2), .rdw .lc 0, .rdwc .la 0, .beqz (.q 0) 0, .send (.g 0) (.q 3), .add (.q 1) (.g 0) (.g 0), .addi .lc (.g 0) 0, .li (.q 2) 0,
    .lis (.q 0) 0, .bfi (.q 6) (.g 0) (.g 0), .mov .la (.g 0), .mpop 1 (.q 4), .vlq .lc, .vlane (.q 5) .s8, .qmaxx (.g 0) (.q 1),
    -- a status register that R75 does not list
    .csrrd (.g 0) 0x9, .csrwr (.g 0) 0x108,
    -- operands of loads, stores, atomics, copies (09 R210, R215, R218)
    .ldN (.k 0) 0 0 (.g 0), .ldS (.g 0) 0 0 (.q 1), .st (.q 5) 0 0 (.g 0), .aadd .zero 0 (.g 0), .acas (.k 1) 0 (.g 0), .bfld (.q 4) 1, .cpy (.q 0) 0,
    .cpyNb (.g 0) 125, .vld 0 0 0 0 (.q 7), .vstpE2m1 0 0 0 (.q 1), .qpacki 0 0 (.q 4), .accld 0 0 (.q 1), .drain 0 127,
    -- type ranges, m0 as a destination, groups (07 R158, R168)
    .vadd .e4m3 0 0 0 0, .vmin .e2m1 0 0 0 0, .vaddsat .f32 0 0 0 0, .vand .f16 0 0 0 0, .vceq .s8 0 0 0 0, .vclt .e5m2 0 1 0 0, .vbcast .e3m2 0 0 (.g 0),
    .vrsum .s8 0 0 (.k 0), .vramax .s32 0 0 (.g 0), .vcvt .s32 .s8 .rne false 0 2 0, .vcvt .s8 .s64 .rne false 0 0 4, .mand 0 1 1, .mfrom 0 (.g 0),
    .bound 0 .s8 (.g 0) (.g 0), .pload 0 .lc, .prand 0 127, .pidx 0 (.q 7)] : List Instr).all (fun i => !wellFormed i) = true := by decide

/-- Words with a reserved field that is not zero, or an unassigned code, decode to nothing. -/
theorem test_words_refused : ([
    tWord 0x18 [(0, 24)], tWord 0x1F [(0, 24)], tWord 0 [(0, 8), (0, 8), (0x0F, 8)], tWord 0 [(0, 8), (0, 8), (0x14, 8)], tWord 0 [(1, 8), (0, 8), (0, 8)],
    tWord 0 [(0, 8), (0x80, 8), (9, 8)], tWord 1 [(0, 8), (9, 4), (0, 3), (0, 9)], tWord 1 [(0, 8), (1, 4), (1, 3), (0, 9)], tWord 1 [(1, 8), (0, 4), (0, 3), (0, 9)],
    tWord 1 [(0x80, 8), (7, 4), (0, 3), (0, 9)], tWord 5 [(0, 8), (0, 8), (2, 8)], tWord 6 [(0, 8), (2, 4), (0, 12)],
    tWord 0x10 [(0, 8), (12, 4), (0, 4), (0, 8)], tWord 0x11 [(0, 8), (2, 2), (0, 6), (0, 8)], tWord 0x11 [(1, 8), (1, 2), (0, 6), (0, 8)],
    tWord 0x12 [(0, 8), (0, 8), (1, 7), (0, 1)], tWord 0x16 [(0, 2), (1, 3), (0, 5), (0, 6), (0, 8)],
    tWord 0x16 [(0, 2), (0, 3), (1, 5), (0, 6), (0, 8)], tWord 0x17 [(3, 4), (0, 2), (0, 5), (0, 5), (0, 8)], tWord 0x17 [(0, 4), (0, 2), (2, 5), (0, 5), (0, 8)],
    tWord 0x20 [(0x86, 8), (0, 8), (0, 8)], tWord 0x20 [(0, 8), (0xA8, 8), (0, 8)], tWord 0x34 [(0, 8), (0, 8), (0x0F, 8)], tWord 0x34 [(0, 8), (0, 8), (0x2F, 8)],
    tWord 0x34 [(0, 8), (1, 8), (0x1F, 8)],
    tWord 0x38 [(0, 4), (0, 2), (0, 3), (1, 2), (1, 3), (0, 5), (0, 5)], tWord 0x39 [(15, 4), (0, 4), (0, 2), (0, 1), (0, 3), (0, 5), (0, 5)],
    tWord 0x3A [(0, 4), (0, 2), (0, 3), (0, 5), (1, 2), (0, 8)], tWord 0x3C [(0, 4), (0, 2), (0, 3), (0, 5), (0, 5), (0, 2), (1, 3)],
    tWord 0x3C [(0, 4), (3, 2), (0, 3), (0, 5), (0, 5), (1, 5)], tWord 0x3D [(10, 6), (1, 3), (0, 3), (0, 3), (0, 1), (0, 8)],
    tWord 0x3D [(4, 6), (1, 3), (0, 3), (1, 3), (0, 1), (0, 8)], tWord 0x3F [(8, 4), (0, 3), (0, 3), (0, 3), (0, 3), (0, 8)],
    tWord 0x3F [(5, 4), (0, 3), (0, 3), (5, 3), (0, 3), (0, 8)]] : List Nat).all (fun w => (decodeTableWord 32 w).isNone) = true := by decide

/-! ### Small states -/

/-- A thread of ASID 1 in block 1 with 16 main and 8 vector registers; core 0 with that thread in slot 0 and main registers given; the
package with that core and the thread's issue in progress. -/
def tCtx : Ctx := { status := .ready, pc := { blk := 1, off := 2 }, asid := 1, cls := 1, pt := 5, win := { mainCode := 1, vecCode := 2 } }
def tCore (regs : List (Nat × Word)) : Core := { file := regs, ctxs := [(0, tCtx)], csr := { shasid := 1 } }
def tPkg (k : Core) : State := { cores := [(0, k)], jobs := [{ num := 1, asids := [1] }] }
def tState (regs : List (Nat × Word)) : State := tPkg (tCore regs)
/-- The outcome is a next state with a property. -/
def tRun (o : Host.Outcome State Fault Refusal) (f : State → Bool) : Bool := match o with | .next t => f t | _ => false
def tReg (n : Nat) (t : State) : Word := Tab.getD (t.core 0).file n 0
/-- The hypotheses of an issue at which the sources read as `vals` and nothing else changes, evaluated. -/
def tIssues (s : State) (i : Instr) (vals : List Word) : Bool :=
  s.me.status == .ready && s.me.phase != 3 && (earlyFault s s.iss.core s.iss.slot i s.iss.word).isNone && s.me.pair.isNone &&
    match s.readOps s.iss.core s.iss.slot 0 (sources i) with | .ok (v, t) => v == vals && t == s | _ => false
theorem tIssues_spec {s : State} {i : Instr} {vals : List Word} (h : tIssues s i vals = true) : Issues s i vals s := by
  unfold tIssues at h
  split at h
  · rename_i v t hr
    simp only [Bool.and_eq_true, beq_iff_eq, Option.isNone_iff_eq_none] at h
    obtain ⟨⟨⟨⟨h1, h0⟩, h2⟩, h3⟩, h4, h5⟩ := h
    subst h4 h5
    exact ⟨h1, by simpa using h0, h2, hr, h3⟩
  · simp at h
/-- The results of instructions that write g2, from the values of g0 and g1. -/
def tGives (a b : Word) (l : List (Instr × Word)) : Bool :=
  l.all fun e => tRun (exec e.1 (tState [(0, a), (1, b)])) fun t => tReg 2 t == e.2 && t.me.pc == { blk := 1, off := 2, word := 1 }

/-! ### Scalar arithmetic: results worked out from 09 R204 to R208 -/

theorem test_two_operands : tGives 7 0xFFFFFFFFFFFFFFFE [(.add (.g 2) (.g 0) (.g 1), 5), (.sub (.g 2) (.g 0) (.g 1), 9), (.mul (.g 2) (.g 0) (.g 1), 0xFFFFFFFFFFFFFFF2),
    (.mulhS64 (.g 2) (.g 0) (.g 1), 0xFFFFFFFFFFFFFFFF), (.mulhN64 (.g 2) (.g 0) (.g 1), 6), (.and (.g 2) (.g 0) (.g 1), 6), (.or (.g 2) (.g 0) (.g 1), 0xFFFFFFFFFFFFFFFF),
    (.xor (.g 2) (.g 0) (.g 1), 0xFFFFFFFFFFFFFFF9), (.shl (.g 2) (.g 0) (.g 1), 0xC000000000000000), (.shrN64 (.g 2) (.g 1) (.g 0), 0x01FFFFFFFFFFFFFF),
    (.shrS64 (.g 2) (.g 1) (.g 0), 0xFFFFFFFFFFFFFFFF), (.sltS64 (.g 2) (.g 1) (.g 0), 1), (.sltN64 (.g 2) (.g 1) (.g 0), 0), (.seq (.g 2) (.g 1) (.g 1), 1)] = true := by decide
theorem test_immediates : tGives 0x8000000000000001 0 [(.addi (.g 2) (.g 0) 0xFF, 0x8000000000000000), (.shli (.g 2) (.g 0) 63, 0x8000000000000000), (.shriN64 (.g 2) (.g 0) 63, 1),
    (.shriS64 (.g 2) (.g 0) 63, 0xFFFFFFFFFFFFFFFF), (.rotri (.g 2) (.g 0) 1, 0xC000000000000000), (.rotri (.g 2) (.g 0) 0, 0x8000000000000001), (.li (.g 2) 0x8000, 0xFFFFFFFFFFFF8000)] = true := by decide
/-- LIS and BFI read their destination: g2 is 0x1234 here (09 R206, R207). -/
theorem test_read_destination : (tRun (exec (.lis (.g 2) 0x5678) (tState [(2, 0x1234)])) fun t => tReg 2 t == 0x12345678) = true ∧
    (tRun (exec (.bfi (.g 2) (.g 0) (.g 1)) (tState [(0, 0xF), (1, 0xC4), (2, 0x1234)])) fun t => tReg 2 t == 0x12F4) = true := by decide
/-- A field of 8 bits at 60 is cut at bit 63 (09 R207). -/
theorem test_bit_fields : tGives 0xA000000000000080 0x11C7 [(.bfx (.g 2) (.g 0) (.g 1), 1)] = true ∧
    tGives 0xA000000000000080 0x11FC [(.bfx (.g 2) (.g 0) (.g 1), 0xFFFFFFFFFFFFFFFA)] = true := by decide
theorem test_one_operand : tGives 0x8000000000000180 0 [(.mov (.g 2) (.g 0), 0x8000000000000180), (.not (.g 2) (.g 0), 0x7FFFFFFFFFFFFE7F), (.neg (.g 2) (.g 0), 0x7FFFFFFFFFFFFE80),
    (.absS64 (.g 2) (.g 0), 0x7FFFFFFFFFFFFE80), (.popc (.g 2) (.g 0), 3), (.clz (.g 2) (.g 0), 0), (.ctz (.g 2) (.g 0), 7), (.bswap (.g 2) (.g 0), 0x8001000000000080),
    (.brev (.g 2) (.g 0), 0x0180000000000001), (.sextS8 (.g 2) (.g 0), 0xFFFFFFFFFFFFFF80), (.sextS16 (.g 2) (.g 0), 0x180), (.sextS32 (.g 2) (.g 0), 0x180),
    (.zextN8 (.g 2) (.g 0), 0x80), (.zextN16 (.g 2) (.g 0), 0x180), (.zextN32 (.g 2) (.g 0), 0x180), (.clz (.g 2) .zero, 64), (.ctz (.g 2) .zero, 64)] = true := by decide
theorem meets_ScalarResults : Issues (tState [(0, 7)]) (.add (.g 2) (.g 0) .zero) [7, 0] (tState [(0, 7)]) ∧ (∀ n, Operand.g 2 ≠ .q n) ∧
    Issues (tState []) (.addi .zero (.h 3) 0x80) [0] (tState []) ∧ Issues (tState [(2, 1)]) (.lis (.g 2) 5) [1] (tState [(2, 1)]) :=
  ⟨tIssues_spec (by decide), by decide, tIssues_spec (by decide), tIssues_spec (by decide)⟩
theorem meets_FieldResults : Issues (tState [(0, 7), (2, 3)]) (.bfi (.g 2) (.g 0) (.g 15)) [7, 0, 3] (tState [(0, 7), (2, 3)]) ∧
    Issues (tState []) (.brev (.k 15) .lc) [0] (tState []) ∧ (∀ n, Operand.k 15 ≠ .q n) := ⟨tIssues_spec (by decide), tIssues_spec (by decide), by decide⟩

/-! ### Vectors and masks (10): results worked out from R230 to R246 -/

/-- A state with v0 to v2, masks m1 and m2, and main registers; elements of a width, the first ones given. -/
def tElems (bits : Nat) (l : List Nat) : Vec := BitVec.ofNat 1024 (l.foldr (fun e v => e + v * 2 ^ bits) 0)
def tVecs (bits : Nat) (a b d : List Nat) (regs : List (Nat × Word)) : State :=
  tPkg { tCore regs with
    vfile := [(0, tElems bits a), (1, tElems bits b), (2, tElems bits d)], ctxs := [(0, { tCtx with masks := [(1, 0xC), (2, 0xA)] })],
    regs := { w := [(3, { idx := [1, 0], n := 2, valid := true })] } }
def tLane (bits n k : Nat) (t : State) : Nat := (Tab.getD (t.core 0).vfile n 0).toNat / 2 ^ (bits * k) % 2 ^ bits
def tMask (n : Nat) (t : State) : Nat := (Tab.getD (t.ctx 0 0).masks n 0).toNat
/-- Instructions that write v2, with its first two elements after. -/
def tLanes (bits : Nat) (s : State) (l : List (Instr × Nat × Nat)) : Bool :=
  l.all fun e => tRun (exec e.1 s) fun t => tLane bits 2 0 t == e.2.1 && tLane bits 2 1 t == e.2.2
/-- Instructions that write m3. -/
def tMasks (s : State) (l : List (Instr × Nat)) : Bool := l.all fun e => tRun (exec e.1 s) fun t => tMask 3 t == e.2
/-- 1.0 and -2.0; 2.0 and 3.0; 1.0 and 1.0. -/
def tFloats : State := tVecs 32 [0x3F800000, 0xC0000000] [0x40000000, 0x40400000] [0x3F800000, 0x3F800000] [(0, 0x40000000), (1, 5), (2, 64)]
def tBytes : State := tVecs 8 [0x7F, 0x80] [0x01, 0xFF] [2, 3] [(0, 0xFFFFFFFFFFFFFFFF), (1, 5)]

theorem test_lanes_f32 : tLanes 32 tFloats [(.vadd .f32 0 2 0 1, 0x40400000, 0x3F800000), (.vsub .f32 0 2 0 1, 0xBF800000, 0xC0A00000), (.vmul .f32 0 2 0 1, 0x40000000, 0xC0C00000),
    (.vfma .f32 0 2 0 1, 0x40400000, 0xC0A00000), (.vmin .f32 0 2 0 1, 0x3F800000, 0xC0000000), (.vmax .f32 0 2 0 1, 0x40000000, 0x40400000), (.vsel .f32 0 2 0, 0x3F800000, 0xC0000000),
    (.vbcast .f32 0 2 (.g 0), 0x40000000, 0x40000000), (.vaddx .f32 0 2 (.g 0), 0x40400000, 0x40400000), (.vmulx .f32 0 2 (.g 0), 0x40000000, 0x40000000),
    (.vmaxx .f32 0 2 (.g 0), 0x40000000, 0x40000000), (.vadd .f32 1 2 0 1, 0x3F800000, 0x3F800000), (.vcvt .s32 .f32 .rne false 0 2 0, 1, 0xFFFFFFFE),
    (.vrowmv .f32 0 2 0 3, 0xC0000000, 0x3F800000)] = true := by decide +kernel
theorem test_lanes_s8 : tLanes 8 tBytes [(.vadd .s8 0 2 0 1, 0x80, 0x7F), (.vaddsat .s8 0 2 0 1, 0x7F, 0x80), (.vsubsat .s8 0 2 0 1, 0x7E, 0x81), (.vand .s8 0 2 0 1, 1, 0x80),
    (.vor .s8 0 2 0 1, 0x7F, 0xFF), (.vxor .s8 0 2 0 1, 0x7E, 0x7F), (.vandn .s8 0 2 0 1, 0x7E, 0), (.vmax .n8 0 2 0 1, 0x7F, 0xFF), (.vmulx .s8 0 2 (.g 0), 0xFE, 0xFD)] = true := by decide +kernel
theorem test_compares : tMasks tFloats [(.vceq .f32 0 3 0 1, 0xFFFFFFFC), (.vclt .f32 0 3 0 1, 3), (.vcle .f32 0 3 0 1, 0xFFFFFFFF), (.vcne .f32 0 3 0 1, 3), (.vcle .f32 1 3 0 1, 0xC)] = true := by decide +kernel
theorem test_masks : tMasks tFloats [(.mand 3 1 2, 8), (.mor 3 1 2, 0xE), (.mxor 3 1 2, 6), (.mandn 3 1 2, 4), (.mnot 3 1, 2 ^ 128 - 13), (.mmov 3 2, 0xA), (.mfrom 3 (.g 1), 5),
    (.bound 3 .f32 (.g 1) (.g 2), 2 ^ 32 - 1), (.bound 3 .s64 .zero (.g 1), 0x1F)] = true := by decide +kernel
theorem test_mask_words : (tRun (exec (.mpop 1 (.g 2)) tFloats) fun t => tReg 2 t == 2) ∧ (tRun (exec (.mtolo 0 (.g 2)) tFloats) fun t => tReg 2 t == 2 ^ 64 - 1) ∧
    (tRun (exec (.mtohi 1 (.g 2)) tFloats) fun t => tReg 2 t == 0) := by decide +kernel
/-- Reductions of 1.0 and -2.0 among zeros, with an initial value of 2.0 in g0; the sum of bytes 127 and -128. -/
theorem test_reductions : ([(.vrsum .f32 0 0 (.g 0), 0x3F800000), (.vrmax .f32 0 0 (.g 0), 0x40000000), (.vrmin .f32 0 0 (.g 0), 0xC0000000), (.vramax .f32 0 0 (.g 0), 0x40000000)] : List (Instr × Word)).all
    (fun e => tRun (exec e.1 tFloats) fun t => tReg 0 t == e.2) = true ∧
    (tRun (exec (.vrsum .s8 0 0 (.g 1)) tBytes) fun t => tReg 1 t == 4) = true := by decide +kernel
/-- m2 is elements 1 and 3: both forms count two. -/
theorem test_compress_expand : (tRun (exec (.vcompress .f32 2 2 0 3) tFloats) fun t => tLane 32 2 0 t == 0xC0000000 && tLane 32 2 1 t == 0 && Tab.getD (t.ctx 0 0).h 3 0 == 2) = true ∧
    (tRun (exec (.vexpand .f32 2 2 0 3) tFloats) fun t => tLane 32 2 1 t == 0x3F800000 && tLane 32 2 0 t == 0x3F800000 && Tab.getD (t.ctx 0 0).h 3 0 == 2) = true ∧
    (tRun (exec (.vcompress .f32 4 2 0 3) tFloats) fun t => t.me.tstat == 0x100) = true := by decide +kernel
/-- 448 is E4M3's greatest value: scale 2^0, code 127; zero and infinity have codes of their own; 2^-149 needs the least scale (10 R246). -/
theorem test_qscale : ([(0x43E00000, 0x17F), (0x43E00001, 0x180), (0x80000000, 0x300), (0x7F800000, 0x5FF), (1, 0x100)] : List (Word × Word)).all
    (fun e => tRun (exec (.qscaleE4m3 (.g 2) (.g 0)) (tState [(0, e.1)])) fun t => tReg 2 t == e.2) = true ∧
    ([(.qscaleE3m2 (.g 2) (.g 0), 0x183), (.qscaleE2m1 (.g 2) (.g 0), 0x186), (.qscalei (.g 2) (.g 0), 0x185), (.vlq (.g 2), 1024), (.vlane (.g 2) .n16, 64)] : List (Instr × Word)).all
      (fun e => tRun (exec e.1 (tState [(0, 0x43E00000)])) fun t => tReg 2 t == e.2) = true := by decide +kernel

theorem tPlain {s : State} (h : ((s.view s.iss.core).ctx s.iss.slot).out = []) : s.VecsPlain := by
  intro n; simp [Ctx.pendFor, h]
theorem meets_ConversionLanes : Issues tFloats (.qscalei (.g 2) (.g 0)) [0x40000000] tFloats ∧ Issues tFloats (.vlane .zero .e2m1) [] tFloats ∧
    Issues tFloats (.vcvt .s64 .f32 .rup true 1 2 0) [] tFloats ∧ tFloats.VecsPlain :=
  ⟨tIssues_spec (by decide +kernel), tIssues_spec (by decide +kernel), tIssues_spec (by decide +kernel), tPlain (by decide +kernel)⟩
theorem meets_LaneArithmetic : Issues tBytes (.vfma .s8 7 2 0 1) [] tBytes ∧ Issues tFloats (.vmaxx .f32 1 2 .lc) [0] tFloats ∧ tBytes.VecsPlain ∧ tFloats.VecsPlain :=
  ⟨tIssues_spec (by decide +kernel), tIssues_spec (by decide +kernel), tPlain (by decide +kernel), tPlain (by decide +kernel)⟩
theorem meets_MaskResults : Issues tFloats (.vcle .f32 1 7 0 1) [] tFloats ∧ Issues tFloats (.bound 1 .f32 (.g 0) (.g 1)) [0x40000000, 5] tFloats ∧
    Issues tFloats (.mpop 7 (.k 15)) [] tFloats ∧ tFloats.VecsPlain := ⟨tIssues_spec (by decide +kernel), tIssues_spec (by decide +kernel), tIssues_spec (by decide +kernel), tPlain (by decide +kernel)⟩
/-- For VROWMV: a valid register, a loading one, and one that is not valid. -/
theorem meets_MovesAndReductions : Issues tFloats (.vramax .f32 2 0 (.g 0)) [0x40000000] tFloats ∧ Issues tFloats (.vrmin .f32 3 0 .zero) [0] tFloats ∧
    Issues tFloats (.vcompress .f32 3 2 0 3) [] tFloats ∧ Issues tFloats (.vexpand .f32 0 2 0 0) [] tFloats ∧ Issues tFloats (.vrowmv .f32 1 2 0 3) [] tFloats ∧ tFloats.VecsPlain ∧
    (let r := Tab.getD (tFloats.core 0).regs.w 3 {}; r.loading = false ∧ r.valid ∧ (r.idx.take r.n).length ≤ 1024 / Ty.f32.bits) ∧
    Issues tFloats (.vrowmv .f32 1 2 0 4) [] tFloats ∧ (Tab.getD (tFloats.core 0).regs.w 4 {}).valid = false :=
  ⟨tIssues_spec (by decide +kernel), tIssues_spec (by decide +kernel), tIssues_spec (by decide +kernel), tIssues_spec (by decide +kernel), tIssues_spec (by decide +kernel), tPlain (by decide +kernel), by decide +kernel,
    tIssues_spec (by decide +kernel), by decide +kernel⟩

/-! ### Control (08): for each clause of a statement a state that meets its hypotheses, and what the instruction then does -/

/-- States, instructions, the values of their sources, and a property of the state: the issue's hypotheses and the property hold. -/
abbrev tWitness := State × Instr × List Word × (State → Bool)
def tAll (l : List tWitness) : Bool := l.all fun w => tIssues w.1 w.2.1 w.2.2.1 && w.2.2.2 w.1
theorem tAll_spec {l : List tWitness} (h : tAll l = true) : ∀ w ∈ l, Issues w.1 w.2.1 w.2.2.1 w.1 ∧ w.2.2.2 w.1 = true := by
  intro w hw
  have := List.all_eq_true.mp h w hw
  simp only [Bool.and_eq_true] at this
  exact ⟨tIssues_spec this.1, this.2⟩

/-- How the word ended: a fault by its code, a wait, the thread's place. -/
def tFault (i : Instr) (s : State) (code : Nat) : Bool := tRun (exec i s) fun t => (t.ctx 0 0).status == .frozen && (t.ctx 0 0).fcode % 256 == code
def tParks (i : Instr) (s : State) (w : Wait) : Bool := tRun (exec i s) fun t => (t.ctx 0 0).status == .parked w && (t.ctx 0 0).pc == s.me.pc
def tGoes (i : Instr) (s : State) (blk off word : Nat) : Bool :=
  tRun (exec i s) fun t => (t.ctx 0 0).status == .ready && (t.ctx 0 0).pc == { blk := blk, off := off, word := word }

/-- Blocks 1 (4 bundles, entries at 0 and 3) and 2 stand on the core, 3 on another; the core knows the entries of 2 and 3. -/
def tBlocks (regs : List (Nat × Word)) : State := tPkg { tCore regs with
  work := { placed := [{ asid := 1, blk := 1, count := 4, mainCode := 1, vecCode := 2, descs := [0, 3] },
                       { asid := 1, blk := 2, addr := 32, count := 2, mainCode := 1, vecCode := 2, descs := [1] }],
            map := [{ asid := 1, blk := 2, descs := [1], nholders := 1, holders := [0] }, { asid := 1, blk := 3, descs := [2], nholders := 1, holders := [8] }] } }
def tIn (s : State) (f : Ctx → Ctx) : State := s.modCtx 0 0 f
/-- With 8 results outstanding. -/
def tFull (s : State) : State := tIn s fun x => { x with out := (List.range 8).map fun n => { seq := n + 1, left := 1 } }
/-- With one result that has not returned. -/
def tOut (s : State) : State := tIn s fun x => { x with out := [{ seq := 1, left := 1 }] }

/-- Untaken; taken to the last bundle; taken past it. -/
theorem meets_BranchesTaken : ∀ w ∈ ([
    (tBlocks [(0, 1)], .beqz (.g 0) 3, [1], fun s => tGoes (.beqz (.g 0) 3) s 1 2 1), (tBlocks [], .beqz (.g 0) 3, [0], fun s => tGoes (.beqz (.g 0) 3) s 1 3 0),
    (tBlocks [], .beqz (.g 0) 4, [0], fun s => tFault (.beqz (.g 0) 4) s 5), (tBlocks [], .br 3, [], fun s => tGoes (.br 3) s 1 3 0),
    (tBlocks [(0, 1)], .bnez (.g 0) 0, [1], fun s => tGoes (.bnez (.g 0) 0) s 1 0 0),
    (tBlocks [(0, 2 ^ 63)], .bltz (.g 0) 0, [2 ^ 63], fun s => tGoes (.bltz (.g 0) 0) s 1 0 0), (tBlocks [], .bltz (.g 0) 0, [0], fun s => tGoes (.bltz (.g 0) 0) s 1 2 1),
    (tBlocks [], .bgez (.g 0) 0, [0], fun s => tGoes (.bgez (.g 0) 0) s 1 0 0), (tBlocks [], .bgtz (.g 0) 0, [0], fun s => tGoes (.bgtz (.g 0) 0) s 1 2 1),
    (tBlocks [(0, 2 ^ 63 - 1)], .bgtz (.g 0) 0, [2 ^ 63 - 1], fun s => tGoes (.bgtz (.g 0) 0) s 1 0 0), (tBlocks [], .blez (.g 0) 0, [0], fun s => tGoes (.blez (.g 0) 0) s 1 0 0),
    (tBlocks [], .bfull 15 0, [], fun s => tGoes (.bfull 15 0) s 1 0 0), (tBlocks [], .bempty 15 0, [], fun s => tGoes (.bempty 15 0) s 1 2 1)] : List tWitness),
    Issues w.1 w.2.1 w.2.2.1 w.1 ∧ w.2.2.2 w.1 = true := tAll_spec (by decide +kernel)

/-- An address at 2^33 and in block 0; the last bundle of the block and past it; a call in the last bundle; another block's entry, a bundle that is no entry;
a block held elsewhere, an unknown one; the J forms with entry indices at and above the count, and a block 0. -/
theorem meets_TransfersGo : ∀ w ∈ ([
    (tBlocks [(0, 2 ^ 33)], .jmpr (.g 0), [2 ^ 33], fun s => tFault (.jmpr (.g 0)) s 5), (tBlocks [(0, 511)], .callr (.g 0), [511], fun s => tFault (.callr (.g 0)) s 5),
    (tBlocks [(0, 515)], .callr (.g 0), [515], fun s => tGoes (.callr (.g 0)) s 1 3 0 && tRun (exec (.callr (.g 0)) s) fun t => t.me.link == 515),
    (tIn (tBlocks [(0, 515)]) fun x => { x with pc := { blk := 1, off := 3 } }, .callr (.g 0), [515], fun s => tFault (.callr (.g 0)) s 5),
    (tBlocks [(0, 516)], .jmpr (.g 0), [516], fun s => tFault (.jmpr (.g 0)) s 5), (tBlocks [(0, 1025)], .jmpr (.g 0), [1025], fun s => tGoes (.jmpr (.g 0)) s 2 1 0),
    (tBlocks [(0, 1024)], .jmpr (.g 0), [1024], fun s => tFault (.jmpr (.g 0)) s 5), (tBlocks [(0, 2 ^ 33 - 1)], .jmpr (.g 0), [2 ^ 33 - 1], fun s => tParks (.jmpr (.g 0)) s (.blockMap 0xFFFFFF)),
    (tBlocks [(0, 1538)], .callr (.g 0), [1538], fun s => tParks (.callr (.g 0)) s (.depart 1538 1 none)),
    (tIn (tBlocks []) fun x => { x with link := 1025 }, .ret, [], fun s => tGoes .ret s 2 1 0),
    (tBlocks [], .jmp 1 0, [], fun s => tGoes (.jmp 1 0) s 1 3 0), (tBlocks [], .call 0 1, [], fun s => tGoes (.call 0 1) s 2 1 0), (tBlocks [], .jmp 0 2, [], fun s => tParks (.jmp 0 2) s (.depart 1538 0 none)),
    (tBlocks [], .jmp 2 0, [], fun s => tFault (.jmp 2 0) s 5), (tBlocks [], .call 1 1, [], fun s => tFault (.call 1 1) s 5), (tBlocks [], .fork 0 0xFFFFF, [], fun s => tFault (.fork 0 0xFFFFF) s 5),
    (tIn (tBlocks []) fun x => { x with pc := { blk := 0xFFFFFF } }, .jmp 0 1, [], fun s => tFault (.jmp 0 1) s 5)] : List tWitness),
    Issues w.1 w.2.1 w.2.2.1 w.1 ∧ w.2.2.2 w.1 = true := tAll_spec (by decide +kernel)

/-- RDW of an empty and of a full register; JOIN: woken, an address at 2^48, a misaligned one, no translation, a counter in DRAM. -/
def tEmpty (n : Nat) (s : State) : State := s.modCore 0 fun k => { k with empty := [n] }
/-- Virtual pages 0 and 1 of ASID 1 are mapped, readable and writable, to physical 65536 and, read only, 131072. -/
def tMapped (s : State) : State :=
  s.modCore 0 fun k => { k with tlb := [{ asid := 1, vpn := 0, pte := 2 ^ 61 + 65536 + 7 }, { asid := 1, vpn := 1, pte := 2 ^ 61 + 131072 + 5 }] }
theorem meets_WaitingReads : (∀ w ∈ ([
    (tEmpty 3 (tState []), .rdw (.g 2) 3, [], fun s => tParks (.rdw (.g 2) 3) s (.full 3)),
    (tState [(3, 7)], .rdwc (.g 2) 3, [], fun s => (s.me.pendFor (.g 3)).isNone && tRun (exec (.rdwc (.g 2) 3) s) fun t => tReg 2 t == 7 && (t.core 0).empty == [3]),
    (tState [(3, 7)], .rdwc (.g 3) 3, [], fun s => tRun (exec (.rdwc (.g 3) 3) s) fun t => tReg 3 t == 7 && (t.core 0).empty == []),
    (tIn (tState []) fun x => { x with phase := 2 }, .join (.g 0), [0], fun s => tGoes (.join (.g 0)) s 1 2 1),
    (tState [(0, 2 ^ 48)], .join (.g 0), [2 ^ 48], fun s => tFault (.join (.g 0)) s 0x0A), (tState [(0, 2 ^ 48 - 4)], .join (.g 0), [2 ^ 48 - 4], fun s => tFault (.join (.g 0)) s 0x0B),
    (tState [(0, 8)], .join (.g 0), [8], fun s => tParks (.join (.g 0)) s (.walk 8)),
    (tMapped (tState [(0, 8)]), .join (.g 0), [8], fun s => s.me.pipe == [] && tParks (.join (.g 0)) s (.join 65544))] : List tWitness),
    Issues w.1 w.2.1 w.2.2.1 w.1 ∧ w.2.2.2 w.1 = true) ∧ Missing (tMapped (tState [(0, 8)])) 65544 := ⟨tAll_spec (by decide +kernel), by decide +kernel, by decide +kernel, by decide +kernel⟩
/-- The wake of a record's counter, and of a thread parked on one. -/
def tJoined (waiter : Nat) : State := { tIn (tState []) fun x => { x with status := .parked (.join 65544) } with dies := [(0, { joiners := [(65544, waiter, 0, 8)] })] }
theorem meets_WaitingReads_wakes :
    (∀ j ∈ ((tJoined schedWaiter).die 0).joiners, j.1 = 65544 → j.2.1 = schedWaiter) ∧ (tRun (exec (.joinWake 0 65544) (tJoined schedWaiter)) fun t => t.net == [.counterZeroWake 0 8]) ∧
    ((tJoined 0).die 0).joiners = [(65544, 0, 0, 8)] ∧ ((tJoined 0).ctx 0 0).status = .parked (.join 65544) ∧ ((tJoined 0).ctx 0 0).pipe = [] ∧ isSramLine (65544 / 128) = false ∧
    (tRun (exec (.joinWake 0 65544) (tJoined 0)) fun t => t.net == [.fillRequest 0 0 512] && (t.die 0).joiners == []) := by decide +kernel

/-- KSYNC one cycle before, and at, the 8 cycles of a k write; IDLE with and without an entry; a timed wait at its cycle and before; watermarks at, past and
2^47 behind an id. -/
def tShared (n : Nat) : State := { (tState []).modCore 0 fun k => { k with regs := { k.regs with kOld := [⟨3, 5, 0, 10⟩] } } with now := n }
def tMark (n : Nat) (s : State) : State := s.modCore 0 fun k => { k with units := { k.units with cpdone := [(3, n)], cpTc := [(3, 40)] } }
def tInq (s : State) : State := s.modCore 0 fun k => { k with q := { k.q with inq := [(9, 30)] } }
theorem meets_TimedWaits : (∀ w ∈ ([
    (tState [], .nop, [], fun s => tGoes .nop s 1 2 1),
    (tShared 17, .ksync, [], fun s => s.me.phase == 0 && tParks .ksync s (.cycle 18)), (tShared 18, .ksync, [], fun s => tGoes .ksync s 1 2 1),
    (tState [], .idle, [], fun s => tParks .idle s (.idle 1024)), (tInq (tState []), .idle, [], fun s => tGoes .idle s 1 2 1),
    (tMark 6 (tState [(0, 6)]), .waitx (.g 0) 3, [6], fun s => tGoes (.waitx (.g 0) 3) s 1 2 1 && tRun (exec (.waitx (.g 0) 3) s) fun t => t.me.pt == 41),
    (tMark 5 (tState [(0, 6)]), .waitx (.g 0) 3, [6], fun s => tParks (.waitx (.g 0) 3) s (.watermark 3 6)),
    (tMark (2 ^ 47 - 1) (tState []), .waitx (.g 0) 3, [0], fun s => tGoes (.waitx (.g 0) 3) s 1 2 1), (tMark (2 ^ 47) (tState []), .waitx (.g 0) 3, [0], fun s => tParks (.waitx (.g 0) 3) s (.watermark 3 0)),
    (tMark 0 (tState [(0, 2 ^ 48 - 1)]), .waitx (.g 0) 3, [2 ^ 48 - 1], fun s => tGoes (.waitx (.g 0) 3) s 1 2 1)] : List tWitness),
    Issues w.1 w.2.1 w.2.2.1 w.1 ∧ w.2.2.2 w.1 = true) ∧
    (let s : State := { tIn (tState []) fun x => { x with status := .parked (.cycle 18) } with now := 17 }
     (s.ctx 0 0).status = .parked (.cycle 18) ∧ (tRun (exec (.ksyncResume 0 0) s) fun t => t == s) ∧
     (tRun (exec (.pcycPidxResume 0 0) { s with now := 18 }) fun t => (t.ctx 0 0).status == .ready)) ∧
    (let s : State := { tIn (tState []) fun x => { x with status := .parked (.idle 18) } with now := 18 }
     (s.ctx 0 0).status = .parked (.idle 18) ∧ (tRun (exec (.idleTimeout 0 0) s) fun t => (t.ctx 0 0).status == .ready)) := ⟨tAll_spec (by decide +kernel), by decide +kernel, by decide +kernel⟩

/-- With everything returned and with a result outstanding; answered; with an interrupt pending for a class-0 and a class-1 thread. -/
def tAnswered (s : State) : State := tIn s fun x => { x with phase := 2 }
def tHit (s : State) : State := { s with net := [.meshInterrupt 0] }
theorem meets_FencesAndRequests : ∀ w ∈ ([
    (tIn (tState []) fun x => { x with cmdTc := 30 }, .fenceb, [], fun s => tGoes .fenceb s 1 2 1 && tRun (exec .fenceb s) fun t => t.me.pt == 31 && t.me.cmdTc == 0),
    (tOut (tState []), .fenceb, [], fun s => tParks .fenceb s .fence), (tIn (tState []) fun x => { x with cmds := [4] }, .fenceb, [], fun s => tParks .fenceb s .fence),
    (tIn (tState []) fun x => { x with copies := [(3, 7)] }, .fenceb, [], fun s => tParks .fenceb s .fence),
    (tMark 8 (tIn (tState []) fun x => { x with copies := [(3, 7)] }), .fenceb, [], fun s => tGoes .fenceb s 1 2 1 && tRun (exec .fenceb s) fun t => t.me.pt == 41 && t.me.copies == []),
    (tAnswered (tState []), .trap (.g 0), [0], fun s => tGoes (.trap (.g 0)) s 1 2 1), (tOut (tState []), .trap (.g 0), [0], fun s => tParks (.trap (.g 0)) s .fence),
    (tState [(0, 9)], .trap (.g 0), [9], fun s => tParks (.trap (.g 0)) s .accept && tRun (exec (.trap (.g 0)) s) fun t => t.net.length == 1),
    (tAnswered (tState []), .snap (.g 0), [0], fun s => tGoes (.snap (.g 0)) s 1 2 1), (tOut (tState []), .snap (.g 0), [0], fun s => tParks (.snap (.g 0)) s .marker),
    (tState [(0, 2 ^ 32 + 5)], .snap (.g 0), [2 ^ 32 + 5], fun s => tParks (.snap (.g 0)) s .accept && tRun (exec (.snap (.g 0)) s) fun t => t.net == [.snapRequest 0 0 5]),
    (tOut (tState []), .yield, [], fun s => tParks .yield s .marker), (tState [], .yield, [], fun s => tGoes .yield s 1 2 1),
    (tHit (tIn (tState []) fun x => { x with cls := 0 }), .yield, [], fun s => tGoes .yield s 1 2 1),
    (tHit (tState [(4, 6)]), .yield, [], fun s => tRun (exec .yield s) fun t => t.ctx 0 0 == {} && (t.core 0).work.saved.length == 1),
    (tOut (tState []), .endThread, [], fun s => tParks .endThread s .settle),
    (tState [], .endThread, [], fun s => s.me.gang == [] && (s.core 0).work.spill.all == [] && (s.core 0).work.saved == [] && (s.core 0).work.deque == [] && (s.core 0).work.overflow.all == [] &&
      tRun (exec .endThread s) fun t => t.ctx 0 0 == {}),
    ({ tPkg { tCore [] with ctxs := [(63, tCtx)], work := { porter := some { blk := 1, off := 0, asid := 1, cls := 1, pt := 5, regs := [], cut := false, land := some { core := 8, chan := 2, id := 3, pkt := 4 }, msg := none, wr := none } } }
        with iss := { slot := 63 } }, .endThread, [], fun s => tRun (exec .endThread s) fun t => t.ctx 0 63 == {} && t.net == [.copyPacketLanding 8 2 3 4, .porterHandlerStart 0])] : List tWitness),
    Issues w.1 w.2.1 w.2.2.1 w.1 ∧ w.2.2.2 w.1 = true := tAll_spec (by decide +kernel)

/-- Core ids with a low bit set, with core 16 and of chip 1 of a job of one chip; a result outstanding; a message for the package and one for another chip. -/
theorem meets_SendsLeave : ∀ w ∈ ([
    (tState [(0, 2 ^ 14)], .send (.g 0) (.g 1), [2 ^ 14, 0], fun s => tFault (.send (.g 0) (.g 1)) s 6),
    (tState [(0, 128 * 2 ^ 14)], .send (.g 0) (.g 1), [128 * 2 ^ 14, 0], fun s => tFault (.send (.g 0) (.g 1)) s 6),
    (tState [(0, 2 ^ 30)], .sendu (.g 0) (.g 1), [2 ^ 30, 0], fun s => tFault (.sendu (.g 0) (.g 1)) s 6),
    (tOut (tState [(0, 120 * 2 ^ 14)]), .send (.g 0) (.g 1), [120 * 2 ^ 14, 0], fun s => tParks (.send (.g 0) (.g 1)) s .settle),
    (tState [(0, 120 * 2 ^ 14), (1, 6)], .send (.g 0) (.g 1), [120 * 2 ^ 14, 6], fun s => tGoes (.send (.g 0) (.g 1)) s 1 2 1 && tRun (exec (.send (.g 0) (.g 1)) s) fun t => t.net.length == 1 && t.me.pt == 6),
    ({ tState [(0, 2 ^ 30)] with jobs := [{ num := 1, asids := [1], chips := 2 }] }, .sendu (.g 0) (.g 1), [2 ^ 30, 0], fun s =>
      tRun (exec (.sendu (.g 0) (.g 1)) s) fun t => t.net == [] && (t.outbox.map OutMsg.chip) == [1])] : List tWitness),
    Issues w.1 w.2.1 w.2.2.1 w.1 ∧ w.2.2.2 w.1 = true := tAll_spec (by decide +kernel)

/-- Registers of the table, a watermark, LINK, TSTAT, and a write that is not allowed. -/
theorem meets_StatusRegisters : (∀ w ∈ ([
    (tState [], .csrrd (.g 2) 0x001, [], fun s => tRun (exec (.csrrd (.g 2) 0x001) s) fun t => tReg 2 t == 5),
    (tState [], .csrrd (.g 2) 0x006, [], fun s => tRun (exec (.csrrd (.g 2) 0x006) s) fun t => tReg 2 t == 0x20001),
    (tState [], .csrrd (.g 2) 0xF04, [], fun s => tRun (exec (.csrrd (.g 2) 0xF04) s) fun t => tReg 2 t == 0),
    (tMark 6 (tState []), .csrrd (.g 2) 0x107, [], fun s => tRun (exec (.csrrd (.g 2) 0x107) s) fun t => tReg 2 t == 6 && t.me.pt == 41),
    (tState [(0, 2 ^ 33 + 9)], .csrwr (.g 0) 4, [2 ^ 33 + 9], fun s => tRun (exec (.csrwr (.g 0) 4) s) fun t => t.me.link == 9),
    (tIn (tState [(0, 1)]) fun x => { x with tstat := 3 }, .csrwr (.g 0) 5, [1], fun s => tRun (exec (.csrwr (.g 0) 5) s) fun t => t.me.tstat == 2),
    (tIn (tState [(0, 2)]) fun x => { x with tstat := 3 }, .csrwr (.g 0) 5, [2], fun s => tRun (exec (.csrwr (.g 0) 5) s) fun t => t.me.tstat == 3)] : List tWitness),
    Issues w.1 w.2.1 w.2.2.1 w.1 ∧ w.2.2.2 w.1 = true) ∧
    (wellFormed (.csrwr (.g 0) 0xF04) ∧ (tState []).me.status = .ready ∧ tFault (.csrwr (.g 0) 0xF04) (tState []) 2) := ⟨tAll_spec (by decide +kernel), by decide +kernel⟩

/-- A child of the own block and of a block held on the core, every context being used; of a block held elsewhere; each fault and wait of the form. -/
def tBusy (s : State) : State := s.modCore 0 fun k => { k with ctxs := (List.range 63).map fun n => (n, if n = 0 then k.ctx 0 else { tCtx with status := .parked .marker }) }
theorem meets_ForksSpawn : ∀ w ∈ ([
    (tBlocks [(0, 2 ^ 33)], .forkr (.g 0), [2 ^ 33], fun s => tFault (.forkr (.g 0)) s 5), (tBlocks [(0, 516)], .forkr (.g 0), [516], fun s => tFault (.forkr (.g 0)) s 5),
    (tBlocks [(0, 2049)], .forkr (.g 0), [2049], fun s => tParks (.forkr (.g 0)) s (.blockMap 4)), (tAnswered (tBlocks []), .fork 0 1, [], fun s => tGoes (.fork 0 1) s 1 2 1),
    (tOut (tBlocks []), .fork 0 1, [], fun s => tParks (.fork 0 1) s .settle),
    (tBusy (tBlocks []), .fork 1 0, [], fun s => (s.core 0).freeSlot none == none && tGoes (.fork 1 0) s 1 2 1 && tRun (exec (.fork 1 0) s) fun t => (t.core 0).work.deque.length == 1),
    (tBlocks [], .fork 0 2, [], fun s => tParks (.fork 0 2) s .accept && tRun (exec (.fork 0 2) s) fun t => t.net.length == 1 && t.me.phase == 1)] : List tWitness),
    Issues w.1 w.2.1 w.2.2.1 w.1 ∧ w.2.2.2 w.1 = true := tAll_spec (by decide +kernel)

/-! ### Loads, stores, atomics and copies (04, 09, 12) -/

/-- A record of stride 1: base, extent, bounds mode (04 R100), space (04 R97), owner. -/
def tRec (base extent bounds space owner : Nat) : Buf := { r := base + extent * 2 ^ 64 + 2 ^ 104 + bounds * 2 ^ 176 + space * 2 ^ 178 + owner * 2 ^ 189, valid := true, asid := 1 }
/-- bf1 and bf2 are the core's scratchpad, returning zero and faulting out of bounds; bf3 another core's; bf4 the hedge's. -/
def tMem (regs : List (Nat × Word)) : State := { tMapped ((tState regs).modCore 0 fun k => { k with
    regs := { bufs := [(1, tRec 0 256 3 1 0), (2, tRec 0 256 1 1 0), (3, tRec 0 256 0 2 8), (4, tRec 0 256 0 3 0)] } }) with
  mem := Memory.write (Memory.write [] (sramAt 0 120) 8 0x8877665544332211) (sramAt 0 160) 8 0xF0,
  cores := (tMapped ((tState regs).modCore 0 fun k => { k with regs := { bufs := [(1, tRec 0 256 3 1 0), (2, tRec 0 256 1 1 0), (3, tRec 0 256 0 2 8), (4, tRec 0 256 0 3 0)] } })).cores ++ [(8, { csr := { shasid := 1 } })] }
/-- Where an access of the thread goes. -/
def tAt (s : State) (bf n : Nat) (kind : Purpose) (f : OffForm) (v : Word) : State × Found :=
  match s.record? 0 0 bf with
  | (some r, w) => let u := w.useTlbs 0 w.me.asid r [f.offset r v]; (u, (u.element 0 0 r (f.offset r v) n n kind (f == .byte) 0 0).found)
  | (none, w) => (w, .drop)
theorem tAt_spec {s : State} {bf n : Nat} {kind : Purpose} {f : OffForm} {v : Word} (hi : s.iss.core = 0 ∧ s.iss.slot = 0) (hr : (s.record? 0 0 bf).1.isSome) :
    Locates s (tAt s bf n kind f v).1 bf n kind f v (tAt s bf n kind f v).2 := by
  unfold tAt Locates
  rw [hi.1, hi.2]
  rcases h : s.record? 0 0 bf with ⟨r | r, w⟩
  · rw [h] at hr; simp at hr
  · exact ⟨r, w, rfl, rfl, rfl⟩
/-- The place of an access, as a state reads it, and a property of the state from then on. -/
def tPlace (s : State) (bf n : Nat) (kind : Purpose) (v : Word) (found : Found) (p : State → Bool) : Bool :=
  (s.record? 0 0 bf).1.isSome && (tAt s bf n kind .byte v).2 == found && p (tAt s bf n kind .byte v).1
def tReady (addr n : Nat) (u : State) : Bool :=
  u.me.unreturned < 8 && u.me.pipe == [] && isSramLine (addr / 128) && !u.pins.contains (addr / 128) && u.poison == [] && addr % 128 + n ≤ 128 && u.mem.wf
def tMiss (addr n : Nat) (u : State) : Bool :=
  u.me.unreturned < 8 && u.me.pipe == [] && !isSramLine (addr / 128) && (u.core 0).cache == [] && (u.hedge 0).victim == [] && addr % 128 + n ≤ 128
theorem tReady_spec {u : State} {addr n : Nat} (h : tReady addr n u = true) :
    u.me.unreturned < 8 ∧ u.me.pipe = [] ∧ SramReady u addr n ∧ addr % 128 + n ≤ 128 ∧ u.mem.wf := by
  simp only [tReady, Bool.and_eq_true, beq_iff_eq, decide_eq_true_eq, Bool.not_eq_true', List.contains_eq_mem, decide_eq_false_iff_not] at h
  obtain ⟨⟨⟨⟨⟨⟨h1, h2⟩, h3⟩, h4⟩, h5⟩, h6⟩, h7⟩ := h
  exact ⟨h1, h2, ⟨h3, h4, fun a _ _ => by rw [h5]; rfl⟩, h6, h7⟩
theorem tMiss_spec {u : State} {addr n : Nat} (hi : u.iss.core = 0) (h : tMiss addr n u = true) :
    u.me.unreturned < 8 ∧ u.me.pipe = [] ∧ Missing u addr ∧ addr % 128 + n ≤ 128 := by
  simp only [tMiss, Bool.and_eq_true, beq_iff_eq, decide_eq_true_eq, Bool.not_eq_true'] at h
  obtain ⟨⟨⟨⟨⟨h1, h2⟩, h3⟩, h4⟩, h5⟩, h6⟩ := h
  exact ⟨h1, h2, ⟨h3, fun l hl => by rw [hi, h4] at hl; simp at hl, fun l hl => by rw [hi, show hedgeKey 0 = 0 from rfl, h5] at hl; simp at hl⟩, h6⟩
def tNet (i : Instr) (s : State) (n : Instr) : Bool := tRun (exec i s) fun t => t.net == [n]
def tOld (i : Instr) (s : State) (acc : Nat) : Bool := tRun (exec i s) fun t => t.me.out.map Pending.acc == [acc]
/-- A double of memory after. -/
def tByte (i : Instr) (s : State) (addr v : Nat) : Bool := tRun (exec i s) fun t => t.mem.read addr 8 == v && t.mem.wf

/-- The last double of a line of the scratchpad; an invalid record; out of bounds with a zero return and with the fault; no translation; 8 results outstanding; a line of
DRAM; another core's scratchpad. Narrow and indexed forms, as R209 and R211 compute their places. -/
theorem meets_LoadsBegin : ∀ w ∈ ([
    (tMem [(0, 120)], .ldN (.g 2) 1 3 (.g 0), [120], fun s => tPlace s 1 8 .load 120 (.at_ (sramAt 0 120) 3 none) (tReady (sramAt 0 120) 8) && tOld (.ldN (.g 2) 1 3 (.g 0)) s 0x8877665544332211),
    (tMem [(0, 127)], .ldS (.g 2) 1 0 (.g 0), [127], fun s => tPlace s 1 1 .load 127 (.at_ (sramAt 0 127) 3 none) (tReady (sramAt 0 127) 1) && tOld (.ldS (.g 2) 1 0 (.g 0)) s 0x88),
    (tMem [(0, 120)], .ldeN (.g 2) 1 2 (.g 0), [120], fun s => tOld (.ldeN (.g 2) 1 2 (.g 0)) s 0x44332211),
    (tMem [(0, 256)], .ldN (.g 2) 1 0 (.g 0), [256], fun s => tPlace s 1 1 .load 256 .drop (fun u => u.me.unreturned < 8 && u.me.pipe == []) && tOld (.ldN (.g 2) 1 0 (.g 0)) s 0),
    (tMem [(0, 256)], .ldS (.g 2) 2 0 (.g 0), [256], fun s => tPlace s 2 1 .load 256 (.fault 3 9 256 false) (fun _ => true) && tFault (.ldS (.g 2) 2 0 (.g 0)) s 9),
    (tMem [(0, 0)], .ldxN (.g 2) 9 0 (.g 0), [0], fun s => s.record? 0 0 9 == (none, s) && tFault (.ldxN (.g 2) 9 0 (.g 0)) s 7),
    (tMem [(0, 2 ^ 17)], .ldxS (.g 2) 0 0 .zero, [0], fun s => tPlace s 0 1 .load 0 (.at_ 65536 0 none) (tMiss 65536 1) && tNet (.ldxS (.g 2) 0 0 .zero) s (.fillRequest 0 0 512)),
    (tMem [(0, 2 ^ 17)], .ldN (.g 2) 0 3 (.g 0), [2 ^ 17], fun s => tPlace s 0 8 .load (2 ^ 17) (.hold 6 (.walk (2 ^ 17))) (fun _ => true) && tParks (.ldN (.g 2) 0 3 (.g 0)) s (.walk (2 ^ 17))),
    (tFull (tMem [(0, 120)]), .ldN (.g 2) 1 3 (.g 0), [120], fun s => tPlace s 1 8 .load 120 (.at_ (sramAt 0 120) 3 none) (fun u => 8 ≤ u.me.unreturned) && tParks (.ldN (.g 2) 1 3 (.g 0)) s .limit),
    (tMem [(0, 8)], .ldN (.g 2) 3 3 (.g 0), [8], fun s => tPlace s 3 8 .load 8 (.at_ (sramAt 8 8) 3 (some 8)) (fun u => u.me.unreturned < 8 && u.me.pipe == []) &&
      tNet (.ldN (.g 2) 3 3 (.g 0)) s (.remotePrivateRequest 0 0))] : List tWitness), Issues w.1 w.2.1 w.2.2.1 w.1 ∧ w.2.2.2 w.1 = true := tAll_spec (by decide +kernel)
theorem meets_LocatingChanges : Locates (tMem [(0, 8)]) (tAt (tMem [(0, 8)]) 0 8 .load .byte 8).1 0 8 .load .byte 8 (.at_ 65544 0 none) :=
  tAt_spec (by decide +kernel) (by decide +kernel)

/-- The same places for stores; the page of a store that may not be written; the neighbours of the stored bytes are left. -/
theorem meets_StoresBegin : ∀ w ∈ ([
    (tMem [(0, 120), (1, 0xAB)], .st (.g 1) 1 0 (.g 0), [0xAB, 120], fun s => tPlace s 1 1 .store 120 (.at_ (sramAt 0 120) 3 none) (tReady (sramAt 0 120) 1) &&
      tByte (.st (.g 1) 1 0 (.g 0)) s (sramAt 0 120) 0x88776655443322AB),
    (tMem [(0, 256)], .st .zero 1 0 (.g 0), [0, 256], fun s => tPlace s 1 1 .store 256 .drop (fun u => u.me.pipe == []) && tRun (exec (.st .zero 1 0 (.g 0)) s) fun t => t.mem == s.mem && t.me.pt == 6),
    (tMem [(0, 256)], .ste .zero 2 0 (.g 0), [0, 256], fun s => tFault (.ste .zero 2 0 (.g 0)) s 9), (tMem [], .stx .zero 9 0 .zero, [0, 0], fun s => tFault (.stx .zero 9 0 .zero) s 7),
    (tMem [(0, 65536)], .st .zero 0 0 (.g 0), [0, 65536], fun s => tPlace s 0 1 .store 65536 (.fault 7 12 65536 false) (fun _ => true) && tFault (.st .zero 0 0 (.g 0)) s 12),
    (tMem [(0, 2 ^ 17)], .st .zero 0 0 (.g 0), [0, 2 ^ 17], fun s => tPlace s 0 1 .store (2 ^ 17) (.hold 6 (.walk (2 ^ 17))) (fun _ => true)),
    (tMem [(0, 120)], .st (.g 0) 0 3 (.g 0), [120, 120], fun s => tPlace s 0 8 .store 120 (.at_ 65656 0 none) (tMiss 65656 8) && tNet (.st (.g 0) 0 3 (.g 0)) s (.ownershipRequest 0 0 512)),
    (tMem [(0, 8)], .st (.g 0) 3 3 (.g 0), [8, 8], fun s => tPlace s 3 8 .store 8 (.at_ (sramAt 8 8) 3 (some 8)) (fun u => u.me.pipe == []) && tNet (.st (.g 0) 3 3 (.g 0)) s (.remotePrivateRequest 0 0)),
    -- atomics on the double 0xF0 at 160, with 0x3C
    (tMem [(0, 160), (1, 0x3C)], .aadd (.g 1) 1 (.g 0), [0x3C, 160], fun s => tPlace s 1 8 .atomic 160 (.at_ (sramAt 0 160) 3 none) (tReady (sramAt 0 160) 8) && tOld (.aadd (.g 1) 1 (.g 0)) s 0xF0),
    (tMem [(0, 256), (1, 1)], .aand (.g 1) 2 (.g 0), [1, 256], fun s => tFault (.aand (.g 1) 2 (.g 0)) s 9), (tMem [(1, 1)], .aor (.g 1) 9 .zero, [1, 0], fun s => tFault (.aor (.g 1) 9 .zero) s 7),
    (tFull (tMem [(0, 160)]), .aswap (.g 1) 1 (.g 0), [0, 160], fun s => tParks (.aswap (.g 1) 1 (.g 0)) s .limit),
    (tMem [(0, 2 ^ 17)], .axor (.g 1) 0 (.g 0), [0, 2 ^ 17], fun s => tPlace s 0 8 .atomic (2 ^ 17) (.hold 6 (.walk (2 ^ 17))) (fun _ => true)),
    (tMem [(0, 120)], .acas (.g 1) 0 (.g 0), [0, 120], fun s => (s.me.pendFor (.h 0)).isNone && tPlace s 0 8 .atomic 120 (.at_ 65656 0 none) (tMiss 65656 8) &&
      tNet (.acas (.g 1) 0 (.g 0)) s (.ownershipRequest 0 0 512)),
    (tMem [(0, 8)], .aminS64 (.g 1) 3 (.g 0), [0, 8], fun s => tNet (.aminS64 (.g 1) 3 (.g 0)) s (.remotePrivateRequest 0 0))] : List tWitness),
    Issues w.1 w.2.1 w.2.2.1 w.1 ∧ w.2.2.2 w.1 = true := tAll_spec (by decide +kernel)
/-- What each atomic leaves of the old double 0xF0 and the operand 0x3C; ACAS with h0 not equal and equal; the last two act on 4 bytes (09 R216, R217; 06 R140). -/
theorem test_atomics : ([(.aswap (.g 1) 1 (.g 0), 0x3C), (.aadd (.g 1) 1 (.g 0), 0x12C), (.aand (.g 1) 1 (.g 0), 0x30), (.aor (.g 1) 1 (.g 0), 0xFC), (.axor (.g 1) 1 (.g 0), 0xCC),
    (.aminS64 (.g 1) 1 (.g 0), 0x3C), (.amaxS64 (.g 1) 1 (.g 0), 0xF0), (.aminN64 (.g 1) 1 (.g 0), 0x3C), (.amaxN64 (.g 1) 1 (.g 0), 0xF0), (.acas (.g 1) 1 (.g 0), 0xF0),
    (.aamaxF32 (.g 1) 1 (.g 0), 0xF0), (.amaxswapF32 (.g 1) 1 (.g 0), 0x3C)] : List (Instr × Nat)).all
    (fun e => tByte e.1 (tMem [(0, 160), (1, 0x3C)]) (sramAt 0 160) e.2 && tOld e.1 (tMem [(0, 160), (1, 0x3C)]) 0xF0) = true ∧
    tByte (.acas (.g 1) 1 (.g 0)) (tIn (tMem [(0, 160), (1, 0x3C)]) fun x => { x with h := [(0, 0xF0)] }) (sramAt 0 160) 0x3C = true ∧
    tByte (.aminS64 (.g 1) 1 (.g 0)) (tMem [(0, 160), (1, 2 ^ 63)]) (sramAt 0 160) (2 ^ 63) = true ∧ tByte (.amaxN64 (.g 1) 1 (.g 0)) (tMem [(0, 160), (1, 2 ^ 63)]) (sramAt 0 160) (2 ^ 63) = true := by
  decide +kernel

/-- A transfer within the scratchpad: requests by R218 in g4 to g7, sources bf1, destinations bf2, channel 3. -/
def tCopy (r : List (Nat × Word)) (n : Nat) : State := (tMem r).modCore 0 fun k => { k with q := { cpq := List.replicate n { chan := 1 } }, units := { nextId := [(3, 2 ^ 48 - 1)] } }
def tRq (s : State) : List Word := (s.readMains 0 0 4 4).1
theorem meets_CopiesIssue : (∀ w ∈ ([
    (tState [], .bfld (.g 0) 0, [0], fun s => tFault (.bfld (.g 0) 0) s 7), (tState [], .bfclr 0, [], fun s => tFault (.bfclr 0) s 7),
    (tMem [], .bfclr 63, [], fun s => tGoes (.bfclr 63) s 1 2 1), (tMem [], .bfclr 1, [], fun s => tRun (exec (.bfclr 1) s) fun t => !((t.core 0).buf 1).valid && ((t.core 0).buf 2).valid),
    (tState [(0, 8)], .bfld (.g 0) 1, [8], fun s => tFault (.bfld (.g 0) 1) s 0x0B), (tState [(0, 32)], .bfld (.g 0) 1, [32], fun s => tParks (.bfld (.g 0) 1) s (.walk 32)),
    (tMem [(0, 96)], .bfld (.g 0) 1, [96], fun s => tMiss 65632 32 s && tNet (.bfld (.g 0) 1) s (.fillRequest 0 0 512)),
    (tIn (tMem []) fun x => { x with phase := 1, out := [{ seq := 1, kind := .bfld, returned := true, acc := 2 ^ 213 }] }, .bfld .zero 1, [0], fun s => s.recordBreaks 1 (2 ^ 213) && tFault (.bfld .zero 1) s 7),
    (tIn (tMem []) fun x => { x with phase := 1, out := [{ seq := 1, kind := .bfld, returned := true, acc := 2 ^ 104 }] }, .bfld .zero 63, [0], fun s => !s.recordBreaks 1 (2 ^ 104) &&
      tGoes (.bfld .zero 63) s 1 2 1 && tRun (exec (.bfld .zero 63) s) fun t => t.me.out.map Pending.dest == [.bf 63])] : List tWitness),
    Issues w.1 w.2.1 w.2.2.1 w.1 ∧ w.2.2.2 w.1 = true) := tAll_spec (by decide +kernel)
/-- A record's load that returns. -/
def tRecordIn : State := tIn (tMem []) fun x => { x with status := .parked .vector, out := [{ seq := 4, kind := .bfld, bytes := 32, queue := 64, acc := 2 ^ 104, asid := 1 }] }
theorem meets_CopiesIssue_returns : ∃ p, (tRecordIn.ctx 0 0).out = [p] ∧ p.seq = 4 ∧ p.returned = false ∧ p.left = 0 ∧ p.kind = .bfld ∧ p.bytes = 32 ∧ p.queue = 63 + 1 ∧
    p.signed = false ∧ p.dest = .discard ∧ (tRecordIn.ctx 0 0).pair = none ∧ (tRecordIn.ctx 0 0).status = .parked .vector ∧ tRecordIn.recordBreaks p.asid p.acc = false ∧
    (tRun (exec (.loadReturn 0 0 4) tRecordIn) fun t => (t.core 0).buf 63 == { r := 2 ^ 104, valid := true, asid := 1 } && (t.ctx 0 0).status == .ready) = true :=
  ⟨_, rfl, by decide +kernel⟩
/-- A request of channel 3 in g4 to g7 from bf1 to bf2: 16 bytes (09 R218); and what goes wrong with others. -/
def tRequest : Word := 3 * 2 ^ 60 + 2 * 2 ^ 51 + 2 ^ 45 + 16
theorem meets_CopiesIssue_copies : ∀ w ∈ ([
    (tCopy [(4, tRequest)] 15, .cpy (.g 2) 4, [], fun s => tRun (exec (.cpy (.g 2) 4) s) fun t => tReg 2 t == 2 ^ 48 - 1 && (t.core 0).q.cpq.length == 16 && t.me.copies == [(3, 2 ^ 48 - 1)] &&
      Tab.getD (t.core 0).units.nextId 3 0 == 0 && t.net == [.copyAccept 0]),
    (tCopy [(4, tRequest)] 16, .cpy (.g 2) 4, [], fun s => tParks (.cpy (.g 2) 4) s (.room 2)),
    (tCopy [(4, tRequest)] 16, .cpyNb (.g 2) 4, [], fun s => tRun (exec (.cpyNb (.g 2) 4) s) fun t => tReg 2 t == 2 ^ 64 - 1 && (t.core 0).q.cpq.length == 16),
    (tCopy [(4, tRequest + 8 * 2 ^ 45)] 0, .cpy (.g 2) 4, [], fun s => s.record? 0 0 9 == (none, s) && tFault (.cpy (.g 2) 4) s 7),
    (tCopy [(4, tRequest + 8 * 2 ^ 51)] 0, .cpyNb (.g 2) 4, [], fun s => tFault (.cpyNb (.g 2) 4) s 7),
    ((tCopy [(4, tRequest)] 0).modCore 0 fun k => { k with csr := {} }, .cpy (.g 2) 4, [], fun s => tFault (.cpy (.g 2) 4) s 2),
    (tCopy [(4, tRequest + 2 ^ 62), (7, 128 * 2 ^ 24)] 0, .cpy (.g 2) 4, [], fun s => tFault (.cpy (.g 2) 4) s 6),
    (tCopy [(4, tRequest - 16)] 0, .cpy (.g 2) 4, [], fun s => tFault (.cpy (.g 2) 4) s 0x11), (tCopy [(4, tRequest), (7, 2 ^ 48)] 0, .cpyNb (.g 2) 4, [], fun s => tFault (.cpyNb (.g 2) 4) s 0x11)] : List tWitness),
    Issues w.1 w.2.1 w.2.2.1 w.1 ∧ w.2.2.2 w.1 = true := tAll_spec (by decide +kernel)

/-! ### Vector accesses and QPACK (10) -/

/-- Bytes 0x80 to 0xFF stand from the scratchpad's start; bf1 has stride 2, bf2 stride 1 (16 bytes, faulting), bf5 stride 1 and 128 bytes. -/
def tVmem (m : MaskV) (regs : List (Nat × Word)) : State :=
  { ((tState regs).modCore 0 fun k => { k with vfile := [(0, 0x04030201), (1, tElems 32 (List.replicate 32 0x40E00000))], regs := { bufs := [
      (1, { r := 256 * 2 ^ 64 + 2 * 2 ^ 104 + 2 ^ 178, valid := true, asid := 1 }), (2, tRec 0 16 1 1 0), (5, tRec 0 128 1 1 0)] } }).modCtx 0 0
      fun x => { x with masks := [(1, m)], h := [(0, 0x17F)] } with mem := Memory.write [] (sramAt 0 0) 8 0x8786858483828180 }
theorem meets_VectorAccesses : (∀ w ∈ ([
    -- bytes 0, 2 and 6 into elements 0, 1 and 3; four bytes stored at stride 1; the packed forms
    (tVmem 0xB [], .vld 0 1 2 1 .zero, [0], fun s => tReady (sramAt 0 0) 1 s && tRun (exec (.vld 0 1 2 1 .zero) s) fun t => t.me.out.map Pending.acc == [0x86008280] && t.me.out.map Pending.mask == [0xFF00FFFF]),
    (tVmem 0xF [(0, 1)], .vst 0 1 0 5 (.g 0), [1], fun s => tByte (.vst 0 1 0 5 (.g 0)) s (sramAt 0 0) 0x8786850403020180),
    (tVmem 0x5 [], .vldpE2m1 1 2 5 .zero, [0], fun s => tOld (.vldpE2m1 1 2 5 .zero) s 0x10000), (tVmem 0x3 [], .vldpE3m2 1 2 5 .zero, [0], fun s => tOld (.vldpE3m2 1 2 5 .zero) s 0x0600),
    (tVmem 0x3 [], .vstpE2m1 1 0 5 .zero, [0], fun s => tByte (.vstpE2m1 1 0 5 .zero) s (sramAt 0 0) 0x8786858483828121),
    (tVmem 0x3 [], .vstpE3m2 1 0 5 .zero, [0], fun s => tByte (.vstpE3m2 1 0 5 .zero) s (sramAt 0 0) 0x8786858483828081),
    -- element 15 is the last of bf2's 16 bytes, element 16 the first past them; no active element; the limit; no translation
    (tVmem 0x8000 [], .vld 0 1 2 2 .zero, [0], fun s => tOld (.vld 0 1 2 2 .zero) s 0), (tVmem 0x18000 [], .vld 0 1 2 2 .zero, [0], fun s => tFault (.vld 0 1 2 2 .zero) s 9),
    (tVmem 0 [], .vld 3 1 2 2 .zero, [0], fun s => tRun (exec (.vld 3 1 2 2 .zero) s) fun t => t.me.out.map Pending.mask == [0] && t.net.length == 1),
    (tVmem 0 [], .vst 3 1 2 2 .zero, [0], fun s => tRun (exec (.vst 3 1 2 2 .zero) s) fun t => t.mem == s.mem && t.net == []),
    (tFull (tVmem 0xF []), .vld 0 1 2 5 .zero, [0], fun s => tParks (.vld 0 1 2 5 .zero) s .limit), (tVmem 1 [], .vst 2 1 2 0 .zero, [0], fun s => tParks (.vst 2 1 2 0 .zero) s (.walk 0))] : List tWitness),
    Issues w.1 w.2.1 w.2.2.1 w.1 ∧ w.2.2.2 w.1 = true) ∧ (tVmem 0xB []).VecsPlain ∧ (tVmem 0xF [(0, 1)]).VecsPlain := ⟨tAll_spec (by decide +kernel), tPlain (by decide +kernel), tPlain (by decide +kernel)⟩
/-- 64 values, half of them 7.0, as INT4 under scale code 127 (a scale of 1); a scale kind of 3; an invalid record; an offset off 64 bytes. -/
theorem meets_BlocksPacked : (∀ w ∈ ([
    (tVmem 0 [(0, 64)], .qpacki 0 5 (.g 0), [64], fun s => tPlace s 5 64 .store 64 (.at_ (sramAt 0 64) 3 none) (tReady (sramAt 0 64) 64) && tRun (exec (.qpacki 0 5 (.g 0)) s) fun t => t.mem != s.mem && t.mem.wf),
    (tIn (tVmem 0 []) fun x => { x with h := [(0, 0x700)] }, .qpackE4m3 0 5 .zero, [0], fun s => tFault (.qpackE4m3 0 5 .zero) s 0x14),
    (tVmem 0 [], .qpackE3m2 0 6 .zero, [0], fun s => tFault (.qpackE3m2 0 6 .zero) s 7), (tVmem 0 [(0, 32)], .qpackE2m1 0 5 (.g 0), [32], fun s => tFault (.qpackE2m1 0 5 (.g 0)) s 0x0B)] : List tWitness),
    Issues w.1 w.2.1 w.2.2.1 w.1 ∧ w.2.2.2 w.1 = true) ∧ (tVmem 0 [(0, 64)]).VecsPlain ∧ (((tVmem 0 [(0, 64)]).view 0).ctx 0).pendFor (.h 0) = none :=
  ⟨tAll_spec (by decide +kernel), tPlain (by decide +kernel), by decide +kernel⟩

/-! ### Queues, matrix commands, permutations and QMAXX (03, 10, 11) -/

def tQ (s : State) (f : CoreQueues → CoreQueues) : State := s.modCore 0 fun k => { k with q := f k.q }
/-- MOV of g0 to a queue register. -/
def tPush (v : Word) (q : Fin 8) (s : State) (p : Instr → State → Bool) : tWitness :=
  (s.modCore 0 fun k => { k with file := Tab.put k.file 0 v }, .mov (.q q) (.g 0), [v], fun s => destination (.mov (.q q) (.g 0)) == some (.q q) &&
    scalarEval (.mov (.q q) (.g 0)) [v] == some v && p (.mov (.q q) (.g 0)) s)
/-- An MMA of 8 rows of FP8 by 8 on tile 2 (11 R257): operands in scratchpads through g4 and g6, or in v0 and v4; a ZERO of tile 1. -/
def tMma (pads : Bool) : Nat := 2 * 2 ^ 59 + 3 * 2 ^ 48 + 3 * 2 ^ 46 + (if pads then 3 * 2 ^ 50 + 4 * 2 ^ 27 + 6 * 2 ^ 19 else 4 * 2 ^ 19)
def tZero : Nat := 2 * 2 ^ 61 + 2 ^ 59
def tMatrix : State := (tState [(5, 1), (7, 1)]).modCore 0 fun k => { k with regs := { w := [(0, { idx := [1, 0], n := 2, valid := true }), (1, { loading := true })] } }
/-- The core's thread is of class 0 and does not own the core. -/
def tClass0 (s : State) : State := { s.modCore 0 (fun k => { k with csr := {} }) with dies := [(0, { sched := { class0 := some 1 } })] }
def tMeq (n : Nat) (s : State) : State := tQ s fun q => { q with meq := List.replicate n {} }
theorem meets_QueuePushes : ∀ w ∈ ([
    tPush (2 ^ 48) 6 (tState []) fun i s => tFault i s 0x14, tPush 32 6 (tState []) fun i s => tFault i s 0x14,
    tPush (2 ^ 48 - 64) 6 (tQ (tState []) fun q => { q with tkq := List.replicate 7 (0, 1, 1, 0) }) fun i s => tRun (exec i s) fun t => (t.core 0).q.tkq.getLast? == some (2 ^ 48 - 64, 1, 1, 5) && t.net == [.tkqAccept 0],
    tPush 64 6 (tQ (tState []) fun q => { q with tkq := List.replicate 8 (0, 1, 1, 0) }) fun i s => tParks i s (.room 6),
    tPush 5 3 (tQ (tState []) fun q => { q with chq := List.replicate 3 {} }) fun i s => tRun (exec i s) fun t => (t.core 0).q.chq.length == 4 && t.me.cmds == [1],
    tPush 5 3 (tQ (tState []) fun q => { q with chq := List.replicate 4 {} }) fun i s => tParks i s (.room 3),
    tPush (BitVec.ofNat 64 tZero) 0 (tAnswered (tState [])) fun i s => tGoes i s 1 2 1,
    tPush (BitVec.ofNat 64 tZero) 0 (tMeq 7 (tState [])) fun i s => tRun (exec i s) fun t => ((t.core 0).q.meq.map fun o => (o.kind, o.tile)).getLast? == some (.zero, 1) && t.me.cmds == [1],
    tPush (BitVec.ofNat 64 tZero) 0 (tMeq 8 (tState [])) fun i s => tParks i s (.room 0), tPush (BitVec.ofNat 64 (3 * 2 ^ 61)) 0 (tState []) fun i s => cmdBreaks (3 * 2 ^ 61) && tFault i s 0x14,
    tPush (BitVec.ofNat 64 (tMma true + 2 ^ 36)) 0 (tClass0 tMatrix) fun i s => tFault i s 2,
    tPush (BitVec.ofNat 64 (tMma true + 12 * 2 ^ 27)) 0 tMatrix fun i s => cmdWindow s.me (tMma true + 12 * 2 ^ 27) == some 16 && tFault i s 3,
    tPush (BitVec.ofNat 64 (tMma true)) 0 (tState []) fun i s => tFault i s 0x14,
    tPush (BitVec.ofNat 64 (tMma true)) 0 (tMeq 7 tMatrix) fun i s => tGoes i s 1 2 1 && tRun (exec i s) fun t => ((t.core 0).q.meq.map fun o => (o.kind, o.tile, o.staged, o.aPair)).getLast? == some (.mma, 2, false, (0, 1)),
    tPush (BitVec.ofNat 64 (tMma true + 2 ^ 36)) 0 tMatrix fun i s => tGoes i s 1 2 1 && tRun (exec i s) fun t => ((t.core 0).q.meq.map EngOp.perm).getLast? == some [1, 0],
    tPush (BitVec.ofNat 64 (tMma true)) 0 (tMeq 8 tMatrix) fun i s => tParks i s (.room 0),
    tPush (BitVec.ofNat 64 (tMma false + 2 ^ 61)) 0 tMatrix fun i s => tParks i s .engine && tRun (exec i s) fun t => (t.core 0).q.meq.map EngOp.kind == [.mmac] && t.me.phase == 1] : List tWitness),
    Issues w.1 w.2.1 w.2.2.1 w.1 ∧ w.2.2.2 w.1 = true := tAll_spec (by decide +kernel)

/-- Rows 127 and 128; MEQ with 7 and 8 entries; resumed. A drain's doubles in g4 and g5: to core 8 at offset 128. -/
def tDrain (d0 d1 : Nat) (n : Nat) : State := tMeq n ((tMatrix).modCore 0 fun k => { k with file := [(4, BitVec.ofNat 64 d0), (5, BitVec.ofNat 64 d1)] })
theorem meets_AccumulatorMoves : (∀ w ∈ ([
    (tIn (tState []) fun x => { x with phase := 2, latch := [(163, 9)] }, .accld 1 1 .zero, [0], fun s => tRun (exec (.accld 1 1 .zero) s) fun t => tLane 64 7 15 t == 9 && t.me.latch == []),
    (tState [(0, 128)], .accld 1 1 (.g 0), [128], fun s => tFault (.accld 1 1 (.g 0)) s 0x14), (tMeq 8 (tState [(0, 127)]), .accld 1 1 (.g 0), [127], fun s => tParks (.accld 1 1 (.g 0)) s (.room 0)),
    (tMeq 7 (tState [(0, 127)]), .accld 1 1 (.g 0), [127], fun s => tParks (.accld 1 1 (.g 0)) s .engine && tRun (exec (.accld 1 1 (.g 0)) s) fun t =>
      ((t.core 0).q.meq.map fun o => (o.kind, o.tile, o.row, o.v)).getLast? == some (.accld, 1, 127, 4)),
    (tAnswered (tState []), .accst 0 0 .zero, [0], fun s => tGoes (.accst 0 0 .zero) s 1 2 1), (tState [(0, 128)], .accst 0 0 (.g 0), [128], fun s => tFault (.accst 0 0 (.g 0)) s 0x14),
    (tMeq 8 (tState []), .accst 0 0 .zero, [0], fun s => tParks (.accst 0 0 .zero) s (.room 0)),
    (tFloats, .accst 3 0 (.g 1), [5], fun s => tRun (exec (.accst 3 0 (.g 1)) s) fun t => ((t.core 0).q.meq.map fun o => (o.kind, o.tile, o.row, o.staged, o.aRegs.length)) == [(.accst, 3, 5, true, 4)]),
    (tDrain 8 128 7, .drain 3 4, [], fun s => tGoes (.drain 3 4) s 1 2 1 && tRun (exec (.drain 3 4) s) fun t => ((t.core 0).q.meq.map fun o => (o.kind, o.tile, o.d0, o.d1)).getLast? == some (.drain, 3, 8, 128)),
    (tDrain 8 128 8, .drain 3 4, [], fun s => tParks (.drain 3 4) s (.room 0)), (tDrain (2 ^ 37) 0 0, .drain 0 4, [], fun s => drainBreaks0 (2 ^ 37) && tFault (.drain 0 4) s 0x14),
    (tDrain 8 64 0, .drain 0 4, [], fun s => drainBreaks1 64 && tFault (.drain 0 4) s 0x14), (tDrain 128 0 0, .drain 0 4, [], fun s => tFault (.drain 0 4) s 6),
    (tClass0 (tDrain (2 ^ 32) 0 0), .drain 0 4, [], fun s => tFault (.drain 0 4) s 2), (tDrain (2 ^ 32) 0 0, .drain 0 4, [], fun s => tGoes (.drain 0 4) s 1 2 1)] : List tWitness),
    Issues w.1 w.2.1 w.2.2.1 w.1 ∧ w.2.2.2 w.1 = true) ∧ tFloats.VecsPlain := ⟨tAll_spec (by decide +kernel), tPlain (by decide +kernel)⟩

/-- w0 and w1 hold a permutation of 3 and its inverse, w2 one of 2; w4 is loading; w5 is not valid. -/
def tPerms (regs : List (Nat × Word)) : State := (tMem regs).modCore 0 fun k => { k with regs := { k.regs with
  w := [(0, { idx := [1, 2, 0], n := 3, valid := true }), (1, { idx := [2, 0, 1], n := 3, valid := true }), (2, { idx := [1, 0], n := 2, valid := true }), (4, { loading := true })] } }
def tSolve (i : Instr) (s : State) (idx : List Nat) : Bool := tParks i s .solve && tRun (exec i s) fun t => (t.core 0).units.solves.map Solve.idx == [idx] && t.net == [.hornbeamSolveStart 0]
theorem meets_PermutationsSolved : (∀ w ∈ ([
    (tPerms [], .pcomp 3 0 1, [], fun s => tSolve (.pcomp 3 0 1) s [0, 1, 2]), (tPerms [], .pcomp 3 0 2, [], fun s => tFault (.pcomp 3 0 2) s 0x14),
    (tPerms [], .pcomp 4 0 1, [], fun s => tParks (.pcomp 4 0 1) s (.loading 4)), (tAnswered (tPerms []), .pcomp 3 0 1, [], fun s => tGoes (.pcomp 3 0 1) s 1 2 1),
    (tPerms [], .pinv 3 0, [], fun s => tSolve (.pinv 3 0) s [2, 0, 1]),
    (tPerms [(4, 0), (5, 128)], .prand 3 4, [], fun s => tParks (.prand 3 4) s .solve), (tPerms [(5, 129)], .prand 3 4, [], fun s => tFault (.prand 3 4) s 0x14), (tPerms [], .prand 3 4, [], fun s => tFault (.prand 3 4) s 0x14),
    -- the worked line of R280: survivors in rows 1, 4 and 5 of 8
    (tIn (tPerms [(6, 8)]) fun x => { x with masks := [(2, 0x32)] }, .pcompact 1 2 (.g 6), [8], fun s => tSolve (.pcompact 1 2 (.g 6)) s [1, 4, 5, 0, 2, 3, 6, 7]),
    (tPerms [(6, 129)], .pcompact 1 2 (.g 6), [129], fun s => tFault (.pcompact 1 2 (.g 6)) s 0x14), (tPerms [], .pcompact 1 2 .zero, [0], fun s => tFault (.pcompact 1 2 .zero) s 0x14),
    (tAnswered (tPerms []), .pload 3 .zero, [0], fun s => tGoes (.pload 3 .zero) s 1 2 1), (tPerms [], .pload 3 .zero, [0], fun s => tFault (.pload 3 .zero) s 0x14),
    (tPerms [(0, 129 * 2 ^ 48)], .pload 3 (.g 0), [129 * 2 ^ 48], fun s => tFault (.pload 3 (.g 0)) s 0x14), (tPerms [(0, 2 ^ 56 + 2 ^ 48)], .pload 3 (.g 0), [2 ^ 56 + 2 ^ 48], fun s => tFault (.pload 3 (.g 0)) s 0x14),
    (tPerms [(0, 2 ^ 48)], .pload 4 (.g 0), [2 ^ 48], fun s => tParks (.pload 4 (.g 0)) s (.loading 4)), (tPerms [(0, 2 ^ 48 + 64)], .pload 3 (.g 0), [2 ^ 48 + 64], fun s => tFault (.pload 3 (.g 0)) s 0x0B),
    (tPerms [(0, 2 ^ 48 + 2 ^ 17)], .pload 3 (.g 0), [2 ^ 48 + 2 ^ 17], fun s => tParks (.pload 3 (.g 0)) s (.walk (2 ^ 17))),
    (tPerms [(0, 128 * 2 ^ 48 + 128)], .pload 3 (.g 0), [128 * 2 ^ 48 + 128], fun s => tMiss 65664 128 s && tParks (.pload 3 (.g 0)) s .vector && tNet (.pload 3 (.g 0)) s (.fillRequest 0 0 513)),
    (tIn (tPerms [(0, 3 * 2 ^ 48)]) fun x => { x with phase := 1, out := [{ seq := 1, kind := .bfld, returned := true, acc := 0x000102, mask := 3 }] }, .pload 3 (.g 0), [3 * 2 ^ 48], fun s => tSolve (.pload 3 (.g 0)) s [2, 1, 0]),
    (tIn (tPerms [(0, 3 * 2 ^ 48)]) fun x => { x with phase := 1, out := [{ seq := 1, kind := .bfld, returned := true, acc := 0x000202, mask := 3 }] }, .pload 3 (.g 0), [3 * 2 ^ 48], fun s => tFault (.pload 3 (.g 0)) s 0x13),
    -- PIDX and PCYC
    (tPerms [(0, 2)], .pidx 0 (.g 0), [2], fun s => tRun (exec (.pidx 0 (.g 0)) s) fun t => Tab.getD (t.ctx 0 0).latch 100 9 == 0 && (t.ctx 0 0).phase == 1), (tPerms [(0, 3)], .pidx 0 (.g 0), [3], fun s => tFault (.pidx 0 (.g 0)) s 0x14),
    (tIn (tPerms [(0, 2)]) fun x => { x with phase := 1, latch := [(100, 7)] }, .pidx 0 (.g 0), [2], fun s => tRun (exec (.pidx 0 (.g 0)) s) fun t => tReg 0 t == 7),
    (tPerms [], .pcyc 0 .cycles (.h 0), [], fun s => tRun (exec (.pcyc 0 .cycles (.h 0)) s) fun t => Tab.getD (t.ctx 0 0).latch 100 0 == 1), (tPerms [], .pcyc 0 .fixed (.h 0), [], fun s => tRun (exec (.pcyc 0 .fixed (.h 0)) s) fun t => Tab.getD (t.ctx 0 0).latch 100 9 == 0),
    (tPerms [], .pcyc 0 .longest (.h 0), [], fun s => tRun (exec (.pcyc 0 .longest (.h 0)) s) fun t => Tab.getD (t.ctx 0 0).latch 100 0 == 3), (tPerms [], .pcyc 2 .order (.h 0), [], fun s => tRun (exec (.pcyc 2 .order (.h 0)) s) fun t => Tab.getD (t.ctx 0 0).latch 100 0 == 2),
    (tPerms [(0, 1)], .pcyc 2 .through (.g 0), [1], fun s => tRun (exec (.pcyc 2 .through (.g 0)) s) fun t => Tab.getD (t.ctx 0 0).latch 100 0 == 2),
    -- PSTORE
    (tPerms [(0, 128)], .pstore 0 (.g 0), [128], fun s => tMiss 65664 128 s && tGoes (.pstore 0 (.g 0)) s 1 2 1 && tNet (.pstore 0 (.g 0)) s (.ownershipRequest 0 0 513)), (tPerms [], .pstore 4 .zero, [0], fun s => tParks (.pstore 4 .zero) s (.loading 4)),
    (tPerms [], .pstore 5 .zero, [0], fun s => tFault (.pstore 5 .zero) s 0x12), (tPerms [(0, 2 ^ 48)], .pstore 0 (.g 0), [2 ^ 48], fun s => tFault (.pstore 0 (.g 0)) s 0x14),
    (tPerms [(0, 2 ^ 17)], .pstore 0 (.g 0), [2 ^ 17], fun s => tParks (.pstore 0 (.g 0)) s (.walk (2 ^ 17))), (tPerms [(0, 65536)], .pstore 0 (.g 0), [65536], fun s => tFault (.pstore 0 (.g 0)) s 12)] : List tWitness),
    Issues w.1 w.2.1 w.2.2.1 w.1 ∧ w.2.2.2 w.1 = true) ∧ ReadsW (tPerms []) 0 [1, 2, 0] ∧ ReadsW (tPerms []) 1 [2, 0, 1] ∧ IsPerm [1, 2, 0] ∧ CycleLen [1, 2, 0] 0 3 :=
  ⟨tAll_spec (by decide +kernel), ⟨by decide, by decide, by decide⟩, ⟨by decide, by decide, by decide⟩, ⟨by decide, by decide⟩, by decide, by decide, by decide⟩
/-- Hornbeam free with a vector waiting, busy, and at the end of a solve. -/
def tHorn (busy : Option Nat) : State := { (tIn (tPerms []) fun x => { x with status := .parked .solve }).modCore 0 fun k => { k with units := { solves := [{ wd := 3, idx := [1, 0], slot := 0 }] } } with
  hedges := [(0, { horn := busy })] }
theorem meets_PermutationsSolved_hornbeam : ((tHorn none).hedge 0).horn = none ∧ (tHorn none).nextSolver 0 = some 0 ∧ (tRun (exec (.hornbeamSolveStart 0) (tHorn none)) fun t => (t.hedge 0).horn == some 0 && t.timers == [(300, .hornbeamSolveComplete 0)]) ∧
    ((tHorn (some 0)).hedge 0).horn ≠ none ∧ (tRun (exec (.hornbeamSolveStart 0) (tHorn (some 0))) fun t => t == tHorn (some 0)) ∧
    ((tHorn (some 0)).core 0).units.solves = [{ wd := 3, idx := [1, 0], slot := 0 }] ∧ ((tHorn (some 0)).ctx 0 0).status = .parked .solve ∧
    (tRun (exec (.hornbeamSolveComplete 0) (tHorn (some 0))) fun t => (t.ctx 0 0).status == .ready && (Tab.getD (t.core 0).regs.w 3 {}).valid && (t.hedge 0).horn == none) := by decide +kernel

/-- Keys of groups 5 and 6, and with a reserved bit; a result; a wait; a round that is gone; a new contribution of the pair of cores 0 and 8. -/
def tRounds (l : List Round) (s : State) : State := s.modCore 0 fun k => { k with units := { k.units with rounds := l } }
def tKey (g : Nat) : Word := BitVec.ofNat 64 (7 * 2 ^ 40 + g * 2 ^ 32 + 0x40000000)
theorem meets_MaximaExchanged : ∀ w ∈ ([
    (tState [(0, tKey 6)], .qmaxx (.g 2) (.g 0), [tKey 6], fun s => tFault (.qmaxx (.g 2) (.g 0)) s 0x14), (tState [(0, 2 ^ 35)], .qmaxx (.g 2) (.g 0), [2 ^ 35], fun s => tFault (.qmaxx (.g 2) (.g 0)) s 0x14),
    (tRounds [{ asid := 1, g := 5, tag := 7, slot := some 0, result := some 9 }] (tIn (tState [(0, tKey 5)]) fun x => { x with phase := 1 }), .qmaxx (.g 2) (.g 0), [tKey 5], fun s =>
      tRun (exec (.qmaxx (.g 2) (.g 0)) s) fun t => tReg 2 t == 9 && (t.core 0).units.rounds == []),
    (tRounds [{ asid := 1, g := 5, tag := 7, slot := some 0 }] (tIn (tState [(0, tKey 5)]) fun x => { x with phase := 1 }), .qmaxx (.g 2) (.g 0), [tKey 5], fun s => tParks (.qmaxx (.g 2) (.g 0)) s (.round 5 7)),
    (tRounds [{ asid := 1, g := 5, tag := 7, slot := some 0, failed := some (0x17, 9) }] (tIn (tState [(0, tKey 5)]) fun x => { x with phase := 1 }), .qmaxx (.g 2) (.g 0), [tKey 5], fun s =>
      tFault (.qmaxx (.g 2) (.g 0)) s 0x17),
    (tIn (tState [(0, tKey 5)]) fun x => { x with phase := 1 }, .qmaxx (.g 2) (.g 0), [tKey 5], fun s => tFault (.qmaxx (.g 2) (.g 0)) s 0x15),
    (tState [(0, tKey 1)], .qmaxx (.g 2) (.g 0), [tKey 1], fun s => groupMembers (s.logical 0) 1 == [0, 8] && (groupMembers (s.logical 0) 1).all (fun m => (s.rename m).st == 0) && (s.core 0).openRounds == [] &&
      tParks (.qmaxx (.g 2) (.g 0)) s (.round 1 7) && tNet (.qmaxx (.g 2) (.g 0)) s (.qmaxxContribution 8 1 1 7 0 0x40000000 false) &&
      tRun (exec (.qmaxx (.g 2) (.g 0)) s) fun t => t.timers == [(65536, .qmaxxTimeout 0 1 1 7)])] : List tWitness), Issues w.1 w.2.1 w.2.2.1 w.1 ∧ w.2.2.2 w.1 = true := tAll_spec (by decide +kernel)
/-- A contribution that is dropped, that opens a round, that is the pair's last; a timeout one cycle early, of a round with no thread, and of one with a thread. -/
def tPair (slot : Option Nat) (n : Nat) : State := { tRounds [{ asid := 1, g := 1, tag := 7, got := [(0, 5)], slot := slot, contributed := slot.isSome }] (tIn (tState []) fun x => { x with status := .parked (.round 1 7) }) with now := n }
theorem meets_MaximaExchanged_gathered :
    (let s := (tState []).modCore 0 fun k => { k with units := { k.units with dropped := [(1, 1, 7)] } }
     s.openSnap = none ∧ (1, 1, 7) ∈ (s.core (s.phys 0)).units.dropped ∧ tRun (exec (.qmaxxContribution 0 1 1 7 8 9 false) s) fun t => t.cores == s.cores) ∧
    (let s := tState []
     s.openSnap = none ∧ (s.core 0).units.heldRounds = [] ∧ (s.core 0).openRounds = [] ∧ tRun (exec (.qmaxxContribution 0 1 1 7 8 9 false) s) fun t => (t.core 0).units.rounds.map Round.got == [[(8, 9)]]) ∧
    (let s := tPair (some 0) 0
     (s.core 0).units.rounds = [] ++ [{ asid := 1, g := 1, tag := 7, got := [(0, 5)], slot := some 0, contributed := true }] ∧ (∀ e ∈ [(0, 5)], e.1 ≠ 8) ∧ (s.ctx 0 0).status = .parked (.round 1 7) ∧
      tRun (exec (.qmaxxContribution 0 1 1 7 8 9 false) s) fun t => (t.core 0).units.rounds.map Round.result == [some 9] && (t.ctx 0 0).status == .ready) ∧
    (tRun (exec (.qmaxxTimeout 0 1 1 7) (tPair none 65535)) fun t => t == tPair none 65535) ∧
    (((tPair none 65536).core 0).openRounds.find? (fun r => r.keyed 1 1 7 && r.opened + 65536 ≤ 65536)).isSome ∧
    (tRun (exec (.qmaxxTimeout 0 1 1 7) (tPair none 65536)) fun t => (t.core 0).units.rounds == [] && (t.core 0).units.dropped == [(1, 1, 7)]) ∧
    (tRun (exec (.qmaxxTimeout 0 1 1 7) (tPair (some 0) 65536)) fun t => (t.ctx 0 0).status == .frozen && (t.ctx 0 0).fcode == 0x15) ∧
    -- a thread that is saved reports it when it issues again; a contribution for a core that is sealed
    (tRun (exec (.qmaxxTimeout 0 1 1 7) (tPair (some 64) 65536)) fun t => (t.core 0).units.rounds.map Round.failed == [some (0x15, 2 ^ 48 + 7 * 2 ^ 40 + 2 ^ 32)]) ∧
    (let s : State := { tState [] with dies := [(0, { rename := [(1, { st := 1, phys := 1 })] })] }
     s.dropsFor 0 1 = false ∧ (s.rename 8).st = 1 ∧ tRun (exec (.qmaxxContribution 8 1 1 7 0 9 false) s) fun t => t.net == [.errorMessageArrival (.qmaxx 0 1 1 7 8)]) := by decide +kernel

/-! ### Threads that travel (02) -/

/-- Of each clause of a statement about an event: its hypotheses at a state, and what the event then does. -/
def tMet (clauses : List (List Bool)) : Bool := clauses.all fun c => c.all id

theorem tReaches_spec {s : State} {dst asid : Nat} (h : (s.openSnap.isNone && !s.dropsFor (dieOf dst) asid && (s.rename dst).st == 0 && !(s.core (s.phys dst)).csr.stopped) = true) :
    Reaches s dst asid := by
  simp only [Bool.and_eq_true, Option.isNone_iff_eq_none, Bool.not_eq_true', beq_iff_eq] at h
  exact ⟨h.1.1.1, h.1.1.2, h.1.2, h.2⟩
def tTravel : Travel := {
  pt := 5, asid := 1, dest := 515, j := none, origin := 8, link := 7, live := 1, full := 0xFFFF, maskLive := 1, kind := 0, cls := 1, redun := false,
  rolled := false, regs := [(0, 42)], masks := [(1, 3)], cut := false, tid := 512, parent := none }
/-- The thread of core 0 departs for block 3, which core 8 holds; a message of it at no core; a die that names the holder of block 3. -/
def tDeparting : State := tIn (tBlocks [(0, 42)]) fun x => { x with status := .parked (.depart 1538 0 none) }
def tDir (l : List DirBlock) : State := { tBlocks [] with dies := [(0, { blocks := l })] }
theorem meets_ThreadsDepart_leaves : (tDeparting.ctx 0 0).status = .parked (.depart 1538 0 none) ∧ (tDeparting.ctx 0 0).pipe = [] ∧ (tDeparting.ctx 0 0).out = [] ∧
    (tDeparting.ctx 0 0).pair = none ∧ (tDeparting.ctx 0 0).gang = [] ∧ (tDeparting.core 0).placedBlock 1 3 = none ∧
    (tDeparting.core 0).mapEntry 1 3 = some { asid := 1, blk := 3, descs := [2], nholders := 1, holders := [8] } ∧ entryAt [2] 2 = some 2 ∧ tDeparting.packParity 0 0 2 = none ∧
    MapEntry.choose { asid := 1, blk := 3, descs := [2], nholders := 1, holders := [8] } (tDeparting.tid 0 0) = some 8 ∧ chipOf 8 = tDeparting.chip 1 ∧ (tDeparting.core 0).NoneWaits ∧
    (tRun (exec (.threadDeparture 0 0) tDeparting) fun t => t.ctx 0 0 == {} && match t.net with | [.travelMessageArrival 8 m] => m.dest == 1538 && m.kind == 0 | _ => false) = true ∧
    -- its block has come to be held here
    (let s := tIn (tBlocks []) fun x => { x with status := .parked (.depart 1025 0 none) }
     ((s.core 0).placedBlock 1 (1025 / 512)).isSome ∧ (tRun (exec (.threadDeparture 0 0) s) fun t => (t.ctx 0 0).status == .ready && t.net == []) = true) :=
  ⟨by decide +kernel, by decide +kernel, by decide +kernel, by decide +kernel, by decide +kernel, by decide +kernel, by decide +kernel, by decide +kernel, by decide +kernel, by decide +kernel,
   by decide +kernel, ⟨by decide +kernel, by decide +kernel, by decide +kernel, by decide +kernel, by decide +kernel⟩, by decide +kernel, by decide +kernel⟩
/-- The entry that the message is to, with g0 and m1 live; a holder's removal that waits for its acknowledgements. -/
def tBlock3 : DirBlock := { asid := 1, blk := 3, holders := [8], descs := [2 + 2 ^ 16 + 2 ^ 9] }
def tRemoval (acked : Nat) : State := { tBlocks [] with dies := [(0, { blocks := [tBlock3], removals := [{ asid := 1, blk := 3, holder := 8, sent := 2, acked := acked }] })] }
theorem meets_ThreadsDepart : tMet [
    (let s := tDir [tBlock3]
     let m := { tTravel with dest := 1538, cut := true }
     [(s.rename m.origin).st = 0, m.back = none, s.openSnap = none, s.dropsFor 0 1 = false, m.kind = 0, m.parent = none, m.j = none, s.phys 8 = 8,
      s.dirBlock (dieOf 8) 1 (1538 / 512) = some tBlock3, entryAt tBlock3.descs (1538 % 512) = some (2 + 2 ^ 16 + 2 ^ 9), chipOf 8 = s.chip 1, (s.rename 8).st = 0,
      tRun (exec (.returnedTravelMessage m) s) (fun t => t.net == [.travelMessageArrival 8 { tTravel with dest := 1538 }]),
      tRun (exec (.blockDirectoryReadReturn 8 1 3 (some m)) s) fun t => t.net == [.travelMessageArrival 8 { tTravel with dest := 1538 }]]),
    (let s := tDir []
     [s.openSnap = none, s.dropsFor 0 1 = false, s.dirBlock (dieOf 8) 1 (1538 / 512) = none,
      tRun (exec (.returnedTravelMessage { tTravel with dest := 1538 }) s) fun t => (t.die 0).hold == [{ tTravel with dest := 1538 }] && t.host.signals == [(1, 1, 3)]]),
    (let s := { tBlocks [] with dies := [(0, { rename := [(2, { st := 1, phys := 2 })] })] }
     let m := { tTravel with dest := 1538, back := some 16 }
     [(s.rename m.origin).st = 0, s.openSnap = none, s.dropsFor 0 1 = false, chipOf 16 = s.chip 1, (s.rename 16).st = 1, (s.core 8).work.spill.full = false, s.diverted 8 = [],
      tRun (exec (.returnedTravelMessage m) s) fun t => (t.core 8).work.spill.entries.map (fun q => (q.returned, q.body)) == [(true, .travel m)] && t.net == []]),
    (let s := tIn (tDir [{ asid := 1, blk := 9, holders := [8], descs := [2] }]) fun x => { x with status := .parked (.blockMap 9) }
     [(s.ctx 0 0).status = .parked (.blockMap 9), (s.ctx 0 0).asid = 1,
      tRun (exec (.blockDirectoryReadReturn 0 1 9 none) s) fun t => (t.ctx 0 0).status == .ready && ((t.core 0).mapEntry 1 9).isSome]),
    ([((tBlocks []).core 0).mapEntry 1 2 ≠ none, (∀ e ∈ (tBlocks []).dies, e.2.removals = []),
      tRun (exec (.blockMapInvalidation 0 1 2) (tBlocks [])) fun t => ((t.core 0).mapEntry 1 2).isNone && ((t.core 0).mapEntry 1 3).isSome]),
    ([0, 1].flatMap fun n =>
     let s := tRemoval n
     [(s.dies.map Prod.fst).Nodup, (s.die 0).removals = [{ asid := 1, blk := 3, holder := 8, sent := 2, acked := n }], n < 2, (s.core (s.phys 8)).placedBlock 1 3 = none,
      tRun (exec (.blockMapInvalidation 0 1 3) s) fun t => (t.die 0).removals.map Removal.acked == (if n = 0 then [1] else []) &&
        (n == 0 || t.dies.all fun e => e.2.blocks.all fun b => !b.holders.contains 8)]),
    ([((tBlocks []).core 0).mapEntry 1 3 = some { asid := 1, blk := 3, descs := [2], nholders := 1, holders := [8] },
      (tRun (exec (.freeContextHint 0 1 3 8 true) (tBlocks [])) fun t => (((t.core 0).mapEntry 1 3).map MapEntry.hints) == some [8]),
      tRun (exec (.freeContextHint 0 1 3 8 false) (tBlocks [])) fun t => (((t.core 0).mapEntry 1 3).map MapEntry.hints) == some []])] = true := by decide +kernel

/-- Core 0 with block 1 and no thread; with 63 threads; where no core holds the block; where the job's messages are discarded; a window of one and of two threads. -/
def tEmptyCore : State := (tBlocks []).modCore 0 fun k => { k with ctxs := [] }
def tFullCore : State := (tBlocks []).modCore 0 fun k => { k with ctxs := (List.range 63).map fun n => (n, { tCtx with win := {} }) }
def tGather (l : List Nat) : State := { (tBlocks []).modCore 0 (fun k => { k with
  ctxs := l.map (fun n => (n, { tCtx with status := .gathering, pc := { blk := 1, off := 3 } })), work := { k.work with gathers := [{ blk := 1, off := 3, asid := 1, cls := 1, close := 64, members := l }] } }) with now := 64 }
theorem meets_ThreadsArrive : Reaches tEmptyCore 0 1 ∧ tEmptyCore.Admits 0 tTravel ∧ Reaches tFullCore 0 1 ∧ tFullCore.Admits 0 tTravel ∧ Reaches (tState []) 0 1 :=
  ⟨tReaches_spec (by decide +kernel), ⟨by decide +kernel, by decide +kernel, by decide +kernel, by decide +kernel, .inl (by decide +kernel)⟩, tReaches_spec (by decide +kernel),
   ⟨by decide +kernel, by decide +kernel, by decide +kernel, by decide +kernel, .inl (by decide +kernel)⟩, tReaches_spec (by decide +kernel)⟩
theorem meets_ThreadsArrive_runs : tMet [
    (let s := tEmptyCore
     let p : Placed := { asid := 1, blk := 1, count := 4, mainCode := 1, vecCode := 2, descs := [0, 3] }
     [(s.core 0).placedBlock 1 1 = some p, entryAt p.descs 3 = some 3, (s.core 0).freeSlot none = some 0, ((s.core 0).newWindow p 0).isSome, (s.core 0).work.gathers = [],
      tRun (exec (.travelMessageArrival 0 tTravel) s) fun t => (t.ctx 0 0).status == .gathering && (t.ctx 0 0).pc == { blk := 1, off := 3 } && t.timers == [(64, .gatheringWindowClose 0 1 3 1 1)]]),
    (let s := tFullCore
     [(s.core 0).freeSlot none = none, (s.core 0).work.spill.full = false, (s.die 0).overflow.all = [],
      tRun (exec (.stolenChildArrival 0 tTravel) s) fun t => (t.core 0).work.spill.entries.length == 1 && (t.core 0).ctxs == (s.core 0).ctxs]),
    (let s := tState []
     [chipOf 8 = s.chip 1, (s.rename 8).st = 0, s.dropsFor 0 1 = false, (s.core (s.phys 0)).placedBlock 1 1 = none,
      tRun (exec (.travelMessageArrival 0 tTravel) s) fun t => t == { s with net := [.returnedTravelMessage tTravel] }]),
    (let s := { tState [] with dies := [(0, { rename := [(0, { st := 1, phys := 0 })] })] }
     [(s.rename 0).st = 1, chipOf 8 = s.chip 1, (s.rename 8).st = 0, s.dropsFor 0 1 = false,
      tRun (exec (.travelMessageArrival 0 tTravel) s) fun t => t == { s with net := [.returnedTravelMessage { tTravel with back := some 0 }] }]),
    (let s := { tState [] with jobs := [{ num := 1, asids := [1], discarding := [0] }] }
     [(s.jobOf 1).map Job.discarding = some [0], tRun (exec (.travelMessageArrival 0 tTravel) s) fun t => (t.jobOf 1).map Job.discarded == some 1 && t.cores == s.cores]),
    ([[2], [2, 0]].flatMap fun l =>
     let s := tGather l
     [(s.core 0).work.gathers = [{ blk := 1, off := 3, asid := 1, cls := 1, close := 64, members := l }], l.Nodup, (∀ n ∈ l, (s.ctx 0 n).status = .gathering ∧ (s.ctx 0 n).asid = 1 ∧ (s.ctx 0 n).cls = 1 ∧ (s.ctx 0 n).pc.blk = 1 ∧ (s.ctx 0 n).pc.off = 3 ∧ (s.ctx 0 n).issued = false), s.now = 64,
      tRun (exec (.gatheringWindowClose 0 1 3 1 1) s) fun t => (t.core 0).work.gathers == [] && l.all fun n => (t.ctx 0 n).status == .ready && (t.ctx 0 n).gang == if l.length == 1 then [] else [0, 2]])] = true := by decide +kernel

/-- Core 8's thread of slot 0 has sent a child to core 0, which holds its block and has no context free. Core 0 is a thief, with core 8's deque of one child. -/
def tChild : Travel := { tTravel with kind := 2, parent := some (8, 0) }
def tParent : State := { tFullCore with cores := tFullCore.cores ++ [(8, { ctxs := [(0, { tCtx with status := .parked .accept, phase := 1 })] })] }
def tThief : State := { tEmptyCore with cores := [(0, {}), (8, { work := { deque := [{ body := .travel tTravel, core := 8 }] } })], dies := [(0, { steal := [(0, 65541)] })] }
/-- Threads of class 0 in slot 0 and of class 1 in slots 2 and 5, the second parked at its engine command. -/
def tThree (pre : Bool) : State := (tBlocks [(0, 42)]).modCore 0 fun k => { k with ctxs := [(0, { tCtx with cls := 0 }), (2, tCtx), (5, { tCtx with status := .parked .engine, win := {} })], work := { preempted := pre } }
theorem meets_ChildrenAndPreemption : Reaches tParent 0 1 := tReaches_spec (by decide +kernel)
theorem meets_ChildrenAndPreemption_runs : tMet [
    (let s := tParent
     [((s.core 0).placedBlock 1 1).isSome, (s.core 0).work.deque.length < 64, (s.core 0).freeSlot none = none, (s.ctx 8 0).status = .parked .accept,
      Tab.get? (s.core 8).work.saved 0 = none,
      tRun (exec (.forkChildArrival 0 tChild) s) fun t => (t.core 0).work.deque.length == 1 && (t.ctx 8 0).status == .ready && (t.ctx 8 0).phase == 2]),
    (let s := tThief
     [(s.core 8).work.overflow.all = [], (QSlot.waits { body := .travel tTravel, core := 8 }) = some tTravel, (s.core 0).idle, s.inDomain 0 8 tTravel, s.jobStopped 1 = false,
      s.victims 0 = [] ++ 8 :: (s.victims 0).tail, (s.core 0).work.preempted = false, (s.core 0).csr.stopped = false, chipOf (s.coreId 1 0) = s.chip 1,
      tRun (exec (.steal 0 0) s) fun t => t.net == [.stolenChildArrival 0 { tTravel with kind := 4 }] && (t.core 8).work.deque == []]),
    (let s := { tThief with cores := [(0, {}), (8, {})] }
     [(∀ v ∈ s.victims 0, (s.core v).work.deque = [] ∧ (s.core v).work.overflow.all = []), s.ownerTakes 0 = s, tRun (exec (.steal 0 0) s) fun t => t == s]),
    (let s := (tBlocks []).modCore 0 fun k => { k with ctxs := [], work := { k.work with deque := [{ body := .travel { tTravel with dest := 512 } }] } }
     let w := s.ownerTakes 0
     [(w.core 0).work.deque = [], (w.ctx 0 0).status ≠ .free, tRun (exec (.steal 8 0) s) fun t => t == w]),
    (let s := tThree false
     [(s.core 0).work.preempted = false, (s.core 0).csr.stopped = false, (s.ctx 0 2).status ≠ .free, (s.ctx 0 2).cls ≠ 0,
      tRun (exec (.meshInterrupt 0) s) fun t => (t.core 0).work.preempted && t.net == [.contextSave 0 2, .contextSave 0 5]]),
    (let s := tThree true
     [(s.core 0).work.preempted = true, (s.core 0).q.meq = [], (s.ctx 0 5).status = .parked .engine, (s.ctx 0 5).cls ≠ 0,
      (tRun (exec (.contextSave 0 5) s) fun t => t.timers == [(8, .contextSave 0 5)]), (s.ctx 0 2).status = .ready, (s.ctx 0 2).pipe = [], (s.ctx 0 2).out = [], (s.core 0).badMain = [],
      (s.core 0).badVec = [], (s.ctx 0 2).gang = [],
      tRun (exec (.contextSave 0 2) s) fun t => t.ctx 0 2 == {} && (Tab.get? (t.core 0).work.saved 2).map (fun v => v.main.headD 0) == some 42])] = true := by decide +kernel

/-! ### Homes, translation, returns, messages and the porter -/

/-- The thread of core 0 has one load of one piece posted for line 512, whose home entry is given; it has one store posted for ownership. -/
def tPosted (a : Access) (e : HomeEntry) : State :=
  State.setEntry (tIn (tMapped (tState [])) fun x => { x with pipe := [a], out := if a.kind == .load then [{ seq := 1, left := 1 }] else [] }) e
def tLoad (pol : Nat) : Access := { seq := 1, line := 512, kind := .load, pol := pol, posted := true, asid := 1, segs := [(8, 16, 0)] }
def tStore : Access := { line := 512, kind := .store, posted := true, asid := 1, mask := 0xFF00, data := 0x4200 }
def tE (st : HomeState) (owner : Nat) : HomeEntry := { line := 512, st := st, owner := owner, wts := 3, rts := 9 }
theorem meets_HomesServe : tMet [
    ([0, 1, 2, 3].flatMap fun pol =>
     let s := { tPosted (tLoad pol) (tE .s 0) with mem := Memory.write [] 65536 8 0x8877665544332211 }
     [s.entry? 512 = some (tE .s 0), (s.ctx 0 0).pipe = [tLoad pol], (tLoad pol).posted, (s.ctx 0 0).out.length = 1, (s.core 0).cache = [], s.poison = [],
      [Instr.fillRequest 0 0 512, .leaseRenewal 0 0 512].all fun i => tRun (exec i s) fun t => t.net == [.loadReturn 0 0 1] && (t.ctx 0 0).out.map Pending.acc == [0x3322] &&
        (t.ctx 0 0).pt == 6 && (t.core 0).cache.length == (if pol < 2 then 1 else 0) && (t.entry? 512).map HomeEntry.rts == some (if pol < 2 then 1029 else 9)]),
    (let s := tPosted tStore (tE .s 0)
     [tStore.excl, isSramLine 512 = false, s.entry? 512 = some (tE .s 0), (s.hedge 0).victim = [],
      tRun (exec (.ownershipRequest 0 0 512) s) fun t => t.net == [.ownershipGrant 0 0 512] && (t.entry? 512).map HomeEntry.st == some .x]),
    (let s := tPosted tStore (tE .m 8)
     [s.entry? 512 = some (tE .m 8), tRun (exec (.ownershipRequest 0 0 512) s) fun t => t.net == [.recall 512 8] && t.timers == [(8, .ownershipRequest 0 0 512)]]),
    (let s := tPosted tStore (tE .x 0)
     [s.openSnap = none, s.entry? 512 = some (tE .x 0), s.mem.wf, s.dies = [], tStore.mask = (2 ^ (8 * 1) - 1) * 2 ^ (8 * 1), tStore.data = 0x42 * 2 ^ (8 * 1), (0x42 : Nat) < 2 ^ (8 * 1),
      tRun (exec (.ownershipGrant 0 0 512) s) fun t => t.mem == Memory.write [] 65537 1 0x42 && (t.entry? 512).map HomeEntry.st == some .m && (t.ctx 0 0).pt == 11 && (t.ctx 0 0).pipe == []]),
    ([LineState.x, .m].flatMap fun st =>
     let l : CacheLine := { line := 512, data := 5, wts := 3, rts := 9, st := st }
     let s := { (tState []).modCore 0 (fun k => { k with cache := [l] }) with hedges := [(0, { victim := [l] })] }
     [(s.core 0).cache.find? (fun e => e.line == 512) = some l, (s.hedge (2 ^ 20 - 2 ^ 20)).victim.find? (fun e => e.line == 512) = some l,
      [0, 2 ^ 20].all fun o => tRun (exec (.recall 512 o) s) fun t => t.net == [.recallReply 512 3 9 (if st == .m then some 5 else none) 0]]),
    (let s := State.setEntry (tState []) { (tE .m 8) with recalling := true }
     [s.entry? 512 = some { (tE .m 8) with recalling := true },
      [Instr.recallReply 512 10 4 (some 7) 0, .writeback 512 10 4 7 0 true].all fun i => tRun (exec i s) fun t => t.entry? 512 == some { (tE .s 8) with wts := 10 } && t.mem == Memory.write [] 65536 128 7,
      tRun (exec (.recallReply 512 10 4 none 0) s) fun t => t.mem == []]),
    (let a : Access := { (tLoad 3) with line := 0, owner := some 8, segs := [(0, 64, 0)] }
     let s := fun (id : Nat) => { (tIn (tState []) fun x => { x with pipe := [a], out := [{ seq := 1, left := 1 }] }) with cores := ((tIn (tState []) fun x =>
       { x with pipe := [a], out := [{ seq := 1, left := 1 }] }).cores ++ [(8, { csr := { shasid := id } })]) }
     let line := sramAt 8 (privateView ((s 1).core 8).csr.lsplit 1).1 / 128
     let u := { s 1 with mem := Memory.write [] (line * 128) 8 77, sramT := [(line, (20, 30))] }
     let far := tIn u fun x => { x with pipe := [{ a with line := 2 ^ 13 }] }
     let stopped := u.modCore 8 fun k => { k with csr := { k.csr with stopped := true } }
     [(u.ctx 0 0).pipe = [a], u.phys 8 = 8, (u.rename 8).st = 0, line ∉ u.pins, u.poison = [], (u.core 8).csr.stopped = false, u.splitWaits 8 = false, u.viewOpen 8 1 1,
      a.end_ ≤ (privateView (u.core 8).csr.lsplit 1).2, (privateView (u.core 8).csr.lsplit 1).2 < ({ a with line := 2 ^ 13 } : Access).end_,
      tRun (exec (.remotePrivateRequest 0 0) u) fun t => t.net == [.loadReturn 0 0 1] && (t.ctx 0 0).out.map Pending.acc == [77] && (t.ctx 0 0).pt == 21 && Tab.getD t.sramT line (0, 0) == (20, 30),
      (s 2).viewOpen 8 1 1 = false, tRun (exec (.remotePrivateRequest 0 0) (s 2)) fun t => (t.ctx 0 0).status == .frozen && (t.ctx 0 0).fcode % 256 == 0x02,
      tRun (exec (.remotePrivateRequest 0 0) far) fun t => (t.ctx 0 0).status == .frozen && (t.ctx 0 0).fcode % 256 == 0x08,
      (stopped.core 8).csr.stopped, tRun (exec (.remotePrivateRequest 0 0) stopped) fun t => t.net == [.errorMessageArrival (.access 0 0 8)]])] = true := by decide +kernel

/-- A root table at 2 MB, tables at 4 MB and 6 MB, and a leaf for page 3, their lines at their homes; the thread waits for that page. -/
def tTables (leaf : Nat) : State := [0x200000, 0x400000, 0x600000].foldl (fun s a => State.setEntry s { (tE .s 0) with line := a / 128 }) { (tIn (tState []) fun x =>
    { x with status := .parked (.walk (3 * 65536 + 8)) }) with
  dies := [(0, { asids := [(1, { root := 0x200000 })] })],
  mem := Memory.write (Memory.write (Memory.write [] 0x200000 8 (2 ^ 61 + 0x400000)) 0x400000 8 (2 ^ 61 + 0x600000)) (0x600000 + 24) 8 leaf }
theorem meets_TranslationSteps : tMet [
    ([2 ^ 61 + 65536 + 7, 0].flatMap fun leaf =>
     let s := tTables leaf
     let e0 := s.mem.read 0x200000 8
     let e1 := s.mem.read (e0 / 2 ^ 16 % 2 ^ 32 * 65536) 8
     let e2 := s.mem.read (e1 / 2 ^ 16 % 2 ^ 32 * 65536 + 8 * 3) 8
     [[0x200000, 0x400000, 0x600018].all fun a => !isSramLine (a / 128) && (s.entry? (a / 128)).map HomeEntry.st == some .s, s.net = [],
      e0 / 2 ^ 61 = 1, e1 / 2 ^ 61 = 1, e2 = leaf, e0 / 2 ^ 48 % 2 ^ 12 = 0, e1 / 2 ^ 4 % 2 ^ 12 = 0, s.poison = [], (s.cores.map Prod.fst).Nodup,
      tRun (exec (.pageWalkComplete 0 1 (3 * 65536)) s) fun t => if leaf == 0 then (t.ctx 0 0).status == .parked (.pageIn (3 * 65536 + 8)) && t.host.signals == [(6, 1, 3 * 65536)]
        else (t.ctx 0 0).status == .ready && (t.core 0).tlb.map TlbEntry.vpn == [3]]),
    ([tRun (exec (.tlbShootdown 0 1 65536 [0, 3]) (tState [])) fun t => t.net == [.shootdownAck 0 0 1 65536, .shootdownAck 0 3 1 65536] && (t.die 0).shoots.map Shoot.sent == [2]]),
    ([0, 1].flatMap fun acked =>
     let s := { tMapped (tState []) with dies := [(0, { shoots := [{ asid := 1, va := 65536, sent := 2, acked := acked }] })] }
     [s.usesPage 0 65536 = false, tRun (exec (.shootdownAck 0 0 1 65536) s) fun t => (t.core 0).tlb.map TlbEntry.vpn == [0] && (t.die 0).shoots.map Shoot.acked == if acked == 0 then [1] else []]),
    (let s := tPosted { tStore with va := 8 } (tE .s 0)
     [s.usesPage 0 0, tRun (exec (.shootdownAck 0 0 1 0) s) fun t => t.timers == [(8, .shootdownAck 0 0 1 0)]])] = true := by decide +kernel

def tResult (p : Pending) (st : Status) : State := (tIn (tState []) fun x => { x with status := st, out := [p] }).modCore 0 fun k => { k with empty := [2], vfile := [(8, 2 ^ 16 - 1)] }
theorem meets_ResultsReturn : tMet [
    ([Instr.loadReturn 0 0 1, .atomicReturn 0 0 1].flatMap fun i =>
     [tRun (exec i (tResult { seq := 1, dest := .g 2, bytes := 1, signed := true, acc := 0x80 } (.parked .marker))) fun t =>
        tReg 2 t == 0xFFFFFFFFFFFFFF80 && (t.core 0).empty == [] && (t.ctx 0 0).status == .ready && (t.ctx 0 0).out == [],
      tRun (exec i (tResult { seq := 1, dest := .g 2, bytes := 1, acc := 0x80 } .ready)) fun t => tReg 2 t == 0x80 && (t.ctx 0 0).out.map Pending.returned == [true],
      tRun (exec i (tResult { seq := 1, dest := .h 3, acc := 5 } .ready)) fun t => Tab.getD (t.ctx 0 0).h 3 0 == 5,
      tRun (exec i (tResult { seq := 1, dest := .k 15, acc := 5 } .ready)) fun t => Tab.getD (t.core 0).regs.k 15 0 == 5,
      (tCtx.win.vecBase + 8 = 8), tRun (exec i (tResult { seq := 1, dest := .v 8, bytes := 128, acc := 0x1200, mask := 0xFF00 } .ready)) fun t => Tab.getD (t.core 0).vfile 8 0 == 0x12FF])] = true := by
  decide +kernel

/-- A message to slot 0, register n of core 0; to its porter; to its queue. -/
def tMsg (slot n : Nat) (v : Word) : SendMsg := { unaddressed := false, tgt := BitVec.ofNat 64 (slot * 2 ^ 8 + n), v := v, tid := 512, asid := 1, cls := 1, ts := 50, cut := false }
/-- Block 1 fits the porter's windows. -/
def tServed : State := (tBlocks []).modCore 0 fun k => { k with work := { k.work with placed := [{ asid := 1, blk := 1, count := 4, mainCode := 1, vecCode := 1, descs := [0, 3] }] } }
def tSpilled (s : State) : State := tQ s fun q => { q with inq := List.replicate 16 (0, 0) }
theorem meets_MessagesDelivered_reach : Reaches (tState []) 0 1 ∧ Reaches tServed 0 1 := ⟨tReaches_spec (by decide +kernel), tReaches_spec (by decide +kernel)⟩
theorem meets_MessagesDelivered : tMet [
    ([(3, 0), (0, 16)].flatMap fun (slot, n) =>
     let s := tState []
     [sendCore (tMsg slot n 9) = 0, chipOf (512 / 64) = s.chip 1, slot = 0 ∨ (s.ctx 0 slot).status = .free, slot ≠ 0 ∨ (s.ctx 0 0).mainSize ≤ n,
      tRun (exec (.sendArrival (tMsg slot n 9)) s) fun t => t.net == [.returnedSend (tMsg slot n 9)]]),
    ([Status.ready, .parked (.full 15), .parked (.idle 99)].flatMap fun st =>
     let s := (tIn (tState []) fun x => { x with status := st }).modCore 0 fun k => { k with empty := [15] }
     [15 < (s.ctx 0 0).mainSize, tRun (exec (.sendArrival (tMsg 0 15 9)) s) fun t => tReg 15 t == 9 && (t.core 0).empty == [] && (t.ctx 0 0).status == .ready && (t.ctx 0 0).pt == 51]),
    ([(tServed.core 0).handlerOf (activeItem (tMsg 63 0 517)) = none, tRun (exec (.sendArrival (tMsg 63 0 517)) tServed) fun t => t.net == [.returnedSend (tMsg 63 0 517)],
      ((tServed.core 0).handlerOf (activeItem (tMsg 63 0 515))).isSome, tRun (exec (.sendArrival (tMsg 63 0 (515 + 2 ^ 34))) tServed) fun t =>
        t.net == [.porterHandlerStart 0] && (t.core 0).work.porterQ.map PorterItem.regs == [[(0, 2), (1, 512)]]]),
    (let s := (tIn (tState []) fun x => { x with status := .parked (.idle 99) })
     [(s.core 0).csr.shasid = 1, (s.core 0).q.inq.length < 16, tRun (exec (.senduArrival (tMsg 0 0 9)) s) fun t => (t.core 0).q.inq == [(9, 50)] && (t.ctx 0 0).status == .ready]),
    (let s := (tState []).modCore 0 fun k => { k with csr := { shasid := 2 } }
     [(s.core 0).csr.shasid ≠ 1, tRun (exec (.senduArrival (tMsg 0 0 9)) s) fun t => t.net == [.returnedSend (tMsg 0 0 9)]]),
    ([16 ≤ ((tSpilled (tState [])).core 0).q.inq.length, tRun (exec (.senduArrival (tMsg 0 0 9)) (tSpilled (tState []))) fun t => (t.core 0).work.spill.entries.map QSlot.body == [.send (tMsg 0 0 9)]]),
    ([(tState []).jobOf 1 = some { num := 1, asids := [1] }, (tState []).job 1 = (tState []).jobOf 1, tRun (exec (.returnedSend (tMsg 0 3 9)) (tState [])) fun t =>
        (t.jobOf 1).map (fun j => j.faults) == some [{ d0 := 2 ^ 60 + 2 ^ 30 + 512, d1 := 0, d2 := 3, d3 := 9 }]]),
    (let s := tIn (tState []) fun x => { x with status := .parked .accept, phase := 1 }
     let r : TrapRec := { tid := 0, asid := 1, cls := 1, next := 514, arg := 7 }
     [s.openSnap = none, (s.ctx 0 0).status = .parked .accept, tRun (exec (.trapRecordAccept 0 0 r) s) fun t => (t.ctx 0 0).status == .ready && (t.die 0).traps == [r],
      tRun (exec (.snapAnswer 0 0) s) fun t => (t.ctx 0 0).status == .ready && (t.ctx 0 0).phase == 2]),
    (let v : SavedCtx := { ctx := { tCtx with status := .saved, prior := some (.parked .limit) }, slot := 4, main := (List.range 16).map (BitVec.ofNat 64), empty := [3], vec := List.replicate 8 5 }
     let s := tPkg { csr := { shasid := 1 }, work := { preempted := true, saved := [(4, v)] } }
     [(s.core 0).work.saved = [(4, v)], (s.core 0).ctxs = [], v.main.length = 8 * (1 + 1), v.vec.length = 4 * 2,
      tRun (exec (.coreResume 0) s) fun t => (t.ctx 0 4).status == .parked .limit && (t.core 0).work.preempted == false && tReg 15 t == 15 && (t.core 0).empty == [3] && Tab.getD (t.core 0).vfile 7 0 == 5])] = true := by
  decide +kernel

/-- An active message and a landing packet for block 1, by entry offset and by entry index; a remote write of another chip. -/
def tActive : PorterItem := activeItem (tMsg 63 0 515)
def tLand (idx : Nat) : PorterItem := { tActive with off := idx, msg := none, land := some { core := 8, chan := 2, id := 5, pkt := 1 } }
def tWrite : PorterItem := { tActive with msg := none, wr := some { offset := 120, bytes := 8, value := 77, op := 0, h := 0 } }
def tPorter (i : PorterItem) : State := tServed.modCore 0 fun k => { k with work := { k.work with porterQ := [i, tActive] } }
theorem meets_PorterServes : tMet [
    (let s := tServed
     [tWrite.wr.isSome, ((s.core 0).handlerOf tActive).isSome, ((s.core 0).handlerOf (tLand 1)).isSome, (s.core 0).handlerOf (tLand 2) = none, chipOf 8 = s.chip 1, (s.core 0).csr.shasid = 1,
      [tWrite, tActive].all fun i => tRun (exec (.activeMessageArrival 0 i) s) fun t => (t.core 0).work.porterQ == [i] && t.net == [.porterHandlerStart 0],
      tRun (exec (.landingPacketArrival 0 (tLand 1)) s) fun t => (t.core 0).work.porterQ == [tLand 1] && t.net == [.porterHandlerStart 0],
      tRun (exec (.landingPacketArrival 0 (tLand 2)) s) fun t => t.net == [.copyPacketLanding 8 2 5 (1 + 2 ^ 32 * 3)],
      (s.core 0).handlerOf { tActive with off := 1 } = none, tRun (exec (.activeMessageArrival 0 { tActive with off := 1 }) s) fun t => t.net == [.returnedSend (tMsg 63 0 515)]]),
    (let s := { tServed with timers := [(9, .lsplit 0 1)] }
     [s.splitWaits 0, tRun (exec (.activeMessageArrival 0 tWrite) s) fun t => t.timers.contains (2 ^ 64, .activeMessageArrival 0 tWrite) && (t.core 0).work.porterQ == []]),
    (let m := { tMsg 0 15 9 with tid := 65536 * 64 }
     let s := tServed.modCore 0 fun k => { k with work := { k.work with porterQ := [carriedItem m] }, empty := [15] }
     [sendCore m = 0, chipOf (m.tid / 64) ≠ s.chip 1, s.splitWaits 0 = false, (carriedMsg (carriedItem m)).isSome, (s.core 0).work.porterQ = [carriedItem m], (s.ctx 0 0).pair = none, 15 < (s.ctx 0 0).mainSize,
      tRun (exec (.sendArrival m) tServed) fun t => (t.core 0).work.porterQ == [carriedItem m], tRun (exec (.senduArrival m) tServed) fun t => (t.core 0).work.porterQ == [carriedItem m],
      tRun (exec (.porterHandlerStart 0) s) fun t => tReg 15 t == 9 && (t.core 0).empty == [] && (t.ctx 0 0).pt == 51 && (t.core 0).work.porterQ == [] && t.net == [.porterHandlerStart 0]]),
    (let s := tServed.modCore 0 fun k => { k with csr := { k.csr with shasid := 2 } }
     [(s.core 0).csr.shasid ≠ 1, tRun (exec (.landingPacketArrival 0 (tLand 1)) s) fun t => t.net == [.copyPacketLanding 8 2 5 (1 + 2 ^ 32 * 3)]]),
    ([tActive, tLand 1].flatMap fun i =>
     let s := tPorter i
     [(s.core 0).work.porter = none, (s.core 0).work.porterQ = [i, tActive], s.jobStopped 1 = false, ((s.core 0).handlerOf i).map Prod.snd = some 3, (i.regs.map Prod.fst).Nodup, i.regs.all (fun r => r.1 < 32),
      tRun (exec (.porterHandlerStart 0) s) fun t => (t.ctx 0 63).status == .ready && (t.ctx 0 63).pc == { blk := 1, off := 3 } && (t.core 0).work.porter == some i && tReg 2017 t == 512]),
    (let s := tPorter tWrite
     let a := sramAt 0 ((privateView (s.core 0).csr.lsplit 1).1 + 120)
     [s.viewOpen 0 1 1, 120 + 8 ≤ (privateView (s.core 0).csr.lsplit 1).2, a % 128 + 8 ≤ 128, s.pins = [], s.openSnap = none, s.dies = [], s.mem.wf,
      tRun (exec (.porterHandlerStart 0) s) fun t => t.mem == Memory.write [] a 8 77 && (t.core 0).work.porterQ == [tActive] && t.net == [.porterHandlerStart 0] && t.outbox == []]),
    (let s := tPorter { tWrite with land := some { core := 65536 + 8, chan := 2, id := 5, pkt := 1 } }
     [chipOf (65536 + 8) ≠ s.chip 1, tRun (exec (.porterHandlerStart 0) s) fun t => t.outbox == [{ chip := 1, msg := .copyPacketLanding (s.phys (65536 + 8)) 2 5 1 }]])] = true := by decide +kernel

/-! ### The copy engine, the chain unit, the scheduler and the matrix engine -/

/-- The value and state of a read, and a property of them. -/
def tOk {α : Type} (r : Except (EStop × State) (α × Nat × State)) (p : α → Nat → State → Bool) : Bool := match r with | .ok (v, ts, z) => p v ts z | .error _ => false
/-- A transfer of 8 bytes within the core's scratchpad, from 120 to 64, with a record; its packet to a line of DRAM. -/
def tXfer (id : Nat) : CopyReq := { rq := [2 ^ 59 + 8, 120, 64, 0], src := (tRec 0 256 0 1 0).r, dst := (tRec 0 256 0 1 0).r, chan := 2, id := id, asid := 1, cls := 1, t0 := 20 }
def tPacket : Packet := { pkt := 3, line := 512, mask := 2 ^ 64 - 1, data := 77 }
def tFlying : State := State.setEntry ((tMem []).modCore 0 fun k => { k with units := { k.units with
  transfers := [{ req := tXfer 5, next := 1, row := 1, flying := [tPacket], tc := 4 }], cpdone := [(2, 5)] } }) (tE .s 0)
theorem meets_CopiesRun : tMet [
    ([([], []), ([2], []), ([], [sramAt 0 64 / 128])].flatMap fun (frozen, pins) =>
     let s := { (tMem []).modCore 0 fun k => { k with q := { k.q with cpq := [tXfer 5, tXfer 6] }, units := { k.units with frozen := frozen } } with pins := pins }
     [(s.core 0).q.cpq = [tXfer 5, tXfer 6], (s.core 0).units.transfers = [], s.jobStopped 1 = false, s.copyLines 0 (tXfer 5) = [sramAt 0 64 / 128], tRun (exec (.copyAccept 0) s) fun t =>
        if frozen == [] && pins == [] then (t.core 0).q.cpq == [tXfer 6] && (t.core 0).units.transfers.map Transfer.req == [tXfer 5] && t.pins == [sramAt 0 64 / 128] else t == s]),
    (let t : Transfer := { req := tXfer 5, tc := 20 }
     let s := (tMem []).modCore 0 fun k => { k with units := { k.units with transfers := [t] } }
     let s' := s.modCore 0 fun k => { k with units := { k.units with lastChan := 2 } }
     [(s.core 0).nextChan = some t, t.packet = (120, 64, 8), recBounds t.req.src = 0, rqHandler t.req.rq = 0,
      tOk (s'.readBytes 0 1 1 t.req.src 20 120 8) fun v _ z => v == 0x8877665544332211 && (match z.packetPlace 0 t.req 64 8 with
        | (.at_ a o, w) => a == sramAt 0 64 && o.isNone && isSramLine (a / 128) && w.pins == [] | _ => false),
      tRun (exec (.copyPacketStart 0) s) fun u => u.net == [.copyPacketLanding 0 2 5 0] && (u.core 0).units.transfers.map (fun t => t.flying.map Packet.data) == [[0x8877665544332211 * 2 ^ 512]]]),
    (let s := tFlying
     [(s.core 0).units.transfers.length = 1, s.dropsFor 0 1 = false, s.net = [], s.entry? 512 = some (tE .s 0), (s.core 0).q.evq = [], Tab.getD (s.core 0).units.cpdone 2 0 = 5, rqCount (tXfer 5).rq ≤ 1, rqEvent (tXfer 5).rq, isSramLine 512 = false,
      s.entry? 512 = some (tE .s 0), s.openSnap = none, s.dies = [], s.mem.wf, tPacket.mask = (2 ^ (8 * 8) - 1) * 2 ^ (8 * 0),
      tRun (exec (.copyPacketLanding 0 2 5 3) s) fun u => u.mem.read 65536 8 == 77 && (u.core 0).units.transfers == [] && Tab.getD (u.core 0).units.cpdone 2 0 == 6 && (u.core 0).q.evq == [(BitVec.ofNat 64 (2 ^ 59 + 5), 20)],
      tRun (exec (.copyPacketLanding 0 2 5 (3 + 2 ^ 32 * 3)) s) fun u => u.mem == s.mem && (u.core 0).q.evq == [(BitVec.ofNat 64 (2 ^ 59 + 3 * 2 ^ 48 + 5), 4)]]),
    (let s := (tMem []).modCore 0 fun k => { k with q := { k.q with cpq := [tXfer 5] }, units := { k.units with frozen := [2], cpdone := [(2, 5)] } }
     [(s.core 0).q.cpq.filter (fun e => e.chan == 2) = [tXfer 5], tRun (exec (.channelResume 0 2) s) fun u => (u.core 0).units.frozen == [] && u.net.contains (.copyAccept 0), tRun (exec (.channelFlush 0 1) s) fun u => u == s,
      tRun (exec (.channelFlush 0 2) s) fun u => (u.core 0).units.frozen == [] && (u.core 0).q.cpq == [] && (u.core 0).q.evq == [(BitVec.ofNat 64 (2 ^ 59 + 8 * 2 ^ 48 + 5), 20)]])] = true := by decide +kernel

/-- A chain of one ADD of 1.0 over 2 FP32 elements of the scratchpad, from bf1 at 120 to bf1 at 64, with a record; its descriptor at 128 of page 0, on the line of 65664. -/
def tDescriptor : ChainRun := { req := { id := 3, addr := 128, asid := 1, cls := 1, t0 := 20 }, tc := 20, d := [2 ^ 63 + 2 ^ 53 + 2 ^ 40 + 2, 120, 64, 0, 0, 0x3F800000, 0, 0, 0x0100, 0, 0, 0, 0, 0, 0, 0] }
def tChainRegs : CoreRegs := { bufs := [(1, { tRec 0 256 0 1 0 with r := (tRec 0 256 0 1 0).r + 0x10 * 2 ^ 168 })] }
def tChainMem : Memory := Memory.write (Memory.write [] 65664 128 ((tDescriptor.d.zipIdx.map fun e => e.1 * 2 ^ (64 * e.2)).sum)) (sramAt 0 120) 8 0xBF80000040000000
def tChain (addr : Nat) : State :=
  let s := (tMem []).modCore 0 fun k => { k with regs := tChainRegs, q := { k.q with chq := [{ tDescriptor.req with addr := addr }] } }
  State.setEntry { s with mem := tChainMem } { (tE .s 0) with line := 513 }
/-- The same command as it runs, after its first and second elements have been begun. -/
def tChaining (next : Nat) : State := (tIn (tChain 128) fun x => { x with cmds := [3] }).modCore 0 fun k =>
  { k with q := { k.q with chq := [] }, units := { k.units with chain := some { tDescriptor with next := next, src := (Tab.getD k.regs.bufs 1 {}).r, src2 := flatRecord, dst := (Tab.getD k.regs.bufs 1 {}).r } } }
theorem meets_ChainsRun : tMet [
    (let s := tChain 192
     [(s.core 0).q.chq.map ChainReq.addr = [192], (s.core 0).units.chain = none, (192 : Nat) % 128 ≠ 0, s.dropsFor 0 1 = false, (s.core 0).units.chains = [], s.jobStopped 1 = false, (s.core 0).q.evq = [],
      tRun (exec (.chainCommandAccept 0) s) fun u => (u.core 0).q.chq == [] && (u.core 0).q.evq == [(BitVec.ofNat 64 (2 ^ 60 + 9 * 2 ^ 48 + 192), 20)]]),
    ([((tChaining 0).core 0).units.chain.isSome, tRun (exec (.chainCommandAccept 0) ((tChaining 0).modCore 0 fun k => { k with q := { k.q with chq := [tDescriptor.req] } })) fun u => (u.core 0).q.chq == [tDescriptor.req]]),
    (let s := tChain 128
     let s' := s.modCore 0 fun k => { k with q := { k.q with chq := [] }, units := { k.units with chain := some { req := tDescriptor.req, tc := 20 } } }
     [tOk (s'.readVirtual 0 1 20 128 16) fun v ts z =>
        let r : ChainRun := { req := tDescriptor.req, tc := max 20 ts, d := (List.range 16).map fun i => v / 2 ^ (64 * i) % 2 ^ 64 }
        r.d == tDescriptor.d && !chBreaks r && (z.core 0).csr.shasid == 1 && (match z.chainRecords 0 r with
          | (some a, some b, some d, w) => !chStreamBreaks r a (chOffset r 1) && !chStreamBreaks r d (chOffset r 2) && !chTwo r && chD r 7 % 4 == 0 &&
            w.chainLines 0 { r with src := a, src2 := b, dst := d } == [sramAt 0 64 / 128] && w.pins == []
          | _ => false),
      tRun (exec (.chainCommandAccept 0) s) fun u => (u.core 0).units.chain.isSome && u.pins == [sramAt 0 64 / 128] && u.net.contains (.chainCommandComplete 0)]),
    ([1].flatMap fun next =>
     let s := tChaining next
     match (s.core 0).units.chain with
     | some r =>
       let x := s.chainRun 0 r { rec_ := r.src, off := chOffset r 1 } { rec_ := r.src2, off := chOffset r 3 } [] (chCount r - r.next)
       [r.wait = none, r.d ≠ [], r.next ≠ 0, x.stop = none, (match x.st.chainFlush 0 x.run with
         | (r', z) => r'.lines == [] && !chAmax r' && (z.ctx 0 0).cmds.contains r'.req.id && !z.dropsFor 0 1 && (z.core 0).q.evq == []),
        tRun (exec (.chainCommandComplete 0) s) fun u => (u.core 0).units.chain.isNone && u.me.cmds == [] && (u.core 0).q.evq.map Prod.fst == [BitVec.ofNat 64 (2 ^ 60 + 128)] && u.mem.read (sramAt 0 68) 4 == 0]
     | none => [false])] = true := by decide +kernel

/-- A tile record at 64 of page 0 with its descriptor at 128, on the lines of 65600 and 65664; its counter. -/
def tTask (d0 d1 : Nat) : Memory := Memory.write (Memory.write [] 65600 64 (d0 + d1 * 2 ^ 64 + 128 * 2 ^ 320)) 65664 64 (2 ^ 61 + 64 * 2 ^ 128 + 64 * 2 ^ 256)
def tSched (d0 d1 : Nat) (recs : List Rec) (f : Die → Die) : State :=
  State.setEntry (State.setEntry { tMapped (tState []) with now := 100, mem := tTask d0 d1, dies := [(0, f { recs := recs })] } { (tE .s 0) with line := 512 }) { (tE .s 0) with line := 513 }
def tPushed (s : State) : State := tQ s fun q => { q with tkq := [(64, 1, 1, 20)] }
def tName : Nat := 2 ^ 48 + 64
def tWaiting : Rec := { addr := tName, asid := 1, origAsid := 1, origCls := 1, cls := 1, since := 3, ts := 20 }
def tFullRing : Machine.Ring Nat := { entries := [7], log2cap := 0 }
theorem meets_TasksScheduled : tMet [
    (let s := tPushed (tSched (2 ^ 59 + 1) 0 [] id)
     [tOk (s.schedRead 0 1 20 64 1) fun v _ z => (z.die 0).queueOpen (tkClass v) && (z.die 0).recs == [] &&
        (let z1 := (z.modCore 0 fun k => { k with q := { k.q with tkq := [] } }).modDie 0 fun d => { d with recs := [{ tWaiting with since := z.now }] }
         tOk (z1.schedRead 0 1 20 64 8) fun v8 _ y => (y.die 0).recs == (z1.die 0).recs && v8 / 2 ^ (64 * 7 + 62) % 4 == 0 && v8 / 2 ^ 64 % 2 ^ 64 == 0 && (y.die 0).queueOpen 1),
      tRun (exec (.tkqAccept 0) s) fun u => (u.core 0).q.tkq == [] && ((u.die 0).taskRing 1).all == [tName] && (u.die 0).recs.map Rec.st == [.queued]]),
    (let s := tPushed (tSched (2 ^ 59 + 1) 0 [] fun d => { d with tasks := [(1, tFullRing)] })
     [tOk (s.schedRead 0 1 20 64 1) fun v _ z => !(z.die 0).queueOpen (tkClass v), tRun (exec (.tkqAccept 0) s) fun u => (u.core 0).q.tkq == [(64, 1, 1, 20)] && (u.die 0).recs == []]),
    (let s := tSched (2 ^ 59 + 1) 0 [tWaiting] id
     [s.record! 0 tName = some tWaiting, tWaiting.st = .waiting, tOk (s.schedRead 0 1 20 72 1) fun _ _ z => (z.die 0).recs == [tWaiting] && (z.die 0).queueOpen 1,
      tRun (exec (.counterZeroWake 0 tName) s) fun u => (u.die 0).recs.map Rec.st == [.queued] && ((u.die 0).taskRing 1).all == [tName] && u.timers.length == 1]),
    (let s := { tSched (2 ^ 59 + 1) 0 [{ tWaiting with st := .queued }] (fun d => { d with tasks := [(1, { entries := [tName] })] }) with hedges := [(3, { slots := [(0, 1)] })] }
     let r := { tWaiting with st := .queued }
     let s' := s.modDie 0 fun d => { d with lastSelect := s.now }
     [s.nextRec 0 = some r, (s.die 0).lastSelect + 16 ≤ s.now, tOk (s'.schedRead 0 1 20 64 8) fun v ts z =>
        match (z.modRec 0 tName fun q => { q with ts := ts, sel := ts }).judge 0 { r with ts := ts, sel := ts } ((List.range 8).map fun i => BitVec.ofNat 64 (v / 2 ^ (64 * i) % 2 ^ 64)) with
        | (.run n desc, w) => n == 1 && desc.length == 8 && v % 2 ^ 64 / 2 ^ 61 == 0 && (w.die 0).recs == [{ r with ts := ts, sel := ts }] && ((w.die 0).holdRing 1).all == [] | _ => false,
      tRun (exec (.taskSelect 0) s) fun u => u.net.contains (.tileOffer 0 tName 0) && ((u.die 0).taskRing 1).all == [] && (u.die 0).recs.map (fun r => (r.st, r.count)) == [(.issuing, 1)]]),
    (let r := { tWaiting with st := .issuing, count := 2, desc := List.replicate 8 0 ++ [2 ^ 61] }
     let s := { tSched 0 0 [r] id with hedges := [(3, { slots := [(0, 1)] }), (5, { slots := [(7, 1)] })] }
     [s.record! 0 tName = some r, s.nextGrant 3 1 ≠ none, s.nextGrant 5 1 ≠ none, (List.range 32).all fun n => match s.nextGrant n 1, s.nextGrant 3 1 with | some g', some g => g < g' || n == 3 | _, _ => n != 3 && n != 5,
      tRun (exec (.tileOffer 0 tName 0) s) fun u => u.net == [.engineCandidateStart 3, .tileOffer 0 tName 1] && (u.hedge 3).ops.map (fun o => (o.task, o.t0)) == [(some (0, tName, 0), 21)],
      tRun (exec (.tileOffer 0 tName 1) s) fun u => u.net == [.engineCandidateStart 3]]),
    (let s := tSched 0 0 [{ tWaiting with st := .issuing, count := 2 }] id
     [(List.range 32).all fun n => (s.nextGrant n 1).isNone, tRun (exec (.tileOffer 0 tName 0) s) fun u => (u.record! 0 tName).isNone])] = true := by decide +kernel

/-- MMA and MMAC of 8 by 8 on tile 2 with one k-step; staged, with rows of FP8 1.0 and a record asked for. -/
def tOp (kind : OpKind) : EngOp :=
  { id := 1, kind := kind, core := 8, slot := 0, asid := 1, cls := 1, t0 := 20, d0 := BitVec.ofNat 64 (tMma false + 2 ^ 35 + (if kind == .mmac then 2 ^ 61 else 0) + 77), tile := 2,
    aRegs := List.replicate 4 (BitVec.ofNat 1024 (0x38 * ((2 ^ 1024 - 1) / 255))), bRegs := List.replicate 4 (BitVec.ofNat 1024 (0x38 * ((2 ^ 1024 - 1) / 255))) }
def tEngine (o : EngOp) (tile : Tile) (f : Hedge → Hedge) : State :=
  { cores := [(8, { ctxs := [(0, { tCtx with cmds := [1], status := .parked .engine })], csr := { shasid := 1 } })], jobs := [{ num := 1, asids := [1] }],
    hedges := [(0, f { ops := [o], tiles := [(2, tile)] })] }
def tGoing (kind : OpKind) : EngOp := { tOp kind with phys := some 2, staged := true, started := true }
theorem meets_EngineCommands : tMet [
    ([OpKind.mma, .mmac].flatMap fun kind =>
     let s := { tEngine (tOp kind) {} (fun h => { h with ops := [] }) with cores := [(8, { q := { meq := [tOp kind] } })] }
     [coreKey 0 0 1 = 8, (s.core 8).q.meq = [tOp kind], (List.range 17).all fun j => j == 1 || (s.core (coreKey 0 0 j)).q.meq == [], s.jobStopped 1 = false, (s.hedge 0).running = none, (s.hedge 0).overtaken = [],
      tRun (exec (.engineCandidateStart 0) s) fun u => (u.hedge 0).running == some 1 && (u.core 8).q.meq == [] && u.net.contains (if kind == .mma then .mma 0 1 else .mmac 0 1)]),
    ([0x107, 0x8107].flatMap fun e =>
     let s := tEngine (tGoing .mma) { elems := [(0x102, 5)], poison := [e], clear := false } id
     let c := tEngine (tGoing .mmac) { elems := [(0x102, 5), (0x8102, 5)], poison := [e], clear := false } id
     [s.op? 0 1 = some (tGoing .mma), c.op? 0 1 = some (tGoing .mmac), cmdSparse (tGoing .mma).d0.toNat = false, (s.hedge 0).checks + 1 ≠ (s.hedge 0).mecheck, cmdRows (tGoing .mma).d0.toNat false = 8,
      tRun (exec (.mma 0 1) s) fun u => if e == 0x107 then u.net == [.matrixCommandComplete 0 1] && (u.op? 0 1).map EngOp.status == some (some 1)
        else u.timers == [(64, .kStepBoundary 0)] && ((u.hedge 0).tile 2).poison == [e] && Tab.getD ((u.hedge 0).tile 2).elems 0x102 0 == 5,
      tRun (exec (.mmac 0 1) c) fun u => u.timers == [(64, .kStepBoundary 0)] && ((u.hedge 0).tile 2).poison == (if e == 0x107 then [] else [e]) &&
        ((u.hedge 0).tile 2).elems.map Prod.fst == [0x8102]]),
    (let s := tEngine { tGoing .zero with d0 := BitVec.ofNat 64 tZero } { elems := [(5, 5)], poison := [7], clear := false, tc := 9 } id
     [(s.op? 0 1).map EngOp.phys = some (some 2), tRun (exec (.zero 0 1) s) fun u => (u.hedge 0).tile 2 == { tc := 9 } && (u.op? 0 1).map EngOp.status == some (some 0) && u.timers == [(64, .matrixCommandComplete 0 1)]]),
    (let s := tEngine (tGoing .mma) { elems := [(0, 0x40000000)], clear := false } (fun h => { h with running := some 1 })
     let d := (tGoing .mma).d0.toNat
     [cmdSteps d = 1, (match s.rowsBytes 0 (tGoing .mma) false 0 (List.range 8) with
      | .ok (la, _, z) => (match z.rowsBytes 0 (tGoing .mma) true 0 (List.range 8) with
        | .ok (lb, _, w) => (decodeRows (cmdFmt d false) false false la).1 == .values [] && (decodeRows (cmdFmt d true) false true lb).1 == .values [] && w == s
        | _ => false) | _ => false),
      (s.hedge 0).badPe = [], s.openSnap = none, (s.hedge 0).ops.all EngOp.staged,
      tRun (exec (.kStepBoundary 0) s) fun u => Tab.getD ((u.hedge 0).tile 2).elems 0 0 == 0x42840000 && Tab.getD ((u.hedge 0).tile 2).elems (128 * 7 + 7) 0 == 0x42800000 && u.net == [.matrixCommandComplete 0 1]]),
    (let o := { tGoing .mma with d0 := (tGoing .mma).d0 + 2 ^ 40 }
     let s := tEngine o {} (fun h => { h with running := some 1 })
     [cmdSteps o.d0.toNat = 2, o.k + 1 ≠ 2, (s.hedge 0).running = some 1]),
    ([some 0, some 1].flatMap fun st =>
     let s := tEngine { tGoing .mma with status := st, tc := 30, d0 := (if st == some 0 then (tGoing .mma).d0 else (tGoing .mma).d0 - 2 ^ 35) } { tc := 4 } id
     [s.dropsFor 0 1 = false, (s.core 8).q.msq = [], (s.ctx 8 0).cmds = [1], tRun (exec (.matrixCommandComplete 0 1) s) fun u =>
        (u.core 8).q.msq == [(BitVec.ofNat 64 (2 ^ 61 + st.getD 0 * 2 ^ 48 + 77), 30)] && (u.op? 0 1).isNone && (u.ctx 8 0).cmds == [] && ((u.hedge 0).tile 2).tc == 30])] = true := by decide +kernel

def tBorrow (b : Borrow) (h : Hedge) : Hedge := { h with ops := [], borrows := [b] }
theorem meets_TilesAndRows : tMet [
    ([tRun (exec (.slotBoundary 0) (tState [])) fun u => u.net.contains (.engineCandidateStart 0), tRun (exec (.frameStart 0) (tState [])) fun u => u == tState [],
      tRun (exec (.frameStart 0) (tEngine (tGoing .mma) {} fun h => { h with nextSlots := some [(3, 1)] })) fun u => (u.hedge 0).slots == [(3, 1)] && (u.hedge 0).nextSlots.isNone]),
    (let s := tEngine (tGoing .mma) { elems := [(5, 5)], clear := false } (tBorrow { asid := 2, num := 0, phys := 2, busy := true })
     [(s.hedge 0).borrows = [{ asid := 2, num := 0, phys := 2, busy := true }], tRun (exec (.tileSpillComplete 0 2) s) fun u => (u.hedge 0).tile 2 == {} && (u.hedge 0).borrows.map Borrow.spilled == [some { elems := [(5, 5)], clear := false }]]),
    ([none, some ({} : Tile)].flatMap fun sp =>
     let s := { tEngine (tGoing .mma) {} (tBorrow { asid := 2, phys := 2, spilled := sp }) with now := 65536 }
     [(s.hedge 0).lastClass0 + 65536 ≤ s.now, tRun (exec (.borrowReturn 0) s) fun u => u.timers == [(65536 + (if sp.isSome then 512 else 64), .tileRefillComplete 0 2)] && (u.hedge 0).borrows.map Borrow.busy == [true]]),
    (let s := tEngine (tGoing .mma) { elems := [(5, 5)], clear := false } (tBorrow { asid := 2, phys := 2, busy := true, spilled := some { elems := [(6, 6)], clear := false } })
     [tRun (exec (.tileRefillComplete 0 2) s) fun u => ((u.hedge 0).tile 2).elems == [(6, 6)] && (u.hedge 0).borrows == []]),
    ([0x3FF, 0x2FF].flatMap fun e =>
     let s := tEngine { tGoing .accld with row := 7, tc := 6 } { elems := [(128 * 7, 5), (128 * 7 + 1, 6)], poison := [e], clear := false, tc := 9 } id
     [(s.ctx 8 0).status = .parked .engine, (s.op? 0 1).map EngOp.phys = some (some 2), tRun (exec (.accldComplete 0 1) s) fun u => (u.op? 0 1).isNone &&
        if e == 0x3FF then (u.ctx 8 0).status == .frozen && (u.ctx 8 0).fcode == 0x0E else (u.ctx 8 0).status == .ready && Tab.getD (u.ctx 8 0).latch 100 0 == 0x600000005 && (u.ctx 8 0).pt == 10]),
    (let s := tEngine { tGoing .accst with row := 7 } { elems := [(128 * 7, 5), (128 * 6, 5)], poison := [128 * 7 + 3], clear := false } id
     [(tGoing .accst).aRegs.length = 4, tRun (exec (.accstComplete 0 1) s) fun u => ((u.hedge 0).tile 2).poison == [] && Tab.getD ((u.hedge 0).tile 2).elems (128 * 7 + 127) 0 == 0x38383838 &&
        Tab.getD ((u.hedge 0).tile 2).elems (128 * 6) 0 == 5 && (u.ctx 8 0).status == .ready])] = true := by decide +kernel

/-- A drain of tile 2 to core 0 at offset 0 as XE4M3 rows; one line of it; its end, with a record and with a wake. -/
def tDraining (d0 d1 k : Nat) (lines : List (Nat × Nat)) : State :=
  { tEngine { tGoing .drain with d0 := BitVec.ofNat 64 d0, d1 := BitVec.ofNat 64 d1, k := k, lines := lines, tc := 30 } { elems := [(128, 0x3F800000)], clear := false, tc := 40 } id with
    cores := [(0, { csr := { shasid := 1 } }), (8, { ctxs := [(0, { tCtx with cmds := [1] })] })] }
def tLine0 : Nat := sramAt 0 (privateView 2 1).1 / 128
def tWake : Travel := { tTravel with dest := 512, j := some 1, kind := 5 }
theorem meets_DrainsRun_reach : Reaches tEmptyCore 0 1 ∧ tEmptyCore.Admits 0 tWake :=
  ⟨tReaches_spec (by decide +kernel), ⟨by decide +kernel, by decide +kernel, by decide +kernel, by decide +kernel, .inl (by decide +kernel)⟩⟩
theorem meets_DrainsRun : tMet [
    (let s := tDraining (2 ^ 30) 0 0 []
     [((s.hedge 0).tile 2).poison = [], (s.rename 0).st = 0, s.viewOpen 0 1 1, 128 * drainRowBytes (drainFmt (2 ^ 30)) ≤ (privateView (s.core 0).csr.lsplit 1).2, s.pins = [], s.yew.snaps = [],
      tRun (exec (.drainStart 0 1) s) fun u => u.net.contains (.drainLineWrite 0 1 tLine0) && (u.op? 0 1).map (fun o => (o.k, o.lines.length, o.t0, o.tc)) == some (1, 128, 41, 41)]),
    ([[(tLine0, 77)], [(tLine0, 77), (tLine0 + 1, 78)]].flatMap fun l =>
     let s := { tDraining (2 ^ 30) 0 1 l with pins := l.map Prod.fst }
     [(s.core 0).csr.stopped = false, isSramLine tLine0, s.openSnap = none, s.dies = [], s.splitWaits 0 = false, s.cores.all (fun e => e.2.units.transfers == [] && e.2.units.chain.isNone && e.2.units.chains == [] && e.2.q.cpq == [] && e.2.q.chq == [] && e.2.ctxs.all fun x => x.2.pipe == []), s.mem.wf,
      tRun (exec (.drainLineWrite 0 1 tLine0) s) fun u => u.mem == Memory.write [] (tLine0 * 128) 128 77 && u.pins == l.tail.map Prod.fst && u.net == [if l.length == 1 then .drainComplete 0 1 else .drainLineWrite 0 1 (tLine0 + 1)]]),
    (let s := tDraining (2 ^ 36) 128 1 []
     [(List.range 9).all (fun d => !s.dropsFor d 1), (s.core 8).q.msq = [], tRun (exec (.drainComplete 0 1) s) fun u => (u.core 8).q.msq == [(BitVec.ofNat 64 (2 ^ 61 + 1), 30)] && (u.op? 0 1).isNone]),
    (let s := tDraining (2 ^ 36) (2 ^ 40 + 2 ^ 36 + 128) 1 []
     [chipOf 0 = s.chip 1, tRun (exec (.drainComplete 0 1) s) fun u => (match u.net with | [.wakeArrival 0 m] => m.dest == 512 && m.j == some 1 && m.pt == 31 && m.regs.contains (0, 128) && m.regs.contains (1, 34) | _ => false)]),
    (let s := tEmptyCore
     let p : Placed := { asid := 1, blk := 1, count := 4, mainCode := 1, vecCode := 2, descs := [0, 3] }
     [(s.core 0).placedBlock 1 1 = some p, p.descs[1]? = some 3, (s.core 0).freeSlot none = some 0, ((s.core 0).newWindow p 0).isSome, (s.core 0).work.gathers = [],
      tRun (exec (.wakeArrival 0 tWake) s) fun u => (u.ctx 0 0).status == .gathering && (u.ctx 0 0).pc == { blk := 1, off := 3 } && (u.ctx 0 0).pt == 5])] = true := by decide +kernel

/-! ### Snapshots and rollback (15) -/

def tSnap : Snap := { job := 1, tag := 7 }
def tYew (y : Yew) : State := { tTables (2 ^ 61 + 65536 + 7) with yew := y }
def tHolds (n : Nat) : State := tYew { snaps := [{ tSnap with tag := 8 }], held := List.replicate n { job := 1, tag := 9 } }
/-- A snapshot that awaits the copy of a page: an SRAM page, a pinned one, and the page of memory at 65536; the die's store has room. -/
def tSram : Nat := 2 ^ 36
def tAwaiting (leaf size : Nat) : State := { (tTables leaf).modDie 0 (fun d => { d with yew := { size := size } }) with
  yew := { snaps := [{ tSnap with uncopied := [65536, 131072], pinned := [131072], shared := [tSram] }] } }
theorem meets_SnapshotsTaken : tMet [
    (let s := tYew {}
     [s.openSnap = none, s.yew.held = [], s.quiet, (s.jobOf 1).map Job.num = some 1, tRun (exec (.snapRequest 0 0 7) s) fun u => u.openSnap.map (fun n => (n.job, n.tag, n.cores.map CoreCut.core)) == some (1, 7, [0]) &&
        u.net.contains (.snapAnswer 0 0) && u.net.contains (.snapshotMarker 0 7) && u.timers.contains (64, .snapshotFinish 1 7)]),
    ([tRun (exec (.snapRequest 0 0 8) (tHolds 0)) fun u => u.net == [.snapAnswer 0 0] && u.yew.held == [],
      ((tHolds 3).yew.held.filter fun r => r.job == 1).length < 4, tRun (exec (.snapRequest 0 0 9) (tHolds 3)) fun u => u.net == [.snapAnswer 0 0] && u.yew.held.length == 4]),
    ([tRun (exec (.snapshotOpen 1 7) (tHolds 0)) fun u => u == tHolds 0, tRun (exec (.snapshotOpen 1 7) (tYew {})) fun u =>
        u.openSnap.map (fun n => (n.job, n.tag, n.cores == [], n.wantCores)) == some (1, 7, true, [0]) && u.net.contains (.snapshotMarker 0 7)]),
    (let s := tYew { snaps := [{ tSnap with wantCores := [0] }] }
     [s.openSnap.isSome, tRun (exec (.snapshotMarker 0 6) s) fun u => u == s, tRun (exec (.snapshotMarker 0 7) s) fun u => u.openSnap.map (fun n => (n.cores.map CoreCut.core, n.wantCores)) == some ([0], [])]),
    (let s := tYew { snaps := [tSnap] }
     [s.cutLines = [], s.channelsClosed 1, tRun (exec (.snapshotFinish 1 7) s) fun u => u.yew.snaps.map Snap.status == [1]]),
    ([{ tSnap with wantCores := [0] }, { tSnap with pinned := [0] }, { tSnap with leaves := [(0, 1, 0)] }].flatMap fun n =>
     [tRun (exec (.snapshotFinish 1 7) (tYew { snaps := [n] })) fun u => u.timers == [(64, .snapshotFinish 1 7)] && u.yew.snaps == [n]]),
    ([tRun (exec (.yewRelease 1 7) (tYew { snaps := [tSnap] })) fun u => u.host.signals == [(10, 1, 1)], tRun (exec (.yewRelease 1 7) (tYew { snaps := [{ tSnap with status := 1, pages := [(0, [], [])] }] })) fun u =>
        u.host.signals.contains (10, 1, 0) && u.yew.snaps.map (fun n => (n.status, n.pages.length)) == [(3, 0)]]),
    (let s := tIn (tAwaiting (2 ^ 61 + 65536 + 7) 2) fun x => { x with status := .parked (.sramCopy tSram) }
     [Snap.awaits { tSnap with uncopied := [65536, 131072], pinned := [131072], shared := [tSram] } (tSram * 4096), s.storeUsed (s.pageDie (tSram * 4096)) + pageUnits (tSram * 4096) ≤ 16 * (s.die (s.pageDie (tSram * 4096))).yew.size,
      tRun (exec (.sramPageCopy tSram) s) fun u => (u.ctx 0 0).status == .ready && u.yew.snaps.map (fun n => n.pages.map Prod.fst) == [[tSram * 4096]],
      tRun (exec (.pinnedPageCopy 131072) s) fun u => u.yew.snaps.map (fun n => (n.pages.map Prod.fst, n.pinned, n.uncopied)) == [([131072], [], [65536])]]),
    ([1, 2, 3].flatMap fun st =>
     let s := tIn (tAwaiting (st * 2 ^ 61 + 65536 + 7) 1) fun x => { x with status := .parked (.pageCopy (3 * 65536 + 8)) }
     [s.leafOf 0 1 (3 * 65536) = some (0x600018, st * 2 ^ 61 + 65536 + 7), pteAddr (st * 2 ^ 61 + 65536 + 7) false 0 = 65536, s.mem.wf,
      tRun (exec (.snapPageCopy 0 1 (3 * 65536)) s) fun u => (u.ctx 0 0).status == .ready && u.mem.read 0x600018 8 == (if st == 2 then 2 else 4) * 2 ^ 61 + 65536 + 7 && u.yew.snaps.map Snap.uncopied == [[131072]]]),
    (let s := { (tState []).modCore 0 (fun k => { k with cache := [{ line := 5, cut := true }, { line := 6, cut := true }] }) with hedges := [(0, { victim := [{ line := 5, cut := true }] })] }
     [tRun (exec (.cutLineCopy 5) s) fun u => (u.core 0).cache.map CacheLine.cut == [false, true] && (u.hedge 0).victim.map CacheLine.cut == [false]]),
    ([1, 4].flatMap fun st =>
     let s := { tTables (st * 2 ^ 61 + 65536 + 7) with yew := { snaps := [{ tSnap with leaves := [(0, 1, 3 * 65536)], uncopied := [65536] }] } }
     [s.leafOf 0 1 (3 * 65536) = some (0x600018, st * 2 ^ 61 + 65536 + 7), s.mem.wf, tRun (exec (.snapshotLeafRewrite 0 1 0) s) fun u => u == s,
      tRun (exec (.snapshotLeafRewrite 0 1 (3 * 65536)) s) fun u => u.mem.read 0x600018 8 == 3 * 2 ^ 61 + 65536 + 7 && u.yew.snaps.map Snap.leaves == [[]]])] = true := by decide +kernel

/-- A finished snapshot of one thread and the page at 65536; since then the thread has gone on and the page has changed. -/
def tCut : CoreCut := { core := 0, name := 0, image := { file := [(3, 33)], empty := [4], vfile := [(1, 11)], ctxs := [(0, { tCtx with pt := 70, tstat := 2 })] } }
def tRollable : State := { tState [(3, 44)] with mem := Memory.write (Memory.write [] 65540 1 1) 1 1 9, yew := { snaps := [{ tSnap with status := 1, cores := [tCut], pages := [(65536, Memory.write [] 65540 2 0x0202, [])] }] } }
theorem meets_RolledBack : tMet [
    (let s := tState []
     [s.openSnap = none, s.finishedAt 1 7 = none, tRun (exec (.yewRollback 1 7) s) fun u => u.host.signals == [(10, 1, 1)] && u.cores == s.cores]),
    (let s := tRollable
     [(s.job 1).map Job.num = some 1, s.snapLeaves [1] = [], (Memory.write [] 65540 2 0x0202).wf, s.mem.wf, s.phys 0 = 0, (s.core 0).work == {}, tCut.image.work == {}, tCut.image.units == {}, (s.core 0).csr.stopped = false,
      tRun (exec (.managementWindowWrite (.yewCommand 1 (BitVec.ofNat 64 (3 * 2 ^ 60 + 7)) 0)) s) (fun u => u.host.signals.getLast? == some (10, 1, 2)),
      tRun (exec (.managementWindowWrite (.yewCommand 1 (BitVec.ofNat 64 (2 * 2 ^ 60 + 7)) 0)) s) (fun u => u.yew.snaps.map Snap.status == [3]),
      tRun (exec (.yewRollback 1 7) s) fun u => u.host.signals.contains (10, 1, 0) && tReg 3 u == 33 && (u.core 0).empty == [4] && Tab.getD (u.core 0).vfile 1 0 == 11 &&
        (u.ctx 0 0).status == .ready && (u.ctx 0 0).pt == s.jobTime { num := 1, asids := [1] } [] + 1 && (u.ctx 0 0).tstat == 3]),
    ([[], [{ tSnap with tag := 8 }]].flatMap fun open_ =>
     let s := { tRollable with yew := { snaps := tRollable.yew.snaps ++ open_ } }
     let s' := if open_ == [] then s else s.failOpen
     [s.openSnap = open_.head?, (s'.job 1).isSome, s'.finishedAt 1 7 = some 0, s'.yew.snaps.map Snap.status = 1 :: open_.map (fun _ => 2),
      tRun (exec (.yewRollback 1 7) s) fun u => u.host.signals.getLast? == some (10, 1, 0) && tReg 3 u == 33])] = true := by decide +kernel

/-! ### Faults and containment (14) -/

/-- The class's fields of a frozen thread of slot 0, and the newest record of its job. -/
def tFrozen (o : Host.Outcome State Fault Refusal) (code detail : Nat) (net : List Instr) : Bool :=
  tRun o fun u => (u.ctx 0 0).status == .frozen && (u.ctx 0 0).fcode == code && (u.ctx 0 0).faddr == 514 && u.net == net && (u.jobOf 1).map (fun j => j.faults.map FaultRec.d2) == some [detail]
/-- The fault policy freezes. -/
def tPolicy (s : State) : State := { s with jobs := [{ num := 1, asids := [1], policy := 1 }] }
theorem meets_FaultsFreeze : tMet [
    (let s := tPolicy (tState [])
     [s.me.status = .ready, s.iss.view = none, (encode (.jmpr (.q 2))).isSome, wellFormed (.jmpr (.q 2)) = false, tFrozen (exec (.jmpr (.q 2)) s) 1 0 [],
      (encode (.csrrd (.g 0) 0x100)).isSome, tFrozen (exec (.illegalEncoding 0 0 77) s) 1 77 [], tFrozen (exec (.jmpr (.q 2)) { s with jobs := [{ num := 1, asids := [1] }] }) 1 0 [.stop { die := 0, queue := 64, d := [BitVec.ofNat 64 (2 * 2 ^ 56 + 1), 0] }]]),
    (let s := tPolicy ((tState []).modCore 0 fun k => { k with csr := {} })
     let i := Instr.mov (.k 0) (.g 0)
     [wellFormed i, privilegeFault s 0 0 i, tFrozen (exec i s) 2 0 []]),
    (let s := tPolicy (tState [])
     let i := Instr.mov (.g 3) (.g 16)
     [wellFormed i, privilegeFault s 0 0 i = false, windowFault s.me i = some 16, tFrozen (exec i s) 3 16 []]),
    (let s := tPolicy (tIn ((tState []).modCore 0 fun k => { k with csr := { k.csr with dbgctl := 1 } }) fun x => { x with out := [{ seq := 1, dest := .g 5, left := 1, alt := some 0 }] })
     let i := Instr.mov (.g 3) (.g 5)
     [s.debugMode 0, windowFault s.me i = none, hazardFault s.me i = some 5, tFrozen (exec i s) 4 5 []]),
    (let s := tPolicy ((tState []).modCore 0 fun k => { k with csr := {} })
     let i := Instr.mov (.q 0) (.g 0)
     [wellFormed i, privilegeFault s 0 0 i = false, windowFault s.me i = none, s.debugMode 0 = false, engineFault s 0 0 i, tFrozen (exec i s) 2 0 []]),
    (let s := tPolicy ((tState []).modCore 0 fun k => { k with badMain := [5] })
     let i := Instr.mov (.g 3) (.g 5)
     [windowFault s.me i = none, s.debugMode 0 = false, parityFault (s.core 0) s.me i = some 5, tFrozen (exec i s) 0x17 5 [.coreKill 0 1]]),
    (let s := tPolicy (tIn (tBlocks []) fun x => { x with pc := { x.pc with word := 1 } })
     [(s.core 0).blockCount 1 1 = 4, tFrozen (exec (.entryFaultAtFetch 0 0) s) 0x105 516 []]),
    (let s := tPolicy { tState [] with cores := [(0, { tCore [] with ctxs := [(0, { tCtx with pair := some 2 }), (2, { tCtx with pair := some 0, win := { mainBase := 16 } })] })] }
     [(s.ctx 0 0).pair = some 2, tRun (exec (.illegalEncoding 0 0 9) s) fun u => (u.ctx 0 0).status == .frozen && (u.ctx 0 2).status == .frozen && (u.ctx 0 2).fcode == 1]),
    (let s := tPolicy ({ (tBlocks []).modCore 0 fun k => { k with ctxs := [(63, tCtx)], work := { k.work with porter := some (tLand 1) } } with iss := {} })
     [(s.core 0).work.porter.isSome, chipOf 8 = s.chip 1, tRun (exec (.illegalEncoding 0 63 9) s) fun u => u.ctx 0 63 == {} && (u.core 0).work.porter.isNone && u.net.contains (.porterHandlerStart 0) &&
        u.net.contains (.copyPacketLanding 8 2 5 (1 + 2 ^ 32 * 3)) && (u.jobOf 1).map (fun j => j.faults.map fun r => r.d0 / 2 ^ 60) == some [6]])] = true := by decide +kernel
def tIced : State := tIn (tState []) fun x => { x with status := .frozen, fcode := 0x10C, faddr := 514, pc := { x.pc with word := 0 } }
theorem meets_FaultsFreeze_ended : (tIced.core 0).NoneWaits := ⟨by decide +kernel, by decide +kernel, by decide +kernel, by decide +kernel, by decide +kernel⟩
theorem meets_FaultsFreeze_served : tMet [
    ([(tIced.ctx 0 0).status = .frozen, (tIced.ctx 0 0).gang = [], Tab.get? (tIced.core 0).work.saved 0 = none, chipOf (tIced.coreId 1 0) = tIced.chip 1,
      tRun (exec (.frozenThreadReissue 0 0) tIced) fun u => (u.ctx 0 0).status == .ready && (u.ctx 0 0).pc.word == 1, tRun (exec (.frozenThreadEnd 0 0) tIced) fun u => u.ctx 0 0 == {},
      tRun (exec (.frozenThreadFaultEntry 0 0 515) tIced) fun u => u.ctx 0 0 == {} && (match u.net with | [.travelMessageArrival 0 m] => m.dest == 515 && m.pt == 5 && m.regs == [] | _ => false)])] = true := by decide +kernel

/-- A core with a thread of the job; core 8's round waits for it, and the engine has its work; the core is stopped and its name sealed. -/
def tDying : State := { tState [] with cores := [(0, tCore []), (8, { units := { rounds := [{ asid := 1, g := 1, tag := 7, slot := some 0 }] } })], hedges := [(0, { ops := [{ tOp .mma with core := 0 }] })], now := 99 }
def tDead (spare : Core) (k : Core → Core) : State :=
  { cores := [(0, k { csr := { stopped := true, lsplit := 3, vgroup := 1, shasid := 5, killCause := 2 } }), (128, spare)], dies := [(0, { rename := [(0, { st := 1, phys := 0 })] })], now := 99,
    jobs := [{ num := 1, asids := [1] }] }
theorem meets_CoresKilled_waits : ((tDead {} id).core 0).NoneWaits := ⟨by decide +kernel, by decide +kernel, by decide +kernel, by decide +kernel, by decide +kernel⟩
theorem meets_CoresKilled : tMet [
    ([false, true].flatMap fun bad =>
     let s := { (tState []).modCore 0 (fun k => { k with badMain := if bad then [15] else [] }) with now := 196608 }
     [(s.core 0).csr.stopped = false, (s.core 0).badFile = bad, tRun (exec (.heartbeat 0) s) fun u => (u.core 0).csr.hbFail == bad && (u.core 0).csr.lastHb == if bad then 0 else 262143]),
    ([tRun (exec (.heartbeatTimeout 0) { tState [] with now := 196607 }) fun u => u == { tState [] with now := 196607 },
      tRun (exec (.heartbeatTimeout 0) { tState [] with now := 196608 }) fun u => u == { tState [] with now := 196608, net := [.coreKill 0 2] }]),
    (let s := tDying
     [s.logical 0 = 0, s.phys 0 = 0, (s.core 0).units == {}, (s.core 0).work == {}, s.openSnap = none, (s.jobs.map Job.num).Nodup, (s.core 0).holdsJob [1].contains, (s.core 8).openRounds.length = 1, groupMembers 8 1 = [0, 8],
      tRun (exec (.coreKill 0 2) s) fun u => (u.core 0).csr.stopped && (u.core 0).ctxs == [] && (u.rename 0).st == 1 && (u.core 0).csr.killCause == 2 && u.core 8 == s.core 8 &&
        (u.job 1).map (fun j => j.faults.map fun r => (r.d0 / 2 ^ 60, r.d2)) == some [(3, 2 * 2 ^ 48)] && u.net.contains (.errorMessageArrival (.qmaxx 8 1 1 7 0)) && (u.hedge 0).ops.map EngOp.orphan == [true]]),
    (let s := tDead {} id
     [(s.core 0).csr.stopped, s.phys 0 = 0, (s.rename 0).st = 1, (s.core 128).csr.stopped = false, coreKey 0 0 16 = 128, (List.range 16).all fun n => s.phys (coreKey 0 0 n) != 128, (s.core 0).csr.killed = [], (s.core 0).work.placed = [],
      tRun (exec (.spareRemap 0 0) s) fun u => u.rename 0 == { st := 0, phys := 16 } && (u.die 0).sparefree == 31 && (u.core 128).csr == { lsplit := 3, vgroup := 1, shasid := 5, cycle0 := 99, lastHb := 99 }]),
    (let s := tDead { csr := { stopped := true } } id
     [(s.core 128).csr.stopped, tRun (exec (.spareRemap 0 0) s) fun u => (u.rename 0).st == 2 && (u.die 0).sparefree == 32]),
    (let s := tDead {} fun k => { k with csr := { k.csr with killed := [(1, 0)] } }
     [(s.core 0).csr.killed = [(1, 0)], (s.job 1).map Job.recovery = some 0, tRun (exec (.spareRemap 0 0) s) fun u => (u.job 1).isNone])] = true := by decide +kernel
/-- The first failed replay, the seventh and the eighth: whichever way the free bit falls. -/
def tReplay (n : Nat) (asids : List Nat) : State := { tState [] with jobs := [{ num := 1, asids := asids }], dies := [(0, { asids := [(1, {})] })], host := { crc := [(.mesh 0, n)] } }
theorem meets_PartnersTold : tMet [
    ([linkExists (.dieToDie 0 5) = false, tRun (exec (.flitCrcError (.dieToDie 0 5)) (tState [])) fun u => u == tState []]),
    ([0, 6, 7].flatMap fun n =>
     let s := tReplay n [1]
     [linkExists (.mesh 0), Link.mesh 0 ∉ s.host.failedLinks, ((s.host.crc.find? fun e => e.1 == .mesh 0).map Prod.snd).getD 0 = n, s.onDie 0 { num := 1, asids := [1] }, s.onDie 0 { num := 1, asids := [2] } = false]),
    (let s := tIn (tPolicy (tState [])) fun x => { x with pipe := [{ seq := 1, owner := some 8, pc := { blk := 1, off := 2 } }], out := [{ seq := 1, left := 1 }] }
     [(s.ctx 0 0).gang = [], tFrozen (exec (.errorMessageArrival (.access 0 0 8)) s) 0x0F 8 []]),
    (let s := (tMem []).modCore 0 fun k => { k with units := { k.units with transfers := [{ req := tXfer 5, tc := 4 }], cpdone := [(2, 5)] } }
     [s.dropsFor 0 1 = false, (s.core 0).q.evq = [], Tab.getD (s.core 0).units.cpdone 2 0 = 5, tRun (exec (.errorMessageArrival (.transfer 0 2 5)) s) fun u =>
        (u.core 0).units.transfers == [] && (u.core 0).q.evq == [(BitVec.ofNat 64 (2 ^ 59 + 5 * 2 ^ 48 + 5), 4)]])] = true := by decide +kernel

/-! ### Ozine (02, 04, 05, 17) -/

/-- The image of block 3 of one bundle and one entry at 1 MB; a thread held for it, whose entry lists g0. -/
def tImage : Memory := Memory.write (Memory.write [] 0x100000 72 (2 ^ 24 + 3 + (2 ^ 16 + 2 ^ 12 + 1) * 2 ^ 32 + 2 ^ 16 * 2 ^ 512)) 0x100080 8 0x1122334455667788
def tHeld : Travel := { tTravel with dest := 3 * 512, live := 3, regs := [(0, 42), (1, 43)], masks := [], maskLive := 0 }
def tHold (l : List Travel) : State := { tBlocks [] with mem := tImage, dies := [(0, { hold := l })] }
theorem meets_BlocksPlaced : tMet [
    (let s := tHold [tHeld]
     let p : Placed := { asid := 1, blk := 3, count := 1, mainCode := 1, vecCode := 0, descs := [2 ^ 16] }
     [s.imageAt 0x100000 1 3 = some p, s.placeAllowed 0 1 0 p false, (s.jobOf 1).map Job.colocs = some [], (List.range 8).all (fun d => (s.die d).bucketTakes 1 3), tHeld.thief = none, s.validCore 1 0, (s.rename 0).st = 0, (s.core 0).placedBlock 1 3 = none, entryAt p.descs 0 = some (2 ^ 16), (List.range 8).all fun d => (s.dirBlock d 1 3).isNone, s.mem.wf,
      freeRun ((s.core 0).work.placed.map fun p => (p.addr, 8 * p.count)) 8 8 Config.istoreBytes = some 48,
      tRun (exec (.blockPlacement 0 1 3 0 (some 0x100000)) s) fun u => (u.core 0).work.placed.map Placed.addr == [0, 32, 48] && u.mem.read (istoreAt 0 48) 8 == 0x1122334455667788 &&
        (u.dirBlock 7 1 3).map DirBlock.holders == some [0] && (match u.net with | [.travelMessageArrival 0 m] => m.regs == [(0, 42)] && m.live == 1 | _ => false)]),
    (let s := { tHold [tHeld] with jobs := [{ num := 1, asids := [1], places := [(3, 64)] }] }
     [((s.jobOf 1).map Job.places) = some [(3, 64)], (s.imageAt 0x100000 1 3).isSome, (s.dirBlock 0 1 3).isNone, (s.die 0).hold.all (fun m => m.thief.isNone), (s.core 64).work.placed = [],
      tRun (exec (.blockPlacement 0 1 3 0 (some 0x100000)) s) fun u => u == s]),
    (let s := tHold [tHeld, { tHeld with dest := 4 * 512 }]
     [(s.jobOf 1).map Job.num = some 1, tRun (exec (.blockPlacement 0 1 3 0 none) s) fun u => (u.die 0).hold.map Travel.dest == [4 * 512] && (u.job 1).map (fun j => (j.kept, j.faults.map fun r => (r.d0 / 2 ^ 60, r.d2))) == some ([tHeld], [(5, 1)])])] = true := by
  decide +kernel

/-- Trap records of services, with the tables of tTables; one page allocated. -/
def tTrap (service n : Nat) : TrapRec := { tid := 512, asid := 1, cls := 1, next := 514, arg := BitVec.ofNat 64 (service * 2 ^ 56 + n) }
def tTrapped (r : TrapRec) : State := { (tTables (2 ^ 61 + 65536 + 7)).modDie 0 (fun d => { d with traps := [r] }) with jobs := [{ num := 1, asids := [1], allocs := [(3 * 65536, 1)] }] }
def tAnswers (o : Host.Outcome State Fault Refusal) (v : Word) (p : State → Bool) : Bool :=
  tRun o fun u => (u.die 0).traps == [] && (match u.net with | [.sendArrival m] => m.tgt == BitVec.ofNat 64 (512 * 256 + 7) && m.v == v && m.asid == 1 && m.ts == 0 | _ => false) && p u
def tNo : Word := BitVec.ofNat 64 (2 ^ 64 - 1)
theorem meets_OzineServes : tMet [
    (let s := tIn (tTables 0) fun x => { x with status := .parked (.pageIn (3 * 65536 + 8)) }
     [s.ctxsOf 0 (fun x => x.waits 1 fun w => w.absents (3 * 65536)) = [(0, 0)], s.cores.all (fun e => e.2.units == {}), s.hedges.all (fun e => e.2.ops == []), (s.die 0).recs = [], (s.die 0).roots = [],
      tRun (exec (.pageInComplete 0 1 (3 * 65536) (some (BitVec.ofNat 64 (2 ^ 61 + 131072 + 5)))) s) fun u => (u.ctx 0 0).status == .ready && u.mem.read 0x600018 8 == 2 ^ 61 + 131072 + 5,
      tRun (exec (.pageInComplete 0 1 (3 * 65536) none) s) fun u => (u.ctx 0 0).status == .ready && (u.ctx 0 0).badPages == [(3, 0x0D)]]),
    ([tAnswers (exec (.trapUnknownService (tTrap 4 0)) (tTrapped (tTrap 4 0))) tNo fun _ => true, tAnswers (exec (.trapUnknownService (tTrap 0 9)) (tTrapped (tTrap 0 9))) tNo fun _ => true,
      tAnswers (exec (.trapAllocate (tTrap 1 2) none) (tTrapped (tTrap 1 2))) tNo fun _ => true]),
    (let s := tTrapped (tTrap 1 2)
     [freePages (s.absentLeaves 0 1) [(3 * 65536, 1)] 2 = some (0, [0x600000, 0x600008]), inDram (0xA00000 / 2 ^ 36) 0xA00000, inDram (0xA00000 / 2 ^ 36) (0xA00000 + 65536 * 2 - 1),
      tAnswers (exec (.trapAllocate (tTrap 1 2) (some 0xA00000)) s) 0 fun u => (u.job 1).map Job.allocs == some [(3 * 65536, 1), (0, 2)] && u.mem.read 0x600008 8 == 2 ^ 61 + 0xA10000 + 7]),
    (let s := tTrapped (tTrap 2 (3 * 65536))
     [s.leafSlot 0 1 (3 * 65536) = some 0x600018, tAnswers (exec (.trapFree (tTrap 2 (3 * 65536))) s) 0 fun u => (u.job 1).map Job.allocs == some [] && u.mem.read 0x600018 8 == 0,
      tAnswers (exec (.trapFree (tTrap 2 65536)) (tTrapped (tTrap 2 65536))) tNo fun u => u.mem == s.mem]),
    (let s := tTrapped (tTrap 3 (3 * 65536 + 8))
     [(s.userBytes 0 1 (3 * 65536 + 8) 256).isSome, tAnswers (exec (.trapLog (tTrap 3 (3 * 65536 + 8))) s) 0 fun u => u.host.logs.map (fun e => (e.1, e.2.length)) == [(1, 256)],
      (s.userBytes 0 1 (3 * 65536 + 65528) 256).isNone, tAnswers (exec (.trapLog (tTrap 3 (3 * 65536 + 65528))) (tTrapped (tTrap 3 (3 * 65536 + 65528)))) tNo fun u => u.host.logs == [],
      tAnswers (exec (.trapLog (tTrap 3 1)) (tTrapped (tTrap 3 1))) tNo fun u => u.host.logs == []])] = true := by decide +kernel

/-- Copies of every versioned block, of version 1; the name that the rename copy moves goes to its hedge's spare, whose SRAM is not blank. -/
def tDie : Die := { pendRename := [(17, { st := 2, phys := 16 })], pendSched := { version := 1, class0 := some 3, queues := [64], holds := [128] }, pendYew := { version := 1, base := 65536, size := 16, hwm := 15 }, pendDir := { version := 1, base := 4096, log2 := 20 }, sparefree := 32 }
def tPending : State := { tState [] with dies := [(0, tDie)], hedges := [(0, { pendSlots := ([(0, 1)], 1) })], now := 70000, mem := Memory.write [] (sramAt (coreKey 0 1 16) 8) 1 9 }
def tGrown : RingCopy := { base := 65536, log2cap := 11, version := 1, hwm := 1792 }
def tRingCopy : Machine.Ring QSlot := { entries := [{ body := .travel tTravel }], head := 7, tail := 8, pending := tGrown }
/-- The control block of a ring at 64, whose copy 1 is tGrown. -/
def tControl (s : State) : State := { s with mem := Memory.write (Memory.write s.mem 88 8 (65536 + 11)) 96 8 (2 ^ 32 + 1792) }
theorem meets_BlocksCommitted : tMet [
    (let s := tPending
     [Tab.get? (s.die 0).pendRename 17 = some { st := 2, phys := 16 }, (s.die 0).renameVersion = 0, (List.range 16).all fun i => i == 1 || (Tab.getD (s.die 0).rename (16 + i) { st := 0, phys := i }).phys != 16,
      s.cores.all fun e => e.2.work.spill.all == [], (Tab.getD (s.die 0).rename 17 { st := 0, phys := 1 }).phys ≠ 16,
      tRun (exec (.renameCommit 0 (512 + 17)) s) fun u => Tab.get? (u.die 0).rename 17 == some { st := 2, phys := 16 } && (u.die 0).renameVersion == 1 && (u.die 0).sparefree == 31 && u.mem == [] &&
        (u.core (coreKey 0 1 16)).csr.cycle0 == 70000,
      tRun (exec (.renameCommit 0 (512 + 18)) s) fun u => u == { s with dies := u.dies } && (u.die 0).renameVersion == 1, tRun (exec (.renameCommit 0 17) s) fun u => u == s]),
    (let s := { tPending with dies := [(0, { tDie with rename := [(17, { st := 0, phys := 16 })], pendRename := [], sparefree := 31 })] }
     [tRun (exec (.renameCommit 0 (512 + 17)) s) fun u => u == { s with dies := u.dies } && Tab.get? (u.die 0).rename 17 == some { st := 0, phys := 1 } && (u.die 0).sparefree == 32]),
    (let s := tPending
     [(s.hedge 0).slotCopy = 0, tRun (exec (.slotTableCommit 0 3) s) fun u => (u.hedge 0).nextSlots == some [(0, 1)] && (u.hedge 0).slotCopy == 1 && u.timers == [(131072, .frameStart 0)],
      tRun (exec (.slotTableCommit 0 2) s) fun u => u == s, tRun (exec (.slotTableCommit 0 5) s) fun u => u == s]),
    (let s := tControl tPending
     [inDram 0 64, inDram 0 128, (s.die 0).tasks = [], tDie.pendSched.queues ≠ (s.die 0).sched.queues,
      tRun (exec (.schedulerConfigCommit 0 3) s) fun u => (u.die 0).sched == { tDie.pendSched with copy := 1 } && (u.die 0).pendSched == {} && ((u.die 0).taskRing 0).block == 64 && ((u.die 0).holdRing 0).block == 128,
      tRun (exec (.schedulerConfigCommit 0 2) s) fun u => u == s,
      tRun (exec (.yewConfigCommit 0 3) s) fun u => (u.die 0).yew == { tDie.pendYew with copy := 1 }, tRun (exec (.yewConfigCommit 0 5) s) fun u => u == s, s.openSnap = none]),
    (let s := tPending.modDie 0 fun d => { d with tasks := [(0, { entries := [5] })] }
     [tRun (exec (.schedulerConfigCommit 0 3) s) fun u => u == s]),
    (let s := tPending.modDie 0 fun d => { d with tasks := [(0, { entries := [5] })], pendSched := { version := 1, class0 := some 3 } }
     [tRun (exec (.schedulerConfigCommit 0 3) s) fun u => (u.die 0).sched.class0 == some 3 && ((u.die 0).taskRing 0).entries == [5]]),
    (let r := tRingCopy
     let u := r.commit 3 (some tGrown)
     [r.drained, u.old.length == 1 && u.entries == [] && u.log2cap == 11 && u.base == 65536 && u.copy == 1 && !u.drained && u.oldHead == 7 && u.oldTail == 8 && u.head == 0, r.commit 2 (some tGrown) = r, r.commit 5 (some tGrown) = r,
      r.commit 3 (some { tGrown with base := 0 }) = r, r.commit 3 (some { tGrown with base := 64 }) = r, r.commit 3 none = r, { r with drained := false }.commit 3 (some tGrown) = { r with drained := false }]),
    (let s := (tPending.modCore 0 fun k => { k with work := { overflow := tRingCopy, spill := { tRingCopy with entries := [] } } }).modDie 0 fun d => { d with overflow := { tRingCopy with entries := [] }, holds := [(2, { pending := tGrown })], tasks := [(1, { entries := [5], pending := tGrown })] }
     [(s.core 0).work.spill.all = [], (s.die 0).overflow.all = [], tRun (exec (.ringGrowthCommit (.deque 0) 3) s) fun u => (u.core 0).work.overflow.base == 65536 && (u.core 0).work.overflow.old.length == 1,
      tRun (exec (.ringGrowthCommit (.overflow 0) 3) s) fun u => (u.die 0).overflow.base == 65536, ((s.die 0).holdRing 2).all = [], ((s.die 0).holdRing 1).all = [],
      tRun (exec (.ringGrowthCommit (.hold 0 2) 3) s) fun u => ((u.die 0).holdRing 2).base == 65536, tRun (exec (.ringGrowthCommit (.task 0 1) 3) s) fun u => ((u.die 0).taskRing 1).old == [5],
      inDram 0 4096, tRun (exec (.blockDirectoryCommit 0 1 1) s) fun u => (u.die 0).dir == { tDie.pendDir with copy := 1 } && (u.die 0).pendDir == {}, tRun (exec (.blockDirectoryCommit 0 0 1) s) fun u => u == s]),
    (let s := (tControl tPending).modDie 0 fun d => { d with overflow := { block := 64 } }
     [s.blockCopy 64 1 = some tGrown, tRun (exec (.ringGrowthCommit (.overflow 0) 3) s) fun u => (u.die 0).overflow.base == 65536 && u.mem.read 64 8 == 3])] = true := by decide +kernel
def tSpillRing : State := tPending.modCore 0 fun k => { k with work := { spill := { tRingCopy with entries := [] } } }
theorem meets_BlocksCommitted_spill : (tSpillRing.core 0).NoneWaits ∧ (tRun (exec (.ringGrowthCommit (.spill 0) 3) tSpillRing) fun u => (u.core 0).work.spill.base == 65536) = true :=
  ⟨⟨by decide +kernel, by decide +kernel, by decide +kernel, by decide +kernel, by decide +kernel⟩, by decide +kernel⟩

/-- Core 0 empty, with a line that it owns, a byte at the foot and one at the top of its scratchpad. -/
def tVacant : State := { (tState []).modCore 0 (fun k => { k with ctxs := [], cache := [{ line := 512, st := .m, data := 7 }], regs := { k := [(1, 1)] } }) with
  mem := Memory.write (Memory.write [] (sramAt 0 0) 1 9) (sramAt 0 (256 * 1024 - 1)) 1 9, hedges := [(0, { victim := [{ line := 5 }] })] }
theorem meets_RegistersWritten : tMet [
    (let s := tVacant
     [(s.core 0).slotsEmpty, s.porterIdle 0, s.timers = [], lsplitValid 0x102, lsplitValid 0x2004, lsplitValid 0x404, lsplitValid 5 = false, (s.core 0).csr.lsplit = 2,
      tRun (exec (.lsplit 0 0x102) s) fun u => (u.core 0).csr.lsplit == 0x102 && u.mem == Memory.write [] (sramAt 0 0) 1 9 && (u.core 0).cache.length == 1,
      tRun (exec (.lsplit 0 4) s) fun u => (u.core 0).csr.lsplit == 4 && u.mem == [] && (u.core 0).cache == [] && u.net.contains (.writeback 512 0 0 7 0 true),
      tRun (exec (.lsplit 0 5) s) fun u => u == s.signal 15 0x100 0, tRun (exec (.lsplit 0 4) (tState [])) fun u => u.host.signals == [(15, 0x100, 0)]]),
    (let s := (tServed.modCore 0 fun k => { k with ctxs := [], work := { k.work with porterQ := [tActive] } })
     let w := { tServed with timers := [(2 ^ 64, .activeMessageArrival 0 tWrite)] }.modCore 0 fun k => { k with ctxs := [] }
     [(s.core 0).slotsEmpty, s.porterIdle 0 = false, tRun (exec (.lsplit 0 4) s) fun u => u.timers == [(8, .lsplit 0 4)],
      (w.core 0).slotsEmpty, w.porterIdle 0, tRun (exec (.lsplit 0 4) w) fun u => u.timers == [] && u.net == [.activeMessageArrival 0 tWrite]]),
    (let s := tVacant
     [(List.range 17).all fun i => (s.core (coreKey 0 0 i)).slotsEmpty, tRun (exec (.vgroup 0 2) s) fun u => (u.core 0).csr.vgroup == 2 && (u.hedge 0).victim == [] && (u.core 0).cache == [] && u.net == [.writeback 512 0 0 7 0 true],
      tRun (exec (.vgroup 0 4) s) fun u => (u.core 0).csr.vgroup == 0 && (u.core 0).cache.length == 1, tRun (exec (.vgroup 0 3) s) fun u => u == s.signal 15 0x101 0,
      tRun (exec (.vgroup 0 1) (tState [])) fun u => u.host.signals == [(15, 0x101, 0)]]),
    (let s := { tState [] with now := 50 }
     [tRun (exec (.dbgctl 0 1) s) fun u => ({ u with now := 57 } : State).debugMode 0 == false && ({ u with now := 58 } : State).debugMode 0, tRun (exec (.dbgctl 0 3) s) fun u => (u.core 0).csr.dbgctl == 1, tRun (exec (.dbgctl 0 2) s) fun u => (u.core 0).csr.dbgctl == 0,
      tRun (exec (.shasid 0 0xFFFF) (tVacant.modCore 0 fun k => { k with regs := { k.regs with w := [(1, { loading := true }), (2, { n := 3 })] } })) fun u => (u.core 0).csr.shasid == 0xFFFF && (u.core 0).regs == { w := [(1, { loading := true })] },
      tRun (exec (.shasid 0 1) s) fun u => u == s,
      tRun (exec (.mecheck 0 7) s) fun u => u == s.signal 15 0x200 0, tRun (exec (.mecheck 0 4097) s) fun u => u == s.signal 15 0x200 0, tRun (exec (.mecheck 0 8) s) fun u => (u.hedge 0).mecheck == 8, tRun (exec (.mecheck 0 4096) s) fun u => (u.hedge 0).mecheck == 4096,
      tRun (exec (.managementWindowWrite (.asidEntry 7 (1 + 3 * 2 ^ 59 + 5 * 2 ^ 90 + 6 * 2 ^ 133))) s) fun u => Tab.get? (u.die 7).asids 1 == some { root := 3 * 2 ^ 17, farBase := 5, farLimit := 6 },
      tRun (exec (.managementWindowWrite (.dieCsr 7 0x300 70)) s) fun u => (u.die 7).sparefree == 6, tRun (exec (.managementWindowWrite (.coreCsr 0 0x102 1)) s) fun u => tRun (exec (.dbgctl 0 1) s) fun v => u == v,
      tRun (exec (.managementWindowWrite (.renameCopy 7 511 1 2)) s) fun u => Tab.get? (u.die 7).pendRename 511 == some { st := 1, phys := 2 }, tRun (exec (.managementWindowWrite (.hedgeCsr 255 0x200 9)) s) fun u => (u.hedge 255).mecheck == 9]),
    ([((tBlocks []).core 0).work.placed.all fun p => 48 < p.addr || p.addr + 8 * p.count ≤ 48, tRun (exec (.managementWindowWrite (.istore 0 48 5)) (tBlocks [])) fun u => u.mem == Memory.write [] (istoreAt 0 48) 1 5])] = true := by decide +kernel

/-! ### The host's side (17) -/

/-- Any capability that the sealing unit has sealed holds where its open bits say so (17 R373). -/
theorem tSealed (s : State) (b : Nat) (hb : b < 2 ^ 104) : s.seal (s.seal b) = s.seal b ∧ ∀ lo w, lo + w ≤ 104 → fld (s.seal b) lo w = fld b lo w := by
  have h : s.seal b = b + Config.sealOf s.host.keyDraw b % 2 ^ 24 * 2 ^ 104 := by rw [State.seal, Nat.mod_eq_of_lt hb]
  constructor
  · rw [h, State.seal, Nat.add_mul_mod_self_right, Nat.mod_eq_of_lt hb]
  · intro lo w hw
    rw [h]
    generalize Config.sealOf s.host.keyDraw b % 2 ^ 24 = c
    obtain ⟨k, hk⟩ : ∃ k, 104 = lo + w + k := ⟨104 - (lo + w), by omega⟩
    rw [fld, fld, hk, show c * 2 ^ (lo + w + k) = c * 2 ^ k * 2 ^ w * 2 ^ lo by ring, Nat.add_mul_div_right _ _ (Nat.two_pow_pos lo), Nat.add_mul_mod_self_right]
theorem tCapOk (s : State) (q : HQueue) (b type : Nat) (write : Bool) (at_ n : Nat)
    (hg : Tab.getD q.gens type 0 = 0) (h : (b < 2 ^ 104 && fld b 80 8 == 0 && fld b 96 8 == type && fld b 90 6 == 0 && fld b (if write then 89 else 88) 1 == 1 && fld b 48 32 != 0 &&
      fld b 0 48 ≤ at_ && at_ + n ≤ fld b 0 48 + fld b 48 32) = true) : s.capOk q (s.seal b) type write at_ n = true := by
  simp only [Bool.and_eq_true, decide_eq_true_eq] at h
  obtain ⟨⟨⟨⟨⟨⟨⟨hb, h1⟩, h2⟩, h3⟩, h4⟩, h5⟩, h6⟩, h7⟩ := h
  obtain ⟨hs, hf⟩ := tSealed s b hb
  have hbit : bit (s.seal b) (if write then 89 else 88) = true := by
    rw [← hf _ 1 (by split <;> omega), fld, pow_one] at h4
    rw [bit, h4]
  rw [State.capOk, capGen, capType, capLength, capBase, hs, hbit, hf _ _ (show 80 + 8 ≤ 104 by omega), hf _ _ (show 96 + 8 ≤ 104 by omega),
    hf _ _ (show 90 + 6 ≤ 104 by omega), hf _ _ (show 48 + 32 ≤ 104 by omega), hf _ _ (show 0 + 48 ≤ 104 by omega), hg, h1, h2, h3, h5, decide_eq_true h6, decide_eq_true h7]
  simp only [beq_self_eq_true, Bool.and_self]
/-- Queue 3 of die 0 of function 1, with rings of 4 KB at 1 MB and 2 MB of host memory that its capabilities cover. -/
def tCap (type base : Nat) : Nat := 2 ^ 44 + base + 4096 * 2 ^ 48 + 3 * 2 ^ 88 + type * 2 ^ 96
def tQueue3 (s : State) (mapped : Bool) : HQueue :=
  { fn := 1, mapped := mapped, cmdCap := s.seal (tCap 1 0x100000), cplCap := s.seal (tCap 2 0x200000), saveCap := s.seal (tCap 3 0x300000) }
def tQueued (mapped : Bool) (s : State) : State :=
  { s with host := { s.host with fns := [(1, { asids := [1], windows := [(65536, 256)] })], queues := [(3, tQueue3 s mapped)] } }
/-- A command of a package that forwards it; of queue 3. -/
def tCmd (op asid : Nat) (l : List Word) (queue : Nat := 65) : HostCmd := { die := 0, queue := queue, d := BitVec.ofNat 64 (op * 2 ^ 56 + asid) :: l ++ List.replicate (7 - l.length) 0 }
def tAny (s : State) : State := { s with jobs := [] }
theorem tCap_place (u : State) (b n : Nat) (hb : b < 2 ^ 104) : ringPlace (u.seal b) n 0 = fld b 0 48 := by
  rw [ringPlace, Nat.zero_mod, Nat.mul_zero, Nat.add_zero, capBase, (tSealed u b hb).2 0 48 (by decide)]
theorem tCap_length (u : State) (b : Nat) (hb : b < 2 ^ 104) : capLength (u.seal b) = fld b 48 32 := by
  rw [capLength, (tSealed u b hb).2 48 32 (by decide)]
theorem tQueue3_caps (u s : State) (mapped : Bool) (hk : u.host.keyDraw = s.host.keyDraw) :
    u.capOk (tQueue3 s mapped) (tQueue3 s mapped).cmdCap 1 false (ringPlace (tQueue3 s mapped).cmdCap 64 0) 64 = true ∧
    u.capOk (tQueue3 s mapped) (tQueue3 s mapped).cplCap 2 true (ringPlace (tQueue3 s mapped).cplCap 16 0) 16 = true ∧ 64 ≤ capLength (tQueue3 s mapped).cmdCap ∧
    ∀ write, u.capOk (tQueue3 s mapped) (tQueue3 s mapped).saveCap 3 write (capBase (tQueue3 s mapped).saveCap) 1 = true := by
  have e : ∀ b, s.seal b = u.seal b := fun b => by rw [State.seal, State.seal, hk]
  have h1 : (tQueue3 s mapped).cmdCap = u.seal (tCap 1 0x100000) := e _
  have h2 : (tQueue3 s mapped).cplCap = u.seal (tCap 2 0x200000) := e _
  have h3 : (tQueue3 s mapped).saveCap = u.seal (tCap 3 0x300000) := e _
  have g : ∀ t, Tab.getD (tQueue3 s mapped).gens t 0 = 0 := fun t => rfl
  have b3 : capBase (u.seal (tCap 3 0x300000)) = fld (tCap 3 0x300000) 0 48 := by rw [capBase, (tSealed u _ (by decide +kernel)).2 0 48 (by decide)]
  generalize tQueue3 s mapped = q at *
  rw [h1, h2, h3, tCap_place u _ 64 (by decide +kernel), tCap_place u _ 16 (by decide +kernel), b3, tCap_length u _ (by decide +kernel)]
  refine ⟨tCapOk _ _ _ _ _ _ _ (g _) (by decide +kernel), tCapOk _ _ _ _ _ _ _ (g _) (by decide +kernel), by decide +kernel, fun w => ?_⟩
  cases w
  · exact tCapOk _ _ _ _ _ _ _ (g _) (by decide +kernel)
  · exact tCapOk _ _ _ _ _ _ _ (g _) (by decide +kernel)
theorem tQueued_queue (mapped : Bool) (s : State) : (tQueued mapped s).queue 0 3 = tQueue3 s mapped := rfl
theorem meets_CanAnswer : CanAnswer (tQueued true (tState [])) (tCmd 1 2 [] 3) ∧ (tQueued true (tState [])).asidOpen (tCmd 1 2 [] 3) = false ∧
    (tQueued true (tState [])).asidOpen (tCmd 1 1 [] 3) = true ∧ ∀ s op asid l, CanAnswer s (tCmd op asid l) := by
  refine ⟨.inr ?_, by decide +kernel, by decide +kernel, fun _ _ _ _ => .inl (by simp only [tCmd]; decide)⟩
  show State.capOk _ ((tQueued true (tState [])).queue 0 3) ((tQueued true (tState [])).queue 0 3).cplCap 2 true
    (ringPlace ((tQueued true (tState [])).queue 0 3).cplCap 16 ((tQueued true (tState [])).queue 0 3).cplTail) 16 = true
  rw [tQueued_queue]
  exact (tQueue3_caps (tQueued true (tState [])) (tState []) true rfl).2.1
def tLaunch (chip chips : Nat) (hdr map : Nat) : HostCmd := tCmd 1 1 [BitVec.ofNat 64 hdr, 0, 0, 0, 0, BitVec.ofNat 64 (7 * 2 ^ 24 + chip * 2 ^ 8 + chips - 1), BitVec.ofNat 64 map]
/-- A header of class 1 with one root at 64 of page 0; a chip map of two chips at 4,096. -/
def tHeaders (features : Nat) : Memory :=
  Memory.write (Memory.write [] 65600 64 (2 ^ 56 + 2 ^ 16 + 1 + 128 * 2 ^ 64 + 2 ^ 128 + 2 ^ 256 + features * 2 ^ 384)) 69632 32 (5 + 9 * 2 ^ 64 + 6 * 2 ^ 128)
def tHeader (features : Nat) : State := { tAny (tMapped (tState [])) with mem := tHeaders features, host := { drvfeat := 3, links := [(0, 9)] } }
def tTwo (j : Job) : State := { tState [] with jobs := [j] }
theorem meets_JobsLaunchedAndStopped : tMet [
    (let s := tHeader 2
     let z := s.readHeader 0 1 64
     [cmdOpcode (tLaunch 0 1 64 0) = 1, s.asidOpen (tLaunch 0 1 64 0), cmdReserved (tLaunch 0 1 64 0) [1, 2, 3, 4, 6, 7] = false, launchBreaks (tLaunch 0 1 64 0) = false, s.jobOf 1 = none, s.job 7 = none,
      z.1.map (fun g => (g.cls, g.count, g.features)) = some (1, 1, 2), z.2.host == s.host, z.2.jobs == s.jobs,
      tRun (exec (.launch (tLaunch 0 1 64 0)) s) fun u => (u.job 7).map (fun j => (j.asids, j.cls, j.started)) == some ([1], 1, true)]),
    (let s := tHeader 4
     [(s.readHeader 0 1 64).1.map GraphHeader.features = some 4, tRun (exec (.launch (tLaunch 0 1 64 0)) s) fun u => u.jobs == [],
      cmdOpcode (tCmd 2 1 []) ≠ 1, launchBreaks (tLaunch 1 1 64 0), (tState []).jobOf 1 ≠ none, tRun (exec (.launch (tLaunch 1 1 64 0)) s) fun u => u.jobs == [], cmdReserved (tCmd 1 (2 ^ 16 + 1) []) [1, 2, 3, 4, 6, 7]]),
    (let s := tHeader 2
     [lcChip (tLaunch 1 2 0 4096) ≠ 0, (s.readMap 0 1 4096 1 2).1 = some [(0, (5, 9)), (1, (6, 0))]]),
    (let s := tTwo { num := 7, asids := [1], chips := 3, cls := 1, features := 2 }
     [s.job 8 = none, tRun (exec (.managementMessage (.join 8 1 3)) s) fun u => u.outbox == [{ chip := 1, msg := .managementMessage (.answer 8 0 0 1) }],
      tRun (exec (.managementMessage (.join 7 2 3)) s) fun u => u.outbox == [{ chip := 2, msg := .managementMessage (.answer 7 1 2 0) }] && (u.job 7).map Job.joined == some [2]]),
    (let s := tTwo { num := 7, asids := [1], chip := 1, chips := 3, cmd := some (tLaunch 1 3 0 4096) }
     [tRun (exec (.managementMessage (.answer 7 1 0 1)) s) fun u => (u.job 7).isNone, tRun (exec (.managementMessage (.answer 7 1 0 0)) s) fun u => (u.job 7).map (fun j => (j.cls, j.started, j.cmd)) == some (1, true, none)]),
    (let s := tTwo { num := 7, asids := [1], chips := 2, st := .stopped }
     [tRun (exec (.managementMessage (.digest 7 1 5 6)) s) fun u => (u.job 7).map Job.digests == some [(1, (5, 6))]]),
    (let s := tState []
     [(s.jobOf 1).map (fun j => (j.chips, j.chip, j.st)) = some (1, 0, .running), cmdReserved (tCmd 2 1 [1]) [1] = false,
      tRun (exec (.stop (tCmd 2 1 [1])) s) fun u => (u.ctx 0 0).status == .stopped && (u.ctx 0 0).prior == some .ready && (u.job 1).map Job.st == some .stopped,
      tRun (exec (.stop (tCmd 2 1 [])) s) fun u => (u.job 1).isNone && (u.ctx 0 0).status == .free,
      s.jobOf 2 = none, tRun (exec (.stop (tCmd 2 2 [])) s) fun u => u == s]),
    (let s := { tTwo { num := 7, asids := [1], chips := 2 } with host := { fns := [(0, { asids := [1] })] } }
     let cmd := tCmd 2 1 [1] 3
     let pending : PendingStop := { cmd := cmd, job := 7, chips := [1] }
     [cmd.queue < 64, (s.jobOf 1).map Job.num = some 7, s.asidOpen cmd, cmdReserved cmd [1] = false, cmdDouble cmd 1 = 1,
      tRun (exec (.stop cmd) s) fun u => u.host.stops == [pending] && u.outbox.map OutMsg.chip == [1] && (u.job 7).map Job.st == some .stopped,
      tRun (exec (.managementMessage (.command { cmd with d := [BitVec.ofNat 64 (2 * 2 ^ 56), 1, 0, 0, 0, 0, 0, 0, BitVec.ofNat 64 (256 * 7 + 1)] })) s) fun v =>
        v.outbox == [{ chip := 1, msg := .managementMessage (.stopped 7 0) }] && (v.job 7).map Job.st == some .stopped,
      tRun (exec (.managementMessage (.stopped 7 1)) { s with host := { s.host with stops := [{ pending with cmd := tCmd 2 1 [1] }] } }) fun u => u.host.stops == []])] = true := by decide +kernel

def tYewJob (snaps : List Snap) : State := { tState [] with yew := { snaps := snaps } }
theorem meets_HostCommandsServed : tMet [
    ([tYewJob [tSnap], tYewJob [{ tSnap with job := 2 }], tYewJob []].zip [0, 1, 2] |>.flatMap fun (s, n) =>
     [s.asidOpen (tCmd 3 1 [7]), cmdReserved (tCmd 3 1 [7]) [1] = false, s.quiet, s.finishedAt 1 7 = none,
      tRun (exec (.hostSnapshot (tCmd 3 1 [7])) s) fun u => u.yew.held.length == (if n == 1 then 1 else 0) && u.openSnap.isSome,
      tRun (exec (.hostRollback (tCmd 4 1 [7])) s) fun u => u == s, tRun (exec (.hostRelease (tCmd 5 1 [7])) s) fun u => u == s]),
    (let s := { tRollable with iss := {} }
     [s.finishedAt 1 7 = some 0, (s.rollback 1 7).isSome, tRun (exec (.hostRollback (tCmd 4 1 [7])) s) fun u => tReg 3 u == 33, tRun (exec (.hostRelease (tCmd 5 1 [7])) s) fun u => u.yew.snaps.map Snap.status == [3]]),
    (let cmd := tCmd 6 0 [11, 12, 13, 14, 0, 64]
     [cmdReserved cmd [1, 2, 3, 4, 6] = false, cmdAsid cmd = 0, cmdDouble cmd 6 % 64 = 0, cmdDouble cmd 6 + 8640 ≤ 2 ^ 44, (64 : Nat) ≤ cmd.queue]),
    ([{ tYewJob [] with host := { leaf := 1023, leafB := { seq := 1, end_ := 1024 } } }, { tYewJob [] with host := { leaf := 1024, leafB := { seq := 1, end_ := 1024 } } }].zip [(1024, 0), (1025, 2)] |>.flatMap fun (s, leaf, seq) =>
     [s.host.reserve.leafB.seq = 1, s.host.reserve.leafA.seq = seq, s.host.leaf + 1 = leaf]),
    (let s := tYewJob []
     [s.jobOf 2 = none, tRun (exec (.migrateOut (tCmd 7 2 [7])) s) fun u => u == s, (tCmd 7 1 [7]).d.length = 8, cmdReserved { tCmd 7 1 [7] with d := (tCmd 7 1 [7]).d.take 8 } [1, 7] = false,
      tRun (exec (.migrateOut (tCmd 7 1 [7])) s) fun u => u.openSnap.isSome && u.timers.contains (64, .migrateOut { tCmd 7 1 [7] with d := (tCmd 7 1 [7]).d ++ [1] })]),
    (let s := tYewJob [{ tSnap with status := 1 }]
     let cmd := { tCmd 7 1 [7] with d := (tCmd 7 1 [7]).d ++ [1] }
     [cmdDouble cmd 8 = 1, s.openSnap = none, (s.job 1).map (fun j => (j.chips, j.st)) = some (1, .running), tRun (exec (.migrateOut cmd) s) fun u => (u.job 1).map Job.st == some .stopped && (u.ctx 0 0).status == .stopped]),
    (let s := tAny (tState [])
     [launchBreaks (tLaunch 0 1 7 0) = false, s.jobOf 1 = none, s.job 7 = none, tRun (exec (.migrateIn (tLaunch 0 1 7 0) 2) s) fun u =>
        (u.job 7).map (fun j => (j.st, j.cls)) == some (.stopped, 2) && u.yew.snaps.map (fun n => (n.job, n.tag, n.status)) == [(7, 7, 1)] && u.host.fver == 1 && u.outbox == [],
      tRun (exec (.migrateIn (tLaunch 0 2 7 0) 2) s) fun u => u.outbox.map OutMsg.chip == [1],
      tRun (exec (.migrateIn (tLaunch 0 1 7 0) 2) (tState [])) fun u => u == tState []])] = true := by decide +kernel

theorem tCapNo (s : State) (q : HQueue) (cap type at_ n : Nat) (write : Bool) (h : bit cap (if write then 89 else 88) = false) : s.capOk q cap type write at_ n = false := by
  rw [State.capOk, h]
  simp only [Bool.and_false, Bool.false_and]
/-- Queue 3 with a command to read; with capabilities that permit nothing; a queue that is not mapped; a frozen function and a frozen queue. -/
def tQ3 (f : HQueue → HQueue) (mapped : Bool) : State :=
  { tState [] with host := { fns := [(1, { asids := [1], windows := [(65536, 256)] }), (2, { frozen := true })], queues := [(3, f (tQueue3 (tState []) mapped))] } }
theorem meets_QueuesServed : tMet [
    (let s := tQ3 id true
     [(s.queue 0 3).fn = 1, (Tab.getD s.host.fns 1 {}).frozen = false, (s.queue 0 3).frozen = false, (s.queue 0 3).mapped, (s.queue 0 3).tail = 0, (s.queue 0 3).head = 0,
      (Tab.getD s.host.fns 2 {}).frozen, (s.queue 0 3).fn ≠ 0]),
    (let s := tQ3 (fun q => { q with cmdCap := 64 * 2 ^ 48 }) true
     [64 ≤ capLength (s.queue 0 3).cmdCap, bit (s.queue 0 3).cmdCap 88 = false, (s.queue 0 3).mapped]),
    (let s := tQ3 id false
     [(s.queue 0 3).mapped = false, (s.queue 0 3).frozen = false, (s.queue 0 3).wake = false]),
    (let s := tQ3 (fun q => { q with saveCap := 0 }) false
     [(s.queue 0 3).mapped = false, bit (s.queue 0 3).saveCap 88 = false]),
    (let s := tQ3 (fun q => { q with frozen := true, head := 2, tail := 2 }) true
     [(s.queue 0 3).frozen, (s.queue 0 3).mapped, (s.queue 0 3).tail ≤ (s.queue 0 3).head]),
    ([cmdOpcode (tCmd 1 0 []) = 1, cmdOpcode (tCmd 7 0 []) = 7, 8 < cmdOpcode (tCmd 9 0 []), cmdOpcode (tCmd 0 0 []) = 0, tRun (exec (.migrateOut (tCmd 7 0 [])) (tState [])) fun u => u == (tState []).serveCmd (tCmd 7 0 [])]),
    (let s := { tQ3 id true with mem := Memory.write [] 65600 8 77 }
     [tRun (exec (.hostBar2Request 2 65600 8 none) s) fun u => u.host.bar2 == [(2, 65600, none)], tRun (exec (.hostBar2Request 1 65784 16 none) s) fun u => u.host.bar2 == [(1, 65784, none)] && (Tab.getD u.host.fns 1 {}).frozen,
      tRun (exec (.hostBar2Request 1 65600 8 none) s) fun u => u.host.bar2 == [(1, 65600, some 77)] && u.mem == s.mem]),
    (let s := State.setEntry (tQ3 id true) { (tE .s 0) with line := 513 }
     [s.entry? 513 = some { (tE .s 0) with line := 513 }, s.net = [], isSramLine 513 = false, s.openSnap = none, s.dies = [], s.mem.wf, tRun (exec (.hostBar2Request 1 65784 8 (some 9)) s) fun u => u.mem == Memory.write [] 65784 8 9 && u.host.bar2 == [(1, 65784, some 9)]])] = true := by decide +kernel
theorem meets_QueuesServed_caps : (tQ3 id true).queue 0 3 = tQueue3 (tState []) true ∧ (tQ3 id false).queue 0 3 = tQueue3 (tState []) false ∧
    (∀ mapped, (tQ3 id mapped).capOk (tQueue3 (tState []) mapped) (tQueue3 (tState []) mapped).cmdCap 1 false (ringPlace (tQueue3 (tState []) mapped).cmdCap 64 0) 64 = true ∧
      (tQ3 id mapped).capOk (tQueue3 (tState []) mapped) (tQueue3 (tState []) mapped).cplCap 2 true (ringPlace (tQueue3 (tState []) mapped).cplCap 16 0) 16 = true ∧
      64 ≤ capLength (tQueue3 (tState []) mapped).cmdCap ∧
      ∀ write, (tQ3 id mapped).capOk (tQueue3 (tState []) mapped) (tQueue3 (tState []) mapped).saveCap 3 write (capBase (tQueue3 (tState []) mapped).saveCap) 1 = true) ∧
    (∀ a, (tQ3 (fun q => { q with cmdCap := 64 * 2 ^ 48 }) true).capOk ((tQ3 (fun q => { q with cmdCap := 64 * 2 ^ 48 }) true).queue 0 3) (64 * 2 ^ 48) 1 false a 64 = false) ∧
    ∀ a, (tQ3 (fun q => { q with saveCap := 0 }) false).capOk ((tQ3 (fun q => { q with saveCap := 0 }) false).queue 0 3) 0 3 false a 1 = false :=
  ⟨rfl, rfl, fun _ => tQueue3_caps _ _ _ rfl, fun _ => tCapNo _ _ _ _ _ _ _ (by decide +kernel), fun _ => tCapNo _ _ _ _ _ _ _ (by decide +kernel)⟩
theorem meets_PackageGoverned : tMet [
    (let s := { tState [] with host := { drvfeat := 3, fns := [(0, { frozen := true }), (4, { frozen := true })] } }
     [tRun (exec (.functionLevelReset 0) s) fun u => u.host.drvfeat == 0 && !(Tab.getD u.host.fns 0 {}).frozen && (Tab.getD u.host.fns 4 {}).frozen,
      tRun (exec (.functionLevelReset 4) s) fun u => u.host.drvfeat == 3 && !(Tab.getD u.host.fns 4 {}).frozen, tRun (exec (.drvfeat 1) s) fun u => u.host.drvfeat == 1 &&& feat0, tRun (exec (.drvfeat (2 ^ 63)) s) fun u => u == s]),
    ([∃ j ∈ (tState []).jobs, j.st = .running, tRun (exec (.firmwareUpdate 5) (tState [])) fun u => u == tState [],
      tRun (exec (.firmwareUpdate 5) (tTwo { num := 1, asids := [1], st := .stopped })) fun u => u.host.fver == 5 * 2 ^ 32 + 1]),
    ([tRun (exec (.thermalThrottle 7) (tState [])) fun u => (u.die 7).clockDown == 1, tRun (exec (.thermalStop 7) (tState [])) fun u => (u.die 7).stopped && u.jobs.all fun j => j.st == .ended,
      tRun (exec (.watchdogFires 0) (tState [])) fun u => u.host.signals == [(14, 0, 0)]]),
    (let s := { tState [(1, 1)] with mem := Memory.write (Memory.write [] (2 ^ 43) 1 5) 65536 1 6, host := { keyDraw := 4, leaf := 1025, leafA := { seq := 2, end_ := 2048 }, leafB := { seq := 1, end_ := 1024 } } }
     let w := { s with host := { s.host with leafA := { seq := 2, end_ := 2048, good := false } } }
     [tRun (exec (.packageReset (.failed 3)) s) fun u => u.host.halted && u.host.bootstat == 3 && u.host.leaf == 2048 && u.host.enrolled == 0,
      tRun (exec (.packageReset (.failed 3)) w) fun u => u.host.leaf == 1024 && u.host.enrolled == 0,
      tRun (exec (.packageReset (.failed 3)) { s with host := { s.host with helper := false } }) fun u => u.host.leaf == 0 && u.host.enrolled == 1])] = true := by decide +kernel
/-- Whether an image is valid rests on opaque functions: each image meets the one case or the other. -/
theorem meets_PackageGoverned_image (img : BootImage) : ∃ u, exec (.packageReset (.fetched img)) (tState []) = .next u ∧
    (bootValid img = true ∧ u.host.image = some img ∨ bootValid img = false ∧ u.host.bootstat = 3) := by
  refine ⟨_, rfl, ?_⟩
  cases h : bootValid img
  · exact .inr ⟨rfl, by simp only [h, Bool.false_eq_true, if_false]⟩
  · exact .inl ⟨rfl, by simp only [h, if_true]⟩

/-! ### Operands and pairs (03, 07, 08) -/

/-- What an operand gives, or the queue that it waits for. -/
def tOperand (s : State) (a : Operand) (v : Word) : Bool := match s.readOp 0 0 0 a with | .val w _ => w == v | _ => false
def tOperands : State := { tIn (tState [(15, 5)]) (fun x => { x with h := [(2, 6)], lc := 7, la := 8, out := [{ seq := 1, dest := .g 3, left := 1, alt := some 9 }] }) with now := 8 }
def tOldK (n : Nat) : State := { (tState []).modCore 0 (fun k => { k with regs := { k := [(5, 2)], kOld := [{ n := 5, old := 1, slot := 0, at_ := 0 }] } }) with now := n }
theorem meets_OperandsRead : tMet [
    (let s := tOperands
     [s.iss.view = none, (s.ctx 0 0).latch = [], (s.ctx 0 0).pendFor (.g 15) = none, ((s.ctx 0 0).pendFor (.g 3)).isSome, (s.ctx 0 0).pendFor (.h 2) = none, tOperand s (.g 15) 5, tOperand s (.h 2) 6, tOperand s .lc 7, tOperand s .la 8,
      tOperand s .zero 0, tOperand s (.q 7) 0, tOperand s (.k 5) 0]),
    ([((tOldK 8).core 0).regs.kOld.all fun r => r.at_ + 8 ≤ 8, tOperand (tOldK 8) (.k 5) 2, ((tOldK 7).core 0).regs.kOld.filter (fun e => e.n == 5) = [{ n := 5, old := 1, slot := 0, at_ := 0 }], 7 < 0 + 8]),
    ([1, 4, 5].flatMap fun n =>
     let s := tQ (tState []) fun q => { q with msq := [(77, 30)], evq := [(77, 30)], inq := [(77, 30)] }
     [(s.core 0).q.ready n 0, (s.core 0).q.entries n = [(77, 30)], ((tState []).core 0).q.ready n 0 = false, match s.readOp 0 0 0 (.q (Fin.ofNat 8 n)) with | .val w t => w == 77 && (t.ctx 0 0).pt == 31 && (t.core 0).q.entries n == [] | _ => false,
      match (tState []).readOp 0 0 0 (.q (Fin.ofNat 8 n)) with | .wait m => m == n | _ => false]),
    (let s := tState []
     [earlyFault s 0 0 (.jmpr (.q 5)) 0 = none, (match s.readOps 0 0 0 (sources (.jmpr (.q 5))) with | .error (5, u) => u == s | _ => false), defers (.jmpr (.q 5)) = false, tParks (.jmpr (.q 5)) s (.entry 5),
      defers (.mov (.g 2) (.q 5)), sources (.mov (.g 2) (.q 5)) = [.q 5], tGoes (.mov (.g 2) (.q 5)) s 1 2 1, tRun (exec (.mov (.g 2) (.q 5)) s) fun u => u.me.out.map (fun p => (p.kind, p.dest)) == [(.pop, .g 2)] && (u.core 0).q.waiters.length == 1,
      8 ≤ (tFull s).me.unreturned, tParks (.mov (.g 2) (.q 5)) (tFull s) .limit]),
    (let marked := fun (s : State) => { s with iss := { s.iss with mark := true } }
     [tIssues (tState []) .nop [], tGoes .nop (tState []) 1 2 1, tIssues (marked (tOut (tState []))) .nop [], tRun (exec .nop (marked (tOut (tState [])))) fun u => u.me.status == .parked .marker && u.me.pc.word == 1,
      tRun (exec .nop (marked (tIn (tState []) fun x => { x with out := [{ seq := 1, returned := true }] }))) fun u => u.me.status == .ready && u.me.out == []])] = true := by decide +kernel

/-- The threads of slots 0 and 2 are a pair; slot 0 issues. -/
def tPaired (lead trail : Ctx → Ctx) : State := { tMem [(0, 120)] with cores := ((tMem [(0, 120)]).modCore 0 fun k => { k with ctxs :=
  [(0, lead { tCtx with pair := some 2 }), (2, trail { tCtx with pair := some 0, status := .parked .partner, win := { mainBase := 16, mainCode := 1, vecBase := 8, vecCode := 2 } })] }).cores }
def tLoadPair : Instr := .ldN (.g 2) 1 3 (.g 0)
/-- What a pair compares of an instruction that names bf1: its sources and the record. -/
def tCompared (i : Instr) (vals : List Word) : List Word := vals ++ (tPaired id id).extraVals 0 0 i
theorem meets_PairsActOnce : tMet [
    ([none, some (.bfclr 1, tCompared (.bfclr 1) []), some (.bfclr 2, [])].flatMap fun posted =>
     let s := tPaired id fun x => { x with posted := posted }
     [s.me.status = .ready, earlyFault s 0 0 (.bfclr 1) 0 = none, (match s.readOps 0 0 0 (sources (.bfclr 1)) with | .ok (v, t) => v == [] && t == s | _ => false), s.me.pair = some 2, (encode (.bfclr 1)).isSome,
      pairOnce (.bfclr 1), pairLoad (.bfclr 1) = false, s.me.phase ≠ 3, (s.extraVals 0 0 (.bfclr 1)).length = 5,
      match posted with
      | none => tParks (.bfclr 1) s .partner && tRun (exec (.bfclr 1) s) fun u => u.me.posted == some (.bfclr 1, tCompared (.bfclr 1) [])
      | some (.bfclr 1, _) => tGoes (.bfclr 1) s 1 2 1 && tRun (exec (.bfclr 1) s) fun u => (u.ctx 0 2).status == .ready && (u.ctx 0 2).pc.word == 1 && !((u.core 0).buf 1).valid
      | _ => tRun (exec (.bfclr 1) s) fun u => u.iss.res != 1]),
    (let s := tPaired (fun x => { x with tstat := 6 }) fun x => { x with loadq := [(tLoadPair, tCompared tLoadPair [120], { seq := 1 }, some 77)] }
     [pairLoad tLoadPair, s.me.tstat.testBit 2, s.me.unreturned < 8, tRun (exec tLoadPair s) fun u => (u.ctx 0 2).loadq == [] && u.me.pc.word == 1]),
    (let s := tPaired (fun x => { x with tstat := 6 }) fun x => { x with loadq := [(tLoadPair, tCompared tLoadPair [121], { seq := 1 }, some 77)] }
     [tFault tLoadPair s 0x10, tParks tLoadPair (tPaired (fun x => { x with tstat := 6 }) id) .partner, tParks tLoadPair (tPaired (fun x => { x with tstat := 2 }) fun x => { x with pipe := [tStore] }) .performed, 64 ≤ (List.replicate 64 (tLoadPair, [(120 : Word)], ({ seq := 1 } : Pending), (none : Option Nat))).length,
      tParks tLoadPair (tPaired (fun x => { x with tstat := 2, loadq := List.replicate 64 (tLoadPair, [120], { seq := 1 }, none) }) id) .partner])] = true := by decide +kernel

/-! ### Encodings, the step and memory -/

theorem meets_EncodedWordsDecode : encode (.add (.g 2) (.g 2) (.h 1)) = some 0x20020281 ∧ decode 0x20020281 = .ok (.add (.g 2) (.g 2) (.h 1)) ∧ (0x20020281 : Nat) < 2 ^ 30 := by decide
theorem meets_WordsHaveOneMeaning : (0x18 ≤ 0x1F000000 / 2 ^ 24 % 64 ∧ 0x1F000000 / 2 ^ 24 % 64 ≤ 0x1F) ∧ (0x01000200 / 2 ^ 24 % 64 = 0x01 ∧ 0x01000200 / 2 ^ 9 % 8 ≠ 0) ∧
    (0x17001000 / 2 ^ 24 % 64 = 0x17 ∧ 0x17001000 / 2 ^ 8 % 32 ≠ 0) ∧ 0x3F000700 / 2 ^ 24 % 64 = 0x3F ∧ 0x3F000700 / 2 ^ 8 % 8 ≠ 0 := by decide
/-- Both words lone; the second one's L is 0; a C-class word and an A-class word; a pair of two C-class words. -/
theorem meets_SpecWordsDecode : (0xB003FFFE / 2 ^ 31 = 1 ∧ 0xC1032011 / 2 ^ 31 = 1) ∧ 0x20020281 / 2 ^ 31 = 0 ∧ (0x49040E09 / 2 ^ 31 = 0 ∧ (0x49040E09 : Nat).testBit 29 = false ∧
    (0x20020281 : Nat).testBit 29 = true ∧ 0x20020281 / 2 ^ 30 = 0) ∧ (0x00000000 : Nat).testBit 29 = false := by decide
/-- The thread of core 0 stands at bundle 2 of block 1, whose words are given; beyond the block's end. -/
def tFetch (b off word now : Nat) : State := { tIn (tBlocks [(0, 7)]) (fun x => { x with pc := { blk := 1, off := off, word := word } }) with
  mem := Memory.write [] (istoreAt 0 16) 8 b, iss := {}, now := now }
def tStep (s : State) (f : State → Bool) : Bool := tRun (step s) fun t => f t && t.now == s.now + 1 && t.iss == {}
/-- LI g3, -2 beside BNEZ g3, 1; a paired MOV and ADD, of which each reads what stood before; a message in flight. -/
theorem meets_StepRunsTheDecodedInstruction : tMet [
    ([0, 1].flatMap fun word =>
     let s := tFetch 0xC1032001B003FFFE 2 word 0
     [s.host.halted = false, s.script = [], s.nextContext = some (0, 0), s.mayIssue 0 0 (s.ctx 0 0), ((s.core 0).placedBlock 1 1).map Placed.count = some 4, s.bundle 0 { asid := 1, blk := 1, count := 4, mainCode := 1, vecCode := 2, descs := [0, 3] } 2 = 0xC1032001B003FFFE,
      decodeBundle 0xC1032001B003FFFE = .lone 0xB003FFFE 0xC1032001, decode 0xB003FFFE = .ok (.li (.g 3) 0xFFFE), decode 0xC1032001 = .ok (.bnez (.g 3) 1),
      tStep s fun t => if word == 0 then tReg 3 t == 0xFFFFFFFFFFFFFFFE && (t.ctx 0 0).pc.word == 1 else (t.ctx 0 0).pc == { blk := 1, off := 3 }]),
    (let s := tFetch 0x9F00000081000200 2 0 0
     [decodeBundle 0x9F00000081000200 = .lone 0x81000200 0x9F000000, (decode 0x81000200).toOption = none, tStep s fun t => (t.ctx 0 0).fcode == 1]),
    ([tStep (tFetch 0 2 0 0) fun t => (t.ctx 0 0).fcode == 1, tStep (tFetch 0 4 0 0) fun t => (t.ctx 0 0).fcode == 5]),
    (let s := tFetch 0x20000300 2 0 0
     [tStep { s with script := [.issue 0 0] } fun t => t.script == []]),
    (let s := { tState [] with net := [.watchdogFires 0], now := 1, iss := {} }
     [s.script = [], s.timers = [], tStep s fun t => t.host.signals == [(14, 0, 0)] && t.net == []])] = true := by decide +kernel
theorem meets_MemoryCanonical : State.reset.mem.wf = true ∧ (Memory.write [(5, 1), (6, 2)] 5 1 0).wf = true ∧ Memory.write [(5, 1), (6, 2)] 5 1 0 = [(6, 2)] := by decide
theorem meets_StepsKeepMemoryCanonical : State.reset.mem.wf = true ∧ tRun (step State.reset) (fun t => t.now == 1) = true := by decide +kernel

end Sys2Proof.Tests
end

section
/-! What package reset leaves (01 R24; 03 R54; 04 R83): at reset no table of the package has an entry, so a lookup by any key gives
the default record of its part, and the fields of that record are the reset values. -/

namespace Sys2Proof

/-- A table without entries gives the value of an absent key. -/
@[simp] theorem Tab.getD_nil {α : Type} (k : Nat) (d : α) : Tab.getD [] k d = d := rfl

end Sys2Proof

namespace Sys2Proof.Machine

@[simp] theorem State.core_reset (c : Nat) : State.reset.core c = {} := Tab.getD_nil c _
@[simp] theorem State.hedge_reset (h : Nat) : State.reset.hedge h = {} := Tab.getD_nil h _
@[simp] theorem State.die_reset (d : Nat) : State.reset.die d = {} := Tab.getD_nil d _
@[simp] theorem State.mem_reset : State.reset.mem = [] := rfl
@[simp] theorem State.now_reset : State.reset.now = 0 := rfl
@[simp] theorem State.host_reset : State.reset.host = {} := rfl

@[simp] theorem State.ctx_reset (c slot : Nat) : State.reset.ctx c slot = {} := by
  rw [State.ctx, State.core_reset, Core.ctx, Tab.getD_nil]

/-- CYCLE counts from the reset (03 R75). -/
@[simp] theorem State.cycle_reset (c : Nat) : State.reset.cycle c = 0 := by
  rw [State.cycle, State.now_reset, Nat.zero_sub]

/-- Every logical core is in service on the physical core of its own number (01 R24; 05 R124). -/
@[simp] theorem State.rename_reset (id : Nat) : State.reset.rename id = { st := 0, phys := coreOf id } := by
  rw [State.rename, State.die_reset, Tab.getD_nil]

/-- A core fresh from reset has an invalid record in every buffer-table entry (03 R72). -/
@[simp] theorem Core.buf_default (n : Nat) : ({} : Core).buf n = {} := Tab.getD_nil n _

/-- A hedge fresh from reset has every accumulator tile clear (03 R73). -/
@[simp] theorem Hedge.tile_default (t : Nat) : ({} : Hedge).tile t = {} := Tab.getD_nil t _

/-- Settles O58, part by part: each part's lookup at reset is its default record, whose fields are read off. -/
theorem resetLeaves : Obligations.ResetLeaves := by
  unfold Obligations.ResetLeaves
  refine ⟨?contexts, ?cores, ?hedges, ?dies, ?names, ?memory, ?host⟩
  case contexts => intro c slot; rw [State.ctx_reset]
  case cores =>
    intro c
    simp only [State.core_reset, State.cycle_reset, Core.buf_default, Tab.getD_nil]
    simp [Ring.all]
  case hedges =>
    intro h
    simp only [State.hedge_reset, Hedge.tile_default]
    simp
  case dies =>
    intro d
    simp only [State.die_reset, Ring.capacity]
    simp
  case names => intro id; simp only [State.rename_reset, and_self]
  case memory => intro a _; rw [State.mem_reset, Memory.byte_nil]
  case host => rw [State.host_reset]

end Sys2Proof.Machine
end

section
/-! What the shared operations of travelling threads do (02; 05; 15): one lemma for each, in the situation of the statements of 02. -/

namespace Sys2Proof.Machine

/-! ### Frames of one core -/

/-- A step that only puts a core into the table changes nothing outside it. -/
theorem OnlyCore.put {c : Nat} {k : Core} {t u : State} (h : u = { t with cores := Tab.put t.cores c k }) : OnlyCore c t u := by
  subst h
  exact ⟨rfl, fun e he => Tab.getD_put_ne _ _ _ he⟩

/-- A core, or a die, as it was last put into its table. -/
theorem State.core_put {u : State} {cs : Tab Core} {c : Nat} {k : Core} (h : u.cores = Tab.put cs c k) : u.core c = k := by
  rw [State.core, h, Tab.getD_put_self]
theorem State.core_put_ne {t u : State} {c a : Nat} {k : Core} (h : u.cores = Tab.put t.cores c k) (ha : a ≠ c) : u.core a = t.core a := by
  rw [State.core, h, Tab.getD_put_ne _ _ _ ha, State.core]
theorem State.die_put {u : State} {ds : Tab Die} {d : Nat} {x : Die} (h : u.dies = Tab.put ds d x) : u.die d = x := by
  rw [State.die, h, Tab.getD_put_self]
theorem State.die_put_ne {t u : State} {d a : Nat} {x : Die} (h : u.dies = Tab.put t.dies d x) (ha : a ≠ d) : u.die a = t.die a := by
  rw [State.die, h, Tab.getD_put_ne _ _ _ ha, State.die]

/-! ### Bits -/

theorem bit_eq_testBit (w i : Nat) : bit w i = w.testBit i := by
  rw [Nat.testBit_eq_decide_div_mod_eq]; rfl

/-- The number whose bits below `n` a test gives. -/
def bitsOf (p : Nat → Bool) (n : Nat) : Nat := (List.range n).foldl (fun acc i => if p i then acc + 2 ^ i else acc) 0

theorem bitsOf_succ (p : Nat → Bool) (n : Nat) : bitsOf p (n + 1) = if p n then bitsOf p n + 2 ^ n else bitsOf p n := by
  simp [bitsOf, List.range_succ]

theorem bitsOf_lt (p : Nat → Bool) : ∀ n, bitsOf p n < 2 ^ n
  | 0 => by simp [bitsOf]
  | n + 1 => by
    have := bitsOf_lt p n
    rw [bitsOf_succ, Nat.pow_succ]
    split <;> omega

theorem testBit_bitsOf (p : Nat → Bool) (n i : Nat) : (bitsOf p n).testBit i = (decide (i < n) && p i) := by
  induction n with
  | zero => simp [bitsOf]
  | succ n ih =>
    rw [bitsOf_succ]
    rcases Nat.lt_trichotomy i n with h | rfl | h
    · have h1 : i < n + 1 := by omega
      split
      · rw [Nat.add_comm, Nat.testBit_two_pow_add_gt h, ih]; simp [h, h1]
      · rw [ih]; simp [h, h1]
    · split
      · next hp => rw [Nat.add_comm, Nat.testBit_two_pow_add_eq, ih]; simp [hp]
      · next hp => rw [ih]; simp [hp]
    · have h1 : ¬ i < n + 1 := by omega
      have hlt : (if p n = true then bitsOf p n + 2 ^ n else bitsOf p n) < 2 ^ (n + 1) := bitsOf_succ p n ▸ bitsOf_lt p (n + 1)
      rw [Nat.testBit_lt_two_pow (hlt.trans_le (Nat.pow_le_pow_right (by omega) (by omega)))]
      simp [h1]

theorem bit_descLive (desc i : Nat) : bit (descLive desc) i = (decide (i < 16) && desc.testBit (16 + i)) := by
  rw [bit_eq_testBit, descLive, fld, Nat.testBit_mod_two_pow, Nat.testBit_div_two_pow, Nat.add_comm]

theorem bit_descMasks (desc i : Nat) : bit (descMasks desc) i = (decide (i < 7) && desc.testBit (9 + i)) := by
  rw [bit_eq_testBit, descMasks, fld, Nat.testBit_mod_two_pow, Nat.testBit_div_two_pow, Nat.add_comm]
/-- The registers and the masks that an entry descriptor lists (02 R31). -/
theorem filter_descLive (desc : Nat) : ((List.range 16).filter fun i => bit (descLive desc) i) = (List.range 16).filter fun i => desc.testBit (16 + i) :=
  List.filter_congr fun i hi => by simp [bit_descLive, List.mem_range.1 hi]

theorem filter_descMasks (desc : Nat) : ((List.range 7).filter fun j => bit (descMasks desc) j) = (List.range 7).filter fun j => desc.testBit (9 + j) :=
  List.filter_congr fun j hj => by simp [bit_descMasks, List.mem_range.1 hj]

/-! ### Tables of contexts -/

/-- A table whose values are changed by key holds the changed value at each key. -/
theorem Tab.get?_map {α β : Type} (t : Tab α) (f : Nat × α → Nat × β) (hf : ∀ e ∈ t, (f e).1 = e.1) (k : Nat) :
    Tab.get? (t.map f) k = (Tab.get? t k).map fun v => (f (k, v)).2 := by
  induction t with
  | nil => rfl
  | cons e t ih =>
    have he : (f e).1 = e.1 := hf e (List.mem_cons_self ..)
    have ih := ih fun e h => hf e (List.mem_cons_of_mem _ h)
    obtain ⟨j, v⟩ := e
    by_cases h : j = k
    · subst h; simp [Tab.get?, he]
    · have h' : (j == k) = false := beq_false_of_ne h
      simpa [Tab.get?, he, h'] using ih

theorem Tab.getD_mapVal {α β : Type} (t : Tab α) (f : α → β) (k : Nat) (d : α) :
    Tab.getD (t.map fun e => (e.1, f e.2)) k (f d) = f (Tab.getD t k d) := by
  rw [Tab.getD, Tab.get?_map t (fun e => (e.1, f e.2)) (fun _ _ => rfl), Tab.getD]
  cases Tab.get? t k <;> rfl

/-- What a table holds at a key is one of its entries. -/
theorem Tab.mem_of_get? {α : Type} {t : Tab α} {k : Nat} {v : α} (h : Tab.get? t k = some v) : (k, v) ∈ t := by
  obtain ⟨e, he, rfl⟩ := Option.map_eq_some_iff.1 h
  have hk : e.1 = k := by simpa using List.find?_some he
  exact hk ▸ List.mem_of_find?_eq_some he

theorem Core.get?_ctx {k : Core} {n : Nat} (h : (k.ctx n).status ≠ .free) : Tab.get? k.ctxs n = some (k.ctx n) := by
  unfold Core.ctx Tab.getD at *
  cases hg : Tab.get? k.ctxs n with
  | none => rw [hg] at h; exact absurd rfl h
  | some x => rfl

theorem Core.mem_ctxs {k : Core} {n : Nat} (h : (k.ctx n).status ≠ .free) : (n, k.ctx n) ∈ k.ctxs :=
  Tab.mem_of_get? (Core.get?_ctx h)

/-- The contexts of a core that waits end for: those that the test names become ready, the others stay. -/
theorem Core.ctx_wakeIf (k : Core) (p : Nat → Ctx → Wait → Bool) (n : Nat) :
    (k.wakeIf p).ctx n = match (k.ctx n).status with
      | .parked w => if p n (k.ctx n) w then { k.ctx n with status := .ready } else k.ctx n
      | _ => k.ctx n := by
  unfold Core.wakeIf Core.ctx Tab.getD
  rw [Tab.get?_map]
  · cases Tab.get? k.ctxs n with
    | none => rfl
    | some x =>
      dsimp only [Option.map_some, Option.getD_some]
      cases x.status with
      | parked w => dsimp only; split <;> rfl
      | _ => rfl
  · intro e _
    split
    · split <;> rfl
    · rfl

/-- The wake of an ASID's threads from one wait. -/
theorem Core.ctx_wakeIf_asid (k : Core) (v : Wait) (asid n : Nat) : (k.wakeIf fun _ x w => w == v && x.asid == asid).ctx n =
    if (k.ctx n).status = .parked v ∧ (k.ctx n).asid = asid then { k.ctx n with status := .ready } else k.ctx n := by
  rw [Core.ctx_wakeIf]
  cases (k.ctx n).status with
  | parked w => simp
  | _ => simp

/-! ### Counts and cut bits (15 R338, R345) -/

/-- Counting a message changes Yew's counts alone. -/
theorem State.count_yew (s : State) (asid : Nat) (f : Counts → Counts) :
    ∃ y : Yew, y.snaps = s.yew.snaps ∧ s.count asid f = { s with yew := y } := by
  unfold State.count
  split
  · exact ⟨s.yew, rfl, rfl⟩
  · refine ⟨_, ?_, rfl⟩; rfl

theorem State.countSent_yew (s : State) (asid : Nat) (cut : Bool) :
    ∃ y : Yew, y.snaps = s.yew.snaps ∧ s.countSent asid cut = { s with yew := y } := s.count_yew ..

theorem State.countGot_yew (s : State) (asid : Nat) (cut : Bool) :
    ∃ y : Yew, y.snaps = s.yew.snaps ∧ s.countGot asid cut = { s with yew := y } := s.count_yew ..

theorem State.openSnap_none {s : State} : s.openSnap = none ↔ ∀ n ∈ s.yew.snaps, n.status ≠ 0 := by
  simp [State.openSnap]

/-- With no snapshot open no core has cut. -/
theorem State.cutTaken_closed {s : State} (h : s.openSnap = none) (c : Nat) : s.cutTaken c = false := by
  have h := State.openSnap_none.1 h
  simp only [State.cutTaken, List.any_eq_false, Bool.and_eq_true, beq_iff_eq, not_and]
  exact fun n hn h0 => absurd h0 (h n hn)

theorem State.cutBit_closed {s : State} (h : s.openSnap = none) (c asid : Nat) : s.cutBit c asid = false := by
  rw [State.cutBit, State.cutTaken_closed h, Bool.false_and]

theorem State.stillCut_closed {s : State} (h : s.openSnap = none) (m : Travel) : s.stillCut m = false := by
  have h := State.openSnap_none.1 h
  simp only [State.stillCut, Bool.and_eq_false_iff, List.any_eq_false, Bool.and_eq_true, beq_iff_eq, not_and]
  exact .inr fun n hn h0 => absurd h0 (h n hn)

/-- With no snapshot open an accepted message is only counted. -/
theorem State.accepting_closed {s : State} (h : s.openSnap = none) (c asid : Nat) (cut : Bool) (again : Instr) :
    ∃ y : Yew, y.snaps = s.yew.snaps ∧ s.accepting c asid cut again = { s with yew := y } := by
  obtain ⟨y, hy, hs⟩ := s.countGot_yew asid cut
  have ho : ({ s with yew := y } : State).openSnap = none := by rw [State.openSnap, hy]; exact h
  refine ⟨y, hy, ?_⟩
  rw [State.accepting, hs]
  dsimp only
  rw [ho]

/-! ### Messages on the mesh -/

/-- A message for a core of this package goes onto the mesh, counted. -/
theorem State.sendTo_here {s : State} {asid dst : Nat} (h : chipOf dst = s.chip asid) (cut : Bool) (i : Instr) :
    ∃ y : Yew, y.snaps = s.yew.snaps ∧ s.sendTo asid dst cut i = { s with yew := y, net := s.net ++ [i] } := by
  obtain ⟨y, hy, hs⟩ := s.countSent_yew asid cut
  refine ⟨y, hy, ?_⟩
  rw [State.sendTo, if_pos h, hs]
  rfl

/-- An entry of a known block resolves to itself (08 R174). -/
theorem resolveEntry_entry {l : List Nat} {t desc : Nat} (h : entryAt l (t % 512) = some desc) :
    resolveEntry (some l) t none = .ok (t, desc, none) := by
  simp [resolveEntry, h]

/-- A message that reaches its core passes the routers. -/
theorem Reaches.intercept {s : State} {dst : Nat} {m : Travel} (h : Reaches s dst m.asid) : s.intercept dst m = none := by
  simp [State.intercept, h.kept, h.serves, h.runs]

/-- A message back from where it was not taken goes to its origin on this package (02 R34). -/
theorem State.returnTravel_here {s : State} {m : Travel} (hc : chipOf m.origin = s.chip m.asid) (hr : (s.rename m.origin).st = 0)
    (die : Nat) : s.returnTravel die m = { s with net := s.net ++ [.returnedTravelMessage m] } := by
  simp [State.returnTravel, hc, hr, State.post]

/-- A core with a slot behind what stands in its spill queue. -/
def Core.spilled (k : Core) (q : QSlot) : Core := { k with work := { k.work with spill := (k.work.spill.push [q]).1 } }

/-- A slot enters a spill queue that has room; Ozine may be signalled (02 R44; 05 R114). -/
theorem State.spill_room {s : State} {c : Nat} (hf : (s.core c).work.spill.full = false) (hd : s.diverted c = []) (asid : Nat) (q : QSlot) :
    ∃ h : Hostside, s.spill c asid q = { s.modCore c fun k => k.spilled q with host := h } := by
  unfold State.spill
  simp only [hf, hd, Bool.not_false, List.isEmpty_nil, Bool.and_self, if_true]
  split
  · exact ⟨_, rfl⟩
  · exact ⟨_, rfl⟩

/-- A message without a fork's parent that Boxwood takes is held on the die for the placement of its block (02 R35). -/
theorem State.handBoxwood_held (s : State) (die : Nat) (m : Travel) (hk : m.kind ≠ 5) (hp : m.parent = none) :
    ∃ y : Yew, y.snaps = s.yew.snaps ∧ s.handBoxwood die m =
      ({ s with yew := y }.modDie die fun d => { (d.setPlacing m.asid (m.dest / 512)) with hold := d.hold ++ [m] }).signal 1 m.asid (m.dest / 512) := by
  obtain ⟨y, hy, hs⟩ := s.countSent_yew m.asid m.cut
  have hm : { m with parent := none } = m := by cases m; cases hp; rfl
  refine ⟨y, hy, ?_⟩
  rw [State.handBoxwood, if_neg hk, hp]
  dsimp only
  rw [hm, State.holdPlacement, hs]

/-! ### The block-map cache (05 R123) -/

theorem Core.mapEntry_mapDrop (k : Core) (asid blk a b : Nat) :
    (k.mapDrop asid blk).mapEntry a b = if a = asid ∧ b = blk then none else k.mapEntry a b := by
  simp only [Core.mapDrop, Core.mapEntry, List.find?_filter]
  split
  · next h =>
    obtain ⟨rfl, rfl⟩ := h
    exact List.find?_eq_none.2 fun e _ => by cases hb : e.asid == a && e.blk == b <;> simp
  · next h =>
    congr 1
    funext e
    rw [Bool.eq_iff_iff]
    simp only [decide_eq_true_eq, Bool.not_eq_true', Bool.and_eq_false_iff, beq_eq_false_iff_ne, Bool.and_eq_true, beq_iff_eq]
    refine ⟨fun he => he.2, fun he => ⟨?_, he⟩⟩
    rw [he.1, he.2]
    exact not_and_or.1 h

/-- A cache that takes an entry has it, in the place of an older one of the same block. -/
theorem Core.mapEntry_mapPut (k : Core) (e : MapEntry) : (k.mapPut e).mapEntry e.asid e.blk = some e := by
  obtain ⟨l, hl, hk⟩ : ∃ l : List MapEntry, l ⊆ k.work.map.filter (fun f => !(f.asid == e.asid && f.blk == e.blk)) ∧
      (k.mapPut e).work.map = l ++ [e] := by
    unfold Core.mapPut
    dsimp only
    split
    · exact ⟨_, List.Subset.refl _, rfl⟩
    · split
      · exact ⟨_, List.erase_subset, rfl⟩
      · exact ⟨_, List.Subset.refl _, rfl⟩
  have hn : l.find? (fun f => f.asid == e.asid && f.blk == e.blk) = none :=
    List.find?_eq_none.2 fun f hf => by
      simpa only [Bool.not_eq_true', Bool.not_eq_true] using (List.mem_filter.1 (hl hf)).2
  rw [Core.mapEntry, hk, List.find?_append, hn]
  simp

@[simp] theorem Core.ctxs_mapPut (k : Core) (e : MapEntry) : (k.mapPut e).ctxs = k.ctxs := rfl
@[simp] theorem Core.ctx_mapPut (k : Core) (e : MapEntry) (n : Nat) : (k.mapPut e).ctx n = k.ctx n := rfl
@[simp] theorem Core.ctxs_mapDrop (k : Core) (asid blk : Nat) : (k.mapDrop asid blk).ctxs = k.ctxs := rfl

theorem State.mapOf_key (s : State) (c asid blk : Nat) : (s.mapOf c asid blk).asid = asid ∧ (s.mapOf c asid blk).blk = blk := by
  unfold State.mapOf
  split <;> exact ⟨rfl, rfl⟩

/-- The entry that a directory read brings is the one that the core then has of the block. -/
theorem Core.mapEntry_read (k : Core) (s : State) (c asid blk : Nat) : (k.mapPut (s.mapOf c asid blk)).mapEntry asid blk = some (s.mapOf c asid blk) := by
  obtain ⟨ha, hb⟩ := s.mapOf_key c asid blk
  have h := k.mapEntry_mapPut (s.mapOf c asid blk)
  rwa [ha, hb] at h

/-! ### The admission of what waits (02 R43, R48) -/

/-- With nothing that may be admitted, a free context stays free. -/
theorem State.readmit_none {s : State} {c : Nat} (h0 : s.readmitGroup c 0 = none) (h1 : s.readmitGroup c 1 = none) (hd : s.readmitDeque c = none)
    (fuel : Nat) : s.readmit c fuel = s := by
  cases fuel with
  | zero => rfl
  | succ n => simp [State.readmit, h0, h1, hd]

/-- Without a free context nothing is taken in. -/
theorem State.takeIn_full {s : State} {c : Nat} (h : (s.core c).freeSlot none = none) (m : Travel) : s.takeIn c m = none := by
  unfold State.takeIn
  dsimp only
  rw [h]
  cases (s.core c).placedBlock m.asid (m.dest / 512) <;> rfl

theorem State.readmitGroup_full {s : State} {c : Nat} (h : (s.core c).freeSlot none = none) (g : Nat) : s.readmitGroup c g = none := by
  unfold State.readmitGroup
  simp only [h, State.takeIn_full h, Option.map_none]
  repeat' split
  all_goals rfl

theorem Core.takeDeque_ctxs {k l : Core} {q : QSlot} (h : k.takeDeque = some (q, l)) : l.ctxs = k.ctxs := by
  have hr : k.refillDeque.ctxs = k.ctxs := by unfold Core.refillDeque; dsimp only; split <;> rfl
  unfold Core.takeDeque at h
  dsimp only at h
  split at h
  · cases h
  · obtain ⟨rfl, rfl⟩ := h
    dsimp only
    split
    · exact hr
    · rfl

theorem State.readmitDeque_full {s : State} {c : Nat} (h : (s.core c).freeSlot none = none) : s.readmitDeque c = none := by
  unfold State.readmitDeque
  split
  · rfl
  · split
    · rfl
    · next q k hk =>
      have hf : ((s.setCore c k).core c).freeSlot none = none := by
        simpa [Core.freeSlot, Core.ctx, State.core, State.setCore, Core.takeDeque_ctxs hk] using h
      simp only [State.takeIn_full hf]
      repeat' split
      all_goals rfl

/-- A core without a free context admits nothing that waits. -/
theorem State.readmit_full {s : State} {c : Nat} (h : (s.core c).freeSlot none = none) (fuel : Nat) : s.readmit c fuel = s :=
  State.readmit_none (State.readmitGroup_full h 0) (State.readmitGroup_full h 1) (State.readmitDeque_full h) fuel

/-- A core for which nothing waits admits nothing. -/
theorem State.readmit_noneWaits {s : State} {c : Nat} (h : (s.core c).NoneWaits) (fuel : Nat) : s.readmit c fuel = s := by
  obtain ⟨hspill, hsaved, hdeque, hover, hpre⟩ := h
  have hg : ∀ g, s.readmitGroup c g = none := fun g => by
    simp [State.readmitGroup, hpre, Core.savedMoves, hsaved, State.oldestWaiting, hspill]
  have hocc : (s.core c).work.overflow.occupancy = 0 := by
    have h := congrArg List.length hover
    simp only [Ring.all, List.length_append, List.length_nil] at h
    simp only [Ring.occupancy]
    omega
  refine State.readmit_none (hg 0) (hg 1) ?_ fuel
  simp [State.readmitDeque, hpre, Core.takeDeque, hdeque, hocc]

end Sys2Proof.Machine
end

section
/-! The departure of threads and the block map (02 R33 to R39, R52; 05 R123). -/

namespace Sys2Proof.Machine

/-! ### Departures (02 R39) -/

/-- R39 step 1 of any context. -/
theorem Ctx.settled_of {x : Ctx} {now : Nat} (hp : x.pipe = []) (ho : ∀ p ∈ x.out, p.returned ∧ (p.kind = .bfld → p.left + 8 ≤ now)) :
    x.settled now = true :=
  (settled_iff { now := now, cores := [(0, { ctxs := [(0, x)] })] }).2 ⟨ho, hp⟩

/-- A settled thread whose block has come to be held here makes its transfer again (02 R36). -/
theorem State.depart_here {s : State} {c slot d kind : Nat} {j : Option Nat} (hst : (s.ctx c slot).status = .parked (.depart d kind j))
    (hs : (s.ctx c slot).settled s.now = true) (hp : (s.ctx c slot).pair = none)
    (hb : ((s.core c).placedBlock (s.ctx c slot).asid (d / 512)).isSome) : s.depart c slot = s.setStatus c slot .ready := by
  unfold State.ctx at *
  simp [State.depart, hst, hs, hp, hb]

/-- The core that a thread has left: its context is free, and its waits are forgotten. -/
def Core.left (k : Core) (slot : Nat) : Core := ((k.leaveGang slot).delist slot).setCtx slot {}

theorem Core.left_frame (k : Core) (slot : Nat) :
    k.left slot = { k with ctxs := (k.left slot).ctxs, q := (k.left slot).q } := by
  unfold Core.left
  rw [Core.leaveGang_ctxs]
  rfl

theorem Core.left_ctx (k : Core) (slot : Nat) : (k.left slot).ctx slot = {} := Core.ctx_setCtx_self ..

theorem Core.left_ctx_ne {k : Core} {slot j : Nat} (hg : (k.ctx slot).gang = []) (hj : j ≠ slot) : (k.left slot).ctx j = k.ctx j := by
  rw [Core.left, Core.ctx_setCtx_ne _ _ hj]
  show (k.leaveGang slot).ctx j = _
  rw [Core.leaveGang, hg]
  exact Core.ctx_modCtx_ne _ _ hj

/-- What a settled thread sends to a holder's entry (02 R39, R40). -/
def State.departMsg (s : State) (c slot d kind desc : Nat) : Travel := s.packTravel c slot d kind desc ((s.ctx c slot).linked kind) none

theorem State.departMsg_carries (s : State) (c slot d kind desc : Nat) : Carries s c slot desc (s.departMsg c slot d kind desc) := by
  unfold Carries State.departMsg State.packTravel
  refine ⟨rfl, rfl, rfl, ?_, rfl, rfl, rfl, rfl, ?_, ?_, ?_⟩
  · dsimp only
    rw [bit_eq_testBit]
    rfl
  · intro i hi
    show (bitsOf (fun i => decide ((s.ctx c slot).mainSize ≤ i) || (s.core c).isFull slot i) 16).testBit i = true ↔ _
    rw [testBit_bitsOf]
    simp only [hi, decide_true, Bool.true_and, Bool.or_eq_true, decide_eq_true_eq, Core.isFull, Bool.not_eq_true', ← Bool.not_eq_true, List.contains_iff_mem]
    rfl
  · dsimp only
    rw [filter_descLive]
    rfl
  · dsimp only
    rw [filter_descMasks]
    rfl

/-- A thread leaves a core for which nothing waits: its context stays free. -/
theorem State.vacate_noneWaits {s : State} {c : Nat} (hw : (s.core c).NoneWaits) (slot : Nat) :
    s.vacate c slot = s.modCore c fun k => k.left slot := by
  have hl : ((s.modCore c fun k => k.left slot).core c).work = (s.core c).work := by
    rw [State.core_modCore_self, Core.left_frame]
  have hw' : ((s.modCore c fun k => k.left slot).core c).NoneWaits := by unfold Core.NoneWaits at *; rw [hl]; exact hw
  have hr : (s.freeCtx c slot).readmit c 63 = s.modCore c fun k => k.left slot := State.readmit_noneWaits hw' 63
  simp only [State.vacate, hr, State.mayResume, hw'.2.2.2.2, Bool.false_and, Bool.false_eq_true, if_false]

/-- A settled thread leaves for the holder that its block-map entry chooses: its message goes, and its context is free (02 R38, R39). -/
theorem State.depart_away {s : State} {c slot d kind desc h : Nat} {e : MapEntry} (hst : (s.ctx c slot).status = .parked (.depart d kind none))
    (hs : (s.ctx c slot).settled s.now = true) (hp : (s.ctx c slot).pair = none)
    (hb : (s.core c).placedBlock (s.ctx c slot).asid (d / 512) = none) (hm : (s.core c).mapEntry (s.ctx c slot).asid (d / 512) = some e)
    (hn : e.nholders ≠ 0) (hd : entryAt e.descs (d % 512) = some desc) (hpar : s.packParity c slot desc = none)
    (hh : e.choose (s.tid c slot) = some h) (hc : chipOf h = s.chip (s.ctx c slot).asid) (hw : (s.core c).NoneWaits) :
    ∃ y : Yew, s.depart c slot =
      { s.modCore c fun k => k.left slot with yew := y, net := s.net ++ [.travelMessageArrival h (s.departMsg c slot d kind desc)] } := by
  have hdesc : (s.core c).descsOf (s.ctx c slot).asid (d / 512) = some e.descs := by simp [Core.descsOf, hb, hm, hn]
  have hdep : s.depart c slot = (s.vacate c slot).sendOff c (some e) (s.departMsg c slot d kind desc) := by
    unfold State.ctx at *
    simp [State.depart, hst, hs, hp, hb, hdesc, resolveEntry_entry hd, hpar, hm, State.departMsg]
    rfl
  have hoff : ∀ t : State, t.sendOff c (some e) (s.departMsg c slot d kind desc) =
      t.sendTo (s.ctx c slot).asid h (s.departMsg c slot d kind desc).cut (.travelMessageArrival h (s.departMsg c slot d kind desc)) := fun t => by
    have hh' : e.choose (s.departMsg c slot d kind desc).tid = some h := hh
    simp only [State.sendOff, hn, if_false, hh']
    rfl
  obtain ⟨y, -, hy⟩ := State.sendTo_here (s := s.modCore c fun k => k.left slot) hc (s.departMsg c slot d kind desc).cut
    (.travelMessageArrival h (s.departMsg c slot d kind desc))
  exact ⟨y, by rw [hdep, State.vacate_noneWaits hw, hoff, hy]; rfl⟩

@[simp] theorem State.dirBlock_modCore (s : State) (c : Nat) (f : Core → Core) (d a b : Nat) : (s.modCore c f).dirBlock d a b = s.dirBlock d a b := rfl
@[simp] theorem State.chip_modCore (s : State) (c : Nat) (f : Core → Core) (a : Nat) : (s.modCore c f).chip a = s.chip a := rfl
@[simp] theorem State.rename_modCore (s : State) (c : Nat) (f : Core → Core) (n : Nat) : (s.modCore c f).rename n = s.rename n := rfl

/-! ### Messages sent again from a directory entry (02 R34, R38) -/

/-- A block with one holder: every thread goes there. -/
theorem MapEntry.choose_only {s : State} {c asid blk h : Nat} {b : DirBlock} (hb : s.dirBlock (dieOf c) asid blk = some b) (hh : b.holders = [h])
    (tid : Nat) : (s.mapOf c asid blk).choose tid = some h := by
  simp [State.mapOf, hb, hh, MapEntry.choose, sortBy, insertBy, Nat.mod_one]

/-- The message as it goes on to an entry: as its descriptor carries it, to the entry's address, from this core. -/
def onward (m : Travel) (desc : Nat) (cut : Bool) : Travel := { trimTravel m desc with cut := cut, j := none, back := none }

/-- A message sent from a core to the one holder of its block. -/
theorem State.sendOn_holder {s : State} {c h desc : Nat} {m : Travel} {b : DirBlock} (hd : s.dirBlock (dieOf c) m.asid (m.dest / 512) = some b)
    (hpl : b.placing = false) (hh : b.holders = [h]) (he : entryAt b.descs (m.dest % 512) = some desc) (hj : m.j = none) (hk : m.kind = 0)
    (hc : chipOf h = s.chip m.asid) (hr : (s.rename h).st = 0) (cut : Bool) :
    ∃ y : Yew, s.sendOn c m cut = { s.modCore c fun k => k.mapPut (s.mapOf c m.asid (m.dest / 512)) with
      yew := y, net := s.net ++ [.travelMessageArrival h (onward m desc cut)] } := by
  obtain ⟨y, -, hy⟩ := State.sendTo_here (s := s.modCore c fun k => k.mapPut (s.mapOf c m.asid (m.dest / 512))) hc cut
    (.travelMessageArrival h (onward m desc cut))
  refine ⟨y, Eq.trans ?_ hy⟩
  have hne : b.holders.isEmpty = false := by rw [hh]; rfl
  unfold State.sendOn
  simp only [State.dirBlock_modCore, State.chip_modCore, State.rename_modCore, hd, hpl, hne, Bool.or_self, Bool.false_eq_true, if_false, hj,
    resolveEntry_entry he]
  simp only [trimTravel, hk, MapEntry.choose_only hd hh, Option.getD_some, hc, hr, OfNat.zero_ne_ofNat, if_false, beq_self_eq_true, Bool.true_and,
    Nat.reduceBEq, Bool.false_eq_true, arrivalOf, onward]

/-- A message to a block that the directory does not name goes to Boxwood, and the core forgets what it had of the block (02 R34). -/
theorem State.sendOn_nowhere {s : State} {c : Nat} {m : Travel} (hd : s.dirBlock (dieOf c) m.asid (m.dest / 512) = none) (hk : m.kind = 0)
    (hp : m.parent = none) (cut : Bool) :
    ∃ y : Yew, s.sendOn c m cut =
      ({ s.modCore c fun k => (k.mapPut (s.mapOf c m.asid (m.dest / 512))).mapDrop m.asid (m.dest / 512) with yew := y }.modDie (dieOf c) fun d =>
        { (d.setPlacing m.asid (m.dest / 512)) with hold := d.hold ++ [{ m with cut := cut }] }).signal 1 m.asid (m.dest / 512) := by
  obtain ⟨y, -, hy⟩ := (s.modCore c fun k => (k.mapPut (s.mapOf c m.asid (m.dest / 512))).mapDrop m.asid (m.dest / 512)).handBoxwood_held (dieOf c)
    { m with cut := cut } (by simp [hk]) hp
  refine ⟨y, Eq.trans ?_ hy⟩
  unfold State.sendOn
  simp only [State.dirBlock_modCore, hd, State.modCore_modCore]

theorem onward_eq {m : Travel} (hj : m.j = none) (desc : Nat) (cut : Bool) : onward m desc cut = { m with
    live := desc / 2 ^ 16 % 2 ^ 16, maskLive := desc / 2 ^ 9 % 2 ^ 7, regs := m.regs.filter fun r => (desc / 2 ^ 16 % 2 ^ 16).testBit r.1,
    masks := m.masks.filter fun r => (desc / 2 ^ 9 % 2 ^ 7).testBit (r.1 - 1), cut := cut, back := none } := by
  simp only [onward, trimTravel, bit_eq_testBit, hj, descLive, descMasks, fld]

/-- A message that came back to a core, from one that is not sealed, or whose entry has been read from the directory, is sent on from there. -/
theorem exec_resend {s : State} {m : Travel} {i : Instr} {c die : Nat} (hi : i = .returnedTravelMessage m ∧ c = s.phys m.origin ∧ die = dieOf m.origin ∧
      (s.rename m.origin).st = 0 ∧ (∀ h, m.back = some h → chipOf h = s.chip m.asid ∧ (s.rename h).st ≠ 1) ∨
      (∃ a b, i = .blockDirectoryReadReturn c a b (some m)) ∧ die = dieOf c)
    (ho : s.openSnap = none) (hd : s.dropsFor die m.asid = false) :
    ∃ y : Yew, exec i s = .next (({ s with yew := y } : State).sendOn c m false) := by
  rcases hi with ⟨rfl, rfl, rfl, hr, hback⟩ | ⟨⟨a, b, rfl⟩, rfl⟩
  · obtain ⟨y, hy, hs⟩ := State.accepting_closed ho (s.phys m.origin) m.asid m.cut (.returnedTravelMessage { m with rolled := true })
    refine ⟨y, ?_⟩
    have hseal : (m.back.any fun h => if chipOf h == s.chip m.asid then (s.rename h).st == 1 else s.linkDown m.asid h) = false := by
      cases hm : m.back with
      | none => rfl
      | some h => simp [hback h hm]
    have hcut : ({ s with yew := y } : State).cutBit (s.phys m.origin) m.asid = false :=
      State.cutBit_closed (by rw [State.openSnap, hy]; exact ho) ..
    show execReturnedTravelMessage m s = _
    unfold execReturnedTravelMessage
    simp only [hd, hr, hs, Bool.false_eq_true, if_false, bne_self_eq_false, hcut]
    exact congrArg _ (if_neg (Bool.not_eq_true _ ▸ hseal))
  · obtain ⟨y, hy, hs⟩ := s.countGot_yew m.asid m.cut
    refine ⟨y, ?_⟩
    show execBlockDirectoryReadReturn c a b (some m) s = _
    simp only [execBlockDirectoryReadReturn, hd, hs, State.stillCut_closed ho, Bool.false_eq_true, if_false]

/-- A message that came back from a sealed core waits in the spill queue for the remap (02 R52). -/
theorem exec_returned_sealed {s : State} {m : Travel} {h : Nat} (hr : (s.rename m.origin).st = 0) (ho : s.openSnap = none)
    (hd : s.dropsFor (dieOf m.origin) m.asid = false) (hb : m.back = some h) (hc : chipOf h = s.chip m.asid) (hs : (s.rename h).st = 1)
    (hf : (s.core (s.phys m.origin)).work.spill.full = false) (hv : s.diverted (s.phys m.origin) = []) :
    ∃ (y : Yew) (g : Hostside), exec (.returnedTravelMessage m) s = .next { s.modCore (s.phys m.origin) fun k =>
      (k.mapDrop m.asid (m.dest / 512)).spilled { body := .travel m, arrival := s.cycle (s.phys m.origin), returned := true }
      with yew := y, host := g } := by
  obtain ⟨y, hy, hacc⟩ := State.accepting_closed ho (s.phys m.origin) m.asid m.cut (.returnedTravelMessage { m with rolled := true })
  have hseal : (m.back.any fun h => if chipOf h == s.chip m.asid then (s.rename h).st == 1 else s.linkDown m.asid h) = true := by
    simp [hb, hc, hs]
  have hcore : (({ s with yew := y } : State).modCore (s.phys m.origin) fun k => k.mapDrop m.asid (m.dest / 512)).core (s.phys m.origin) =
      (s.core (s.phys m.origin)).mapDrop m.asid (m.dest / 512) := State.core_modCore_self ..
  obtain ⟨g, hg⟩ := State.spill_room (s := ({ s with yew := y } : State).modCore (s.phys m.origin) fun k => k.mapDrop m.asid (m.dest / 512))
    (c := s.phys m.origin) (by rw [hcore]; exact hf) hv m.asid
    { body := .travel m, arrival := (({ s with yew := y } : State).modCore (s.phys m.origin) fun k => k.mapDrop m.asid (m.dest / 512)).cycle (s.phys m.origin),
      returned := true }
  refine ⟨y, g, ?_⟩
  show execReturnedTravelMessage m s = _
  unfold execReturnedTravelMessage
  simp only [hd, hr, hacc, Bool.false_eq_true, if_false, bne_self_eq_false]
  refine congrArg _ ((if_pos hseal).trans (hg.trans ?_))
  rw [State.modCore_modCore, State.cycle, hcore]
  rfl

/-! ### Invalidations and removals (02 R33) -/

/-- A die's directory, a holder of a block left out. -/
def Die.unlist (d : Die) (asid blk holder : Nat) : Die :=
  { d with blocks := d.blocks.map fun b => if b.asid == asid && b.blk == blk then { b with holders := b.holders.filter (· != holder) } else b }

/-- A holder leaves a block's entry on every die (05 R122). -/
theorem State.die_unlistHolder (s : State) (asid blk holder d : Nat) : (s.unlistHolder asid blk holder).die d = (s.die d).unlist asid blk holder :=
  Tab.getD_mapVal s.dies (fun e => e.unlist asid blk holder) d {}

theorem State.dirBlock_unlistHolder {s : State} {asid blk holder d : Nat} {b : DirBlock}
    (h : (s.unlistHolder asid blk holder).dirBlock d asid blk = some b) : holder ∉ b.holders := by
  rw [State.dirBlock, State.die_unlistHolder] at h
  obtain ⟨b', -, rfl⟩ := List.mem_map.1 (List.mem_of_find?_eq_some h)
  have hk := List.find?_some h
  split at hk
  · next hif => rw [if_pos hif]; simp
  · next hif => exact absurd hk hif

/-- The end of a removal changes cores and directories, and no count of acknowledgements. -/
theorem State.endRemoval_frame (s : State) (r : Removal) :
    s.endRemoval r = { s with cores := (s.endRemoval r).cores, dies := (s.endRemoval r).dies } ∧
      ∀ d, ((s.endRemoval r).die d).removals = (s.die d).removals := by
  have hu : ∀ d, ((s.unlistHolder r.asid r.blk r.holder).die d).removals = (s.die d).removals := fun d => by rw [State.die_unlistHolder]; rfl
  unfold State.endRemoval
  dsimp only
  split
  · exact ⟨rfl, hu⟩
  · split
    · exact ⟨rfl, fun d => rfl⟩
    · exact ⟨rfl, hu⟩

/-- A block whose text its holder no longer has, or that nothing runs there, loses the holder, and its text. -/
theorem State.endRemoval_gone {s : State} {r : Removal} (h : (s.core (s.phys r.holder)).placedBlock r.asid r.blk = none) :
    s.endRemoval r = s.unlistHolder r.asid r.blk r.holder := by
  simp [State.endRemoval, h]

theorem State.endRemoval_idle {s : State} {r : Removal} {p : Placed} (h : (s.core (s.phys r.holder)).placedBlock r.asid r.blk = some p)
    (hi : (s.core (s.phys r.holder)).idleBlock p) : s.endRemoval r =
      (s.unlistHolder r.asid r.blk r.holder).modCore (s.phys r.holder) fun k => { k with work := { k.work with placed := k.work.placed.erase p } } := by
  simp [State.endRemoval, h, hi]

/-- An acknowledgement of a block's invalidation counted on a die. -/
def State.acknowledge (asid blk : Nat) (s : State) (e : Nat × Die) : State :=
  let l := e.2.removals.map fun r => if r.asid == asid && r.blk == blk then { r with acked := r.acked + 1 } else r
  (l.filter fun r => r.sent ≤ r.acked).foldl State.endRemoval (s.modDie e.1 fun d => { d with removals := l.filter fun r => r.acked < r.sent })

theorem exec_blockMapInvalidation (c asid blk : Nat) (s : State) : exec (.blockMapInvalidation c asid blk) s =
    .next (s.dies.foldl (State.acknowledge asid blk) (s.modCore c fun k => k.mapDrop asid blk)) := rfl

theorem Die.drop_removals {d : Die} (h : d.removals = []) : { d with removals := [] } = d := by
  cases d; cases h; rfl

theorem State.acknowledge_none {asid blk : Nat} {s : State} {e : Nat × Die} (he : e.2.removals = []) :
    State.acknowledge asid blk s e = s.modDie e.1 fun d => { d with removals := [] } := by
  simp [State.acknowledge, he]

/-- On the die whose Ozine awaits the block's invalidations, the count goes up; the last acknowledgement ends the removal. -/
theorem State.acknowledge_counts {asid blk : Nat} {s : State} {d : Nat} {e : Die} {r : Removal} (he : e.removals = [r]) (ha : r.asid = asid)
    (hb : r.blk = blk) (h : r.acked + 1 < r.sent) :
    State.acknowledge asid blk s (d, e) = s.modDie d fun x => { x with removals := [{ r with acked := r.acked + 1 }] } := by
  simp [State.acknowledge, he, ha, hb, h]

theorem State.acknowledge_last {asid blk : Nat} {s : State} {d : Nat} {e : Die} {r : Removal} (he : e.removals = [r]) (ha : r.asid = asid)
    (hb : r.blk = blk) (h : r.acked + 1 = r.sent) : State.acknowledge asid blk s (d, e) =
      (s.modDie d fun x => { x with removals := [] }).endRemoval { r with acked := r.acked + 1 } := by
  simp [State.acknowledge, he, ha, hb, h]

theorem State.foldl_endRemoval_frame (l : List Removal) : ∀ s : State,
    l.foldl State.endRemoval s = { s with cores := (l.foldl State.endRemoval s).cores, dies := (l.foldl State.endRemoval s).dies } ∧
      ∀ d, ((l.foldl State.endRemoval s).die d).removals = (s.die d).removals := by
  induction l with
  | nil => exact fun s => ⟨rfl, fun _ => rfl⟩
  | cons r l ih =>
    intro s
    obtain ⟨h1, h2⟩ := s.endRemoval_frame r
    obtain ⟨h3, h4⟩ := ih (s.endRemoval r)
    rw [List.foldl_cons]
    exact ⟨by rw [h3, h1], fun d => (h4 d).trans (h2 d)⟩

/-- An acknowledgement changes cores and dies alone, and a die's count is its own. -/
theorem State.acknowledge_frame (asid blk : Nat) (s : State) (e : Nat × Die) :
    State.acknowledge asid blk s e =
      { s with cores := (State.acknowledge asid blk s e).cores, dies := (State.acknowledge asid blk s e).dies } :=
  (State.foldl_endRemoval_frame _ _).1

theorem State.acknowledge_other {a : Nat} (asid blk : Nat) (s : State) (e : Nat × Die) (h : a ≠ e.1) :
    ((State.acknowledge asid blk s e).die a).removals = (s.die a).removals := by
  rw [State.acknowledge, (State.foldl_endRemoval_frame _ _).2, State.die_modDie_ne _ _ h]

/-- Dies without removals have nothing to count. -/
theorem State.foldl_acknowledge_none (asid blk : Nat) (l : List (Nat × Die)) : ∀ s : State,
    (∀ e ∈ l, e.2.removals = [] ∧ (s.die e.1).removals = []) →
    l.foldl (State.acknowledge asid blk) s = { s with dies := (l.foldl (State.acknowledge asid blk) s).dies } ∧
      ∀ d, (l.foldl (State.acknowledge asid blk) s).die d = s.die d := by
  induction l with
  | nil => exact fun s _ => ⟨rfl, fun d => rfl⟩
  | cons e l ih =>
    intro s h
    obtain ⟨he, hs⟩ := h e (List.mem_cons_self ..)
    have hdie : ∀ d, (State.acknowledge asid blk s e).die d = s.die d := fun d => by
      rw [State.acknowledge_none he]
      by_cases hd : d = e.1
      · rw [hd, State.die_modDie_self]
        exact Die.drop_removals hs
      · exact State.die_modDie_ne _ _ hd
    obtain ⟨h1, h2⟩ := ih (State.acknowledge asid blk s e) fun f hf =>
      have ⟨hf1, hf2⟩ := h f (List.mem_cons_of_mem _ hf)
      ⟨hf1, by rw [hdie]; exact hf2⟩
    rw [List.foldl_cons]
    refine ⟨?_, fun d => (h2 d).trans (hdie d)⟩
    rw [h1, State.acknowledge_none he]
    rfl

/-- Where one die alone has a removal, its count is what the invalidation changes of the dies: `t` is the state before it. -/
theorem exec_blockMapInvalidation_one {s : State} {d : Nat} {r : Removal} (hn : (s.dies.map Prod.fst).Nodup) (hr : (s.die d).removals = [r])
    (ho : ∀ e ∈ s.dies, e.1 ≠ d → e.2.removals = []) (c asid blk : Nat) :
    ∃ t u : State, t = { s.modCore c fun k => k.mapDrop asid blk with dies := t.dies } ∧ (∀ a, t.die a = s.die a) ∧
      exec (.blockMapInvalidation c asid blk) s = .next u ∧
      u = { State.acknowledge asid blk t (d, s.die d) with dies := u.dies } ∧
      ∀ a, u.die a = (State.acknowledge asid blk t (d, s.die d)).die a := by
  obtain ⟨x, hx⟩ : ∃ x, Tab.get? s.dies d = some x := by
    cases h : Tab.get? s.dies d with
    | none => rw [State.die, Tab.getD, h] at hr; exact absurd hr (by simp)
    | some x => exact ⟨x, rfl⟩
  have hxd : s.die d = x := by rw [State.die, Tab.getD, hx]; rfl
  obtain ⟨l, l', hl⟩ := List.append_of_mem (Tab.mem_of_get? hx)
  have hkeys : ∀ e, e ∈ l ∨ e ∈ l' → e.1 ≠ d := by
    rw [hl, List.map_append, List.map_cons, List.nodup_append] at hn
    obtain ⟨-, hn2, hn3⟩ := hn
    intro e he hd
    rcases he with he | he <;> have hk := List.mem_map_of_mem (f := Prod.fst) he <;> rw [hd] at hk
    · exact hn3 _ hk _ (List.mem_cons_self ..) rfl
    · exact (List.nodup_cons.1 hn2).1 hk
  have hother : ∀ a, a ≠ d → (s.die a).removals = [] := fun a ha => by
    rw [State.die, Tab.getD]
    cases h : Tab.get? s.dies a with
    | none => rfl
    | some y => exact ho _ (Tab.mem_of_get? h) ha
  have hin : ∀ e, e ∈ l ∨ e ∈ l' → e.2.removals = [] := fun e he => ho e (by rw [hl, List.mem_append, List.mem_cons]; tauto) (hkeys e he)
  obtain ⟨ht1, ht2⟩ := State.foldl_acknowledge_none asid blk l (s.modCore c fun k => k.mapDrop asid blk) fun e he =>
    ⟨hin e (.inl he), hother _ (hkeys e (.inl he))⟩
  generalize hteq : l.foldl (State.acknowledge asid blk) (s.modCore c fun k => k.mapDrop asid blk) = t at ht1 ht2
  have hack : ∀ a, a ≠ d → ((State.acknowledge asid blk t (d, s.die d)).die a).removals = [] := fun a ha => by
    rw [State.acknowledge_other _ _ _ _ ha, ht2]
    exact hother a ha
  obtain ⟨hu1, hu2⟩ := State.foldl_acknowledge_none asid blk l' (State.acknowledge asid blk t (d, s.die d)) fun e he =>
    ⟨hin e (.inr he), hack _ (hkeys e (.inr he))⟩
  refine ⟨t, _, ht1, ht2, ?_, hu1, hu2⟩
  rw [exec_blockMapInvalidation, hl, List.foldl_append, List.foldl_cons, hteq, ← hxd]

/-- Where no die has a removal, an invalidation takes the block out of the core's cache and changes nothing else that can be read. -/
theorem exec_blockMapInvalidation_none {s : State} (ho : ∀ e ∈ s.dies, e.2.removals = []) (c asid blk : Nat) :
    ∃ u : State, exec (.blockMapInvalidation c asid blk) s = .next u ∧
      u = { s.modCore c fun k => k.mapDrop asid blk with dies := u.dies } ∧ ∀ d, u.die d = s.die d := by
  have hdie : ∀ a, (s.die a).removals = [] := fun a => by
    rw [State.die, Tab.getD]
    cases h : Tab.get? s.dies a with
    | none => rfl
    | some y => exact ho _ (Tab.mem_of_get? h)
  obtain ⟨h1, h2⟩ := State.foldl_acknowledge_none asid blk s.dies (s.modCore c fun k => k.mapDrop asid blk) fun e he => ⟨ho e he, hdie _⟩
  exact ⟨_, exec_blockMapInvalidation .., h1, h2⟩

/-- The rename tables alone say where a logical core is. -/
theorem State.phys_congr {s t : State} (h : ∀ d, (t.die d).rename = (s.die d).rename) (id : Nat) : t.phys id = s.phys id := by
  rw [State.phys, State.phys, State.rename, State.rename, h]

/-- The last acknowledgement (02 R33): no removal is left on the die, and the holder leaves the directories where its core no longer has the
block, or has it and nothing there runs it; then the text goes too. -/
theorem State.acknowledge_ends {s t : State} {asid blk d : Nat} {r : Removal} (hr : (s.die d).removals = [r]) (ha : r.asid = asid) (hb : r.blk = blk)
    (hl : r.acked + 1 = r.sent) (ht : ∀ a, t.die a = s.die a) :
    ((State.acknowledge asid blk t (d, s.die d)).die d).removals = [] ∧
    ((t.core (s.phys r.holder)).placedBlock asid blk = none →
      ∀ a b, (State.acknowledge asid blk t (d, s.die d)).dirBlock a asid blk = some b → r.holder ∉ b.holders) ∧
    (∀ p, (t.core (s.phys r.holder)).placedBlock asid blk = some p → (t.core (s.phys r.holder)).idleBlock p →
      (∀ a b, (State.acknowledge asid blk t (d, s.die d)).dirBlock a asid blk = some b → r.holder ∉ b.holders) ∧
      ((State.acknowledge asid blk t (d, s.die d)).core (s.phys r.holder)).work.placed = (t.core (s.phys r.holder)).work.placed.erase p) := by
  subst ha hb
  have hphys : (t.modDie d fun x => { x with removals := [] }).phys r.holder = s.phys r.holder := State.phys_congr (fun e => by
    by_cases he : e = d
    · rw [he, State.die_modDie_self, ← ht]
    · rw [State.die_modDie_ne _ _ he, ht]) _
  rw [State.acknowledge_last hr rfl rfl hl]
  refine ⟨?_, fun hp a b hd => ?_, fun p hp hi => ⟨fun a b hd => ?_, ?_⟩⟩
  · rw [(State.endRemoval_frame _ _).2, State.die_modDie_self]
  · rw [State.endRemoval_gone (by rw [hphys]; exact hp)] at hd
    exact State.dirBlock_unlistHolder hd
  · rw [State.endRemoval_idle (by rw [hphys]; exact hp) (by rw [hphys]; exact hi)] at hd
    exact State.dirBlock_unlistHolder hd
  · rw [State.endRemoval_idle (by rw [hphys]; exact hp) (by rw [hphys]; exact hi), hphys, State.core_modCore_self]
    rfl

/-- The parts of a core that an invalidation leaves. -/
theorem State.core_mapDrop {s t : State} {c asid blk : Nat} (h : t = { s.modCore c fun k => k.mapDrop asid blk with dies := t.dies }) (a : Nat) :
    ∃ m, t.core a = { s.core a with work := { (s.core a).work with map := m } } := by
  have hc : t.core a = (s.modCore c fun k => k.mapDrop asid blk).core a := by rw [h]; rfl
  by_cases ha : a = c
  · rw [hc, ha, State.core_modCore_self]
    exact ⟨_, rfl⟩
  · rw [hc, State.core_modCore_ne _ _ ha]
    exact ⟨_, rfl⟩

/-! ### Hints (05 R123) -/

/-- A holder's hint bit set or cleared in an entry that lists it. -/
def MapEntry.hint (e : MapEntry) (asid blk holder : Nat) (free : Bool) : MapEntry :=
  if e.asid == asid && e.blk == blk && e.holders.contains holder then
    { e with hints := if free then e.hints.filter (· != holder) ++ [holder] else e.hints.filter (· != holder) }
  else e

theorem exec_freeContextHint (c asid blk holder : Nat) (free : Bool) (s : State) : exec (.freeContextHint c asid blk holder free) s =
    .next (s.modCore c fun k => { k with work := { k.work with map := k.work.map.map fun e => e.hint asid blk holder free } }) := rfl

theorem MapEntry.hint_key (e : MapEntry) (asid blk holder : Nat) (free : Bool) :
    (e.hint asid blk holder free).asid = e.asid ∧ (e.hint asid blk holder free).blk = e.blk := by
  unfold MapEntry.hint
  split <;> exact ⟨rfl, rfl⟩

theorem MapEntry.mem_hint {e : MapEntry} {asid blk holder : Nat} (ha : e.asid = asid) (hb : e.blk = blk) (hh : holder ∈ e.holders) (free : Bool) :
    e.hint asid blk holder free = { e with hints := (e.hint asid blk holder free).hints } ∧
      ∀ h, h ∈ (e.hint asid blk holder free).hints ↔ if h = holder then free = true else h ∈ e.hints := by
  subst ha hb
  have hif : (e.asid == e.asid && e.blk == e.blk && e.holders.contains holder) = true := by simp [hh]
  rw [MapEntry.hint, if_pos hif]
  refine ⟨rfl, fun h => ?_⟩
  by_cases hx : h = holder
  · cases free <;> simp [hx]
  · cases free <;> simp [hx]

theorem Core.mapEntry_hint {k : Core} {asid blk : Nat} {e : MapEntry} (h : k.mapEntry asid blk = some e) (holder : Nat) (free : Bool) :
    ({ k with work := { k.work with map := k.work.map.map fun e => e.hint asid blk holder free } } : Core).mapEntry asid blk =
      some (e.hint asid blk holder free) := by
  rw [Core.mapEntry, List.find?_map]
  have hf : ((fun e => e.asid == asid && e.blk == blk) ∘ fun e : MapEntry => e.hint asid blk holder free) = fun e => e.asid == asid && e.blk == blk := by
    funext e
    simp [(e.hint_key asid blk holder free)]
  rw [hf]
  exact congrArg (Option.map _) h

theorem exec_threadDeparture (c slot : Nat) (s : State) : exec (.threadDeparture c slot) s = .next (s.depart c slot) := rfl

/-! ### The statement -/

/-- Settles O25: each event by its own lemma, the departure by whether the block has come to be held here. -/
theorem threadsDepart : Obligations.ThreadsDepart := by
  unfold Obligations.ThreadsDepart
  refine ⟨?departure, ?resent, ?sealed, ?read, ?invalidated, ?hinted⟩
  case departure =>
    intro s c slot d kind h e k x hst hp ho hpair
    have hs : x.settled s.now = true := Ctx.settled_of hp ho
    refine ⟨fun hb => ⟨_, exec_threadDeparture .., ?_⟩, fun desc hg _ hb hm hn hd hpar hh hc hw => ?_⟩
    · rw [State.depart_here hst hs hpair hb]
      exact ⟨.modCtx .., State.ctx_modCtx_self ..⟩
    · obtain ⟨y, hy⟩ := State.depart_away hst hs hpair hb hm hn hd hpar hh hc hw
      refine ⟨_, s.departMsg c slot d kind desc, exec_threadDeparture .., ?_⟩
      generalize s.depart c slot = u at hy
      have hcore : u.core c = k.left slot := State.core_put (congrArg State.cores hy)
      refine ⟨by rw [hy]; rfl, by rw [hy], rfl, rfl, rfl, rfl, rfl, s.departMsg_carries .., ?_, fun j hj => ?_, ?_, ?_, ?_,
        fun a ha => State.core_put_ne (congrArg State.cores hy) ha⟩
      · rw [State.ctx, hcore, Core.left_ctx]
      · rw [State.ctx, hcore, Core.left_ctx_ne hg hj]; rfl
      all_goals rw [hcore, Core.left_frame]
  case resent =>
    intro s m i c die hi ho hd hk hp hj dir
    obtain ⟨y, hy⟩ := exec_resend hi ho hd
    refine ⟨fun b h desc hb hpl hh he hc hr => ⟨_, hy, ?_⟩, fun hb => ⟨_, hy, ?_⟩⟩
    · obtain ⟨y', hy'⟩ := State.sendOn_holder (s := { s with yew := y }) hb hpl hh he hj hk hc hr false
      generalize State.sendOn _ c m false = u at hy'
      have hcore : u.core c = (s.core c).mapPut (s.mapOf c m.asid (m.dest / 512)) := State.core_put (congrArg State.cores hy')
      refine ⟨by rw [hy']; rfl, by rw [hy', onward_eq hj], .put (k := u.core c) (by rw [hcore, hy']; rfl), ?_, ?_⟩
      · rw [hcore, Core.mapEntry_read]
      · rw [hcore, Core.ctxs_mapPut]
    · obtain ⟨y', hy'⟩ := State.sendOn_nowhere (s := { s with yew := y }) hb hk hp false
      generalize State.sendOn _ c m false = u at hy'
      have hcore : u.core c = ((s.core c).mapPut (s.mapOf c m.asid (m.dest / 512))).mapDrop m.asid (m.dest / 512) :=
        State.core_put (congrArg State.cores hy')
      refine ⟨by rw [hy']; rfl, ?_, by rw [hy']; rfl, ?_⟩
      · rw [State.die_put (congrArg State.dies hy')]; rfl
      · rw [hcore, Core.mapEntry_mapDrop, if_pos ⟨rfl, rfl⟩]
  case sealed =>
    intro s m h c hr ho hd hb hc hs hf hv
    obtain ⟨y, g, hy⟩ := exec_returned_sealed hr ho hd hb hc hs hf hv
    refine ⟨_, { body := .travel m, arrival := s.cycle c, returned := true }, hy, ?_⟩
    generalize hu : ({ s.modCore _ _ with yew := y, host := g } : State) = u
    have hcore : u.core c = ((s.core c).mapDrop m.asid (m.dest / 512)).spilled { body := .travel m, arrival := s.cycle c, returned := true } :=
      State.core_put (congrArg State.cores hu.symm)
    refine ⟨by rw [← hu]; rfl, .put (k := u.core c) (by rw [hcore, ← hu]; rfl), ?_, rfl, rfl, ?_, ?_⟩
    · rw [hcore]; rfl
    · rw [hcore]; rfl
    · rw [hcore]; exact (Core.mapEntry_mapDrop ..).trans (if_pos ⟨rfl, rfl⟩)
  case read =>
    intro s c asid blk
    refine ⟨_, rfl, .put rfl, ?_, fun slot => ?_⟩
    · rw [State.core_modCore_self]
      exact Core.mapEntry_read ..
    · rw [State.ctx, State.core_modCore_self, Core.ctx_wakeIf_asid, Core.ctx_mapPut]
      rfl
  case invalidated =>
    intro s c asid blk
    refine ⟨fun ho => ?_, fun r d hn hr ho ha hb hlt => ?_⟩
    · obtain ⟨u, hu, hs, hd⟩ := exec_blockMapInvalidation_none ho c asid blk
      have hcore : u.core c = (s.core c).mapDrop asid blk := State.core_put (congrArg State.cores hs)
      refine ⟨u, hu, .put (k := u.core c) (by rw [hcore, hs]; rfl), hd, by rw [hcore, Core.ctxs_mapDrop], fun a b => ?_⟩
      rw [hcore, Core.mapEntry_mapDrop]
    · obtain ⟨t, u, ht, htd, hu, hs, hud⟩ := exec_blockMapInvalidation_one hn hr ho c asid blk
      have hdir : ∀ a, u.dirBlock a asid blk = (State.acknowledge asid blk t (d, s.die d)).dirBlock a asid blk := fun a => by
        rw [State.dirBlock, hud, State.dirBlock]
      have hcores : ∀ a, u.core a = (State.acknowledge asid blk t (d, s.die d)).core a := fun a => by rw [hs]; rfl
      obtain ⟨l, hl⟩ := State.core_mapDrop ht (s.phys r.holder)
      refine ⟨u, hu, ?_, fun h => ?_, fun h => ?_⟩
      · rw [hs, State.acknowledge_frame, ht]; rfl
      · have hack := State.acknowledge_counts (s := t) (d := d) hr ha hb h
        refine ⟨by rw [hud, hack, State.die_modDie_self, htd], fun a ha => ?_⟩
        rw [hud, hack, State.die_modDie_ne _ _ ha, htd]
      · obtain ⟨h1, h2, h3⟩ := State.acknowledge_ends hr ha hb h htd
        refine ⟨by rw [hud, h1], fun hp a b => ?_, fun p hp hi => ?_⟩
        · rw [hdir]; exact h2 (by rw [hl]; exact hp) a b
        · obtain ⟨h4, h5⟩ := h3 p (by rw [hl]; exact hp) (by rw [hl]; exact hi)
          refine ⟨fun a b => ?_, ?_⟩
          · rw [hdir]; exact h4 a b
          · rw [hcores, h5, hl]
  case hinted =>
    intro s c asid blk holder free e he hh
    obtain ⟨ha, hb⟩ : e.asid = asid ∧ e.blk = blk := by simpa using List.find?_some he
    obtain ⟨hsame, hmem⟩ := MapEntry.mem_hint ha hb hh free
    refine ⟨_, e.hint asid blk holder free, exec_freeContextHint .., .put rfl, ?_, hsame, hmem⟩
    rw [State.core_modCore_self]
    exact Core.mapEntry_hint he holder free

end Sys2Proof.Machine
end

section
/-! The arrival of threads and the gathering of gangs (02 R41 to R46; 05 R114, R115). -/

namespace Sys2Proof.Machine

/-! ### Registers that a message brings (02 R42) -/

/-- The full bits after a register has been written and its full bit set to a value. -/
theorem Core.mem_empty_write (k : Core) (slot n e : Nat) (v : Word) (full : Bool) :
    e ∈ ((k.writeMain slot n v).setFull slot n full).empty ↔
      if e = (k.ctx slot).win.mainBase + n then full = false else e ∈ k.empty := by
  have hempty : ((k.writeMain slot n v).setFull slot n full).empty =
      if full = true then (k.empty.filter (· != (k.ctx slot).win.mainBase + n)).filter (· != (k.ctx slot).win.mainBase + n)
      else insertBy id ((k.ctx slot).win.mainBase + n)
        ((k.empty.filter (· != (k.ctx slot).win.mainBase + n)).filter (· != (k.ctx slot).win.mainBase + n)) := rfl
  rw [hempty]
  cases full <;> by_cases h : e = (k.ctx slot).win.mainBase + n <;> simp [mem_insertBy, h]

theorem Core.getD_file_write (k : Core) (slot n e : Nat) (v : Word) (full : Bool) :
    Tab.getD ((k.writeMain slot n v).setFull slot n full).file e 0 =
      if e = (k.ctx slot).win.mainBase + n then v else Tab.getD k.file e 0 := Tab.getD_set ..

/-- The registers of a message written into a window of `n` main registers, with their full bits. -/
def Core.putRegs (k : Core) (slot full n : Nat) (l : List (Nat × Word)) : Core :=
  l.foldl (fun k r => if r.1 < n then (k.writeMain slot r.1 r.2).setFull slot r.1 (bit full r.1) else k) k

theorem Core.putRegs_cons (k : Core) (slot full n : Nat) (r : Nat × Word) (l : List (Nat × Word)) : k.putRegs slot full n (r :: l) =
    (if r.1 < n then (k.writeMain slot r.1 r.2).setFull slot r.1 (bit full r.1) else k).putRegs slot full n l := rfl

theorem Core.putRegs_frame (slot full n : Nat) (l : List (Nat × Word)) : ∀ k : Core, k.putRegs slot full n l =
    { k with file := (k.putRegs slot full n l).file, empty := (k.putRegs slot full n l).empty, badMain := (k.putRegs slot full n l).badMain } := by
  induction l with
  | nil => exact fun k => rfl
  | cons r l ih =>
    intro k
    rw [Core.putRegs_cons, ih]
    split <;> rfl

theorem Core.ctx_putRegs (k : Core) (slot full n : Nat) (l : List (Nat × Word)) (j : Nat) : (k.putRegs slot full n l).ctx j = k.ctx j := by
  rw [Core.putRegs_frame]; rfl

section
variable {slot full n i b : Nat} {l : List (Nat × Word)}

/-- A register that a message does not bring stays as it is. -/
theorem Core.putRegs_other (hi : i ∉ l.map Prod.fst) : ∀ k : Core, (k.ctx slot).win.mainBase = b →
    Tab.getD (k.putRegs slot full n l).file (b + i) 0 = Tab.getD k.file (b + i) 0 ∧
      (b + i ∈ (k.putRegs slot full n l).empty ↔ b + i ∈ k.empty) := by
  induction l with
  | nil => exact fun k _ => ⟨rfl, Iff.rfl⟩
  | cons r l ih =>
    intro k hb
    rw [List.map_cons, List.mem_cons, not_or] at hi
    obtain ⟨hr, hl⟩ := hi
    have hne : b + i ≠ (k.ctx slot).win.mainBase + r.1 := by omega
    rw [Core.putRegs_cons]
    split
    · obtain ⟨h1, h2⟩ := ih hl ((k.writeMain slot r.1 r.2).setFull slot r.1 (bit full r.1)) hb
      rw [Core.getD_file_write, if_neg hne] at h1
      rw [Core.mem_empty_write, if_neg hne] at h2
      exact ⟨h1, h2⟩
    · exact ih hl k hb

/-- A register that a message brings, within the window. -/
theorem Core.putRegs_mem {v : Word} (hn : (l.map Prod.fst).Nodup) (hi : (i, v) ∈ l) (hlt : i < n) : ∀ k : Core, (k.ctx slot).win.mainBase = b →
    Tab.getD (k.putRegs slot full n l).file (b + i) 0 = v ∧
      (b + i ∈ (k.putRegs slot full n l).empty ↔ full.testBit i = false) := by
  induction l with
  | nil => exact absurd hi List.not_mem_nil
  | cons r l ih =>
    intro k hb
    rw [List.map_cons, List.nodup_cons] at hn
    obtain ⟨hr, hl⟩ := hn
    rw [Core.putRegs_cons]
    rcases List.mem_cons.1 hi with rfl | hm
    · rw [if_pos hlt]
      obtain ⟨h1, h2⟩ := Core.putRegs_other (full := full) (n := n) hr ((k.writeMain slot i v).setFull slot i (bit full i)) hb
      have he : b + i = (k.ctx slot).win.mainBase + i := by rw [hb]
      rw [Core.getD_file_write, if_pos he] at h1
      rw [Core.mem_empty_write, if_pos he] at h2
      exact ⟨h1, h2.trans (by rw [bit_eq_testBit])⟩
    · split
      · exact ih hl hm ((k.writeMain slot r.1 r.2).setFull slot r.1 (bit full r.1)) hb
      · exact ih hl hm k hb

end

/-! ### Tables with each key once -/

section
variable {α : Type} {t : Tab α} {k : Nat}

theorem Tab.get?_none_of_not_mem (h : k ∉ t.map Prod.fst) : Tab.get? t k = none := by
  rw [Tab.get?, Option.map_eq_none_iff, List.find?_eq_none]
  exact fun e he hk => h (beq_iff_eq.1 hk ▸ List.mem_map_of_mem he)

theorem Tab.getD_of_not_mem (h : k ∉ t.map Prod.fst) (d : α) : Tab.getD t k d = d := by
  rw [Tab.getD, Tab.get?_none_of_not_mem h, Option.getD_none]

theorem Tab.getD_of_mem (hn : (t.map Prod.fst).Nodup) {v : α} (h : (k, v) ∈ t) (d : α) : Tab.getD t k d = v := by
  cases hg : Tab.get? t k with
  | none =>
    obtain ⟨e, he, hk⟩ : ∃ e ∈ t, (e.1 == k) = true := ⟨_, h, by simp⟩
    rw [Tab.get?, Option.map_eq_none_iff, List.find?_eq_none] at hg
    exact absurd hk (hg e he)
  | some x =>
    have hx : (k, x) = (k, v) := List.inj_on_of_nodup_map hn (Tab.mem_of_get? hg) h rfl
    rw [Tab.getD, hg, Option.getD_some, (Prod.mk.inj hx).2]

theorem Tab.nodup_filter (hn : (t.map Prod.fst).Nodup) (p : Nat × α → Bool) : ((t.filter p).map Prod.fst).Nodup :=
  hn.sublist (List.filter_sublist.map Prod.fst)

/-- Entries with the value of an absent key may be left out. -/
theorem Tab.getD_dropDefault [DecidableEq α] (hn : (t.map Prod.fst).Nodup) (d : α) : Tab.getD (t.filter fun e => e.2 != d) k d = Tab.getD t k d := by
  by_cases hk : k ∈ t.map Prod.fst
  · obtain ⟨⟨k, v⟩, hm, rfl⟩ := List.mem_map.1 hk
    rw [Tab.getD_of_mem hn hm]
    by_cases hv : v = d
    · rw [hv]
      refine Tab.getD_of_not_mem (fun hin => ?_) d
      obtain ⟨⟨k', u⟩, hu, hku⟩ := List.mem_map.1 hin
      obtain ⟨hu1, hu2⟩ := List.mem_filter.1 hu
      have hx := List.inj_on_of_nodup_map hn hu1 hm hku
      rw [(Prod.mk.inj hx).2, hv] at hu2
      simp at hu2
    · exact Tab.getD_of_mem (Tab.nodup_filter hn _) (List.mem_filter.2 ⟨hm, by simpa using hv⟩) d
  · rw [Tab.getD_of_not_mem hk, Tab.getD_of_not_mem fun hin => hk ((List.filter_sublist.map Prod.fst).subset hin)]

end

theorem Tab.getD_filter {α : Type} (t : Tab α) (p : Nat → Bool) (k : Nat) (d : α) :
    Tab.getD (t.filter fun e => p e.1) k d = if p k then Tab.getD t k d else d := by
  by_cases h : p k
  · rw [if_pos h, Tab.getD, Tab.get?, List.find?_filter, Tab.getD, Tab.get?]
    congr 3
    funext e
    by_cases he : e.1 = k <;> simp [he, h]
  · rw [if_neg h]
    refine Tab.getD_of_not_mem (fun hin => ?_) d
    obtain ⟨e, he, rfl⟩ := List.mem_map.1 hin
    exact h (List.mem_filter.1 he).2

/-! ### A context filled from a message (02 R42) -/

/-- The core that a message's thread enters: its windows cleared, its context new, its live registers written. -/
theorem Core.fillCtx_eq (k : Core) (slot : Nat) (m : Travel) (w : Win) (trail : Bool) (pair : Option Nat) : k.fillCtx slot m w trail pair =
    (((k.clearMain w.mainBase (8 * (w.mainCode + 1))).clearVec w.vecBase (4 * w.vecCode)).setCtx slot (newCtx m w trail pair)).putRegs slot m.full
      (8 * (w.mainCode + 1)) m.regs := rfl

theorem Core.ctx_fillCtx (k : Core) (slot : Nat) (m : Travel) (w : Win) (trail : Bool) (pair : Option Nat) :
    (k.fillCtx slot m w trail pair).ctx slot = newCtx m w trail pair := by
  rw [Core.fillCtx_eq, Core.ctx_putRegs, Core.ctx_setCtx_self]

theorem Core.ctx_fillCtx_ne (k : Core) {slot j : Nat} (h : j ≠ slot) (m : Travel) (w : Win) (trail : Bool) (pair : Option Nat) :
    (k.fillCtx slot m w trail pair).ctx j = k.ctx j := by
  rw [Core.fillCtx_eq, Core.ctx_putRegs, Core.ctx_setCtx_ne _ _ h]; rfl

/-- Besides its windows and its context nothing of the core changes. -/
theorem Core.fillCtx_frame (k : Core) (slot : Nat) (m : Travel) (w : Win) (trail : Bool) (pair : Option Nat) :
    (k.fillCtx slot m w trail pair).regs = k.regs ∧ (k.fillCtx slot m w trail pair).q = k.q ∧ (k.fillCtx slot m w trail pair).work = k.work := by
  rw [Core.fillCtx_eq, Core.putRegs_frame]
  exact ⟨rfl, rfl, rfl⟩

/-- The windows of a core cleared for a thread, before its registers come (02 R42). -/
def Core.cleared (k : Core) (slot : Nat) (x : Ctx) (w : Win) : Core :=
  ((k.clearMain w.mainBase (8 * (w.mainCode + 1))).clearVec w.vecBase (4 * w.vecCode)).setCtx slot x

theorem Core.cleared_main {k : Core} {slot i : Nat} {x : Ctx} {w : Win} (h : i < 8 * (w.mainCode + 1)) :
    Tab.getD (k.cleared slot x w).file (w.mainBase + i) 0 = 0 ∧ w.mainBase + i ∉ (k.cleared slot x w).empty := by
  refine ⟨(Tab.getD_filter k.file (fun e => !(decide (w.mainBase ≤ e) && decide (e < w.mainBase + 8 * (w.mainCode + 1)))) _ _).trans (if_neg ?_), fun hm => ?_⟩
  · simp [h]
  · have := (List.mem_filter.1 hm).2
    simp [h] at this

theorem Core.cleared_vec {k : Core} {slot i : Nat} {x : Ctx} {w : Win} (h : i < 4 * w.vecCode) :
    Tab.getD (k.cleared slot x w).vfile (w.vecBase + i) 0 = 0 := by
  refine (Tab.getD_filter k.vfile (fun e => !(decide (w.vecBase ≤ e) && decide (e < w.vecBase + 4 * w.vecCode))) _ _).trans (if_neg ?_)
  simp [h]

/-- The registers that a trimmed message brings. -/
theorem mem_trimTravel_regs {m : Travel} {desc i : Nat} {v : Word} :
    (i, v) ∈ (trimTravel m desc).regs ↔ (i, v) ∈ m.regs ∧ i < 16 ∧ desc.testBit (16 + i) = true := by
  simp [trimTravel, bit_descLive, List.mem_filter]

theorem mem_trimTravel_masks {m : Travel} {desc j : Nat} {v : MaskV} (h1 : 1 ≤ j) (h7 : j ≤ 7) :
    (j, v) ∈ (trimTravel m desc).masks ↔ (j, v) ∈ m.masks ∧ desc.testBit (8 + j) = true := by
  have h9 : 9 + (j - 1) = 8 + j := by omega
  have hlt : j - 1 < 7 := by omega
  simp [trimTravel, bit_descMasks, List.mem_filter, h9, hlt]

/-- A thread stands in its context as its message names it, trimmed to its entry (02 R41, R42). -/
theorem Core.fillCtx_admitted {m : Travel} (hn : (m.regs.map Prod.fst).Nodup) (hm : (m.masks.map Prod.fst).Nodup)
    (k : Core) (slot desc : Nat) (w : Win) : Admitted (k.fillCtx slot (trimTravel m desc) w false none) slot m desc w := by
  have hctx := k.ctx_fillCtx slot (trimTravel m desc) w false none
  have hbase : ((k.cleared slot (newCtx (trimTravel m desc) w false none) w).ctx slot).win.mainBase = w.mainBase := by
    rw [Core.cleared, Core.ctx_setCtx_self]; rfl
  have hregs : ((trimTravel m desc).regs.map Prod.fst).Nodup := Tab.nodup_filter hn _
  have hmasks : ((trimTravel m desc).masks.map Prod.fst).Nodup := Tab.nodup_filter hm _
  have hmask : ∀ j, Tab.getD ((k.fillCtx slot (trimTravel m desc) w false none).ctx slot).masks j 0 = Tab.getD (trimTravel m desc).masks j 0 := fun j => by
    rw [hctx]; exact Tab.getD_dropDefault hmasks 0
  refine { place := by rw [hctx]; rfl, names := by rw [hctx]; exact ⟨rfl, rfl, rfl, rfl⟩, tstat := by rw [hctx]; rfl, win := by rw [hctx]; rfl,
           zero := by rw [hctx]; exact ⟨rfl, rfl, rfl, rfl, rfl⟩, live := ?_, dead := ?_, vectors := ?_, masks := ?_, deadMasks := ?_ }
  · intro i v hi h16 hd hlt
    exact Core.putRegs_mem hregs (mem_trimTravel_regs.2 ⟨hi, h16, hd⟩) hlt _ hbase
  · intro i hlt hd
    have hmem : i ∉ (trimTravel m desc).regs.map Prod.fst := fun hin => by
      obtain ⟨⟨i, v⟩, hv, rfl⟩ := List.mem_map.1 hin
      obtain ⟨hv, -, ht⟩ := mem_trimTravel_regs.1 hv
      exact absurd ht (by simp [hd v hv])
    obtain ⟨h1, h2⟩ := Core.putRegs_other (full := m.full) (n := 8 * (w.mainCode + 1)) hmem _ hbase
    obtain ⟨h3, h4⟩ := Core.cleared_main (k := k) (slot := slot) (x := newCtx (trimTravel m desc) w false none) hlt
    exact ⟨h1.trans h3, fun h => h4 (h2.1 h)⟩
  · intro i hlt
    rw [Core.fillCtx_eq, Core.putRegs_frame]
    exact Core.cleared_vec (slot := slot) (x := newCtx (trimTravel m desc) w false none) hlt
  · intro j v hj h1 h7 hd
    rw [hmask]
    exact Tab.getD_of_mem hmasks ((mem_trimTravel_masks h1 h7).2 ⟨hj, hd⟩) 0
  · intro j h1 h7 hd
    rw [hmask]
    refine Tab.getD_of_not_mem (fun hin => ?_) 0
    obtain ⟨⟨j, v⟩, hv, rfl⟩ := List.mem_map.1 hin
    obtain ⟨hv, ht⟩ := (mem_trimTravel_masks h1 h7).1 hv
    exact absurd ht (by simp [hd v hv])

/-- How a thread stands in a context does not depend on its status, nor on the core's work. -/
theorem Admitted.of_status {k l : Core} {slot desc : Nat} {m : Travel} {w : Win} (h : Admitted k slot m desc w) (hfile : l.file = k.file)
    (hempty : l.empty = k.empty) (hvfile : l.vfile = k.vfile) {st : Status} (hctx : l.ctx slot = { k.ctx slot with status := st }) :
    Admitted l slot m desc w where
  place := by rw [hctx]; exact h.place
  names := by rw [hctx]; exact h.names
  tstat := by rw [hctx]; exact h.tstat
  win := by rw [hctx]; exact h.win
  zero := by rw [hctx]; exact h.zero
  live := by rw [hfile, hempty]; exact h.live
  dead := by rw [hfile, hempty]; exact h.dead
  vectors := by rw [hvfile]; exact h.vectors
  masks := by rw [hctx]; exact h.masks
  deadMasks := by rw [hctx]; exact h.deadMasks

/-! ### Admission (02 R43 to R45) -/

/-- The core with a member in a window that has just opened (02 R45). -/
def Core.opened (k : Core) (slot : Nat) (g : Gather) : Core :=
  { (k.modCtx slot fun x => { x with status := .gathering }) with work := { k.work with gathers := k.work.gathers ++ [g] } }

theorem Core.ctx_opened (k : Core) (slot : Nat) (g : Gather) : (k.opened slot g).ctx slot = { k.ctx slot with status := .gathering } :=
  k.ctx_modCtx_self slot fun x => { x with status := .gathering }

theorem Core.ctx_opened_ne (k : Core) {slot j : Nat} (h : j ≠ slot) (g : Gather) : (k.opened slot g).ctx j = k.ctx j :=
  k.ctx_modCtx_ne (fun x => { x with status := .gathering }) h

/-- The window that a message opens. -/
def windowOf (m : Travel) (slot now : Nat) : Gather :=
  { blk := m.dest / 512, off := m.dest % 512, asid := m.asid, cls := m.cls, close := now + 64, members := [slot] }

/-- An arrival at a core with no window open opens one for 64 cycles (02 R45). -/
theorem State.gather_opens {s : State} {c : Nat} (h : (s.core c).work.gathers = []) (slot : Nat) (m : Travel) : s.gather c slot m =
    (s.modCore c fun k => k.opened slot (windowOf m slot s.now)).after 64 (.gatheringWindowClose c (m.dest / 512) (m.dest % 512) m.asid m.cls) := by
  simp only [State.gather, h, List.find?_nil, List.filter_nil, List.length_nil]
  rfl

theorem State.modCore_setCore (s : State) (c : Nat) (k : Core) (f : Core → Core) : (s.setCore c k).modCore c f = s.setCore c (f k) := by
  simp [State.modCore, State.setCore, State.core, Tab.put_put]

/-- A thread admitted to a core with no window open: it stands in its context, and gathers in a window of its own. -/
theorem Core.admitted_opened {k : Core} {slot desc : Nat} {m : Travel} {w : Win} {g : Gather} (hg : k.work.gathers = [])
    (hn : (m.regs.map Prod.fst).Nodup) (hm : (m.masks.map Prod.fst).Nodup) :
    let l := (k.fillCtx slot (trimTravel m desc) w false none).opened slot g
    Admitted l slot m desc w ∧ (l.ctx slot).status = .gathering ∧ (∀ j, j ≠ slot → l.ctx j = k.ctx j) ∧ l.regs = k.regs ∧ l.q = k.q ∧
      l.work = { k.work with gathers := [g] } := by
  intro l
  obtain ⟨hregs, hq, hwork⟩ := k.fillCtx_frame slot (trimTravel m desc) w false none
  have hctx : l.ctx slot = { (k.fillCtx slot (trimTravel m desc) w false none).ctx slot with status := .gathering } := Core.ctx_opened ..
  refine ⟨(Core.fillCtx_admitted hn hm k slot desc w).of_status rfl rfl rfl hctx, by rw [hctx], fun j hj => ?_, hregs, hq, ?_⟩
  · rw [Core.ctx_opened_ne _ hj, Core.ctx_fillCtx_ne _ hj]
  · show ({ (k.fillCtx slot (trimTravel m desc) w false none).work with gathers := _ } : CoreWork) = _
    rw [hwork, hg]
    rfl

/-- A free context takes an arrival that is no pair's. -/
theorem State.takeIn_single {s : State} {c slot : Nat} {m : Travel} {p : Placed} {w : Win} (hp : (s.core c).placedBlock m.asid (m.dest / 512) = some p)
    (hs : (s.core c).freeSlot none = some slot) (hw : (s.core c).newWindow p slot = some w) (hr : m.redun = false) :
    s.takeIn c m = some ((s.setCore c ((s.core c).fillCtx slot m w false none)).gather c slot m) := by
  simp [State.takeIn, hp, hs, hw, hr]

/-- An arrival that nothing of its class precedes is admitted where there is room. -/
theorem State.accept_admits {s t : State} {c : Nat} {m : Travel} (ha : s.Admits c m) (ht : s.takeIn c m = some t) (body : Travel → SlotBody) :
    s.accept c m body = t := by
  obtain ⟨h1, h2, h3, h4, h5⟩ := ha
  have hpre : ((s.core c).work.preempted && m.cls != 0) = false := by
    rcases h5 with h | h <;> simp [h]
  simp [State.accept, h1, h2, h3, h4, hpre, ht]

/-- One for which there is no context waits in the spill queue; of a class but 0 it pre-empts nothing (02 R43). -/
theorem State.accept_spills {s : State} {c : Nat} {m : Travel} (ha : s.Admits c m) (ht : s.takeIn c m = none) (hc : m.cls ≠ 0)
    (body : Travel → SlotBody) : s.accept c m body = s.spill c m.asid { body := body m, arrival := s.cycle c } := by
  obtain ⟨h1, h2, h3, h4, h5⟩ := ha
  have hpre : ((s.core c).work.preempted && m.cls != 0) = false := by
    rcases h5 with h | h <;> simp [h]
  simp [State.accept, h1, h2, h3, h4, hpre, ht, hc]

/-- A travelling or stolen thread that reaches a core which holds its block is accepted there, trimmed to its entry. -/
theorem exec_arrival {s : State} {dst desc : Nat} {m : Travel} {i : Instr} {p : Placed} (hi : i = .travelMessageArrival dst m ∨ i = .stolenChildArrival dst m)
    (hr : Reaches s dst m.asid) (hp : (s.core (s.phys dst)).placedBlock m.asid (m.dest / 512) = some p) (hd : entryAt p.descs (m.dest % 512) = some desc) :
    ∃ y : Yew, exec i s = .next (({ s with yew := y } : State).accept (s.phys dst) (trimTravel m desc) .travel) := by
  have htrim : trimTo m p = trimTravel m desc := by rw [trimTo, hd]
  have hint : s.intercept dst m = none := hr.intercept
  rcases hi with rfl | rfl
  · obtain ⟨y, -, hy⟩ := State.accepting_closed hr.open_ (s.phys dst) m.asid m.cut (.travelMessageArrival dst { trimTravel m desc with rolled := true })
    refine ⟨y, ?_⟩
    show execTravelMessageArrival dst m s = _
    simp only [execTravelMessageArrival, hint, hp, htrim]
    exact congrArg (fun t : State => Host.Outcome.next (t.accept (s.phys dst) (trimTravel m desc) .travel)) hy
  · obtain ⟨y, -, hy⟩ := State.accepting_closed hr.open_ (s.phys dst) m.asid m.cut (.stolenChildArrival dst { m with rolled := true })
    refine ⟨y, ?_⟩
    have hp' : (({ s with yew := y } : State).core (s.phys dst)).placedBlock m.asid (m.dest / 512) = some p := hp
    show execStolenChildArrival dst m s = _
    simp only [execStolenChildArrival, hint, hy, hp', htrim]

/-- A thread that its core does not take, or whose core is sealed, goes back to its origin (02 R34, R52). -/
theorem exec_arrival_sealed {s : State} {dst : Nat} {m : Travel} (hc : chipOf m.origin = s.chip m.asid) (hr : (s.rename m.origin).st = 0)
    (hd : s.dropsFor (dieOf dst) m.asid = false) (hs : (s.rename dst).st = 1) :
    exec (.travelMessageArrival dst m) s = .next { s with net := s.net ++ [.returnedTravelMessage { m with back := some dst }] } := by
  have hint : s.intercept dst m = some { s with net := s.net ++ [.returnedTravelMessage { m with back := some dst }] } := by
    simp only [State.intercept, hd, hs, Bool.false_eq_true, if_false]
    exact congrArg some (State.returnTravel_here (m := { m with back := some dst }) hc hr _)
  show execTravelMessageArrival dst m s = _
  simp only [execTravelMessageArrival, hint]

theorem exec_arrival_unheld {s : State} {dst : Nat} {m : Travel} (hc : chipOf m.origin = s.chip m.asid) (hr : (s.rename m.origin).st = 0)
    (h : Reaches s dst m.asid) (hp : (s.core (s.phys dst)).placedBlock m.asid (m.dest / 512) = none) :
    exec (.travelMessageArrival dst m) s = .next { s with net := s.net ++ [.returnedTravelMessage m] } := by
  have hint : s.intercept dst m = none := h.intercept
  show execTravelMessageArrival dst m s = _
  simp only [execTravelMessageArrival, hint, hp, State.returnTravel_here hc hr]

/-! ### Discarded messages (02 R44) -/

/-- A job of an ASID as a change of it that keeps its ASIDs leaves it. -/
theorem State.jobOf_modJob {s : State} {asid : Nat} {j : Job} {f : Job → Job} (hj : s.jobOf asid = some j)
    (hf : ∀ x, (f x).st = x.st ∧ (f x).asids = x.asids) : (s.modJob j.num f).jobOf asid = some (f j) := by
  have hst : (j.st != .ended) = true := (Bool.and_eq_true _ _ ▸ List.find?_some hj : _ ∧ _).1
  rw [State.jobOf, State.modJob, List.find?_map]
  have hp : ((fun j : Job => j.st != .ended && j.asids.contains asid) ∘ fun x => if x.st != .ended && x.num == j.num then f x else x) =
      fun j : Job => j.st != .ended && j.asids.contains asid := by
    funext x
    dsimp only [Function.comp]
    split
    · rw [(hf x).1, (hf x).2]
    · rfl
  rw [hp, show s.jobs.find? _ = some j from hj, Option.map_some, if_pos (by simp [hst])]

theorem State.modJob_modJob (s : State) (n : Nat) {f g : Job → Job} (hf : ∀ x, (f x).st = x.st ∧ (f x).num = x.num) :
    (s.modJob n f).modJob n g = s.modJob n fun x => g (f x) := by
  unfold State.modJob
  dsimp only
  rw [List.map_map]
  congr 1
  refine List.map_congr_left fun x _ => ?_
  dsimp only [Function.comp]
  split
  · next h => rw [(hf x).1, (hf x).2, if_pos h]
  · rfl

/-- A record's new value changes the job's records, and their image in memory. -/
theorem State.recount_frame (s : State) (j : Job) (i v : Nat) : ∃ (g : Job → Job) (m : Memory), s.recount j i v = { s.modJob j.num g with mem := m } ∧
    ∀ x : Job, g x = { x with faults := (g x).faults } := by
  refine ⟨fun j => { j with faults := j.faults.modify i fun r => { r with d2 := v } }, ?_⟩
  unfold State.recount
  dsimp only
  split
  · split
    · exact ⟨s.mem, rfl, fun x => rfl⟩
    · exact ⟨_, rfl, fun x => rfl⟩
  · exact ⟨s.mem, rfl, fun x => rfl⟩

/-- The count of a discarding job goes up, and its record of kind 8 follows. -/
theorem State.discard_counts {s : State} {asid : Nat} {j : Job} (hj : s.jobOf asid = some j) : ∃ (f : Job → Job) (m : Memory),
    s.discard asid = { s.modJob j.num f with mem := m } ∧ ∀ x : Job, f x = { x with discarded := x.discarded + 1, faults := (f x).faults } := by
  unfold State.discard
  simp only [hj]
  split
  · split
    · exact ⟨_, s.mem, rfl, fun x => rfl⟩
    · next i _ _ =>
      obtain ⟨g, m, hg, hx⟩ := (s.modJob j.num fun j => { j with discarded := j.discarded + 1 }).recount_frame j (j.faults.length - 1 - i) (j.discarded + 1)
      refine ⟨fun x => g { x with discarded := x.discarded + 1 }, m, ?_, fun x => hx _⟩
      rw [hg, State.modJob_modJob s j.num (f := fun x => { x with discarded := x.discarded + 1 }) fun x => ⟨rfl, rfl⟩]
  · exact ⟨_, s.mem, rfl, fun x => rfl⟩

/-- A message of a job whose messages a die discards is counted and dropped. -/
theorem exec_arrival_discarded {s : State} {dst : Nat} {m : Travel} {j : Job} (hj : s.jobOf m.asid = some j) (hd : dieOf dst ∈ j.discarding) :
    ∃ (f : Job → Job) (y : Yew) (mem : Memory), exec (.travelMessageArrival dst m) s = .next { s.modJob j.num f with yew := y, mem := mem } ∧
      ∀ x : Job, f x = { x with discarded := x.discarded + 1, faults := (f x).faults } := by
  obtain ⟨y, -, hy⟩ := s.countGot_yew m.asid m.cut
  obtain ⟨f, mem, hf, hx⟩ := State.discard_counts (s := { s with yew := y }) hj
  have hdrop : s.dropsFor (dieOf dst) m.asid = true := by simp [State.dropsFor, State.jobDiscards, hj, hd]
  refine ⟨f, y, mem, ?_, hx⟩
  show execTravelMessageArrival dst m s = _
  simp only [execTravelMessageArrival, State.intercept, hdrop, if_true, State.discardMsg, hy, hf]
  rfl

/-! ### Gangs (02 R45) -/

theorem mem_sortBy {α : Type} (key : α → Nat) (y : α) (l : List α) : y ∈ sortBy key l ↔ y ∈ l := by
  have h : ∀ (l acc : List α), y ∈ l.foldl (fun acc x => insertBy key x acc) acc ↔ y ∈ acc ∨ y ∈ l := by
    intro l
    induction l with
    | nil => simp
    | cons x l ih => intro acc; rw [List.foldl_cons, ih, mem_insertBy, List.mem_cons]; tauto
  exact (h l []).trans (by simp)

theorem length_sortBy {α : Type} (key : α → Nat) (l : List α) : (sortBy key l).length = l.length := by
  have hi : ∀ (x : α) (l : List α), (insertBy key x l).length = l.length + 1 := by
    intro x l
    induction l with
    | nil => rfl
    | cons y l ih => rw [insertBy]; split <;> simp [ih]
  have h : ∀ (l acc : List α), (l.foldl (fun acc x => insertBy key x acc) acc).length = acc.length + l.length := by
    intro l
    induction l with
    | nil => simp
    | cons x l ih => intro acc; rw [List.foldl_cons, ih, hi, List.length_cons]; omega
  exact (h l []).trans (by simp)

theorem insertBy_rising (x : Nat) : ∀ l : List Nat, x ∉ l → l.Pairwise (· < ·) → (insertBy id x l).Pairwise (· < ·)
  | [], _, _ => List.pairwise_singleton ..
  | y :: l, hx, hl => by
    rw [List.pairwise_cons] at hl
    rw [List.mem_cons, not_or] at hx
    rw [insertBy]
    split
    · next h =>
      have h : x < y := h
      refine List.pairwise_cons.2 ⟨fun z hz => ?_, List.pairwise_cons.2 hl⟩
      rcases List.mem_cons.1 hz with rfl | hz
      · exact h
      · exact h.trans (hl.1 z hz)
    · next h =>
      have h : ¬ x < y := h
      refine List.pairwise_cons.2 ⟨fun z hz => ?_, insertBy_rising x l hx.2 hl.2⟩
      rcases (mem_insertBy id x z l).1 hz with rfl | hz
      · omega
      · exact hl.1 z hz

/-- Slots that differ, sorted, rise. -/
theorem sortBy_rising {l : List Nat} (hn : l.Nodup) : (sortBy id l).Pairwise (· < ·) := by
  have h : ∀ (l acc : List Nat), l.Nodup → (∀ x ∈ l, x ∉ acc) → acc.Pairwise (· < ·) →
      (l.foldl (fun acc x => insertBy id x acc) acc).Pairwise (· < ·) := by
    intro l
    induction l with
    | nil => exact fun _ _ _ h => h
    | cons x l ih =>
      intro acc hn hx hacc
      rw [List.nodup_cons] at hn
      refine ih _ hn.2 (fun z hz hin => ?_) (insertBy_rising x acc (hx x (List.mem_cons_self ..)) hacc)
      rcases (mem_insertBy id x z acc).1 hin with rfl | hin
      · exact hn.1 hz
      · exact hx z (List.mem_cons_of_mem _ hz) hin
  exact h l [] hn (fun _ _ => List.not_mem_nil) List.Pairwise.nil

/-- One change of several contexts of a core. -/
theorem Core.foldl_modCtx (f : Ctx → Ctx) : ∀ (l : List Nat) (k : Core),
    l.foldl (fun k n => k.modCtx n f) k = { k with ctxs := (l.foldl (fun k n => k.modCtx n f) k).ctxs }
  | [], _ => rfl
  | n :: l, k => by rw [List.foldl_cons, Core.foldl_modCtx f l]; rfl

theorem Core.ctx_foldl_modCtx (f : Ctx → Ctx) (n : Nat) : ∀ (l : List Nat), l.Nodup → ∀ k : Core,
    (l.foldl (fun k n => k.modCtx n f) k).ctx n = if n ∈ l then f (k.ctx n) else k.ctx n
  | [], _, _ => rfl
  | m :: l, hn, k => by
    rw [List.nodup_cons] at hn
    rw [List.foldl_cons, Core.ctx_foldl_modCtx f n l hn.2]
    by_cases h : n = m
    · rw [h, if_neg hn.1, Core.ctx_modCtx_self, if_pos (List.mem_cons_self ..)]
    · rw [Core.ctx_modCtx_ne _ _ h]
      simp [h]

/-- The gang that a window's members form: none for one alone. -/
def gangOf (l : List Nat) : List Nat := if (sortBy id l).length ≤ 1 then [] else sortBy id l

/-- The core after its one window has closed with some members. -/
def Core.closed (k : Core) (l : List Nat) : Core :=
  l.foldl (fun k n => k.modCtx n fun x => x.gathered (gangOf l)) { k with work := { k.work with gathers := [] } }

theorem Core.gathers_closed (k : Core) (l : List Nat) : (k.closed l).work.gathers = [] := by rw [Core.closed, Core.foldl_modCtx]

theorem Core.ctx_closed {l : List Nat} (hn : l.Nodup) (k : Core) (n : Nat) :
    (k.closed l).ctx n = if n ∈ l then (k.ctx n).gathered (gangOf l) else k.ctx n := Core.ctx_foldl_modCtx _ n l hn _

/-- The close of a window whose members all wait in it: they become ready, in a gang if there are several. -/
theorem exec_close {s : State} {c : Nat} {g : Gather} (hg : (s.core c).work.gathers = [g]) (hc : g.close ≤ s.now)
    (hm : ∀ n ∈ g.members, (s.ctx c n).status = .gathering ∧ (s.ctx c n).asid = g.asid ∧ (s.ctx c n).cls = g.cls ∧
      (s.ctx c n).pc.blk = g.blk ∧ (s.ctx c n).pc.off = g.off ∧ (s.ctx c n).issued = false) :
    exec (.gatheringWindowClose c g.blk g.off g.asid g.cls) s = .next (s.modCore c fun k => k.closed g.members) := by
  have hstays : g.members.filter (fun n => ((s.core c).ctx n).asid == g.asid && ((s.core c).ctx n).cls == g.cls && ((s.core c).ctx n).pc.blk == g.blk &&
      ((s.core c).ctx n).pc.off == g.off && !((s.core c).ctx n).issued) = g.members := List.filter_eq_self.2 fun n hn => by
    obtain ⟨-, h2, h3, h4, h5, h6⟩ := hm n hn
    unfold State.ctx at *
    simp [h2, h3, h4, h5, h6]
  have hlive : g.members.filter (fun n => ((s.core c).ctx n).status == .gathering) = g.members := List.filter_eq_self.2 fun n hn =>
    beq_iff_eq.2 (hm n hn).1
  show execGatheringWindowClose c g.blk g.off g.asid g.cls s = _
  unfold execGatheringWindowClose
  simp only [hg, List.find?_cons, beq_self_eq_true, Bool.true_and, decide_eq_true hc, Bool.true_or]
  refine congrArg (fun k => Host.Outcome.next (s.setCore c k)) ?_
  dsimp only
  rw [hstays, hlive, hg, List.eraseP_cons_of_pos (by simp [hc])]
  rfl

theorem Ctx.gathered_single {x : Ctx} (h : x.status = .gathering) : x.gathered [] = { x with status := .ready } := by
  simp [Ctx.gathered, h]

/-- A member of a gang carries its GANG flag and the gang's slots (03 R77). -/
theorem Ctx.gathered_gang {x : Ctx} (h : x.status = .gathering) {gang : List Nat} (hg : gang ≠ []) :
    (x.gathered gang).gang = gang ∧ (x.gathered gang).tstat.testBit 3 = true ∧
      x.gathered gang = { x with status := .ready, gang := gang, tstat := (x.gathered gang).tstat } := by
  have he : x.gathered gang = { { x with gang := gang }.setFlag 3 true with status := .ready } := by simp [Ctx.gathered, h, hg]
  rw [he]
  exact ⟨rfl, by simp [Ctx.setFlag, Nat.testBit_or, show Nat.testBit 8 3 = true from rfl], rfl⟩

theorem gangOf_single (n : Nat) : gangOf [n] = [] := rfl

theorem gangOf_several {l : List Nat} (h : 2 ≤ l.length) : gangOf l = sortBy id l ∧ gangOf l ≠ [] := by
  have hlen := length_sortBy id l
  have hif : ¬ (sortBy id l).length ≤ 1 := by omega
  rw [gangOf, if_neg hif]
  refine ⟨rfl, fun he => ?_⟩
  rw [he] at hlen
  simp at hlen
  omega

/-! ### The statement -/

/-- Settles O26: an arrival is accepted, and then admitted or spilled by whether a context is free. -/
theorem threadsArrive : Obligations.ThreadsArrive := by
  unfold Obligations.ThreadsArrive
  refine ⟨?taken, ?returned, ?discarded, ?closed⟩
  case taken =>
    intro s dst m i p desc hi hr hp hd c k
    obtain ⟨y, hy⟩ := exec_arrival hi hr hp hd
    refine ⟨fun slot w ha hred hs hw hg hn hm => ⟨_, hy, ?_⟩, fun ha hcls hs hf => ?_⟩
    · have hin : ({ s with yew := y } : State).takeIn c (trimTravel m desc) =
          some ((({ s with yew := y } : State).setCore c (k.fillCtx slot (trimTravel m desc) w false none)).gather c slot (trimTravel m desc)) :=
        State.takeIn_single hp hs hw hred
      have ha' : ({ s with yew := y } : State).Admits c (trimTravel m desc) := ha
      have hgath : ((({ s with yew := y } : State).setCore c (k.fillCtx slot (trimTravel m desc) w false none)).core c).work.gathers = [] := by
        rw [State.core_setCore_self, (k.fillCtx_frame ..).2.2]; exact hg
      rw [State.accept_admits ha' hin, State.gather_opens hgath, State.modCore_setCore]
      generalize hu : State.after _ 64 _ = u
      have hcore : u.core c = (k.fillCtx slot (trimTravel m desc) w false none).opened slot (windowOf (trimTravel m desc) slot s.now) :=
        State.core_put (congrArg State.cores hu.symm)
      obtain ⟨hadm, hst, hctx, hregs, hq, hwork⟩ := Core.admitted_opened (k := k) (slot := slot) (desc := desc) (w := w)
        (g := windowOf (trimTravel m desc) slot s.now) hg hn hm
      rw [← hcore] at hadm hst hctx hregs hq hwork
      refine ⟨by rw [← hu]; rfl, hadm, hst, hctx, fun a hac => State.core_put_ne (congrArg State.cores hu.symm) hac, hregs, hq, hwork, ?_⟩
      rw [← hu]
      exact (mem_insertBy ..).2 (.inl rfl)
    · have ha' : ({ s with yew := y } : State).Admits c (trimTravel m desc) := ha
      obtain ⟨g, hg⟩ := State.spill_room (s := { s with yew := y }) (c := c) hf ha'.2.2.1 m.asid
        { body := .travel (trimTravel m desc), arrival := s.cycle c }
      refine ⟨_, { body := .travel (trimTravel m desc), arrival := s.cycle c }, trimTravel m desc, hy, ?_⟩
      rw [State.accept_spills ha' (State.takeIn_full (s := { s with yew := y }) hs _) hcls]
      generalize hu : State.spill _ c _ _ = u
      have hu := hu.symm.trans hg
      have hcore : u.core c = k.spilled { body := .travel (trimTravel m desc), arrival := s.cycle c } := State.core_put (congrArg State.cores hu)
      refine ⟨by rw [hu]; rfl, .put (k := u.core c) (by rw [hcore, hu]; rfl), by rw [hcore]; rfl, by rw [hcore]; rfl, rfl, rfl⟩
  case returned =>
    exact fun s dst m hc hr hd => ⟨exec_arrival_sealed hc hr hd, exec_arrival_unheld hc hr⟩
  case discarded =>
    intro s dst m j hj hd
    obtain ⟨f, y, mem, hx, hf⟩ := exec_arrival_discarded hj hd
    have hkeep : ∀ x, (f x).st = x.st ∧ (f x).asids = x.asids := fun x => by rw [hf x]; exact ⟨rfl, rfl⟩
    exact ⟨_, f j, hx, rfl, State.jobOf_modJob hj hkeep, hf j⟩
  case closed =>
    intro s c g hg hc hn hne hm
    have hctx : ∀ n, (s.modCore c fun k => k.closed g.members).ctx c n =
        if n ∈ g.members then (s.ctx c n).gathered (gangOf g.members) else s.ctx c n := fun n => by
      rw [State.ctx, State.core_modCore_self, Core.ctx_closed hn]; rfl
    refine ⟨_, exec_close hg hc hm, .put rfl, ?_, fun n hin => ?_, fun n hone => ?_, fun h2 n hin => ?_⟩
    · rw [State.core_modCore_self, Core.gathers_closed]
    · rw [hctx, if_neg hin]
    · have hin : n ∈ g.members := by rw [hone]; exact List.mem_singleton_self n
      rw [hctx, if_pos hin, hone, gangOf_single]
      exact Ctx.gathered_single (hm n hin).1
    · obtain ⟨hgang, hnil⟩ := gangOf_several h2
      obtain ⟨h3, h4, h5⟩ := Ctx.gathered_gang (hm n hin).1 hnil
      rw [hctx, if_pos hin]
      refine ⟨by rw [h5], h4, ?_, fun j => ?_, ?_⟩
      · rw [h3, hgang]; exact sortBy_rising hn
      · rw [h3, hgang]; exact mem_sortBy ..
      · rw [h3]; exact h5

end Sys2Proof.Machine
end

section
/-! Fork children, steals and pre-emption (02 R47 to R51; 05 R112). -/

namespace Sys2Proof.Machine

/-! ### Fork children (02 R47) -/

theorem trimTo_frame (m : Travel) (p : Placed) : trimTo m p = { m with
    live := (trimTo m p).live, maskLive := (trimTo m p).maskLive, regs := (trimTo m p).regs, masks := (trimTo m p).masks } := by
  unfold trimTo
  split <;> rfl

theorem Core.freeSlot_none {k : Core} : k.freeSlot none = none ↔ ∀ n < 63, (k.ctx n).status ≠ .free := by
  simp [Core.freeSlot]

/-- A parent that stands in its context, waiting for the acceptance of its child, goes on (08 R178). -/
theorem Core.answer_accept {k : Core} {n : Nat} (hst : (k.ctx n).status = .parked .accept) (hs : Tab.get? k.work.saved n = none) :
    k.answer n = k.setCtx n { k.ctx n with phase := 2, status := .ready } := by
  have hx : Tab.get? k.ctxs n = some (k.ctx n) := Core.get?_ctx (by rw [hst]; exact Status.noConfusion)
  have ha : (k.ctx n).answered = { k.ctx n with phase := 2, status := .ready } := by simp [Ctx.answered, hst]
  unfold Core.answer
  simp only [hx, Core.work_setCtx, hs, ha]

theorem State.answer_closed {s : State} (h : s.openSnap = none) (c n : Nat) (early : Bool) : s.answer c n early = s.modCore c fun k => k.answer n := by
  have h' : (s.modCore c fun k => k.answer n).openSnap = none := h
  simp only [State.answer, h']

/-- The core with a child at the newest end of its deque. -/
def Core.withChild (k : Core) (q : QSlot) : Core := { k with work := { k.work with deque := k.work.deque ++ [q] } }

theorem State.pushDeque_room {s : State} {c : Nat} (h : (s.core c).work.deque.length < 64) (m : Travel) :
    s.pushDeque c m = some (s.modCore c fun k => k.withChild { body := .travel m, arrival := s.cycle c }) := if_pos h

/-- What a step that adds a child to one core's deque and lets a parent of one core go on leaves of the cores. -/
theorem State.core_childTaken (s : State) {c pc ps : Nat} (q : QSlot) (hst : (s.ctx pc ps).status = .parked .accept)
    (hs : Tab.get? (s.core pc).work.saved ps = none) (u : State) (hu : u = (s.modCore c fun k => k.withChild q).modCore pc fun k => k.answer ps) :
    (∀ a, a ≠ c → a ≠ pc → u.core a = s.core a) ∧ (u.core c).work = ((s.core c).withChild q).work ∧
      u.ctx pc ps = { s.ctx pc ps with phase := 2, status := .ready } ∧ ∀ a j, (a, j) ≠ (pc, ps) → u.ctx a j = s.ctx a j := by
  have hmid : ∀ a, ((s.modCore c fun k => k.withChild q).core a).ctxs = (s.core a).ctxs ∧
      ((s.modCore c fun k => k.withChild q).core a).work.saved = (s.core a).work.saved := fun a => by
    by_cases h : a = c
    · rw [h, State.core_modCore_self]; exact ⟨rfl, rfl⟩
    · rw [State.core_modCore_ne _ _ h]; exact ⟨rfl, rfl⟩
  have hctx : ∀ a j, (s.modCore c fun k => k.withChild q).ctx a j = s.ctx a j := fun a j => by rw [State.ctx, Core.ctx, (hmid a).1]; rfl
  have hpc : u.core pc = ((s.modCore c fun k => k.withChild q).core pc).setCtx ps { s.ctx pc ps with phase := 2, status := .ready } := by
    rw [hu, State.core_modCore_self, Core.answer_accept (by rw [← hst, ← hctx]; rfl) (by rw [(hmid pc).2, hs]), ← hctx]; rfl
  have hne : ∀ a, a ≠ pc → u.core a = (s.modCore c fun k => k.withChild q).core a := fun a h => by rw [hu, State.core_modCore_ne _ _ h]
  refine ⟨fun a hc hp => by rw [hne a hp, State.core_modCore_ne _ _ hc], ?_, by rw [State.ctx, hpc, Core.ctx_setCtx_self], fun a j h => ?_⟩
  · by_cases h : c = pc
    · rw [h, hpc, ← h, State.core_modCore_self]; rfl
    · rw [hne c h, State.core_modCore_self]
  · by_cases ha : a = pc
    · subst ha
      rw [State.ctx, hpc, Core.ctx_setCtx_ne _ _ fun hj => h (by rw [hj])]
      exact hctx a j
    · rw [State.ctx, hne a ha]; exact hctx a j

/-- A child that reaches a holder without a free context joins its deque, and its parent goes on. -/
theorem exec_forkChildArrival {s : State} {dst : Nat} {m : Travel} {p : Placed} {pc ps : Nat} (hr : Reaches s dst m.asid)
    (hp : (s.core (s.phys dst)).placedBlock m.asid (m.dest / 512) = some p) (hd : (s.core (s.phys dst)).work.deque.length < 64)
    (hf : (s.core (s.phys dst)).freeSlot none = none) (hm : m.parent = some (pc, ps)) (hst : (s.ctx pc ps).status = .parked .accept)
    (hs : Tab.get? (s.core pc).work.saved ps = none) :
    ∃ y : Yew, exec (.forkChildArrival dst m) s = .next ((({ s with yew := y } : State).modCore (s.phys dst) fun k =>
      k.withChild { body := .travel { trimTo m p with parent := none }, arrival := s.cycle (s.phys dst) }).modCore pc fun k => k.answer ps) := by
  have hint : s.intercept dst m = none := hr.intercept
  obtain ⟨y, hy, hacc⟩ := State.accepting_closed hr.open_ (s.phys dst) (trimTo m p).asid (trimTo m p).cut (.forkChildArrival dst { trimTo m p with
    rolled := true, parent := (trimTo m p).parent.bind fun q => if s.cutTaken q.1 then some q else none })
  have ho : ({ s with yew := y } : State).openSnap = none := by rw [State.openSnap, hy]; exact hr.open_
  have hpush := State.pushDeque_room (s := { s with yew := y }) (c := s.phys dst) hd { trimTo m p with parent := none }
  have htp : (trimTo m p).parent = some (pc, ps) := by rw [trimTo_frame]; exact hm
  refine ⟨y, ?_⟩
  show execForkChildArrival dst m s = _
  unfold execForkChildArrival
  simp only [hint, hp]
  rw [hacc]
  simp only [hpush, htp]
  rw [State.answer_closed (by exact ho)]
  refine congrArg _ (State.readmit_full (Core.freeSlot_none.2 fun n hn => ?_) 63)
  obtain ⟨-, -, h1, h2⟩ := State.core_childTaken (s := { s with yew := y }) (c := s.phys dst)
    { body := .travel { trimTo m p with parent := none }, arrival := s.cycle (s.phys dst) } hst hs _ rfl
  by_cases hpar : (s.phys dst, n) = (pc, ps)
  · obtain ⟨hc, hn⟩ := Prod.mk.inj hpar
    have h1 := congrArg Ctx.status h1
    rw [← hc, ← hn] at h1 ⊢
    exact fun h => absurd (h1.symm.trans h) Status.noConfusion
  · have h2 := congrArg Ctx.status (h2 _ _ hpar)
    exact fun h => Core.freeSlot_none.1 hf n hn (h2.symm.trans h)

/-! ### Steals (02 R49; 05 R112) -/

/-- A victim without children gives a thief nothing. -/
theorem State.stealFrom_empty {s : State} {v : Nat} (hd : (s.core v).work.deque = []) (ho : (s.core v).work.overflow.all = []) (thief : Nat) :
    s.stealFrom thief v = none := by
  simp [State.stealFrom, Core.stealOldest, hd, ho]

/-- The core without the oldest of its children. -/
def Core.robbed (k : Core) (l : List QSlot) : Core := { k with work := { k.work with deque := l } }

/-- The child as it goes to its thief. -/
def State.stolen (s : State) (victim : Nat) (m : Travel) : Travel :=
  { m with kind := 4, origin := s.coreId m.asid victim, cut := s.cutBit victim m.asid }

/-- A child in the thief's domain goes to the thief's core. -/
theorem State.stealFrom_takes {s : State} {thief victim : Nat} {q : QSlot} {l : List QSlot} {m : Travel} (hd : (s.core victim).work.deque = q :: l)
    (ho : (s.core victim).work.overflow.all = []) (hq : q.waits = some m) (hin : s.inDomain thief victim m) (hj : s.jobStopped m.asid = false)
    (hc : chipOf (s.coreId m.asid thief) = s.chip m.asid) :
    ∃ y : Yew, s.stealFrom thief victim = some { s.setCore victim ((s.core victim).robbed l) with
      yew := y, net := s.net ++ [.stolenChildArrival (s.coreId m.asid thief) (s.stolen victim m)] } := by
  obtain ⟨y, -, hy⟩ := State.sendTo_here (s := s.setCore victim ((s.core victim).robbed l)) hc (s.stolen victim m).cut
    (.stolenChildArrival (s.coreId m.asid thief) (s.stolen victim m))
  refine ⟨y, ?_⟩
  have hold : (s.core victim).stealOldest = some (q, (s.core victim).robbed l) := by simp only [Core.stealOldest, ho, hd]; rfl
  simp only [State.stealFrom, hold, hq, Option.bind_some, hin, hj, Bool.not_false, Bool.and_self, if_true]
  exact congrArg some hy

/-- A thief that is busy, or finds every deque empty, leaves all as the owner's take has left it. -/
theorem exec_steal_nothing {s : State} {thief owner : Nat}
    (h : (∀ v ∈ (s.ownerTakes owner).victims thief, ((s.ownerTakes owner).core v).work.deque = [] ∧ ((s.ownerTakes owner).core v).work.overflow.all = []) ∨
      ((s.ownerTakes owner).core thief).idle = false) : exec (.steal thief owner) s = .next (s.ownerTakes owner) := by
  show execSteal thief owner s = _
  unfold execSteal
  dsimp only
  rcases h with h | h
  · have hnone : ((s.ownerTakes owner).victims thief).findSome? ((s.ownerTakes owner).stealFrom thief) = none :=
      List.findSome?_eq_none_iff.2 fun v hv => State.stealFrom_empty (h v hv).1 (h v hv).2 thief
    rw [hnone]
    split <;> rfl
  · rw [h]; rfl

/-- An idle thief takes from the first victim in rank that gives it something. -/
theorem exec_steal_first {s w : State} {thief owner victim : Nat} {before after : List Nat} {t : State} (hw : w = s.ownerTakes owner)
    (hv : w.victims thief = before ++ victim :: after) (hb : ∀ v ∈ before, w.stealFrom thief v = none) (ht : w.stealFrom thief victim = some t)
    (hi : (w.core thief).idle) (hp : (w.core thief).work.preempted = false) (hs : (w.core thief).csr.stopped = false) :
    exec (.steal thief owner) s = .next t := by
  show execSteal thief owner s = _
  have hfirst : (w.victims thief).findSome? (w.stealFrom thief) = some t := by
    rw [hv, List.findSome?_append, List.findSome?_eq_none_iff.2 hb]
    simp [ht]
  unfold execSteal
  dsimp only
  rw [← hw, hfirst, hi, hp, hs]
  rfl

/-! ### Pre-emption (02 R51) -/

theorem State.foldl_post (f : Nat → Instr) : ∀ (l : List Nat) (s : State), l.foldl (fun s n => s.post (f n)) s = { s with net := s.net ++ l.map f }
  | [], s => by simp
  | n :: l, s => by rw [List.foldl_cons, State.foldl_post f l]; simp [State.post]

/-- The contexts of a core that a pre-emption saves: the ordinary ones of a lower class. -/
def Core.lower (k : Core) : List Nat := (k.ctxs.filter fun e => e.1 < 63 && e.2.status != .free && e.2.cls != 0).map Prod.fst

theorem Core.mem_lower {k : Core} {n : Nat} : n ∈ k.lower ↔ ∃ x, (n, x) ∈ k.ctxs ∧ n < 63 ∧ x.status ≠ .free ∧ x.cls ≠ 0 := by
  simp [Core.lower, and_assoc]

theorem Core.mem_lower_ctx {k : Core} {n : Nat} (hn : n < 63) (hf : (k.ctx n).status ≠ .free) (hc : (k.ctx n).cls ≠ 0) : n ∈ k.lower :=
  Core.mem_lower.2 ⟨k.ctx n, Core.mem_ctxs hf, hn, hf, hc⟩

/-- A mesh interrupt of a core that runs something of a lower class: every such context is to be saved. -/
theorem exec_meshInterrupt {s : State} {c : Nat} (hp : (s.core c).work.preempted = false) (hs : (s.core c).csr.stopped = false)
    (hl : (s.core c).lower ≠ []) :
    exec (.meshInterrupt c) s = .next { s.modCore c fun k => { k with work := { k.work with preempted := true } } with
      net := s.net ++ (s.core c).lower.map (.contextSave c) } := by
  have hne : (s.core c).lower.isEmpty = false := by simpa using hl
  show execMeshInterrupt c s = _
  unfold execMeshInterrupt
  simp only [hp, hs, Bool.or_self, Bool.false_eq_true, if_false, State.foldl_post (fun n => Instr.contextSave c n)]
  exact congrArg _ (if_neg (by rw [← Core.lower, hne]; exact Bool.false_ne_true))

/-- With every command of a slot staged there is nothing to stage. -/
theorem State.stageWaiting_staged {s : State} {c slot : Nat} (h : ∀ o ∈ (s.core c).q.meq, o.slot = slot → o.staged) : s.stageWaiting c slot = s := by
  have hskip : ∀ o ∈ (s.core c).q.meq, ¬ (o.slot = slot && !o.staged) = true := fun o ho hn => by
    simp only [Bool.and_eq_true, decide_eq_true_eq, Bool.not_eq_true'] at hn
    exact absurd hn.2 (by simp [h o ho hn.1])
  exact (List.foldl_ext _ (fun t _ => t) s fun t o ho => if_neg (hskip o ho)).trans (List.foldl_fixed _)

section
variable {s : State} {c slot : Nat} (hq : ∀ o ∈ (s.core c).q.meq, o.slot = slot → o.staged) (hp : (s.core c).work.preempted)
  (hs : (s.core c).csr.stopped = false) (hslot : slot ≠ 63) (hcls : (s.ctx c slot).cls ≠ 0)
include hq hp hs hslot hcls

/-- A context whose registers an engine or Hornbeam holds is tried again 8 cycles later (11 R276). -/
theorem exec_contextSave_held (hst : (s.ctx c slot).status = .parked .engine ∨ (s.ctx c slot).status = .parked .solve) :
    exec (.contextSave c slot) s = .next (s.after 8 (.contextSave c slot)) := by
  show execContextSave c slot s = _
  unfold execContextSave
  simp only [State.stageWaiting_staged hq, ite_self]
  unfold State.ctx at *
  rcases hst with hst | hst <;> simp [hst, hp, hs, hslot, hcls]

/-- A settled context is saved; while another of a lower class remains, nothing is admitted. -/
theorem exec_contextSave_saves (hf : (s.ctx c slot).status ≠ .free) (he : (s.ctx c slot).status ≠ .parked .engine)
    (hv : (s.ctx c slot).status ≠ .parked .solve)
    (hset : (s.ctx c slot).settled s.now) (hbad : (s.core c).badSave slot = false) (hrest : ((s.saveContext c slot).core c).lower ≠ []) :
    exec (.contextSave c slot) s = .next (s.saveContext c slot) := by
  have hany : (((s.saveContext c slot).core c).ctxs.any fun e => e.1 < 63 && e.2.status != .free && e.2.cls != 0) = true := by
    obtain ⟨n, hn⟩ := List.exists_mem_of_ne_nil _ hrest
    obtain ⟨x, hx, h63, h1, h2⟩ := Core.mem_lower.1 hn
    exact List.any_eq_true.2 ⟨_, hx, by simp [h63, h1, h2]⟩
  show execContextSave c slot s = _
  unfold execContextSave
  simp only [State.stageWaiting_staged hq, ite_self]
  unfold State.ctx at *
  have hguard : (!(s.core c).work.preempted || slot == 63 || ((s.core c).ctx slot).status == .free || ((s.core c).ctx slot).cls == 0 ||
      (s.core c).csr.stopped) = false := by simp [hp, hs, hslot, hf, hcls]
  simp only [hguard, hset, hbad, hany, Bool.not_true, Bool.or_false, Bool.false_eq_true, if_false, if_true]

end

/-- Without bad parity among the core's registers a save meets none. -/
theorem Core.badSave_none {k : Core} (hm : k.badMain = []) (hv : k.badVec = []) (slot : Nat) : k.badSave slot = false := by
  simp [Core.badSave, hm, hv]

/-- Saving a thread that is in no gang leaves the other contexts, and the other cores. -/
theorem State.saveContext_ctx_ne {s : State} {c slot j : Nat} (hg : (s.ctx c slot).gang = []) (hj : j ≠ slot) :
    (s.saveContext c slot).ctx c j = s.ctx c j := by
  have hleave : (((s.core c).leaveGang slot).ctx j) = (s.core c).ctx j := by
    unfold State.ctx at hg
    rw [Core.leaveGang, hg]
    exact Core.ctx_modCtx_ne _ _ hj
  have hcore : (s.saveContext c slot).core c = _ := State.core_put rfl
  rw [State.ctx, hcore, Core.ctx_setCtx_ne _ _ hj]
  exact hleave

theorem State.saveContext_core_ne (s : State) {c a : Nat} (slot : Nat) (h : a ≠ c) : (s.saveContext c slot).core a = s.core a :=
  State.core_put_ne rfl h

/-! ### The statement -/

/-- Settles O27: a child joins a deque; an idle core steals the oldest; a pre-emption saves what runs in lower classes. -/
theorem childrenAndPreemption : Obligations.ChildrenAndPreemption := by
  unfold Obligations.ChildrenAndPreemption
  refine ⟨?forked, ?nothing, ?stolen, ?interrupted, ?saved⟩
  case forked =>
    intro s dst m p pc ps hr c k hp hd hf hm hst hs
    obtain ⟨y, hy⟩ := exec_forkChildArrival hr hp hd hf hm hst hs
    obtain ⟨h1, h2, h3, h4⟩ := State.core_childTaken (s := { s with yew := y }) (c := c)
      { body := .travel { trimTo m p with parent := none }, arrival := s.cycle c } hst hs _ rfl
    refine ⟨_, _, { trimTo m p with parent := none }, hy, rfl, h1, h2, rfl, rfl, rfl, ?_, h3, h4⟩
    rw [trimTo_frame m p]
  case nothing =>
    rintro s w thief owner rfl h
    exact exec_steal_nothing h
  case stolen =>
    intro r s thief owner victim q l m before after t hs hv hb hd ho hq hi hp hstop hin hj hc
    obtain ⟨y, hy⟩ := State.stealFrom_takes hd ho hq hin hj hc
    have hexec := exec_steal_first hs hv (fun v hm => State.stealFrom_empty (hb v hm).1 (hb v hm).2 thief) hy hi hp hstop
    refine ⟨_, s.stolen victim m, hexec, rfl, .put rfl, State.core_put rfl, rfl, rfl⟩
  case interrupted =>
    intro s c n hp hs hn hf hcls
    have hin : n ∈ (s.core c).lower := Core.mem_lower_ctx hn hf hcls
    refine ⟨_, exec_meshInterrupt hp hs (List.ne_nil_of_mem hin), rfl, .put rfl, State.core_put rfl, ⟨_, rfl, fun i => ?_⟩,
      List.mem_append_right _ (List.mem_map_of_mem hin)⟩
    simp only [List.mem_map, Core.mem_lower]
    exact exists_congr fun j => and_congr_right fun _ => eq_comm
  case saved =>
    intro s c slot n k x hp hs hslot hf hcls hq
    refine ⟨fun hst => ⟨_, exec_contextSave_held hq hp hs hslot hcls hst, rfl, (mem_insertBy ..).2 (.inl rfl)⟩,
      fun he hv hpipe hout hm hvec hg hn hns hnf hncls => ?_⟩
    have hn' : (s.saveContext c slot).ctx c n = s.ctx c n := State.saveContext_ctx_ne hg hns
    have hrest : n ∈ ((s.saveContext c slot).core c).lower := Core.mem_lower_ctx hn
      (by rw [← State.ctx, hn']; exact hnf) (by rw [← State.ctx, hn']; exact hncls)
    obtain ⟨hfree, v, hget, hsaved, -⟩ := s.saveContext_saved c slot
    exact ⟨_, v, exec_contextSave_saves hq hp hs hslot hcls hf he hv (Ctx.settled_of hpipe hout) (Core.badSave_none hm hvec slot)
      (List.ne_nil_of_mem hrest), rfl, hget, hsaved, hfree, fun j hj => State.saveContext_ctx_ne hg hj, fun a ha => s.saveContext_core_ne slot ha⟩

end Sys2Proof.Machine
end

section
/-! The placement of blocks (02 R33, R35; 05 R122). -/

namespace Sys2Proof.Machine

/-! ### Text loaded into an instruction store -/

/-- Bytes copied within memory: the target has what the source had, the rest stays. -/
theorem Memory.byte_copy {m : Memory} (h : m.wf = true) (dst src n b : Nat) :
    (m.write dst n (m.read src n)).byte b = if dst ≤ b ∧ b < dst + n then m.byte (src + (b - dst)) else m.byte b := by
  rw [Memory.byte_write]
  split
  · next hb =>
    have hfield := Memory.read_field h src n (b - dst) 1 (by omega)
    have hone : m.read (src + (b - dst)) 1 = (m.byte (src + (b - dst))).toNat := by simp [Memory.read_sum h]
    refine BitVec.eq_of_toNat_eq ?_
    rw [BitVec.toNat_ofNat, ← hone, ← hfield, Nat.pow_one]
  · rfl

/-- The core with a block's text in its instruction store. -/
def Core.withText (k : Core) (p : Placed) : Core := { k with work := { k.work with placed := k.work.placed ++ [p] } }

/-- A free run is room: nothing has to leave. (The equation lemma that Lean would derive for `State.roomFor` evaluates `freeRun` over the
whole store; the recursion is therefore unfolded by its definition.) -/
theorem State.roomFor_free {s : State} {c size r : Nat}
    (h : freeRun ((s.core c).work.placed.map fun p => (p.addr, 8 * p.count)) size 8 Config.istoreBytes = some r) (fuel : Nat) :
    s.roomFor c size (fuel + 1) = .ok (r, s) := by
  delta State.roomFor
  dsimp only [Nat.brecOn, Nat.brecOn.go, State.roomFor._f]
  rw [h]

/-- An instruction store with room takes a block's text as its image has it, and nothing leaves the store. -/
theorem State.loadText_room {s : State} {c r : Nat} {p : Placed}
    (h : freeRun ((s.core c).work.placed.map fun p => (p.addr, 8 * p.count)) (8 * p.count) 8 Config.istoreBytes = some r) (image : Nat) :
    ∃ po, s.loadText c image p = .ok { s.modCore c fun k => k.withText { p with addr := r } with
      mem := s.mem.write (istoreAt c r) (8 * p.count) (s.mem.read (image + 128) (8 * p.count)), poison := po } := by
  have hroom : s.roomFor c (8 * p.count) 1024 = .ok (r, s) := State.roomFor_free h 1023
  refine ⟨(({ s with mem := s.mem.write (istoreAt c r) (8 * p.count) (s.mem.read (image + 128) (8 * p.count)) } : State).movePoison
    (image + 128) (istoreAt c r) p.count).poison, ?_⟩
  unfold State.loadText
  rw [hroom]
  rfl

/-! ### Directories (05 R122) -/

theorem State.foldl_modDie_frame (f : Die → Die) : ∀ (l : List Nat) (s : State),
    l.foldl (fun s d => s.modDie d f) s = { s with dies := (l.foldl (fun s d => s.modDie d f) s).dies }
  | [], _ => rfl
  | d :: l, s => by rw [List.foldl_cons, State.foldl_modDie_frame f l]; rfl

theorem State.die_foldl_modDie (f : Die → Die) (d : Nat) : ∀ (l : List Nat), l.Nodup → ∀ s : State,
    (l.foldl (fun s d => s.modDie d f) s).die d = if d ∈ l then f (s.die d) else s.die d
  | [], _, _ => rfl
  | e :: l, hn, s => by
    rw [List.nodup_cons] at hn
    rw [List.foldl_cons, State.die_foldl_modDie f d l hn.2]
    by_cases h : d = e
    · rw [h, if_neg hn.1, if_pos (List.mem_cons_self ..)]
      exact State.die_put rfl
    · rw [show (s.modDie e f).die d = s.die d from State.die_put_ne rfl h]
      simp [h]

/-- The entry of a block with its first holder. -/
def firstHolder (asid blk holder image : Nat) (descs : List Nat) : DirBlock :=
  { asid := asid, blk := blk, placing := false, holders := [holder], descs := descs, image := image }

theorem State.addHolder_frame (s : State) (asid blk holder image : Nat) (descs : List Nat) :
    s.addHolder asid blk holder image descs = { s with dies := (s.addHolder asid blk holder image descs).dies } :=
  State.foldl_modDie_frame _ (List.range 8) s

/-- A die whose directory does not name a block has its entry after those that it has. -/
theorem State.die_addHolder {s : State} {asid blk d : Nat} (h : s.dirBlock d asid blk = none) (hd : d < 8) (holder image : Nat) (descs : List Nat) :
    (s.addHolder asid blk holder image descs).die d =
      { s.die d with blocks := (s.die d).blocks ++ [firstHolder asid blk holder image descs] } := by
  unfold State.dirBlock at h
  unfold State.addHolder
  dsimp only
  rw [State.die_foldl_modDie _ d (List.range 8) List.nodup_range, if_pos (List.mem_range.2 hd), h]
  rfl

/-- An entry after others that do not name its block is the one found. -/
theorem dirBlock_last {s u : State} {d asid blk holder image : Nat} {descs : List Nat} (h : s.dirBlock d asid blk = none)
    (hu : (u.die d).blocks = (s.die d).blocks ++ [firstHolder asid blk holder image descs]) :
    u.dirBlock d asid blk = some (firstHolder asid blk holder image descs) := by
  rw [State.dirBlock] at h ⊢
  rw [hu, List.find?_append, h]
  simp [firstHolder]

/-! ### Placement (02 R35) -/

theorem imageAt_key {s : State} {a asid blk : Nat} {p : Placed} (h : s.imageAt a asid blk = some p) : p.asid = asid ∧ p.blk = blk := by
  unfold State.imageAt at h
  dsimp only at h
  split at h
  · obtain rfl := Option.some.inj h; exact ⟨rfl, rfl⟩
  · cases h

/-- A block of a job without tied blocks brings no other with it. -/
theorem State.tiedTo_none {s : State} {asid : Nat} {j : Job} (hj : s.jobOf asid = some j) (hc : j.colocs = []) (die blk : Nat) :
    s.tiedTo die asid blk = [] := by
  simp [State.tiedTo, hj, hc]

/-- A held message to an entry of its block goes on with the registers that the entry lists. -/
theorem State.sendHeld_entry {s : State} {dst desc : Nat} {p : Placed} {m : Travel} (he : entryAt p.descs (m.dest % 512) = some desc)
    (hj : m.j = none) (hk : m.kind = 0) (ht : m.thief = none) :
    s.sendHeld dst p m = { s with net := s.net ++ [.travelMessageArrival dst { trimTravel m desc with cut := s.stillCut m }] } := by
  simp only [State.sendHeld, hj, resolveEntry_entry he, hk, trimTravel, arrivalOf, State.post, OfNat.zero_ne_ofNat, if_false, ht]

/-- A block that the program ties to another core, which has room for it, is not placed here as its first holder. -/
theorem State.placeAllowed_named {s : State} {die asid dst other : Nat} {p : Placed} {j : Job} (hj : s.jobOf asid = some j)
    (hn : j.places.find? (fun e => e.1 == p.blk) = some (p.blk, other)) (hne : other ≠ dst) (hd : s.dirBlock die asid p.blk = none)
    (hr : (freeRun ((s.core (s.phys other)).work.placed.map fun p => (p.addr, 8 * p.count)) (8 * p.count) 8 Config.istoreBytes).isSome) :
    s.placeAllowed die asid dst p false = false := by
  simp [State.placeAllowed, hj, hn, hne, hd, hr]

/-- Ozine's placement of a block on another core than the one the program names changes nothing. -/
theorem exec_blockPlacement_refused {s : State} {die asid blk dst a : Nat} {p : Placed} (hi : s.imageAt a asid blk = some p)
    (ht : ∀ m ∈ (s.die die).hold, m.thief ≠ some dst) (hp : s.placeAllowed die asid dst p false = false) :
    exec (.blockPlacement die asid blk dst (some a)) s = .next s := by
  have hthief : ∀ q : Travel → Bool, (((s.die die).hold.filter q).any fun m => m.thief == some dst) = false := fun q =>
    List.any_eq_false.2 fun m hm => by simpa using ht m (List.mem_of_mem_filter hm)
  show execBlockPlacement die asid blk dst (some a) s = _
  unfold execBlockPlacement
  simp only [Option.bind_some, hi, Option.map_some, hthief, hp, Bool.not_false, Bool.or_true, if_true]

/-- A die that goes on holding some of its threads alone. -/
def Die.holdOnly (d : Die) (f : Travel → Bool) : Die := { d with hold := d.hold.filter f }

/-- A die whose held threads have gone on. -/
def Die.noHold (d : Die) : Die := { d with hold := [] }

theorem State.hold_noHold (s : State) (die : Nat) : ((s.modDie die Die.noHold).die die).hold = [] :=
  congrArg Die.hold (State.die_put (x := (s.die die).noHold) rfl)

theorem State.blocks_noHold (s : State) (die d : Nat) : ((s.modDie die Die.noHold).die d).blocks = (s.die d).blocks := by
  by_cases h : d = die
  · subst h
    exact (congrArg Die.blocks (State.die_put (x := (s.die d).noHold) rfl)).trans rfl
  · exact congrArg Die.blocks (State.die_put_ne rfl h)

theorem State.modDie_noHold {s : State} {die : Nat} {m : Travel} {f : Travel → Bool} (h : (s.die die).hold = [m]) (hf : f m = false) :
    (s.modDie die fun d => { d with hold := d.hold.filter f }) = s.modDie die Die.noHold := by
  simp [State.modDie, Die.noHold, h, hf]

/-- A block placed on a core that takes it, where one thread is held for it: its text is loaded, every die names its holder, and the thread
goes on to it. -/
theorem exec_blockPlacement_places {s t : State} {die asid blk dst a desc : Nat} {p : Placed} {m : Travel} {j : Job} (hj : s.jobOf asid = some j)
    (hcol : j.colocs = []) (hp : s.placeAllowed die asid dst p false) (hbucket : ∀ d < 8, (s.die d).bucketTakes asid blk)
    (hi : s.imageAt a asid blk = some p) (hv : s.validCore asid dst) (hc : chipOf dst = s.chip asid) (hr : (s.rename dst).st = 0)
    (hn : (s.core (s.phys dst)).placedBlock asid blk = none) (hl : s.loadText (s.phys dst) a p = .ok t)
    (ht : t = { s with cores := t.cores, mem := t.mem, poison := t.poison }) (hd : ∀ d < 8, s.dirBlock d asid blk = none) (hdie : die < 8)
    (hh : (s.die die).hold = [m]) (hm : m.thief = none) (ha : m.asid = asid) (hb : m.dest / 512 = blk) (hk : m.kind = 0) (hmj : m.j = none)
    (he : entryAt p.descs (m.dest % 512) = some desc) :
    exec (.blockPlacement die asid blk dst (some a)) s =
      .next { (t.addHolder asid blk dst a p.descs).modDie die Die.noHold with
        net := s.net ++ [.travelMessageArrival dst { trimTravel m desc with cut := s.stillCut m }] } := by
  have hframe := t.addHolder_frame asid blk dst a p.descs
  have hold : ((t.addHolder asid blk dst a p.descs).die die).hold = [m] := by
    have hdt : t.dirBlock die asid blk = none := by rw [ht]; exact hd die hdie
    rw [State.die_addHolder hdt hdie, ht]
    exact hh
  generalize hv' : t.addHolder asid blk dst a p.descs = v at *
  have hrest : (v.modDie die Die.noHold).jobOf asid = some j := by rw [hframe, ht]; exact hj
  have hsent := State.sendHeld_entry (s := v.modDie die Die.noHold) (dst := dst) he hmj hk hm
  have hheld : ([m].filter fun x => x.asid == asid && x.dest / 512 == blk && ((some a).isNone || x.thief.all fun t => t == dst || (s.rename t).st != 0)) = [m] := by
    simp [ha, hb, hm]
  show execBlockPlacement die asid blk dst (some a) s = _
  unfold execBlockPlacement
  simp only [Option.bind_some, hi, Option.map_some, hh, hheld, hl, hd die hdie, hn]
  refine (congrArg _ (if_neg ?_)).trans ?_
  · simpa [hv, hc, hr, hm, hp] using hbucket
  · simp only [Option.isSome_none, Bool.false_eq_true, if_false, List.foldl_cons, List.foldl_nil, hv']
    rw [State.modDie_noHold hold (by simp [ha, hb, hm]), hsent, State.tiedTo_none (by exact hrest) hcol, hframe, ht]
    rfl

/-! ### Blocks without valid text -/

theorem State.foldl_countGot_yew : ∀ (l : List Travel) (s : State), ∃ y : Yew, l.foldl (fun s m => s.countGot m.asid m.cut) s = { s with yew := y }
  | [], s => ⟨s.yew, rfl⟩
  | m :: l, s => by
    obtain ⟨y, -, hy⟩ := s.countGot_yew m.asid m.cut
    obtain ⟨z, hz⟩ := State.foldl_countGot_yew l { s with yew := y }
    exact ⟨z, by rw [List.foldl_cons, hy, hz]⟩

/-- A job as a change of it that keeps its number leaves it. -/
theorem State.job_modJob {s : State} {num : Nat} {j : Job} {f : Job → Job} (hj : s.job num = some j) (hf : ∀ x, (f x).st = x.st ∧ (f x).num = x.num) :
    (s.modJob num f).job num = some (f j) := by
  rw [State.job, State.modJob, List.find?_map]
  have hp : ((fun j : Job => j.st != .ended && j.num == num) ∘ fun x => if x.st != .ended && x.num == num then f x else x) =
      fun j : Job => j.st != .ended && j.num == num := by
    funext x
    dsimp only [Function.comp]
    split
    · rw [(hf x).1, (hf x).2]
    · rfl
  rw [hp, show s.jobs.find? _ = some j from hj, Option.map_some, if_pos (List.find?_some hj)]

/-- The job with a record, and with the messages that stay with it. -/
def Job.recorded (j : Job) (r : FaultRec) : Job := { j with faults := j.faults ++ [r], written := j.written + 1 }
def Job.keeping (j : Job) (l : List Travel) : Job := { j with kept := j.kept ++ l }

/-- A record goes to its job's records, and to their image in memory. -/
theorem State.record_job {s : State} {num : Nat} {j : Job} (hj : s.job num = some j) (r : FaultRec) :
    ∃ mem : Memory, s.record num r = { s.modJob num fun j => j.recorded r with mem := mem } := by
  simp only [State.record, hj]
  split
  · exact ⟨s.mem, rfl⟩
  · exact ⟨_, rfl⟩

/-- Without valid text the threads held for a block stay in its job's fault record (02 R35). -/
theorem exec_blockPlacement_invalid {s : State} {asid : Nat} {j : Job} (hj : s.jobOf asid = some j) (hn : s.job j.num = some j) (die blk dst : Nat) :
    let held := (s.die die).hold.filter fun m => m.asid == asid && m.dest / 512 == blk
    ∃ (y : Yew) (mem : Memory), exec (.blockPlacement die asid blk dst none) s =
      .next { (s.modDie die fun d => d.holdOnly fun m => !(m.asid == asid && m.dest / 512 == blk)).modJob j.num fun j =>
        (j.recorded (faultRec 5 asid 0 (blk % 2 ^ 24 * 512) held.length 0)).keeping held with yew := y, mem := mem } := by
  intro held
  obtain ⟨y, hy⟩ := State.foldl_countGot_yew held s
  have hpa : pa blk 0 = blk % 2 ^ 24 * 512 := by simp [pa]
  generalize hr : faultRec 5 asid 0 (blk % 2 ^ 24 * 512) held.length 0 = r
  obtain ⟨mem, hmem⟩ := State.record_job (s := ({ s with yew := y } : State).modDie die fun d =>
    { d with hold := d.hold.filter fun m => !(m.asid == asid && m.dest / 512 == blk) }) hn r
  generalize ht : (({ s with yew := y } : State).modDie die fun d =>
    { d with hold := d.hold.filter fun m => !(m.asid == asid && m.dest / 512 == blk) }) = t at hmem
  have htj : t.jobOf asid = some j := by rw [← ht]; exact hj
  have hfor : t.recordFor asid r = t.record j.num r := by simp only [State.recordFor, htj]
  have hkeep : (t.record j.num r).jobOf asid = some (j.recorded r) := by
    rw [hmem]; exact State.jobOf_modJob htj fun x => ⟨rfl, rfl⟩
  refine ⟨y, mem, ?_⟩
  show execBlockPlacement die asid blk dst none s = _
  unfold execBlockPlacement
  simp only [Option.bind_none, Option.isNone_none, Bool.true_or, Bool.and_true]
  rw [show (s.die die).hold.filter (fun m => m.asid == asid && m.dest / 512 == blk) = held from rfl, hy, hpa, hr, ht, hfor]
  simp only [hkeep]
  rw [hmem]
  refine congrArg _ ((congrArg (fun u : State => { u with mem := mem }) (State.modJob_modJob t j.num
    (f := fun j => j.recorded r) (g := fun j => j.keeping held) fun x => ⟨rfl, rfl⟩)).trans ?_)
  rw [← ht]
  rfl

/-! ### The statement -/

/-- Settles O44: a placement is refused, loads the block and sends its thread on, or leaves a record. -/
theorem blocksPlaced : Obligations.BlocksPlaced := by
  unfold Obligations.BlocksPlaced
  refine ⟨?named, ?placed, ?invalid⟩
  case named =>
    intro s die asid blk dst other a p j hi hj hn hne hd ht hr
    obtain ⟨-, rfl⟩ := imageAt_key hi
    exact exec_blockPlacement_refused hi ht (State.placeAllowed_named hj hn hne hd hr)
  case placed =>
    intro s die asid blk dst a r desc p m j c hj hcol hp hbucket hm hi hv hc hr hn hfree hdie hd hwf hh ha hb hk hmj he
    obtain ⟨po, hl⟩ := State.loadText_room hfree a
    generalize ht : ({ s.modCore c fun k => k.withText { p with addr := r } with
      mem := s.mem.write (istoreAt c r) (8 * p.count) (s.mem.read (a + 128) (8 * p.count)), poison := po } : State) = t at hl
    have hframe : t = { s with cores := t.cores, mem := t.mem, poison := t.poison } := by rw [← ht]; rfl
    have hcores : t.cores = Tab.put s.cores c ((s.core c).withText { p with addr := r }) := by rw [← ht]; rfl
    have hmem : ∀ b, t.mem.byte b = if istoreAt c r ≤ b ∧ b < istoreAt c r + 8 * p.count then s.mem.byte (a + 128 + (b - istoreAt c r)) else s.mem.byte b :=
      fun b => by rw [← ht]; exact Memory.byte_copy hwf ..
    have hx := exec_blockPlacement_places hj hcol hp hbucket hi hv hc hr hn hl hframe hd hdie hh hm ha hb hk hmj he
    have hdt : ∀ d < 8, (t.addHolder asid blk dst a p.descs).die d =
        { s.die d with blocks := (s.die d).blocks ++ [firstHolder asid blk dst a p.descs] } := fun d h8 => by
      rw [State.die_addHolder (by rw [hframe]; exact hd d h8) h8, hframe]; rfl
    have hadd := t.addHolder_frame asid blk dst a p.descs
    refine ⟨_, hx, ?_, ?_, ?_, ?_, ?_, ?_, ?_, rfl⟩
    · rw [hadd, hframe]; rfl
    · exact fun e he => (State.core_put_ne (t := s) (by rw [hadd]; exact hcores) he)
    · exact State.core_put (by rw [hadd]; exact hcores)
    · exact fun i hi => by rw [hadd]; exact (hmem _).trans (by rw [if_pos ⟨by omega, by omega⟩, Nat.add_sub_cancel_left])
    · exact fun b hb => by rw [hadd]; exact (hmem b).trans (if_neg (by omega))
    · exact State.hold_noHold ..
    · exact fun d h8 => ⟨firstHolder asid blk dst a p.descs,
        dirBlock_last (hd d h8) ((State.blocks_noHold ..).trans (congrArg Die.blocks (hdt d h8))), rfl, rfl, rfl⟩
  case invalid =>
    intro s die asid blk dst j held hj hn
    obtain ⟨y, mem, hx⟩ := exec_blockPlacement_invalid hj hn die blk dst
    refine ⟨_, hx, rfl, ?_, ?_⟩
    · exact congrArg Die.hold (State.die_put (ds := s.dies) (d := die) (x := (s.die die).holdOnly _) rfl)
    · exact State.job_modJob (f := fun j => (j.recorded _).keeping held) hn fun x => ⟨rfl, rfl⟩

end Sys2Proof.Machine
end

section
/-! WINDOW of the porter thread (03 R58, R75, R78). -/

namespace Sys2Proof.Machine

/-- A core whose porter runs a handler, in a block that declares 8 main registers and no vector register, at a CSRRD of WINDOW. -/
def porterAtWindow : State :=
  let item : PorterItem :=
    { blk := 1, off := 0, asid := 1, cls := 1, pt := 5, regs := [], cut := false, land := none, msg := none, wr := none }
  { iss := { slot := 63 }, cores := [(0, { ctxs := [(63, porterCtx item {} 0)] })] }

/-- The CSRRD of WINDOW into g0. -/
abbrev readWindow : Instr := .csrrd (.g 0) 6

theorem issues_porterAtWindow : Issues porterAtWindow readWindow [] porterAtWindow where
  ready := rfl
  fresh := by decide
  clean := by decide
  reads := rfl
  alone := rfl

/-- The porter's read gives the fixed windows of R58. -/
theorem porterAtWindow_reads : ∃ u : State, exec readWindow porterAtWindow = .next u ∧
    Tab.getD (u.core 0).file 2016 0 = BitVec.ofNat 64 porterWin.word := ⟨_, rfl, by decide⟩

theorem finish_plain (s u : State) (i : Instr) (hp : popping i = false) (hm : s.iss.mark = false) :
    s.finish u i = { u with iss := { u.iss with res := 1 } } := by
  simp [State.finish, hp, hm, State.markerAt]

/-- Refutes O9: of the porter, CSRRD gives WINDOW from its fixed windows (03 R58), not from those that the block of its handler
declares, as the statement says of every thread. -/
theorem not_statusRegisters : ¬ Obligations.StatusRegisters := by
  unfold Obligations.StatusRegisters
  rintro ⟨h, -, -⟩
  obtain ⟨hread, -⟩ := h (.g 0) 6 _ _ _ issues_porterAtWindow fun m => by simp
  obtain ⟨u, hends, hwrites, -⟩ := hread _ (List.mem_of_getElem? (i := 6) rfl) rfl
  obtain ⟨v, hexec, hv⟩ := porterAtWindow_reads
  rw [Ends, finish_plain _ _ _ rfl rfl] at hends
  obtain rfl := Host.Outcome.next.inj (hexec.symm.trans hends)
  have hu : Tab.getD (u.core 0).file 2016 0 = _ := (hwrites.main 2016).trans (if_pos rfl)
  have hval := hv.symm.trans hu
  revert hval
  decide

end Sys2Proof.Machine
end

section
/-! The registers that Ozine writes (03 R64, R74, R75, R79, R80; 04 R86, R88; 05 R128). -/

namespace Sys2Proof.Machine

/-! ### Zeroed memory, and copies that leave a cache -/

/-- A range made zero reads as zero, and every other byte stays. -/
theorem State.byte_zero (s : State) (base n b : Nat) :
    (s.zero base n).mem.byte b = if base ≤ b ∧ b < base + n then 0 else s.mem.byte b := by
  split
  · next h =>
    refine Memory.byte_none _ _ fun x hx he => ?_
    have := (List.mem_filter.1 hx).2
    rw [he] at this
    simp [h] at this
  · next h => exact Memory.byte_filter s.mem (fun a => !(base ≤ a && a < base + n)) b (by simpa [imp_iff_not_or] using h)

@[simp] theorem State.core_zero (s : State) (base n c : Nat) : (s.zero base n).core c = s.core c := rfl

/-- What a copy that leaves its last cache sends home: an owned one its times and data (12 R288). -/
def CacheLine.writebacks (l : CacheLine) : List Instr :=
  if l.st = .s then [] else [.writeback l.line l.wts l.rts l.data l.marks (l.st == .m)]

/-- Copies that have left, on their way home. -/
def State.sendHome (s : State) (l : List CacheLine) : State := { s with net := s.net ++ l.flatMap CacheLine.writebacks }

@[simp] theorem State.core_sendHome (s : State) (l : List CacheLine) (c : Nat) : (s.sendHome l).core c = s.core c := rfl

theorem State.dropLine_sendHome (s : State) (l : CacheLine) : s.dropLine l = s.sendHome [l] := by
  unfold State.dropLine State.sendHome CacheLine.writebacks
  split <;> simp [State.post, *]

theorem State.foldl_dropLine : ∀ (l : List CacheLine) (s : State), l.foldl (fun s l => s.dropLine l) s = s.sendHome l
  | [], s => by simp [State.sendHome]
  | x :: l, s => by rw [List.foldl_cons, State.foldl_dropLine l, State.dropLine_sendHome]; simp [State.sendHome]

theorem mem_writebacks {l : CacheLine} {ls : List CacheLine} (h : l ∈ ls) (hs : l.st ≠ .s) :
    .writeback l.line l.wts l.rts l.data l.marks (l.st == .m) ∈ ls.flatMap CacheLine.writebacks :=
  List.mem_flatMap.2 ⟨l, h, by simp [CacheLine.writebacks, hs]⟩

/-! ### LSPLIT (03 R79; 04 R86) -/

def Core.withSplit (k : Core) (n : Nat) : Core := { k with csr := { k.csr with lsplit := n } }

/-- The offsets of a scratchpad between the starts of two reserves. -/
def reserveLow (old new : Nat) : Nat := scratchSize old - max (reserveSize old) (reserveSize new)
def reserveMoved (old new : Nat) : Nat := scratchSize old - min (reserveSize old) (reserveSize new) - reserveLow old new

/-- The cache portion written back and emptied. -/
def State.emptyCache (s : State) (c : Nat) : State :=
  (s.sendHome (s.core c).cache).modCore c fun k => { k with cache := [] }

theorem State.core_emptyCache (s : State) (c : Nat) : (s.emptyCache c).core c = { s.core c with cache := [] } := State.core_modCore_self ..
theorem State.core_emptyCache_ne (s : State) {c e : Nat} (h : e ≠ c) : (s.emptyCache c).core e = s.core e := State.core_modCore_ne _ _ h

/-- The memory zeroed and the split set, before what the router held is let in. -/
def State.split (s : State) (c new : Nat) : State :=
  let old := (s.core c).csr.lsplit
  let t := if old % 8 = new % 8 then s.zero (sramAt c (reserveLow old new)) (reserveMoved old new)
    else (s.emptyCache c).zero (sramAt c 0) (max (scratchSize old) (scratchSize new))
  t.modCore c fun k => k.withSplit new

theorem State.split_timers (s : State) (c new : Nat) : (s.split c new).timers = s.timers := by
  unfold State.split
  dsimp only
  split <;> rfl

section
variable {s : State} {c new : Nat} 

/-- A change of the reserve alone. -/
theorem State.split_reserve (h : (s.core c).csr.lsplit % 8 = new % 8) : s.split c new =
    (s.zero (sramAt c (reserveLow (s.core c).csr.lsplit new)) (reserveMoved (s.core c).csr.lsplit new)).modCore c fun k => k.withSplit new := by
  rw [State.split, if_pos h]

/-- A change of the cache code. -/
theorem State.split_cache (h : (s.core c).csr.lsplit % 8 ≠ new % 8) : s.split c new =
    ((s.emptyCache c).zero (sramAt c 0) (max (scratchSize (s.core c).csr.lsplit) (scratchSize new))).modCore c fun k => k.withSplit new := by
  rw [State.split, if_neg h]

end

section
variable {s : State} {c : Nat} {v : Word}

theorem exec_lsplit_refused (h : lsplitValid v.toNat = false ∨ (s.core c).slotsEmpty = false) :
    exec (.lsplit c v) s = .next (s.signal 15 0x100 c).letIn := by
  show execLsplit c v s = _
  rcases h with h | h <;> simp [execLsplit, h, State.valueError]

variable (hv : lsplitValid v.toNat) (he : (s.core c).slotsEmpty)
include hv he

theorem exec_lsplit_waits (hi : s.porterIdle c = false) : exec (.lsplit c v) s = .next (s.after 8 (.lsplit c v)) := by
  show execLsplit c v s = _
  simp [execLsplit, hv, he, hi]

theorem exec_lsplit_takes (hi : s.porterIdle c) : exec (.lsplit c v) s = .next (s.split c v.toNat).letIn := by
  have hcode : ∀ n, fld n 0 3 = n % 8 := fun n => by simp [fld]
  show execLsplit c v s = _
  unfold execLsplit
  simp only [hv, he, hi, Bool.not_true, Bool.or_self, Bool.false_eq_true, if_false, State.foldl_dropLine, hcode]
  by_cases h : (s.core c).csr.lsplit % 8 = v.toNat % 8
  · rw [if_pos h, State.split_reserve h]; rfl
  · rw [if_neg h, State.split_cache h]; rfl

end

/-! ### VGROUP (03 R80; 04 R88) -/

def Hedge.noVictim (h : Hedge) : Hedge := { h with victim := [] }

/-- A core that lends the victim cache a share of its ways; more of them than before leave its cache portion empty. -/
def Core.withLent (k : Core) (g : Nat) : Core :=
  { k with csr := { k.csr with vgroup := g }, cache := if k.csr.vgroup < g then [] else k.cache }

/-- The copies that leave with the ways that a core lends more. -/
def Core.unlent (k : Core) (g : Nat) : List CacheLine := if k.csr.vgroup < g then k.cache else []

def State.lend (s : State) (c g : Nat) : State := (s.sendHome ((s.core c).unlent g)).setCore c ((s.core c).withLent g)

/-- Slots 0 to 62 of every core of a hedge are empty. -/
def State.hedgeFree (s : State) (h : Nat) : Prop := ∀ i < 17, (s.core (coreKey (h / 32) (h % 32) i)).slotsEmpty

theorem State.hedgeFree_iff (s : State) (h : Nat) :
    ((List.range 17).all fun i => (s.core (coreKey (h / 32) (h % 32) i)).slotsEmpty) = true ↔ s.hedgeFree h := by
  simp [State.hedgeFree]

/-- The model's steps of a new VGROUP on the core itself. -/
theorem State.lend_eq (s : State) (c g : Nat) :
    (if (s.core c).csr.vgroup < g then (s.emptyCache c) else s).modCore c (fun k => { k with csr := { k.csr with vgroup := g } }) = s.lend c g := by
  unfold State.lend Core.unlent Core.withLent
  split
  · rw [State.emptyCache, State.modCore_modCore]; rfl
  · simp [State.sendHome, State.modCore]

section
variable {s : State} {c : Nat} {v : Word}

theorem exec_vgroup_refused (h : v.toNat % 4 = 3 ∨ ¬ s.hedgeFree (hedgeKey c)) : exec (.vgroup c v) s = .next (s.signal 15 0x101 c) := by
  rw [← State.hedgeFree_iff, Bool.not_eq_true] at h
  show execVgroup c v s = _
  unfold execVgroup
  dsimp only
  rw [if_pos (by rcases h with h | h <;> simp [h])]
  rfl

theorem exec_vgroup_takes (hg : v.toNat % 4 ≠ 3) (hf : s.hedgeFree (hedgeKey c)) : exec (.vgroup c v) s =
    .next (((s.sendHome (s.hedge (hedgeKey c)).victim).modHedge (hedgeKey c) Hedge.noVictim).lend c (v.toNat % 4)) := by
  rw [← State.hedgeFree_iff] at hf
  rw [← State.lend_eq]
  show execVgroup c v s = _
  unfold execVgroup
  dsimp only
  rw [if_neg (by simp [hg, hf])]
  simp only [State.foldl_dropLine]
  rfl

end

/-! ### DBGCTL (03 R80) -/

/-- The writes of the last 8 cycles that are kept say what governs every later instruction. -/
theorem inForce_takeWhile {now m : Nat} (h : now ≤ m) : ∀ (l : List (Nat × Nat)) (cur : Nat),
    inForce m cur (l.takeWhile fun e => now < e.2 + 8) = inForce m cur l
  | [], _ => rfl
  | e :: l, cur => by
    by_cases he : now < e.2 + 8
    · rw [List.takeWhile_cons_of_pos (by simpa using he), inForce, inForce, inForce_takeWhile h l]
    · have hm : ¬ m < e.2 + 8 := by omega
      rw [List.takeWhile_cons_of_neg (by simpa using he), inForce, inForce, if_neg hm]

/-- A write of DBGCTL governs what issues 8 or more cycles later; before that, what governed without it. -/
theorem inForce_write (now n cur new : Nat) (l : List (Nat × Nat)) :
    inForce (now + n) new ((cur, now) :: l.takeWhile fun e => now < e.2 + 8) = if n < 8 then inForce (now + n) cur l else new := by
  rw [inForce]
  split
  · rw [inForce_takeWhile (by omega), if_pos (by omega)]
  · rw [if_neg (by omega)]

def Core.withDbg (k : Core) (now new : Nat) : Core :=
  { k with csr := { k.csr with dbgctl := new, dbgOld := (k.csr.dbgctl, now) :: k.csr.dbgOld.takeWhile fun e => now < e.2 + 8 } }

theorem exec_dbgctl (c : Nat) (v : Word) (s : State) :
    exec (.dbgctl c v) s = .next (s.modCore c fun k => k.withDbg s.now (v.toNat % 2)) := rfl

theorem debugMode_withDbg {s u : State} {c n new : Nat} (hc : u.core c = (s.core c).withDbg s.now (new % 2)) (hn : u.now = s.now + n) :
    u.debugMode c = if n < 8 then ({ s with now := s.now + n } : State).debugMode c else decide (new % 2 = 1) := by
  have hu : u.debugMode c = bit (inForce (s.now + n) (new % 2)
      (((s.core c).csr.dbgctl, s.now) :: (s.core c).csr.dbgOld.takeWhile fun e => s.now < e.2 + 8)) 0 := by
    rw [State.debugMode, hc, hn]; rfl
  rw [hu, inForce_write]
  split
  · rfl
  · rw [bit_eq_testBit, Nat.testBit_zero]; simp

/-! ### SHASID (03 R64, R70) -/

/-- The shared registers after a change of their owner: the permutation registers that are loading stay so. -/
def Core.withOwner (k : Core) (asid : Nat) : Core :=
  { k with regs := { w := (k.regs.w.filter fun e => e.2.loading).map fun e => (e.1, { loading := true }) },
           csr := { k.csr with shasid := asid } }

theorem exec_shasid (c : Nat) (v : Word) (s : State) : exec (.shasid c v) s =
    .next (if (s.core c).csr.shasid = v.toNat % 2 ^ 16 then s else s.modCore c fun k => k.withOwner (v.toNat % 2 ^ 16)) := rfl

theorem Core.mem_withOwner {k : Core} {asid : Nat} {e : Nat × PermReg} (h : e ∈ (k.withOwner asid).regs.w) :
    e.2 = { loading := true } ∧ ∃ x, (e.1, x) ∈ k.regs.w ∧ x.loading := by
  obtain ⟨⟨n, x⟩, hx, rfl⟩ := List.mem_map.1 h
  obtain ⟨hm, hl⟩ := List.mem_filter.1 hx
  exact ⟨rfl, x, hm, hl⟩

/-! ### MECHECK (03 R75; 05 R128) -/

def Hedge.withCheck (h : Hedge) (n : Nat) : Hedge := { h with mecheck := n, checks := 0 }

theorem exec_mecheck (h : Nat) (v : Word) (s : State) : exec (.mecheck h v) s =
    .next (if v.toNat < 8 ∨ 4096 < v.toNat then s.signal 15 0x200 h else s.modHedge h fun x => x.withCheck v.toNat) := by
  show execMecheck h v s = _
  simp only [execMecheck, Bool.or_eq_true, decide_eq_true_eq]
  rfl

/-! ### The tables of a die and the instruction stores (03 R74, R75; 04 R106) -/

theorem exec_asidEntry (die desc : Nat) (s : State) : exec (.managementWindowWrite (.asidEntry die desc)) s =
    let a : AsidEntry := { root := desc / 2 ^ 59 % 2 ^ 31 * 2 ^ 17, farBase := desc / 2 ^ 90 % 2 ^ 43, farLimit := desc / 2 ^ 133 % 2 ^ 43 }
    .next (s.modDie die fun d => { d with asids := Tab.put d.asids (desc % 2 ^ 16) a }) := by
  show execManagementWindowWrite (.asidEntry die desc) s = _
  simp [execManagementWindowWrite, asidOfDesc, AsidEntry.ofDesc, fld]

theorem exec_renameCopy (die entry st phys : Nat) (s : State) : exec (.managementWindowWrite (.renameCopy die entry st phys)) s =
    .next (s.modDie die fun d => { d with pendRename := Tab.put d.pendRename entry { st := st, phys := phys } }) := rfl

theorem exec_sparefree (die : Nat) (n : Word) (s : State) : exec (.managementWindowWrite (.dieCsr die 0x300 n)) s =
    .next (s.modDie die fun d => { d with sparefree := n.toNat % 64 }) := rfl

theorem exec_istore_free {s : State} {c addr v : Nat} (ha : addr < Config.istoreBytes)
    (hp : ∀ p ∈ (s.core c).work.placed, addr < p.addr ∨ p.addr + 8 * p.count ≤ addr) :
    exec (.managementWindowWrite (.istore c addr v)) s = .next { s with mem := s.mem.write (istoreAt c addr) 1 v } := by
  have hfree : ((s.core c).work.placed.any fun p => p.addr ≤ addr && addr < p.addr + 8 * p.count) = false :=
    List.any_eq_false.2 fun p hm => by
      have := hp p hm
      simp only [Bool.and_eq_true, decide_eq_true_eq]
      omega
  have hlt : ¬ Config.istoreBytes ≤ addr := by omega
  show execManagementWindowWrite (.istore c addr v) s = _
  simp [execManagementWindowWrite, hfree, hlt]

/-! ### The statement -/

/-- Settles O47, register by register: what each takes, what it refuses, and what it waits for. -/
theorem registersWritten : Obligations.RegistersWritten := by
  unfold Obligations.RegistersWritten
  refine ⟨?lsplit, ?letIn, ?vgroup, ?dbgShasid, ?mecheck, ?window, ?tables, ?istore⟩
  case lsplit =>
    intro s c v k old new idle zeroed ht
    have hin : (s.split c new).letIn = s.split c new := State.letIn_none _ (by rw [State.split_timers]; exact ht)
    refine ⟨fun h => ?_, fun hv he hi => ?_, fun hv he hi hc => ?_, fun hv he hi hc => ?_⟩
    · rw [exec_lsplit_refused h, State.letIn_none (s.signal 15 0x100 c) ht]
    · exact ⟨_, exec_lsplit_waits hv he hi, rfl, (mem_insertBy ..).2 (.inl rfl)⟩
    · refine ⟨_, exec_lsplit_takes hv he hi, ?_⟩
      rw [hin, State.split_reserve hc]
      refine ⟨rfl, fun e hne => State.core_modCore_ne _ _ hne, State.core_modCore_self .., State.byte_zero _ _ _⟩
    · refine ⟨_, exec_lsplit_takes hv he hi, ?_⟩
      rw [hin, State.split_cache hc]
      refine ⟨rfl, fun e hne => ?_, ?_, fun l hl hs => List.mem_append_right _ (mem_writebacks hl hs), State.byte_zero _ _ _⟩
      · exact (State.core_modCore_ne _ _ hne).trans (State.core_emptyCache_ne _ hne)
      · rw [State.core_modCore_self, State.core_zero, State.core_emptyCache]; rfl
  case letIn =>
    intro s c v hv he hi
    refine ⟨_, exec_lsplit_takes hv he hi, State.letIn_timers _, fun i hm => State.mem_net_letIn _ i ?_⟩
    rw [State.split_timers]
    exact hm
  case vgroup =>
    intro s c v h g k free
    refine ⟨exec_vgroup_refused, fun hg hf => ⟨_, exec_vgroup_takes hg hf, rfl, fun e hne => ?_, ?_, fun l hl hs => ?_, ?_, fun e hne => ?_⟩⟩
    · exact State.core_setCore_ne _ _ hne
    · exact State.core_setCore_self ..
    · rcases hl with hl | ⟨hlt, hl⟩
      · exact List.mem_append_left _ (List.mem_append_right _ (mem_writebacks hl hs))
      · refine List.mem_append_right _ (mem_writebacks ?_ hs)
        rw [Core.unlent]
        exact (if_pos hlt).symm ▸ hl
    · exact State.hedge_modHedge_self ..
    · exact State.hedge_modHedge_ne _ _ hne
  case dbgShasid =>
    intro s c v
    refine ⟨_, _, exec_dbgctl c v s, .put rfl, by rw [State.core_modCore_self]; rfl, fun n => ?_, exec_shasid c v s, fun h => if_pos h.symm, fun h => ?_⟩
    · rw [debugMode_withDbg (s := s) (State.core_put (cs := s.cores) rfl) rfl]
      split <;> simp
    · rw [if_neg (Ne.symm h)]
      have hcore : (s.modCore c fun k => k.withOwner (v.toNat % 2 ^ 16)).core c = (s.core c).withOwner (v.toNat % 2 ^ 16) :=
        State.core_modCore_self ..
      rw [hcore]
      exact ⟨.put rfl, rfl, fun e he => Core.mem_withOwner he⟩
  case mecheck =>
    intro s h v
    refine ⟨fun hv => ?_, fun hlo hhi => ?_⟩
    · rw [exec_mecheck, if_pos hv]
    · rw [exec_mecheck, if_neg (by omega)]
      exact ⟨_, rfl, rfl, fun e hne => State.hedge_modHedge_ne _ _ hne, State.hedge_modHedge_self ..⟩
  case window => exact fun s c h v => ⟨rfl, rfl, rfl, rfl, rfl⟩
  case tables =>
    intro s die desc entry st phys n a
    exact ⟨_, _, _,
      exec_asidEntry die desc s, rfl, fun e he => State.die_modDie_ne _ _ he, State.die_modDie_self ..,
      exec_renameCopy die entry st phys s, rfl, fun e he => State.die_modDie_ne _ _ he, State.die_modDie_self ..,
      exec_sparefree die n s, rfl, fun e he => State.die_modDie_ne _ _ he, State.die_modDie_self ..⟩
  case istore =>
    intro s c addr v ha hp
    exact ⟨_, exec_istore_free ha hp, rfl, fun b => Memory.byte_write ..⟩

end Sys2Proof.Machine
end

section
/-! Reading source operands, pops that wait or are deferred, and switch markers (03 R56, R61 to R67; 07 R154, R155; 12 R292). -/

namespace Sys2Proof.Machine

/-! ### What an operand reads (03 R56, R61 to R63; 07 R155) -/

/-- A register with no outstanding result before its marker reads as it stands. -/
theorem State.readEither_plain {s : State} {c slot : Nat} {d : Dest} {v : Word} {y : Ctx} (h : y.pendFor d = none) :
    s.readEither c slot d v y = (v, s) := by
  rw [State.readEither, h]

/-- One whose result is outstanding gives the new value or the old one, whatever the choice. -/
theorem State.readEither_cases {s : State} {c slot : Nat} {d : Dest} {v : Word} {y : Ctx} {p : Pending} (h : y.pendFor d = some p) :
    (s.readEither c slot d v y).1 = v ∨ (s.readEither c slot d v y).1 = BitVec.ofNat 64 (p.alt.getD 0) := by
  rw [State.readEither, h]
  dsimp only
  split
  · exact .inr rfl
  · exact .inl rfl

/-- The changes of a core-shared scalar that a read may not yet see (03 R63). -/
def State.recentK (s : State) (k : Core) (n : Nat) : List (Recent Word) :=
  k.regs.kOld.filter fun r => r.n == n && s.now < r.at_ + Config.kVisible

theorem State.mem_recentK {s : State} {k : Core} {n : Nat} {r : Recent Word} :
    r ∈ s.recentK k n ↔ r ∈ k.regs.kOld ∧ r.n = n ∧ s.now < r.at_ + 8 := by
  simp [State.recentK]

theorem State.readK_settled {s : State} {k : Core} {n : Nat} (h : s.recentK k n = []) : s.readK n k = (Tab.getD k.regs.k n 0, s) := by
  unfold State.readK
  dsimp only
  rw [show List.filter _ _ = [] from h]

/-- What the list of the values that writes replaced gives at any place. -/
theorem getD_old (l : List (Recent Word)) (i : Nat) (cur : Word) :
    (l.map Recent.old).getD i cur = cur ∨ ∃ r ∈ l, (l.map Recent.old).getD i cur = r.old := by
  rw [List.getD_eq_getElem?_getD, List.getElem?_map]
  cases h : l[i]? with
  | none => exact .inl rfl
  | some r => exact .inr ⟨r, List.mem_of_getElem? h, rfl⟩

/-- A core-shared scalar reads as it stands, or as a write of the last 8 cycles found it. -/
theorem State.readK_cases (s : State) (k : Core) (n : Nat) :
    (s.readK n k).1 = Tab.getD k.regs.k n 0 ∨ ∃ r ∈ s.recentK k n, (s.readK n k).1 = r.old := by
  unfold State.readK State.recentK
  dsimp only
  split
  · exact .inl rfl
  · next r hr =>
    rw [hr]
    dsimp only
    split
    · exact .inr ⟨r, List.mem_singleton_self r, rfl⟩
    · exact .inl rfl
  · exact getD_old ..

/-- The operands of a thread that reads the core as it stands, at a field where it has not popped. -/
structure Reads (s : State) (c slot pos : Nat) : Prop where
  plain : s.iss.view = none
  fresh : Tab.get? (s.ctx c slot).latch pos = none

namespace Reads

variable {s : State} {c slot pos : Nat} (h : Reads s c slot pos)
include h

theorem view : s.view c = s.core c := by rw [State.view, h.plain]; rfl

theorem main (n : Fin 128) : s.readOp c slot pos (.g n) =
    let r := s.readEither c slot (.g n.val) ((s.core c).readMain (s.ctx c slot) n.val) (s.ctx c slot)
    .val r.1 r.2 := by
  rw [State.readOp, h.fresh, h.view]; rfl

theorem oper (n : Fin 4) : s.readOp c slot pos (.h n) =
    let r := s.readEither c slot (.h n.val) (Tab.getD (s.ctx c slot).h n.val 0) (s.ctx c slot)
    .val r.1 r.2 := by
  rw [State.readOp, h.fresh, h.view]; rfl

theorem shared {n : Fin 16} (hp : (s.ctx c slot).pendFor (.k n.val) = none) : s.readOp c slot pos (.k n) =
    let r := s.readK n.val (s.core c)
    .val r.1 r.2 := by
  have he := fun v (t : State) => State.readEither_plain (s := t) (c := c) (slot := slot) (v := v) hp
  rw [State.readOp, h.fresh, h.view]
  simp only [State.ctx] at he
  simp only [he]

theorem lc : s.readOp c slot pos .lc = .val (s.ctx c slot).lc s := by rw [State.readOp, h.fresh, h.view]; rfl
theorem la : s.readOp c slot pos .la = .val (s.ctx c slot).la s := by rw [State.readOp, h.fresh, h.view]; rfl
theorem zero : s.readOp c slot pos .zero = .val 0 s := by rw [State.readOp, h.fresh]
theorem q7 : s.readOp c slot pos (.q 7) = .val 0 s := by rw [State.readOp, h.fresh]; rfl

theorem wait {n : Fin 8} (h7 : n.val ≠ 7) (hr : (s.core c).q.ready n.val slot = false) : s.readOp c slot pos (.q n) = .wait n.val := by
  rw [State.readOp, h.fresh]
  simp [h7, hr]

end Reads

/-! ### Pops (03 R65, R67) -/

theorem CoreQueues.entries_setEntries {n : Nat} (h : n = 1 ∨ n = 4 ∨ n = 5) (q : CoreQueues) (l : List (Word × Nat)) :
    (q.setEntries n l).entries n = l := by
  rcases h with rfl | rfl | rfl <;> rfl

theorem CoreQueues.entries_eq (q : CoreQueues) (m : Nat) :
    q.entries m = if m = 1 then q.msq else if m = 4 then q.evq else if m = 5 then q.inq else [] := by
  unfold CoreQueues.entries
  split
  case h_4 h1 h4 h5 => rw [if_neg h1, if_neg h4, if_neg h5]
  all_goals rfl

theorem CoreQueues.entries_setEntries_ne {n m : Nat} (h : m ≠ n) (q : CoreQueues) (l : List (Word × Nat)) :
    (q.setEntries n l).entries m = q.entries m := by
  unfold CoreQueues.setEntries
  split <;> simp [CoreQueues.entries_eq, h]

/-- The queues once the oldest entry of one has been popped by a slot. -/
def CoreQueues.pop (q : CoreQueues) (n slot : Nat) (rest : List (Word × Nat)) : CoreQueues :=
  { (q.setEntries n rest) with waiters := q.waiters.eraseP fun w => w.1 == n && w.2.1 == slot && w.2.2 == 0 }

theorem CoreQueues.entries_pop (q : CoreQueues) (n slot : Nat) (rest : List (Word × Nat)) (m : Nat) :
    (q.pop n slot rest).entries m = (q.setEntries n rest).entries m := rfl

/-- The thread that has popped an entry at a field: it remembers the value, and observes the entry's time (12 R292, R293). -/
def Ctx.popped (x : Ctx) (pos : Nat) (e : Word × Nat) : Ctx := { x.observe e.2 with latch := Tab.put x.latch pos e.1 }

theorem Ctx.popped_observes (x : Ctx) (pos : Nat) (e : Word × Nat) :
    Observes { x with latch := (x.popped pos e).latch } (x.popped pos e) e.2 := by
  unfold Observes Ctx.popped Ctx.observe
  cases hp : x.pipe with
  | nil => simp
  | cons a l => simp

def State.popped (s : State) (c slot pos n : Nat) (e : Word × Nat) (rest : List (Word × Nat)) : State :=
  (s.modCore c fun k => { k with q := k.q.pop n slot rest }).modCtx c slot fun x => x.popped pos e

theorem State.q_popped (s : State) (c slot pos n : Nat) (e : Word × Nat) (rest : List (Word × Nat)) :
    ((s.popped c slot pos n e rest).core c).q = (s.core c).q.pop n slot rest := by
  rw [State.popped, State.core_modCtx_self, Core.q_modCtx, State.core_modCore_self]

theorem State.ctx_popped (s : State) (c slot pos n : Nat) (e : Word × Nat) (rest : List (Word × Nat)) :
    (s.popped c slot pos n e rest).ctx c slot = (s.ctx c slot).popped pos e := by
  rw [State.popped, State.ctx_modCtx_self, State.ctx, State.core_modCore_self]; rfl

theorem Reads.pop {s : State} {c slot pos : Nat} (h : Reads s c slot pos) {n : Fin 8} {e : Word × Nat} {rest : List (Word × Nat)}
    (h7 : n.val ≠ 7) (hr : (s.core c).q.ready n.val slot) (he : (s.core c).q.entries n.val = e :: rest) :
    s.readOp c slot pos (.q n) = .val e.1 (s.popped c slot pos n.val e rest) := by
  rw [State.readOp, h.fresh]
  simp only [hr, he, beq_eq_false_iff_ne.2 h7, Bool.false_eq_true, if_false, if_true]
  rfl

/-- A queue that a field waits for is the one that it names. -/
theorem State.readOp_wait {s : State} {c slot pos m : Nat} {n : Fin 8} (h : s.readOp c slot pos (.q n) = .wait m) : m = n.val := by
  unfold State.readOp at h
  dsimp only at h
  repeat' split at h
  all_goals cases h
  all_goals rfl

/-! ### An instruction whose pop finds nothing (03 R66, R67) -/

/-- Every instruction that has a word issues. -/
theorem exec_issues {i : Instr} (h : encode i ≠ none) (s : State) : ∃ body : List Word → State → Act, exec i s = .next (s.issue i body) := by
  cases i
  all_goals try exact absurd rfl h
  all_goals exact ⟨_, rfl⟩

theorem Ctx.outstanding_eq (x : Ctx) : x.outstanding = x.unreturned := by
  rw [Ctx.outstanding, Ctx.unreturned, List.countP_eq_length_filter]

theorem foldl_max_seq (l : List Pending) : ∀ m, m ≤ l.foldl (fun m p => max m p.seq) m ∧ ∀ p ∈ l, p.seq ≤ l.foldl (fun m p => max m p.seq) m := by
  induction l with
  | nil => exact fun m => ⟨le_refl m, fun p hp => absurd hp List.not_mem_nil⟩
  | cons q l ih =>
    intro m
    obtain ⟨h1, h2⟩ := ih (max m q.seq)
    refine ⟨(le_max_left ..).trans h1, fun p hp => ?_⟩
    rcases List.mem_cons.1 hp with rfl | hp
    · exact (le_max_right ..).trans h1
    · exact h2 p hp

/-- A thread's next sequence number is new. -/
theorem Ctx.seq_lt_nextSeq {x : Ctx} {p : Pending} (h : p ∈ x.out) : p.seq < x.nextSeq := Nat.lt_succ_of_le ((foldl_max_seq x.out 0).2 p h)

/-- An instruction with a word that finds a queue empty at its issue. -/
structure Starves (s : State) (i : Instr) (q : Nat) (u : State) : Prop where
  word : encode i ≠ none
  ready : s.me.status = .ready
  fresh : s.me.phase ≠ 3
  clean : earlyFault s s.iss.core s.iss.slot i s.iss.word = none
  reads : s.readOps s.iss.core s.iss.slot 0 (sources i) = .error (q, u)

/-- The outstanding result of a deferred pop of one field. -/
def deferredResult (x : Ctx) (i : Instr) : Pending :=
  { seq := x.nextSeq, kind := .pop, dest := (destination i).elim .discard destOf, pop := some i, vals := [0], acc := 1, asid := x.asid, pc := x.pc }

/-- The queues with a popper behind those that wait. -/
def CoreQueues.await (q : CoreQueues) (n slot seq : Nat) : CoreQueues := { q with waiters := q.waiters ++ [(n, slot, seq)] }

/-- The thread of the issue with the result of its pop outstanding, waiting at a queue. -/
def State.deferred (s : State) (i : Instr) (n : Nat) : State :=
  (s.modCtx s.iss.core s.iss.slot fun x => { x with out := x.out ++ [deferredResult s.me i] }).modCore s.iss.core
    fun k => { k with q := k.q.await n s.iss.slot s.me.nextSeq }

section
variable {s u : State} {i : Instr} {q : Nat} (h : Starves s i q u)
include h

theorem Starves.exec : exec i s = .next (s.conclude s.iss.core s.iss.slot i
    (if defers i then s.deferPop s.iss.core s.iss.slot i else .hold (.entry q) s)) := by
  obtain ⟨body, hb⟩ := exec_issues h.word s
  have hr : (s.ctx s.iss.core s.iss.slot).status = .ready := h.ready
  have hf : (s.ctx s.iss.core s.iss.slot).phase ≠ 3 := h.fresh
  rw [hb]
  simp [State.issue, hr, hf, h.clean, h.reads]

theorem Starves.waits (hd : defers i = false) : Waits i s s (.entry q) := by
  rw [Waits, h.exec, hd, ← State.conclude_hold]
  rfl

theorem Starves.limit (hd : defers i) (hl : 8 ≤ s.me.unreturned) : Waits i s s .limit := by
  have hp : s.deferPop s.iss.core s.iss.slot i = .hold .limit s := by
    rw [State.deferPop]
    exact if_pos (by rw [Ctx.outstanding_eq]; exact hl)
  rw [Waits, h.exec, if_pos hd, hp, State.conclude_hold]

/-- The empty queue of an instruction with one source is that source. -/
theorem Starves.readOp {n : Fin 8} (hs : sources i = [.q n]) : s.readOp s.iss.core s.iss.slot 0 (.q n) = .wait n.val := by
  have hr := h.reads
  rw [hs, State.readOps] at hr
  cases hg : s.readOp s.iss.core s.iss.slot 0 (.q n) with
  | val v t => rw [hg] at hr; exact absurd hr (by simp [State.readOps])
  | wait m => rw [State.readOp_wait hg]

theorem Starves.deferPop {n : Fin 8} (hl : s.me.unreturned < 8) (hs : sources i = [.q n]) :
    s.deferPop s.iss.core s.iss.slot i = .next (s.deferred i n.val) := by
  rw [State.deferPop, hs]
  dsimp only
  rw [if_neg (by rw [Ctx.outstanding_eq]; exact Nat.not_le.2 hl)]
  simp only [State.readDefer, h.readOp hs]
  rfl

/-- An instruction of one source whose pop is deferred leaves its result outstanding, behind the poppers that wait. -/
theorem Starves.defers {n : Fin 8} (hd : defers i) (hl : s.me.unreturned < 8) (hs : sources i = [.q n]) :
    Ends i s ((s.deferred i n.val).modCtx s.iss.core s.iss.slot fun x => x.complete s.nextPlace) := by
  rw [Ends, h.exec, if_pos hd, h.deferPop hl hs, State.conclude_next]

end

theorem State.deferred_frame (s : State) (i : Instr) (n : Nat) (f : Ctx → Ctx) :
    let v := (s.deferred i n).modCtx s.iss.core s.iss.slot f
    OnlyCore s.iss.core s v ∧ v.me = f { s.me with out := s.me.out ++ [deferredResult s.me i] } ∧
      (∀ j, j ≠ s.iss.slot → v.ctx s.iss.core j = s.ctx s.iss.core j) ∧
      v.core s.iss.core = { s.core s.iss.core with ctxs := (v.core s.iss.core).ctxs, q := (v.core s.iss.core).q } ∧
      (v.core s.iss.core).q = (s.core s.iss.core).q.await n s.iss.slot s.me.nextSeq := by
  intro v
  have hv : v.core s.iss.core = ({ (s.core s.iss.core).modCtx s.iss.slot fun x => { x with out := x.out ++ [deferredResult s.me i] } with
      q := (s.core s.iss.core).q.await n s.iss.slot s.me.nextSeq } : Core).modCtx s.iss.slot f := by
    rw [State.core_modCtx_self, State.deferred, State.core_modCore_self, State.core_modCtx_self]; rfl
  have hctx : ∀ (k : Core) (q : CoreQueues) (j : Nat), ({ k with q := q } : Core).ctx j = k.ctx j := fun _ _ _ => rfl
  refine ⟨⟨rfl, fun e he => ?_⟩, ?_, fun j hj => ?_, ?_, ?_⟩
  · rw [State.core_modCtx_ne _ _ _ he, State.deferred, State.core_modCore_ne _ _ he, State.core_modCtx_ne _ _ _ he]
  · show (v.core s.iss.core).ctx s.iss.slot = _
    rw [hv, Core.ctx_modCtx_self, hctx, Core.ctx_modCtx_self]
    rfl
  · rw [State.ctx, hv, Core.ctx_modCtx_ne _ _ hj, hctx, Core.ctx_modCtx_ne _ _ hj]
    rfl
  · rw [hv]; rfl
  · rw [hv]; rfl

/-! ### Switch markers (07 R154, R155; 09 R214) -/

/-- The thread of the issue at the next word. -/
def State.moved (s : State) : State := s.modCtx s.iss.core s.iss.slot fun x => x.complete s.nextPlace

theorem Issues.nop_exec {s : State} (h : Issues s .nop [] s) : exec .nop s = .next (s.finish s.moved .nop) := by
  rw [State.moved, ← State.conclude_next, ← h.issue fun _ t => .next t]; rfl

/-- What a marked word that pops nothing does last. -/
theorem State.finish_marked {s : State} (hm : s.iss.mark) (u : State) {i : Instr} (hp : popping i = false) :
    s.finish u i = { (u.markerAt s.iss.core s.iss.slot true) with iss := { (u.markerAt s.iss.core s.iss.slot true).iss with res := 1 } } := by
  simp [State.finish, hp, hm]

/-- A result on which nothing else was written needs nothing at the marker. -/
theorem settlePend_plain (s : State) (c slot : Nat) {p : Pending} (h : p.clash = false) : settlePend s c slot p = s := by
  unfold settlePend
  split
  · rw [h]; rfl
  · rfl

theorem State.passMarker_plain {s : State} {c slot : Nat} (h : ∀ p ∈ (s.ctx c slot).out, p.clash = false) :
    s.passMarker c slot = s.modCtx c slot fun x => { x with out := [] } := by
  have hfold : ∀ l : List Pending, (∀ p ∈ l, p.clash = false) → ∀ t : State, l.foldl (fun s p => settlePend s c slot p) t = t := by
    intro l
    induction l with
    | nil => exact fun _ t => rfl
    | cons p l ih =>
      intro hl t
      rw [List.foldl_cons, settlePend_plain t c slot (hl p (List.mem_cons_self ..))]
      exact ih (fun q hq => hl q (List.mem_cons_of_mem _ hq)) t
  rw [State.passMarker, hfold _ h]

/-- The result whose other value may yet be taken leaves its register as it is, or with that value. -/
theorem settlePend_oper (s : State) (c slot n : Nat) {p : Pending} {a : Nat} (ha : p.alt = some a) (hc : p.clash) (hd : p.dest = .h n) :
    let u := settlePend s c slot p
    Tab.getD (u.ctx c slot).h n 0 = Tab.getD (s.ctx c slot).h n 0 ∨ Tab.getD (u.ctx c slot).h n 0 = BitVec.ofNat 64 a := by
  unfold settlePend
  simp only [ha, hc, hd, if_true]
  split
  · exact .inl rfl
  · right
    rw [State.ctx, State.core_modCore_self, Core.putDest, Core.ctx_modCtx_self, Tab.getD_set, if_pos rfl]

theorem settlePend_iss (s : State) (c slot : Nat) (p : Pending) : (settlePend s c slot p).iss = s.iss := by
  unfold settlePend
  dsimp only
  repeat' split
  all_goals rfl

/-- A marker at which one result may yet take its other value leaves none outstanding. -/
theorem State.passMarker_one {s : State} {c slot n a : Nat} {p : Pending} (ho : (s.ctx c slot).out = [p]) (ha : p.alt = some a)
    (hc : p.clash) (hd : p.dest = .h n) :
    let u := s.passMarker c slot
    u.iss = s.iss ∧ (u.ctx c slot).out = [] ∧
      (Tab.getD (u.ctx c slot).h n 0 = Tab.getD (s.ctx c slot).h n 0 ∨ Tab.getD (u.ctx c slot).h n 0 = BitVec.ofNat 64 a) := by
  rw [State.passMarker, ho, List.foldl_cons, List.foldl_nil]
  dsimp only
  rw [State.ctx_modCtx_self]
  exact ⟨settlePend_iss s c slot p, rfl, settlePend_oper s c slot n ha hc hd⟩

/-- The thread that a marker finds with all its results returned passes it. -/
theorem State.markerAt_returned {u : State} {c slot : Nat} (hs : (u.ctx c slot).status = .ready) (hr : (u.ctx c slot).allReturned u.now) :
    u.markerAt c slot true = u.passMarker c slot := by
  simp [State.markerAt, hs, hr]

/-- One that has results outstanding is parked. -/
theorem State.markerAt_outstanding {u : State} {c slot : Nat} (hs : (u.ctx c slot).status = .ready) (hr : (u.ctx c slot).allReturned u.now = false) :
    u.markerAt c slot true = u.setStatus c slot (.parked .marker) := by
  simp [State.markerAt, hs, hr]

/-! ### The statement -/

/-- Settles O52: each operand by its own lemma; a starved instruction by whether its pop is deferred; a marker by what is outstanding. -/
theorem operandsRead : Obligations.OperandsRead := by
  unfold Obligations.OperandsRead
  refine ⟨⟨?operands, ?starved⟩, ?marked⟩
  case operands =>
    intro s c slot pos hview hlatch k x
    have h : Reads s c slot pos := ⟨hview, hlatch⟩
    refine ⟨fun n hn => ?_, fun n p hp => ?_, fun n hn => ?_, h.lc, h.la, h.zero, h.q7, fun n hn hk => ?_, fun n r hn hk ht => ?_,
      fun n hn => ?_, fun n h7 hr => h.wait h7 hr, fun n e rest hn hr he => ?_⟩
    · exact ⟨s, by rw [h.main, State.readEither_plain hn]; rfl, rfl⟩
    · exact ⟨_, _, h.main n, State.readOp_frame (h.main n), State.readEither_cases hp⟩
    · rw [h.oper, State.readEither_plain hn]
    · have hnone : s.recentK k n.val = [] := List.filter_eq_nil_iff.2 fun r hm hr => by
        have := State.mem_recentK.1 (List.mem_filter.2 ⟨hm, hr⟩)
        have := hk r hm this.2.1
        omega
      rw [h.shared hn, State.readK_settled hnone]
    · have hone : s.recentK k n.val = [r] := by
        have hf : k.regs.kOld.filter (fun e => e.n == n.val && s.now < e.at_ + Config.kVisible) = [r] := by
          simp only [Bool.and_comm (_ == _)]
          rw [← List.filter_filter, hk]
          simp [Config.kVisible, ht]
        exact hf
      refine ⟨_, _, h.shared hn, State.readOp_frame (h.shared hn), ?_⟩
      refine (State.readK_cases s k n.val).symm.imp_left ?_
      rintro ⟨r', hr', hv⟩
      rw [hone, List.mem_singleton] at hr'
      rw [hv, hr']
    · refine ⟨_, _, h.shared hn, State.readOp_frame (h.shared hn), (State.readK_cases s k n.val).imp_right ?_⟩
      rintro ⟨r, hr, hv⟩
      obtain ⟨hm, hrn, ht⟩ := State.mem_recentK.1 hr
      exact ⟨r, hm, hrn, ht, hv⟩
    · have h7 : n.val ≠ 7 := by omega
      have hpop := h.pop h7 hr he
      refine ⟨_, hpop, State.readOp_frame hpop, ?_, fun m hm => ?_, ?_, ?_⟩
      · rw [State.q_popped, CoreQueues.entries_pop, CoreQueues.entries_setEntries hn]
      · rw [State.q_popped, CoreQueues.entries_pop, CoreQueues.entries_setEntries_ne hm]
      · rw [State.ctx_popped]; exact Tab.get?_put_self ..
      · rw [State.ctx_popped]; exact Ctx.popped_observes ..
  case starved =>
    intro i s u q hr hf hc ho he
    have h : Starves s i q u := ⟨he, hr, hf, hc, ho⟩
    refine ⟨h.waits, h.limit, fun n hd hl hs => ?_⟩
    obtain ⟨hcore, hme, hctx, hframe, hq⟩ := s.deferred_frame i n.val fun x => x.complete s.nextPlace
    exact ⟨_, deferredResult s.me i, h.defers hd hl hs, hcore, hme, fun o => Ctx.seq_lt_nextSeq, rfl, rfl,
      by rw [deferredResult]; cases destination i <;> rfl, rfl, rfl, hctx, hframe, hq⟩
  case marked =>
    intro s h
    have hx : (s.moved).ctx s.iss.core s.iss.slot = s.me.complete s.nextPlace := State.ctx_modCtx_self ..
    have hs : (s.moved.ctx s.iss.core s.iss.slot).status = .ready := by rw [hx]; exact h.ready
    have hr : (s.moved.ctx s.iss.core s.iss.slot).allReturned s.moved.now = s.me.allReturned s.now := by rw [hx]; rfl
    have hmark (hm : s.iss.mark) : exec .nop s = .next { s.moved.markerAt s.iss.core s.iss.slot true with
        iss := { (s.moved.markerAt s.iss.core s.iss.slot true).iss with res := 1 } } := by
      rw [h.nop_exec, State.finish_marked hm s.moved (i := .nop) rfl]
    refine ⟨fun hm => ⟨_, by rw [h.nop_exec, finish_plain s _ .nop rfl hm]; rfl, .modCtx ..⟩, fun hm hn => ?_, fun hm hret hp => ?_,
      fun p d hm hret ho hc ha hd => ?_⟩
    · rw [State.markerAt_outstanding hs (by rw [hr]; exact Bool.eq_false_iff.2 (mt (returned_iff s).1 hn)), State.setStatus, State.moved,
        State.modCtx_modCtx] at hmark
      exact ⟨_, hmark hm, .modCtx .., State.ctx_modCtx_self ..⟩
    · rw [State.markerAt_returned hs (hr.trans ((returned_iff s).2 hret)), State.passMarker_plain (by rw [hx]; exact hp), State.moved,
        State.modCtx_modCtx] at hmark
      exact ⟨_, hmark hm, .modCtx .., State.ctx_modCtx_self ..⟩
    · rw [State.markerAt_returned hs (hr.trans ((returned_iff s).2 hret))] at hmark
      obtain ⟨hi, hout, hh⟩ := State.passMarker_one (show (s.moved.ctx s.iss.core s.iss.slot).out = [p] by rw [hx]; exact ho) ha hc hd
      rw [hx] at hh
      generalize s.moved.passMarker s.iss.core s.iss.slot = v at hmark hi hout hh
      have hi' : v.iss = s.iss := hi
      have hme : v.me = v.ctx s.iss.core s.iss.slot := by rw [State.me, hi']
      exact ⟨v, by rw [hmark hm, hi'], by rw [hme, hout], by rw [hme]; exact hh⟩

end Sys2Proof.Machine
end

section
/-! Results pushed to TKQ, CHQ and MEQ (03 R65, R66; 10 R248, R251; 11 R257, R261, R274). -/

namespace Sys2Proof.Machine

/-! ### A scalar result whose destination is a queue -/

/-- An instruction with a scalar meaning does nothing but give its result. -/
theorem exec_scalar {i : Instr} {d : Operand} {vals : List Word} {v : Word} (hv : scalarEval i vals = some v) (hd : destination i = some d)
    (s : State) : exec i s = .next (scalarIssue i d s) := by
  cases i
  all_goals try exact absurd (show none = some v from hv) nofun
  all_goals cases hd
  all_goals rfl

/-- The push of a value to a queue register. -/
def State.pushOf (s : State) (c slot n : Nat) (v : Word) : Act :=
  if n = 0 then s.pushMatrix c slot v else if n = 3 then s.pushChain c slot v else s.pushTask c slot v

theorem State.pushOf_meq {s : State} {c slot n : Nat} {v : Word} (h : n = 0) : s.pushOf c slot n v = s.pushMatrix c slot v := by
  rw [State.pushOf, if_pos h]

theorem State.pushOf_chq {s : State} {c slot n : Nat} {v : Word} (h : n = 3) : s.pushOf c slot n v = s.pushChain c slot v := by
  rw [State.pushOf, if_neg (by omega), if_pos h]

theorem State.pushOf_tkq {s : State} {c slot n : Nat} {v : Word} (h : n = 6) : s.pushOf c slot n v = s.pushTask c slot v := by
  rw [State.pushOf, if_neg (by omega), if_neg (by omega)]

/-- A thread `y` with its last result, unless the instruction pops or had pushed before it was held as `x` (03 R62). -/
def Ctx.given (x : Ctx) (i : Instr) (v : Word) (y : Ctx) : Ctx :=
  if popping i ∨ x.phase = 2 then y else y.lastResult (isC i) v

theorem Ctx.given_cmds (x : Ctx) (i : Instr) (v : Word) (y : Ctx) (l : List Nat) :
    x.given i v { y with cmds := l } = { x.given i v y with cmds := l } := by
  unfold Ctx.given Ctx.lastResult
  repeat' split
  all_goals rfl

theorem Ctx.given_phase (x : Ctx) (i : Instr) (v : Word) (y : Ctx) (n : Nat) :
    x.given i v { y with phase := n } = { x.given i v y with phase := n } := by
  unfold Ctx.given Ctx.lastResult
  repeat' split
  all_goals rfl

theorem Ctx.given_fresh {x : Ctx} (h : x.phase ≠ 2) (i : Instr) (v : Word) (y : Ctx) :
    x.given i v y = if popping i then y else y.lastResult (isC i) v := by
  simp [Ctx.given, h]

/-- The state `u` of a push with the last result of the thread that pushed in `s`. -/
def State.given (s : State) (c slot : Nat) (i : Instr) (v : Word) (u : State) : State :=
  if popping i ∨ (s.ctx c slot).phase = 2 then u else u.modCtx c slot fun x => x.lastResult (isC i) v

theorem State.given_modCtx (s : State) (c slot : Nat) (i : Instr) (v : Word) (u : State) (f : Ctx → Ctx) :
    s.given c slot i v (u.modCtx c slot f) = u.modCtx c slot fun y => (s.ctx c slot).given i v (f y) := by
  unfold State.given Ctx.given
  split
  · rfl
  · rw [State.modCtx_modCtx]

theorem State.modCtx_given (s : State) (c slot : Nat) (i : Instr) (v : Word) (u : State) (f : Ctx → Ctx) :
    (s.given c slot i v u).modCtx c slot f = u.modCtx c slot fun y => f ((s.ctx c slot).given i v y) := by
  unfold State.given Ctx.given
  split
  · rfl
  · rw [State.modCtx_modCtx]

/-- A push may be made: the thread's accesses have been performed, or it was made before the thread was held. -/
def Ctx.Clear (x : Ctx) : Prop := x.phase = 2 ∨ x.pipe = []

section
variable {s u : State} {c slot : Nat} {i : Instr} {n : Fin 8} {v : Word}

theorem State.result_behind (h : ¬ (s.ctx c slot).Clear) : s.result c slot i (.q n) v = .hold .performed s := by
  obtain ⟨hp, hq⟩ := not_or.1 h
  simp [State.result, Operand.isQueue, hp, hq]

/-- What the push of a clear thread comes to, and what is kept of it. -/
theorem State.result_clear (h : (s.ctx c slot).Clear) : s.result c slot i (.q n) v =
    match s.pushOf c slot n v with
    | .next t => .next (s.given c slot i v t)
    | .park w d t => .park w d (s.given c slot i v t)
    | .hold w t => .hold w (if w == .engine then s.given c slot i v t else t)
    | a => a := by
  have hg : (!(((s.ctx c slot).phase == 2)) && !(s.ctx c slot).pipe.isEmpty) = false := by
    rcases h with h | h <;> simp [h]
  simp only [State.result, Operand.isQueue, Bool.true_and, hg, State.pushOf, State.given, Bool.false_eq_true, if_false,
    Bool.or_eq_true, beq_iff_eq] <;> rfl

theorem State.result_next (h : (s.ctx c slot).Clear) (hp : s.pushOf c slot n v = .next u) :
    s.result c slot i (.q n) v = .next (s.given c slot i v u) := by rw [result_clear h, hp]

theorem State.result_fault {code detail : Nat} {o : Bool} (h : (s.ctx c slot).Clear) (hp : s.pushOf c slot n v = .fault code detail o) :
    s.result c slot i (.q n) v = .fault code detail o := by rw [result_clear h, hp]

theorem State.result_room {m : Nat} (h : (s.ctx c slot).Clear) (hp : s.pushOf c slot n v = .hold (.room m) u) :
    s.result c slot i (.q n) v = .hold (.room m) u := by rw [result_clear h, hp]; rfl

theorem State.result_engine (h : (s.ctx c slot).Clear) (hp : s.pushOf c slot n v = .hold .engine u) :
    s.result c slot i (.q n) v = .hold .engine (s.given c slot i v u) := by rw [result_clear h, hp]; rfl

end

/-- An instruction that comes to a scalar result for a queue register. -/
structure Pushes (i : Instr) (n : Fin 8) (s : State) (vals : List Word) (t : State) (v : Word) : Prop where
  issues : Issues s i vals t
  dest : destination i = some (.q n)
  eval : scalarEval i vals = some v

namespace Pushes

variable {i : Instr} {n : Fin 8} {s t u : State} {vals : List Word} {v : Word} (h : Pushes i n s vals t v)
include h

theorem exec : Machine.exec i s = .next (scalarIssue i (.q n) s) := exec_scalar h.eval h.dest s

theorem body : ((scalarEval i vals).getD 0) = v := by rw [h.eval]; rfl

theorem behind (hc : ¬ t.me.Clear) : Waits i s t .performed :=
  waits_of h.issues h.exec (by rw [h.body]; exact State.result_behind hc)

variable (hc : t.me.Clear)
include hc

theorem faults {code d : Nat} {o : Bool} (hp : t.pushOf t.iss.core t.iss.slot n v = .fault code d o) : Faults i s code d o :=
  faults_of h.issues h.exec (by rw [h.body]; exact State.result_fault hc hp)

theorem room {m : Nat} (hp : t.pushOf t.iss.core t.iss.slot n v = .hold (.room m) u) : Waits i s u (.room m) :=
  waits_of h.issues h.exec (by rw [h.body]; exact State.result_room hc hp)

/-- A push made at once: the instruction completes. -/
theorem ends (hp : t.pushOf t.iss.core t.iss.slot n v = .next u) :
    Ends i s (u.modCtx t.iss.core t.iss.slot fun y => (t.me.given i v y).complete t.nextPlace) := by
  have he := ends_next h.issues h.exec (by rw [h.body]; exact State.result_next hc hp)
  rwa [State.modCtx_given] at he

/-- A push whose thread is held for the engine. -/
theorem engine {f : Ctx → Ctx} (hp : t.pushOf t.iss.core t.iss.slot n v = .hold .engine (u.modCtx t.iss.core t.iss.slot f)) :
    Waits i s (u.modCtx t.iss.core t.iss.slot fun y => t.me.given i v (f y)) .engine := by
  have he := waits_of h.issues h.exec (by rw [h.body]; exact State.result_engine hc hp)
  rwa [State.given_modCtx] at he

end Pushes

/-! ### TKQ and CHQ (10 R248; 11 R274) -/

section
variable {s : State} {c slot : Nat} {v : Word}

theorem State.pushTask_fault (h : 2 ^ 48 ≤ v.toNat ∨ v.toNat % 64 ≠ 0) : s.pushTask c slot v = .fault fcOperand v.toNat false := by
  rw [State.pushTask, if_pos (by simpa using h)]

theorem State.pushTask_room (hv : v.toNat < 2 ^ 48) (ha : v.toNat % 64 = 0) (h : 8 ≤ (s.core c).q.tkq.length) :
    s.pushTask c slot v = .hold (.room 6) s := by
  have hb : v.toNat < 281474976710656 := hv
  have hr : (s.core c).q.hasRoom 6 = false := by simpa [CoreQueues.hasRoom, CoreQueues.count, qdepthOf, Config.tkqDepth] using h
  simp [State.pushTask, hb, ha, hr]

theorem State.pushTask_next (hv : v.toNat < 2 ^ 48) (ha : v.toNat % 64 = 0) (h : (s.core c).q.tkq.length < 8) :
    s.pushTask c slot v = .next ((s.modCore c fun k => { k with q := { k.q with
      tkq := k.q.tkq ++ [(v.toNat, (s.ctx c slot).asid, (s.ctx c slot).cls, (s.ctx c slot).pt)] } }).post (.tkqAccept c)) := by
  have hb : v.toNat < 281474976710656 := hv
  have hr : (s.core c).q.hasRoom 6 = true := by simpa [CoreQueues.hasRoom, CoreQueues.count, qdepthOf, Config.tkqDepth] using h
  simp [State.pushTask, hb, ha, hr]

theorem State.pushChain_room (h : 4 ≤ (s.core c).q.chq.length) : s.pushChain c slot v = .hold (.room 3) s := by
  have hr : (s.core c).q.hasRoom 3 = false := by simpa [CoreQueues.hasRoom, CoreQueues.count, qdepthOf, Config.chqDepth] using h
  simp [State.pushChain, hr]

/-- The request that a push to CHQ queues. -/
def State.chainReq (s : State) (c slot : Nat) (v : Word) : ChainReq :=
  { id := (s.hedge (hedgeKey c)).nextOp, addr := v.toNat, asid := (s.ctx c slot).asid, cls := (s.ctx c slot).cls, t0 := (s.ctx c slot).pt, slot := slot }

theorem State.pushChain_next (h : (s.core c).q.chq.length < 4) : s.pushChain c slot v = .next
    ((((s.modHedge (hedgeKey c) fun y => { y with nextOp := y.nextOp + 1 }).modCtx c slot fun x =>
        { x with cmds := x.cmds ++ [(s.hedge (hedgeKey c)).nextOp] }).modCore c fun k =>
        { k with q := { k.q with chq := k.q.chq ++ [s.chainReq c slot v] } }).post (.chainCommandAccept c)) := by
  have hr : (s.core c).q.hasRoom 3 = true := by simpa [CoreQueues.hasRoom, CoreQueues.count, qdepthOf, Config.chqDepth] using h
  simp [State.pushChain, hr, State.chainReq]

end

/-! ### MEQ (11 R257, R261) -/

/-- A read of a register leaves the core's queues. -/
theorem State.readEither_q (s : State) (c slot : Nat) (d : Dest) (w : Word) (x : Ctx) :
    ((s.readEither c slot d w x).2.core c).q = (s.core c).q := by
  unfold State.readEither
  split
  · rfl
  · dsimp only
    split
    · rfl
    · exact (congrArg Core.q (State.core_modCtx_self ..)).trans rfl

/-- A read of a group of main registers leaves a read's frame, and the core's queues. -/
theorem State.readMains_frame (c slot : Nat) (k : Nat) : ∀ (s : State) (n : Nat),
    ReadFrame c slot s (s.readMains c slot n k).2 ∧ ((s.readMains c slot n k).2.core c).q = (s.core c).q := by
  induction k with
  | zero => exact fun s _ => ⟨.refl .., rfl⟩
  | succ k ih =>
    intro s n
    obtain ⟨hf, hq⟩ := ih (s.readEither c slot (.g n) ((s.view c).readMain ((s.view c).ctx slot) n) ((s.view c).ctx slot)).2 (n + 1)
    exact ⟨(State.readEither_frame rfl).trans hf, hq.trans (State.readEither_q ..)⟩

/-- The scratchpad pair of one operand of a command, where it names one (11 R260). -/
def State.cmdPair (s : State) (c slot d : Nat) (b : Bool) : (Word × Word) × State :=
  if cmdPad d b then
    let r := s.readMains c slot (cmdReg d b) 2
    ((r.1[0]?.getD 0, r.1[1]?.getD 0), r.2)
  else ((0, 0), s)

theorem State.cmdPair_eq {s t : State} {c slot d : Nat} {b : Bool} {p : Word × Word}
    (h : if cmdPad d b then ∃ l, s.readMains c slot (cmdReg d b) 2 = (l, t) ∧ p = (l[0]?.getD 0, l[1]?.getD 0) else t = s ∧ p = (0, 0)) :
    s.cmdPair c slot d b = (p, t) := by
  unfold State.cmdPair
  split
  · next hb =>
    rw [if_pos hb] at h
    obtain ⟨l, hl, rfl⟩ := h
    rw [hl]
  · next hb =>
    rw [if_neg hb] at h
    obtain ⟨rfl, rfl⟩ := h
    rfl

theorem State.cmdPair_frame (s : State) (c slot d : Nat) (b : Bool) :
    ReadFrame c slot s (s.cmdPair c slot d b).2 ∧ ((s.cmdPair c slot d b).2.core c).q = (s.core c).q := by
  unfold State.cmdPair
  split
  · exact State.readMains_frame ..
  · exact ⟨.refl .., rfl⟩

/-- A scratchpad pair breaks R260. -/
def pairBad (d : Nat) (b : Bool) (w : Word × Word) : Bool :=
  cmdPad d b && padBreaks w (kBytes (cmdFmt d b) (cmdSparse d) b) (cmdRows d b) (cmdSteps d)

/-- The command that a multiplying double and its scratchpad pairs make. -/
def cmdOp (v : Word) (pa pb : Word × Word) (perm : List Nat) : EngOp :=
  { kind := if cmdKind v.toNat = 0 then .mma else .mmac, d0 := v, tile := cmdTile v.toNat, aPair := pa, bPair := pb, perm := perm }

/-- The push of a command, which its thread then counts. -/
def State.pushCmd (s : State) (c slot : Nat) (op : EngOp) : State :=
  (s.pushOp c slot op).modCtx c slot fun x => { x with cmds := x.cmds ++ [(s.hedge (hedgeKey c)).nextOp] }

/-- The push of a multiplying command that breaks no rule of its double, once its pairs have been read. -/
def State.multiply (s : State) (c slot : Nat) (v : Word) (pa pb : Word × Word) : Act :=
  let d := v.toNat
  let w := Tab.getD (s.core c).regs.w (cmdPerm d - 1) {}
  if pairBad d false pa || pairBad d true pb then .fault fcOperand d false
  else if cmdPerm d != 0 && w.valid && !w.loading && cmdRows d false % w.n != 0 then .fault fcOperand d false
  else match s.permOf c (cmdPerm d) with
    | .error a => a
    | .ok perm =>
      if !(s.core c).q.hasRoom 0 then .hold (.room 0) s
      else
        let u := s.pushCmd c slot (cmdOp v pa pb perm)
        if cmdPad d false && cmdPad d true then .next u else .hold .engine (u.modCtx c slot fun x => { x with phase := 1 })

/-- A command names a permutation register, which it must own. -/
def CmdNames (d : Nat) : Prop := cmdKind d < 2 ∧ cmdPerm d ≠ 0 ∧ cmdPerm d < 9
def State.Owns (s : State) (c slot : Nat) : Prop := (s.ctx c slot).asid = (s.core c).csr.shasid

section
variable {s t1 t2 : State} {c slot : Nat} {v : Word} {pa pb : Word × Word}

/-- A command that passes the test of its owner comes to its window's. -/
theorem State.pushMatrix_owned (hp : CmdNames v.toNat → s.Owns c slot) :
    (cmdKind v.toNat < 2 && cmdPerm v.toNat != 0 && cmdPerm v.toNat < 9 && !((s.ctx c slot).asid == (s.core c).csr.shasid)) = false := by
  by_contra h
  simp only [Bool.not_eq_false, Bool.and_eq_true, decide_eq_true_eq, bne_iff_ne, Bool.not_eq_true', beq_eq_false_iff_ne] at h
  exact h.2 (hp ⟨h.1.1.1, h.1.1.2, h.1.2⟩)

/-- A ZERO names no registers. -/
theorem cmdWindow_zero {x : Ctx} {d : Nat} (h : cmdKind d = 2) : cmdWindow x d = none := by simp [cmdWindow, cmdUses, h]

theorem State.pushMatrix_staged (h : (s.ctx c slot).phase = 2) : s.pushMatrix c slot v = .next s := by
  simp [State.pushMatrix, h]

variable (hf : (s.ctx c slot).phase ≠ 2)
include hf

theorem State.pushMatrix_privilege (hp : CmdNames v.toNat) (ho : ¬ s.Owns c slot) : s.pushMatrix c slot v = .fault fcPrivilege 0 false := by
  obtain ⟨h1, h2, h3⟩ := hp
  have ho' : (s.ctx c slot).asid ≠ (s.core c).csr.shasid := ho
  simp [State.pushMatrix, hf, h1, h2, h3, ho']

theorem State.pushMatrix_zero_room (hb : ¬ cmdBreaks v.toNat) (hk : cmdKind v.toNat = 2) (h : 8 ≤ (s.core c).q.meq.length) :
    s.pushMatrix c slot v = .hold (.room 0) s := by
  have hr : (s.core c).q.hasRoom 0 = false := by simpa [CoreQueues.hasRoom, CoreQueues.count, qdepthOf, Config.meqDepth] using h
  simp [State.pushMatrix, hf, cmdWindow_zero hk, hb, hk, hr]

theorem State.pushMatrix_zero (hb : ¬ cmdBreaks v.toNat) (hk : cmdKind v.toNat = 2) (h : (s.core c).q.meq.length < 8) :
    s.pushMatrix c slot v = .next (s.pushCmd c slot { kind := .zero, d0 := v, tile := cmdTile v.toNat }) := by
  have hr : (s.core c).q.hasRoom 0 = true := by simpa [CoreQueues.hasRoom, CoreQueues.count, qdepthOf, Config.meqDepth] using h
  simp [State.pushMatrix, hf, cmdWindow_zero hk, hb, hk, hr, State.pushCmd]

variable (hp : CmdNames v.toNat → s.Owns c slot)
include hp

theorem State.pushMatrix_window {r : Nat} (hw : cmdWindow (s.ctx c slot) v.toNat = some r) : s.pushMatrix c slot v = .fault fcWindow r false := by
  simp only [State.pushMatrix, hf, State.pushMatrix_owned hp, hw, if_false, Bool.false_eq_true]

variable (hw : cmdWindow (s.ctx c slot) v.toNat = none)
include hw

theorem State.pushMatrix_breaks (hb : cmdBreaks v.toNat) : s.pushMatrix c slot v = .fault fcOperand v.toNat false := by
  simp only [State.pushMatrix, hf, State.pushMatrix_owned hp, hw, hb, if_false, if_true, Bool.false_eq_true]

variable (hb : ¬ cmdBreaks v.toNat)
include hb

theorem State.pushMatrix_multiply (hk : cmdKind v.toNat < 2) (ha : s.cmdPair c slot v.toNat false = (pa, t1))
    (hb' : t1.cmdPair c slot v.toNat true = (pb, t2)) : s.pushMatrix c slot v = t2.multiply c slot v pa pb := by
  have hk2 : cmdKind v.toNat ≠ 2 := by omega
  have hm : s.pushMatrix c slot v =
      ((s.cmdPair c slot v.toNat false).2.cmdPair c slot v.toNat true).2.multiply c slot v (s.cmdPair c slot v.toNat false).1
        ((s.cmdPair c slot v.toNat false).2.cmdPair c slot v.toNat true).1 := by
    rw [State.pushMatrix]
    simp only [hf, State.pushMatrix_owned hp, hw, hb, hk2, if_false, Bool.false_eq_true]
    rfl
  rw [hm, ha, hb']

end

section
variable {s : State} {c slot : Nat} {v : Word} {pa pb : Word × Word} {idx : List Nat}

theorem State.multiply_bad (h : pairBad v.toNat false pa ∨ pairBad v.toNat true pb) : s.multiply c slot v pa pb = .fault fcOperand v.toNat false := by
  simp [State.multiply, h]

/-- What a multiplying command takes of its permutation select: nothing, or a register whose modulus divides the rows of A. -/
def PermTaken (r : PermReg) (sel rows : Nat) (idx : List Nat) : Prop :=
  if sel = 0 then idx = [] else (r.loading = false ∧ r.valid ∧ idx = r.idx.take r.n) ∧ rows % r.n = 0

variable (ha : ¬ pairBad v.toNat false pa) (hb : ¬ pairBad v.toNat true pb)
  (hw : PermTaken (Tab.getD (s.core c).regs.w (cmdPerm v.toNat - 1) {}) (cmdPerm v.toNat) (cmdRows v.toNat false) idx)
include ha hb hw

theorem State.multiply_taken : s.multiply c slot v pa pb =
    if !(s.core c).q.hasRoom 0 then .hold (.room 0) s
    else if cmdPad v.toNat false && cmdPad v.toNat true then .next (s.pushCmd c slot (cmdOp v pa pb idx))
    else .hold .engine ((s.pushCmd c slot (cmdOp v pa pb idx)).modCtx c slot fun x => { x with phase := 1 }) := by
  by_cases h0 : cmdPerm v.toNat = 0
  · rw [PermTaken, if_pos h0] at hw
    simp [State.multiply, ha, hb, h0, State.permOf, hw]
  · rw [PermTaken, if_neg h0] at hw
    obtain ⟨⟨hl, hv, rfl⟩, hm⟩ := hw
    simp [State.multiply, ha, hb, h0, State.permOf, hl, hv, hm]

theorem State.multiply_room (h : 8 ≤ (s.core c).q.meq.length) : s.multiply c slot v pa pb = .hold (.room 0) s := by
  have hr : (s.core c).q.hasRoom 0 = false := by simpa [CoreQueues.hasRoom, CoreQueues.count, qdepthOf, Config.meqDepth] using h
  rw [multiply_taken ha hb hw, hr]; rfl

variable (h : (s.core c).q.meq.length < 8)
include h

theorem State.multiply_next (hs : (cmdPad v.toNat false && cmdPad v.toNat true) = true) :
    s.multiply c slot v pa pb = .next (s.pushCmd c slot (cmdOp v pa pb idx)) := by
  have hr : (s.core c).q.hasRoom 0 = true := by simpa [CoreQueues.hasRoom, CoreQueues.count, qdepthOf, Config.meqDepth] using h
  rw [multiply_taken ha hb hw, hr, hs]; rfl

/-- A command with vector operands holds its thread until they have been staged. -/
theorem State.multiply_engine (hs : (cmdPad v.toNat false && cmdPad v.toNat true) = false) : s.multiply c slot v pa pb =
    .hold .engine ((s.pushCmd c slot (cmdOp v pa pb idx)).modCtx c slot fun x => { x with phase := 1 }) := by
  have hr : (s.core c).q.hasRoom 0 = true := by simpa [CoreQueues.hasRoom, CoreQueues.count, qdepthOf, Config.meqDepth] using h
  rw [multiply_taken ha hb hw, hr, hs]; rfl

end

/-- The operation that a push of a slot enters in MEQ. -/
def State.queued (s : State) (c slot : Nat) (op : EngOp) : EngOp :=
  let x := s.ctx c slot
  { op with id := (s.hedge (hedgeKey c)).nextOp, core := c, slot := slot, asid := x.asid, cls := x.cls, redun := bit x.tstat 1, t0 := x.pt, tc := x.pt,
            since := s.now }

/-- Nothing has begun the operation. -/
def EngOp.New (op : EngOp) : Prop := op.started = false ∧ op.status = none ∧ op.task = none ∧ op.k = 0 ∧ op.phys = none

/-- A push followed by any change of its thread's context is still the push of that operation. -/
theorem State.pushOp_pushed (s : State) (op : EngOp) (f : Ctx → Ctx) (hn : op.New) :
    Pushed s ((s.pushOp s.iss.core s.iss.slot op).modCtx s.iss.core s.iss.slot f) (s.queued s.iss.core s.iss.slot op) where
  state := rfl
  cores e he := by
    rw [State.core_modCtx_ne _ _ _ he, State.pushOp, State.core_post, State.core_modCore_ne _ _ he, State.core_modHedge]
  core := by
    rw [State.core_modCtx_self, State.pushOp, State.core_post, State.core_modCore_self, State.core_modHedge]; rfl
  ctxs j hj := by
    rw [State.ctx_modCtx_ne _ _ _ hj, State.pushOp, State.ctx, State.core_post, State.core_modCore_self, State.core_modHedge]; rfl
  hedge := by
    exact State.hedge_modHedge_self s (hedgeKey s.iss.core) fun y => { y with nextOp := y.nextOp + 1 }
  id := rfl
  who := ⟨rfl, rfl, rfl, rfl, by rw [← bit_eq_testBit]; rfl⟩
  time := ⟨rfl, rfl⟩
  new := hn

/-- The thread after a push is what the change makes of the thread before it. -/
theorem State.ctx_pushOp (s : State) (c slot : Nat) (op : EngOp) (f : Ctx → Ctx) :
    ((s.pushOp c slot op).modCtx c slot f).ctx c slot = f (s.ctx c slot) := by
  rw [State.ctx_modCtx_self, State.pushOp, State.ctx, State.core_post, State.core_modCore_self, State.core_modHedge]; rfl

/-! ### The statement -/

namespace Pushes

variable {i : Instr} {n : Fin 8} {s t : State} {vals : List Word} {v : Word} (h : Pushes i n s vals t v) (hc : t.me.Clear)
include h hc

/-- A push to TKQ with room completes, and tells the tasks' dispatcher (11 R274). -/
theorem task (hn : n.val = 6) (hv : v.toNat < 2 ^ 48) (ha : v.toNat % 64 = 0) (hl : (t.core t.iss.core).q.tkq.length < 8) :
    ∃ u : State, Ends i s u ∧ OnlyCore t.iss.core { t with net := t.net ++ [.tkqAccept t.iss.core] } u ∧
      (u.core t.iss.core).q = { (t.core t.iss.core).q with tkq := (t.core t.iss.core).q.tkq ++ [(v.toNat, t.me.asid, t.me.cls, t.me.pt)] } ∧
      (u.core t.iss.core).file = (t.core t.iss.core).file ∧ u.me = (t.me.given i v t.me).complete t.nextPlace := by
  refine ⟨_, h.ends hc ((State.pushOf_tkq hn).trans (State.pushTask_next hv ha hl)), ⟨rfl, fun e he => ?_⟩, ?_, ?_, ?_⟩
  · rw [State.core_modCtx_ne _ _ _ he, State.core_post, State.core_modCore_ne _ _ he]; rfl
  · rw [State.core_modCtx_self, State.core_post, State.core_modCore_self]; rfl
  · rw [State.core_modCtx_self, State.core_post, State.core_modCore_self]; rfl
  · refine (State.ctx_modCtx_self ..).trans ?_
    rw [State.ctx, State.core_post, State.core_modCore_self]; rfl

/-- A push to CHQ with room completes; the thread counts its command (10 R248). -/
theorem chain (hn : n.val = 3) (hl : (t.core t.iss.core).q.chq.length < 4) :
    ∃ u : State, Ends i s u ∧ OnlyCore t.iss.core { t with net := t.net ++ [.chainCommandAccept t.iss.core], hedges := u.hedges } u ∧
      (u.core t.iss.core).q = { (t.core t.iss.core).q with chq := (t.core t.iss.core).q.chq ++ [t.chainReq t.iss.core t.iss.slot v] } ∧
      (u.core t.iss.core).file = (t.core t.iss.core).file ∧
      u.me = { t.me.given i v t.me with cmds := t.me.cmds ++ [(t.hedge (hedgeKey t.iss.core)).nextOp] }.complete t.nextPlace := by
  refine ⟨_, h.ends hc ((State.pushOf_chq hn).trans (State.pushChain_next hl)), ⟨rfl, fun e he => ?_⟩, ?_, ?_, ?_⟩
  · rw [State.core_modCtx_ne _ _ _ he, State.core_post, State.core_modCore_ne _ _ he, State.core_modCtx_ne _ _ _ he]; rfl
  · rw [State.core_modCtx_self, State.core_post, State.core_modCore_self, State.core_modCtx_self]; rfl
  · rw [State.core_modCtx_self, State.core_post, State.core_modCore_self, State.core_modCtx_self]; rfl
  · refine (State.ctx_modCtx_self ..).trans ?_
    rw [← Ctx.given_cmds]
    refine congrArg (fun y => (t.me.given i v y).complete t.nextPlace) ?_
    rw [State.ctx, State.core_post, State.core_modCore_self]
    exact State.ctx_modCtx_self ..

/-- A command that is pushed at once completes: the thread counts it. -/
theorem command {t' : State} {op : EngOp} (hi : t'.iss = t.iss)
    (hp : t.pushOf t.iss.core t.iss.slot n v = .next (t'.pushCmd t.iss.core t.iss.slot op)) (hn : op.New) :
    ∃ u : State, Ends i s u ∧ Pushed t' u (t'.queued t.iss.core t.iss.slot op) ∧
      u.me = (t.me.given i v { t'.me with cmds := t'.me.cmds ++ [(t'.hedge (hedgeKey t.iss.core)).nextOp] }).complete t.nextPlace := by
  have he := h.ends hc hp
  rw [State.pushCmd, State.modCtx_modCtx] at he
  rw [← hi] at he ⊢
  exact ⟨_, he, t'.pushOp_pushed op _ hn, State.ctx_pushOp ..⟩

/-- One with vector operands holds its thread. -/
theorem command_held {t' : State} {op : EngOp} (hi : t'.iss = t.iss)
    (hp : t.pushOf t.iss.core t.iss.slot n v =
      .hold .engine ((t'.pushCmd t.iss.core t.iss.slot op).modCtx t.iss.core t.iss.slot fun x => { x with phase := 1 })) (hn : op.New) :
    ∃ u : State, Waits i s u .engine ∧ Pushed t' u (t'.queued t.iss.core t.iss.slot op) ∧
      u.me = { t.me.given i v { t'.me with cmds := t'.me.cmds ++ [(t'.hedge (hedgeKey t.iss.core)).nextOp] } with phase := 1 } := by
  have he := h.engine hc hp
  rw [State.pushCmd, State.modCtx_modCtx] at he
  rw [← hi] at he ⊢
  exact ⟨_, he, t'.pushOp_pushed op _ hn, (State.ctx_pushOp ..).trans (Ctx.given_phase ..)⟩

end Pushes

/-- A multiplying command whose pairs have been read. -/
structure Multiplies (t t1 t2 : State) (v : Word) (pa pb : Word × Word) : Prop where
  fresh : t.me.phase ≠ 2
  owned : CmdNames v.toNat → t.Owns t.iss.core t.iss.slot
  window : cmdWindow t.me v.toNat = none
  sound : ¬ cmdBreaks v.toNat
  kind : cmdKind v.toNat < 2
  readA : t.cmdPair t.iss.core t.iss.slot v.toNat false = (pa, t1)
  readB : t1.cmdPair t.iss.core t.iss.slot v.toNat true = (pb, t2)

namespace Multiplies

variable {t t1 t2 : State} {v : Word} {pa pb : Word × Word} (h : Multiplies t t1 t2 v pa pb)
include h

theorem push : t.pushMatrix t.iss.core t.iss.slot v = t2.multiply t.iss.core t.iss.slot v pa pb :=
  State.pushMatrix_multiply h.fresh h.owned h.window h.sound h.kind h.readA h.readB

theorem reads : ReadFrame t.iss.core t.iss.slot t t2 ∧ (t2.core t.iss.core).q = (t.core t.iss.core).q := by
  obtain ⟨fa, qa⟩ := t.cmdPair_frame t.iss.core t.iss.slot v.toNat false
  obtain ⟨fb, qb⟩ := t1.cmdPair_frame t.iss.core t.iss.slot v.toNat true
  rw [h.readA] at fa qa
  rw [h.readB] at fb qb
  exact ⟨fa.trans fb, qb.trans qa⟩

theorem queues : (t2.core t.iss.core).q = (t.core t.iss.core).q := h.reads.2
theorem iss : t2.iss = t.iss := by rw [h.reads.1.state]
theorem nextOp : (t2.hedge (hedgeKey t.iss.core)).nextOp = (t.hedge (hedgeKey t.iss.core)).nextOp := by rw [h.reads.1.state]; rfl
theorem regs : (t2.core t.iss.core).regs = (t.core t.iss.core).regs := by rw [h.reads.1.core]
theorem cmds : t2.me.cmds = t.me.cmds := by rw [State.me, h.iss, h.reads.1.ctx]

end Multiplies

/-- Settles O21: an instruction's result is pushed (`exec_scalar`, `State.result_clear`), and each queue's push by its own cases. -/
theorem queuePushes : Obligations.QueuePushes := by
  unfold Obligations.QueuePushes
  intro i n s vals t v hi hd hv
  have h : Pushes i n s vals t v := ⟨hi, hd, hv⟩
  intro c slot a q id x clear
  refine ⟨fun hc => h.behind hc, fun hn hc => ⟨fun ha => ?_, fun hb ha hl => ?_, h.task hc hn⟩, fun hn hc => ⟨fun hl => ?_, h.chain hc hn⟩,
    fun hn hc => ?meq⟩
  · exact h.faults hc ((State.pushOf_tkq hn).trans (State.pushTask_fault ha))
  · exact h.room hc ((State.pushOf_tkq hn).trans (State.pushTask_room hb ha hl))
  · exact h.room hc ((State.pushOf_chq hn).trans (State.pushChain_room hl))
  case meq =>
    have hq : t.pushOf c slot n v = t.pushMatrix c slot v := State.pushOf_meq hn
    refine ⟨fun hf => ⟨_, h.ends hc (hq.trans (State.pushMatrix_staged hf)), .modCtx .., State.ctx_modCtx_self ..⟩,
      fun hf hp ho => h.faults hc (hq.trans (State.pushMatrix_privilege hf hp ho)),
      fun r hf ho hw => h.faults hc (hq.trans (State.pushMatrix_window hf ho hw)),
      fun hf ho hw hb => h.faults hc (hq.trans (State.pushMatrix_breaks hf ho hw hb)),
      fun hf hb hk hl => h.room hc (hq.trans (State.pushMatrix_zero_room hf hb hk hl)),
      fun hf hb hk hl => ?zero, fun pa pb idx t1 t2 hf ho hb hw hk ha hb' => ?multiply⟩
    case zero =>
      obtain ⟨u, he, hu, hme⟩ := h.command hc rfl (hq.trans (State.pushMatrix_zero hf hb hk hl)) ⟨rfl, rfl, rfl, rfl, rfl⟩
      exact ⟨u, _, he, hu, rfl, rfl, rfl, by rw [hme, Ctx.given_cmds]; rfl⟩
    case multiply =>
      have hm : Multiplies t t1 t2 v pa pb := ⟨hf, ho, hw, hb, hk, State.cmdPair_eq ha, State.cmdPair_eq hb'⟩
      have hpush := hq.trans hm.push
      refine ⟨fun hbad => h.faults hc (hpush.trans (State.multiply_bad (by simpa [pairBad] using hbad))), fun na nb hidx => ?_⟩
      have na' : ¬ pairBad v.toNat false pa := by simpa [pairBad] using na
      have nb' : ¬ pairBad v.toNat true pb := by simpa [pairBad] using nb
      have hperm : PermTaken (Tab.getD (t2.core c).regs.w (cmdPerm v.toNat - 1) {}) (cmdPerm v.toNat) (cmdRows v.toNat false) idx := by
        rw [hm.regs]; exact hidx
      refine ⟨fun hl => h.room hc (hpush.trans (State.multiply_room na' nb' hperm (by rw [hm.queues]; exact hl))), fun hl => ?_⟩
      have hl' : (t2.core c).q.meq.length < 8 := by rw [hm.queues]; exact hl
      have hy : { t2.me with cmds := t2.me.cmds ++ [(t2.hedge (hedgeKey c)).nextOp] } = { t2.me with cmds := t.me.cmds ++ [id] } := by
        rw [hm.cmds, hm.nextOp]
      cases hs : cmdPad v.toNat false && cmdPad v.toNat true with
      | true =>
        obtain ⟨u, he, hu, hme⟩ := h.command hc hm.iss (hpush.trans (State.multiply_next na' nb' hperm hl' hs)) ⟨rfl, rfl, rfl, rfl, rfl⟩
        refine ⟨u, _, hu, rfl, rfl, rfl, rfl, rfl, rfl, rfl, ?_⟩
        rw [hy, Ctx.given_fresh hf] at hme
        exact ⟨he, hme⟩
      | false =>
        obtain ⟨u, he, hu, hme⟩ := h.command_held hc hm.iss (hpush.trans (State.multiply_engine na' nb' hperm hl' hs)) ⟨rfl, rfl, rfl, rfl, rfl⟩
        refine ⟨u, _, hu, rfl, rfl, rfl, rfl, rfl, rfl, rfl, ?_⟩
        rw [hy, Ctx.given_fresh hf] at hme
        exact ⟨he, hme⟩

end Sys2Proof.Machine
end

section
/-! What finding where an access goes changes (04 R94 to R107), and memory's canonical form. -/

namespace Sys2Proof.Machine

/-! ### Memory's canonical form -/

/-- Settles O59: a write keeps the form (`Memory.wf_write`) and replaces its own bytes (`Memory.byte_write`). -/
theorem memoryCanonical : Obligations.MemoryCanonical :=
  ⟨Memory.wf_nil, fun m a n v h => ⟨Memory.wf_write h a n v, Memory.byte_write m a n v⟩⟩

/-! ### Where an access goes (04 R99, R105, R107) -/

/-- What locating an access for a thread may change: the order of the TLBs of its core and hedge, the results that its read of a record
has seen, and the count of free values. -/
structure LocateFrame (c slot : Nat) (s t : State) : Prop where
  state : t = { s with cores := t.cores, hedges := t.hedges, free := t.free }
  cores : ∀ e, e ≠ c → t.core e = s.core e
  core : t.core c = { s.core c with ctxs := (t.core c).ctxs, tlb := (t.core c).tlb }
  hedges : ∀ h, t.hedge h = { s.hedge h with l2tlb := (t.hedge h).l2tlb }
  ctxs : ∀ j, j ≠ slot → t.ctx c j = s.ctx c j
  ctx : t.ctx c slot = { s.ctx c slot with out := (t.ctx c slot).out }

namespace LocateFrame

variable {c slot : Nat} {s t u : State}

theorem refl (c slot : Nat) (s : State) : LocateFrame c slot s s := ⟨rfl, fun _ _ => rfl, rfl, fun _ => rfl, fun _ _ => rfl, rfl⟩

theorem trans (h : LocateFrame c slot s t) (g : LocateFrame c slot t u) : LocateFrame c slot s u where
  state := by rw [g.state, h.state]
  cores e he := (g.cores e he).trans (h.cores e he)
  core := by rw [g.core, h.core]
  hedges n := by rw [g.hedges, h.hedges]
  ctxs j hj := (g.ctxs j hj).trans (h.ctxs j hj)
  ctx := by rw [g.ctx, h.ctx]

/-- A free value taken. -/
theorem free (c slot : Nat) (s : State) (n : Nat) : LocateFrame c slot s { s with free := n } :=
  ⟨rfl, fun _ _ => rfl, rfl, fun _ => rfl, fun _ _ => rfl, rfl⟩

/-- A result that a read has seen. -/
theorem seen (c slot : Nat) (s : State) (seq : Nat) : LocateFrame c slot s (s.modCtx c slot fun x => x.seen seq) where
  state := rfl
  cores e he := State.core_modCtx_ne s slot _ he
  core := by rw [State.core_modCtx_self]; rfl
  hedges _ := rfl
  ctxs j hj := State.ctx_modCtx_ne s c _ hj
  ctx := by rw [State.ctx_modCtx_self]; rfl

/-- A translation put first in both TLBs. -/
theorem fillTlb (c slot : Nat) (s : State) (e : TlbEntry) : LocateFrame c slot s (s.fillTlb c e) where
  state := rfl
  cores d hd := by rw [State.fillTlb, State.core_modHedge, State.core_modCore_ne _ _ hd]
  core := by rw [State.fillTlb, State.core_modHedge, State.core_modCore_self]
  hedges n := by
    rw [State.fillTlb]
    by_cases hn : n = hedgeKey c
    · subst hn; rw [State.hedge_modHedge_self, State.hedge_modCore]
    · rw [State.hedge_modHedge_ne _ _ hn, State.hedge_modCore]
  ctxs j _ := by simp only [State.fillTlb, State.ctx, State.core_modHedge, State.core_modCore_self]; rfl
  ctx := by simp only [State.fillTlb, State.ctx, State.core_modHedge, State.core_modCore_self]; rfl

theorem useTlb (c slot : Nat) (s : State) (asid va : Nat) : LocateFrame c slot s (s.useTlb c asid va) := by
  unfold State.useTlb
  split
  · exact fillTlb ..
  · exact refl ..

theorem useTlbs (c slot : Nat) (asid r : Nat) (l : List Int) : ∀ s : State, LocateFrame c slot s (s.useTlbs c asid r l) := by
  unfold State.useTlbs
  split
  · induction l with
    | nil => exact refl c slot
    | cons e l ih => exact fun s => (useTlb c slot s asid _).trans (ih _)
  · exact refl c slot

/-- The read of a record sees the old value or the new one of an entry that is changing (03 R72; log 5). -/
theorem record? {n : Nat} {r : Option Nat} (h : s.record? c slot n = (r, t)) : LocateFrame c slot s t := by
  unfold State.record? State.takeBit at h
  dsimp only at h
  split at h
  · cases h; exact refl ..
  · split at h
    · split at h <;> cases h
      · exact free ..
      · exact (free c slot s _).trans (seen ..)
    · split at h
      · cases h; exact refl ..
      · split at h <;> cases h
        · exact refl ..
        · exact free ..

end LocateFrame

/-- Settles O10: the record is read (`LocateFrame.record?`), then the translation is used (`LocateFrame.useTlbs`). -/
theorem locatingChanges : Obligations.LocatingChanges := by
  unfold Obligations.LocatingChanges
  rintro t u bf n kind f v found ⟨r, w, hr, rfl, -⟩
  have hw := LocateFrame.record? hr
  obtain ⟨state, cores, core, hedges, ctxs, ctx⟩ := hw.trans (LocateFrame.useTlbs t.iss.core t.iss.slot w.me.asid r [f.offset r v] w)
  have hi : (w.useTlbs t.iss.core w.me.asid r [f.offset r v]).iss = t.iss := by rw [state]
  exact ⟨state, cores, core, hedges, ctxs, by rw [State.me, hi]; exact ctx⟩

end Sys2Proof.Machine
end

section
/-! Memory stays canonical through what the instructions are built from (04 R81, R91; log 2): reads, accesses, homes, contexts, pushes. -/

namespace Sys2Proof.Machine

/-! ### The form kept by what a state is built from -/

/-- The memory that an instruction's act leaves is canonical. -/
def Act.Wf : Act → Prop
  | .next s | .goto _ s | .park _ _ s | .hold _ s | .gone s => s.mem.wf = true
  | .fault .. => True

/-- The memory that an event leaves is canonical; a fault leaves none. -/
def Out.Wf : Out → Prop
  | .next s => s.mem.wf = true
  | _ => True

@[simp] theorem Act.wf_next (s : State) : (Act.next s).Wf = (s.mem.wf = true) := rfl
@[simp] theorem Act.wf_goto (d) (s : State) : (Act.goto d s).Wf = (s.mem.wf = true) := rfl
@[simp] theorem Act.wf_park (d w) (s : State) : (Act.park w d s).Wf = (s.mem.wf = true) := rfl
@[simp] theorem Act.wf_hold (w) (s : State) : (Act.hold w s).Wf = (s.mem.wf = true) := rfl
@[simp] theorem Act.wf_gone (s : State) : (Act.gone s).Wf = (s.mem.wf = true) := rfl
@[simp] theorem Act.wf_fault (c d o) : (Act.fault c d o).Wf = True := rfl
@[simp] theorem Out.wf_next (s : State) : Out.Wf (.next s) = (s.mem.wf = true) := rfl

theorem Act.Wf.of_next {a : Act} {t : State} (h : a.Wf) (e : a = .next t) : t.mem.wf = true := by subst e; exact h
theorem Act.Wf.of_hold {a : Act} {t : State} {w} (h : a.Wf) (e : a = .hold w t) : t.mem.wf = true := by subst e; exact h

@[simp] theorem State.mem_ite (c : Prop) [Decidable c] (s t : State) : (if c then s else t).mem = if c then s.mem else t.mem := apply_ite ..
@[simp] theorem Act.wf_ite (c : Prop) [Decidable c] (a b : Act) : (if c then a else b).Wf = if c then a.Wf else b.Wf := apply_ite ..
@[simp] theorem Out.wf_ite (c : Prop) [Decidable c] (a b : Out) : Out.Wf (if c then a else b) = if c then a.Wf else b.Wf := apply_ite ..
@[simp] theorem Memory.wf_ite (c : Prop) [Decidable c] (m n : Memory) : Memory.wf (if c then m else n) = if c then m.wf else n.wf := apply_ite ..

theorem State.wf_of_mem {s t : State} (e : t.mem = s.mem) (h : s.mem.wf = true) : t.mem.wf = true := e ▸ h
theorem State.wf_ite_of {c : Prop} [Decidable c] {s t : State} (hs : s.mem.wf = true) (ht : t.mem.wf = true) :
    (if c then s else t).mem.wf = true := by
  split <;> assumption
theorem State.wf_of_snd {α : Type} {p : α × State} {a : α} {t : State} (e : p = (a, t)) (h : p.2.mem.wf = true) : t.mem.wf = true := by
  subst e; exact h
theorem State.wf_of_fst {α : Type} {p : State × α} {a : α} {t : State} (e : p = (t, a)) (h : p.1.mem.wf = true) : t.mem.wf = true := by
  subst e; exact h

@[simp] theorem State.mem_foldl {α : Type} {f : State → α → State} (hf : ∀ s a, (f s a).mem = s.mem) (l : List α) (s : State) :
    (l.foldl f s).mem = s.mem :=
  List.foldlRecOn (motive := fun t : State => t.mem = s.mem) _ _ rfl fun t h a _ => (hf t a).trans h
theorem State.wf_foldl {α : Type} {f : State → α → State} (hf : ∀ s a, s.mem.wf = true → (f s a).mem.wf = true) (l : List α) (s : State)
    (h : s.mem.wf = true) : (l.foldl f s).mem.wf = true :=
  List.foldlRecOn (motive := fun t : State => t.mem.wf = true) _ _ h fun t h a _ => hf t a h
theorem Memory.wf_foldl {α : Type} {f : Memory → α → Memory} (hf : ∀ m a, m.wf = true → (f m a).wf = true) (l : List α) (m : Memory)
    (h : m.wf = true) : (l.foldl f m).wf = true :=
  List.foldlRecOn (motive := fun m : Memory => m.wf = true) _ _ h fun m h a _ => hf m a h

/-- Both ends of an access that may stop leave a canonical memory; `f` finds the state in what a completed one gives. -/
def LeftWf {ε α : Type} (f : α → State) : Except (ε × State) α → Prop
  | .ok a => (f a).mem.wf = true
  | .error x => x.2.mem.wf = true

theorem LeftWf.ok {ε α : Type} {f : α → State} {r : Except (ε × State) α} {a : α} (h : LeftWf f r) (e : r = .ok a) :
    (f a).mem.wf = true := by
  subst e; exact h
theorem LeftWf.error {ε α : Type} {f : α → State} {r : Except (ε × State) α} {x : ε × State} (h : LeftWf f r) (e : r = .error x) :
    x.2.mem.wf = true := by
  subst e; exact h
theorem LeftWf.of_ok {ε α β : Type} {f : α → State} {g : β → State} {r : Except (ε × State) α} {a : α} {b : β} (h : LeftWf f r)
    (e : r = .ok a) (hb : g b = f a) : LeftWf (ε := ε) g (.ok b) := by
  change (g b).mem.wf = true
  rw [hb]
  exact h.ok e

/-! ### Ops -/

@[simp] theorem State.mem_takeBit (s : State) : (s.takeBit).2.mem = s.mem := rfl
@[simp] theorem State.mem_takeNat (s : State) : (s.takeNat).2.mem = s.mem := rfl

@[simp] theorem State.wf_record (s : State) (num : Nat) (r : FaultRec) (h : s.mem.wf = true) : (s.record num r).mem.wf = true := by
  unfold State.record
  split
  · exact h
  · dsimp only
    split
    · simpa using h
    · simp only [State.mem_modJob]
      exact Memory.wf_write (Memory.wf_write (Memory.wf_write (Memory.wf_write (Memory.wf_write (Memory.wf_write h ..) ..) ..) ..) ..) ..

@[simp] theorem State.wf_recordFor (s : State) (asid : Nat) (r : FaultRec) (h : s.mem.wf = true) : (s.recordFor asid r).mem.wf = true := by
  unfold State.recordFor
  split <;> simp [h]
@[simp] theorem State.mem_postLanding (s : State) (asid : Nat) (l : LandFrom) (status : Nat) :
    (s.postLanding asid l status).mem = s.mem := by simp [State.postLanding]
@[simp] theorem State.mem_postOnce (s : State) (i : Instr) : (s.postOnce i).mem = s.mem := by simp [State.postOnce]

@[simp] theorem State.wf_threadFault (s : State) (c slot code detail : Nat) (second origin : Bool) (h : s.mem.wf = true) :
    (s.threadFault c slot code detail second origin).mem.wf = true := by
  simp only [State.threadFault]
  (repeat' split) <;> simp [h]

@[simp] theorem State.wf_porterFault (s : State) (c code detail : Nat) (second origin : Bool) (h : s.mem.wf = true) :
    (s.porterFault c code detail second origin).mem.wf = true := by
  simp only [State.porterFault]
  (repeat' split) <;> simp [h]

@[simp] theorem State.wf_takeFault (s : State) (c slot code detail : Nat) (second origin : Bool) (h : s.mem.wf = true) :
    (s.takeFault c slot code detail second origin).mem.wf = true := by simp [State.takeFault, h]

/-! ### Operands -/

@[simp] theorem State.mem_readEither (s : State) (c slot : Nat) (d : Dest) (now_ : Word) (view : Ctx) :
    (s.readEither c slot d now_ view).2.mem = s.mem := by
  simp only [State.readEither]
  (repeat' split) <;> simp

theorem State.mem_readOp {s t : State} {c slot pos : Nat} {o : Operand} {v : Word} (e : s.readOp c slot pos o = .val v t) : t.mem = s.mem := by
  rw [(State.readOp_frame e).state]
theorem State.mem_readOps {s t : State} {c slot pos : Nat} {l : List Operand} {vs : List Word} (e : s.readOps c slot pos l = .ok (vs, t)) :
    t.mem = s.mem := by
  rw [(State.readOps_frame l e).state]
@[simp] theorem State.mem_readVec (s : State) (c slot n : Nat) : (s.readVec c slot n).2.mem = s.mem := by
  simp only [State.readVec]
  split <;> simp

@[simp] theorem State.mem_readVecs (c slot k : Nat) : ∀ (s : State) (n : Nat), (s.readVecs c slot n k).2.mem = s.mem := by
  induction k with
  | zero => exact fun _ _ => rfl
  | succ k ih => intro s n; simp [State.readVecs, ih]

@[simp] theorem State.mem_readMains (c slot k : Nat) : ∀ (s : State) (n : Nat), (s.readMains c slot n k).2.mem = s.mem := by
  induction k with
  | zero => exact fun _ _ => rfl
  | succ k ih => intro s n; simp [State.readMains, ih]

@[simp] theorem State.mem_writeOp (s : State) (c slot : Nat) (o : Operand) (v : Word) : (s.writeOp c slot o v).mem = s.mem := rfl
@[simp] theorem State.mem_writeVecBits (s : State) (c slot n : Nat) (v mask : Nat) : (s.writeVecBits c slot n v mask).mem = s.mem := rfl
@[simp] theorem State.mem_writeMask (s : State) (c slot n : Nat) (v : Nat) : (s.writeMask c slot n v).mem = s.mem := rfl
@[simp] theorem State.mem_settlePend (s : State) (c slot : Nat) (p : Pending) : (settlePend s c slot p).mem = s.mem := by
  simp only [settlePend]
  (repeat' split) <;> simp
@[simp] theorem State.mem_passMarker (s : State) (c slot : Nat) : (s.passMarker c slot).mem = s.mem := by simp [State.passMarker]

/-! ### Queues -/

@[simp] theorem State.mem_release (s : State) (c slot : Nat) : (s.release c slot).mem = s.mem := by simp [State.release]
@[simp] theorem State.mem_deliver (s : State) (c slot seq v : Nat) : (s.deliver c slot seq v).mem = s.mem := by
  simp only [State.deliver]
  split <;> simp
@[simp] theorem State.mem_fillPop (s : State) (c slot seq n : Nat) (v : Word) (t : Nat) : (s.fillPop c slot seq n v t).mem = s.mem := by
  simp only [State.fillPop]
  (repeat' split) <;> simp

@[simp] theorem State.mem_serve (c n k : Nat) : ∀ s : State, (s.serve c n k).mem = s.mem := by
  induction k with
  | zero => exact fun _ => rfl
  | succ k ih => intro s; simp only [State.serve]; (repeat' split) <;> simp [ih]

@[simp] theorem State.mem_advance (s : State) (c ch : Nat) : (s.advance c ch).mem = s.mem := rfl
@[simp] theorem State.mem_arrive (s : State) (c n : Nat) (v : Word) (t : Nat) : (s.arrive c n v t).mem = s.mem := by simp [State.arrive]

@[simp] theorem State.mem_refill (c k : Nat) : ∀ s : State, (s.refill c k).mem = s.mem := by
  induction k with
  | zero => exact fun _ => rfl
  | succ k ih =>
    intro s
    simp only [State.refill]
    (repeat' split) <;> simp [ih, State.mem_foldl fun (s : State) ch => State.mem_advance s c ch]

@[simp] theorem State.mem_enlist (s : State) (c n slot seq : Nat) : (s.enlist c n slot seq).mem = s.mem := rfl

/-! ### Access -/

@[simp] theorem State.mem_record? (s : State) (c slot n : Nat) : (s.record? c slot n).2.mem = s.mem := by
  simp only [State.record?]
  (repeat' split) <;> simp
@[simp] theorem State.mem_fillTlb (s : State) (c : Nat) (e : TlbEntry) : (s.fillTlb c e).mem = s.mem := rfl
@[simp] theorem State.mem_useTlb (s : State) (c asid va : Nat) : (s.useTlb c asid va).mem = s.mem := by
  unfold State.useTlb
  split <;> simp

/-! ### Coherence -/

@[simp] theorem State.mem_setHome (s : State) (key : Nat) (h : Home) : (s.setHome key h).mem = s.mem := rfl
@[simp] theorem State.mem_setEntry (s : State) (e : HomeEntry) : (s.setEntry e).mem = s.mem := rfl
@[simp] theorem State.mem_joinCheck (s : State) (line : Nat) : (s.joinCheck line).mem = s.mem := by
  exact State.mem_foldl (fun s (e : Nat × Die) => State.mem_foldl (f := fun s a => s.post (.joinWake e.1 a)) (fun _ _ => rfl) _ s) _ s
@[simp] theorem State.mem_imageWrite (s : State) (c line data mask : Nat) :
    (s.imageWrite c line data mask).mem = s.mem := by simp [State.imageWrite]
@[simp] theorem State.wf_putLine (s : State) (c line data mask : Nat) (h : s.mem.wf = true) :
    (s.putLine c line data mask).mem.wf = true := by simp [State.putLine, h, Memory.wf_write]
@[simp] theorem State.mem_dropLine (s : State) (l : CacheLine) : (s.dropLine l).mem = s.mem := by simp [State.dropLine]
@[simp] theorem State.mem_moveOwner (s : State) (l : CacheLine) (owner : Nat) : (s.moveOwner l owner).mem = s.mem := by
  simp only [State.moveOwner]
  (repeat' split) <;> simp
@[simp] theorem State.mem_evictLine (s : State) (h : Nat) (l : CacheLine) : (s.evictLine h l).mem = s.mem := by
  simp only [State.evictLine]
  (repeat' split) <;> simp
@[simp] theorem State.mem_cacheLine (s : State) (c : Nat) (l : CacheLine) : (s.cacheLine c l).mem = s.mem := by
  simp only [State.cacheLine]
  split <;> simp
@[simp] theorem State.mem_fromVictim (s : State) (c line : Nat) : (s.fromVictim c line).mem = s.mem := by
  simp only [State.fromVictim]
  split <;> simp
@[simp] theorem State.mem_l2Touch (s : State) (line : Nat) (fill dirty : Bool) :
    (s.l2Touch line fill dirty).mem = s.mem := by simp [State.l2Touch]

theorem State.mem_homeTake_error {s t : State} {line : Nat} {who : Option Nat} (e : s.homeTake line who = .error t) : t.mem = s.mem := by
  unfold State.homeTake at e
  dsimp only at e
  (repeat' split at e) <;> cases e <;> simp

theorem State.mem_homeTake_ok {s t : State} {line : Nat} {who : Option Nat} {x : HomeEntry} (e : s.homeTake line who = .ok (x, t)) : t.mem = s.mem := by
  unfold State.homeTake at e
  dsimp only at e
  (repeat' split at e) <;> cases e <;> simp

@[simp] theorem State.mem_finishAccess (s : State) (c slot : Nat) (a : Access) (ts got : Nat) :
    (s.finishAccess c slot a ts got).mem = s.mem := by
  simp only [State.finishAccess]
  (repeat' split) <;> simp

@[simp] theorem State.wf_accessFault (s : State) (c slot : Nat) (a : Access) (code detail : Nat) (origin : Bool) (h : s.mem.wf = true) :
    (s.accessFault c slot a code detail origin).mem.wf = true := by
  simp only [State.accessFault]
  split <;> simp [h]

@[simp] theorem State.wf_poisonedAccess (s : State) (c slot : Nat) (a : Access) (origin : Bool) (h : s.mem.wf = true) :
    (s.poisonedAccess c slot a origin).mem.wf = true := by simp [State.poisonedAccess, h]
@[simp] theorem State.wf_performAt (s : State) (c slot : Nat) (a : Access) (wts rts : Nat) (h : s.mem.wf = true) :
    (s.performAt c slot a wts rts).1.mem.wf = true := by simp [State.performAt, h]

@[simp] theorem State.wf_performSram (s : State) (c slot : Nat) (a : Access) (h : s.mem.wf = true) :
    (s.performSram c slot a).mem.wf = true := by
  unfold State.performSram
  split <;> simp [h]

@[simp] theorem State.wf_performOwned (s : State) (c slot : Nat) (a : Access) (l : CacheLine) (h : s.mem.wf = true) :
    (s.performOwned c slot a l).mem.wf = true := by
  simp only [State.performOwned]
  (repeat' split) <;> simp [h]

@[simp] theorem State.wf_performLeased (s : State) (c slot : Nat) (a : Access) (l : CacheLine) (h : s.mem.wf = true) :
    (s.performLeased c slot a l).mem.wf = true := by simp [State.performLeased, h]
@[simp] theorem State.wf_headAccess (s : State) (c slot : Nat) (h : s.mem.wf = true) : (s.headAccess c slot).1.mem.wf = true := by
  simp only [State.headAccess]
  (repeat' split) <;> simp [h]

@[simp] theorem State.wf_pump (c slot k : Nat) : ∀ s : State, s.mem.wf = true → (s.pump c slot k).mem.wf = true := by
  induction k with
  | zero => exact fun _ h => h
  | succ k ih =>
    intro s h
    have hh := State.wf_headAccess s c slot h
    unfold State.pump
    split <;> rename_i e <;> rw [e] at hh
    · exact ih _ hh
    · exact hh

@[simp] theorem State.wf_pumpAll (s : State) (c slot : Nat) (h : s.mem.wf = true) :
    (s.pumpAll c slot).mem.wf = true := by simp [State.pumpAll, h]
@[simp] theorem State.wf_access (s : State) (c slot : Nat) (l : List Access) (h : s.mem.wf = true) :
    (s.access c slot l).mem.wf = true := by simp [State.access, h]
@[simp] theorem State.mem_hold (s : State) (i : Instr) : (s.hold i).mem = s.mem := rfl
@[simp] theorem State.mem_letIn (s : State) : (s.letIn).mem = s.mem := rfl

@[simp] theorem State.wf_pumpLine (s : State) (line : Nat) (h : s.mem.wf = true) : (s.pumpLine line).mem.wf = true := by
  unfold State.pumpLine
  refine State.wf_foldl (fun s e h => State.wf_foldl (fun s x h => ?_) _ s h) _ s h
  split <;> simp [h]

@[simp] theorem State.mem_pin (s : State) (line : Nat) : (s.pin line).mem = s.mem := rfl
@[simp] theorem State.wf_unpin (s : State) (line : Nat) (h : s.mem.wf = true) : (s.unpin line).mem.wf = true := by simp [State.unpin, h]

/-! ### Threads -/

@[simp] theorem State.mem_mapUse (s : State) (c asid blk : Nat) : (s.mapUse c asid blk).mem = s.mem := rfl
@[simp] theorem State.mem_count (s : State) (asid : Nat) (f : Counts → Counts) : (s.count asid f).mem = s.mem := by
  unfold State.count
  split <;> simp
@[simp] theorem State.mem_countSent (s : State) (asid : Nat) (cut : Bool) : (s.countSent asid cut).mem = s.mem := by simp [State.countSent]
@[simp] theorem State.mem_countGot (s : State) (asid : Nat) (cut : Bool) : (s.countGot asid cut).mem = s.mem := by simp [State.countGot]
@[simp] theorem State.mem_sendTo (s : State) (asid dst : Nat) (cut : Bool) (i : Instr) : (s.sendTo asid dst cut i).mem = s.mem := by
  simp only [State.sendTo]
  (repeat' split) <;> simp
@[simp] theorem State.mem_holdPlacement (s : State) (die : Nat) (m : Travel) :
    (s.holdPlacement die m).mem = s.mem := by simp [State.holdPlacement]
@[simp] theorem State.mem_freezeJob (s : State) (asids : List Nat) : (s.freezeJob asids).mem = s.mem := rfl
@[simp] theorem State.wf_recount (s : State) (j : Job) (i v : Nat) (h : s.mem.wf = true) : (s.recount j i v).mem.wf = true := by
  simp only [State.recount]
  split <;> simp [h, Memory.wf_write]
@[simp] theorem State.wf_discard (s : State) (asid : Nat) (h : s.mem.wf = true) : (s.discard asid).mem.wf = true := by
  simp only [State.discard]
  (repeat' split) <;> simp [h]
@[simp] theorem State.wf_discardMsg (s : State) (asid : Nat) (cut : Bool) (h : s.mem.wf = true) :
    (s.discardMsg asid cut).mem.wf = true := by simp [State.discardMsg, h]
@[simp] theorem State.wf_overflowStop (s : State) (die asid : Nat) (h : s.mem.wf = true) : (s.overflowStop die asid).mem.wf = true := by
  unfold State.overflowStop
  split <;> simp [h]
@[simp] theorem State.wf_spill (s : State) (c asid : Nat) (q : QSlot) (h : s.mem.wf = true) :
    (s.spill c asid q).mem.wf = true := by simp [State.spill, h]

theorem State.mem_pushDeque {s t : State} {c : Nat} {m : Travel} (e : s.pushDeque c m = some t) : t.mem = s.mem := by
  unfold State.pushDeque at e
  dsimp only at e
  (repeat' split at e) <;> cases e <;> simp

@[simp] theorem State.mem_returnSend (s : State) (m : SendMsg) : (s.returnSend m).mem = s.mem := by simp [State.returnSend]
@[simp] theorem State.mem_sendWrite (s : State) (c slot : Nat) (m : SendMsg) : (s.sendWrite c slot m).mem = s.mem := rfl
@[simp] theorem State.mem_sendInto (s : State) (c slot : Nat) (m : SendMsg) : (s.sendInto c slot m).mem = s.mem := by
  simp only [State.sendInto]
  (repeat' split) <;> simp
@[simp] theorem State.mem_dropSlot (s : State) (c : Nat) (q : QSlot) : (s.dropSlot c q).mem = s.mem := by simp [State.dropSlot]

@[simp] theorem State.mem_redeliverTo (s : State) (c old asid slot : Nat) : (s.redeliverTo c old asid slot).mem = s.mem := by
  unfold State.redeliverTo
  refine State.mem_foldl (fun s q => ?_) _ s
  split <;> simp

@[simp] theorem State.mem_gather (s : State) (c slot : Nat) (m : Travel) : (s.gather c slot m).mem = s.mem := by
  simp only [State.gather]
  split <;> simp

theorem State.mem_takeIn {s t : State} {c : Nat} {m : Travel} (e : s.takeIn c m = some t) : t.mem = s.mem := by
  unfold State.takeIn at e
  dsimp only at e
  (repeat' split at e) <;> cases e <;> simp

@[simp] theorem State.mem_freeCtx (s : State) (c slot : Nat) : (s.freeCtx c slot).mem = s.mem := rfl
@[simp] theorem State.wf_resumeThread (s : State) (c slot : Nat) (h : s.mem.wf = true) :
    (s.resumeThread c slot).mem.wf = true := by simp [State.resumeThread, h]

theorem State.wf_readmitGroup {s t : State} {c group : Nat} (h : s.mem.wf = true) (e : s.readmitGroup c group = some t) : t.mem.wf = true := by
  revert e
  unfold State.readmitGroup
  dsimp only
  split
  · nofun
  · split
    · split
      · split
        · intro e; cases e; simp [h]
        · nofun
      · nofun
    · split
      · nofun
      · split
        · nofun
        · split
          · nofun
          · intro e
            obtain ⟨u, hu, rfl⟩ := Option.map_eq_some_iff.1 e
            simp [State.mem_takeIn hu, h]

theorem State.mem_readmitDeque {s t : State} {c : Nat} (e : s.readmitDeque c = some t) : t.mem = s.mem := by
  unfold State.readmitDeque at e
  split at e
  · cases e
  · split at e
    · cases e
    · split at e
      · cases e
      · split at e
        · cases e
        · rw [State.mem_takeIn e, State.mem_setCore]

@[simp] theorem State.wf_readmit (c k : Nat) : ∀ s : State, s.mem.wf = true → (s.readmit c k).mem.wf = true := by
  induction k with
  | zero => exact fun _ h => h
  | succ k ih =>
    intro s h
    unfold State.readmit
    split
    · next e => exact ih _ (State.wf_readmitGroup h e)
    · split
      · next e => exact ih _ (State.wf_readmitGroup h e)
      · split
        · next e => exact ih _ (by rw [State.mem_readmitDeque e]; exact h)
        · exact h

@[simp] theorem State.wf_vacate (s : State) (c slot : Nat) (h : s.mem.wf = true) :
    (s.vacate c slot).mem.wf = true := by simp [State.vacate, h]

@[simp] theorem State.wf_accept (s : State) (c : Nat) (m : Travel) (body : Travel → SlotBody) (h : s.mem.wf = true) :
    (s.accept c m body).mem.wf = true := by
  unfold State.accept
  dsimp only
  split
  · simp [h]
  · split
    · next e => rw [State.mem_takeIn e]; exact h
    · simp [h]

/-! ### Issue -/

@[simp] theorem State.mem_markerAt (s : State) (c slot : Nat) (mark : Bool) :
    (s.markerAt c slot mark).mem = s.mem := by simp [State.markerAt]
@[simp] theorem State.mem_complete (s : State) (c slot : Nat) (i : Instr) (pc : PC) (mark : Bool) :
    (s.complete c slot i pc mark).mem = s.mem := by simp [State.complete]
@[simp] theorem State.mem_request (s : State) (c slot : Nat) (w : Wait) : (s.request c slot w).mem = s.mem := by
  unfold State.request
  split <;> simp
@[simp] theorem State.mem_unload (s : State) (c slot : Nat) (i : Instr) : (s.unload c slot i).mem = s.mem := by
  unfold State.unload
  split <;> simp

@[simp] theorem State.wf_conclude (s : State) (c slot : Nat) (i : Instr) {a : Act} (h : s.mem.wf = true) (ha : a.Wf) : (s.conclude c slot i a).mem.wf = true := by
  cases a with
  | fault code d o => simp [State.conclude, h]
  | _ => simp_all [State.conclude]

@[simp] theorem State.mem_readDefer (c slot : Nat) (l : List Operand) : ∀ (s : State) (pos : Nat), (s.readDefer c slot pos l).2.2.2.mem = s.mem := by
  induction l with
  | nil => exact fun _ _ => rfl
  | cons o l ih =>
    intro s pos
    unfold State.readDefer
    split
    · simp [ih]
    · next e => simp [ih, State.mem_readOp e]

@[simp] theorem State.wf_deferPop (s : State) (c slot : Nat) (i : Instr) (h : s.mem.wf = true) :
    (s.deferPop c slot i).Wf := by simp [State.deferPop, h]

@[simp] theorem State.mem_share (s u : State) (c slot p : Nat) (i : Instr) : (s.share u c slot p i).mem = u.mem := by
  unfold State.share
  dsimp only
  (repeat' split) <;> simp

@[simp] theorem State.wf_pairLoadAct {t : State} (c slot p : Nat) (i : Instr) (vals : List Word) {body : State → Act} (h : t.mem.wf = true)
    (hb : (body t).Wf) : (t.pairLoadAct c slot p i vals body).Wf := by
  unfold State.pairLoadAct
  dsimp only
  split
  · (repeat' split) <;> simp [h]
  · split
    · exact h
    · split
      · next e => rw [e] at hb; simpa using hb
      · exact hb

@[simp] theorem State.wf_pairAct (s : State) {t : State} (c slot : Nat) (i : Instr) (vals : List Word) {body : State → Act} (h : t.mem.wf = true)
    (hb : (body t).Wf) : (s.pairAct t c slot i vals body).Wf := by
  unfold State.pairAct
  split
  · exact hb
  · dsimp only
    split
    · split
      · exact h
      · simp [h, hb]
    · split
      · exact hb
      · split
        · exact h
        · split
          · exact h
          · split
            · exact h
            · generalize body t = a at hb ⊢
              cases a with
              | fault code d o => trivial
              | gone u =>
                dsimp only
                split
                · trivial
                · exact State.wf_vacate _ _ _ hb
              | _ =>
                dsimp only
                split
                · trivial
                · simpa using hb

@[simp] theorem State.wf_issue {s : State} (i : Instr) {body : List Word → State → Act} (h : s.mem.wf = true)
    (hb : ∀ v t, t.mem.wf = true → (body v t).Wf) : (s.issue i body).mem.wf = true := by
  unfold State.issue
  dsimp only
  split
  · exact h
  · split
    · exact State.wf_conclude s _ _ i h h
    · refine State.wf_conclude s _ _ i h ?_
      split
      · trivial
      · split
        · split
          · simp [h]
          · exact h
        · next e =>
          have ht := State.wf_of_mem (State.mem_readOps e) h
          exact State.wf_pairAct s _ _ i _ ht (hb _ _ ht)

theorem Out.wf_issue {s : State} {i : Instr} {body : List Word → State → Act} (h : s.mem.wf = true)
    (hb : ∀ v t, t.mem.wf = true → (body v t).Wf) : Out.Wf (.next (s.issue i body)) := State.wf_issue i h hb

/-! ### Transfer -/

@[simp] theorem State.mem_setLink (s : State) (c slot kind : Nat) : (s.setLink c slot kind).mem = s.mem := by simp [State.setLink]

@[simp] theorem State.wf_settleAt (s : State) (c slot kind : Nat) (p : Placed) (t : Nat) (h : s.mem.wf = true) :
    (s.settleAt c slot kind p t).Wf := by
  simp only [State.settleAt]
  (repeat' split) <;> simp [h]

@[simp] theorem State.wf_forkChild (s : State) (c slot t : Nat) (j : Option Nat) (h : s.mem.wf = true) : (s.forkChild c slot t j).Wf := by
  unfold State.forkChild
  dsimp only
  split
  · exact h
  · split
    · exact h
    · split
      · trivial
      · split
        · split
          · next e => simp [State.mem_pushDeque e, h]
          · exact h
        · (repeat' split) <;> simp [h]

@[simp] theorem State.wf_transfer (s : State) (c slot kind : Nat) (tg : Target) (h : s.mem.wf = true) : (s.transfer c slot kind tg).Wf := by
  simp only [State.transfer]
  (repeat' split) <;> simp [h]
@[simp] theorem State.mem_sendOff (s : State) (c : Nat) (e : Option MapEntry) (m : Travel) : (s.sendOff c e m).mem = s.mem := by
  simp only [State.sendOff]
  (repeat' split) <;> simp
@[simp] theorem State.wf_depart (s : State) (c slot : Nat) (h : s.mem.wf = true) : (s.depart c slot).mem.wf = true := by
  simp only [State.depart]
  (repeat' split) <;> simp [h]
@[simp] theorem State.mem_saveContext (s : State) (c slot : Nat) : (s.saveContext c slot).mem = s.mem := rfl

/-! ### Cut -/

@[simp] theorem State.mem_modSnap (s : State) (job tag : Nat) (f : Snap → Snap) : (s.modSnap job tag f).mem = s.mem := rfl
@[simp] theorem State.mem_cutHedge (s : State) (h : Nat) : (s.cutHedge h).mem = s.mem := by
  unfold State.cutHedge
  split <;> simp
@[simp] theorem State.mem_cutCore (s : State) (c : Nat) : (s.cutCore c).mem = s.mem := by
  unfold State.cutCore
  split <;> simp

@[simp] theorem State.mem_accepting (s : State) (c asid : Nat) (cut : Bool) (again : Instr) :
    (s.accepting c asid cut again).mem = s.mem := by
  simp only [State.accepting]
  split <;> simp

/-! ### Push -/

@[simp] theorem State.mem_pushOp (s : State) (c slot : Nat) (op : EngOp) : (s.pushOp c slot op).mem = s.mem := rfl

@[simp] theorem State.wf_permOf {s : State} {c n : Nat} {a : Act} (h : s.mem.wf = true) (e : s.permOf c n = .error a) : a.Wf := by
  unfold State.permOf at e
  dsimp only at e
  (repeat' split at e) <;> cases e
  · exact h
  · trivial

theorem State.mem_cmdPair (s : State) (c slot d : Nat) (b : Bool) : (s.cmdPair c slot d b).2.mem = s.mem := by
  rw [(State.cmdPair_frame s c slot d b).1.state]

theorem State.wf_multiply (s : State) (c slot : Nat) (v : Word) (pa pb : Word × Word) (h : s.mem.wf = true) : (s.multiply c slot v pa pb).Wf := by
  unfold State.multiply
  dsimp only
  split
  · trivial
  · split
    · trivial
    · split
      · next e => exact State.wf_permOf h e
      · simp [State.pushCmd, h]

@[simp] theorem State.wf_pushMatrix (s : State) (c slot : Nat) (v : Word) (h : s.mem.wf = true) : (s.pushMatrix c slot v).Wf := by
  unfold State.pushMatrix
  extract_lets d x owner pair id bad 
  split
  · exact h
  · split
    · trivial
    · split
      · trivial
      · split
        · trivial
        · split
          · split
            · exact h
            · simp [h]
          · refine State.wf_multiply ((s.cmdPair c slot v.toNat false).2.cmdPair c slot v.toNat true).2 c slot v (s.cmdPair c slot v.toNat false).1
                ((s.cmdPair c slot v.toNat false).2.cmdPair c slot v.toNat true).1 ?_
            rw [State.mem_cmdPair, State.mem_cmdPair]
            exact h

@[simp] theorem State.mem_stageOp (s : State) (op : EngOp) : (s.stageOp op).2.mem = s.mem := by
  simp only [State.stageOp]
  split <;> simp
@[simp] theorem State.mem_stageWaiting (s : State) (c slot : Nat) : (s.stageWaiting c slot).mem = s.mem := by simp [State.stageWaiting]
@[simp] theorem State.wf_pushChain (s : State) (c slot : Nat) (v : Word) (h : s.mem.wf = true) :
    (s.pushChain c slot v).Wf := by simp [State.pushChain, h]
@[simp] theorem State.wf_pushTask (s : State) (c slot : Nat) (v : Word) (h : s.mem.wf = true) :
    (s.pushTask c slot v).Wf := by simp [State.pushTask, h]

@[simp] theorem State.wf_result (s : State) (c slot : Nat) (i : Instr) (o : Operand) (v : Word) (h : s.mem.wf = true) : (s.result c slot i o v).Wf := by
  have key : ∀ (a : Act) (f : State → State), a.Wf → (∀ t, (f t).mem = t.mem) → Act.Wf (match a with
    | .next t => .next (f t)
    | .park w d t => .park w d (f t)
    | .hold w t => .hold w (if w == .engine then f t else t)
    | a => a) := by
    intro a f ha hf
    cases a <;> simp_all
  unfold State.result
  refine key _ _ ?_ fun t => ?_
  · split
    · split
      · exact h
      · (repeat' split) <;> simp [h, State.wf_pushChain, State.wf_pushTask, State.wf_pushMatrix]
    · simp [h]
  · simp

@[simp] theorem Act.wf_orBack {a : Act} {t : State} (ha : a.Wf) (h : t.mem.wf = true) : (a.orBack t).Wf := by
  cases a with
  | hold w u => simp only [Act.wf_hold] at ha; simp [Act.orBack, ha, h]
  | _ => exact ha

@[simp] theorem State.wf_behindPipe (s : State) (c slot : Nat) (a : Act) :
    (s.behindPipe c slot a).Wf = if (s.ctx c slot).pipe.isEmpty then a.Wf else s.mem.wf = true :=
  Act.wf_ite ..

end Sys2Proof.Machine
end

section
/-! Memory stays canonical through the bodies of the instructions. -/

namespace Sys2Proof.Machine

/-! ### Control -/

@[simp] theorem Out.wf_state {o : Out} {s : State} (ho : o.Wf) (h : s.mem.wf = true) : (o.state s).mem.wf = true := by
  cases o <;> assumption
@[simp] theorem State.mem_porterEnd (s : State) (c : Nat) : (s.porterEnd c).mem = s.mem := by
  simp only [State.porterEnd]
  split <;> simp
@[simp] theorem wf_transferTo (kind : Nat) (v : Word) (t : State) (h : t.mem.wf = true) :
    (transferTo kind v t).Wf := by simp [transferTo, h]
@[simp] theorem wf_transferJ (kind entry : Nat) (delta : BitVec 20) (t : State) (h : t.mem.wf = true) :
    (transferJ kind entry delta t).Wf := by simp [transferJ, h]

@[simp] theorem wf_execJoin (a : Operand) (s : State) (h : s.mem.wf = true) : (execJoin a s).Wf := by
  refine Out.wf_issue h fun _ _ ht => ?_
  dsimp only
  (repeat' split) <;> simp [ht]

@[simp] theorem wf_waitingRead (i : Instr) (clear : Bool) (d : Operand) (a : Fin 128) (t : State) (h : t.mem.wf = true) :
    (waitingRead i clear d a t).Wf := by simp [waitingRead, h]
@[simp] theorem State.mem_fenceDone (s : State) (c slot : Nat) : (s.fenceDone c slot).mem = s.mem := by simp [State.fenceDone]
@[simp] theorem wf_branch (taken : Bool) (off : Fin 512) (t : State) (h : t.mem.wf = true) : (branch taken off t).Wf := by simp [branch, h]
@[simp] theorem wf_sendWord (unaddressed : Bool) (v : List Word) (t : State) (h : t.mem.wf = true) :
    (sendWord unaddressed v t).Wf := by simp [sendWord, h]

@[simp] theorem wf_execCsrrd (x : Operand) (n : BitVec 12) (s : State) (h : s.mem.wf = true) : (execCsrrd x n s).Wf := by
  refine Out.wf_issue h fun _ _ ht => ?_
  dsimp only
  (repeat' split) <;> simp [ht]

/-! ### Scalar -/

theorem State.mem_record?_of {s t : State} {c slot bf : Nat} {o : Option Nat} (e : s.record? c slot bf = (o, t)) : t.mem = s.mem := by
  simpa [e] using State.mem_record? s c slot bf

/-! ### LoadStore -/

@[simp] theorem State.mem_useTlbs (s : State) (c asid r : Nat) (l : List Int) :
    (s.useTlbs c asid r l).mem = s.mem := by simp [State.useTlbs]
@[simp] theorem State.wf_sendAccesses (s : State) (c slot : Nat) (es : List Elem) (l : List Access) (h : s.mem.wf = true) :
    (s.sendAccesses c slot es l).Wf := by simp [State.sendAccesses, h]

@[simp] theorem State.wf_loadElems (s : State) (c slot : Nat) (p : Pending) (es : List Elem) (h : s.mem.wf = true) :
    (s.loadElems c slot p es).Wf := by
  unfold State.loadElems
  split <;> simp [h]

@[simp] theorem State.wf_storeElems (s : State) (c slot : Nat) (es : List Elem) (h : s.mem.wf = true) : (s.storeElems c slot es).Wf := by
  unfold State.storeElems
  split <;> simp [h]

@[simp] theorem wf_loadBody (f : OffForm) (signed : Bool) (x : Operand) (bf sz : Nat) (v : List Word) (t : State) (h : t.mem.wf = true) :
    (loadBody f signed x bf sz v t).Wf := by
  unfold loadBody
  dsimp only
  split
  · trivial
  · next e => simp [State.mem_record?_of e, h]

@[simp] theorem wf_storeBody (f : OffForm) (bf sz : Nat) (v : List Word) (t : State) (h : t.mem.wf = true) : (storeBody f bf sz v t).Wf := by
  unfold storeBody
  dsimp only
  split
  · trivial
  · next e => simp [State.mem_record?_of e, h]

@[simp] theorem State.wf_fetchBytes (s : State) (c slot : Nat) (v : Word) (n align : Nat) (p : Pending) (h : s.mem.wf = true) :
    (s.fetchBytes c slot v n align p).Wf := by
  have hl := fun l => State.wf_loadElems (s.useTlbs c (s.ctx c slot).asid flatRecord [v.toInt]) c slot p l (by simp [h])
  unfold State.fetchBytes
  dsimp only
  split
  · next e => simpa using Act.Wf.of_next (hl _) e
  · exact hl _

/-! ### Atomic -/

@[simp] theorem wf_atomicBody (op : AtomOp) (n : Nat) (x : Operand) (bf : Nat) (v : List Word) (t : State) (h : t.mem.wf = true) :
    (atomicBody op n x bf v t).Wf := by
  unfold atomicBody
  dsimp only
  split
  · trivial
  · next e =>
    have hu := State.wf_of_mem (State.mem_record?_of e) h
    split
    · trivial
    · split <;> simp [hu]
    · split <;> split <;> simp [hu]

/-! ### Copy -/

@[simp] theorem wf_copyBody (i : Instr) (nb : Bool) (d : Operand) (a : Nat) (t : State) (h : t.mem.wf = true) : (copyBody i nb d a t).Wf := by
  unfold copyBody
  dsimp only
  split
  · simpa using h
  · split
    · trivial
    · next e =>
      have hu := State.wf_of_mem ((State.mem_record?_of e).trans (State.mem_readMains ..)) h
      split
      · trivial
      · next e =>
        have hu := State.wf_of_mem (State.mem_record?_of e) hu
        split
        · trivial
        · split
          · trivial
          · split
            · trivial
            · split
              · next e => exact State.wf_permOf hu e
              · next e => exact State.wf_permOf hu e
              · split
                · split <;> simp [hu]
                · simp [hu]

/-! ### Vector -/

@[simp] theorem State.mem_writeElems (s : State) (c slot vd : Nat) (t : Ty) (m : Nat) (f : Nat → Nat) :
    (s.writeElems c slot vd t m f).mem = s.mem := rfl

@[simp] theorem wf_elementWise (op : VOp) (ty : Ty) (m vd va vb : Nat) (t : State) (h : t.mem.wf = true) :
    (elementWise op ty m vd va vb t).Wf := by
  unfold elementWise
  split <;> simp [h]

@[simp] theorem wf_compareElems (op : CmpOp) (ty : Ty) (m md va vb : Nat) (t : State) (h : t.mem.wf = true) :
    (compareElems op ty m md va vb t).Wf := by simp [compareElems, h]

@[simp] theorem wf_withScalar (op : Option VOp) (ty : Ty) (m vd : Nat) (v : List Word) (t : State) (h : t.mem.wf = true) :
    (withScalar op ty m vd v t).Wf := by
  unfold withScalar
  split <;> simp [h]

@[simp] theorem State.mem_writeGroup (s : State) (c slot n v mask k : Nat) : (s.writeGroup c slot n v mask k).mem = s.mem := by
  induction k with
  | zero => rfl
  | succ k ih => simp [State.writeGroup, ih]

@[simp] theorem wf_convert (dt st : Ty) (rm : RMode) (sat : Bool) (m vd va : Nat) (t : State) (h : t.mem.wf = true) :
    (convert dt st rm sat m vd va t).Wf := by simp [convert, h]
@[simp] theorem wf_reduce (i : Instr) (op : RedOp) (ty : Ty) (m va : Nat) (d : Operand) (v : List Word) (t : State) (h : t.mem.wf = true) :
    (reduce i op ty m va d v t).Wf := by simp [reduce, h]
@[simp] theorem wf_compress (i : Instr) (ty : Ty) (m vd va : Nat) (h : Fin 4) (t : State) (hw : t.mem.wf = true) :
    (compress i ty m vd va h t).Wf := by simp [compress, hw]
@[simp] theorem wf_expand (i : Instr) (ty : Ty) (m vd va : Nat) (h : Fin 4) (t : State) (hw : t.mem.wf = true) :
    (expand i ty m vd va h t).Wf := by simp [expand, hw]

@[simp] theorem wf_rowMove (ty : Ty) (m vd va w : Nat) (t : State) (h : t.mem.wf = true) : (rowMove ty m vd va w t).Wf := by
  unfold rowMove
  dsimp only
  split
  · next e => exact State.wf_permOf h e
  · split
    · trivial
    · simp [h]

/-! ### Mask -/

@[simp] theorem wf_maskOp (f : Nat → Nat → Nat) (md ma mb : Nat) (t : State) (h : t.mem.wf = true) : (maskOp f md ma mb t).Wf := h
@[simp] theorem wf_fromMask (i : Instr) (f : Nat → Nat) (ma : Nat) (d : Operand) (t : State) (h : t.mem.wf = true) :
    (fromMask i f ma d t).Wf := by simp [fromMask, h]

/-! ### VectorMem -/

@[simp] theorem wf_execVld (sz : Fin 4) (m : Fin 8) (v : Fin 32) (bf : Fin 64) (i : Operand) (s : State) (h : s.mem.wf = true) :
    (execVld sz m v bf i s).Wf := by
  refine Out.wf_issue h fun _ _ ht => ?_
  dsimp only
  split
  · trivial
  · next e => simp [State.mem_record?_of e, ht]

@[simp] theorem wf_execVst (sz : Fin 4) (m : Fin 8) (v : Fin 32) (bf : Fin 64) (i : Operand) (s : State) (h : s.mem.wf = true) :
    (execVst sz m v bf i s).Wf := by
  refine Out.wf_issue h fun _ _ ht => ?_
  dsimp only
  split
  · trivial
  · next e => simp [State.mem_record?_of e, ht]

@[simp] theorem wf_packedLoad (w m v bf : Nat) (vals : List Word) (t : State) (h : t.mem.wf = true) : (packedLoad w m v bf vals t).Wf := by
  unfold packedLoad
  dsimp only
  split
  · trivial
  · next e => simp [State.mem_record?_of e, h]

@[simp] theorem wf_packedStore (w m v bf : Nat) (vals : List Word) (t : State) (h : t.mem.wf = true) : (packedStore w m v bf vals t).Wf := by
  unfold packedStore
  dsimp only
  split
  · trivial
  · next e => simp [State.mem_record?_of e, h]

@[simp] theorem wf_qpackBody (f : BlockFmt) (vp bf : Nat) (vals : List Word) (t : State) (h : t.mem.wf = true) : (qpackBody f vp bf vals t).Wf := by
  unfold qpackBody
  dsimp only
  split
  · trivial
  · split
    · trivial
    · next e => simp [State.mem_record?_of e, h]

/-! ### Matrix -/

@[simp] theorem wf_execAccld (tl : Fin 4) (vq : Fin 8) (a : Operand) (s : State) (h : s.mem.wf = true) : (execAccld tl vq a s).Wf := by
  refine Out.wf_issue h fun _ _ ht => ?_
  dsimp only
  split
  · trivial
  · split
    · exact State.wf_foldl (fun s j hs => State.wf_of_mem (State.mem_writeVecBits ..) hs) _ _ ht
    · (repeat' split) <;> simp [ht]

@[simp] theorem wf_execAccst (tl : Fin 4) (vq : Fin 8) (a : Operand) (s : State) (h : s.mem.wf = true) : (execAccst tl vq a s).Wf := by
  refine Out.wf_issue h fun _ _ ht => ?_
  dsimp only
  (repeat' split) <;> simp [ht]

@[simp] theorem wf_execDrain (tl : Fin 4) (a : Fin 128) (s : State) (h : s.mem.wf = true) : (execDrain tl a s).Wf := by
  refine Out.wf_issue h fun _ t ht => ?_
  have hu : (t.readMains t.iss.core t.iss.slot a 2).2.mem.wf = true := by simp [ht]
  dsimp only
  split
  · trivial
  · split
    · trivial
    · split
      · trivial
      · split
        · trivial
        · split
          · next e => exact State.wf_permOf hu e
          · split <;> simp [ht]

/-! ### Perm -/

@[simp] theorem State.wf_readW {s : State} {c n : Nat} {a : Act} (h : s.mem.wf = true) (e : s.readW c n = .error a) : a.Wf :=
  State.wf_permOf h e
@[simp] theorem State.wf_solve (s : State) (c slot wd : Nat) (idx : List Nat) (h : s.mem.wf = true) : (s.solve c slot wd idx).Wf := h

@[simp] theorem wf_execPload (wd : Fin 8) (a : Operand) (s : State) (h : s.mem.wf = true) : (execPload wd a s).Wf := by
  refine Out.wf_issue h fun _ t ht => ?_
  dsimp only
  split
  · exact ht
  · split
    · split
      · trivial
      · simp [ht]
    · split
      · trivial
      · split
        · exact ht
        · have hf := fun v p => State.wf_fetchBytes t t.iss.core t.iss.slot v 128 128 p ht
          split
          · next e => simpa using Act.Wf.of_hold (hf _ _) e
          · exact hf _ _

@[simp] theorem wf_solveBody (wd : Nat) {idx : State → Except Act (List Nat)} {t : State} (h : t.mem.wf = true)
    (hi : ∀ a, idx t = .error a → a.Wf) : (solveBody wd idx t).Wf := by
  unfold solveBody
  dsimp only
  split
  · exact h
  · split
    · next e => exact hi _ e
    · split <;> simp [h]

@[simp] theorem wf_execPcomp (wd wa wb : Fin 8) (s : State) (h : s.mem.wf = true) : (execPcomp wd wa wb s).Wf := by
  refine Out.wf_issue h fun _ t ht => wf_solveBody _ ht fun a e => ?_
  split at e
  · next e' => cases e; exact State.wf_readW ht e'
  · next e' => cases e; exact State.wf_readW ht e'
  · split at e <;> cases e
    trivial

@[simp] theorem wf_execPinv (wd wa : Fin 8) (s : State) (h : s.mem.wf = true) : (execPinv wd wa s).Wf := by
  refine Out.wf_issue h fun _ t ht => wf_solveBody _ ht fun a e => ?_
  cases e' : t.readW t.iss.core wa with
  | ok l => rw [e'] at e; cases e
  | error b => rw [e'] at e; cases e; exact State.wf_readW ht e'

@[simp] theorem wf_execPrand (wd : Fin 8) (a : Fin 128) (s : State) (h : s.mem.wf = true) : (execPrand wd a s).Wf := by
  refine Out.wf_issue h fun _ _ ht => ?_
  dsimp only
  split <;> simp [ht]

@[simp] theorem wf_execPcompact (wd m : Fin 8) (a : Operand) (s : State) (h : s.mem.wf = true) : (execPcompact wd m a s).Wf := by
  refine Out.wf_issue h fun _ _ ht => ?_
  dsimp only
  split <;> simp [ht]

@[simp] theorem wf_briefly (i : Instr) (d : Operand) {found : State → Except Act Nat} {t : State} (h : t.mem.wf = true)
    (hf : ∀ a, found t = .error a → a.Wf) : (briefly i d found t).Wf := by
  unfold briefly
  dsimp only
  split
  · simp [h]
  · split
    · next e => exact hf _ e
    · simp [h]

@[simp] theorem wf_execPcyc (wa : Fin 8) (kind : CycKind) (d : Operand) (s : State) (h : s.mem.wf = true) : (execPcyc wa kind d s).Wf := by
  refine Out.wf_issue h fun _ t ht => wf_briefly _ _ ht fun a e => ?_
  dsimp only at e
  split at e
  · next e' => cases e; exact State.wf_readW ht e'
  · split at e <;> cases e
    trivial

@[simp] theorem wf_execPidx (wa : Fin 8) (d : Operand) (s : State) (h : s.mem.wf = true) : (execPidx wa d s).Wf := by
  refine Out.wf_issue h fun _ t ht => wf_briefly _ _ ht fun a e => ?_
  dsimp only at e
  split at e
  · next e' => cases e; exact State.wf_readW ht e'
  · split at e <;> cases e
    trivial

@[simp] theorem wf_execPstore (wa : Fin 8) (a : Operand) (s : State) (h : s.mem.wf = true) : (execPstore wa a s).Wf := by
  refine Out.wf_issue h fun _ t ht => ?_
  dsimp only
  split
  · next e => exact State.wf_readW ht e
  · split <;> simp [ht]

/-! ### Quant -/

@[simp] theorem State.mem_addTo (s : State) (c source amax : Nat) (r : Round) (slot : Option Nat) :
    (s.addTo c source amax r slot).mem = s.mem := by simp [State.addTo]
@[simp] theorem State.mem_wakeRounds (s : State) (c slot : Nat) : (s.wakeRounds c slot).mem = s.mem := rfl
@[simp] theorem State.mem_openRound (s : State) (c asid g tag : Nat) (slot : Option Nat) :
    (s.openRound c asid g tag slot).mem = s.mem := rfl

@[simp] theorem State.mem_freeRounds (c k : Nat) : ∀ s : State, (s.freeRounds c k).mem = s.mem := by
  induction k with
  | zero => exact fun _ => rfl
  | succ k ih => intro s; simp only [State.freeRounds]; (repeat' split) <;> simp [ih]

@[simp] theorem wf_execQmaxxContribution (dst asid g tag source : Nat) (amax : BitVec 32) (cut : Bool) (s : State) (h : s.mem.wf = true) :
    (execQmaxxContribution dst asid g tag source amax cut s).Wf := by
  simp only [execQmaxxContribution]
  (repeat' split) <;> simp [h]

@[simp] theorem State.mem_contribute (s : State) (c slot asid g tag amax : Nat) (r : Round) :
    (s.contribute c slot asid g tag amax r).mem = s.mem := by simp [State.contribute]

@[simp] theorem wf_execQmaxx (d a : Operand) (s : State) (h : s.mem.wf = true) : (execQmaxx d a s).Wf := by
  refine Out.wf_issue h fun _ _ ht => ?_
  dsimp only
  (repeat' split) <;> simp [ht]

@[simp] theorem State.wf_failRound (s : State) (c : Nat) (r : Round) (code detail : Nat) (h : s.mem.wf = true) :
    (s.failRound c r code detail).mem.wf = true := by
  unfold State.failRound
  split <;> simp [h]

@[simp] theorem wf_execQmaxxTimeout (c asid g tag : Nat) (s : State) (h : s.mem.wf = true) : (execQmaxxTimeout c asid g tag s).Wf := by
  unfold execQmaxxTimeout
  split <;> simp [h]

end Sys2Proof.Machine
end

section
/-! Memory stays canonical through messages, homes and translation. -/

namespace Sys2Proof.Machine

/-! ### Travel -/

@[simp] theorem wf_execThreadDeparture (c slot : Nat) (s : State) (h : s.mem.wf = true) :
    (execThreadDeparture c slot s).Wf := by simp [execThreadDeparture, h]
@[simp] theorem State.mem_answer (s : State) (c slot : Nat) (early : Bool) : (s.answer c slot early).mem = s.mem := by
  simp only [State.answer]
  split <;> simp
@[simp] theorem State.mem_handBoxwood (s : State) (die : Nat) (m : Travel) : (s.handBoxwood die m).mem = s.mem := by
  simp only [State.handBoxwood]
  (repeat' split) <;> simp
@[simp] theorem State.wf_keepBad (s : State) (m : Travel) (detail : Nat) (h : s.mem.wf = true) : (s.keepBad m detail).mem.wf = true := by
  simp only [State.keepBad]
  split <;> simp [h]
@[simp] theorem State.mem_returnTravel (s : State) (die : Nat) (m : Travel) :
    (s.returnTravel die m).mem = s.mem := by simp [State.returnTravel]
@[simp] theorem State.wf_spillReturned (s : State) (c : Nat) (m : Travel) (h : s.mem.wf = true) :
    (s.spillReturned c m).mem.wf = true := by simp [State.spillReturned, h]

@[simp] theorem State.wf_sendOn (s : State) (c : Nat) (m : Travel) (cut : Bool) (h : s.mem.wf = true) :
    (s.sendOn c m cut).mem.wf = true := by
  simp only [State.sendOn]
  (repeat' split) <;> simp [h]

theorem State.wf_intercept {s t : State} {dst : Nat} {m : Travel} (h : s.mem.wf = true) (e : s.intercept dst m = some t) : t.mem.wf = true := by
  unfold State.intercept at e
  (repeat' split at e) <;> cases e <;> simp [h]

@[simp] theorem wf_execTravelMessageArrival (dst : Nat) (m : Travel) (s : State) (h : s.mem.wf = true) : (execTravelMessageArrival dst m s).Wf := by
  unfold execTravelMessageArrival
  split
  · next e => exact State.wf_intercept h e
  · dsimp only
    split <;> simp [h]

@[simp] theorem wf_execReturnedTravelMessage (m : Travel) (s : State) (h : s.mem.wf = true) :
    (execReturnedTravelMessage m s).Wf := by simp [execReturnedTravelMessage, h]

@[simp] theorem wf_execBlockDirectoryReadReturn (c asid blk : Nat) (m : Option Travel) (s : State) (h : s.mem.wf = true) :
    (execBlockDirectoryReadReturn c asid blk m s).Wf := by
  unfold execBlockDirectoryReadReturn
  split <;> simp [h]

@[simp] theorem wf_execFreeContextHint (c asid blk holder : Nat) (free : Bool) (s : State) (h : s.mem.wf = true) :
    (execFreeContextHint c asid blk holder free s).Wf := h
@[simp] theorem State.mem_unlistHolder (s : State) (asid blk holder : Nat) : (s.unlistHolder asid blk holder).mem = s.mem := rfl
@[simp] theorem State.mem_dropHolder (s : State) (asid blk holder : Nat) : (s.dropHolder asid blk holder).mem = s.mem := rfl
@[simp] theorem State.mem_endRemoval (s : State) (r : Removal) : (s.endRemoval r).mem = s.mem := by
  simp only [State.endRemoval]
  split <;> simp

@[simp] theorem State.mem_beginRemoval (s : State) (c : Nat) (p : Placed) : (s.beginRemoval c p).mem = s.mem := by
  simp only [State.beginRemoval]
  split
  · simp
  · exact (State.mem_foldl (fun _ _ => State.mem_post ..) _ _).trans (State.mem_modDie ..)

@[simp] theorem wf_execBlockMapInvalidation (c asid blk : Nat) (s : State) (h : s.mem.wf = true) :
    (execBlockMapInvalidation c asid blk s).Wf := by simp [execBlockMapInvalidation, h]
theorem State.roomFor_zero (s : State) (c size : Nat) : s.roomFor c size 0 = .error none := rfl

/-- What a search for room gives: room in the state as it stands, the state in which a block is being removed, or what the search gives then. -/
theorem State.roomFor_succ (s : State) (c size k : Nat) :
    (∃ a, s.roomFor c size (k + 1) = .ok (a, s)) ∨ s.roomFor c size (k + 1) = .error (some s) ∨ s.roomFor c size (k + 1) = .error none ∨
      ∃ p, s.roomFor c size (k + 1) = .error (some (s.beginRemoval c p)) ∨
        s.roomFor c size (k + 1) = (s.beginRemoval c p).roomFor c size k := by
  delta State.roomFor
  dsimp only [Nat.brecOn, Nat.brecOn.go, State.roomFor._f]
  generalize freeRun _ size 8 Config.istoreBytes = r
  cases r with
  | some a => exact .inl ⟨a, rfl⟩
  | none =>
    right
    dsimp only
    split
    · exact .inl rfl
    · split
      · exact .inr (.inl rfl)
      · next p _ =>
        refine .inr (.inr ⟨p, ?_⟩)
        split
        · exact .inl rfl
        · exact .inr rfl

theorem State.mem_roomFor_ok {c size a : Nat} {t : State} (k : Nat) : ∀ s : State, s.roomFor c size k = .ok (a, t) → t.mem = s.mem := by
  induction k with
  | zero => intro s e; rw [State.roomFor_zero] at e; cases e
  | succ k ih =>
    intro s e
    obtain ⟨b, er⟩ | er | er | ⟨p, er | er⟩ := State.roomFor_succ s c size k <;> rw [er] at e
    · cases e; rfl
    · cases e
    · cases e
    · cases e
    · rw [ih _ e, State.mem_beginRemoval]

theorem State.mem_roomFor_error {c size : Nat} {t : State} (k : Nat) : ∀ s : State, s.roomFor c size k = .error (some t) → t.mem = s.mem := by
  induction k with
  | zero => intro s e; rw [State.roomFor_zero] at e; cases e
  | succ k ih =>
    intro s e
    obtain ⟨b, er⟩ | er | er | ⟨p, er | er⟩ := State.roomFor_succ s c size k <;> rw [er] at e
    · cases e
    · cases e; rfl
    · cases e
    · cases e; exact State.mem_beginRemoval ..
    · rw [ih _ e, State.mem_beginRemoval]

@[simp] theorem State.mem_movePoison (s : State) (src dst words : Nat) : (s.movePoison src dst words).mem = s.mem := rfl

theorem State.wf_loadText_ok {s t : State} {c image : Nat} {p : Placed} (h : s.mem.wf = true) (e : s.loadText c image p = .ok t) : t.mem.wf = true := by
  unfold State.loadText at e
  split at e
  · cases e
  · next er =>
    cases e
    simp only [State.mem_modCore, State.mem_movePoison]
    refine Memory.wf_write ?_ ..
    rw [State.mem_roomFor_ok _ _ er]
    exact h

theorem State.mem_loadText_error {s t : State} {c image : Nat} {p : Placed} (e : s.loadText c image p = .error (some t)) : t.mem = s.mem := by
  unfold State.loadText at e
  split at e
  · next er => cases e; exact State.mem_roomFor_error _ _ er
  · cases e

@[simp] theorem State.mem_addHolder (s : State) (asid blk holder image : Nat) (descs : List Nat) : (s.addHolder asid blk holder image descs).mem = s.mem :=
  State.mem_foldl (fun _ _ => State.mem_modDie ..) _ s

@[simp] theorem State.wf_sendHeld (s : State) (dst : Nat) (p : Placed) (m : Travel) (h : s.mem.wf = true) :
    (s.sendHeld dst p m).mem.wf = true := by
  unfold State.sendHeld
  split <;> simp [h]

@[simp] theorem State.wf_placeTied (s : State) (die asid dst blk image : Nat) (h : s.mem.wf = true) : (s.placeTied die asid dst blk image).mem.wf = true := by
  unfold State.placeTied
  split
  · exact h
  · split
    · exact h
    · next e =>
      exact State.wf_foldl (fun t m ht => State.wf_sendHeld t _ _ m ht) _ _
        (State.wf_of_mem ((State.mem_modDie ..).trans (State.mem_addHolder ..)) (State.wf_loadText_ok h e))

@[simp] theorem wf_execBlockPlacement (die asid blk dst : Nat) (image : Option Nat) (s : State) (h : s.mem.wf = true) :
    (execBlockPlacement die asid blk dst image s).Wf := by
  unfold execBlockPlacement
  dsimp only
  split
  · split <;> simp [State.mem_foldl, h]
  · next a p e =>
    split
    · exact h
    · have hs : ∀ t : State, t.mem.wf = true → ∀ l : List Travel, (l.foldl (fun s m => s.sendHeld dst p m) t).mem.wf = true :=
        fun t ht l => State.wf_foldl (fun t m ht => State.wf_sendHeld t _ _ m ht) l t ht
      have hp : ∀ t : State, t.mem.wf = true → ∀ l : List (Nat × Nat), (l.foldl (fun s b => s.placeTied die asid dst b.1 b.2) t).mem.wf = true :=
        fun t ht l => State.wf_foldl (fun t m ht => State.wf_placeTied t _ _ _ _ _ ht) l t ht
      split
      · exact h
      · next e =>
        split at e
        · cases e
        · simp [State.mem_loadText_error e, h]
      · next e =>
        refine hp _ (hs _ ?_ _) _
        rw [State.mem_modDie, State.mem_addHolder]
        split at e
        · cases e; exact h
        · exact State.wf_loadText_ok h e

@[simp] theorem wf_execForkChildArrival (dst : Nat) (m : Travel) (s : State) (h : s.mem.wf = true) : (execForkChildArrival dst m s).Wf := by
  unfold execForkChildArrival
  split
  · next e => exact State.wf_intercept h e
  · dsimp only
    split
    · simp [h]
    · split
      · simp [h]
      · next e =>
        refine State.wf_readmit _ _ _ ?_
        split <;> simp [State.mem_pushDeque e, h]

theorem State.mem_stealFrom {s t : State} {thief victim : Nat} (e : s.stealFrom thief victim = some t) : t.mem = s.mem := by
  unfold State.stealFrom at e
  split at e
  · obtain ⟨m, -, e⟩ := Option.bind_eq_some_iff.1 e
    split at e <;> cases e
    simp
  · cases e

@[simp] theorem State.wf_ownerTakes (s : State) (owner : Nat) (h : s.mem.wf = true) :
    (s.ownerTakes owner).mem.wf = true := by simp [State.ownerTakes, h]

@[simp] theorem wf_execSteal (thief owner : Nat) (s : State) (h : s.mem.wf = true) : (execSteal thief owner s).Wf := by
  unfold execSteal
  dsimp only
  split
  · cases e : (((s.ownerTakes owner).victims thief).findSome? ((s.ownerTakes owner).stealFrom thief)) with
    | none => simp [h]
    | some t =>
      obtain ⟨v, -, ev⟩ := List.exists_of_findSome?_eq_some e
      simp [State.mem_stealFrom ev, h]
  · simp [h]

@[simp] theorem wf_execStolenChildArrival (dst : Nat) (m : Travel) (s : State) (h : s.mem.wf = true) : (execStolenChildArrival dst m s).Wf := by
  unfold execStolenChildArrival
  split
  · next e => exact State.wf_intercept h e
  · dsimp only
    split <;> simp [h]

@[simp] theorem wf_execGatheringWindowClose (c blk off asid cls : Nat) (s : State) (h : s.mem.wf = true) :
    (execGatheringWindowClose c blk off asid cls s).Wf := by
  simp only [execGatheringWindowClose]
  split <;> simp [h]

@[simp] theorem wf_execMeshInterrupt (c : Nat) (s : State) (h : s.mem.wf = true) : (execMeshInterrupt c s).Wf := by
  unfold execMeshInterrupt
  dsimp only
  split
  · exact h
  · have hl := fun (t : State) (l : List Nat) => State.mem_foldl (f := fun s n => s.post (.contextSave c n)) (fun _ _ => State.mem_post ..) l t
    split <;> simp [hl, h]

@[simp] theorem wf_execContextSave (c slot : Nat) (s : State) (h : s.mem.wf = true) :
    (execContextSave c slot s).Wf := by simp [execContextSave, h]

/-! ### Homes -/

@[simp] theorem State.wf_serveLoad (s : State) (c slot : Nat) (a : Access) (e : HomeEntry) (h : s.mem.wf = true) :
    (s.serveLoad c slot a e).mem.wf = true := by
  unfold State.serveLoad
  split <;> simp [h]

@[simp] theorem State.wf_atHome {s : State} (c slot line : Nat) (again : Instr) (who : Option Nat) {serve : State → Access → HomeEntry → State}
    (h : s.mem.wf = true) (hs : ∀ s a e, s.mem.wf = true → (serve s a e).mem.wf = true) : (s.atHome c slot line again who serve).mem.wf = true := by
  unfold State.atHome
  split
  · exact h
  · split
    · exact h
    · split
      · next e => simp [State.mem_homeTake_error e, h]
      · next e => exact State.wf_pumpAll _ _ _ (hs _ _ _ (State.wf_of_mem (State.mem_homeTake_ok e) h))

@[simp] theorem wf_execFillRequest (c slot line : Nat) (s : State) (h : s.mem.wf = true) : (execFillRequest c slot line s).Wf :=
  State.wf_atHome _ _ _ _ _ h fun _ _ _ h => State.wf_serveLoad _ _ _ _ _ h
@[simp] theorem wf_execLeaseRenewal (c slot line : Nat) (s : State) (h : s.mem.wf = true) : (execLeaseRenewal c slot line s).Wf :=
  State.wf_atHome _ _ _ _ _ h fun _ _ _ h => State.wf_serveLoad _ _ _ _ _ h

@[simp] theorem State.wf_serveAtHome (s : State) (c slot : Nat) (a : Access) (e : HomeEntry) (h : s.mem.wf = true) :
    (s.serveAtHome c slot a e).mem.wf = true := by
  unfold State.serveAtHome
  split <;> simp [h]

@[simp] theorem wf_execOwnershipRequest (c slot line : Nat) (s : State) (h : s.mem.wf = true) : (execOwnershipRequest c slot line s).Wf := by
  refine State.wf_atHome _ _ _ _ _ h fun s a e h => ?_
  dsimp only
  split <;> simp [h]

@[simp] theorem wf_execOwnershipGrant (c slot line : Nat) (s : State) (h : s.mem.wf = true) : (execOwnershipGrant c slot line s).Wf := by
  simp only [execOwnershipGrant]
  split <;> simp [h]
@[simp] theorem State.mem_giveUp (s : State) (l : CacheLine) : (s.giveUp l).mem = s.mem := rfl
@[simp] theorem wf_execRecall (line owner : Nat) (s : State) (h : s.mem.wf = true) : (execRecall line owner s).Wf := by
  simp only [execRecall]
  (repeat' split) <;> simp [h]

@[simp] theorem State.wf_takeBack (s : State) (line wts rts : Nat) (data : Option Nat) (poison : Nat) (h : s.mem.wf = true) :
    (s.takeBack line wts rts data poison).mem.wf = true := by
  simp only [State.takeBack]
  (repeat' split) <;> simp [h, Memory.wf_write]

@[simp] theorem wf_execRecallReply (line wts rts : Nat) (data : Option Nat) (poison : Nat) (s : State) (h : s.mem.wf = true) :
    (execRecallReply line wts rts data poison s).Wf := by
  unfold execRecallReply
  split <;> simp [h]

@[simp] theorem State.mem_machineCheck (s : State) (source die hedge unit low addr : Nat) :
    (s.machineCheck source die hedge unit low addr).mem = s.mem := rfl

@[simp] theorem State.wf_writtenBack (s : State) (line wts rts data poison : Nat) (dirty : Bool) (h : s.mem.wf = true) :
    (s.writtenBack line wts rts data poison dirty).mem.wf = true := by
  unfold State.writtenBack
  split <;> simp [h]

@[simp] theorem wf_execWriteback (line wts rts data poison : Nat) (dirty : Bool) (s : State) (h : s.mem.wf = true) :
    (execWriteback line wts rts data poison dirty s).Wf := by simp [execWriteback, h]

@[simp] theorem State.wf_landReturns (s : State) (line : Nat) (h : s.mem.wf = true) : (s.landReturns line).mem.wf = true := by
  unfold State.landReturns
  refine State.wf_foldl (fun s i h => ?_) _ _ h
  split
  · exact State.wf_takeBack _ _ _ _ _ _ h
  · exact State.wf_writtenBack _ _ _ _ _ _ _ h
  · exact h

@[simp] theorem State.wf_recallNow (s : State) (line : Nat) (h : s.mem.wf = true) : (s.recallNow line).mem.wf = true := by
  simp only [State.recallNow]
  (repeat' split) <;> simp [h]
@[simp] theorem State.wf_homeNow (s : State) (line : Nat) (h : s.mem.wf = true) : (s.homeNow line).2.mem.wf = true := by
  simp only [State.homeNow]
  (repeat' split) <;> simp [h]
@[simp] theorem State.wf_readLine (s : State) (line t0 lease : Nat) (h : s.mem.wf = true) : (s.readLine line t0 lease).2.mem.wf = true := by
  simp only [State.readLine]
  (repeat' split) <;> simp [h]
@[simp] theorem State.wf_engineRead (s : State) (line t0 : Nat) (h : s.mem.wf = true) :
    (s.engineRead line t0).2.mem.wf = true := by simp [State.engineRead, h]
@[simp] theorem State.wf_walkerRead (s : State) (line t0 : Nat) (h : s.mem.wf = true) :
    (s.walkerRead line t0).mem.wf = true := by simp [State.walkerRead, h]

@[simp] theorem State.wf_engineWrite (s : State) (c line data mask t0 : Nat) (h : s.mem.wf = true) :
    (s.engineWrite c line data mask t0).2.mem.wf = true := by
  unfold State.engineWrite
  split <;> simp [h]

@[simp] theorem wf_execRemotePrivateRequest (c slot : Nat) (s : State) (h : s.mem.wf = true) : (execRemotePrivateRequest c slot s).Wf := by
  simp only [execRemotePrivateRequest]
  (repeat' split) <;> simp [h]

@[simp] theorem wf_execJoinWake (die addr : Nat) (s : State) (h : s.mem.wf = true) : (execJoinWake die addr s).Wf := by
  refine State.wf_foldl (fun s j h => ?_) _ _ ?_
  · dsimp only
    (repeat' split) <;> simp [h]
  · simp [h]

@[simp] theorem State.mem_failAccess (s : State) (c slot code : Nat) : (s.failAccess c slot code).mem = s.mem := rfl
@[simp] theorem State.mem_endWalk (s : State) (die asid va : Nat) : (s.endWalk die asid va).mem = s.mem := by
  simp only [State.endWalk]
  (repeat' split) <;> simp

@[simp] theorem wf_execPageWalkComplete (die asid va : Nat) (s : State) (h : s.mem.wf = true) : (execPageWalkComplete die asid va s).Wf := by
  unfold execPageWalkComplete
  extract_lets l s1 pt s2 fault
  have h2 : s2.mem.wf = true := State.wf_foldl (fun s a h => State.wf_walkerRead s a pt h) _ _ (by simp [s1, h])
  have hf : ∀ code, (fault code).mem.wf = true := fun code => by
    simp only [fault, State.mem_foldl (fun (s : State) (e : Nat × Nat) => State.mem_failAccess s e.1 e.2 code), h2]
  split
  · exact State.wf_foldl (fun s e h => by simp [h]) _ _ h2
  · rw [Out.wf_next, State.mem_signal, State.mem_foldl (fun _ _ => State.mem_modCtx ..)]
    exact h2
  · exact hf _
  · exact hf _

@[simp] theorem State.mem_dropTlb (s : State) (asid va : Nat) (inHedge : Nat → Bool) : (s.dropTlb asid va inHedge).mem = s.mem := rfl

@[simp] theorem wf_execTlbShootdown (die asid va : Nat) (hedges : List Nat) (s : State) (h : s.mem.wf = true) : (execTlbShootdown die asid va hedges s).Wf := by
  unfold execTlbShootdown
  refine State.wf_foldl (fun s e h => by simp [h]) _ _ ?_
  split <;> simp [h]

@[simp] theorem wf_execShootdownAck (die hedge asid va : Nat) (s : State) (h : s.mem.wf = true) :
    (execShootdownAck die hedge asid va s).Wf := by simp [execShootdownAck, h]

/-! ### Returns -/

@[simp] theorem State.mem_recordReturn (s : State) (c slot : Nat) (p : Pending) :
    (s.recordReturn c slot p).mem = s.mem := by simp [State.recordReturn]
@[simp] theorem State.mem_resultReturn (s : State) (c slot seq : Nat) : (s.resultReturn c slot seq).mem = s.mem := by
  simp only [State.resultReturn]
  (repeat' split) <;> simp
@[simp] theorem wf_execLoadReturn (c slot seq : Nat) (s : State) (h : s.mem.wf = true) :
    (execLoadReturn c slot seq s).Wf := by simp [execLoadReturn, h]
@[simp] theorem wf_execAtomicReturn (c slot seq : Nat) (s : State) (h : s.mem.wf = true) :
    (execAtomicReturn c slot seq s).Wf := by simp [execAtomicReturn, h]

/-! ### Messages -/

@[simp] theorem wf_execReturnedSend (m : SendMsg) (s : State) (h : s.mem.wf = true) :
    (execReturnedSend m s).Wf := by simp [execReturnedSend, h]
@[simp] theorem State.mem_queuePorter (s : State) (c : Nat) (i : PorterItem) : (s.queuePorter c i).mem = s.mem := rfl
@[simp] theorem State.wf_remoteFault (s : State) (c : Nat) (i : PorterItem) (code detail : Nat) (h : s.mem.wf = true) :
    (s.remoteFault c i code detail).mem.wf = true := by simp [State.remoteFault, h]

@[simp] theorem State.wf_refuseItem (s : State) (c : Nat) (i : PorterItem) (status : Nat) (h : s.mem.wf = true) :
    (s.refuseItem c i status).mem.wf = true := by
  simp only [State.refuseItem]
  (repeat' split) <;> simp [h]

@[simp] theorem State.wf_activeArrive (s : State) (c : Nat) (i : PorterItem) (h : s.mem.wf = true) :
    (s.activeArrive c i).mem.wf = true := by simp [State.activeArrive, h]
@[simp] theorem wf_execActiveMessageArrival (dst : Nat) (i : PorterItem) (s : State) (h : s.mem.wf = true) :
    (execActiveMessageArrival dst i s).Wf := by simp [execActiveMessageArrival, h]
@[simp] theorem State.wf_sendDeliver (s : State) (c : Nat) (m : SendMsg) (h : s.mem.wf = true) :
    (s.sendDeliver c m).mem.wf = true := by simp [State.sendDeliver, h]
@[simp] theorem wf_execSendArrival (m : SendMsg) (s : State) (h : s.mem.wf = true) :
    (execSendArrival m s).Wf := by simp [execSendArrival, h]
@[simp] theorem State.wf_senduDeliver (s : State) (c : Nat) (m : SendMsg) (h : s.mem.wf = true) :
    (s.senduDeliver c m).mem.wf = true := by simp [State.senduDeliver, h]
@[simp] theorem wf_execSenduArrival (m : SendMsg) (s : State) (h : s.mem.wf = true) :
    (execSenduArrival m s).Wf := by simp [execSenduArrival, h]

theorem State.wf_remoteWrite {s t : State} {c : Nat} {i : PorterItem} {w : RemoteWrite} (h : s.mem.wf = true) (e : s.remoteWrite c i w = some t) :
    t.mem.wf = true := by
  revert e
  unfold State.remoteWrite
  extract_lets view open_ a line refused lo mask times old new stamp written done
  clear_value new
  have hw : written.mem.wf = true := by
    simp only [written]
    split <;> simp [h]
  split
  · rintro ⟨⟩
    simp [h]
  · split
    · nofun
    · split
      · rintro ⟨⟩
        split <;> simp [refused, h]
      · rintro ⟨⟩
        split <;> simp [done, hw]

@[simp] theorem wf_execPorterHandlerStart (c : Nat) (s : State) (h : s.mem.wf = true) : (execPorterHandlerStart c s).Wf := by
  unfold execPorterHandlerStart
  extract_lets k
  split
  · exact h
  · split
    · simp [h]
    · split
      · exact h
      · dsimp only
        split
        · split
          · next e => simp [State.wf_remoteWrite (by simp [h]) e]
          · simp [h]
        · split
          · split <;> simp [h]
          · split <;> simp [h]

@[simp] theorem State.mem_handOver (s : State) (asid : Nat) (l : LandFrom) (cut : Bool) : (s.handOver asid l cut).mem = s.mem := by
  simp only [State.handOver]
  (repeat' split) <;> simp

@[simp] theorem wf_execLandingPacketArrival (dst : Nat) (i : PorterItem) (s : State) (h : s.mem.wf = true) :
    (execLandingPacketArrival dst i s).Wf := by
  simp only [execLandingPacketArrival]
  (repeat' split) <;> simp [h]

@[simp] theorem wf_execTrapRecordAccept (c slot : Nat) (r : TrapRec) (s : State) (h : s.mem.wf = true) :
    (execTrapRecordAccept c slot r s).Wf := by simp [execTrapRecordAccept, h]
@[simp] theorem wf_execSnapAnswer (c slot : Nat) (s : State) (h : s.mem.wf = true) :
    (execSnapAnswer c slot s).Wf := by simp [execSnapAnswer, h]
@[simp] theorem State.mem_timeUp (s : State) (c slot : Nat) (until_ : Wait → Option Nat) : (s.timeUp c slot until_).mem = s.mem := rfl
@[simp] theorem wf_execIdleTimeout (c slot : Nat) (s : State) (h : s.mem.wf = true) : (execIdleTimeout c slot s).Wf := h
@[simp] theorem wf_execKsyncResume (c slot : Nat) (s : State) (h : s.mem.wf = true) : (execKsyncResume c slot s).Wf := h
@[simp] theorem wf_execPcycPidxResume (c slot : Nat) (s : State) (h : s.mem.wf = true) : (execPcycPidxResume c slot s).Wf := h
@[simp] theorem State.wf_redeliver (s : State) (c : Nat) (h : s.mem.wf = true) : (s.redeliver c).mem.wf = true := by
  refine State.wf_foldl (fun s q h => ?_) _ _ h
  split <;> simp [h]
@[simp] theorem wf_execCoreResume (c : Nat) (s : State) (h : s.mem.wf = true) : (execCoreResume c s).Wf := by simp [execCoreResume, h]

end Sys2Proof.Machine
end

section
/-! Memory stays canonical through the copy engine, chains, the scheduler and the matrix engine. -/

namespace Sys2Proof.Machine

/-! ### Agents -/

@[simp] theorem State.mem_walkIn (s : State) (c asid va : Nat) : (s.walkIn c asid va).2.mem = s.mem := by
  simp only [State.walkIn]
  (repeat' split) <;> simp

@[simp] theorem State.mem_efind (s : State) (c asid cls r : Nat) (e : Int) (n : Nat) (kind : Purpose) :
    (s.efind c asid cls r e n kind).2.mem = s.mem := by
  simp only [State.efind]
  (repeat' split) <;> simp

theorem State.mem_efind_of {s t : State} {c asid cls r : Nat} {e : Int} {n : Nat} {kind : Purpose} {f : EFind}
    (h : s.efind c asid cls r e n kind = (f, t)) : t.mem = s.mem := by
  simpa [h] using State.mem_efind s c asid cls r e n kind

theorem State.leftWf_readCuts (c asid cls r : Nat) (e : Int) (l : List (Nat × Nat)) : ∀ (s : State) (t0 : Nat), s.mem.wf = true →
    LeftWf (fun x => x.2.2) (s.readCuts c asid cls r t0 e l) := by
  induction l with
  | nil => exact fun _ _ h => h
  | cons g l ih =>
    intro s t0 h
    unfold State.readCuts
    split
    · next e => exact State.wf_of_mem (State.mem_efind_of e) h
    · next e => exact State.wf_of_mem (State.mem_efind_of e) h
    · next t e =>
      have ht := State.wf_of_mem (State.mem_efind_of e) h
      have hr := fun n => ih (t.engineRead n t0).2 t0 (State.wf_engineRead _ _ _ ht)
      dsimp only
      split
      · next e => exact (hr _).error e
      · next e => exact (hr _).of_ok e rfl

theorem State.leftWf_readBytes (s : State) (c asid cls r t0 : Nat) (e : Int) (n : Nat) (h : s.mem.wf = true) :
    LeftWf (fun x => x.2.2) (s.readBytes c asid cls r t0 e n) := State.leftWf_readCuts _ _ _ _ _ _ _ _ h

theorem State.leftWf_readVirtual (c asid t0 n : Nat) : ∀ (s : State) (va : Nat), s.mem.wf = true →
    LeftWf (fun x => x.2.2) (s.readVirtual c asid t0 va n) := by
  induction n with
  | zero => exact fun _ _ h => h
  | succ n ih =>
    intro s va h
    have hb := State.leftWf_readBytes s c asid 1 flatRecord t0 va 8 h
    unfold State.readVirtual
    split
    · next e => exact hb.error e
    · next e =>
      have ht := ih _ (va + 8) (hb.ok e)
      split
      · next e => exact ht.error e
      · next e => exact ht.of_ok e rfl

/-! ### CopyEngine -/

@[simp] theorem State.mem_wakeKey (s : State) (key : Nat) : (s.wakeKey key).mem = s.mem := by simp [State.wakeKey]
@[simp] theorem State.mem_modTransfer (s : State) (c ch id : Nat) (f : Transfer → Transfer) : (s.modTransfer c ch id f).mem = s.mem := rfl
@[simp] theorem State.mem_pinAll (s : State) (l : List Nat) : (s.pinAll l).mem = s.mem := State.mem_foldl State.mem_pin ..

@[simp] theorem State.wf_releasePin (s : State) (line : Nat) (h : s.mem.wf = true) : (s.releasePin line).mem.wf = true := by
  unfold State.releasePin
  refine State.wf_foldl (fun t e h => ?_) _ _ (by simp [h])
  dsimp only
  (repeat' split) <;> simp [h]

@[simp] theorem State.wf_releasePins (s : State) (l : List Nat) (h : s.mem.wf = true) : (s.releasePins l).mem.wf = true := State.wf_foldl State.wf_releasePin _ _ h
@[simp] theorem State.mem_goOn (s : State) (c : Nat) : (s.goOn c).mem = s.mem := by simp [State.goOn]
@[simp] theorem State.wf_finishTransfer (s : State) (c ch id : Nat) (h : s.mem.wf = true) : (s.finishTransfer c ch id).mem.wf = true := by
  unfold State.finishTransfer
  split <;> simp [h]
@[simp] theorem State.wf_landPacket (s : State) (c : Nat) (t : Transfer) (p : Packet) (h : s.mem.wf = true) :
    (s.landPacket c t p).mem.wf = true := by simp [State.landPacket, h]
@[simp] theorem State.wf_endLine (s : State) (c ch id line : Nat) (h : s.mem.wf = true) : (s.endLine c ch id line).mem.wf = true := by
  unfold State.endLine
  split <;> simp [h]
@[simp] theorem State.mem_loseLanding (s : State) (asid : Nat) (l : LandFrom) :
    (s.loseLanding asid l).mem = s.mem := by simp [State.loseLanding]

@[simp] theorem State.wf_endTransfer (s : State) (c ch id status : Nat) (h : s.mem.wf = true) : (s.endTransfer c ch id status).mem.wf = true := by
  unfold State.endTransfer
  split
  · exact h
  · next t _ =>
    have hf := State.wf_foldl (f := fun s p =>
      let (b, s) := s.takeBit
      if p.mask != 0 then (if b then s.landPacket c t p else s)
      else if b then s
      else s.loseLanding t.req.asid { core := s.coreId t.req.asid c, chan := ch, id := id, pkt := p.pkt })
      (fun s p h => by dsimp only; (repeat' split) <;> simp [h]) t.flying s h
    have hd := State.mem_modTransfer (t.flying.foldl (fun s p =>
      let (b, s) := s.takeBit
      if p.mask != 0 then (if b then s.landPacket c t p else s)
      else if b then s
      else s.loseLanding t.req.asid { core := s.coreId t.req.asid c, chan := ch, id := id, pkt := p.pkt }) s) c ch id
      (fun t => { t with status := some status, flying := [] })
    refine State.wf_finishTransfer _ _ _ _ ?_
    split
    · rw [State.mem_signal, State.mem_modCore, hd]; exact hf
    · rw [hd]; exact hf

@[simp] theorem wf_execCopyAccept (c : Nat) (s : State) (h : s.mem.wf = true) : (execCopyAccept c s).Wf := by
  simp only [execCopyAccept]
  split <;> simp [h]

@[simp] theorem State.mem_packetPlace (s : State) (c : Nat) (q : CopyReq) (de : Int) (n : Nat) :
    (s.packetPlace c q de n).2.mem = s.mem := by
  simp only [State.packetPlace]
  (repeat' split) <;> simp

@[simp] theorem State.wf_stopPacket (s : State) (c : Nat) (t : Transfer) (e : EStop) (h : s.mem.wf = true) :
    (s.stopPacket c t e).mem.wf = true := by
  unfold State.stopPacket
  split <;> simp [h]

@[simp] theorem State.mem_packetAway (s : State) (c : Nat) (t : Transfer) (owner off n data : Nat) :
    (s.packetAway c t owner off n data).mem = s.mem := by simp [State.packetAway]
@[simp] theorem State.mem_packetHandler (s : State) (c : Nat) (t : Transfer) (de : Int) (n data : Nat) :
    (s.packetHandler c t de n data).mem = s.mem := by simp [State.packetHandler]
@[simp] theorem State.wf_checkTransfer (s : State) (c ch id : Nat) (h : s.mem.wf = true) : (s.checkTransfer c ch id).mem.wf = true := by
  unfold State.checkTransfer
  split <;> simp [h]

@[simp] theorem State.wf_sendPacket (s : State) (c : Nat) (t : Transfer) (de : Int) (lo hi data ts : Nat) (h : s.mem.wf = true) :
    (s.sendPacket c t de lo hi data ts).mem.wf = true := by
  unfold State.sendPacket
  dsimp only
  split
  · simp [h]
  · split
    · next e => simp [State.wf_of_snd e (by simp [h])]
    · next e => split <;> simp [State.wf_of_snd e (by simp [h])]
    · next e => split <;> simp [State.wf_of_snd e (by simp [h])]

theorem State.leftWf_readPacket (s : State) (c : Nat) (q : CopyReq) (se : Int) (n : Nat) (h : s.mem.wf = true) :
    LeftWf (fun x => x.2.2) (s.readPacket c q se n) := by
  unfold State.readPacket
  split
  · exact h
  · next lo hi _ =>
    split
    · exact h
    · have hb := State.leftWf_readBytes s c q.asid q.cls q.src q.t0 (se + lo) (hi - lo) h
      split
      · next e => exact hb.error e
      · next e => exact hb.of_ok e rfl

@[simp] theorem wf_execCopyPacketStart (c : Nat) (s : State) (h : s.mem.wf = true) : (execCopyPacketStart c s).Wf := by
  unfold execCopyPacketStart
  split
  · exact h
  · next t _ =>
    split
    · exact h
    · have hb := fun se n => State.leftWf_readPacket (s.modCore c fun k => { k with units := { k.units with lastChan := t.req.chan } }) c t.req se n
        (by simp [h])
      dsimp only
      refine State.wf_of_mem (State.mem_goOn ..) ?_
      split
      · simp [h]
      · split
        · next e => simp [(hb _ _).error e]
        · next e => simp [(hb _ _).ok e]

@[simp] theorem wf_execCopyPacketLanding (c ch id pkt : Nat) (s : State) (h : s.mem.wf = true) : (execCopyPacketLanding c ch id pkt s).Wf := by
  unfold execCopyPacketLanding
  split
  · exact h
  · split
    · exact h
    · next t _ _ p _ =>
      have hl : ∀ f, (((s.landPacket c t p).modTransfer c ch id f).endLine c ch id p.line).mem.wf = true := fun f =>
        State.wf_endLine _ _ _ _ _ (by simp [h])
      exact State.wf_ite_of (by simp [h]) (State.wf_ite_of (by simp [h]) (State.wf_ite_of (by simp [h]) (by simp [hl])))

@[simp] theorem State.mem_thaw (s : State) (c ch : Nat) : (s.thaw c ch).mem = s.mem := by simp [State.thaw]
@[simp] theorem wf_execChannelResume (c ch : Nat) (s : State) (h : s.mem.wf = true) :
    (execChannelResume c ch s).Wf := by simp [execChannelResume, h]

@[simp] theorem wf_execChannelFlush (c ch : Nat) (s : State) (h : s.mem.wf = true) : (execChannelFlush c ch s).Wf := by
  unfold execChannelFlush
  split
  · exact h
  · refine State.wf_of_mem (State.mem_thaw ..) (State.wf_foldl (fun s r h => State.wf_finishTransfer _ _ _ _ h) _ _ ?_)
    simp [h]

/-! ### Chain -/

theorem State.leftWf_chainBlock (s : State) (c : Nat) (r : ChainRun) (st : Stream) (k : Nat) (h : s.mem.wf = true) :
    LeftWf (fun x => x.2.2.2) (s.chainBlock c r st k) := by
  unfold State.chainBlock
  dsimp only
  split
  · exact h
  · exact h
  · next e0 _ n _ =>
    have hb := State.leftWf_readBytes s c r.req.asid r.req.cls st.rec_ r.req.t0 e0 n h
    split
    · next e => exact hb.error e
    · next e => split <;> exact hb.ok e

theorem State.leftWf_chainRead (s : State) (c : Nat) (r : ChainRun) (st : Stream) (k : Nat) (h : s.mem.wf = true) :
    LeftWf (fun x => x.2.2.2) (s.chainRead c r st k) := by
  unfold State.chainRead
  dsimp only
  split
  · split
    · split
      · exact h
      · exact State.leftWf_chainBlock _ _ _ _ _ h
    · exact State.leftWf_chainBlock _ _ _ _ _ h
  · split
    · exact h
    · exact h
    · next e0 _ n _ =>
      have hb := State.leftWf_readBytes s c r.req.asid r.req.cls st.rec_ r.req.t0 e0 n h
      split
      · next e => exact hb.error e
      · next e => exact hb.of_ok e rfl

@[simp] theorem State.wf_chainFlush (s : State) (c : Nat) (r : ChainRun) (h : s.mem.wf = true) : (s.chainFlush c r).2.mem.wf = true := by
  unfold State.chainFlush
  split <;> simp [h]

theorem State.leftWf_chainPiece (s : State) (c : Nat) (r : ChainRun) (e : Int) (n data mask : Nat) (h : s.mem.wf = true) :
    LeftWf Prod.snd (s.chainPiece c r e n data mask) := by
  unfold State.chainPiece
  dsimp only
  split
  · next e => exact State.wf_of_snd e (by simp [h])
  · next e =>
    have ht := State.wf_of_snd e (by simp [h])
    split
    · exact ht
    · simpa [LeftWf] using ht
  · next e =>
    have ht := State.wf_of_snd e (by simp [h])
    split
    · exact State.wf_chainFlush _ _ _ ht
    · exact ht

theorem State.leftWf_chainPieces (c : Nat) (e : Int) (data mask : Nat) (l : List (Nat × Nat)) : ∀ (s : State) (r : ChainRun), s.mem.wf = true →
    LeftWf Prod.snd (s.chainPieces c r e data mask l) := by
  induction l with
  | nil => exact fun _ _ h => h
  | cons g l ih =>
    intro s r h
    have hp := State.leftWf_chainPiece s c r (e + g.1) g.2 (data / 2 ^ (8 * g.1) % 2 ^ (8 * g.2)) (mask / 2 ^ (8 * g.1) % 2 ^ (8 * g.2)) h
    unfold State.chainPieces
    split
    · next e => exact hp.error e
    · next e => exact ih _ _ (hp.ok e)

theorem State.leftWf_chainPut (s : State) (c : Nat) (r : ChainRun) (w k data : Nat) (h : s.mem.wf = true) :
    LeftWf Prod.snd (s.chainPut c r w k data) := by
  unfold State.chainPut
  dsimp only
  split
  · exact State.leftWf_chainPieces _ _ _ _ _ _ _ h
  · split <;> exact h

theorem State.wf_chainRun (c n : Nat) : ∀ (s : State) (r : ChainRun) (a b : Stream) (group : List Nat), s.mem.wf = true →
    (s.chainRun c r a b group n).st.mem.wf = true := by
  induction n with
  | zero => exact fun _ _ _ _ _ h => h
  | succ n ih =>
    intro s r a b group h
    have ha := State.leftWf_chainRead s c r a r.next h
    unfold State.chainRun
    dsimp only
    split
    · next e => exact ha.error e
    · next r1 t e =>
      have ht := ha.ok e
      have hb : LeftWf (fun x => x.2.2.2) (if chTwo r then t.chainRead c r1 b r.next else .ok (0, b, r1, t)) := by
        split
        · exact State.leftWf_chainRead _ _ _ _ _ ht
        · exact ht
      split
      · next e => exact hb.error e
      · next t e =>
        have ht := hb.ok e
        have hput := fun r w k data => State.leftWf_chainPut t c r w k data ht
        split
        · split
          · exact ih _ _ _ _ _ ht
          · split
            · next e => exact (hput _ _ _ _).error e
            · next e => exact ih _ _ _ _ _ ((hput _ _ _ _).ok e)
        · split
          · next e => exact (hput _ _ _ _).error e
          · next e => exact ih _ _ _ _ _ ((hput _ _ _ _).ok e)

theorem State.leftWf_chainAmax (s : State) (c : Nat) (r : ChainRun) (h : s.mem.wf = true) : LeftWf Prod.snd (s.chainAmax c r) := by
  unfold State.chainAmax
  split
  · exact h
  · split
    · next e => exact State.wf_of_snd e (by simp [h])
    · next e => exact State.wf_of_snd e (by simp [h])
    · next e =>
      have ht := State.wf_of_snd e (by simp [h])
      split
      · exact ht
      · exact State.wf_engineWrite _ _ _ _ _ _ ht

@[simp] theorem State.mem_endCmd (s : State) (c id tc : Nat) : (s.endCmd c id tc).mem = s.mem := rfl
@[simp] theorem State.wf_chainEnd (s : State) (c : Nat) (r : ChainRun) (status : Nat) (h : s.mem.wf = true) :
    (s.chainEnd c r status).mem.wf = true := by simp [State.chainEnd, h]
@[simp] theorem State.mem_chainKeep (s : State) (c : Nat) (r : ChainRun) : (s.chainKeep c r).mem = s.mem := rfl
@[simp] theorem State.mem_chainRecords (s : State) (c : Nat) (r : ChainRun) : (s.chainRecords c r).2.2.2.mem = s.mem := by
  simp only [State.chainRecords]
  split <;> simp

@[simp] theorem State.wf_chainRead0 (s : State) (c : Nat) (r : ChainRun) (h : s.mem.wf = true) : (s.chainRead0 c r).mem.wf = true := by
  have hv := State.leftWf_readVirtual c r.req.asid r.req.t0 16 s r.req.addr h
  unfold State.chainRead0
  split
  · simp [h]
  · split
    · next e => simp [hv.error e]
    · next e => simp [hv.error e]
    · next e =>
      have ht := hv.ok e
      dsimp only at ht ⊢
      refine State.wf_ite_of (by simp [ht]) (State.wf_ite_of (by simp [ht]) ?_)
      split
      · next e =>
        have hu := State.wf_of_mem (congrArg (fun x => x.2.2.2.mem) e).symm (by simp [ht])
        refine State.wf_ite_of (by simp [hu]) ?_
        split <;> simp [hu]
      · next e => 
        have hu := State.wf_of_mem (congrArg (fun x => x.2.2.2.mem) e).symm (by simp [ht])
        simp [hu]

@[simp] theorem wf_execChainCommandAccept (c : Nat) (s : State) (h : s.mem.wf = true) : (execChainCommandAccept c s).Wf := by
  simp only [execChainCommandAccept]
  (repeat' split) <;> simp [h]

@[simp] theorem State.wf_chainChanged (s : State) (c : Nat) (r : ChainRun) (h : s.mem.wf = true) :
    (s.chainChanged c r).2.mem.wf = true := by
  simp only [State.chainChanged]
  (repeat' split) <;> simp [h]

@[simp] theorem wf_execChainCommandComplete (c : Nat) (s : State) (h : s.mem.wf = true) : (execChainCommandComplete c s).Wf := by
  unfold execChainCommandComplete
  split
  · exact h
  · split
    · exact h
    · split
      · exact h
      · split
        · simp [h]
        · split
          · next e => exact State.wf_of_snd e (by simp [h])
          · next r t e =>
            have hx := State.wf_chainRun c (chCount r - r.next) t r { rec_ := r.src, off := chOffset r 1 } { rec_ := r.src2, off := chOffset r 3 } []
              (State.wf_of_snd e (by simp [h]))
            dsimp only
            split
            · simp [hx]
            · simp [hx]
            · have ha := fun r q => State.leftWf_chainAmax _ c q (State.wf_chainFlush _ c r hx)
              split
              · next e => simp [(ha _ _).error e]
              · next e => simp [(ha _ _).error e]
              · next e => simp [(ha _ _).ok e]

/-! ### Sched -/

@[simp] theorem State.mem_modRec (s : State) (die name : Nat) (f : Rec → Rec) : (s.modRec die name f).mem = s.mem := rfl
@[simp] theorem State.mem_dropRec (s : State) (die name : Nat) : (s.dropRec die name).mem = s.mem := rfl
theorem State.leftWf_schedRead (s : State) (die asid t0 va n : Nat) (h : s.mem.wf = true) : LeftWf (fun x => x.2.2) (s.schedRead die asid t0 va n) :=
  State.leftWf_readVirtual _ _ _ _ _ _ h

theorem State.leftWf_schedAtomic (s : State) (die asid t0 va : Nat) (f : Nat → Nat) (h : s.mem.wf = true) :
    LeftWf (fun x => x.2.2) (s.schedAtomic die asid t0 va f) := by
  unfold State.schedAtomic
  split
  · next e => exact State.wf_of_snd e (by simp [h])
  · next e => exact State.wf_of_snd e (by simp [h])
  · next e =>
    have ht := State.wf_of_snd e (by simp [h])
    split
    · exact ht
    · exact State.wf_engineWrite _ _ _ _ _ _ ht

@[simp] theorem State.mem_schedJoin (s : State) (die asid va name : Nat) : (s.schedJoin die asid va name).mem = s.mem := by
  simp only [State.schedJoin]
  (repeat' split) <;> simp
@[simp] theorem State.mem_wantSelect (s : State) (die : Nat) : (s.wantSelect die).mem = s.mem := by simp [State.wantSelect]

theorem State.mem_enqueueRec {s t : State} {die cls name : Nat} (e : s.enqueueRec die cls name = some t) : t.mem = s.mem := by
  unfold State.enqueueRec at e
  dsimp only at e
  (repeat' split at e) <;> cases e <;> simp

@[simp] theorem State.mem_queueRec (s : State) (die name : Nat) : (s.queueRec die name).mem = s.mem := by
  unfold State.queueRec
  split
  · rfl
  · split
    · next e => simp [State.mem_enqueueRec e]
    · simp

@[simp] theorem State.mem_fillQueue (s : State) (die cls : Nat) : (s.fillQueue die cls).mem = s.mem := by simp [State.fillQueue]
@[simp] theorem State.wf_taskFault (s : State) (asid status addr ts : Nat) (h : s.mem.wf = true) :
    (s.taskFault asid status addr ts).mem.wf = true := by simp [State.taskFault, h]
@[simp] theorem State.mem_recWaits (s : State) (die name key : Nat) : (s.recWaits die name key).mem = s.mem := rfl
@[simp] theorem State.wf_endFailed (s : State) (die : Nat) (r : Rec) (status : Nat) (h : s.mem.wf = true) :
    (s.endFailed die r status).mem.wf = true := by simp [State.endFailed, h]

@[simp] theorem State.wf_failRec (s : State) (die : Nat) (r : Rec) (status : Nat) (h : s.mem.wf = true) : (s.failRec die r status).mem.wf = true := by
  have ha := fun f => State.leftWf_schedAtomic s die r.asid r.ts (recAddr r.addr + 56) f h
  unfold State.failRec
  split
  · next e => simp [(ha _).ok e]
  · next e => simp [(ha _).error e]
  · next e => simp [(ha _).error e]

@[simp] theorem State.wf_consider (s : State) (die name : Nat) (h : s.mem.wf = true) : (s.consider die name).mem.wf = true := by
  unfold State.consider
  split
  · exact h
  · next r _ =>
    have hr := State.leftWf_schedRead s die r.asid r.ts (recAddr name) 8 h
    split
    · next e => simp [hr.error e]
    · next e => simp [hr.error e]
    · next e =>
      have ht := hr.ok e
      dsimp only
      split
      · simp [ht]
      · split <;> simp [ht]

@[simp] theorem State.wf_enterView (s : State) (die name header origCls ts : Nat) (redun : Bool) (h : s.mem.wf = true) :
    (s.enterView die name header origCls ts redun).mem.wf = true := by simp [State.enterView, h]

theorem State.leftWf_releaseOne (s : State) (die : Nat) (r : Rec) (succ : Nat) (h : s.mem.wf = true) : LeftWf id (s.releaseOne die r succ) := by
  have ha := fun va f => State.leftWf_schedAtomic s die r.asid r.ts va f h
  unfold State.releaseOne
  extract_lets mark
  have hm : LeftWf id mark := by
    simp only [mark]
    split
    · split
      · next e => exact (ha _ _).ok e
      · next e => exact (ha _ _).error e
    · exact h
  clear_value mark
  cases mark with
  | error e => exact hm.error rfl
  | ok t =>
    have hb := fun va f => State.leftWf_schedAtomic t die r.asid r.ts va f (hm.ok rfl)
    dsimp only
    split
    · next e => exact (hb _ _).error e
    · next e =>
      have ht := (hb _ _).ok e
      simp only [LeftWf, id]
      split <;> simp [ht]

theorem State.leftWf_countHeader (s : State) (die : Nat) (r : Rec) (h : s.mem.wf = true) : LeftWf (fun x => x.2.2) (s.countHeader die r) := by
  have hr := State.leftWf_schedRead s die r.asid r.ts r.header 8 h
  unfold State.countHeader
  split
  · exact h
  · split
    · next e => exact hr.error e
    · next e =>
      have ha := fun va f => State.leftWf_schedAtomic _ die r.asid r.ts va f (hr.ok e)
      split
      · next e => exact (ha _ _).error e
      · next e => exact (ha _ _).of_ok e rfl

theorem State.leftWf_completeGraph (s : State) (die : Nat) (r : Rec) (h : s.mem.wf = true) : LeftWf id (s.completeGraph die r) := by
  have hr := State.leftWf_schedRead s die r.asid r.ts r.header 8 h
  unfold State.completeGraph
  split
  · next e => exact hr.error e
  · next e =>
    have ha := fun va f => State.leftWf_schedAtomic _ die r.asid r.ts va f (hr.ok e)
    split
    · next e => exact (ha _ _).of_ok e rfl
    · next e => exact (ha _ _).error e

@[simp] theorem State.wf_releaseFrom (die name list count n : Nat) : ∀ s : State, s.mem.wf = true → (s.releaseFrom die name list count n).mem.wf = true := by
  induction n with
  | zero => exact fun _ h => h
  | succ n ih =>
    intro s h
    unfold State.releaseFrom
    split
    · exact h
    · next r _ =>
      split
      · exact h
      · have hr := fun va k => State.leftWf_schedRead s die r.asid r.ts va k h
        dsimp only
        split
        · split
          · next e => simp [(hr _ _).error e]
          · next e => exact ih _ (by simp [(hr _ _).error e])
          · next e =>
            have ht := (hr _ _).ok e
            split
            · exact ih _ (by simp [ht])
            · have h1 := fun succ => State.leftWf_releaseOne _ die r succ ht
              split
              · next e => simp [(h1 _).error e]
              · next e => exact ih _ (by simp [(h1 _).error e])
              · next e =>
                have ht := (h1 _).ok e
                split
                · simpa using ht
                · exact ih _ (by simpa using ht)
        · split
          · have hc := State.leftWf_countHeader s die r h
            split
            · next e => simp [hc.error e]
            · next e => simp [hc.error e]
            · next e => simp [hc.ok e]
            · next e => exact ih _ (by simp [hc.ok e])
          · have hc := State.leftWf_completeGraph s die r h
            split
            · next e => simp [hc.error e]
            · next e => simp [hc.error e]
            · next e => simpa using hc.ok e

@[simp] theorem State.wf_retire (s : State) (die name : Nat) (h : s.mem.wf = true) : (s.retire die name).mem.wf = true := by
  unfold State.retire
  split
  · exact h
  · next r _ =>
    dsimp only
    split
    · simp [h]
    · split
      · simp [h]
      · have ha := fun va f => State.leftWf_schedAtomic s die r.asid r.ts va f h
        split
        · next e => simp [(ha _ _).error e]
        · next e => simp [(ha _ _).error e]
        · next e => simp [(ha _ _).ok e]

@[simp] theorem State.wf_noPage (s : State) (die : Nat) (r : Rec) (h : s.mem.wf = true) :
    (s.noPage die r).mem.wf = true := by simp [State.noPage, h]
@[simp] theorem State.mem_keepRoots (s : State) (die : Nat) (q : RootRun) : (s.keepRoots die q).mem = s.mem := rfl
@[simp] theorem State.mem_dropRoots (s : State) (die name : Nat) : (s.dropRoots die name).mem = s.mem := rfl

@[simp] theorem State.wf_runRoots (die n : Nat) : ∀ (s : State) (q : RootRun), s.mem.wf = true → (s.runRoots die q n).mem.wf = true := by
  induction n with
  | zero => exact fun _ _ h => h
  | succ n ih =>
    intro s q h
    unfold State.runRoots
    split
    · exact h
    · have hr := State.leftWf_schedRead s die q.asid 0 (q.list + 8 * q.next) 1 h
      dsimp only
      split
      · next e => exact ih _ _ (by simp [hr.error e])
      · next e => simp [hr.error e]
      · next e =>
        have ht := hr.ok e
        split
        · exact ih _ _ (by simp [ht])
        · split
          · simp [ht]
          · exact ih _ _ (by simp [ht])

@[simp] theorem State.wf_goRoots (s : State) (die name : Nat) (h : s.mem.wf = true) : (s.goRoots die name).mem.wf = true := by
  unfold State.goRoots
  split <;> simp [h]
@[simp] theorem State.wf_noRootPage (s : State) (die : Nat) (q : RootRun) (h : s.mem.wf = true) :
    (s.noRootPage die q).mem.wf = true := by simp [State.noRootPage, h]
@[simp] theorem State.wf_startRetire (s : State) (die name outcome : Nat) (h : s.mem.wf = true) :
    (s.startRetire die name outcome).mem.wf = true := by simp [State.startRetire, h]

@[simp] theorem State.wf_tileEnded (s : State) (die name status ts : Nat) (h : s.mem.wf = true) :
    (s.tileEnded die name status ts).mem.wf = true := by
  unfold State.tileEnded
  split <;> simp [h]

theorem State.leftWf_recReads (s : State) (die : Nat) (r : Rec) (on : Bool) (va n : Nat) (h : s.mem.wf = true) : LeftWf Prod.snd (s.recReads die r on va n) := by
  have hr := State.leftWf_schedRead s die r.asid r.ts va n h
  unfold State.recReads
  split
  · exact h
  · split
    · next e => exact hr.error e
    · next e => exact hr.of_ok e rfl

@[simp] theorem State.wf_judge (s : State) (die : Nat) (r : Rec) (l : List Word) (h : s.mem.wf = true) : (s.judge die r l).2.mem.wf = true := by
  have hr := fun (t : State) (ht : t.mem.wf = true) on va n => State.leftWf_recReads t die r on va n ht
  unfold State.judge
  dsimp only
  split
  · exact h
  · split
    · exact h
    · split
      · next e => exact (hr _ h _ _ _).error e
      · next e =>
        have h1 := (hr _ h _ _ _).ok e
        split
        · next e => exact (hr _ h1 _ _ _).error e
        · next e =>
          have h2 := (hr _ h1 _ _ _).ok e
          split
          · next e => exact (hr _ h2 _ _ _).error e
          · next e =>
            have h3 := (hr _ h2 _ _ _).ok e
            rw [apply_ite Prod.snd, ite_self]
            exact h3

@[simp] theorem State.mem_sendChild (s : State) (die : Nat) (m : Travel) : (s.sendChild die m).mem = s.mem := by
  unfold State.sendChild
  split <;> simp

@[simp] theorem State.wf_runChildren (s : State) (die : Nat) (r : Rec) (l : List Word) (count : Nat) (h : s.mem.wf = true) :
    (s.runChildren die r l count).mem.wf = true := by
  have ha := fun va f => State.leftWf_schedAtomic s die r.asid r.ts va f h
  unfold State.runChildren
  split
  · next e => simp [(ha _ _).error e]
  · next e => simp [(ha _ _).error e]
  · next e =>
    have ht := (ha _ _).ok e
    refine State.wf_of_mem (State.mem_schedJoin ..) (State.wf_of_mem (State.mem_foldl (fun s i => State.mem_sendChild ..) _ _) ?_)
    simp [ht]

@[simp] theorem State.mem_leaveQueue (s : State) (die : Nat) (r : Rec) : (s.leaveQueue die r).mem = s.mem := by simp [State.leaveQueue]

@[simp] theorem State.wf_selectRec (s : State) (die : Nat) (r : Rec) (h : s.mem.wf = true) : (s.selectRec die r).mem.wf = true := by
  have hr := fun va n => State.leftWf_schedRead s die r.asid r.ts va n h
  unfold State.selectRec
  split
  · next e => simp [(hr _ _).error e]
  · next e => simp [(hr _ _).error e]
  · next e =>
    have ht := (hr _ _).ok e
    dsimp only
    split
    · next e => simp [State.wf_of_snd e (by simp [ht])]
    · next e => simp [State.wf_of_snd e (by simp [ht])]
    · next e => simp [State.wf_of_snd e (by simp [ht])]
    · next e =>
      have hu := State.wf_of_snd e (by simp [ht])
      split <;> simp [hu]

@[simp] theorem wf_execTkqAccept (c : Nat) (s : State) (h : s.mem.wf = true) : (execTkqAccept c s).Wf := by
  unfold execTkqAccept
  dsimp only
  split
  · exact h
  · next a asid cls pt rest _ =>
    have hr := State.leftWf_schedRead s (dieOf c) asid pt a 1 h
    split
    · exact h
    · split
      · next e =>
        have ht := hr.ok e
        dsimp only at ht ⊢
        split
        · exact ht
        · split <;> simp [ht]
      · next e =>
        have ht := hr.error e
        dsimp only at ht ⊢
        split
        · exact ht
        · split <;> simp [ht]

@[simp] theorem wf_execCounterZeroWake (die name : Nat) (s : State) (h : s.mem.wf = true) : (execCounterZeroWake die name s).Wf := by
  unfold execCounterZeroWake
  split
  · simp [h]
  · split
    · exact h
    · next r _ =>
      have hr := fun va n => State.leftWf_schedRead s die r.asid r.ts va n h
      split
      · split
        · simp [h]
        · split
          · next e => simp [(hr _ _).ok e]
          · next e => simp [(hr _ _).error e]
      · split
        · next e => simp [(hr _ _).ok e]
        · next e => simp [(hr _ _).error e]
      · split <;> simp [h]
      · simp [h]
      · simp [h]
      · exact h

@[simp] theorem wf_execTaskSelect (die : Nat) (s : State) (h : s.mem.wf = true) : (execTaskSelect die s).Wf := by
  simp only [execTaskSelect]
  (repeat' split) <;> simp [h]
@[simp] theorem wf_execTileOffer (die name i : Nat) (s : State) (h : s.mem.wf = true) : (execTileOffer die name i s).Wf := by
  simp only [execTileOffer]
  (repeat' split) <;> simp [h]

/-! ### Engine -/

@[simp] theorem State.mem_modOp (s : State) (h id : Nat) (f : EngOp → EngOp) : (s.modOp h id f).mem = s.mem := rfl
@[simp] theorem State.mem_setTile (s : State) (h t : Nat) (v : Tile) : (s.setTile h t v).mem = s.mem := rfl
@[simp] theorem State.mem_borrowTile (s : State) (h : Nat) (o : EngOp) : (s.borrowTile h o).mem = s.mem := by
  simp only [State.borrowTile]
  (repeat' split) <;> simp
@[simp] theorem State.mem_returnTile (s : State) (h : Nat) (o : EngOp) : (s.returnTile h o).mem = s.mem := by
  simp only [State.returnTile]
  (repeat' split) <;> simp
@[simp] theorem State.mem_kick (s : State) (h : Nat) : (s.kick h).mem = s.mem := by simp [State.kick]
@[simp] theorem State.mem_acceptOp (s : State) (h : Nat) (o : EngOp) : (s.acceptOp h o).2.mem = s.mem := by simp [State.acceptOp]
@[simp] theorem State.mem_startOp (s : State) (h : Nat) (o : EngOp) (p : Nat) : (s.startOp h o p).mem = s.mem := by simp [State.startOp]
@[simp] theorem State.mem_countStart (s : State) (h id : Nat) : (s.countStart h id).mem = s.mem := by simp [State.countStart]
@[simp] theorem State.mem_resumeOp (s : State) (h id : Nat) : (s.resumeOp h id).mem = s.mem := by simp [State.resumeOp]

@[simp] theorem State.mem_startFirst (h : Nat) (l : List EngOp) : ∀ s : State, (s.startFirst h l).1.mem = s.mem := by
  induction l with
  | nil => exact fun _ => rfl
  | cons o l ih =>
    intro s
    unfold State.startFirst
    dsimp only
    split
    · split <;> simp [ih]
    · split <;> simp [ih]

@[simp] theorem State.mem_startNext (s : State) (h : Nat) : (s.startNext h).mem = s.mem := by
  unfold State.startNext
  dsimp only
  split
  · simp
  · have hf := State.mem_startFirst h ((sortBy (s.candKey h) (s.candidates h)).filter fun o => o.cls == 0) s
    split
    · next e => rw [e] at hf; exact hf
    · next e => rw [e] at hf; simpa using hf

@[simp] theorem State.mem_acceptAside (h c n : Nat) : ∀ s : State, (s.acceptAside h c n).mem = s.mem := by
  induction n with
  | zero => exact fun _ => rfl
  | succ n ih =>
    intro s
    unfold State.acceptAside
    dsimp only
    split
    · rfl
    · split
      · rfl
      · simp [ih]

@[simp] theorem State.mem_startAside (s : State) (h : Nat) (o : EngOp) : (s.startAside h o).mem = s.mem := by
  simp only [State.startAside]
  (repeat' split) <;> simp
@[simp] theorem State.mem_watchSlots (s : State) (h : Nat) : (s.watchSlots h).mem = s.mem := by simp [State.watchSlots]

@[simp] theorem wf_execEngineCandidateStart (h : Nat) (s : State) (hw : s.mem.wf = true) : (execEngineCandidateStart h s).Wf := by
  unfold execEngineCandidateStart
  extract_lets s1 s2 s3
  have h1 : s1.mem = s.mem := State.mem_foldl (fun s i => State.mem_acceptAside ..) _ _
  have h2 : s2.mem = s1.mem := State.mem_foldl (fun s i => State.mem_startAside ..) _ _
  have h3 : s3.mem = s2.mem := by
    simp only [s3]
    split
    · simp
    · exact State.mem_foldl (fun s i => State.mem_borrowTile ..) _ _
  simp [h3, h2, h1, hw]

/- The kernel would compute `hedgeAt`'s large sums when it compares the unfolded recursion with the function; the proof therefore
unfolds the recursion by its definition, with `hedgeAt` replaced by a variable. -/
theorem State.leftWf_padRead (h t0 : Nat) (w : Word × Word) (kb i q : Nat) (l : List (Nat × Nat)) : ∀ s : State, s.mem.wf = true →
    LeftWf (fun x => x.2.2) (s.padRead h t0 w kb i q l) := by
  obtain ⟨place, hplace⟩ : ∃ f, f = hedgeAt := ⟨_, rfl⟩
  delta State.padRead State.padRead._f
  rw [← hplace]
  clear hplace
  induction l with
  | nil => exact fun _ h => h
  | cons g l ih =>
    intro s hw
    dsimp only [List.brecOn, List.brecOn.go] at ih ⊢
    split
    · exact hw
    · have hr := fun n => ih (s.engineRead n t0).2 (State.wf_engineRead _ _ _ hw)
      split
      · next e => exact (hr _).error e
      · next e => exact (hr _).of_ok e rfl

theorem State.leftWf_rowBytes (s : State) (h : Nat) (o : EngOp) (b : Bool) (i q : Nat) (hw : s.mem.wf = true) :
    LeftWf (fun x => x.2.2) (s.rowBytes h o b i q) := by
  unfold State.rowBytes
  dsimp only
  split
  · exact State.leftWf_readBytes _ _ _ _ _ _ _ _ hw
  · split
    · exact State.leftWf_padRead _ _ _ _ _ _ _ _ hw
    · exact hw

theorem State.leftWf_rowsBytes (h : Nat) (o : EngOp) (b : Bool) (q : Nat) (l : List Nat) : ∀ s : State, s.mem.wf = true →
    LeftWf (fun x => x.2.2) (s.rowsBytes h o b q l) := by
  induction l with
  | nil => exact fun _ h => h
  | cons i l ih =>
    intro s hw
    have hb := fun i => State.leftWf_rowBytes s h o b i q hw
    unfold State.rowsBytes
    split
    · next e => exact (hb _).error e
    · next e =>
      have ht := ih _ ((hb _).ok e)
      split
      · next e => exact ht.error e
      · next e => exact ht.of_ok e rfl

@[simp] theorem State.mem_faultyPes (s : State) (h p m n : Nat) : (s.faultyPes h p m n).mem = s.mem :=
  State.mem_foldl (fun _ _ => by simp) _ _
@[simp] theorem State.mem_settleOp (s : State) (h id status : Nat) : (s.settleOp h id status).mem = s.mem := rfl

theorem State.leftWf_sparseRowBad (s : State) (h : Nat) (o : EngOp) (q i : Nat) (hw : s.mem.wf = true) : LeftWf Prod.snd (s.sparseRowBad h o q i) := by
  have hb := fun i => State.leftWf_rowBytes s h o false i q hw
  unfold State.sparseRowBad
  split
  · next e => exact (hb _).error e
  · next e => exact (hb _).error e
  · next e => exact State.wf_of_mem (State.mem_modOp ..) ((hb _).ok e)

theorem State.leftWf_sparseCheck (s : State) (h : Nat) (o : EngOp) (hw : s.mem.wf = true) : LeftWf Prod.snd (s.sparseCheck h o) := by
  unfold State.sparseCheck
  dsimp only
  split
  · exact hw
  · refine List.foldlRecOn (motive := LeftWf Prod.snd) _ _ hw fun r hr e _ => ?_
    cases r with
    | error x => exact hr
    | ok x =>
      have hb := State.leftWf_sparseRowBad x.2 h o e.1 e.2 hr
      change LeftWf Prod.snd (x.2.sparseRowBad h o e.1 e.2 >>= _)
      cases er : x.2.sparseRowBad h o e.1 e.2 with
      | error y => exact hb.error er
      | ok y => exact (hb.of_ok er rfl : LeftWf (ε := Nat) Prod.snd (.ok (x.1 || y.1, y.2)))

@[simp] theorem State.wf_startCommand (s : State) (h id : Nat) (again : Instr) (hw : s.mem.wf = true) : (s.startCommand h id again).mem.wf = true := by
  unfold State.startCommand
  split
  · exact hw
  · next o _ =>
    extract_lets d m n p s1
    have h1 : s1.mem.wf = true := by simp only [s1]; split <;> simp [hw]
    split
    · exact h1
    · split
      · simp [h1]
      · have hc := State.leftWf_sparseCheck s1 h o h1
        split
        · next e => simp [hc.error e]
        · next e => simp [hc.ok e]
        · next e =>
          have ht := hc.ok e
          dsimp only at ht ⊢
          split <;> simp [ht]

@[simp] theorem wf_execMma (h id : Nat) (s : State) (hw : s.mem.wf = true) : (execMma h id s).Wf := by simp [execMma, hw]
@[simp] theorem wf_execMmac (h id : Nat) (s : State) (hw : s.mem.wf = true) : (execMmac h id s).Wf := by simp [execMmac, hw]
@[simp] theorem wf_execZero (h id : Nat) (s : State) (hw : s.mem.wf = true) : (execZero h id s).Wf := by
  unfold execZero
  split <;> simp [hw]

@[simp] theorem State.wf_kStep (s : State) (h : Nat) (o : EngOp) (hw : s.mem.wf = true) : (s.kStep h o).mem.wf = true := by
  have hb := fun (t : State) (ht : t.mem.wf = true) b l => State.leftWf_rowsBytes h o b o.k l t ht
  unfold State.kStep
  extract_lets d m n p stop
  have hs : ∀ x : EStop × State, x.2.mem.wf = true → (stop x).mem.wf = true := fun x hx => by
    simp only [stop]
    split <;> simp [hx]
  split
  · next e => exact hs _ ((hb _ hw _ _).error e)
  · next e =>
    have h1 := (hb _ hw _ _).ok e
    split
    · next e => exact hs _ ((hb _ h1 _ _).error e)
    · next e =>
      have h2 := (hb _ h1 _ _).ok e
      dsimp only at h2 ⊢
      refine State.wf_ite_of (by simp [h2]) (State.wf_ite_of (by simp [h2]) (State.wf_ite_of ?_ ?_)) <;> simp [h2]

@[simp] theorem State.mem_overtake (s : State) (h : Nat) : (s.overtake h).mem = s.mem := by
  simp only [State.overtake]
  (repeat' split) <;> simp
@[simp] theorem wf_execKStepBoundary (h : Nat) (s : State) (hw : s.mem.wf = true) : (execKStepBoundary h s).Wf := by
  unfold execKStepBoundary
  split <;> simp [hw]

theorem State.mem_selfCheck (s : State) (h m n : Nat) : (s.selfCheck h m n).2.mem = s.mem := by
  unfold State.selfCheck
  refine List.foldlRecOn (motive := fun r : Option (Nat × Nat) × State => r.2.mem = s.mem) _ _ rfl fun r hr i _ => ?_
  refine List.foldlRecOn (motive := fun r : Option (Nat × Nat) × State => r.2.mem = s.mem) _ _ hr fun r hr j _ => ?_
  dsimp only
  split
  · exact hr
  · simpa using hr

@[simp] theorem State.mem_classZeroEnded (s : State) (h : Nat) (o : EngOp) :
    (s.classZeroEnded h o).mem = s.mem := by simp [State.classZeroEnded]
@[simp] theorem State.mem_opGone (s : State) (h : Nat) (o : EngOp) : (s.opGone h o).mem = s.mem := by
  unfold State.opGone
  split <;> simp
@[simp] theorem State.mem_engineRecord (s : State) (o : EngOp) (status tag : Nat) (event : Bool) :
    (s.engineRecord o status tag event).mem = s.mem := by simp [State.engineRecord]
@[simp] theorem State.mem_startTaskDrain (s : State) (h : Nat) (o : EngOp) :
    (s.startTaskDrain h o).mem = s.mem := by simp [State.startTaskDrain]

@[simp] theorem wf_execMatrixCommandComplete (h id : Nat) (s : State) (hw : s.mem.wf = true) : (execMatrixCommandComplete h id s).Wf := by
  unfold execMatrixCommandComplete
  split
  · exact hw
  · next o _ =>
    dsimp only
    generalize hc : (if o.check && o.status.getD 0 = 0 then s.selfCheck h (cmdRows o.d0.toNat false) (cmdRows o.d0.toNat true) else (none, s)) = checked
    have hp : checked.2.mem.wf = true := by
      rw [← hc, apply_ite Prod.snd]
      split <;> simp [State.mem_selfCheck, hw]
    clear hc
    obtain ⟨bad, t⟩ := checked
    dsimp only at hp ⊢
    cases bad <;> dsimp only <;> (repeat' split) <;> simp [hp]

@[simp] theorem wf_execTileSpillComplete (h t : Nat) (s : State) (hw : s.mem.wf = true) :
    (execTileSpillComplete h t s).Wf := by simp [execTileSpillComplete, hw]

@[simp] theorem wf_execBorrowReturn (h : Nat) (s : State) (hw : s.mem.wf = true) : (execBorrowReturn h s).Wf := by
  unfold execBorrowReturn
  dsimp only
  split
  · exact hw
  · rw [Out.wf_next, State.mem_modHedge, State.mem_foldl (fun _ _ => State.mem_after ..)]
    exact hw

@[simp] theorem wf_execTileRefillComplete (h t : Nat) (s : State) (hw : s.mem.wf = true) : (execTileRefillComplete h t s).Wf := by
  unfold execTileRefillComplete
  split <;> simp [hw]
@[simp] theorem wf_execSlotBoundary (h : Nat) (s : State) (hw : s.mem.wf = true) :
    (execSlotBoundary h s).Wf := by simp [execSlotBoundary, hw]
@[simp] theorem wf_execFrameStart (h : Nat) (s : State) (hw : s.mem.wf = true) : (execFrameStart h s).Wf := by
  unfold execFrameStart
  split <;> simp [hw]
@[simp] theorem State.mem_modThread (s : State) (c slot : Nat) (f : Ctx → Ctx) : (s.modThread c slot f).mem = s.mem := rfl
@[simp] theorem wf_execAccldComplete (h id : Nat) (s : State) (hw : s.mem.wf = true) : (execAccldComplete h id s).Wf := by
  unfold execAccldComplete
  split <;> simp [hw]
@[simp] theorem wf_execAccstComplete (h id : Nat) (s : State) (hw : s.mem.wf = true) : (execAccstComplete h id s).Wf := by
  unfold execAccstComplete
  split <;> simp [hw]
@[simp] theorem State.wf_drainDone (s : State) (h id : Nat) (hw : s.mem.wf = true) : (s.drainDone h id).mem.wf = true := by
  simp only [State.drainDone]
  (repeat' split) <;> simp [hw]

@[simp] theorem State.wf_drainFail (s : State) (h id status : Nat) (hw : s.mem.wf = true) : (s.drainFail h id status).mem.wf = true := by
  unfold State.drainFail
  split
  · exact hw
  · split
    · exact hw
    · refine State.wf_drainDone _ _ _ (State.wf_foldl (fun s l h => State.wf_releasePin _ _ h) _ _ ?_)
      simp [hw]

@[simp] theorem State.mem_drainAway (s : State) (h : Nat) (o : EngOp) (l : List (Nat × Nat)) :
    (s.drainAway h o l).mem = s.mem := by simp [State.drainAway]

@[simp] theorem wf_execDrainStart (h id : Nat) (s : State) (hw : s.mem.wf = true) : (execDrainStart h id s).Wf := by
  unfold execDrainStart
  split
  · exact hw
  · refine State.wf_ite_of hw (State.wf_ite_of (by simp [hw]) (State.wf_ite_of (by simp [hw]) (State.wf_ite_of (by simp [hw])
      (State.wf_ite_of (by simp [hw]) (State.wf_ite_of ?_ ?_)))))
    · dsimp only
      split <;> simp [hw]
    · dsimp only
      split
      · simp [hw]
      · split <;> simp [hw]

/- The kernel would run `engineWrite` on a whole line's mask to see the pair it gives; the proof replaces it by a variable. -/
@[simp] theorem wf_execDrainLineWrite (h id line : Nat) (s : State) (hw : s.mem.wf = true) : (execDrainLineWrite h id line s).Wf := by
  have hset := State.wf_engineWrite
  unfold execDrainLineWrite
  obtain ⟨set, hdef⟩ : ∃ f, f = State.engineWrite := ⟨_, rfl⟩
  rw [← hdef] at hset ⊢
  clear hdef
  split
  · exact hw
  · next o _ =>
    dsimp only
    split
    · exact hw
    · split
      · split <;> simp [hw]
      · split
        · simp [hw]
        · split
          · split
            · refine State.wf_drainFail _ _ _ _ (State.wf_releasePin _ _ ?_)
              simp [hset, hw]
            · simp [hw]
          · split
            · refine State.wf_of_mem (State.mem_post ..) (State.wf_releasePin _ _ ?_)
              simp [hset, hw]
            · refine State.wf_of_mem (State.mem_post ..) (State.wf_releasePin _ _ ?_)
              simp [hset, hw]

@[simp] theorem wf_execDrainComplete (h id : Nat) (s : State) (hw : s.mem.wf = true) : (execDrainComplete h id s).Wf := by
  unfold execDrainComplete
  split <;> simp [hw]
@[simp] theorem State.wf_wakeTaken (s : State) (m : Travel) (h : s.mem.wf = true) : (s.wakeTaken m).mem.wf = true := by
  unfold State.wakeTaken
  split <;> simp [h]

@[simp] theorem wf_execWakeArrival (dst : Nat) (m : Travel) (s : State) (h : s.mem.wf = true) : (execWakeArrival dst m s).Wf := by
  unfold execWakeArrival
  split
  · next e =>
    have ht := State.wf_intercept h e
    split <;> simp [ht]
  · dsimp only
    split
    · simp [h]
    · split
      · simp [h]
      · split <;> simp [h]

end Sys2Proof.Machine
end

section
/-! Memory stays canonical through snapshots, rollbacks, jobs and faults. -/

namespace Sys2Proof.Machine

/-! ### Snapshot -/

@[simp] theorem State.wf_setLeaf (s : State) (asid va slot entry st : Nat) (h : s.mem.wf = true) :
    (s.setLeaf asid va slot entry st).mem.wf = true := by simp [State.setLeaf, h, Memory.wf_write]

@[simp] theorem State.wf_normalLeaves (s : State) (asids : List Nat) (h : s.mem.wf = true) : (s.normalLeaves asids).mem.wf = true := by
  refine State.wf_foldl (fun s l h => ?_) _ _ h
  dsimp only
  split <;> simp [h]

@[simp] theorem State.mem_wakeWaiters (s : State) (key : Nat) : (s.wakeWaiters key).mem = s.mem := by simp [State.wakeWaiters]
@[simp] theorem State.mem_wakeCopies (s : State) : (s.wakeCopies).mem = s.mem := by simp [State.wakeCopies]
@[simp] theorem State.mem_restock (s : State) : (s.restock).mem = s.mem := rfl
@[simp] theorem State.wf_dropSnap (s : State) (i status : Nat) (h : s.mem.wf = true) : (s.dropSnap i status).mem.wf = true := by
  unfold State.dropSnap
  split <;> simp [h]
@[simp] theorem State.mem_openHeld (s : State) : (s.openHeld).mem = s.mem := by
  unfold State.openHeld
  split <;> simp
@[simp] theorem State.wf_failOpen (s : State) (h : s.mem.wf = true) : (s.failOpen).mem.wf = true := by
  unfold State.failOpen
  split <;> simp [h]
@[simp] theorem State.mem_yewAnswer (s : State) (job status : Nat) : (s.yewAnswer job status).mem = s.mem := rfl
@[simp] theorem wf_execYewRelease (job tag : Nat) (s : State) (h : s.mem.wf = true) : (execYewRelease job tag s).Wf := by
  unfold execYewRelease
  split <;> simp [h]

@[simp] theorem State.mem_openSnapshot (s : State) (job tag : Nat) : (s.openSnapshot job tag).mem = s.mem := by
  unfold State.openSnapshot
  split
  · rfl
  · dsimp only
    rw [State.mem_after]
    dsimp only
    rw [State.mem_foldl (fun _ _ => State.mem_post ..), State.mem_foldl (fun _ _ => State.mem_post ..), State.mem_foldl (fun _ _ => State.mem_post ..)]

@[simp] theorem wf_execSnapshotOpen (job tag : Nat) (s : State) (h : s.mem.wf = true) :
    (execSnapshotOpen job tag s).Wf := by simp [execSnapshotOpen, h]
@[simp] theorem wf_execSnapRequest (c slot tag : Nat) (s : State) (h : s.mem.wf = true) : (execSnapRequest c slot tag s).Wf := by
  simp only [execSnapRequest]
  (repeat' split) <;> simp [h]
@[simp] theorem wf_execSnapshotMarker (c tag : Nat) (s : State) (h : s.mem.wf = true) : (execSnapshotMarker c tag s).Wf := by
  unfold execSnapshotMarker
  split <;> simp [h]
@[simp] theorem State.wf_copyPage (s : State) (base : Nat) (h : s.mem.wf = true) : (s.copyPage base).1.mem.wf = true := by
  simp only [State.copyPage]
  (repeat' split) <;> simp [h]

@[simp] theorem wf_execSnapPageCopy (die asid va : Nat) (s : State) (h : s.mem.wf = true) : (execSnapPageCopy die asid va s).Wf := by
  unfold execSnapPageCopy
  dsimp only
  split
  · simp [h]
  · next e0 _ =>
    split
    · next e => simp [State.wf_of_fst e (by simp [h])]
    · next e =>
      have ht := State.wf_of_fst e (by simp [h])
      split <;> simp [ht]

@[simp] theorem wf_execSramPageCopy (page : Nat) (s : State) (h : s.mem.wf = true) : (execSramPageCopy page s).Wf := by
  unfold execSramPageCopy
  split
  · next e => simp [State.wf_of_fst e (by simp [h])]
  · next e => simp [State.wf_of_fst e (by simp [h])]

@[simp] theorem wf_execCutLineCopy (line : Nat) (s : State) (h : s.mem.wf = true) : (execCutLineCopy line s).Wf := h

@[simp] theorem wf_execPinnedPageCopy (page : Nat) (s : State) (h : s.mem.wf = true) : (execPinnedPageCopy page s).Wf := by
  unfold execPinnedPageCopy
  split
  · next e => simp [State.wf_of_fst e (by simp [h])]
  · next e => simp [State.wf_of_fst e (by simp [h])]

@[simp] theorem wf_execSnapshotLeafRewrite (die asid va : Nat) (s : State) (h : s.mem.wf = true) :
    (execSnapshotLeafRewrite die asid va s).Wf := by
  simp only [execSnapshotLeafRewrite]
  (repeat' split) <;> simp [h]

@[simp] theorem wf_execSnapshotFinish (job tag : Nat) (s : State) (h : s.mem.wf = true) : (execSnapshotFinish job tag s).Wf := by
  simp only [execSnapshotFinish]
  (repeat' split) <;> simp [h]

/-! ### Rollback -/

@[simp] theorem State.mem_dropSolves (s : State) (mine : Nat → Bool) : (s.dropSolves mine).mem = s.mem :=
  State.mem_foldl (fun _ _ => State.mem_post ..) _ _
@[simp] theorem State.mem_dropJoiners (s : State) (mine : Nat → Bool) : (s.dropJoiners mine).mem = s.mem := rfl
@[simp] theorem State.mem_dropEntries (s : State) (mine : Nat → Bool) : (s.dropEntries mine).mem = s.mem := rfl
@[simp] theorem State.wf_dropEngines (s : State) (mine : Nat → Bool) (h : s.mem.wf = true) :
    (s.dropEngines mine).mem.wf = true := by simp [State.dropEngines, h]
@[simp] theorem State.mem_dropMessages (s : State) (mine : Nat → Bool) : (s.dropMessages mine).mem = s.mem := rfl
@[simp] theorem State.mem_raiseTimes (s : State) (tmax : Nat) (bases pages : List Nat) : (s.raiseTimes tmax bases pages).mem = s.mem := rfl
@[simp] theorem State.wf_putPage (s : State) (base : Nat) (image : Memory × Tab Bool) (h : s.mem.wf = true) :
    (s.putPage base image).mem.wf = true := by simp [State.putPage, h, Memory.wf_write]

@[simp] theorem State.wf_resumeCore (s : State) (c : Nat) (img : Core) (m : Nat → Nat) (h : s.mem.wf = true) : (s.resumeCore c img m).mem.wf = true := by
  unfold State.resumeCore
  extract_lets s1 s2 s3 s4 k s5 s6 s7
  have h1 : s1.mem.wf = true := State.wf_foldl (fun s e h => by dsimp only; split <;> simp [h]) _ _ h
  have h2 : s2.mem.wf = true := State.wf_foldl (fun s t h => State.wf_foldl (fun s p h => by split <;> simp [h]) _ _ (by simp [h])) _ _ h1
  have h3 : s3.mem.wf = true := State.wf_foldl (fun s r h => by simp [h]) _ _ h2
  have h4 : s4.mem.wf = true := State.wf_foldl (fun s r h => by simp [h]) _ _ h3
  have h5 : s5.mem.wf = true := State.wf_ite_of h4 (by simp [h4])
  have h6 : s6.mem.wf = true := State.wf_ite_of h5 (by simp [h5])
  have h7 : s7.mem.wf = true := State.wf_ite_of h6 (by simp [h6])
  simp [h7]

@[simp] theorem State.wf_restoreCore (s : State) (asids : List Nat) (m : Nat → Nat) (tmax : Nat) (cut : CoreCut) (h : s.mem.wf = true) :
    (s.restoreCore asids m tmax cut).mem.wf = true := by simp [State.restoreCore, h]
@[simp] theorem State.mem_resumeStep (s : State) (h : Nat) (running : Option Nat) (o : EngOp) : (s.resumeStep h running o).mem = s.mem := by
  simp only [State.resumeStep]
  (repeat' split) <;> simp
@[simp] theorem State.mem_restoreHedge (s : State) (core m : Nat → Nat) (h : Nat) (img : Hedge) :
    (s.restoreHedge core m h img).mem = s.mem := by simp [State.restoreHedge]
@[simp] theorem State.wf_resumeRec (s : State) (die : Nat) (r : Rec) (h : s.mem.wf = true) : (s.resumeRec die r).mem.wf = true := by
  unfold State.resumeRec
  split <;> simp [h]
@[simp] theorem State.wf_restoreSched (s : State) (die : Nat) (cut : SchedCut) (h : s.mem.wf = true) : (s.restoreSched die cut).mem.wf = true := by
  refine State.wf_foldl (fun s q h => by simp [h]) _ _ (State.wf_foldl (fun s r h => by simp [h]) _ _ ?_)
  simp [h]

@[simp] theorem State.wf_reaccept (s : State) (i : Instr) (h : s.mem.wf = true) : (s.reaccept i).mem.wf = true := by
  unfold State.reaccept
  refine Out.wf_state ?_ h
  split <;> simp [h]

@[simp] theorem State.wf_rollbackTo (s : State) (j : Job) (i : Nat) (n : Snap) (h : s.mem.wf = true) : (s.rollbackTo j i n).mem.wf = true := by
  unfold State.rollbackTo
  extract_lets mine leaves base tmax s1 yew1 s2 pinned moves images s3 s4 later fix yew4 s5 s6 forget s7 s8 s9 core s10 s11
  have h1 : s1.mem.wf = true := by simp [s1, h]
  have h3 : s3.mem.wf = true := by simp [s3, s2, h1]
  have h4 : s4.mem.wf = true := State.wf_foldl (fun s p h => by simp [h]) _ _ h3
  have h6 : s6.mem.wf = true := State.wf_foldl (fun s p h => State.wf_ite_of (by simp [h]) h) _ _ h4
  have h8 : s8.mem.wf = true := State.wf_of_mem (State.mem_modJob ..) h6
  have h9 : s9.mem.wf = true := State.wf_foldl (fun s k h => by simp [h]) _ _ h8
  have h10 : s10.mem.wf = true := State.wf_foldl (fun s k h => by simp [h]) _ _ h9
  have h11 : s11.mem.wf = true := State.wf_foldl (fun s k h => by simp [h]) _ _ h10
  exact State.wf_of_mem (State.mem_wakeCopies ..) (State.wf_foldl State.wf_reaccept _ _ h11)

theorem State.wf_rollback {s t : State} {job tag : Nat} (h : s.mem.wf = true) (e : s.rollback job tag = some t) : t.mem.wf = true := by
  unfold State.rollback at e
  extract_lets s' at e
  have h' : s'.mem.wf = true := by
    simp only [s']
    split
    · split <;> simp [h]
    · exact h
  split at e
  · obtain ⟨n, -, rfl⟩ := Option.map_eq_some_iff.1 e
    simp [h']
  · cases e

@[simp] theorem wf_execYewRollback (job tag : Nat) (s : State) (h : s.mem.wf = true) : (execYewRollback job tag s).Wf := by
  unfold execYewRollback
  split
  · next e => simp [State.wf_rollback h e]
  · simp [h]

@[simp] theorem State.wf_yewCommanded (s : State) (job : Nat) (d0 d1 : Word) (h : s.mem.wf = true) :
    (s.yewCommanded job d0 d1).mem.wf = true := by simp [State.yewCommanded, h]
@[simp] theorem State.wf_strikeStore (s : State) (i word : Nat) (h : s.mem.wf = true) : (s.strikeStore i word).mem.wf = true := by
  unfold State.strikeStore
  split <;> simp [h]

/-! ### Jobs -/

@[simp] theorem State.mem_modQueue (s : State) (die queue : Nat) (f : HQueue → HQueue) : (s.modQueue die queue f).mem = s.mem := rfl
@[simp] theorem State.mem_capFault (s : State) (die queue : Nat) : (s.capFault die queue).mem = s.mem := rfl
@[simp] theorem State.wf_answerCmd (s : State) (cmd : HostCmd) (status : Nat) (h : s.mem.wf = true) :
    (s.answerCmd cmd status).mem.wf = true := by simp [State.answerCmd, h, Memory.wf_write]
@[simp] theorem State.mem_forward (s : State) (cmd : HostCmd) (j : Job) : (s.forward cmd j).mem = s.mem := by simp [State.forward]
@[simp] theorem State.mem_stopJob (s : State) (j : Job) : (s.stopJob j).mem = s.mem := by simp [State.stopJob]
@[simp] theorem State.mem_dropCopies (s : State) (mine : Nat → Bool) (c : Nat) :
    (s.dropCopies mine c).mem = s.mem := by simp [State.dropCopies]
@[simp] theorem State.mem_dropCandidates (s : State) (mine : Nat → Bool) (h : Nat) :
    (s.dropCandidates mine h).mem = s.mem := by simp [State.dropCandidates]
@[simp] theorem State.mem_closeAsid (s : State) (asid : Nat) : (s.closeAsid asid).mem = s.mem := by simp [State.closeAsid]
@[simp] theorem State.wf_dropSnaps (s : State) (job : Nat) (h : s.mem.wf = true) : (s.dropSnaps job).mem.wf = true := by
  refine State.wf_foldl (fun s i h => ?_) _ _ (by simp [h])
  (repeat' split) <;> simp [h]
@[simp] theorem State.mem_dropBlocks (s : State) (mine : Nat → Bool) : (s.dropBlocks mine).mem = s.mem := rfl
@[simp] theorem State.wf_resumeOthers (s : State) (c : Nat) (h : s.mem.wf = true) :
    (s.resumeOthers c).mem.wf = true := by simp [State.resumeOthers, h]

@[simp] theorem State.wf_endJob (s : State) (j : Job) (h : s.mem.wf = true) : (s.endJob j).mem.wf = true := by
  unfold State.endJob
  extract_lets mine s1 s2 s3 s4 s5 s6 s7 s8
  have h1 : s1.mem.wf = true := State.wf_dropSnaps _ _ h
  have h2 : s2.mem.wf = true := State.wf_foldl (fun s e h => by simp [h]) _ _ h1
  have h3 : s3.mem.wf = true := State.wf_foldl (fun s e h => by simp [h]) _ _ h2
  have h4 : s4.mem.wf = true := by simp [s4, h3]
  have h5 : s5.mem.wf = true := by simp [s5, h4]
  have h6 : s6.mem.wf = true := State.wf_foldl (fun s e h => by simp [h]) _ _ h5
  have h7 : s7.mem.wf = true := State.wf_foldl (fun s e h => by simp [h]) _ _ h6
  have h8 : s8.mem.wf = true := State.wf_foldl (fun s e h => State.wf_ite_of h (by simp [h])) _ _ h7
  simp [h8]

@[simp] theorem State.wf_stopServed (s : State) (cmd : HostCmd) (j : Job) (h : s.mem.wf = true) :
    (s.stopServed cmd j).mem.wf = true := by simp [State.stopServed, h]
@[simp] theorem State.wf_stopAcked (s : State) (num chip : Nat) (h : s.mem.wf = true) : (s.stopAcked num chip).mem.wf = true := by
  exact State.wf_foldl (fun s e h => by simp [h]) _ _ h
@[simp] theorem wf_execStop (cmd : HostCmd) (s : State) (h : s.mem.wf = true) : (execStop cmd s).Wf := by
  simp only [execStop]
  (repeat' split) <;> simp [h]

/-! ### Faults -/

@[simp] theorem wf_execIllegalEncoding (c slot word : Nat) (s : State) (h : s.mem.wf = true) :
    (execIllegalEncoding c slot word s).Wf := by simp [execIllegalEncoding, h]
@[simp] theorem wf_execEntryFaultAtFetch (c slot : Nat) (s : State) (h : s.mem.wf = true) :
    (execEntryFaultAtFetch c slot s).Wf := by simp [execEntryFaultAtFetch, h]
@[simp] theorem wf_execFrozenThreadReissue (c slot : Nat) (s : State) (h : s.mem.wf = true) : (execFrozenThreadReissue c slot s).Wf := by
  unfold execFrozenThreadReissue
  split <;> simp [h]
@[simp] theorem State.wf_endFrozen (s : State) (c slot : Nat) (h : s.mem.wf = true) :
    (s.endFrozen c slot).mem.wf = true := by simp [State.endFrozen, h]
@[simp] theorem State.wf_endPair (s : State) (c slot : Nat) (x : Ctx) (h : s.mem.wf = true) : (s.endPair c slot x).mem.wf = true := by
  unfold State.endPair
  split <;> simp [h]
@[simp] theorem wf_execFrozenThreadEnd (c slot : Nat) (s : State) (h : s.mem.wf = true) : (execFrozenThreadEnd c slot s).Wf := by
  unfold execFrozenThreadEnd
  split <;> simp [h]

@[simp] theorem wf_execFrozenThreadFaultEntry (c slot entry : Nat) (s : State) (h : s.mem.wf = true) :
    (execFrozenThreadFaultEntry c slot entry s).Wf := by
  unfold execFrozenThreadFaultEntry
  split <;> simp [h]

@[simp] theorem wf_execHeartbeat (c : Nat) (s : State) (h : s.mem.wf = true) : (execHeartbeat c s).Wf := h
@[simp] theorem wf_execHeartbeatTimeout (c : Nat) (s : State) (h : s.mem.wf = true) :
    (execHeartbeatTimeout c s).Wf := by simp [execHeartbeatTimeout, h]
@[simp] theorem State.mem_commitRename (s : State) (name : Nat) (r : Rename) : (s.commitRename name r).mem = s.mem := rfl

@[simp] theorem State.wf_stopEngines (s : State) (c : Nat) (h : s.mem.wf = true) : (s.stopEngines c).mem.wf = true := by
  unfold State.stopEngines
  extract_lets s1
  have h1 : s1.mem.wf = true := State.wf_foldl (fun s e h => State.wf_ite_of h (by simp [h])) _ _ h
  clear_value s1
  split
  · exact h1
  · refine State.wf_releasePins _ _ (State.wf_ite_of h1 ?_)
    dsimp only
    split <;> simp [h1]

@[simp] theorem State.wf_stopPorter (s : State) (c : Nat) (h : s.mem.wf = true) : (s.stopPorter c).mem.wf = true := by
  exact State.wf_foldl (fun s e h => by simp [h]) _ _ h
@[simp] theorem State.mem_failRounds (s : State) (name : Nat) : (s.failRounds name).mem = s.mem := by simp [State.failRounds]

@[simp] theorem wf_execCoreKill (c cause : Nat) (s : State) (h : s.mem.wf = true) : (execCoreKill c cause s).Wf := by
  unfold execCoreKill
  extract_lets k name jobs cycle uncut s1 s2 s3 orphan s4 s5 killed s6 s7
  split
  · exact h
  · split
    · simp [h]
    · have h3 : s3.mem.wf = true := by simp [s3, s2, s1, h]
      have h5 : s5.mem.wf = true := by simp only [s5, s4, State.mem_modHedge, h3]
      have h6 : s6.mem.wf = true := State.wf_foldl (fun s j h => by simp [h]) _ _ h5
      have h7 : s7.mem.wf = true := State.wf_of_mem (State.mem_modCore ..) h6
      clear_value uncut
      split <;> simp [h7]

@[simp] theorem State.wf_resendReturned (s : State) (h : s.mem.wf = true) : (s.resendReturned).mem.wf = true := by
  refine State.wf_foldl (fun s e h => ?_) _ _ h
  dsimp only
  split
  · exact h
  · refine State.wf_foldl (fun s q h => ?_) _ _ (by simp [h])
    split <;> simp [h]

@[simp] theorem State.wf_placeKnown (s : State) (c asid blk : Nat) (h : s.mem.wf = true) : (s.placeKnown c asid blk).mem.wf = true := by
  unfold State.placeKnown
  split
  · exact h
  · split
    · exact h
    · split
      · exact h
      · split
        · next t e =>
          cases t with
          | none => exact h
          | some t => exact State.wf_of_mem (State.mem_loadText_error e) h
        · next e => simp [State.wf_loadText_ok h e]

@[simp] theorem State.wf_blankSram (s : State) (c : Nat) (h : s.mem.wf = true) :
    (s.blankSram c).mem.wf = true := by simp [State.blankSram, h, Memory.wf_filter]

@[simp] theorem State.wf_prepareSpare (s : State) (c spare : Nat) (h : s.mem.wf = true) : (s.prepareSpare c spare).mem.wf = true := by
  unfold State.prepareSpare
  extract_lets k fresh s1 s2 s3
  have h1 : s1.mem.wf = true := by simp [s1, h]
  have h2 : s2.mem.wf = true := State.wf_foldl (fun s p h => by
    split
    · next b _ =>
      cases e : s.loadText spare b.image p with
      | error x => exact h
      | ok t => exact State.wf_loadText_ok h e
    · exact h) _ _ h1
  exact State.wf_of_mem (State.mem_modCore ..) (State.wf_of_mem (State.mem_modDie ..) h2)

@[simp] theorem State.wf_recover (s : State) (j : Job) (c name n : Nat) (h : s.mem.wf = true) : (s.recover j c name n).mem.wf = true := by
  unfold State.recover
  dsimp only
  split
  · simp [h]
  · split
    · next e => exact State.wf_of_mem (State.mem_takeIn e) (by simp [h])
    · simp [h]

@[simp] theorem State.wf_restart (s : State) (cause name c : Nat) (lost : Bool) (e : Nat × Nat) (h : s.mem.wf = true) : (s.restart cause name c lost e).mem.wf = true := by
  unfold State.restart
  split
  · exact h
  · next j _ =>
    split
    · split
      · simp [h]
      · split
        · simp [h]
        · next n _ =>
          cases e : s.rollback j.num n.tag with
          | none => simp [h]
          | some t => exact State.wf_rollback h e
    · split <;> simp [h]

@[simp] theorem State.wf_resendLost (s : State) (c name by_ : Nat) (h : s.mem.wf = true) : (s.resendLost c name by_).mem.wf = true := by
  refine State.wf_foldl (fun s q h => ?_) _ _ (by simp [h])
  dsimp only
  split <;> simp [h]

@[simp] theorem wf_execSpareRemap (c chosen : Nat) (s : State) (h : s.mem.wf = true) : (execSpareRemap c chosen s).Wf := by
  unfold execSpareRemap
  have hr : ∀ (l : List (Nat × Nat)) (t : State) (cause name c : Nat) (b : Bool), t.mem.wf = true → (l.foldl (fun s e => s.restart cause name c b e) t).mem.wf = true :=
    fun l t cause name c b ht => State.wf_foldl (fun s e h => State.wf_restart s _ _ _ _ e h) l t ht
  extract_lets k name spare s1 s2 s3 s4 s5 to_ s6
  have h1 : s1.mem.wf = true := by simp [s1, h]
  split
  · exact h
  · split
    · have h3 : s3.mem.wf = true := State.wf_resendReturned _ (by simp [s2, h1])
      simp [s4, hr, h3]
    · have h5 : s5.mem.wf = true := State.wf_resendReturned _ (by simp [h1])
      simp [s6, hr, h5]

@[simp] theorem State.wf_endKilled (s : State) (cause : Nat) (p : Job → Bool) (h : s.mem.wf = true) : (s.endKilled cause p).mem.wf = true := by
  refine State.wf_foldl (fun s q h => ?_) _ _ h
  split <;> simp [h]
@[simp] theorem State.wf_linkFails (s : State) (l : Link) (h : s.mem.wf = true) : (s.linkFails l).mem.wf = true := by
  unfold State.linkFails
  split <;> simp [h]
@[simp] theorem wf_execFlitCrcError (link : Link) (s : State) (h : s.mem.wf = true) :
    (execFlitCrcError link s).Wf := by simp [execFlitCrcError, h]
@[simp] theorem wf_execErrorMessageArrival (m : ErrMsg) (s : State) (h : s.mem.wf = true) : (execErrorMessageArrival m s).Wf := by
  simp only [execErrorMessageArrival]
  (repeat' split) <;> simp [h]
@[simp] theorem wf_execHornbeamSolveStart (h : Nat) (s : State) (hw : s.mem.wf = true) : (execHornbeamSolveStart h s).Wf := by
  simp only [execHornbeamSolveStart]
  (repeat' split) <;> simp [hw]
@[simp] theorem wf_execHornbeamSolveComplete (h : Nat) (s : State) (hw : s.mem.wf = true) : (execHornbeamSolveComplete h s).Wf := by
  simp only [execHornbeamSolveComplete]
  (repeat' split) <;> simp [hw]

end Sys2Proof.Machine
end

section
/-! Memory stays canonical through Ozine, the host and a step of the package. -/

namespace Sys2Proof.Machine

/-! ### Ozine -/

@[simp] theorem State.wf_failPage (s : State) (die asid va : Nat) (h : s.mem.wf = true) : (s.failPage die asid va).mem.wf = true := by
  unfold State.failPage
  refine State.wf_foldl (fun s q h => State.wf_ite_of (by simp [h]) h) _ _ ?_
  refine State.wf_foldl (fun s r h => State.wf_ite_of (by simp [h]) h) _ _ ?_
  refine State.wf_foldl (fun s e h => State.wf_foldl (fun s o h => State.wf_ite_of (by simp [h]) h) _ _ h) _ _ ?_
  refine State.wf_foldl (fun s e h => ?_) _ _ h
  split
  · exact h
  · have ht := State.wf_foldl (f := fun s (t : Transfer) => if t.wait == some (vaKey va) && t.req.asid == asid then s.endTransfer e.1 t.req.chan t.req.id 0x02 else s)
      (fun s t h => State.wf_ite_of (by simp [h]) h) e.2.units.transfers s h
    dsimp only
    split
    · exact ht
    · exact State.wf_ite_of (State.wf_chainEnd _ _ _ _ (State.wf_chainFlush _ _ _ ht)) ht

@[simp] theorem wf_execPageInComplete (die asid va : Nat) (leaf : Option Word) (s : State) (h : s.mem.wf = true) :
    (execPageInComplete die asid va leaf s).Wf := by
  unfold execPageInComplete
  dsimp only
  split
  · refine State.wf_of_mem (State.mem_wakeWaiters ..) (State.wf_foldl (fun s x h => by simp [h]) _ _ ?_)
    split <;> simp [h, Memory.wf_write]
  · exact State.wf_failPage _ _ _ _ (State.wf_foldl (fun s x h => by simp [h]) _ _ h)

@[simp] theorem State.mem_trapAnswer (s : State) (r : TrapRec) (v : Word) : (s.trapAnswer r v).mem = s.mem := by simp [State.trapAnswer]

theorem State.mem_takeTrap {s t : State} {r : TrapRec} {d : Nat} (e : s.takeTrap r = some (d, t)) : t.mem = s.mem := by
  unfold State.takeTrap at e
  split at e <;> cases e
  simp

@[simp] theorem State.wf_zero (s : State) (base n : Nat) (h : s.mem.wf = true) :
    (s.zero base n).mem.wf = true := by simp [State.zero, h, Memory.wf_filter]

@[simp] theorem wf_execTrapAllocate (r : TrapRec) (frame : Option Nat) (s : State) (h : s.mem.wf = true) : (execTrapAllocate r frame s).Wf := by
  unfold execTrapAllocate
  split
  · exact h
  · split
    · exact h
    · next e =>
      have ht := State.wf_of_mem (State.mem_takeTrap e) h
      dsimp only
      split
      · refine State.wf_ite_of (by simp [ht]) (State.wf_of_mem (State.mem_trapAnswer ..) ?_)
        have hm := fun f (l : List (Nat × Nat)) n =>
          Memory.wf_foldl (f := fun m e => Memory.write m e.1 8 (2 ^ 61 + f + 65536 * e.2 + 7)) (fun m e h => Memory.wf_write h ..) l _
            (State.wf_zero _ f n ht)
        split
        · exact State.wf_of_mem (State.mem_modJob ..) (hm _ _ _)
        · exact hm _ _ _
      · simp [ht]

@[simp] theorem State.wf_copyPages (s : State) (bases : List Nat) (h : s.mem.wf = true) : (s.copyPages bases).1.mem.wf = true := by
  unfold State.copyPages
  refine List.foldlRecOn (motive := fun r : State × Bool => r.1.mem.wf = true) _ _ h fun r hr b _ => ?_
  split
  · exact State.wf_copyPage _ _ hr
  · exact hr

@[simp] theorem wf_execTrapFree (r : TrapRec) (s : State) (h : s.mem.wf = true) : (execTrapFree r s).Wf := by
  unfold execTrapFree
  split
  · exact h
  · split
    · exact h
    · next e =>
      have ht := State.wf_of_mem (State.mem_takeTrap e) h
      split
      · simp [ht]
      · split
        · simp [ht]
        · dsimp only
          refine State.wf_ite_of h (State.wf_of_mem (State.mem_trapAnswer ..) (State.wf_foldl (fun s i h => ?_) _ _ ?_))
          · split <;> simp [h, Memory.wf_write]
          · simp [ht]

@[simp] theorem wf_execTrapLog (r : TrapRec) (s : State) (h : s.mem.wf = true) : (execTrapLog r s).Wf := by
  unfold execTrapLog
  split
  · exact h
  · split
    · exact h
    · next e =>
      have ht := State.wf_of_mem (State.mem_takeTrap e) h
      dsimp only
      split <;> simp [ht]

@[simp] theorem wf_execTrapUnknownService (r : TrapRec) (s : State) (h : s.mem.wf = true) : (execTrapUnknownService r s).Wf := by
  unfold execTrapUnknownService
  split
  · exact h
  · split
    · exact h
    · next e => simp [State.wf_of_mem (State.mem_takeTrap e) h]

@[simp] theorem State.wf_freshSpare (s : State) (c : Nat) (h : s.mem.wf = true) :
    (s.freshSpare c).mem.wf = true := by simp [State.freshSpare, h]
@[simp] theorem wf_execRenameCommit (die : Nat) (word : Word) (s : State) (h : s.mem.wf = true) :
    (execRenameCommit die word s).Wf := by simp [execRenameCommit, h]
@[simp] theorem wf_execSlotTableCommit (h : Nat) (word : Word) (s : State) (hw : s.mem.wf = true) :
    (execSlotTableCommit h word s).Wf := by simp [execSlotTableCommit, hw]
@[simp] theorem State.wf_commitWord {α : Type} (s : State) (r : Ring α) (word : Word) (h : s.mem.wf = true) :
    (s.commitWord r word).mem.wf = true := by simp [State.commitWord, h, Memory.wf_write]
@[simp] theorem State.mem_placeRings (s : State) (die : Nat) : (s.placeRings die).mem = s.mem := rfl
@[simp] theorem wf_execSchedulerConfigCommit (die : Nat) (word : Word) (s : State) (h : s.mem.wf = true) :
    (execSchedulerConfigCommit die word s).Wf := by simp [execSchedulerConfigCommit, h]

@[simp] theorem wf_execYewConfigCommit (die : Nat) (word : Word) (s : State) (h : s.mem.wf = true) :
    (execYewConfigCommit die word s).Wf := by
  simp only [execYewConfigCommit]
  (repeat' split) <;> simp [h]

@[simp] theorem State.mem_unspill (c k : Nat) : ∀ s : State, (s.unspill c k).mem = s.mem := by
  induction k with
  | zero => exact fun _ => rfl
  | succ k ih => intro s; simp only [State.unspill]; (repeat' split) <;> simp [ih]

@[simp] theorem wf_execRingGrowthCommit (ring : RingName) (word : Word) (s : State) (h : s.mem.wf = true) :
    (execRingGrowthCommit ring word s).Wf := by
  unfold execRingGrowthCommit
  split <;> simp [h]

@[simp] theorem wf_execBlockDirectoryCommit (die copy version : Nat) (s : State) (h : s.mem.wf = true) :
    (execBlockDirectoryCommit die copy version s).Wf := by simp [execBlockDirectoryCommit, h]
@[simp] theorem State.mem_valueError (s : State) (csr place : Nat) : (s.valueError csr place).mem = s.mem := rfl
@[simp] theorem wf_execLsplit (c : Nat) (v : Word) (s : State) (h : s.mem.wf = true) : (execLsplit c v s).Wf := by simp [execLsplit, h]
@[simp] theorem wf_execVgroup (c : Nat) (v : Word) (s : State) (h : s.mem.wf = true) : (execVgroup c v s).Wf := by
  simp only [execVgroup]
  (repeat' split) <;> simp [h]
@[simp] theorem wf_execDbgctl (c : Nat) (v : Word) (s : State) (h : s.mem.wf = true) : (execDbgctl c v s).Wf := h
@[simp] theorem wf_execShasid (c : Nat) (v : Word) (s : State) (h : s.mem.wf = true) : (execShasid c v s).Wf := by simp [execShasid, h]
@[simp] theorem wf_execMecheck (h : Nat) (v : Word) (s : State) (hw : s.mem.wf = true) : (execMecheck h v s).Wf := by simp [execMecheck, hw]
@[simp] theorem State.wf_ozineStore (s : State) (addr : Nat) (v : Word) (h : s.mem.wf = true) :
    (s.ozineStore addr v).mem.wf = true := by simp [State.ozineStore, h]
@[simp] theorem State.mem_putRingCopy (s : State) (ring : RingName) (p : RingCopy) : (s.putRingCopy ring p).mem = s.mem := by
  unfold State.putRingCopy
  split <;> simp
@[simp] theorem State.mem_nameBlock (s : State) (ring : RingName) (addr : Nat) : (s.nameBlock ring addr).mem = s.mem := by
  unfold State.nameBlock
  split <;> simp
@[simp] theorem wf_execManagementWindowWrite (w : MgmtWrite) (s : State) (h : s.mem.wf = true) : (execManagementWindowWrite w s).Wf := by
  unfold execManagementWindowWrite
  split <;> simp [h, Memory.wf_write]

/-! ### Hostside -/

@[simp] theorem State.wf_readHeader (s : State) (die asid addr : Nat) (h : s.mem.wf = true) : (s.readHeader die asid addr).2.mem.wf = true := by
  have hr := State.leftWf_schedRead s die asid 0 addr 8 h
  unfold State.readHeader
  split
  · exact h
  · split
    · next e => exact hr.error e
    · next e => exact hr.ok e

@[simp] theorem State.wf_readMap (s : State) (die asid addr chip chips : Nat) (h : s.mem.wf = true) : (s.readMap die asid addr chip chips).2.mem.wf = true := by
  have hr := State.leftWf_schedRead s die asid 0 addr 512 h
  unfold State.readMap
  split
  · exact h
  · split
    · next e => exact hr.error e
    · next e => exact hr.ok e

@[simp] theorem State.wf_placeRoots (s : State) (die asid header : Nat) (g : GraphHeader) (redun : Bool) (h : s.mem.wf = true) :
    (s.placeRoots die asid header g redun).mem.wf = true := by simp [State.placeRoots, h]
@[simp] theorem State.wf_openJob (s : State) (j : Job) (h : s.mem.wf = true) : (s.openJob j).mem.wf = true := by
  simp only [State.openJob]
  split <;> simp [h, Memory.wf_write]

@[simp] theorem State.wf_startGraph (s : State) (die : Nat) (j : Job) (h : s.mem.wf = true) : (s.startGraph die j).mem.wf = true := by
  unfold State.startGraph
  split
  · exact h
  · dsimp only
    split
    · next e => simp [State.wf_of_snd e (by simp [h])]
    · next e => simp [State.wf_of_snd e (by simp [h])]

@[simp] theorem State.wf_launch (s : State) (cmd : HostCmd) (h : s.mem.wf = true) : (s.launch cmd).mem.wf = true := by
  unfold State.launch
  extract_lets asid header chip chips
  split
  · simp [h]
  · split
    · simp [h]
    · split
      next g t e =>
      have ht : t.mem.wf = true := by
        refine State.wf_of_snd e ?_
        split
        · exact h
        · exact State.wf_readHeader _ _ _ _ h
      split
      · simp [ht]
      · split
        · simp [ht]
        · split
          next map u e =>
          have hu : u.mem.wf = true := by
            refine State.wf_of_snd e ?_
            split
            · exact ht
            · exact State.wf_readMap _ _ _ _ _ _ ht
          split
          · simp [hu]
          · exact State.wf_ite_of (State.wf_answerCmd _ _ _ (State.wf_startGraph _ _ _ (State.wf_openJob _ _ hu))) (State.wf_openJob _ _ hu)

@[simp] theorem wf_execLaunch (cmd : HostCmd) (s : State) (h : s.mem.wf = true) : (execLaunch cmd s).Wf := by simp [execLaunch, h]

@[simp] theorem State.wf_askSnapshot (s : State) (j : Job) (asid tag : Nat) (h : s.mem.wf = true) :
    (s.askSnapshot j asid tag).mem.wf = true := by
  unfold State.askSnapshot
  split <;> simp [h]

@[simp] theorem State.wf_yewCommand {s : State} (cmd : HostCmd) {f : State → Job → Nat → State × Nat} (h : s.mem.wf = true)
    (hf : ∀ j tag, (f s j tag).1.mem.wf = true) : (s.yewCommand cmd f).mem.wf = true := by
  unfold State.yewCommand
  dsimp only
  split
  · simp [h]
  · split
    · simp [h]
    · split
      · simp [h]
      · simp [hf]

@[simp] theorem wf_execHostSnapshot (cmd : HostCmd) (s : State) (h : s.mem.wf = true) :
    (execHostSnapshot cmd s).Wf := by simp [execHostSnapshot, h]

@[simp] theorem wf_execHostRollback (cmd : HostCmd) (s : State) (h : s.mem.wf = true) : (execHostRollback cmd s).Wf := by
  refine State.wf_yewCommand _ h fun j tag => ?_
  split
  · next e => exact State.wf_rollback h e
  · exact h

@[simp] theorem wf_execHostRelease (cmd : HostCmd) (s : State) (h : s.mem.wf = true) : (execHostRelease cmd s).Wf := by
  refine State.wf_yewCommand _ h fun j tag => ?_
  split <;> simp [h]
@[simp] theorem wf_execAttest (cmd : HostCmd) (s : State) (h : s.mem.wf = true) :
    (execAttest cmd s).Wf := by simp [execAttest, h, Memory.wf_write]
@[simp] theorem wf_execMigrateOut (cmd : HostCmd) (s : State) (h : s.mem.wf = true) : (execMigrateOut cmd s).Wf := by
  simp only [execMigrateOut]
  (repeat' split) <;> simp [h]
@[simp] theorem wf_execMigrateIn (cmd : HostCmd) (cls : Nat) (s : State) (h : s.mem.wf = true) :
    (execMigrateIn cmd cls s).Wf := by simp [execMigrateIn, h]
@[simp] theorem wf_serveForwarded (cmd : HostCmd) (s : State) (h : s.mem.wf = true) : (serveForwarded cmd s).Wf := by
  simp only [serveForwarded]
  split <;> simp [h]
@[simp] theorem State.mem_closeJob (s : State) (num : Nat) : (s.closeJob num).mem = s.mem := rfl

@[simp] theorem State.wf_joinArrives (s : State) (num chip chips : Nat) (h : s.mem.wf = true) :
    (s.joinArrives num chip chips).mem.wf = true := by
  simp only [State.joinArrives]
  (repeat' split) <;> simp [h]

@[simp] theorem State.wf_joinAnswered (s : State) (num cls features status : Nat) (h : s.mem.wf = true) :
    (s.joinAnswered num cls features status).mem.wf = true := by
  simp only [State.joinAnswered]
  (repeat' split) <;> simp [h]

@[simp] theorem State.wf_digestArrives (s : State) (num chip : Nat) (digest nextHop : Word) (h : s.mem.wf = true) :
    (s.digestArrives num chip digest nextHop).mem.wf = true := by
  unfold State.digestArrives
  split <;> simp [h]

@[simp] theorem wf_execManagementMessage (m : MgmtMsg) (s : State) (h : s.mem.wf = true) : (execManagementMessage m s).Wf := by
  unfold execManagementMessage
  split <;> simp [h]
@[simp] theorem State.wf_serveCmd (s : State) (cmd : HostCmd) (h : s.mem.wf = true) : (s.serveCmd cmd).mem.wf = true := by
  unfold State.serveCmd
  split <;> simp [h]

@[simp] theorem State.wf_serveQueue (die queue k : Nat) : ∀ s : State, s.mem.wf = true → (s.serveQueue die queue k).mem.wf = true := by
  induction k with
  | zero => exact fun _ h => h
  | succ k ih =>
    intro s h
    unfold State.serveQueue
    dsimp only
    refine State.wf_ite_of h (State.wf_ite_of (by simp [h]) (ih _ (by simp [h])))

@[simp] theorem State.wf_serveAll (s : State) (die queue : Nat) (h : s.mem.wf = true) :
    (s.serveAll die queue).mem.wf = true := by simp [State.serveAll, h]
@[simp] theorem wf_execWakeWordStore (fn die queue tail : Nat) (s : State) (h : s.mem.wf = true) :
    (execWakeWordStore fn die queue tail s).Wf := by simp [execWakeWordStore, h]
@[simp] theorem wf_execQueuePageIn (die queue : Nat) (s : State) (h : s.mem.wf = true) :
    (execQueuePageIn die queue s).Wf := by simp [execQueuePageIn, h]
@[simp] theorem wf_execQueueUnmap (die queue : Nat) (s : State) (h : s.mem.wf = true) :
    (execQueueUnmap die queue s).Wf := by simp [execQueueUnmap, h]
@[simp] theorem wf_execQueueRepair (die queue : Nat) (s : State) (h : s.mem.wf = true) :
    (execQueueRepair die queue s).Wf := by simp [execQueueRepair, h]

@[simp] theorem wf_execHostBar2Request (fn addr bytes : Nat) (write : Option Nat) (s : State) (h : s.mem.wf = true) :
    (execHostBar2Request fn addr bytes write s).Wf := by
  unfold execHostBar2Request
  split <;> simp [h]

@[simp] theorem wf_execFunctionLevelReset (fn : Nat) (s : State) (h : s.mem.wf = true) : (execFunctionLevelReset fn s).Wf := h
@[simp] theorem wf_execDrvfeat (v : Word) (s : State) (h : s.mem.wf = true) : (execDrvfeat v s).Wf := by simp [execDrvfeat, h]
@[simp] theorem wf_execFirmwareUpdate (version : Nat) (s : State) (h : s.mem.wf = true) :
    (execFirmwareUpdate version s).Wf := by simp [execFirmwareUpdate, h]
@[simp] theorem wf_execThermalThrottle (die : Nat) (s : State) (h : s.mem.wf = true) : (execThermalThrottle die s).Wf := h
@[simp] theorem wf_execThermalRestore (die : Nat) (s : State) (h : s.mem.wf = true) : (execThermalRestore die s).Wf := h
@[simp] theorem wf_execThermalStop (die : Nat) (s : State) (h : s.mem.wf = true) :
    (execThermalStop die s).Wf := by simp [execThermalStop, h]
@[simp] theorem wf_execWatchdogFires (die : Nat) (s : State) (h : s.mem.wf = true) : (execWatchdogFires die s).Wf := h
@[simp] theorem wf_execPackageReset (b : BootResult) (s : State) (h : s.mem.wf = true) :
    (execPackageReset b s).Wf := by simp [execPackageReset, h, Memory.wf_filter]

/-! ### Dispatch -/

@[simp] theorem wf_exec (i : Instr) (s : State) (h : s.mem.wf = true) : Out.Wf (exec i s) := by
  cases i with
  | nop | ksync | idle | endThread | ret | jmpr | callr | forkr | rdw | rdwc | trap | fenceb | snap | yield | waitx | br
  | beqz | bnez | bltz | bgez | bgtz | blez | bfull | bempty | jmp | call | fork | send | sendu | csrwr | ldN | ldS | ldeN
  | ldeS | ldxN | ldxS | st | ste | stx | aswap | aadd | aand | aor | axor | aminS64 | amaxS64 | aminN64 | amaxN64 | acas
  | aamaxF32 | amaxswapF32 | bfld | bfclr | cpy | cpyNb | vldpE2m1 | vldpE3m2 | vstpE2m1 | vstpE3m2 | qpackE4m3 | qpackE3m2
  | qpackE2m1 | qpacki | add | sub | mul | mulhS64 | mulhN64 | and | or | xor | shl | shrN64 | shrS64 | sltS64 | sltN64 | seq
  | addi | shli | shriN64 | shriS64 | rotri | li | lis | bfx | bfi | mov | not | neg | absS64 | popc | clz | ctz | bswap
  | brev | sextS8 | sextS16 | sextS32 | zextN8 | zextN16 | zextN32 | qscaleE4m3 | qscaleE3m2 | qscaleE2m1 | qscalei | vlq
  | vlane | vadd | vsub | vmul | vfma | vmin | vmax | vaddsat | vsubsat | vand | vor | vxor | vandn | vceq | vclt | vcle
  | vcne | vcvt | vbcast | vaddx | vmulx | vmaxx | vrsum | vrmax | vrmin | vramax | vcompress | vexpand | vrowmv | vsel | mand
  | mor | mxor | mandn | mnot | mmov | mpop | mfrom | mtolo | mtohi | bound =>
    exact Out.wf_issue h fun _ _ ht => by simp [ht]
  | _ => simp [exec, h]

/-! ### Mirror -/

theorem Memory.wf_putSlots {α : Type} {m : Memory} (image : α → Nat) (size base log2cap tail : Nat) (l : List α) (h : m.wf = true) :
    (putSlots m image size base log2cap tail l).wf = true := by
  unfold putSlots
  split
  · exact h
  · exact Memory.wf_foldl (fun _ _ h => Memory.wf_write h ..) _ _ h

theorem Ring.wf_mirror {α : Type} [DecidableEq α] (image : α → Nat) (size : Nat) (old new : Ring α) {m : Memory} (h : m.wf = true) :
    (Ring.mirror image size old new m).wf = true := by
  unfold Ring.mirror
  split
  · unfold Ring.put
    have hp := Memory.wf_putSlots image size new.base new.log2cap new.tail new.entries
      (Memory.wf_putSlots image size new.oldBase new.oldLog2cap new.oldTail new.old h)
    dsimp only
    split
    · exact hp
    · exact Memory.wf_write hp ..
  · exact h

theorem wf_mirrorRings (old new : Tab (Ring Nat)) {m : Memory} (h : m.wf = true) : (mirrorRings old new m).wf = true :=
  Memory.wf_foldl (fun _ _ h => Ring.wf_mirror _ _ _ _ h) _ _ h

theorem Die.wf_mirrorDir (old new : Die) {m : Memory} (h : m.wf = true) : (old.mirrorDir new m).wf = true := by
  unfold Die.mirrorDir
  split
  · exact h
  · exact Memory.wf_foldl (fun _ _ h => Memory.wf_foldl (fun _ _ h => Memory.wf_write h ..) _ _ h) _ _ h

theorem Core.wf_mirror (old new : Core) {m : Memory} (h : m.wf = true) : (old.mirror new m).wf = true :=
  Ring.wf_mirror _ _ _ _ (Ring.wf_mirror _ _ _ _ h)
theorem Die.wf_mirror (old new : Die) {m : Memory} (h : m.wf = true) : (old.mirror new m).wf = true :=
  Die.wf_mirrorDir _ _ (wf_mirrorRings _ _ (wf_mirrorRings _ _ (Ring.wf_mirror _ _ _ _ h)))
@[simp] theorem State.wf_mirror (s t : State) (h : t.mem.wf = true) : (s.mirror t).mem.wf = true :=
  Memory.wf_foldl (fun _ _ h => Die.wf_mirror _ _ h) _ _ (Memory.wf_foldl (fun _ _ h => Core.wf_mirror _ _ h) _ _ h)

/-! ### Driver -/

@[simp] theorem State.wf_run (s : State) (i : Instr) (h : s.mem.wf = true) : (s.run i).mem.wf = true := by simp [State.run, h]

theorem Out.wf_map {o : Out} {f : State → State} (h : o.Wf) (hf : ∀ t, t.mem.wf = true → (f t).mem.wf = true) : (Out.map o f).Wf := by
  cases o with
  | next t => exact hf t h
  | _ => trivial

@[simp] theorem State.mem_aim (s : State) (c slot : Nat) (place : Slotting) (mark : Bool) (word : Nat) (view : Option Core) :
    (s.aim c slot place mark word view).mem = s.mem := rfl
@[simp] theorem State.wf_first (s : State) (c slot : Nat) (b : WordPair) (mark : Bool) (view : Core) (h : s.mem.wf = true) :
    (s.first c slot b mark view).mem.wf = true := by simp [State.first, h]
@[simp] theorem State.wf_second (s : State) (c slot : Nat) (b : WordPair) (mark : Bool) (view : Core) (h : s.mem.wf = true) :
    (s.second c slot b mark view).mem.wf = true := by simp [State.second, h]
@[simp] theorem State.mem_swapAt (s : State) (c slot : Nat) : (s.swapAt c slot).mem = s.mem := rfl
@[simp] theorem State.wf_refault (s t : State) (h : s.mem.wf = true) : (s.refault t).mem.wf = true := by simp [State.refault, h]
theorem wf_earlierFault {e0 e1 t : State} (h0 : e0.mem.wf = true) (h1 : e1.mem.wf = true) (e : earlierFault e0 e1 = some t) : t.mem.wf = true := by
  unfold earlierFault at e
  (repeat' split at e) <;> cases e <;> assumption

@[simp] theorem State.mem_latchSources (s : State) (c slot : Nat) (i : Instr) (view : Core) : (s.latchSources c slot i view).mem = s.mem := by
  unfold State.latchSources
  split
  · rfl
  · next e => rw [State.mem_modCtx, State.mem_readOps e, State.mem_aim]

@[simp] theorem State.wf_retry (s t : State) (c slot : Nat) (hs : s.mem.wf = true) (ht : t.mem.wf = true) : (s.retry t c slot).mem.wf = true := by
  unfold State.retry
  split
  · simp [hs]
  · exact ht

@[simp] theorem State.wf_settleBundle (s u : State) (c slot : Nat) (goesOn : Bool) (hs : s.mem.wf = true) (hu : u.mem.wf = true) :
    (s.settleBundle u c slot goesOn).mem.wf = true :=
  State.wf_ite_of (by simp [hs]) (State.wf_ite_of hu (State.wf_ite_of (by simp [hu]) (by simp [hs, hu])))

@[simp] theorem State.wf_bothWords (s : State) (c slot : Nat) (b : WordPair) (mark : Bool) (view : Core) (after : Bool) (h : s.mem.wf = true) :
    (s.bothWords c slot b mark view after).mem.wf = true := by
  unfold State.bothWords
  refine State.wf_ite_of ?_ ?_
  · have ht : (((s.latchSources c slot b.i0 view).swapAt c slot).second c slot b false view).mem.wf = true := by simp [h]
    exact State.wf_ite_of (by simp [h, ht]) (by simp [h, ht])
  · have ht : (s.first c slot b false view).mem.wf = true := by simp [h]
    exact State.wf_ite_of (by simp [h, ht]) (by simp [h, ht])

@[simp] theorem State.wf_bothIssue {s : State} (c slot p : Nat) (i : Instr) {issue : State → Nat → State} (h : s.mem.wf = true)
    (hi : ∀ s n, s.mem.wf = true → (issue s n).mem.wf = true) : (s.bothIssue c slot p i issue).mem.wf = true :=
  State.wf_ite_of (hi _ _ h) (hi _ _ (hi _ _ h))

@[simp] theorem State.wf_together (s : State) (c slot p : Nat) (b : WordPair) (mark : Bool) (view : Core) (h : s.mem.wf = true) :
    (s.together c slot p b mark view).mem.wf = true := by
  unfold State.together
  extract_lets x y again first second e0 e1 wait waitsAlone l x' y' t t' u
  have ha : ∀ s b, s.mem.wf = true → (again s b).mem.wf = true := fun s b h => by simp [again, h]
  have hf : ∀ s m, s.mem.wf = true → (first s m).mem.wf = true := fun s m h => State.wf_bothIssue _ _ _ _ h fun s n h => by simp [h]
  have hs : ∀ s m, s.mem.wf = true → (second s m).mem.wf = true := fun s m h => State.wf_bothIssue _ _ _ _ h fun s n h => by simp [h]
  have hw : ∀ t, t.mem.wf = true → (wait t).mem.wf = true := fun t h => by simp [wait, h]
  have h0 : e0.mem.wf = true := hf _ _ (ha _ _ h)
  have h1 : e1.mem.wf = true := hs _ _ (ha _ _ h)
  have hl : l.mem.wf = true := by simp [l, h]
  have ht : t'.mem.wf = true := by simp [t', t, hs, ha, hl]
  have hu : u.mem.wf = true := hf _ _ ht
  split
  · simp [h, State.refault]
  · refine State.wf_ite_of (hw _ h1) (State.wf_ite_of (hw _ h0) (State.wf_ite_of ?_ ?_))
    · exact State.wf_ite_of (by simp [h]) (State.wf_ite_of (by simp [hu]) hu)
    · exact State.wf_settleBundle _ _ _ _ _ h (hs _ _ (ha _ _ (hf _ _ (ha _ _ h))))

@[simp] theorem State.wf_pairedOnce (s : State) (c slot p : Nat) (b : WordPair) (mark : Bool) (view : Core) (h : s.mem.wf = true) :
    (s.pairedOnce c slot p b mark view).mem.wf = true := by
  unfold State.pairedOnce
  extract_lets x y alone e0 e1 back held
  have ha : alone.mem.wf = true := by simp [alone, h]
  have h0 : e0.mem.wf = true := by simp [e0, ha]
  have h1 : e1.mem.wf = true := by simp [e1, ha]
  split
  · next e => exact wf_earlierFault h0 h1 e
  · refine State.wf_ite_of (by simp [back, h1]) (State.wf_ite_of (by simp [back, h0]) (State.wf_ite_of ?_ (by simp [h])))
    exact State.wf_ite_of (by simp [h]) (by simp [h])

@[simp] theorem State.wf_pairedBundle (s : State) (c slot : Nat) (b : WordPair) (h : s.mem.wf = true) : (s.pairedBundle c slot b).mem.wf = true := by
  unfold State.pairedBundle
  extract_lets x view mark once e0 e1
  have h0 : e0.mem.wf = true := by simp [e0, h]
  have h1 : e1.mem.wf = true := by simp [e1, h]
  refine State.wf_ite_of (by simp [h]) ?_
  clear_value once
  split
  · simp [h]
  · split
    · next e => exact wf_earlierFault h0 h1 e
    · exact State.wf_ite_of h1 (State.wf_ite_of h0 (by simp [h]))

@[simp] theorem State.mem_spend (s : State) (c slot : Nat) : (s.spend c slot).mem = s.mem := rfl
@[simp] theorem State.wf_lone (s : State) (c slot w0 w1 : Nat) (h : s.mem.wf = true) : (s.lone c slot w0 w1).Wf := by
  simp only [State.lone]
  split <;> simp [h]
@[simp] theorem State.wf_issueAt (s : State) (c slot : Nat) (h : s.mem.wf = true) : (s.issueAt c slot).Wf := by
  simp only [State.issueAt]
  (repeat' split) <;> simp [h]

@[simp] theorem State.wf_issueGang (s : State) (c : Nat) (gang : List Nat) (h : s.mem.wf = true) : (s.issueGang c gang).mem.wf = true := by
  unfold State.issueGang
  extract_lets s1 s2 stays
  have h1 : s1.mem.wf = true := State.wf_foldl (fun s n h => State.wf_ite_of (Out.wf_state (by simp [h]) h) h) _ _ h
  have h2 : s2.mem.wf = true := State.wf_of_mem (State.mem_modCore ..) h1
  split <;> exact State.wf_foldl (fun s n h => by simp [h]) _ _ h2

@[simp] theorem State.wf_wordOne (s : State) (c slot : Nat) (h : s.mem.wf = true) : (s.wordOne c slot).mem.wf = true := by
  simp only [State.wordOne]
  (repeat' split) <;> simp [h]

@[simp] theorem State.wf_leave (s : State) (c slot : Nat) (h : s.mem.wf = true) : (s.leave c slot).Wf := by
  have hw := State.wf_foldl (f := fun s n => State.wordOne s c n) (fun s n h => by simp [h]) (slot :: ((s.ctx c slot).pair).toList) (s.spend c slot) (by simp [h])
  unfold State.leave
  dsimp only
  split
  · exact wf_execThreadDeparture _ _ _ hw
  · exact hw

@[simp] theorem State.mem_wake (s : State) (c slot : Nat) : (s.wake c slot).mem = s.mem := by
  unfold State.wake
  split <;> simp
@[simp] theorem State.wf_turn (s : State) (c slot : Nat) (h : s.mem.wf = true) : (s.turn c slot).Wf := by
  simp only [State.turn]
  (repeat' split) <;> simp [h]
@[simp] theorem State.mem_strikeLine (s : State) (c w : Nat) : (s.strikeLine c w).mem = s.mem := by
  unfold State.strikeLine
  split <;> simp
@[simp] theorem State.mem_strikeEntry (s : State) (line : Nat) : (s.strikeEntry line).mem = s.mem := by
  unfold State.strikeEntry
  split <;> simp
@[simp] theorem State.mem_strikeWord (s : State) (w : Nat) (origin : Bool) :
    (s.strikeWord w origin).mem = s.mem := by simp [State.strikeWord]
@[simp] theorem State.wf_scripted (s : State) (t : Turn) (h : s.mem.wf = true) : (s.scripted t).Wf := by
  simp only [State.scripted]
  (repeat' split) <;> simp [h]
theorem State.wf_agentTurn {s : State} {o : Out} (h : s.mem.wf = true) (e : s.agentTurn = some o) : o.Wf := by
  unfold State.agentTurn at e
  (repeat' split at e) <;> cases e <;> exact wf_exec _ _ h
@[simp] theorem State.mem_pass (s : State) : (s.pass).mem = s.mem := by
  unfold State.pass
  split <;> simp

@[simp] theorem State.wf_act (s : State) (h : s.mem.wf = true) : (s.act).Wf := by
  unfold State.act
  split
  · exact State.wf_scripted _ _ h
  · have hc : ∀ o, (s.nextContext.map fun e => s.turn e.1 e.2) = some o → o.Wf := fun o e => by
      obtain ⟨x, -, rfl⟩ := Option.map_eq_some_iff.1 e
      simp [h]
    have ha : ∀ o, s.agentTurn = some o → o.Wf := fun o e => State.wf_agentTurn h e
    split <;> dsimp only
    · split
      · next e => exact hc _ e
      · next e => exact ha _ e
      · simp [h]
    · split
      · next e => exact ha _ e
      · next e => exact hc _ e
      · simp [h]

@[simp] theorem State.mem_hints (s t : State) : (s.hints t).mem = t.mem := by
  refine State.mem_foldl (fun u e => ?_) _ _
  dsimp only
  split
  · rfl
  · exact State.mem_foldl (fun u k => State.mem_foldl (fun u m => State.mem_foldl (fun u h => by split <;> simp) _ _) _ _) _ _

@[simp] theorem State.wf_endStep (s t : State) (h : t.mem.wf = true) : (s.endStep t).mem.wf = true :=
  State.wf_of_mem (State.mem_hints ..) (State.wf_mirror _ _ h)

@[simp] theorem State.wf_cycleOnce (s : State) (h : s.mem.wf = true) : (s.cycleOnce).Wf := by
  unfold State.cycleOnce
  split
  · exact Out.wf_map (State.wf_act s h) fun t ht => State.wf_endStep _ _ ht
  · split
    · exact Out.wf_map (wf_exec _ _ h) fun t ht => State.wf_endStep _ _ ht
    · trivial

/-- Settles O60: each function that a step runs keeps the form (`State.wf_act` for what acts, `State.wf_endStep` for the rings and
directories written and the hints sent), because it changes memory by `Memory.write` and `List.filter` alone. -/
theorem stepsKeepMemoryCanonical : Obligations.StepsKeepMemoryCanonical := by
  unfold Obligations.StepsKeepMemoryCanonical step
  intro s s' h e
  have hout := State.wf_cycleOnce s h
  rw [e] at hout
  exact hout

end Sys2Proof.Machine
end

section
/-! PROOFS. Page walks and shootdowns (04 R103 to R108): what reading the tables changes, the outcome of a walk through sound tables, who
waits for it, and what the end of a walk and of a shootdown does to each core (O29). -/

namespace Sys2Proof.Machine

/-! ### Lines that stand at their homes, read by a walker -/

/-- Only the directories differ, and every line that stood at its home stands there still. -/
structure KeepsHome (s u : State) : Prop where
  same : u = { s with homes := u.homes }
  home : ∀ line, s.AtHome line → u.AtHome line

theorem KeepsHome.refl (s : State) : KeepsHome s s := ⟨rfl, fun _ h => h⟩

theorem KeepsHome.trans {s t u : State} (h : KeepsHome s t) (g : KeepsHome t u) : KeepsHome s u where
  same := by
    obtain ⟨hs, hh⟩ : ∃ hs, t = { s with homes := hs } := ⟨_, h.same⟩
    obtain ⟨hs', hh'⟩ : ∃ hs, u = { t with homes := hs } := ⟨_, g.same⟩
    rw [hh', hh]
  home line hl := g.home line (h.home line hl)

/-- A home whose entries are kept keeps every line at home. -/
theorem KeepsHome.setHome (s : State) (key : Nat) (h : Home) (hs : ∀ line e, s.homeKey line = key → s.entry? line = some e → e.st = .s →
    ∃ f, h.entries.find? (fun f => f.line == line) = some f ∧ f.st = .s) : KeepsHome s (s.setHome key h) where
  same := rfl
  home line := by
    rintro ⟨hsram, ⟨e, he, hst⟩, hnet⟩
    refine ⟨hsram, ?_, hnet⟩
    by_cases hk : s.homeKey line = key
    · obtain ⟨f, hf, hfs⟩ := hs line e hk he hst
      refine ⟨f, ?_, hfs⟩
      have : (s.setHome key h).home ((s.setHome key h).homeKey line) = h := by
        rw [show (s.setHome key h).homeKey line = key from hk]
        exact Tab.getD_put_self _ _ _ _
      rw [State.entry?, this, hf]
    · refine ⟨e, ?_, hst⟩
      have : (s.setHome key h).home ((s.setHome key h).homeKey line) = s.home (s.homeKey line) := Tab.getD_put_ne _ _ _ hk
      rw [State.entry?, this]
      exact he

theorem KeepsHome.setEntry (s : State) (e : HomeEntry) (he : e.st = .s) : KeepsHome s (s.setEntry e) := by
  refine KeepsHome.setHome s _ _ fun line f hk hf hst => ?_
  by_cases hl : line = e.line
  · refine ⟨e, ?_, he⟩
    have hnone : ((s.home (s.homeKey e.line)).entries.filter fun f => f.line != e.line).find? (fun f => f.line == line) = none := by
      simp [List.find?_eq_none, hl]
    rw [List.find?_append, hnone]
    simp [hl]
  · refine ⟨f, ?_, hst⟩
    rw [State.entry?, hk] at hf
    rw [List.find?_append, List.find?_filter, Option.or_eq_some_iff]
    left
    rw [← hf]
    congr 1
    funext g
    by_cases hg : g.line = line <;> simp [hg, hl]

@[simp] theorem Home.entries_l2Touch (h : Home) (line now : Nat) (fill dirty : Bool) : (h.l2Touch line now fill dirty).entries = h.entries := by
  unfold Home.l2Touch
  split
  · rfl
  · dsimp only
    split <;> rfl

theorem KeepsHome.l2Touch (s : State) (line : Nat) (fill dirty : Bool) : KeepsHome s (s.l2Touch line fill dirty) := by
  unfold State.l2Touch
  dsimp only
  split
  · exact KeepsHome.refl s
  · refine KeepsHome.setHome s _ _ fun l e hk he hst => ⟨e, ?_, hst⟩
    rw [Home.entries_l2Touch, ← hk]
    exact he

/-- What brings a line back to its home. -/
def returnsLine (line : Nat) (i : Instr) : Bool :=
  match i with
  | .recallReply l _ _ _ _ => l == line
  | .writeback l _ _ _ _ _ => l == line
  | _ => false

theorem State.AtHome.not_returns {s : State} {line : Nat} (h : s.AtHome line) {i : Instr} (hi : i ∈ s.net) : returnsLine line i = false := by
  obtain ⟨hr, hw⟩ := h.2.2 i hi
  unfold returnsLine
  split
  · rw [beq_eq_false_iff_ne]; rintro rfl; exact hr _ _ _ _ rfl
  · rw [beq_eq_false_iff_ne]; rintro rfl; exact hw _ _ _ _ _ rfl
  · rfl

/-- Nothing of a line that stands at its home is on its way there. -/
theorem State.landReturns_of_atHome {s : State} {line : Nat} (h : s.AtHome line) : s.landReturns line = s := by
  have hnone : s.net.filter (returnsLine line) = [] := List.filter_eq_nil_iff.mpr fun i hi => by simp [h.not_returns hi]
  have hall : s.net.filter (fun i => !returnsLine line i) = s.net := List.filter_eq_self.mpr fun i hi => by simp [h.not_returns hi]
  change (s.net.filter (returnsLine line)).foldl _ { s with net := s.net.filter fun i => !returnsLine line i } = s
  rw [hnone, hall]
  rfl

theorem State.recallNow_of_atHome {s : State} {line : Nat} (h : s.AtHome line) : s.recallNow line = s := by
  obtain ⟨e, he, hst⟩ := h.2.1
  simp [State.recallNow, State.landReturns_of_atHome h, he, hst]

theorem KeepsHome.readLine {s : State} {line : Nat} (h : s.AtHome line) (t0 lease : Nat) : KeepsHome s (s.readLine line t0 lease).2 := by
  obtain ⟨e, he, -⟩ := h.2.1
  simp only [State.readLine, h.1, State.homeNow, State.recallNow_of_atHome h, he]
  exact KeepsHome.setEntry s _ rfl

theorem KeepsHome.walkerRead {s : State} {line : Nat} (h : s.AtHome line) (t0 : Nat) : KeepsHome s (s.walkerRead line t0) :=
  (KeepsHome.readLine h t0 Config.lease).trans (KeepsHome.l2Touch _ _ _ _)

theorem KeepsHome.walkerReads (t0 : Nat) (l : List Nat) : ∀ s : State, (∀ a ∈ l, s.AtHome a) → KeepsHome s (l.foldl (fun s a => s.walkerRead a t0) s) := by
  induction l with
  | nil => exact fun s _ => KeepsHome.refl s
  | cons a l ih =>
    intro s h
    have hw : KeepsHome s (s.walkerRead a t0) := KeepsHome.walkerRead (h a (by simp)) t0
    exact hw.trans (ih _ fun b hb => hw.home b (h b (by simp [hb])))

/-! ### The end of a walk -/

/-- The end of a walk leaves everything but the die's list of walks, and tells nothing of a line's return. -/
theorem State.endWalk_frame (s : State) (die asid va : Nat) : ∃ ds ne, s.endWalk die asid va = { s with dies := ds, net := ne } ∧
    ((s.endWalk die asid va).die die).asids = (s.die die).asids ∧ ∀ line, s.AtHome line → (s.endWalk die asid va).AtHome line := by
  have hdie : ((s.modDie die fun d => { d with walks := (s.die die).walks.filter (· != (asid, va / 65536)) }).die die).asids = (s.die die).asids := by simp
  unfold State.endWalk
  dsimp only
  split
  · exact ⟨_, _, rfl, hdie, fun _ h => h⟩
  split
  · refine ⟨_, _, rfl, hdie, fun line ⟨hsram, he, hnet⟩ => ⟨hsram, he, fun i hi => ?_⟩⟩
    rcases List.mem_append.mp hi with hi | hi
    · exact hnet i hi
    · simp [List.mem_singleton.mp hi]
  · exact ⟨_, _, rfl, hdie, fun _ h => h⟩

/-! ### The outcome of a walk -/

section
variable {s t : State} {die : Nat} (hd : (t.die die).asids = (s.die die).asids) (hm : t.mem = s.mem)
include hd hm

theorem State.walkLines_congr (asid va : Nat) : t.walkLines die asid va = s.walkLines die asid va := by
  unfold State.walkLines
  rw [hd, hm]

theorem State.walk_congr (hp : t.poison = s.poison) (hn : t.now = s.now) (asid va : Nat) : t.walk die asid va = s.walk die asid va := by
  unfold State.walk
  rw [hd, hm, hp, hn]

end

/-- A table entry that R104 allows at every level: no reserved bit, no large page. -/
def PteSound (e : Nat) : Prop := e / 2 ^ 48 % 2 ^ 12 = 0 ∧ e / 2 ^ 4 % 2 ^ 12 = 0 ∧ e.testBit 60 = false

theorem PteSound.reserved {e : Nat} (h : PteSound e) : pteReserved e = false := by
  unfold pteReserved fld
  rw [h.1, h.2.1]
  rfl

theorem PteSound.bit60 {e : Nat} (h : PteSound e) : bit e 60 = false := by rw [bit_eq_testBit]; exact h.2.2

theorem PteSound.upper {e : Nat} (h : PteSound e) (h1 : e / 2 ^ 61 = 1) : upperBad e = false := by
  unfold upperBad fld
  rw [h.reserved, h1]
  rfl

/-- The addresses at which a walk reads an ASID's tables, and the entries that it reads there. -/
def walkSlot0 (d : AsidEntry) (va : Nat) : Nat := d.root + 8 * fld va 34 14
def walkSlot1 (m : Memory) (d : AsidEntry) (va : Nat) : Nat := fld (m.read (walkSlot0 d va) 8) 16 32 * 65536 + 8 * fld va 21 13
def walkSlot2 (m : Memory) (d : AsidEntry) (va : Nat) : Nat := fld (m.read (walkSlot1 m d va) 8) 16 32 * 65536 + 8 * fld va 16 5

section
variable {s : State} {die asid va : Nat} {d : AsidEntry} (hd : Tab.get? (s.die die).asids asid = some d)
  (h0 : PteSound (s.mem.read (walkSlot0 d va) 8)) (h1 : PteSound (s.mem.read (walkSlot1 s.mem d va) 8))
  (h0v : s.mem.read (walkSlot0 d va) 8 / 2 ^ 61 = 1) (h1v : s.mem.read (walkSlot1 s.mem d va) 8 / 2 ^ 61 = 1)
include hd h0 h1 h0v h1v

/-- Through two sound upper tables a walk reads three lines. -/
theorem State.walkLines_sound :
    s.walkLines die asid va = [lineOf (walkSlot0 d va), lineOf (walkSlot1 s.mem d va), lineOf (walkSlot2 s.mem d va)] := by
  have f0 : fld (s.mem.read (walkSlot0 d va) 8) 61 3 = 1 := by unfold fld; rw [h0v]; rfl
  have f1 : fld (s.mem.read (walkSlot1 s.mem d va) 8) 61 3 = 1 := by unfold fld; rw [h1v]; rfl
  have u0 := h0.upper h0v
  have u1 := h1.upper h1v
  have b0 := h0.bit60
  have b1 := h1.bit60
  unfold walkSlot1 at f1 u1 b1
  unfold walkSlot0 at *
  simp [State.walkLines, hd, f0, f1, u0, u1, b0, b1, walkSlot1, walkSlot2, walkSlot0]

/-- Through two sound upper tables, none of them poisoned, a walk finds what a sound leaf says. -/
theorem State.walk_sound (hp : ∀ a ∈ [walkSlot0 d va, walkSlot1 s.mem d va, walkSlot2 s.mem d va], Tab.get? s.poison (a / 8) = none)
    (h2 : PteSound (s.mem.read (walkSlot2 s.mem d va) 8)) (h2v : s.mem.read (walkSlot2 s.mem d va) 8 / 2 ^ 61 ≤ 5) :
    s.walk die asid va = if s.mem.read (walkSlot2 s.mem d va) 8 / 2 ^ 61 = 0 then .absent
      else .entry { asid := asid, vpn := va / 65536, pte := s.mem.read (walkSlot2 s.mem d va) 8, used := s.now } := by
  have f0 : fld (s.mem.read (walkSlot0 d va) 8) 61 3 = 1 := by unfold fld; rw [h0v]; rfl
  have f1 : fld (s.mem.read (walkSlot1 s.mem d va) 8) 61 3 = 1 := by unfold fld; rw [h1v]; rfl
  have f2 : fld (s.mem.read (walkSlot2 s.mem d va) 8) 61 3 = s.mem.read (walkSlot2 s.mem d va) 8 / 2 ^ 61 := by
    unfold fld; exact Nat.mod_eq_of_lt (Nat.lt_of_le_of_lt h2v (by decide))
  have u0 := h0.upper h0v
  have u1 := h1.upper h1v
  have b0 := h0.bit60
  have b1 := h1.bit60
  have r2 := h2.reserved
  have b2 := h2.bit60
  simp only [List.mem_cons, List.not_mem_nil, or_false, forall_eq_or_imp, forall_eq] at hp
  obtain ⟨p0, p1, p2⟩ := hp
  generalize hv : s.mem.read (walkSlot2 s.mem d va) 8 / 2 ^ 61 = v at *
  unfold walkSlot2 at *
  unfold walkSlot1 at *
  unfold walkSlot0 at *
  simp [State.walk, hd, f0, f1, f2, u0, u1, b0, b1, b2, r2, p0, p1, p2, Nat.not_lt.mpr h2v]

end

/-! ### Who waits, and how they go on -/

section
variable {s : State} (hc : (s.cores.map Prod.fst).Nodup) (hx : ∀ c, ((s.core c).ctxs.map Prod.fst).Nodup)
include hc hx

/-- The contexts of a die that satisfy a test that no idle context satisfies. -/
theorem State.mem_ctxsOf (die : Nat) {p : Ctx → Bool} (hp : p {} = false) (c slot : Nat) :
    (c, slot) ∈ s.ctxsOf die p ↔ dieOf c = die ∧ p (s.ctx c slot) = true := by
  have hcore : ∀ k, (c, k) ∈ s.cores → s.core c = k := fun k hk => Tab.getD_of_mem hc hk _
  have hctx : ∀ x, (slot, x) ∈ (s.core c).ctxs → s.ctx c slot = x := fun x h => Tab.getD_of_mem (hx c) h _
  simp only [State.ctxsOf, List.mem_flatMap]
  constructor
  · rintro ⟨⟨c', k⟩, hk, hm⟩
    split at hm
    next hdie =>
      obtain ⟨⟨slot', x⟩, hxm, he⟩ := List.mem_map.mp hm
      obtain ⟨hxk, hpx⟩ := List.mem_filter.mp hxm
      obtain ⟨rfl, rfl⟩ := Prod.mk.inj he
      rw [← hcore k hk] at hxk
      exact ⟨beq_iff_eq.mp hdie, by rw [hctx x hxk]; exact hpx⟩
    next => simp at hm
  · rintro ⟨hdie, hpx⟩
    have hmemx : (slot, s.ctx c slot) ∈ (s.core c).ctxs := by
      cases hg : Tab.get? (s.core c).ctxs slot with
      | none =>
        have : s.ctx c slot = {} := by simp [State.ctx, Core.ctx, Tab.getD, hg]
        rw [this, hp] at hpx
        cases hpx
      | some x =>
        have : s.ctx c slot = x := by simp [State.ctx, Core.ctx, Tab.getD, hg]
        rw [this]
        exact Tab.mem_of_get? hg
    have hmemc : (c, s.core c) ∈ s.cores := by
      cases hg : Tab.get? s.cores c with
      | none =>
        have : s.core c = {} := by simp [State.core, Tab.getD, hg]
        rw [this] at hmemx
        cases hmemx
      | some k =>
        have : s.core c = k := by simp [State.core, Tab.getD, hg]
        rw [this]
        exact Tab.mem_of_get? hg
    refine ⟨(c, s.core c), hmemc, ?_⟩
    rw [if_pos (beq_iff_eq.mpr hdie)]
    exact List.mem_map.mpr ⟨(slot, s.ctx c slot), List.mem_filter.mpr ⟨hmemx, hpx⟩, rfl⟩

end

/-- Who waits for the walk of a page. -/
theorem Ctx.waits_walks_iff (x : Ctx) (asid va : Nat) :
    x.waits asid (fun w => w.walks va) = true ↔ x.asid = asid ∧ ∃ v, x.status = .parked (.walk v) ∧ v / 65536 = va / 65536 := by
  unfold Ctx.waits
  cases hs : x.status <;> simp
  case parked w => cases w <;> simp [Wait.walks]

/-- A step that puts one change into one context, done for every entry of a list. -/
theorem State.ctx_foldl {F : State → Nat × Nat → State} {g : Ctx → Ctx} (hg : ∀ x, g (g x) = g x)
    (hF : ∀ s e c slot, (F s e).ctx c slot = if (c, slot) = e then g (s.ctx c slot) else s.ctx c slot) (c slot : Nat) (l : List (Nat × Nat)) :
    ∀ s : State, (l.foldl F s).ctx c slot = if (c, slot) ∈ l then g (s.ctx c slot) else s.ctx c slot := by
  induction l with
  | nil => simp
  | cons e l ih =>
    intro s
    rw [List.foldl_cons, ih, hF]
    by_cases he : (c, slot) = e <;> by_cases hl : (c, slot) ∈ l <;> simp [he, hl, hg]

/-- What a step keeps and one of its entries brings about holds at the end. -/
theorem foldl_establishes {α β : Type} {F : α → β → α} {P : α → Prop} {Q : β → Prop} (hkeep : ∀ a e, P a → P (F a e)) (hmake : ∀ a e, Q e → P (F a e)) :
    ∀ (l : List β) (a : α), (∃ e ∈ l, Q e) → P (l.foldl F a) := by
  have hall : ∀ (l : List β) a, P a → P (l.foldl F a) := fun l => by
    induction l with
    | nil => exact fun _ h => h
    | cons e l ih => exact fun a h => ih _ (hkeep a e h)
  intro l
  induction l with
  | nil => rintro a ⟨e, he, -⟩; cases he
  | cons e l ih =>
    rintro a ⟨f, hf, hq⟩
    rcases List.mem_cons.mp hf with rfl | hf
    · exact hall l _ (hmake a f hq)
    · exact ih _ ⟨f, hf, hq⟩

theorem mem_tlbPut (n : Nat) (l : List TlbEntry) (e : TlbEntry) : e ∈ tlbPut n l e := by
  unfold tlbPut
  dsimp only
  split
  · simp
  · split <;> simp

theorem State.core_fillTlb_self (s : State) (c : Nat) (e : TlbEntry) :
    (s.fillTlb c e).core c = { s.core c with tlb := tlbPut Config.l1TlbEntries (s.core c).tlb { e with used := s.now } } := by simp [State.fillTlb]

theorem State.core_fillTlb_ne (s : State) {c d : Nat} (e : TlbEntry) (h : d ≠ c) : (s.fillTlb c e).core d = s.core d := by
  simp [State.fillTlb, State.core_modCore_ne, h]

@[simp] theorem State.ctx_fillTlb (s : State) (c : Nat) (e : TlbEntry) (d slot : Nat) : (s.fillTlb c e).ctx d slot = s.ctx d slot := by
  unfold State.ctx
  by_cases h : d = c
  · subst h
    rw [State.core_fillTlb_self]
    rfl
  · rw [State.core_fillTlb_ne _ _ h]

theorem State.ctx_modCtx (s : State) (c slot : Nat) (f : Ctx → Ctx) (d n : Nat) :
    (s.modCtx c slot f).ctx d n = if (d, n) = (c, slot) then f (s.ctx d n) else s.ctx d n := by
  by_cases hd : d = c
  · subst hd
    by_cases hn : n = slot
    · subst hn; simp
    · rw [State.ctx_modCtx_ne _ _ _ hn, if_neg (by simp [hn])]
  · rw [if_neg (by simp [hd]), State.ctx, State.core_modCtx_ne _ _ _ hd]
    rfl

/-- A core's L1 TLB translates a page by an entry. -/
def Core.translates (k : Core) (e : TlbEntry) : Prop := ∃ f ∈ k.tlb, f.asid = e.asid ∧ f.vpn = e.vpn ∧ f.pte = e.pte ∧ f.large = e.large

/-- A thread goes on with an entry in its TLBs; and a thread waits for the page to come in. -/
def State.takeEntry (t : TlbEntry) (s : State) (e : Nat × Nat) : State := (s.fillTlb e.1 t).setStatus e.1 e.2 .ready
def State.awaitPage (s : State) (e : Nat × Nat) : State :=
  s.modCtx e.1 e.2 fun x => { x with status := .parked (.pageIn x.waitAddr) }

theorem State.translates_takeEntry (t : TlbEntry) (s : State) (e : Nat × Nat) : ((s.takeEntry t e).core e.1).translates t := by
  refine ⟨{ t with used := s.now }, ?_, rfl, rfl, rfl, rfl⟩
  simp only [State.takeEntry, State.setStatus, State.core_modCtx_self, Core.tlb_modCtx, State.core_fillTlb_self]
  exact mem_tlbPut _ _ _

theorem State.core_takeEntry_ne (t : TlbEntry) (s : State) {e : Nat × Nat} {c : Nat} (h : c ≠ e.1) : (s.takeEntry t e).core c = s.core c := by
  rw [State.takeEntry, State.setStatus, State.core_modCtx_ne _ _ _ h, State.core_fillTlb_ne _ _ h]

theorem State.takeEntry_frame (t : TlbEntry) (l : List (Nat × Nat)) : ∀ s : State, ∃ cs hs, l.foldl (State.takeEntry t) s = { s with cores := cs, hedges := hs } := by
  induction l with
  | nil => exact fun s => ⟨_, _, rfl⟩
  | cons e l ih =>
    intro s
    obtain ⟨cs, hs, h⟩ := ih (s.takeEntry t e)
    exact ⟨cs, hs, h⟩

theorem State.awaitPage_frame (l : List (Nat × Nat)) : ∀ s : State, ∃ cs, l.foldl State.awaitPage s = { s with cores := cs } := by
  induction l with
  | nil => exact fun s => ⟨_, rfl⟩
  | cons e l ih =>
    intro s
    obtain ⟨cs, h⟩ := ih (s.awaitPage e)
    exact ⟨cs, h⟩

theorem State.translates_foldl_takeEntry (t : TlbEntry) {l : List (Nat × Nat)} {c slot : Nat} (h : (c, slot) ∈ l) (s : State) :
    ((l.foldl (State.takeEntry t) s).core c).translates t := by
  refine foldl_establishes (P := fun u => (State.core u c).translates t) (Q := fun e => e.1 = c) ?_ ?_ l s ⟨_, h, rfl⟩
  · intro u e hu
    by_cases he : c = e.1
    · subst he; exact State.translates_takeEntry t u e
    · rw [State.core_takeEntry_ne t u he]; exact hu
  · rintro u e rfl
    exact State.translates_takeEntry t u e

theorem State.ctx_foldl_takeEntry (t : TlbEntry) (l : List (Nat × Nat)) (s : State) (c slot : Nat) :
    (l.foldl (State.takeEntry t) s).ctx c slot = if (c, slot) ∈ l then { s.ctx c slot with status := .ready } else s.ctx c slot :=
  State.ctx_foldl (g := fun x => { x with status := .ready }) (fun _ => rfl)
    (fun s e c slot => by rw [State.takeEntry, State.setStatus, State.ctx_modCtx, State.ctx_fillTlb]) c slot l s

theorem State.ctx_foldl_awaitPage (l : List (Nat × Nat)) (s : State) (c slot : Nat) :
    (l.foldl State.awaitPage s).ctx c slot =
      if (c, slot) ∈ l then { s.ctx c slot with status := .parked (.pageIn (s.ctx c slot).waitAddr) } else s.ctx c slot :=
  State.ctx_foldl (g := fun x => { x with status := .parked (.pageIn x.waitAddr) }) (fun _ => rfl)
    (fun _ _ _ _ => State.ctx_modCtx _ _ _ _ _ _) c slot l s

/-! ### The end of a page walk -/

/-- The threads that wait for a page's walk. -/
def State.walkers (s : State) (die asid va : Nat) : List (Nat × Nat) := s.ctxsOf die fun x => x.waits asid fun w => w.walks va

/-- The state once the walker is free and has read the lines of the tables. -/
def State.tablesRead (s : State) (die asid va : Nat) : State :=
  let t := s.endWalk die asid va
  let pt := (s.walkers die asid va).foldl (fun m e => max m (t.ctx e.1 e.2).pt) 0
  (t.walkLines die asid va).foldl (fun s a => s.walkerRead a pt) t

theorem exec_pageWalkComplete_entry {s : State} {die asid va : Nat} {t : TlbEntry} (h : (s.tablesRead die asid va).walk die asid va = .entry t) :
    exec (.pageWalkComplete die asid va) s = .next ((s.walkers die asid va).foldl (State.takeEntry t) (s.tablesRead die asid va)) := by
  change execPageWalkComplete die asid va s = _
  unfold execPageWalkComplete
  dsimp only
  split <;> rename_i h' <;> cases h.symm.trans h'
  rfl

theorem exec_pageWalkComplete_absent {s : State} {die asid va : Nat} (h : (s.tablesRead die asid va).walk die asid va = .absent) :
    exec (.pageWalkComplete die asid va) s =
      .next (((s.walkers die asid va).foldl State.awaitPage (s.tablesRead die asid va)).signal 6 asid va) := by
  change execPageWalkComplete die asid va s = _
  unfold execPageWalkComplete
  dsimp only
  split <;> rename_i h' <;> cases h.symm.trans h'
  rfl

/-- Reading tables whose lines stand at their homes changes the directories, the die's walks and the next walk's message. -/
theorem State.tablesRead_frame {s : State} {die asid va : Nat} (h : ∀ a ∈ s.walkLines die asid va, s.AtHome a) :
    (∃ ds ho ne, s.tablesRead die asid va = { s with dies := ds, homes := ho, net := ne }) ∧
      (s.tablesRead die asid va).walk die asid va = s.walk die asid va := by
  obtain ⟨ds, ne, he, hasids, hhome⟩ := s.endWalk_frame die asid va
  have hlines : (s.endWalk die asid va).walkLines die asid va = s.walkLines die asid va := State.walkLines_congr hasids (by rw [he]) _ _
  have hk : KeepsHome (s.endWalk die asid va) (s.tablesRead die asid va) :=
    KeepsHome.walkerReads _ _ _ fun a ha => hhome a (h a (hlines ▸ ha))
  obtain ⟨ho, hho⟩ : ∃ ho, s.tablesRead die asid va = { s.endWalk die asid va with homes := ho } := ⟨_, hk.same⟩
  refine ⟨⟨ds, ho, ne, by rw [hho, he]⟩, State.walk_congr ?_ (by rw [hho, he]) (by rw [hho, he]) (by rw [hho, he]) _ _⟩
  rw [← hasids, hho]
  rfl

/-- A context of the die that is parked on the walk of the page. -/
def State.WaitsWalk (s : State) (die asid va c slot : Nat) : Prop :=
  dieOf c = die ∧ (s.ctx c slot).asid = asid ∧ ∃ v, (s.ctx c slot).status = .parked (.walk v) ∧ v / 65536 = va / 65536

section
variable {s : State} {die asid va : Nat} {d : AsidEntry} (hd : Tab.get? (s.die die).asids asid = some d)
  (hc : (s.cores.map Prod.fst).Nodup) (hx : ∀ c, ((s.core c).ctxs.map Prod.fst).Nodup)
  (hhome : ∀ a ∈ [walkSlot0 d va, walkSlot1 s.mem d va, walkSlot2 s.mem d va], Tab.get? s.poison (a / 8) = none ∧ s.AtHome (a / 128))
  (h0 : PteSound (s.mem.read (walkSlot0 d va) 8)) (h1 : PteSound (s.mem.read (walkSlot1 s.mem d va) 8))
  (h2 : PteSound (s.mem.read (walkSlot2 s.mem d va) 8))
  (h0v : s.mem.read (walkSlot0 d va) 8 / 2 ^ 61 = 1) (h1v : s.mem.read (walkSlot1 s.mem d va) 8 / 2 ^ 61 = 1)

include hc hx in
theorem State.mem_walkers (c slot : Nat) : (c, slot) ∈ s.walkers die asid va ↔ s.WaitsWalk die asid va c slot := by
  rw [State.walkers, State.mem_ctxsOf hc hx die (by simp [Ctx.waits]), Ctx.waits_walks_iff]
  rfl

include hd hhome h0 h1 h2 h0v h1v

theorem State.tablesRead_sound (h2v : s.mem.read (walkSlot2 s.mem d va) 8 / 2 ^ 61 ≤ 5) :
    (∃ ds ho ne, s.tablesRead die asid va = { s with dies := ds, homes := ho, net := ne }) ∧
      (s.tablesRead die asid va).walk die asid va = if s.mem.read (walkSlot2 s.mem d va) 8 / 2 ^ 61 = 0 then .absent
        else .entry { asid := asid, vpn := va / 65536, pte := s.mem.read (walkSlot2 s.mem d va) 8, used := s.now } := by
  have hlines : ∀ a ∈ s.walkLines die asid va, s.AtHome a := by
    rw [State.walkLines_sound hd h0 h1 h0v h1v]
    simp only [List.mem_cons, List.not_mem_nil, or_false, forall_eq_or_imp, forall_eq] at hhome ⊢
    obtain ⟨⟨-, b0⟩, ⟨-, b1⟩, ⟨-, b2⟩⟩ := hhome
    exact ⟨b0, b1, b2⟩
  obtain ⟨hframe, hwalk⟩ := State.tablesRead_frame hlines
  exact ⟨hframe, hwalk.trans (State.walk_sound hd h0 h1 h0v h1v (fun a ha => (hhome a ha).1) h2 h2v)⟩

include hc hx

/-- A walk that finds the page lets every thread that waits for it go on. -/
theorem exec_pageWalkComplete_found (hv1 : 1 ≤ s.mem.read (walkSlot2 s.mem d va) 8 / 2 ^ 61) (hv5 : s.mem.read (walkSlot2 s.mem d va) 8 / 2 ^ 61 ≤ 5) :
    ∃ u : State, exec (.pageWalkComplete die asid va) s = .next u ∧
      u = { s with cores := u.cores, hedges := u.hedges, dies := u.dies, homes := u.homes, net := u.net } ∧
      ∀ c slot, (s.WaitsWalk die asid va c slot → u.ctx c slot = { s.ctx c slot with status := .ready } ∧
          ∃ t ∈ (u.core c).tlb, t.asid = asid ∧ t.vpn = va / 65536 ∧ t.pte = s.mem.read (walkSlot2 s.mem d va) 8 ∧ t.large = false) ∧
        (¬ s.WaitsWalk die asid va c slot → u.ctx c slot = s.ctx c slot) := by
  obtain ⟨⟨ds, ho, ne, hframe⟩, hwalk⟩ := State.tablesRead_sound hd hhome h0 h1 h2 h0v h1v hv5
  rw [if_neg (by omega)] at hwalk
  refine ⟨_, exec_pageWalkComplete_entry hwalk, ?_, fun c slot => ?_⟩
  · obtain ⟨cs, hs, hfold⟩ := State.takeEntry_frame _ (s.walkers die asid va) (s.tablesRead die asid va)
    rw [hfold, hframe]
  · have hctx : (s.tablesRead die asid va).ctx c slot = s.ctx c slot := by rw [hframe]; rfl
    rw [← State.mem_walkers hc hx, State.ctx_foldl_takeEntry, hctx]
    exact ⟨fun h => ⟨if_pos h, State.translates_foldl_takeEntry _ h _⟩, fun h => if_neg h⟩

/-- A walk that finds the page absent has the threads wait for Ozine. -/
theorem exec_pageWalkComplete_missing (hv0 : s.mem.read (walkSlot2 s.mem d va) 8 / 2 ^ 61 = 0) :
    ∃ u : State, exec (.pageWalkComplete die asid va) s = .next u ∧
      u = { s with cores := u.cores, dies := u.dies, homes := u.homes, net := u.net, host := u.host } ∧
      u.host.signals = s.host.signals ++ [(6, asid, va)] ∧ ∀ c slot,
        (∀ v, s.WaitsWalk die asid va c slot → (s.ctx c slot).status = .parked (.walk v) → u.ctx c slot = { s.ctx c slot with status := .parked (.pageIn v) }) ∧
        (¬ s.WaitsWalk die asid va c slot → u.ctx c slot = s.ctx c slot) := by
  obtain ⟨⟨ds, ho, ne, hframe⟩, hwalk⟩ := State.tablesRead_sound hd hhome h0 h1 h2 h0v h1v (by omega)
  rw [if_pos hv0] at hwalk
  obtain ⟨cs, hfold⟩ := State.awaitPage_frame (s.walkers die asid va) (s.tablesRead die asid va)
  have hctx : ∀ c slot, (((s.walkers die asid va).foldl State.awaitPage (s.tablesRead die asid va)).signal 6 asid va).ctx c slot =
      if (c, slot) ∈ s.walkers die asid va then { s.ctx c slot with status := .parked (.pageIn (s.ctx c slot).waitAddr) } else s.ctx c slot := by
    intro c slot
    have h : (s.tablesRead die asid va).ctx c slot = s.ctx c slot := by rw [hframe]; rfl
    rw [← h]
    exact State.ctx_foldl_awaitPage _ _ _ _
  refine ⟨_, exec_pageWalkComplete_absent hwalk, ?_, ?_, fun c slot => ?_⟩
  · rw [hfold, hframe]; rfl
  · rw [hfold, hframe]; rfl
  · rw [← State.mem_walkers hc hx, hctx]
    exact ⟨fun v h hv => by rw [if_pos h]; simp [Ctx.waitAddr, hv], fun h => if_neg h⟩

end

/-! ### Shootdowns -/

theorem Tab.getD_mapKey {α : Type} (t : Tab α) (p : Nat → Bool) (f : α → α) (k : Nat) (d : α) (hf : f d = d) :
    Tab.getD (t.map fun e => if p e.1 then (e.1, f e.2) else e) k d = if p k then f (Tab.getD t k d) else Tab.getD t k d := by
  induction t with
  | nil => simp [hf]
  | cons e t ih =>
    by_cases hk : e.1 = k
    · subst hk
      by_cases hp : p e.1 <;> simp [Tab.getD, Tab.get?, hp]
    · have hhead : (if p e.1 then (e.1, f e.2) else e).1 = e.1 := by split <;> rfl
      have hne : ((if p e.1 then (e.1, f e.2) else e).1 == k) = false := by rw [hhead]; simpa using hk
      have hne' : (e.1 == k) = false := by simpa using hk
      simpa [Tab.getD, Tab.get?, List.find?_cons, hne, hne'] using ih

section
variable (s : State) (asid va : Nat) (p : Nat → Bool)

/-- A core, or a hedge, whose TLB has dropped a page. -/
def Core.dropPage (k : Core) (asid va : Nat) : Core := { k with tlb := k.tlb.filter fun e => !e.hits asid va }
def Hedge.dropPage (k : Hedge) (asid va : Nat) : Hedge := { k with l2tlb := k.l2tlb.filter fun e => !e.hits asid va }

theorem State.core_dropTlb (c : Nat) :
    (s.dropTlb asid va p).core c = if p (hedgeKey c) then (s.core c).dropPage asid va else s.core c :=
  Tab.getD_mapKey s.cores (fun c => p (hedgeKey c)) (fun k => k.dropPage asid va) c {} rfl

theorem State.hedge_dropTlb (h : Nat) : (s.dropTlb asid va p).hedge h = if p h then (s.hedge h).dropPage asid va else s.hedge h :=
  Tab.getD_mapKey s.hedges p (fun k => k.dropPage asid va) h {} rfl

@[simp] theorem State.ctx_dropTlb (c slot : Nat) : (s.dropTlb asid va p).ctx c slot = s.ctx c slot := by
  unfold State.ctx
  rw [State.core_dropTlb]
  split <;> rfl

/-- Work that may use a page does not hang on what the TLBs hold. -/
@[simp] theorem State.usesPage_dropTlb (h v : Nat) : (s.dropTlb asid va p).usesPage h v = s.usesPage h v := by
  have hops : ((s.dropTlb asid va p).hedge h).ops = (s.hedge h).ops := by rw [State.hedge_dropTlb]; split <;> rfl
  unfold State.usesPage
  rw [hops]
  congr 1
  unfold State.dropTlb
  rw [List.any_map]
  congr 1
  funext e
  simp only [Function.comp_apply]
  split <;> rfl

end

/-- A shootdown asks every hedge it names, and counts how many it asked. -/
theorem exec_tlbShootdown (s : State) (die asid va : Nat) {hedges : List Nat} (hne : hedges ≠ []) :
    ∃ u : State, exec (.tlbShootdown die asid va hedges) s = .next u ∧
      u = { s with dies := u.dies, net := u.net } ∧ u.net = s.net ++ hedges.map (fun h => .shootdownAck die h asid va) ∧
      (u.die die).shoots = (s.die die).shoots ++ [{ asid := asid, va := va, sent := hedges.length, acked := 0 }] := by
  have hempty : hedges.isEmpty = false := by simpa using hne
  refine ⟨_, rfl, ?_⟩
  rw [hempty, State.foldl_post]
  exact ⟨rfl, rfl, by simp [State.die, State.modDie, State.setDie]⟩

/-- A hedge's answer to a shootdown, put off while work of the hedge may use the page. -/
theorem exec_shootdownAck (s : State) (die hedge asid va : Nat) : exec (.shootdownAck die hedge asid va) s =
    .next (if s.usesPage hedge va then (s.dropTlb asid va (· == hedge)).after 8 (.shootdownAck die hedge asid va)
      else (s.dropTlb asid va (· == hedge)).modDie die fun d => { d with
        shoots := (d.shoots.map fun t => if t.asid == asid && t.va == va then { t with acked := t.acked + 1 } else t).filter fun t => t.acked < t.sent }) := by
  rw [← State.usesPage_dropTlb s asid va (· == hedge)]
  rfl

/-- While work of the hedge may use the page, the answer waits. -/
theorem exec_shootdownAck_busy {s : State} {die hedge asid va : Nat} (h : s.usesPage hedge va = true) :
    ∃ u : State, exec (.shootdownAck die hedge asid va) s = .next u ∧
      u = { s with cores := u.cores, hedges := u.hedges, timers := u.timers } ∧ (s.now + 8, .shootdownAck die hedge asid va) ∈ u.timers := by
  rw [exec_shootdownAck, if_pos h]
  exact ⟨_, rfl, rfl, (mem_insertBy _ _ _ _).mpr (.inl rfl)⟩

/-- The answer of a hedge that is done with the page. -/
theorem exec_shootdownAck_done {s : State} {die hedge asid va : Nat} (h : s.usesPage hedge va = false) :
    ∃ u : State, exec (.shootdownAck die hedge asid va) s = .next u ∧
      u = { s with cores := u.cores, hedges := u.hedges, dies := u.dies } ∧
      (∀ c, (u.core c).tlb = if hedgeKey c = hedge then (s.core c).tlb.filter (fun e => !e.hits asid va) else (s.core c).tlb) ∧
      (u.hedge hedge).l2tlb = (s.hedge hedge).l2tlb.filter (fun e => !e.hits asid va) ∧ (∀ c slot, u.ctx c slot = s.ctx c slot) ∧
      (∀ t, (s.die die).shoots = [t] → t.asid = asid → t.va = va →
        (u.die die).shoots = if t.acked + 1 < t.sent then [{ t with acked := t.acked + 1 }] else []) := by
  rw [exec_shootdownAck, if_neg (by simp [h])]
  refine ⟨_, rfl, rfl, fun c => ?_, ?_, fun c slot => ?_, fun t ht hasid hva => ?_⟩
  · rw [State.core_modDie, State.core_dropTlb]
    by_cases hk : hedgeKey c = hedge <;> simp [hk, Core.dropPage]
  · rw [State.hedge_modDie, State.hedge_dropTlb]
    simp [Hedge.dropPage]
  · exact (congrArg (Core.ctx · slot) (State.core_modDie _ _ _ _)).trans (State.ctx_dropTlb s asid va (· == hedge) c slot)
  · rw [State.die_modDie_self, show (s.dropTlb asid va (· == hedge)).die die = s.die die from rfl, ht]
    by_cases hlast : t.acked + 1 < t.sent <;> simp [hasid, hva, hlast]

/-- Settles O29: the walk's outcome is read off the three tables, every waiter takes it, and dropping a page changes nothing but TLBs. -/
theorem translationSteps : Obligations.TranslationSteps := by
  unfold Obligations.TranslationSteps
  refine ⟨?_, fun s die asid va hedges hne => exec_tlbShootdown s die asid va hne, fun s die hedge asid va =>
    ⟨exec_shootdownAck_busy, exec_shootdownAck_done⟩⟩
  intro s die asid va d hd a0 e0 a1 e1 a2 e2 sound waits hc hx hhome h0 h1 h2 h0v h1v
  exact ⟨exec_pageWalkComplete_found hd hc hx hhome h0 h1 h2 h0v h1v, exec_pageWalkComplete_missing hd hc hx hhome h0 h1 h2 h0v h1v⟩

end Sys2Proof.Machine
end

section
/-! PROOFS. The frames that an allocation takes (17 R376): what the leaf of a frame past every die's DRAM says (O45). -/

namespace Sys2Proof.Machine

/-! The check that `execTrapAllocate` makes of a frame, `inDram (f / 2 ^ 36) f`, bounds the frame within its die but not the die's number,
so a frame of 2^64 passes it. Its leaf, 2^61 + 2^64 + 7, does not fit the entry's eight bytes. -/

/-- A thread's demand for one page, at its die's Boxwood cores. -/
def onePageTrap : TrapRec := { tid := 512, asid := 1, cls := 1, next := 514, arg := BitVec.ofNat 64 (2 ^ 56 + 1) }

/-- The die of the demand: an ASID whose root table stands at 2 MB. -/
def onePageDie : Die := { asids := [(1, { root := 0x200000 })], traps := [onePageTrap] }

/-- A package with one job of one ASID, whose tables reach a leaf table at 6 MB with every entry absent. -/
def onePageState : State :=
  { dies := [(0, onePageDie)], jobs := [{ num := 1, asids := [1] }],
    mem := Memory.write (Memory.write [] 0x200000 8 (2 ^ 61 + 0x400000)) 0x400000 8 (2 ^ 61 + 0x600000) }

/-- The leaf entry that an allocation at a frame leaves behind at 6 MB. -/
def leafAfter (o : Out) : Nat := match o with | .next u => u.mem.read 0x600000 8 | _ => 0

/-- The first absent page is page 0, and its entry the leaf table's first. -/
theorem freePages_onePageState : freePages (onePageState.absentLeaves 0 1) [] 1 = some (0, [0x600000]) := by decide +kernel

/-- At frame 2^64 the model writes the leaf of frame 0. -/
theorem leafAfter_giantFrame : leafAfter (exec (.trapAllocate onePageTrap (some (2 ^ 64))) onePageState) = 2 ^ 61 + 7 := by decide +kernel

/-- Refutes O45: in `onePageState` an allocation at frame 2^64, which passes the check of the frame, does not leave the leaf
2^61 + 2^64 + 7 but 2^61 + 7, for an entry holds 64 bits. -/
theorem not_ozineServes : ¬ Obligations.OzineServes := by
  unfold Obligations.OzineServes
  rintro ⟨-, -, htraps⟩
  obtain ⟨-, -, halloc, -⟩ := htraps onePageState onePageTrap 0 onePageDie (by decide +kernel) (by decide +kernel)
  obtain ⟨u, hu, -, -, -, hleaf⟩ := halloc (2 ^ 64) 0 [0x600000] { num := 1, asids := [1] } (by decide +kernel) (by decide +kernel)
    (by decide +kernel) (by decide +kernel) freePages_onePageState (by decide) (by decide) (by decide) (by decide) (by decide)
  have hread : u.mem.read 0x600000 8 = 2 ^ 61 + 2 ^ 64 + 65536 * 0 + 7 := hleaf 0 0x600000 rfl
  have hmodel := leafAfter_giantFrame
  rw [hu, leafAfter, hread] at hmodel
  exact absurd hmodel (by decide)

end Sys2Proof.Machine
end

section
/-! PROOFS. The end of every job on a die's thermal stop (17 R384, R402): which jobs have not ended and which dies have stopped, and that
nothing that Ozine does to end one job brings another back, or starts a die (O51). -/

namespace Sys2Proof.Machine

/-! ### The jobs that have not ended, the dies that have stopped -/

/-- The numbers of the jobs that have not ended. -/
def liveNums (l : List Job) : List Nat := (l.filter fun j => j.st != .ended).map Job.num

/-- Which dies have stopped. -/
def downDies (ds : Tab Die) (d : Nat) : Bool := (Tab.getD ds d {}).stopped

theorem liveNums_nil_iff {l : List Job} : liveNums l = [] ↔ ∀ j ∈ l, j.st = .ended := by
  simp [liveNums, List.filter_eq_nil_iff]

/-- A change of jobs that keeps numbers and states keeps which of them live. -/
theorem liveNums_map {f : Job → Job} (hf : ∀ j, (f j).num = j.num ∧ (f j).st = j.st) (l : List Job) : liveNums (l.map f) = liveNums l := by
  have hst : (fun j : Job => j.st != .ended) ∘ f = fun j => j.st != .ended := funext fun j => by simp [(hf j).2]
  have hnum : Job.num ∘ f = Job.num := funext fun j => (hf j).1
  rw [liveNums, List.filter_map, hst, List.map_map, hnum, liveNums]

theorem State.liveNums_modJob (s : State) (n : Nat) {f : Job → Job} (hf : ∀ j, (f j).num = j.num ∧ (f j).st = j.st) :
    liveNums (s.modJob n f).jobs = liveNums s.jobs := by
  refine liveNums_map (fun j => ?_) s.jobs
  split
  · exact hf j
  · exact ⟨rfl, rfl⟩

/-- A job that ends leaves the living. -/
theorem State.liveNums_modJob_ended (s : State) (n : Nat) :
    liveNums (s.modJob n fun j => { j with st := .ended }).jobs = (liveNums s.jobs).filter (· != n) := by
  change liveNums (s.jobs.map _) = _
  induction s.jobs with
  | nil => rfl
  | cons j l ih =>
    by_cases hst : j.st = .ended
    · simpa [liveNums, hst] using ih
    · by_cases hn : j.num = n
      · simpa [liveNums, hst, hn] using ih
      · simpa [liveNums, hst, hn] using ih

theorem State.job_none_iff {s : State} {n : Nat} : s.job n = none ↔ n ∉ liveNums s.jobs := by
  simp only [State.job, List.find?_eq_none, liveNums, List.mem_map, List.mem_filter, Bool.and_eq_true, beq_iff_eq, not_exists, not_and]
  exact ⟨fun h j hj => h j hj.1 hj.2, fun h j hj hst => h j ⟨hj, hst⟩⟩

theorem State.job_num {s : State} {n : Nat} {j : Job} (h : s.job n = some j) : j.num = n := by
  have := List.find?_some h
  simp only [Bool.and_eq_true, beq_iff_eq] at this
  exact this.2

/-- A change of one die, or of every die, that leaves the stops. -/
@[simp] theorem State.downDies_modDie (s : State) (n : Nat) (f : Die → Die) (hf : ∀ d, (f d).stopped = d.stopped) :
    downDies (s.modDie n f).dies = downDies s.dies := by
  funext d
  by_cases h : d = n
  · subst h; exact (congrArg Die.stopped (State.die_modDie_self s d f)).trans (hf _)
  · exact congrArg Die.stopped (State.die_modDie_ne s f h)

theorem downDies_map (ds : Tab Die) (f : Nat × Die → Nat × Die) (hk : ∀ e, (f e).1 = e.1) (hf : ∀ e, (f e).2.stopped = e.2.stopped) :
    downDies (ds.map f) = downDies ds := by
  funext d
  rw [downDies, Tab.getD, Tab.get?_map ds f (fun e _ => hk e), downDies, Tab.getD]
  cases Tab.get? ds d with
  | none => rfl
  | some x => exact hf (d, x)

/-! ### What leaves the jobs and the dies as they are -/

@[simp] theorem State.jobs_ite (c : Prop) [Decidable c] (s t : State) : (if c then s else t).jobs = if c then s.jobs else t.jobs := apply_ite ..
@[simp] theorem State.dies_ite (c : Prop) [Decidable c] (s t : State) : (if c then s else t).dies = if c then s.dies else t.dies := apply_ite ..
@[simp] theorem State.jobs_foldl {α : Type} {f : State → α → State} (hf : ∀ s a, (f s a).jobs = s.jobs) (l : List α) (s : State) :
    (l.foldl f s).jobs = s.jobs :=
  List.foldlRecOn (motive := fun t : State => t.jobs = s.jobs) _ _ rfl fun t h a _ => (hf t a).trans h
@[simp] theorem State.dies_foldl {α : Type} {f : State → α → State} (hf : ∀ s a, (f s a).dies = s.dies) (l : List α) (s : State) :
    (l.foldl f s).dies = s.dies :=
  List.foldlRecOn (motive := fun t : State => t.dies = s.dies) _ _ rfl fun t h a _ => (hf t a).trans h

/-- A step leaves the jobs and the dies as they are; it leaves which jobs live and which dies have stopped. -/
@[simp] abbrev SameRolls (s t : State) : Prop := t.jobs = s.jobs ∧ t.dies = s.dies
@[simp] abbrev SameLife (s t : State) : Prop := liveNums t.jobs = liveNums s.jobs ∧ downDies t.dies = downDies s.dies

theorem SameRolls.foldl {α : Type} {f : State → α → State} (hf : ∀ s a, SameRolls s (f s a)) (l : List α) (s : State) : SameRolls s (l.foldl f s) :=
  ⟨State.jobs_foldl (fun s a => (hf s a).1) l s, State.dies_foldl (fun s a => (hf s a).2) l s⟩
theorem SameRolls.life {s t : State} (h : SameRolls s t) : SameLife s t := ⟨congrArg liveNums h.1, congrArg downDies h.2⟩
theorem SameLife.trans {s t u : State} (h : SameLife s t) (g : SameLife t u) : SameLife s u := ⟨g.1.trans h.1, g.2.trans h.2⟩
theorem SameLife.foldl {α : Type} {f : State → α → State} (hf : ∀ s a, SameLife s (f s a)) (l : List α) (s : State) : SameLife s (l.foldl f s) :=
  List.foldlRecOn (motive := SameLife s) _ _ ⟨rfl, rfl⟩ fun t h a _ => h.trans (hf t a)

@[simp] theorem State.rolls_postOnce (s : State) (i : Instr) : SameRolls s (s.postOnce i) := by simp [State.postOnce]
@[simp] theorem State.rolls_postLanding (s : State) (asid : Nat) (l : LandFrom) (status : Nat) : SameRolls s (s.postLanding asid l status) := by
  simp [State.postLanding]
@[simp] theorem State.rolls_setEntry (s : State) (e : HomeEntry) : SameRolls s (s.setEntry e) := ⟨rfl, rfl⟩
@[simp] theorem State.rolls_joinCheck (s : State) (line : Nat) : SameRolls s (s.joinCheck line) :=
  SameRolls.foldl (fun s (e : Nat × Die) => SameRolls.foldl (f := fun s a => s.post (.joinWake e.1 a)) (fun _ _ => ⟨rfl, rfl⟩) _ s) _ s
@[simp] theorem State.rolls_imageWrite (s : State) (c line data mask : Nat) : SameRolls s (s.imageWrite c line data mask) := by
  simp [State.imageWrite]
@[simp] theorem State.rolls_putLine (s : State) (c line data mask : Nat) : SameRolls s (s.putLine c line data mask) := by simp [State.putLine]
@[simp] theorem State.rolls_dropLine (s : State) (l : CacheLine) : SameRolls s (s.dropLine l) := by simp [State.dropLine]
@[simp] theorem State.rolls_moveOwner (s : State) (l : CacheLine) (owner : Nat) : SameRolls s (s.moveOwner l owner) := by
  unfold State.moveOwner
  split
  · exact ⟨rfl, rfl⟩
  · split <;> exact ⟨rfl, rfl⟩
@[simp] theorem State.rolls_evictLine (s : State) (h : Nat) (l : CacheLine) : SameRolls s (s.evictLine h l) := by
  simp only [State.evictLine]
  (repeat' split) <;> simp
@[simp] theorem State.rolls_cacheLine (s : State) (c : Nat) (l : CacheLine) : SameRolls s (s.cacheLine c l) := by
  simp only [State.cacheLine]
  split <;> simp
@[simp] theorem State.rolls_fromVictim (s : State) (c line : Nat) : SameRolls s (s.fromVictim c line) := by
  simp only [State.fromVictim]
  split <;> simp
@[simp] theorem State.rolls_takeNat (s : State) : SameRolls s (s.takeNat).2 := ⟨rfl, rfl⟩

@[simp] theorem State.rolls_returnSend (s : State) (m : SendMsg) : SameRolls s (s.returnSend m) := by simp [State.returnSend]
@[simp] theorem State.rolls_sendWrite (s : State) (c slot : Nat) (m : SendMsg) : SameRolls s (s.sendWrite c slot m) := ⟨rfl, rfl⟩
@[simp] theorem State.rolls_sendInto (s : State) (c slot : Nat) (m : SendMsg) : SameRolls s (s.sendInto c slot m) := by
  simp only [State.sendInto]
  (repeat' split) <;> simp
@[simp] theorem State.rolls_gather (s : State) (c slot : Nat) (m : Travel) : SameRolls s (s.gather c slot m) := by
  simp only [State.gather]
  split <;> simp

theorem State.rolls_takeIn {s t : State} {c : Nat} {m : Travel} (e : s.takeIn c m = some t) : SameRolls s t := by
  unfold State.takeIn at e
  dsimp only at e
  (repeat' split at e) <;> cases e <;> simp

theorem State.rolls_readmitDeque {s t : State} {c : Nat} (e : s.readmitDeque c = some t) : SameRolls s t := by
  unfold State.readmitDeque at e
  split at e
  · cases e
  split at e
  · cases e
  split at e
  · cases e
  split at e
  · cases e
  exact State.rolls_takeIn (s := s.setCore c _) e

@[simp] theorem State.rolls_normalLeaves (s : State) (asids : List Nat) : SameRolls s (s.normalLeaves asids) := by
  refine SameRolls.foldl (fun s l => ?_) _ s
  dsimp only
  split <;> exact ⟨rfl, rfl⟩
@[simp] theorem State.rolls_wakeKey (s : State) (key : Nat) : SameRolls s (s.wakeKey key) := by simp [State.wakeKey]
@[simp] theorem State.rolls_wakeWaiters (s : State) (key : Nat) : SameRolls s (s.wakeWaiters key) := by simp [State.wakeWaiters]
@[simp] theorem State.rolls_wakeCopies (s : State) : SameRolls s s.wakeCopies := by simp [State.wakeCopies]
@[simp] theorem State.rolls_openHeld (s : State) : SameRolls s s.openHeld := by
  unfold State.openHeld
  split <;> exact ⟨rfl, rfl⟩
@[simp] theorem State.rolls_advance (s : State) (c ch : Nat) : SameRolls s (s.advance c ch) := ⟨rfl, rfl⟩
@[simp] theorem State.rolls_dropCopies (s : State) (mine : Nat → Bool) (c : Nat) : SameRolls s (s.dropCopies mine c) := by
  simp [State.dropCopies]
@[simp] theorem State.rolls_returnTile (s : State) (h : Nat) (o : EngOp) : SameRolls s (s.returnTile h o) := by
  unfold State.returnTile
  split
  · exact ⟨rfl, rfl⟩
  · split <;> exact ⟨rfl, rfl⟩
@[simp] theorem State.rolls_dropCandidates (s : State) (mine : Nat → Bool) (h : Nat) : SameRolls s (s.dropCandidates mine h) := by
  simp [State.dropCandidates]
@[simp] theorem State.rolls_kick (s : State) (h : Nat) : SameRolls s (s.kick h) := by simp [State.kick]

/-! ### What leaves which jobs live and which dies have stopped -/

@[simp] theorem State.life_finishAccess (s : State) (c slot : Nat) (a : Access) (ts got : Nat) : SameLife s (s.finishAccess c slot a ts got) := by
  simp only [State.finishAccess]
  (repeat' split) <;> simp
@[simp] theorem State.life_performAt (s : State) (c slot : Nat) (a : Access) (wts rts : Nat) : SameLife s (s.performAt c slot a wts rts).1 := by
  simp only [State.performAt]
  split <;> simp
@[simp] theorem State.life_dropSlot (s : State) (c : Nat) (q : QSlot) : SameLife s (s.dropSlot c q) := by
  unfold State.dropSlot
  split <;> simp
@[simp] theorem State.life_redeliverTo (s : State) (c old asid slot : Nat) : SameLife s (s.redeliverTo c old asid slot) := by
  refine SameLife.foldl (fun s q => ?_) _ s
  split
  · split <;> simp
  · exact ⟨rfl, rfl⟩
@[simp] theorem State.life_dropSnap (s : State) (i status : Nat) : SameLife s (s.dropSnap i status) := by
  unfold State.dropSnap
  split
  · exact ⟨rfl, rfl⟩
  · extract_lets older fix y s1 s2
    have h1 : SameLife s s1 := ⟨rfl, downDies_map _ _ (fun _ => rfl) fun _ => rfl⟩
    have h2 : SameLife s1 s2 := by
      unfold s2
      split
      · exact ⟨rfl, rfl⟩
      · exact (State.rolls_normalLeaves s1 _).life
    exact (h1.trans h2).trans (State.rolls_wakeCopies s2).life
@[simp] theorem State.life_failOpen (s : State) : SameLife s s.failOpen := by
  unfold State.failOpen
  split <;> simp
@[simp] theorem State.life_dropSnaps (s : State) (job : Nat) : SameLife s (s.dropSnaps job) := by
  refine SameLife.foldl (f := _) (fun s i => ?_) _ { s with yew := _ }
  (repeat' split) <;> simp
@[simp] theorem State.life_dropJoiners (s : State) (mine : Nat → Bool) : SameLife s (s.dropJoiners mine) :=
  ⟨rfl, downDies_map _ _ (fun _ => rfl) fun _ => rfl⟩
@[simp] theorem State.life_dropEntries (s : State) (mine : Nat → Bool) : SameLife s (s.dropEntries mine) :=
  (State.life_dropJoiners s mine).trans ⟨rfl, downDies_map (s.dropJoiners mine).dies _ (fun _ => rfl) fun _ => rfl⟩
@[simp] theorem State.life_dropBlocks (s : State) (mine : Nat → Bool) : SameLife s (s.dropBlocks mine) := ⟨rfl, downDies_map _ _ (fun _ => rfl) fun _ => rfl⟩
@[simp] theorem State.life_closeAsid (s : State) (asid : Nat) : SameLife s (s.closeAsid asid) := by
  unfold State.closeAsid
  split
  · exact ⟨rfl, rfl⟩
  · split
    · exact ⟨rfl, rfl⟩
    · exact ⟨rfl, downDies_map _ _ (fun _ => rfl) fun _ => rfl⟩

/-- A record in a job's fault record changes neither the job's number nor its state. -/
@[simp] theorem State.life_record (s : State) (num : Nat) (r : FaultRec) : SameLife s (s.record num r) := by
  unfold State.record
  split
  · exact ⟨rfl, rfl⟩
  · dsimp only
    split <;> exact ⟨State.liveNums_modJob s num fun _ => ⟨rfl, rfl⟩, rfl⟩
@[simp] theorem State.life_recordFor (s : State) (asid : Nat) (r : FaultRec) : SameLife s (s.recordFor asid r) := by
  unfold State.recordFor
  split <;> simp
@[simp] theorem State.life_threadFault (s : State) (c slot code detail : Nat) (second origin : Bool) :
    SameLife s (s.threadFault c slot code detail second origin) := by
  simp only [State.threadFault]
  (repeat' split) <;> simp
@[simp] theorem State.life_porterFault (s : State) (c code detail : Nat) (second origin : Bool) :
    SameLife s (s.porterFault c code detail second origin) := by
  simp only [State.porterFault]
  (repeat' split) <;> simp
@[simp] theorem State.life_takeFault (s : State) (c slot code detail : Nat) (second origin : Bool) :
    SameLife s (s.takeFault c slot code detail second origin) := by
  unfold State.takeFault
  split <;> simp
@[simp] theorem State.life_poisonedAccess (s : State) (c slot : Nat) (a : Access) (origin : Bool) :
    SameLife s (s.poisonedAccess c slot a origin) := by
  simp only [State.poisonedAccess, State.accessFault]
  split <;> simp
@[simp] theorem State.life_performSram (s : State) (c slot : Nat) (a : Access) : SameLife s (s.performSram c slot a) := by
  unfold State.performSram
  split <;> simp
@[simp] theorem State.life_performOwned (s : State) (c slot : Nat) (a : Access) (l : CacheLine) : SameLife s (s.performOwned c slot a l) := by
  simp only [State.performOwned]
  (repeat' split) <;> simp
@[simp] theorem State.life_performLeased (s : State) (c slot : Nat) (a : Access) (l : CacheLine) : SameLife s (s.performLeased c slot a l) := by
  unfold State.performLeased
  split <;> simp
@[simp] theorem State.life_headAccess (s : State) (c slot : Nat) : SameLife s (s.headAccess c slot).1 := by
  simp only [State.headAccess]
  (repeat' split) <;> simp

theorem State.life_pump (c slot k : Nat) : ∀ s : State, SameLife s (s.pump c slot k) := by
  induction k with
  | zero => exact fun _ => ⟨rfl, rfl⟩
  | succ k ih =>
    intro s
    have hh := State.life_headAccess s c slot
    unfold State.pump
    split <;> rename_i e <;> rw [e] at hh
    · exact hh.trans (ih _)
    · exact hh

theorem State.life_resumeThread (s : State) (c slot : Nat) : SameLife s (s.resumeThread c slot) := by
  refine SameLife.trans (State.life_pump c slot _ s) (SameRolls.life (SameRolls.foldl (fun s p => ?_) _ _))
  split <;> exact ⟨rfl, rfl⟩

theorem State.life_readmitGroup {s t : State} {c group : Nat} (e : s.readmitGroup c group = some t) : SameLife s t := by
  revert e
  unfold State.readmitGroup
  dsimp only
  split
  · nofun
  split
  · split
    · split
      · intro e
        cases e
        exact SameLife.trans (s := s) (t := State.modCore _ _ _) ⟨rfl, rfl⟩ ((State.life_resumeThread _ c _).trans (State.life_redeliverTo _ c _ _ _))
      · nofun
    · nofun
  split
  · nofun
  split
  · nofun
  split
  · nofun
  intro e
  obtain ⟨u, hu, rfl⟩ := Option.map_eq_some_iff.1 e
  exact (State.rolls_takeIn hu).life.trans ⟨rfl, rfl⟩

theorem State.life_readmit (c k : Nat) : ∀ s : State, SameLife s (s.readmit c k) := by
  induction k with
  | zero => exact fun _ => ⟨rfl, rfl⟩
  | succ k ih =>
    intro s
    unfold State.readmit
    split
    · next e => exact (State.life_readmitGroup e).trans (ih _)
    · split
      · next e => exact (State.life_readmitGroup e).trans (ih _)
      · split
        · next e => exact (State.rolls_readmitDeque e).life.trans (ih _)
        · exact ⟨rfl, rfl⟩

theorem State.life_resumeOthers (s : State) (c : Nat) : SameLife s (s.resumeOthers c) := by
  unfold State.resumeOthers
  extract_lets k s1 s2 s3 s4 s5
  have hroll : SameRolls s s4 := by simp [s4, s3, s2, s1]
  split
  · exact ⟨rfl, rfl⟩
  · refine (hroll.life.trans (State.life_readmit c 63 s4)).trans ?_
    split <;> exact ⟨rfl, rfl⟩

/-! ### The end of jobs -/

/-- The end of a job up to the job's own entry. -/
def State.jobCleared (s : State) (j : Job) : State :=
  let mine := fun a => j.asids.contains a
  let s := s.dropSnaps j.num
  let s := s.cores.foldl (fun s (e : Nat × Core) => s.dropCopies mine e.1) s
  let s := s.hedges.foldl (fun s (h : Nat × Hedge) => s.dropCandidates mine h.1) s
  (s.dropEntries mine).dropBlocks mine

/-- What the end of a job does after it has ended the job's entry. -/
def State.jobClosed (s : State) (j : Job) : State :=
  let s := j.asids.foldl (fun s a => s.closeAsid a) s
  let s := s.cores.foldl (fun s (e : Nat × Core) => s.resumeOthers e.1) s
  State.openHeld (s.hedges.foldl (fun s (h : Nat × Hedge) => if h.2.ops.isEmpty then s else s.kick h.1) s)

theorem State.endJob_eq (s : State) (j : Job) :
    s.endJob j = State.jobClosed ((s.jobCleared j).modJob j.num fun j => { j with st := .ended }) j := rfl

/-- Which jobs live and which dies have stopped. -/
def State.life (s : State) : List Nat × (Nat → Bool) := (liveNums s.jobs, downDies s.dies)

theorem State.life_eq {s t : State} (h : SameLife s t) : t.life = s.life := congrArg₂ Prod.mk h.1 h.2
theorem State.life_foldl {α : Type} {f : State → α → State} (hf : ∀ s a, SameLife s (f s a)) (l : List α) (s : State) : (l.foldl f s).life = s.life :=
  State.life_eq (SameLife.foldl hf l s)

theorem State.life_jobCleared (s : State) (j : Job) : (s.jobCleared j).life = s.life := by
  have hcopies (mine : Nat → Bool) (s : State) (e : Nat × Core) : SameLife s (s.dropCopies mine e.1) := (State.rolls_dropCopies s mine e.1).life
  have hcands (mine : Nat → Bool) (s : State) (e : Nat × Hedge) : SameLife s (s.dropCandidates mine e.1) :=
    (State.rolls_dropCandidates s mine e.1).life
  rw [State.jobCleared, State.life_eq (State.life_dropBlocks _ _), State.life_eq (State.life_dropEntries _ _), State.life_foldl (hcands _),
    State.life_foldl (hcopies _), State.life_eq (State.life_dropSnaps s j.num)]

theorem State.life_jobClosed (s : State) (j : Job) : (s.jobClosed j).life = s.life := by
  have hkick (s : State) (h : Nat × Hedge) : SameLife s (if h.2.ops.isEmpty then s else s.kick h.1) := by split <;> simp
  have hresume (s : State) (e : Nat × Core) : SameLife s (s.resumeOthers e.1) := State.life_resumeOthers s e.1
  rw [State.jobClosed, State.life_eq (State.rolls_openHeld _).life, State.life_foldl hkick, State.life_foldl hresume,
    State.life_foldl State.life_closeAsid]

/-- Ozine ends one job and no other, and starts no die (17 R402). -/
theorem State.life_endJob (s : State) (j : Job) :
    liveNums (s.endJob j).jobs = (liveNums s.jobs).filter (· != j.num) ∧ downDies (s.endJob j).dies = downDies s.dies := by
  obtain ⟨hjobs, hdies⟩ := Prod.mk.inj (State.life_jobCleared s j)
  obtain ⟨hclosed, hdown⟩ := Prod.mk.inj (State.life_jobClosed ((s.jobCleared j).modJob j.num fun j => { j with st := .ended }) j)
  rw [State.endJob_eq]
  exact ⟨by rw [hclosed, State.liveNums_modJob_ended, hjobs], hdown.trans hdies⟩

/-- Ozine ends a job that has not ended yet, with a kill record. -/
def State.killJob (cause : Nat) (s : State) (j : Job) : State :=
  match s.job j.num with
  | none => s
  | some j => (s.record j.num (faultRec 3 (j.asids.headD 0) 0 0 (cause * 2 ^ 48) s.now)).endJob j

theorem State.life_killJob (cause : Nat) (s : State) (j : Job) :
    liveNums (s.killJob cause j).jobs = (liveNums s.jobs).filter (· != j.num) ∧ downDies (s.killJob cause j).dies = downDies s.dies := by
  unfold State.killJob
  split
  · next h =>
    refine ⟨(List.filter_eq_self.mpr fun n hn => ?_).symm, rfl⟩
    simp only [bne_iff_ne, ne_eq]
    rintro rfl
    exact State.job_none_iff.mp h hn
  · next i h =>
    obtain ⟨hjobs, hdies⟩ := State.life_record s i.num (faultRec 3 (i.asids.headD 0) 0 0 (cause * 2 ^ 48) s.now)
    obtain ⟨hend, hstay⟩ := State.life_endJob (s.record i.num (faultRec 3 (i.asids.headD 0) 0 0 (cause * 2 ^ 48) s.now)) i
    exact ⟨by rw [hend, hjobs, State.job_num h], hstay.trans hdies⟩

theorem State.life_foldl_killJob (cause : Nat) (l : List Job) : ∀ s : State,
    liveNums (l.foldl (State.killJob cause) s).jobs = (liveNums s.jobs).filter (fun n => l.all fun j => n != j.num) ∧
    downDies (l.foldl (State.killJob cause) s).dies = downDies s.dies := by
  induction l with
  | nil => intro s; simp
  | cons j l ih =>
    intro s
    obtain ⟨hjobs, hdies⟩ := State.life_killJob cause s j
    obtain ⟨hrest, hstay⟩ := ih (s.killJob cause j)
    refine ⟨?_, hstay.trans hdies⟩
    rw [List.foldl_cons, hrest, hjobs, List.filter_filter]
    refine List.filter_congr fun n _ => ?_
    rw [List.all_cons, Bool.and_comm]

/-- The end of every job ends every job, and starts no die (17 R384). -/
theorem State.endKilled_all (s : State) (cause : Nat) :
    (∀ j ∈ (s.endKilled cause fun _ => true).jobs, j.st = .ended) ∧ downDies (s.endKilled cause fun _ => true).dies = downDies s.dies := by
  obtain ⟨hjobs, hdies⟩ := State.life_foldl_killJob cause (s.jobs.filter fun j => j.st != .ended && true) s
  refine ⟨liveNums_nil_iff.mp (hjobs.trans (List.filter_eq_nil_iff.mpr fun n hn => ?_)), hdies⟩
  obtain ⟨j, hj, rfl⟩ := List.mem_map.mp hn
  simp only [List.all_eq_true, bne_iff_ne, not_forall]
  exact ⟨j, by simpa using hj, fun h => h rfl⟩

end Sys2Proof.Machine
end

section
/-! PROOFS. Function reset, features, firmware, heat, watchdog and package reset (05 R109; 14 R333; 17 R367, R377 to R384; 04 R83; O51). -/

namespace Sys2Proof.Machine

/-! ### Features, firmware and heat -/

theorem exec_drvfeat (s : State) (v : Word) : exec (.drvfeat v) s = .next
    (if v.toNat &&& (feat0 % 1024) = v.toNat then { s with host := { s.host with drvfeat := v.toNat } } else s) := by
  change Host.Outcome.next (if _ then _ else _) = _
  by_cases h : v.toNat &&& (feat0 % 1024) = v.toNat <;> simp [h]

theorem exec_firmwareUpdate_running {s : State} (h : ∃ j ∈ s.jobs, j.st = .running) (n : Nat) : exec (.firmwareUpdate n) s = .next s := by
  refine congrArg _ (if_pos ?_)
  simpa [List.any_eq_true] using h

theorem exec_firmwareUpdate_stopped {s : State} (h : ∀ j ∈ s.jobs, j.st ≠ .running) (n : Nat) : exec (.firmwareUpdate n) s = .next
    { s with host := { s.host with fver := n % 2 ^ 32 * 2 ^ 32 + (s.host.fver + 1) % 2 ^ 32 } } := by
  refine congrArg _ (if_neg ?_)
  simpa [List.any_eq_true] using h

/-! ### Package reset -/

theorem bootValid_iff (i : BootImage) : bootValid i = true ↔ Config.shake256 i.rootKey = Config.romDigest ∧
    (i.owner = none → Config.verifies i.rootKey (bootMessage i) i.signature) ∧
    (∀ key cert, i.owner = some (key, cert) → Config.verifies i.rootKey key cert ∧ Config.verifies key (bootMessage i) i.signature) := by
  unfold bootValid
  split
  · next h => simp [h]
  · next key cert h => simp [h]

/-- The identity key goes on from the newest good copy of its leaf, where its helper data stands; else it is enrolled anew (17 R379). -/
theorem Hostside.restart_eq (h : Hostside) : h.restart = if h.helper ∧ (h.leafA.good ∨ h.leafB.good) then
      { keyDraw := h.keyDraw + 1, leaf := if h.leafA.good ∧ (h.leafB.good = false ∨ h.leafB.seq ≤ h.leafA.seq) then h.leafA.end_ else h.leafB.end_,
        leafA := h.leafA, leafB := h.leafB, enrolled := h.enrolled }
    else { keyDraw := h.keyDraw + 1, enrolled := h.enrolled + 1 } := by
  unfold Hostside.restart
  cases hh : h.helper
  · simp
  · cases ha : h.leafA.good
    · cases hb : h.leafB.good <;> simp [Option.filter]
    · by_cases hn : h.leafB.good = false ∨ h.leafB.seq ≤ h.leafA.seq
      · simp [hn, Option.filter]
      · have hb : h.leafB.good = true := by simpa using fun hb => hn (.inl hb)
        simp [hb, Option.filter, show ¬ h.leafB.seq ≤ h.leafA.seq from fun hs => hn (.inr hs)]

/-- Far and host memory, which a package reset leaves (04 R83; log 3). -/
def outsideMemory (a : Nat) : Bool := 2 ^ 43 ≤ a && a < 2 ^ 48

/-- The package after a reset that leaves a given host side. -/
def State.resetTo (s : State) (h : Hostside) : State :=
  { (State.reset) with mem := List.filter (fun c => outsideMemory c.1) s.mem, poison := s.poison.filter (fun p => outsideMemory (p.1 * 8)),
                       host := h, free := s.free, script := s.script, outbox := s.outbox }

theorem State.byte_resetTo (s : State) (h : Hostside) (a : Nat) :
    (s.resetTo h).mem.byte a = if 2 ^ 43 ≤ a ∧ a < 2 ^ 48 then s.mem.byte a else 0 := by
  change Memory.byte (s.mem.filter fun c => outsideMemory c.1) a = _
  split
  · next ha => exact Memory.byte_filter s.mem outsideMemory a (by simpa [outsideMemory] using ha)
  · next ha =>
    refine Memory.byte_none _ _ fun c hc he => ha ?_
    simpa [outsideMemory, he] using (List.mem_filter.mp hc).2

theorem exec_packageReset_failed (step : Nat) (s : State) :
    exec (.packageReset (.failed step)) s = .next (s.resetTo { s.host.restart with bootstat := step, halted := true }) := rfl

theorem exec_packageReset_fetched (i : BootImage) (s : State) : exec (.packageReset (.fetched i)) s = .next (s.resetTo
    (if bootValid i then { s.host.restart with bootstat := 2 ^ 63, fver := i.ozine % 2 ^ 32 * 2 ^ 32, cxl := i.cxlMode, image := some i }
      else { s.host.restart with bootstat := 3, halted := true })) := rfl

/-! ### The statement -/

/-- Settles O51: each event's outcome from its own lemma; that a thermal stop ends every job rests on `State.endKilled_all`. -/
theorem packageGoverned : Obligations.PackageGoverned := by
  unfold Obligations.PackageGoverned
  refine ⟨?functionReset, exec_drvfeat, ?firmware, ?heat, fun _ _ => rfl, ?reset⟩
  case functionReset =>
    refine fun s fn => ⟨_, rfl, rfl, rfl, fun n => ?_⟩
    by_cases h : n = fn
    · subst h
      exact (Tab.getD_put_self ..).trans (if_pos rfl).symm
    · exact (Tab.getD_put_ne _ _ _ h).trans (if_neg h).symm
  case firmware => exact fun s n => ⟨fun h => exec_firmwareUpdate_running h n, fun h => exec_firmwareUpdate_stopped h n⟩
  case heat =>
    intro s die
    obtain ⟨hended, hdown⟩ := (s.modDie die fun d => { d with stopped := true }).endKilled_all 5
    refine ⟨_, _, _, rfl, rfl, fun e he => State.die_modDie_ne _ _ he, State.die_modDie_self .., rfl, rfl,
      fun e he => State.die_modDie_ne _ _ he, State.die_modDie_self .., rfl, ?_, hended⟩
    exact (congrFun hdown die).trans (congrArg Die.stopped (State.die_modDie_self ..))
  case reset =>
    intro s step img valid a b base
    have hbase : s.host.restart = base := s.host.restart_eq
    have hvalid : bootValid img = true ↔ valid := bootValid_iff img
    refine ⟨_, _, exec_packageReset_fetched img s, exec_packageReset_failed step s, rfl, rfl, State.byte_resetTo s _, fun h => ?_, fun h => ?_, ?_⟩
    · exact (if_pos (hvalid.mpr h)).trans (by rw [hbase])
    · exact (if_neg fun hb => h (hvalid.mp hb)).trans (by rw [hbase])
    · rw [← hbase]; rfl

end Sys2Proof.Machine
end

section
/-! PROOFS. A task record whose tiles no engine has granted (13 R306): it fails, but the page of its result may be absent (O35). -/

namespace Sys2Proof.Machine

/-! `execTileOffer` hands a record without a grant to `failRec`, which writes the record's result first (05 R117). That write may have to wait
for its page; then the record stays in the view, retiring, until the page is there. -/

/-- A record of ASID 1 that is offering the first of its two tiles. -/
def ungrantedRec : Rec := { addr := 2 ^ 48 + 64, asid := 1, st := .issuing, count := 2 }

/-- The record's name, which is its address. -/
def ungrantedName : Nat := 2 ^ 48 + 64

/-- A package whose ASID has empty tables, so that its pages are absent, and whose engines grant nothing to it. -/
def ungrantedState : State := { dies := [(0, { asids := [(1, { root := 0x200000 })], recs := [ungrantedRec] })] }

/-- The state of a record of die 0 after a step, if it is still there. -/
def recAfter (o : Out) (name : Nat) : Option (RecState × Nat × Option Nat) :=
  match o with | .next u => (u.record! 0 name).map fun r => (r.st, r.status, r.wait) | _ => none

theorem nextGrant_ungrantedState : ∀ n < 32, ungrantedState.nextGrant (0 * 32 + n) ungrantedRec.asid = none := by decide +kernel

/-- The record stays, with its failure noted, and waits for the page of its result. -/
theorem recAfter_tileOffer : recAfter (exec (.tileOffer 0 ungrantedName 0) ungrantedState) ungrantedName = some (.retiring, 3, some 0) := by
  decide +kernel

/-- Refutes O35: in `ungrantedState` no engine grants the record anything, and the offer of its tile leaves the record in the view, retiring,
because the page of its result is absent. -/
theorem not_tasksScheduled : ¬ Obligations.TasksScheduled := by
  unfold Obligations.TasksScheduled
  rintro ⟨-, -, -, -, hoffer⟩
  obtain ⟨-, hfails⟩ := hoffer ungrantedState 0 ungrantedName 0 0 0 ungrantedRec (by decide +kernel) rfl (by decide)
  obtain ⟨u, hu, hgone⟩ := hfails nextGrant_ungrantedState
  have hstays := recAfter_tileOffer
  rw [hu, recAfter, hgone] at hstays
  exact absurd hstays (by decide)

end Sys2Proof.Machine
end

section
/-! PROOFS. Tiles, borrowings and rows of the matrix engine (05 R125; 11 R267; 13 R310; O37): what an operation that leaves the engine leaves
behind, the tile's row read and written, and the thread that waited for it. -/

namespace Sys2Proof.Machine

/-! ### Looking again at the engine's candidates -/

theorem State.postOnce_eq (s : State) (i : Instr) : ∃ n, s.postOnce i = { s with net := n } ∧ i ∈ n ∧ ∀ j ∈ n, j ∈ s.net ∨ j = i := by
  unfold State.postOnce
  by_cases h : s.net.contains i
  · exact ⟨s.net, by rw [if_pos h], by simpa using h, fun j hj => .inl hj⟩
  · exact ⟨s.net ++ [i], by rw [if_neg h]; rfl, by simp, by simp⟩

theorem State.kick_eq (s : State) (h : Nat) : ∃ n, s.kick h = { s with net := n } ∧ .engineCandidateStart h ∈ n := by
  obtain ⟨n, hk, hn, -⟩ := s.postOnce_eq (.engineCandidateStart h)
  exact ⟨n, hk, hn⟩

@[simp] theorem State.hedge_kick (s : State) (h q : Nat) : (s.kick h).hedge q = s.hedge q := by
  obtain ⟨n, hk, -⟩ := s.kick_eq h
  rw [hk]; rfl

theorem State.watchSlots_frame (s : State) (h : Nat) : s.watchSlots h = { s with timers := (s.watchSlots h).timers } := by
  unfold State.watchSlots
  split <;> rfl

/-- A change of one hedge that ends with a look at the candidates. -/
theorem State.modHedge_kick (s : State) (h : Nat) (f : Hedge → Hedge) : ∃ n, (s.modHedge h f).kick h = { s.modHedge h f with net := n } ∧
    .engineCandidateStart h ∈ n := State.kick_eq _ h

/-! ### Tiles -/

@[simp] theorem State.hedge_setTile (s : State) (h t : Nat) (v : Tile) :
    (s.setTile h t v).hedge h = { s.hedge h with tiles := Tab.set (s.hedge h).tiles t v {} } := State.hedge_modHedge_self ..

theorem Hedge.tile_of_set {x y : Hedge} {t : Nat} {v : Tile} (h : y.tiles = Tab.set x.tiles t v {}) (q : Nat) :
    y.tile q = if q = t then v else x.tile q := by
  rw [Hedge.tile, h, Tab.getD_set, Hedge.tile]

theorem State.tile_setTile (s : State) (h t : Nat) (v : Tile) (q : Nat) :
    ((s.setTile h t v).hedge h).tile q = if q = t then v else (s.hedge h).tile q :=
  Hedge.tile_of_set (congrArg Hedge.tiles (s.hedge_setTile h t v)) q

/-! ### An operation leaves the engine (11 R255; 12 R292) -/

/-- The engine without an operation that has ended on a tile. -/
structure OpLeft (s : State) (h : Nat) (o : EngOp) (p : Nat) (u : State) : Prop where
  frame : u = { s with hedges := u.hedges, net := u.net }
  ops : (u.hedge h).ops = (s.hedge h).ops.filter fun e => e.id != o.id
  tile : ∀ q, (u.hedge h).tile q = if q = p then { (s.hedge h).tile p with tc := max ((s.hedge h).tile p).tc o.tc } else (s.hedge h).tile q

/-- The engine's lists without an operation. -/
def Hedge.without (o : EngOp) (x : Hedge) : Hedge :=
  { x with ops := x.ops.filter fun e => e.id != o.id, running := if x.running = some o.id then none else x.running,
           overtaken := x.overtaken.filter (· != o.id) }

theorem State.opGone_eq {s : State} {h p : Nat} {o : EngOp} (hp : o.phys = some p) (hcls : o.cls ≠ 0) : s.opGone h o =
    ((s.modHedge h (Hedge.without o)).setTile h p { (s.hedge h).tile p with tc := max ((s.hedge h).tile p).tc o.tc }).kick h := by
  have ht : ((s.modHedge h (Hedge.without o)).hedge h).tile p = (s.hedge h).tile p := by rw [State.hedge_modHedge_self]; rfl
  rw [← ht, State.opGone, hp, State.classZeroEnded, if_pos (by simpa using hcls)]
  rfl

theorem State.opGone_left {s : State} {h p : Nat} {o : EngOp} (hp : o.phys = some p) (hcls : o.cls ≠ 0) : OpLeft s h o p (s.opGone h o) := by
  rw [State.opGone_eq hp hcls]
  refine ⟨?_, ?_, fun q => ?_⟩
  · obtain ⟨n, hk, -⟩ := ((s.modHedge h (Hedge.without o)).setTile h p { (s.hedge h).tile p with tc := max ((s.hedge h).tile p).tc o.tc }).kick_eq h
    rw [hk]; rfl
  · rw [State.hedge_kick, State.hedge_setTile, State.hedge_modHedge_self]; rfl
  · rw [State.hedge_kick, State.tile_setTile, State.hedge_modHedge_self]; rfl

theorem State.op?_id {s : State} {h id : Nat} {o : EngOp} (ho : s.op? h id = some o) : o.id = id := by simpa using List.find?_some ho

theorem OpLeft.gone {s u : State} {h id p : Nat} {o : EngOp} (hu : OpLeft s h o p u) (ho : s.op? h id = some o) : u.op? h id = none := by
  rw [State.op?, hu.ops, List.find?_eq_none]
  intro e he
  simpa [State.op?_id ho] using (List.mem_filter.mp he).2

theorem OpLeft.tile_self {s u : State} {h p : Nat} {o : EngOp} (hu : OpLeft s h o p u) :
    (u.hedge h).tile p = { (s.hedge h).tile p with tc := max ((s.hedge h).tile p).tc o.tc } := (hu.tile p).trans (if_pos rfl)
theorem OpLeft.tile_ne {s u : State} {h p q : Nat} {o : EngOp} (hu : OpLeft s h o p u) (hq : q ≠ p) : (u.hedge h).tile q = (s.hedge h).tile q :=
  (hu.tile q).trans (if_neg hq)
theorem OpLeft.ctx {s u : State} {h p : Nat} {o : EngOp} (hu : OpLeft s h o p u) (c slot : Nat) : u.ctx c slot = s.ctx c slot := by rw [hu.frame]; rfl
theorem OpLeft.core {s u : State} {h p : Nat} {o : EngOp} (hu : OpLeft s h o p u) (c : Nat) : u.core c = s.core c := by rw [hu.frame]; rfl

theorem OpLeft.ends {s u : State} {h p : Nat} {o : EngOp} (hu : OpLeft s h o p u) (c slot : Nat) (f : Ctx → Ctx) :
    let v := u.modCtx c slot f
    v = { s with cores := v.cores, hedges := v.hedges, net := v.net } ∧ OnlyCtx c slot { s with hedges := v.hedges, net := v.net } v := by
  obtain ⟨hframe, -, -⟩ := hu
  constructor
  · rw [hframe]; rfl
  · have heq : { s with hedges := (u.modCtx c slot f).hedges, net := (u.modCtx c slot f).net } = u := hframe.symm
    exact heq ▸ OnlyCtx.modCtx c slot u f

/-! ### The thread that waited (02 R51) -/

theorem State.modThread_unsaved {s : State} {c slot : Nat} (h : Tab.get? (s.core c).work.saved slot = none) (f : Ctx → Ctx) :
    s.modThread c slot f = s.modCtx c slot f := by
  rw [State.modThread, State.modCtx, State.modCore_modCore]
  simp [State.modCore, h]

theorem Ctx.engineDone_parked {x : Ctx} (h : x.status = .parked .engine) (l : List (Nat × Word)) :
    x.engineDone l = { x with latch := l.foldl (fun t (e : Nat × Word) => Tab.put t e.1 e.2) x.latch, phase := 2, status := .ready } := by
  simp [Ctx.engineDone, h]

/-- What stands in a table after values have been put at consecutive keys. -/
theorem Tab.getD_foldl_put {α : Type} (base : Nat) (w : Nat → α) (d : α) (t : Tab α) (n : Nat) {i : Nat} (hi : i < n) :
    Tab.getD (((List.range n).map fun i => (base + i, w i)).foldl (fun t e => Tab.put t e.1 e.2) t) (base + i) d = w i := by
  induction n with
  | zero => omega
  | succ n ih =>
    rw [List.range_succ, List.map_append, List.foldl_append]
    by_cases h : i = n
    · subst h; exact Tab.getD_put_self ..
    · exact (Tab.getD_put_ne _ _ _ (by dsimp only; omega)).trans (ih (by omega))

/-! ### Rows of a tile (11 R267) -/

theorem Tile.row_getD (t : Tile) (i : Nat) {j : Nat} (hj : j < 128) : (t.row i).getD j 0 = (Tab.getD t.elems (128 * i + j) 0).toNat := by
  have hr := Tab.getD_filter t.elems (fun k => 128 * i ≤ k && k < 128 * i + 128) (128 * i + j) 0
  rw [if_pos (by simp [hj])] at hr
  rw [List.getD_eq_getElem?_getD, Tile.row, List.getElem?_map, List.getElem?_range hj]
  exact congrArg BitVec.toNat hr

/-- The list's values that are not +0, at consecutive keys. -/
def rowEntries (base : Nat) (l : List Nat) (k : Nat) : Tab (BitVec 32) :=
  ((l.zipIdx k).filter fun e => BitVec.ofNat 32 e.1 != 0).map fun e => (base + e.2, BitVec.ofNat 32 e.1)

theorem Tile.setRow_elems (t : Tile) (i : Nat) (l : List Nat) : (t.setRow i l).elems =
    t.elems.filter (fun e => e.1 < 128 * i) ++ (rowEntries (128 * i) l 0 ++ t.elems.filter fun e => 128 * i + 128 ≤ e.1) := rfl

theorem Tab.getD_append {α : Type} (a b : Tab α) (k : Nat) (d : α) : Tab.getD (a ++ b) k d = Tab.getD a k (Tab.getD b k d) := by
  simp only [Tab.getD, Tab.get?, List.find?_append]
  cases a.find? (fun e => e.1 == k) <;> rfl

theorem rowEntries_cons (base v : Nat) (l : List Nat) (k : Nat) : rowEntries base (v :: l) k =
    (if BitVec.ofNat 32 v != 0 then [(base + k, BitVec.ofNat 32 v)] else []) ++ rowEntries base l (k + 1) := by
  rw [rowEntries, List.zipIdx_cons, List.filter_cons]
  split <;> rfl

theorem rowEntries_getD_out (base : Nat) (l : List Nat) (k e : Nat) (d : BitVec 32) (he : e < base + k ∨ base + k + l.length ≤ e) :
    Tab.getD (rowEntries base l k) e d = d := by
  refine Tab.getD_of_not_mem (fun hm => ?_) d
  obtain ⟨x, hx, rfl⟩ := List.mem_map.mp hm
  obtain ⟨y, hy, rfl⟩ := List.mem_map.mp hx
  have := List.mem_zipIdx (List.mem_filter.mp hy).1
  dsimp only at he
  omega

theorem rowEntries_getD (base : Nat) (l : List Nat) (k j : Nat) (hj : j < l.length) :
    Tab.getD (rowEntries base l k) (base + k + j) 0 = BitVec.ofNat 32 (l.getD j 0) := by
  induction l generalizing k j with
  | nil => cases hj
  | cons v l ih =>
    rw [rowEntries_cons, Tab.getD_append]
    cases j with
    | zero =>
      rw [rowEntries_getD_out _ _ _ _ _ (by omega)]
      by_cases hv : BitVec.ofNat 32 v = 0#32 <;> simp [hv, Tab.getD, Tab.get?]
    | succ j =>
      have hne : ¬ base + k = base + (k + 1) + j := by omega
      rw [show base + k + (j + 1) = base + (k + 1) + j by omega, ih (k + 1) j (by simpa using hj)]
      split
      · simp [Tab.getD, Tab.get?, hne]
      · rfl

theorem Tile.getD_setRow (t : Tile) (i : Nat) (l : List Nat) (hl : l.length = 128) (e : Nat) :
    Tab.getD (t.setRow i l).elems e 0 = if e / 128 = i then BitVec.ofNat 32 (l.getD (e % 128) 0) else Tab.getD t.elems e 0 := by
  have below (d : BitVec 32) := Tab.getD_filter t.elems (fun k => k < 128 * i) e d
  have above := Tab.getD_filter t.elems (fun k => 128 * i + 128 ≤ k) e (0 : BitVec 32)
  rw [Tile.setRow_elems, Tab.getD_append, Tab.getD_append, below, above]
  by_cases he : e / 128 = i
  · have hrow := rowEntries_getD (128 * i) l 0 (e % 128) (by omega)
    rw [show 128 * i + 0 + e % 128 = e by omega] at hrow
    rw [if_pos he, if_neg (by simp; omega), if_neg (by simp; omega), hrow]
  · rw [if_neg he, rowEntries_getD_out _ _ _ _ _ (by omega)]
    by_cases hb : e < 128 * i
    · simp [hb, show ¬ 128 * i + 128 ≤ e by omega]
    · simp [hb, show 128 * i + 128 ≤ e by omega]

/-! ### A thread's fault (14 R317) -/

/-- A context frozen with a fault's code. -/
def FaultTaken (code : Nat) (x : Ctx) : Prop := x.status = .frozen ∧ x.fcode % 256 = code % 256

theorem Ctx.takeFault_taken (x : Ctx) (code : Nat) (second : Bool) : FaultTaken code (x.takeFault code second) := by
  refine ⟨rfl, ?_⟩
  cases second
  · rfl
  · exact Nat.add_mod_right code 256

theorem State.modCtx_taken {s : State} {c slot code : Nat} (h : FaultTaken code (s.ctx c slot)) (p : Nat) {f : Ctx → Ctx}
    (hf : ∀ x, FaultTaken code (f x)) : FaultTaken code ((s.modCtx c p f).ctx c slot) := by
  by_cases hp : slot = p
  · rw [hp, State.ctx_modCtx_self]
    exact hf _
  · rw [State.ctx_modCtx_ne _ _ _ hp]
    exact h

@[simp] theorem State.cores_recordFor (s : State) (asid : Nat) (r : FaultRec) : (s.recordFor asid r).cores = s.cores := by
  simp only [State.recordFor, State.record]
  (repeat' split) <;> rfl
@[simp] theorem State.hedges_recordFor (s : State) (asid : Nat) (r : FaultRec) : (s.recordFor asid r).hedges = s.hedges := by
  simp only [State.recordFor, State.record]
  (repeat' split) <;> rfl

theorem State.hedges_threadFault (s : State) (c slot code detail : Nat) (second origin : Bool) :
    (s.threadFault c slot code detail second origin).hedges = s.hedges := by
  simp only [State.threadFault]
  (repeat' split) <;> simp

/-- A thread that takes a fault is frozen with its code. -/
theorem State.threadFault_taken (s : State) (c slot code detail : Nat) (second origin : Bool) :
    FaultTaken code ((s.threadFault c slot code detail second origin).ctx c slot) := by
  unfold State.threadFault
  extract_lets x rec0 s1 s2 s3 s4 s5
  have h1 : FaultTaken code (s1.ctx c slot) := by
    rw [State.ctx_modCtx_self]
    exact Ctx.takeFault_taken _ code second
  have h2 : FaultTaken code (s2.ctx c slot) := by
    unfold s2
    split
    · refine State.modCtx_taken h1 _ fun y => ?_
      obtain ⟨hst, hcode⟩ := Ctx.takeFault_taken y code second
      exact ⟨hst, hcode⟩
    · exact h1
  have h3 : FaultTaken code (s3.ctx c slot) := by
    rw [State.ctx, State.core_modCore_self, Core.leaveGang_ctx]
    exact h2
  have h5 : s5.cores = s3.cores := by
    unfold s5
    (repeat' split) <;> simp [s4]
  have hctx (t : State) (ht : t.cores = s5.cores) : FaultTaken code (t.ctx c slot) := by
    rw [State.ctx, State.core, ht, h5]
    exact h3
  (repeat' split) <;> exact hctx _ rfl

/-! ### The statement's clauses -/

theorem exec_slotBoundary (s : State) (h : Nat) : ∃ u : State, exec (.slotBoundary h) s = .next u ∧
    u = { s with net := u.net, timers := u.timers } ∧ .engineCandidateStart h ∈ u.net := by
  obtain ⟨n, hk, hn⟩ := s.kick_eq h
  refine ⟨_, rfl, ?_, ?_⟩
  · rw [hk, State.watchSlots_frame]
  · rw [hk, State.watchSlots_frame]
    exact hn

theorem exec_frameStart_some {s : State} {h : Nat} {t : Tab Nat} (ht : (s.hedge h).nextSlots = some t) :
    exec (.frameStart h) s = .next ((s.modHedge h fun x => { x with slots := t, nextSlots := none }).kick h) := by
  change execFrameStart h s = _
  rw [execFrameStart, ht]

theorem exec_frameStart_none {s : State} {h : Nat} (ht : (s.hedge h).nextSlots = none) : exec (.frameStart h) s = .next s := by
  change execFrameStart h s = _
  rw [execFrameStart, ht]

/-- The borrowings of an engine whose only spill has ended. -/
theorem exec_tileSpillComplete {s : State} {h : Nat} {b : Borrow} (hb : (s.hedge h).borrows = [b]) (hbusy : b.busy) (hsp : b.spilled = none) :
    exec (.tileSpillComplete h b.phys) s = .next (((s.modHedge h fun x => { x with borrows :=
      [{ b with busy := false, spilled := some ((s.hedge h).tile b.phys) }] }).setTile h b.phys {}).kick h) := by
  change execTileSpillComplete h b.phys s = _
  rw [execTileSpillComplete, if_neg (by simp [hb, hbusy, hsp])]
  simp [State.modHedge, hb, hbusy]

theorem exec_borrowReturn {s : State} {h : Nat} {b : Borrow} (hb : (s.hedge h).borrows = [b]) (hop : b.op = none) (hbusy : b.busy = false)
    (hquiet : ∀ o ∈ (s.hedge h).ops, o.staged → o.cls ≠ 0) (htime : (s.hedge h).lastClass0 + 65536 ≤ s.now) :
    exec (.borrowReturn h) s = .next ((s.after (if b.spilled.isSome then 512 else 64) (.tileRefillComplete h b.phys)).modHedge h fun x =>
      { x with borrows := [{ b with busy := true }] }) := by
  have hquiet : ((s.hedge h).ops.any (fun o => o.staged && o.cls == 0) || s.now < (s.hedge h).lastClass0 + Config.borrowTimeout) = false := by
    simpa [Config.borrowTimeout, htime] using hquiet
  change execBorrowReturn h s = _
  rw [execBorrowReturn, if_neg (by simp [hquiet])]
  simp [State.modHedge, hb, hop, hbusy]

theorem exec_tileRefillComplete {s : State} {h : Nat} {b : Borrow} (hb : (s.hedge h).borrows = [b]) (hop : b.op = none) (hbusy : b.busy) :
    exec (.tileRefillComplete h b.phys) s = .next (((s.setTile h b.phys (b.spilled.getD {})).modHedge h fun x => { x with borrows := [] }).kick h) := by
  change execTileRefillComplete h b.phys s = _
  simp [execTileRefillComplete, hb, hop, hbusy, State.modHedge]

/-- The 64 doubles of a row, at the latch positions where an ACCLD finds them. -/
def rowWords (t : Tile) (row : Nat) : List (Nat × Word) :=
  (List.range 64).map fun i => (100 + i, BitVec.ofNat 64 ((t.row row).getD (2 * i) 0 + (t.row row).getD (2 * i + 1) 0 * 2 ^ 32))

theorem rowWords_latch (t : Tile) (row : Nat) (l : Tab Word) {i : Nat} (hi : i < 64) :
    Tab.getD ((rowWords t row).foldl (fun t e => Tab.put t e.1 e.2) l) (100 + i) 0 =
      BitVec.ofNat 64 ((Tab.getD t.elems (128 * row + 2 * i) 0).toNat + (Tab.getD t.elems (128 * row + 2 * i + 1) 0).toNat * 2 ^ 32) := by
  refine (Tab.getD_foldl_put 100 _ 0 l 64 hi).trans ?_
  rw [Tile.row_getD t row (show 2 * i < 128 by omega), Tile.row_getD t row (show 2 * i + 1 < 128 by omega), Nat.add_assoc]

/-- The context of a thread that its row has reached. -/
def Ctx.rowDone (x : Ctx) (t : Tile) (row : Nat) : Ctx := (if t.tc = 0 then x else x.observe t.tc).engineDone (rowWords t row)

theorem Ctx.rowDone_eq {x : Ctx} (hx : x.status = .parked .engine) (t : Tile) (row : Nat) : x.rowDone t row =
    { (if t.tc = 0 then x else x.observe t.tc) with
      latch := (rowWords t row).foldl (fun t (e : Nat × Word) => Tab.put t e.1 e.2) x.latch, phase := 2, status := .ready } := by
  unfold Ctx.rowDone
  split
  · exact Ctx.engineDone_parked hx _
  · have hlatch : (x.observe t.tc).latch = x.latch := by unfold Ctx.observe; split <;> rfl
    have hstatus : (x.observe t.tc).status = .parked .engine := by unfold Ctx.observe; split <;> exact hx
    rw [Ctx.engineDone_parked hstatus, hlatch]

theorem Ctx.latch_rowDone {x : Ctx} (hx : x.status = .parked .engine) (t : Tile) (row : Nat) :
    (x.rowDone t row).latch = (rowWords t row).foldl (fun t (e : Nat × Word) => Tab.put t e.1 e.2) x.latch := by rw [Ctx.rowDone_eq hx]

theorem Ctx.rowDone_observes {x : Ctx} (hx : x.status = .parked .engine) (t : Tile) (row : Nat) :
    let y := { x with latch := (x.rowDone t row).latch, phase := 2, status := .ready }
    if t.tc = 0 then x.rowDone t row = y else Observes y (x.rowDone t row) t.tc := by
  have heq := Ctx.rowDone_eq hx t row
  dsimp only
  rw [Ctx.latch_rowDone hx]
  by_cases ht : t.tc = 0
  · rw [if_pos ht] at heq ⊢
    exact heq
  · rw [if_neg ht] at heq ⊢
    rw [heq]
    unfold Observes Ctx.observe
    by_cases hpipe : x.pipe = [] <;> simp only [hpipe, List.isEmpty_nil, List.isEmpty_iff, if_true, if_false]

/-- The lanes of ACCST's rows, in order. -/
def storedRow (regs : List Vec) : List Nat := regs.flatMap fun v => (List.range 32).map fun j => fld v.toNat (32 * j) 32

theorem storedRow_cons (v : Vec) (l : List Vec) : storedRow (v :: l) = ((List.range 32).map fun j => fld v.toNat (32 * j) 32) ++ storedRow l :=
  List.flatMap_cons ..

theorem length_storedRow (regs : List Vec) : (storedRow regs).length = 32 * regs.length := by
  induction regs with
  | nil => rfl
  | cons v l ih => rw [storedRow_cons, List.length_append, ih, List.length_map, List.length_range, List.length_cons]; omega

theorem storedRow_getD (regs : List Vec) {j : Nat} (hj : j < 32 * regs.length) :
    (storedRow regs).getD j 0 = fld (regs.getD (j / 32) 0).toNat (32 * (j % 32)) 32 := by
  induction regs generalizing j with
  | nil => cases hj
  | cons v l ih =>
    rw [storedRow_cons]
    by_cases h : j < 32
    · rw [List.getD_append _ _ _ _ (by simpa using h), Nat.div_eq_of_lt h, Nat.mod_eq_of_lt h]
      simp [List.getD_eq_getElem?_getD, h]
    · rw [List.getD_append_right _ _ _ _ (by simpa using h), List.length_map, List.length_range, ih (by simp at hj; omega)]
      rw [show j / 32 = (j - 32) / 32 + 1 by omega, show j % 32 = (j - 32) % 32 by omega]
      rfl

theorem ofNat_fld (v lo : Nat) : BitVec.ofNat 32 (fld v lo 32) = BitVec.ofNat 32 (v / 2 ^ lo) := by
  apply BitVec.eq_of_toNat_eq
  simp [fld]

/-- A tile with a row stored in it. -/
def Tile.stored (t : Tile) (row : Nat) (regs : List Vec) : Tile :=
  { t.setRow row (storedRow regs) with poison := t.poison.filter fun e => e / 128 != row }

theorem Tile.getD_stored (t : Tile) (row : Nat) {regs : List Vec} (hl : regs.length = 4) (e : Nat) : Tab.getD (t.stored row regs).elems e 0 =
    if e / 128 = row then BitVec.ofNat 32 ((regs.getD (e % 128 / 32) 0).toNat / 2 ^ (32 * (e % 32))) else Tab.getD t.elems e 0 := by
  have hlane := storedRow_getD regs (j := e % 128) (by omega)
  rw [show e % 128 % 32 = e % 32 by omega] at hlane
  refine (t.getD_setRow row _ (by rw [length_storedRow, hl]) e).trans ?_
  rw [hlane, ofNat_fld]

theorem Tile.mem_poison_stored (t : Tile) (row : Nat) (regs : List Vec) (e : Nat) : e ∈ (t.stored row regs).poison ↔ e ∈ t.poison ∧ e / 128 ≠ row := by
  simp [Tile.stored]

section
variable {s : State} {h id p : Nat} {o : EngOp} (ho : s.op? h id = some o) (hp : o.phys = some p) (hcls : o.cls ≠ 0) (horphan : o.orphan = false)
include ho hp hcls horphan

theorem exec_accldComplete_row (hsaved : Tab.get? (s.core o.core).work.saved o.slot = none) (hclean : ∀ e ∈ ((s.hedge h).tile p).poison, e / 128 ≠ o.row) :
    exec (.accldComplete h id) s = .next ((s.opGone h o).modCtx o.core o.slot fun x => x.rowDone ((s.hedge h).tile p) o.row) := by
  have hleft := State.opGone_left (s := s) (h := h) hp hcls
  have hsaved : Tab.get? ((s.opGone h o).core o.core).work.saved o.slot = none := by rw [hleft.core]; exact hsaved
  change execAccldComplete h id s = _
  rw [execAccldComplete, ho]
  simp only [hp, Option.getD_some, horphan, Bool.false_eq_true, if_false]
  rw [if_neg (by simpa using hclean), State.modThread_unsaved hsaved]
  rfl

theorem exec_accldComplete_poison (hstatus : (s.ctx o.core o.slot).status = .parked .engine) (hslot : o.slot ≠ 63) (hpoison : ∃ e ∈ ((s.hedge h).tile p).poison, e / 128 = o.row) :
    ∃ second, exec (.accldComplete h id) s = .next ((s.opGone h o).threadFault o.core o.slot fcPoison o.row second false) := by
  have hleft := State.opGone_left (s := s) (h := h) hp hcls
  have hstatus : ((s.opGone h o).ctx o.core o.slot).status = .parked .engine := by rw [hleft.ctx]; exact hstatus
  refine ⟨((s.opGone h o).ctx o.core o.slot).pc.word == 1, ?_⟩
  change execAccldComplete h id s = _
  rw [execAccldComplete, ho]
  simp only [hp, Option.getD_some, horphan, Bool.false_eq_true, if_false]
  rw [if_pos (by simpa using hpoison), if_neg (by simp [hstatus]), State.takeFault, if_neg (by simpa using hslot)]

theorem exec_accstComplete_row (hsaved : Tab.get? (s.core o.core).work.saved o.slot = none) :
    exec (.accstComplete h id) s = .next (((s.setTile h p (((s.hedge h).tile p).stored o.row o.aRegs)).opGone h o).modCtx
      o.core o.slot fun x => x.engineDone []) := by
  have hcore : ((s.setTile h p (((s.hedge h).tile p).stored o.row o.aRegs)).opGone h o).core o.core = s.core o.core :=
    (State.opGone_left hp hcls).core o.core
  rw [← State.modThread_unsaved (by rw [hcore]; exact hsaved)]
  change execAccstComplete h id s = _
  rw [execAccstComplete, ho]
  simp only [hp, Option.getD_some, horphan, Bool.false_eq_true, if_false]
  rfl
end

/-- Settles O37: each instruction's outcome from its own lemma; what is left of the operation and its tile from `State.opGone_left`. -/
theorem tilesAndRows : Obligations.TilesAndRows := by
  unfold Obligations.TilesAndRows
  refine ⟨exec_slotBoundary, fun s h => ⟨exec_frameStart_none, fun t ht => ?frame⟩, ?spill, ?giveBack, ?refill, ?rows⟩
  case frame =>
    obtain ⟨n, hk, hn⟩ := s.modHedge_kick h fun x => { x with slots := t, nextSlots := none }
    refine ⟨_, exec_frameStart_some ht, by rw [hk]; rfl, ?_, by rw [hk]; exact hn⟩
    rw [State.hedge_kick, State.hedge_modHedge_self]
  case spill =>
    rintro s h t b hb rfl hbusy hsp
    refine ⟨_, exec_tileSpillComplete hb hbusy hsp, ?_, ?_, ?_, fun q hq => ?_⟩
    · obtain ⟨n, hk, -⟩ := State.kick_eq (State.setTile _ h b.phys {}) h
      rw [hk]; rfl
    · rw [State.hedge_kick, State.hedge_setTile, State.hedge_modHedge_self]
    · rw [State.hedge_kick, State.tile_setTile, if_pos rfl]
    · rw [State.hedge_kick, State.tile_setTile, if_neg hq, State.hedge_modHedge_self]; rfl
  case giveBack =>
    intro s h b hb hop hbusy hquiet htime
    refine ⟨_, exec_borrowReturn hb hop hbusy hquiet htime, rfl, ?_, (mem_insertBy ..).2 (.inl rfl), ?_⟩ <;> rw [State.hedge_modHedge_self]
    rfl
  case refill =>
    rintro s h t b hb rfl hop hbusy
    refine ⟨_, exec_tileRefillComplete hb hop hbusy, ?_, ?_, ?_, fun q hq => ?_⟩
    · obtain ⟨n, hk, -⟩ := State.modHedge_kick (s.setTile h b.phys (b.spilled.getD {})) h fun x => { x with borrows := [] }
      rw [hk]; rfl
    · rw [State.hedge_kick, State.hedge_modHedge_self]
    · rw [State.hedge_kick, State.hedge_modHedge_self]
      exact (State.tile_setTile ..).trans (if_pos rfl)
    · rw [State.hedge_kick, State.hedge_modHedge_self]
      exact (State.tile_setTile ..).trans (if_neg hq)
  case rows =>
    intro s h id p o ho hp hcls horphan x t hstatus hsaved
    have hx : s.ctx o.core o.slot = x := rfl
    have ht : (s.hedge h).tile p = t := rfl
    clear_value x t
    refine ⟨fun hclean => ?load, fun hslot hpoison => ?poison, fun hregs => ?store⟩
    case load =>
      have hleft := State.opGone_left (s := s) (h := h) hp hcls
      have hctx : (s.opGone h o).ctx o.core o.slot = x := (hleft.ctx _ _).trans hx
      obtain ⟨hframe, hctxs⟩ := hleft.ends o.core o.slot fun x => x.rowDone ((s.hedge h).tile p) o.row
      refine ⟨_, exec_accldComplete_row ho hp hcls horphan hsaved (ht ▸ hclean), hframe, hctxs, hleft.gone ho, ?_, ?_, fun i hi => ?_⟩
      · exact hleft.tile_self.trans (by rw [ht])
      · rw [State.ctx_modCtx_self, hctx, ht]
        exact Ctx.rowDone_observes hstatus t o.row
      · rw [State.ctx_modCtx_self, hctx, ht, Ctx.latch_rowDone hstatus]
        exact rowWords_latch t o.row x.latch hi
    case poison =>
      obtain ⟨second, hexec⟩ := exec_accldComplete_poison ho hp hcls horphan (hx ▸ hstatus) hslot (ht ▸ hpoison)
      obtain ⟨hfrozen, hcode⟩ := (s.opGone h o).threadFault_taken o.core o.slot fcPoison o.row second false
      refine ⟨_, hexec, hfrozen, hcode, ?_⟩
      rw [State.op?, State.hedge, State.hedges_threadFault]
      exact (State.opGone_left hp hcls).gone ho
    case store =>
      have hleft := State.opGone_left (s := s.setTile h p (t.stored o.row o.aRegs)) (h := h) hp hcls
      have hctx : ((s.setTile h p (t.stored o.row o.aRegs)).opGone h o).ctx o.core o.slot = x := (hleft.ctx _ _).trans hx
      obtain ⟨hframe, hctxs⟩ := hleft.ends o.core o.slot fun x => x.engineDone []
      have hexec := exec_accstComplete_row ho hp hcls horphan hsaved
      rw [ht] at hexec
      have htile := hleft.tile_self
      rw [State.tile_setTile, if_pos rfl] at htile
      refine ⟨_, hexec, hframe, hctxs, ?_, ?_, fun e => ?_, fun e => ?_, fun q hq => ?_⟩
      · exact hleft.gone (by rw [State.op?, State.hedge_setTile]; exact ho)
      · rw [State.ctx_modCtx_self, hctx]
        exact Ctx.engineDone_parked hstatus []
      · exact (congrArg (fun t => Tab.getD (Tile.elems t) e 0) htile).trans (t.getD_stored o.row hregs e)
      · exact (congrArg (fun t => e ∈ Tile.poison t) htile).to_iff.trans (t.mem_poison_stored o.row o.aRegs e)
      · exact (hleft.tile_ne hq).trans ((State.tile_setTile ..).trans (if_neg hq))

end Sys2Proof.Machine
end

section
/-! PROOFS. Commits of versioned blocks (05 R109, R113 to R117, R122, R124, R125; 13 R302; 15 R336; O46). -/

namespace Sys2Proof.Machine

theorem commits_iff {word : Word} {copy version : Nat} : commits word copy version = true ↔ word.toNat % 2 ≠ copy ∧ word.toNat / 2 = version := by
  simp [commits]

/-! ### Messages that a step adds -/

/-- A step only adds messages of one kind. -/
structure OnlyPosts (P : Instr → Prop) (s t : State) : Prop where
  frame : t = { s with net := t.net }
  new : ∀ i ∈ t.net, i ∈ s.net ∨ P i

theorem OnlyPosts.refl (P : Instr → Prop) (s : State) : OnlyPosts P s s := ⟨rfl, fun _ hi => .inl hi⟩

theorem OnlyPosts.trans {P : Instr → Prop} {s t u : State} (h : OnlyPosts P s t) (g : OnlyPosts P t u) : OnlyPosts P s u where
  frame := by rw [g.frame, h.frame]
  new i hi := (g.new i hi).elim (h.new i) .inr

theorem OnlyPosts.foldl {α : Type} {P : Instr → Prop} {f : State → α → State} (hf : ∀ s a, OnlyPosts P s (f s a)) (l : List α) (s : State) :
    OnlyPosts P s (l.foldl f s) :=
  List.foldlRecOn (motive := OnlyPosts P s) l f (.refl P s) fun t h a _ => h.trans (hf t a)

theorem OnlyPosts.postOnce {P : Instr → Prop} (s : State) {i : Instr} (hi : P i) : OnlyPosts P s (s.postOnce i) := by
  obtain ⟨n, hn, -, hnew⟩ := s.postOnce_eq i
  rw [hn]
  exact ⟨rfl, fun j hj => (hnew j hj).imp_right fun (h : j = i) => h.symm ▸ hi⟩

/-! ### Tables -/

theorem Tab.mem_put {α : Type} {t : Tab α} {k : Nat} {v : α} {e : Nat × α} (h : e ∈ Tab.put t k v) : e = (k, v) ∨ e ∈ t := by
  induction t with
  | nil => exact .inl (by simpa [Tab.put] using h)
  | cons x t ih =>
    rw [Tab.put] at h
    split at h
    · exact (List.mem_cons.mp h).imp_right id
    · split at h
      · exact (List.mem_cons.mp h).imp_right (List.mem_cons_of_mem _)
      · rcases List.mem_cons.mp h with rfl | h
        · exact .inr (List.mem_cons_self ..)
        · exact (ih h).imp_right (List.mem_cons_of_mem _)

/-- What a core's table holds, or a core's state by default. -/
theorem State.core_mem_or (s : State) (c : Nat) : (c, s.core c) ∈ s.cores ∨ s.core c = {} := by
  unfold State.core Tab.getD
  cases h : Tab.get? s.cores c with
  | none => exact .inr rfl
  | some k => exact .inl (Tab.mem_of_get? h)

/-- The values of a list put at its places. -/
theorem Tab.getD_foldl_zipIdx {α β : Type} (f : α → Nat → β) (d : β) (l : List α) (k : Nat) (t : Tab β) (j : Nat) :
    Tab.getD ((l.zipIdx k).foldl (fun t e => Tab.put t e.2 (f e.1 e.2)) t) j d =
      if k ≤ j then ((l[j - k]?).map (f · j)).getD (Tab.getD t j d) else Tab.getD t j d := by
  induction l generalizing k t with
  | nil => simp
  | cons a l ih =>
    rw [List.zipIdx_cons, List.foldl_cons, ih]
    by_cases hj : j = k
    · subst hj
      simp
    · rw [Tab.getD_put_ne _ _ _ hj]
      by_cases hk : k ≤ j
      · rw [if_pos hk, if_pos (by omega), show j - k = (j - (k + 1)) + 1 by omega, List.getElem?_cons_succ]
      · rw [if_neg hk, if_neg (by omega)]

/-! ### Names of cores (05 R124; 01 R15) -/

/-- With no returned message waiting nothing is sent again. -/
theorem State.resendReturned_none {s : State} (h : ∀ e ∈ s.cores, ∀ q ∈ e.2.work.spill.all, q.returned = false) : s.resendReturned = s := by
  have hback (e : Nat × Core) (he : e ∈ s.cores) : (e.2.work.spill.all.filter QSlot.returned).isEmpty = true := by
    simpa [List.filter_eq_nil_iff] using h e he
  unfold State.resendReturned
  refine List.foldlRecOn (motive := fun t => t = s) _ _ rfl fun t ht e he => ?_
  simp [hback e he, ht]

theorem State.byte_blankSram (s : State) (c a : Nat) :
    (s.blankSram c).mem.byte a = if sramAt c 0 ≤ a ∧ a < sramAt c 0 + 2 ^ 20 then 0 else s.mem.byte a := by
  change Memory.byte (s.mem.filter fun e => !(decide (sramAt c 0 ≤ e.1) && decide (e.1 < sramAt c 0 + 2 ^ 20))) a = _
  split
  · next h =>
    refine Memory.byte_none _ _ fun e he hea => ?_
    have hout := (List.mem_filter.mp he).2
    simp only [hea, Bool.not_eq_true', Bool.and_eq_false_iff, decide_eq_false_iff_not] at hout
    omega
  · next h =>
    exact Memory.byte_filter s.mem (fun a => !(decide (sramAt c 0 ≤ a) && decide (a < sramAt c 0 + 2 ^ 20))) a
      (by simp only [Bool.not_eq_true', Bool.and_eq_false_iff, decide_eq_false_iff_not]; omega)

/-- The registers and the waiting work of a spare that takes a name. -/
def Core.freshened (k : Core) (now : Nat) : Core :=
  { csr := { lsplit := k.csr.lsplit, vgroup := k.csr.vgroup, shasid := k.csr.shasid, cycle0 := now, lastHb := now, stopped := k.csr.stopped },
    work := { spill := k.work.spill, overflow := k.work.overflow, placed := k.work.placed } }

/-- A spare that takes a name brings no returned message. -/
theorem State.unreturned_freshSpare {s : State} (h : ∀ e ∈ s.cores, ∀ q ∈ e.2.work.spill.all, q.returned = false) (c : Nat) :
    ∀ e ∈ (s.freshSpare c).cores, ∀ q ∈ e.2.work.spill.all, q.returned = false := by
  intro e he q hq
  rcases Tab.mem_put he with rfl | he
  · rcases s.core_mem_or c with hc | hc
    · exact h _ hc q hq
    · replace hq : q ∈ (s.core c).work.spill.all := hq
      rw [hc] at hq
      cases hq
  · exact h e he q hq

section
variable (s : State) (die : Nat) (word : Word)

/-- The name that a rename's commit word names, and its two entries. -/
def renameName : Nat := word.toNat % 512
def State.renameNew : Rename := Tab.getD (s.die die).pendRename (renameName word) { st := 0, phys := renameName word % 16 }
def State.renameOld : Rename := Tab.getD (s.die die).rename (renameName word) { st := 0, phys := renameName word % 16 }

/-- A rename's commit word names the next version of an entry within the rule's limits. -/
def State.RenameGood : Prop :=
  word.toNat / 512 = (s.die die).renameVersion + 1 ∧ (s.renameNew die word).st ≤ 2 ∧ (s.renameNew die word).phys ≤ 16 ∧
    ∀ i < 16, i ≠ renameName word % 16 →
      (Tab.getD (s.die die).rename (renameName word / 16 * 16 + i) { st := 0, phys := i }).phys ≠ (s.renameNew die word).phys

/-- A die with the pending entry of a name in force. -/
def Die.renamed (n : Nat) (new old : Rename) (d : Die) : Die :=
  { d with rename := Tab.put d.rename n new, renameVersion := d.renameVersion + 1,
           sparefree := d.sparefree + (if old.phys = 16 then 1 else 0) - (if new.phys = 16 then 1 else 0) }

/-- The package with the spare prepared where the name goes to it. -/
def State.spareReady : State :=
  if (s.renameNew die word).phys = 16 ∧ (s.renameOld die word).phys ≠ 16 then s.freshSpare (coreKey die (renameName word / 16) 16) else s

variable {s die word}

theorem exec_renameCommit_bad (h : ¬ s.RenameGood die word) : exec (.renameCommit die word) s = .next s := by
  refine congrArg _ (if_pos ?_)
  by_contra hc
  refine h ?_
  simpa [State.RenameGood, State.renameNew, renameName, and_assoc] using hc

theorem exec_renameCommit_good (h : s.RenameGood die word) (hback : ∀ e ∈ s.cores, ∀ q ∈ e.2.work.spill.all, q.returned = false) :
    exec (.renameCommit die word) s = .next ((s.spareReady die word).modDie die
      (Die.renamed (renameName word) (s.renameNew die word) (s.renameOld die word))) := by
  have hgood := h
  change execRenameCommit die word s = _
  have hexec : execRenameCommit die word s = .next ((s.spareReady die word).modDie die
      (Die.renamed (renameName word) (s.renameNew die word) (s.renameOld die word))).resendReturned := by
    refine congrArg _ ((if_neg ?_).trans ?_)
    · simpa [State.RenameGood, State.renameNew, renameName, and_assoc] using h
    · simp only [State.spareReady, Bool.and_eq_true, decide_eq_true_eq, decide_not, Bool.not_eq_true', ne_eq, decide_eq_false_iff_not]
      rfl
  rw [hexec, State.resendReturned_none]
  rw [State.spareReady]
  split
  · exact State.unreturned_freshSpare hback _
  · exact hback
end

/-! ### Slot tables (05 R125) -/

theorem exec_slotTableCommit_bad {s : State} {h : Nat} {word : Word}
    (hbad : ¬ (word.toNat % 2 ≠ (s.hedge h).slotCopy ∧ word.toNat / 2 = (s.hedge h).pendSlots.2)) : exec (.slotTableCommit h word) s = .next s := by
  refine congrArg _ (if_pos ?_)
  simpa only [Bool.not_eq_true', Bool.eq_false_iff, ne_eq, commits_iff] using hbad

theorem exec_slotTableCommit_good {s : State} {h : Nat} {word : Word} (hcopy : word.toNat % 2 ≠ (s.hedge h).slotCopy)
    (hversion : word.toNat / 2 = (s.hedge h).pendSlots.2) : exec (.slotTableCommit h word) s = .next ((s.modHedge h fun x =>
      { x with nextSlots := some x.pendSlots.1, slotVersion := x.pendSlots.2, slotCopy := 1 - x.slotCopy,
               pendSlots := (x.nextSlots.getD x.slots, x.slotVersion) }).after (65536 - s.now % 65536) (.frameStart h)) := by
  refine congrArg _ (if_neg ?_)
  simpa only [Bool.not_eq_true', Bool.not_eq_false, commits_iff] using ⟨hcopy, hversion⟩

/-! ### The configuration of a scheduler (13 R302) -/

section
variable (s : State) (die : Nat) (word : Word)

/-- The pending copy names other rings than the one in force. -/
def Die.ringsMoved (d : Die) : Prop := d.pendSched.queues ≠ d.sched.queues ∨ d.pendSched.holds ≠ d.sched.holds

/-- A commit word of a scheduler's configuration names the pending copy, which keeps the rule's limits. -/
def State.SchedGood : Prop :=
  word.toNat % 2 ≠ (s.die die).sched.copy ∧ word.toNat / 2 = (s.die die).pendSched.version ∧
    (∀ a, a ∈ (s.die die).pendSched.queues ∨ a ∈ (s.die die).pendSched.holds → a % 64 = 0 ∧ inDram die a) ∧
    (s.die die).pendSched.queues.length ≤ 4 ∧ (s.die die).pendSched.holds.length ≤ 4 ∧
    ((s.die die).ringsMoved → (∀ e ∈ (s.die die).tasks, e.2.occupancy = 0) ∧ ∀ e ∈ (s.die die).holds, e.2.occupancy = 0)

/-- The pending configuration in force, the former one pending. -/
def Die.swapSched (d : Die) : Die := { d with sched := { d.pendSched with copy := 1 - d.sched.copy }, pendSched := d.sched }

variable {s die word}

theorem schedGood_iff : s.SchedGood die word ↔
    ¬ (!commits word (s.die die).sched.copy (s.die die).pendSched.version ||
      !(((s.die die).pendSched.queues ++ (s.die die).pendSched.holds).all (fun a => a % 64 == 0 && inDram die a) &&
        (s.die die).pendSched.queues.length ≤ 4 && (s.die die).pendSched.holds.length ≤ 4) ||
      ((s.die die).pendSched.queues != (s.die die).sched.queues || (s.die die).pendSched.holds != (s.die die).sched.holds) &&
        !((s.die die).tasks.all (fun e => e.2.occupancy == 0) && (s.die die).holds.all fun e => e.2.occupancy == 0)) = true := by
  simp only [State.SchedGood, Die.ringsMoved, Bool.or_eq_true, Bool.and_eq_true, Bool.not_eq_true', not_or, Bool.not_eq_false, commits_iff,
    List.all_eq_true, List.mem_append, beq_iff_eq, bne_iff_ne, decide_eq_true_eq, not_and, and_assoc]

theorem exec_schedulerConfigCommit_bad (h : ¬ s.SchedGood die word) : exec (.schedulerConfigCommit die word) s = .next s :=
  congrArg _ (if_pos (not_not.mp (mt schedGood_iff.mpr h)))

theorem exec_schedulerConfigCommit_same (h : s.SchedGood die word) (hm : ¬ (s.die die).ringsMoved) :
    exec (.schedulerConfigCommit die word) s = .next (s.modDie die Die.swapSched) := by
  refine congrArg _ ((if_neg (schedGood_iff.mp h)).trans (if_neg ?_))
  simpa [Die.ringsMoved] using hm

theorem exec_schedulerConfigCommit_moved (h : s.SchedGood die word) (hm : (s.die die).ringsMoved) :
    exec (.schedulerConfigCommit die word) s = .next ((s.modDie die Die.swapSched).placeRings die) := by
  refine congrArg _ ((if_neg (schedGood_iff.mp h)).trans (if_pos ?_))
  simpa only [Die.ringsMoved, Bool.or_eq_true, bne_iff_ne] using hm
end

/-- Each ring of a scheduler takes the configuration that stands in the control block named for it. -/
theorem State.taskRing_placeRings (s : State) (die : Nat) {i a : Nat} (ha : (s.die die).sched.queues[i]? = some a) :
    ((s.placeRings die).die die).taskRing i = s.adopt a ((s.die die).taskRing i) := by
  rw [State.placeRings, State.die_modDie_self]
  refine (Tab.getD_foldl_zipIdx (fun a i => s.adopt a ((s.die die).taskRing i)) {} _ 0 _ i).trans ?_
  simp [ha]

theorem State.holdRing_placeRings (s : State) (die : Nat) {i a : Nat} (ha : (s.die die).sched.holds[i]? = some a) :
    ((s.placeRings die).die die).holdRing i = s.adopt a ((s.die die).holdRing i) := by
  rw [State.placeRings, State.die_modDie_self]
  refine (Tab.getD_foldl_zipIdx (fun a i => s.adopt a ((s.die die).holdRing i)) {} _ 0 _ i).trans ?_
  simp [ha]

/-! ### The configuration of Yew (15 R336) -/

/-- A die whose store is in use to a degree, which may let it signal again. -/
def Die.restocked (used : Nat) (d : Die) : Die := { d with yewSignalled := d.yewSignalled && 16 * d.yew.hwm < used }

theorem State.die_restock (s : State) (e : Nat) : s.restock.die e = (s.die e).restocked (s.storeUsed e) := by
  refine (congrArg (Option.getD · {}) (Tab.get?_map s.dies (fun d => (d.1, d.2.restocked (s.storeUsed d.1))) (fun _ _ => rfl) e)).trans ?_
  rw [State.die, Tab.getD]
  cases Tab.get? s.dies e <;> rfl

section
variable (s : State) (die : Nat) (word : Word)

/-- A commit word of Yew's configuration names the pending copy, which keeps the rule's limits. -/
def State.YewGood : Prop :=
  word.toNat % 2 ≠ (s.die die).yew.copy ∧ word.toNat / 2 = (s.die die).pendYew.version ∧ 16 ≤ (s.die die).pendYew.size ∧
    (s.die die).pendYew.size < 2 ^ 16 ∧ (s.die die).pendYew.hwm < (s.die die).pendYew.size ∧ (s.die die).pendYew.base % 65536 = 0 ∧
    inDram die (s.die die).pendYew.base ∧ (s.die die).pendYew.asids.length ≤ 8

def Die.swapYew (d : Die) : Die := { d with yew := { d.pendYew with copy := 1 - d.yew.copy }, pendYew := d.yew }

variable {s die word}

theorem yewGood_iff : s.YewGood die word ∧ s.openSnap = none ↔
    ¬ (!commits word (s.die die).yew.copy (s.die die).pendYew.version ||
      !(16 ≤ (s.die die).pendYew.size && (s.die die).pendYew.size < 2 ^ 16 && (s.die die).pendYew.hwm < (s.die die).pendYew.size &&
        (s.die die).pendYew.base % 65536 == 0 && inDram die (s.die die).pendYew.base && (s.die die).pendYew.asids.length ≤ 8) ||
      s.openSnap.isSome) = true := by
  simp only [State.YewGood, Bool.or_eq_true, Bool.and_eq_true, Bool.not_eq_true', not_or, Bool.not_eq_false, commits_iff, beq_iff_eq,
    decide_eq_true_eq, Bool.not_eq_true, Option.isSome_eq_false_iff, Option.isNone_iff_eq_none, and_assoc]

theorem exec_yewConfigCommit_bad (h : s.openSnap ≠ none ∨ ¬ s.YewGood die word) : exec (.yewConfigCommit die word) s = .next s :=
  congrArg _ (if_pos (not_not.mp (mt yewGood_iff.mpr (by tauto))))

theorem exec_yewConfigCommit_good (h : s.YewGood die word) (hopen : s.openSnap = none) (hasids : (s.die die).pendYew.asids = []) :
    exec (.yewConfigCommit die word) s = .next (s.modDie die Die.swapYew).restock := by
  have hjob : (s.modDie die Die.swapYew).jobs.find? (fun j => j.st != .ended && j.asids.any (s.die die).pendYew.asids.contains) = none := by
    simp [hasids]
  refine congrArg _ ((if_neg (yewGood_iff.mp ⟨h, hopen⟩)).trans (congrArg State.restock ?_))
  split
  · next j hj => cases hjob.symm.trans hj
  · rfl
end

/-! ### Rings (05 R113, R114) -/

/-- The limits on a copy of a ring, and what a commit word must say of it. -/
def RingGood {α : Type} (r : Ring α) (word : Word) (p : RingCopy) : Prop :=
  word.toNat % 2 ≠ r.copy ∧ word.toNat / 2 = p.version ∧ 10 ≤ p.log2cap ∧ p.log2cap ≤ 20 ∧ p.hwm + 256 ≤ 2 ^ p.log2cap ∧ p.base % 65536 = 0 ∧
    p.base ≠ 0 ∧ p.base < 2 ^ 39 ∧ inDram (p.base / 2 ^ 36) p.base ∧ r.drained

theorem ringGood_iff {α : Type} {r : Ring α} {word : Word} {p : RingCopy} :
    RingGood r word p ↔ ¬ (!commits word r.copy p.version || !ringCopyGood p || !r.drained) = true := by
  simp only [RingGood, ringCopyGood, Bool.or_eq_true, Bool.and_eq_true, Bool.not_eq_true', not_or, Bool.not_eq_false, commits_iff, beq_iff_eq,
    bne_iff_ne, decide_eq_true_eq, and_assoc]
  tauto

theorem Ring.commit_good {α : Type} {r : Ring α} {word : Word} {p : RingCopy} (h : RingGood r word p) : r.commit word (some p) =
    { r with old := r.entries, oldBase := r.base, oldLog2cap := r.log2cap, oldHead := r.head, oldTail := r.tail,
             entries := [], head := 0, tail := 0, base := p.base, log2cap := p.log2cap, hwm := p.hwm, version := p.version,
             copy := 1 - r.copy, pending := { base := r.base, log2cap := r.log2cap, version := r.version, hwm := r.hwm },
             drained := r.entries.isEmpty, signalled := r.signalled && p.hwm < r.entries.length } := if_neg (ringGood_iff.mp h)

theorem Ring.commit_bad {α : Type} {r : Ring α} {word : Word} {copy : Option RingCopy} (h : ∀ p, copy = some p → ¬ RingGood r word p) :
    r.commit word copy = r := by
  cases copy with
  | none => rfl
  | some p => exact if_pos (not_not.mp (mt ringGood_iff.mpr (h p rfl)))

/-- A commit loses no entry of an empty ring, and brings none. -/
theorem Ring.all_commit {α : Type} {r : Ring α} (h : r.all = []) (word : Word) (copy : Option RingCopy) : (r.commit word copy).all = [] := by
  by_cases hg : ∃ p, copy = some p ∧ RingGood r word p
  · obtain ⟨p, rfl, hp⟩ := hg
    rw [Ring.commit_good hp]
    exact (List.append_nil _).trans (List.append_eq_nil_iff.mp h).2
  · rw [Ring.commit_bad fun p hp hgood => hg ⟨p, hp, hgood⟩, h]

theorem State.commitWord_frame {α : Type} (s : State) (r : Ring α) (word : Word) : s.commitWord r word = { s with mem := (s.commitWord r word).mem } := by
  unfold State.commitWord
  split <;> rfl

/-! ### What a ring's commit lets go on (02 R44; 05 R116, R117) -/

theorem State.unspill_empty {s : State} {c : Nat} (h : (s.die (dieOf c)).overflow.all = []) (fuel : Nat) : s.unspill c fuel = s := by
  cases fuel with
  | zero => rfl
  | succ n =>
    rw [State.unspill, h]
    split <;> rfl

theorem Die.refill_empty {d : Die} {cls : Nat} (h : (d.holdRing cls).all = []) (fuel : Nat) : d.refill cls fuel = d := by
  cases fuel with
  | zero => rfl
  | succ n => rw [Die.refill, h]

/-- What a die's scheduler is told when a ring of it has room. -/
def Told (die : Nat) (i : Instr) : Prop := (∃ n, i = .counterZeroWake die n) ∨ ∃ c, i = .tkqAccept c

/-- A class whose hold ring is empty: only those that waited for room are told. -/
theorem State.fillQueue_empty {s : State} {die cls : Nat} (h : ((s.die die).holdRing cls).all = []) :
    OnlyPosts (Told die) (s.modDie die id) (s.fillQueue die cls) := by
  have hrefill : s.modDie die (fun d => d.refill cls ((d.holdRing cls).occupancy + 1)) = s.modDie die id := by
    rw [State.modDie, Die.refill_empty h]
    rfl
  unfold State.fillQueue
  rw [hrefill]
  refine OnlyPosts.trans ?_ (OnlyPosts.foldl (fun t e => ?_) _ _)
  · split
    · exact OnlyPosts.foldl (fun t n => OnlyPosts.postOnce t (.inl ⟨n, rfl⟩)) _ _
    · exact OnlyPosts.refl _ _
  · split
    · exact OnlyPosts.postOnce t (.inr ⟨_, rfl⟩)
    · exact OnlyPosts.refl _ _

/-- A commit of one of a class's rings, whose hold ring is empty after it. -/
theorem State.fillQueue_committed {α : Type} (s : State) (r : Ring α) (word : Word) {die cls : Nat} {f : Die → Die}
    (h : ((f (s.die die)).holdRing cls).all = []) :
    let u := ((s.commitWord r word).modDie die f).fillQueue die cls
    u = { s with dies := u.dies, mem := (s.commitWord r word).mem, net := u.net } ∧ (∀ e, e ≠ die → u.die e = s.die e) ∧
      (∀ i ∈ u.net, i ∈ s.net ∨ Told die i) ∧ u.die die = f (s.die die) := by
  have hw := s.commitWord_frame r word
  have hdie (e : Nat) : (s.commitWord r word).die e = s.die e := by rw [hw]; rfl
  have hself : ((s.commitWord r word).modDie die f).die die = f (s.die die) := by rw [State.die_modDie_self, hdie]
  intro u
  obtain ⟨hframe, hnew⟩ : OnlyPosts (Told die) (((s.commitWord r word).modDie die f).modDie die id) u :=
    State.fillQueue_empty (by rw [hself]; exact h)
  clear_value u
  have hu (e : Nat) : u.die e = (((s.commitWord r word).modDie die f).modDie die id).die e := by rw [hframe]; rfl
  refine ⟨?_, fun e he => ?_, fun i hi => ?_, ?_⟩
  · rw [hframe, hw]; rfl
  · rw [hu, State.die_modDie_ne _ _ he, State.die_modDie_ne _ _ he, hdie]
  · have hnet : (s.commitWord r word).net = s.net := by rw [hw]
    exact hnet ▸ hnew i hi
  · rw [hu, State.die_modDie_self, id, hself]

theorem exec_ringGrowth_spill {s : State} {c : Nat} (hwaits : (s.core c).NoneWaits) (hover : (s.die (dieOf c)).overflow.all = []) (word : Word) :
    exec (.ringGrowthCommit (.spill c) word) s = .next ((s.commitWord (s.core c).work.spill word).modCore c fun k =>
      { k with work := { k.work with spill := s.commitRing word (s.core c).work.spill } }) := by
  have hw := s.commitWord_frame (s.core c).work.spill word
  have hcore : (s.commitWord (s.core c).work.spill word).core c = s.core c := by rw [hw]; rfl
  have hdie : (s.commitWord (s.core c).work.spill word).die (dieOf c) = s.die (dieOf c) := by rw [hw]; rfl
  obtain ⟨hspill, hsaved, hdeque, hdover, hpre⟩ := hwaits
  refine congrArg _ ((congrArg (State.readmit · c 63) (State.unspill_empty ?_ _)).trans (State.readmit_noneWaits ?_ 63))
  · rw [State.die_modCore, hdie]; exact hover
  · rw [State.core_modCore_self, hcore]
    exact ⟨Ring.all_commit hspill word _, hsaved, hdeque, hdover, hpre⟩

/-! ### The block directory (05 R109, R122) -/

section
variable (s : State) (die copy version : Nat)

/-- A commit of a block directory names the pending copy, which keeps the rule's limits and has room for the blocks of the die. -/
def State.DirGood : Prop :=
  copy % 2 ≠ (s.die die).dir.copy ∧ version % 2 ^ 63 = (s.die die).pendDir.version ∧ 4 ≤ (s.die die).pendDir.log2 ∧
    (s.die die).pendDir.log2 ≤ 20 ∧ inDram die (s.die die).pendDir.base ∧ ∀ b ∈ (s.die die).blocks, ((s.die die).blocks.filter fun e =>
      dirBucket (s.die die).pendDir.log2 e.asid e.blk == dirBucket (s.die die).pendDir.log2 b.asid b.blk).length ≤ 8

variable {s die copy version}

theorem dirWord_commits {old v : Nat} : commits (BitVec.ofNat 64 (2 * version + copy % 2)) old v = true ↔ copy % 2 ≠ old ∧ version % 2 ^ 63 = v := by
  rw [commits_iff, BitVec.toNat_ofNat]
  have hmod : (2 * version + copy % 2) % 2 ^ 64 % 2 = copy % 2 := by omega
  have hdiv : (2 * version + copy % 2) % 2 ^ 64 / 2 = version % 2 ^ 63 := by omega
  rw [hmod, hdiv]

theorem dirGood_iff : s.DirGood die copy version ↔
    ¬ (!commits (BitVec.ofNat 64 (2 * version + copy % 2)) (s.die die).dir.copy (s.die die).pendDir.version || (s.die die).pendDir.log2 < 4 ||
      20 < (s.die die).pendDir.log2 || !inDram die (s.die die).pendDir.base || !(s.die die).blocks.all fun b => ((s.die die).blocks.filter fun e =>
        dirBucket (s.die die).pendDir.log2 e.asid e.blk == dirBucket (s.die die).pendDir.log2 b.asid b.blk).length ≤ Config.bucketSize) = true := by
  simp only [State.DirGood, Bool.or_eq_true, Bool.not_eq_true', not_or, Bool.not_eq_false, dirWord_commits, decide_eq_true_eq, not_lt, List.all_eq_true,
    and_assoc, Config.bucketSize]

theorem exec_blockDirectoryCommit_bad (h : ¬ s.DirGood die copy version) : exec (.blockDirectoryCommit die copy version) s = .next s :=
  congrArg _ (if_pos (not_not.mp (mt dirGood_iff.mpr h)))

theorem exec_blockDirectoryCommit_good (h : s.DirGood die copy version) : exec (.blockDirectoryCommit die copy version) s = .next
    (s.modDie die fun d => { d with dir := { d.pendDir with copy := 1 - d.dir.copy }, pendDir := d.dir }) :=
  congrArg _ (if_neg (dirGood_iff.mp h))
end

/-! ### The statement -/

/-- Settles O46: each commit word's effect from its own lemma, for the words that keep the rule's limits and for the others. -/
theorem blocksCommitted : Obligations.BlocksCommitted := by
  unfold Obligations.BlocksCommitted
  refine ⟨?rename, ?slots, ?scheduler, ?yew, ?ring, ?growth⟩
  case rename =>
    intro s die word d n own r old spare k good
    refine ⟨exec_renameCommit_bad, fun hgood hback => ⟨_, exec_renameCommit_good hgood hback, ?_, fun e he => ?_, ?_, fun e he => ?_, fun hkept => ?_,
      fun hnew hold => ?_⟩⟩
    · rw [State.spareReady]; split <;> rfl
    · rw [State.die_modDie_ne _ _ he, State.spareReady]; split <;> rfl
    · rw [State.die_modDie_self, State.spareReady]; split <;> rfl
    · rw [State.core_modDie, State.spareReady]
      split
      · exact State.core_modCore_ne (s.blankSram spare) _ he
      · rfl
    · rw [State.spareReady, if_neg (by tauto)]; rfl
    · rw [State.spareReady, if_pos ⟨hnew, hold⟩]
      exact ⟨State.byte_blankSram s spare, State.core_modCore_self (s.blankSram spare) spare fun k => k.freshened s.now⟩
  case slots =>
    intro s h word x
    refine ⟨exec_slotTableCommit_bad, fun hcopy hversion => ⟨_, exec_slotTableCommit_good hcopy hversion, rfl, ?_, ?_, ?_, ?_, fun e he => ?_,
      (mem_insertBy ..).2 (.inl rfl)⟩⟩
    iterate 4 rw [State.hedge_after, State.hedge_modHedge_self]
    rw [State.hedge_after, State.hedge_modHedge_ne _ _ he]
  case scheduler =>
    intro s die word d p moved good
    refine ⟨exec_schedulerConfigCommit_bad, fun hgood => ?_⟩
    by_cases hm : d.ringsMoved
    · refine ⟨_, exec_schedulerConfigCommit_moved hgood hm, rfl, fun e he => ?_, ?_, fun h => absurd hm h, fun _ => ⟨fun i a ha => ?_, fun i a ha => ?_⟩⟩
      · rw [State.placeRings, State.die_modDie_ne _ _ he, State.die_modDie_ne _ _ he]
      · rw [State.placeRings, State.die_modDie_self, State.die_modDie_self]; rfl
      · rw [State.taskRing_placeRings _ _ (by rw [State.die_modDie_self]; exact ha), State.die_modDie_self]; rfl
      · rw [State.holdRing_placeRings _ _ (by rw [State.die_modDie_self]; exact ha), State.die_modDie_self]; rfl
    · refine ⟨_, exec_schedulerConfigCommit_same hgood hm, rfl, fun e he => State.die_modDie_ne _ _ he, ?_, fun _ => ?_, fun h => absurd h hm⟩
      · rw [State.die_modDie_self]; rfl
      · rw [State.die_modDie_self]; exact ⟨rfl, rfl⟩
  case yew =>
    intro s die word d p good
    refine ⟨exec_yewConfigCommit_bad, fun hgood hopen hasids => ⟨_, exec_yewConfigCommit_good hgood hopen hasids, rfl, fun e he => ?_, ?_, fun e => ?_⟩⟩
    · rw [State.die_restock, State.die_modDie_ne _ _ he]; rfl
    · rw [State.die_restock, State.die_modDie_self]; rfl
    · intro hsig
      rw [State.die_restock, Die.restocked, Bool.and_eq_true] at hsig
      by_cases he : e = die
      · subst he; rw [State.die_modDie_self] at hsig; exact hsig.1
      · rw [State.die_modDie_ne _ _ he] at hsig; exact hsig.1
  case ring =>
    intro r word copy good
    refine ⟨fun p hp hgood => ?_, Ring.commit_bad⟩
    have hdrained : r.entries.isEmpty = decide (r.entries = []) := by rw [Bool.eq_iff_iff, decide_eq_true_iff, List.isEmpty_iff]
    have hsignalled : (r.signalled && decide (p.hwm < r.entries.length)) = decide (r.signalled = true ∧ p.hwm < r.entries.length) := by simp
    rw [hp, Ring.commit_good hgood, hdrained, hsignalled]
  case growth =>
    intro s word told
    have hframe {α : Type} (r : Machine.Ring α) := s.commitWord_frame r word
    have hcore {α : Type} (r : Machine.Ring α) (c : Nat) : (s.commitWord r word).core c = s.core c := by rw [hframe]; rfl
    have hdie {α : Type} (r : Machine.Ring α) (e : Nat) : (s.commitWord r word).die e = s.die e := by rw [hframe]; rfl
    have honly {α : Type} (r : Machine.Ring α) (c : Nat) (f : Core → Core) :
        OnlyCore c { s with mem := (s.commitWord r word).mem } ((s.commitWord r word).modCore c f) :=
      ⟨by rw [hframe]; rfl, fun e he => (State.core_modCore_ne _ _ he).trans (hcore r e)⟩
    refine ⟨?deque, ?spill, ?overflow, ?queues, ?directory⟩
    case deque =>
      intro c r
      exact ⟨_, rfl, honly r c _, by rw [State.core_modCore_self, hcore]⟩
    case spill =>
      intro c r hwaits hover
      exact ⟨_, exec_ringGrowth_spill hwaits hover word, honly r c _, by rw [State.core_modCore_self, hcore]⟩
    case overflow =>
      intro die r
      refine ⟨(s.commitWord r word).modDie die fun d => { d with overflow := s.commitRing word r }, rfl, by rw [hframe]; rfl,
        fun e he => (State.die_modDie_ne _ _ he).trans (hdie r e), ?_⟩
      rw [State.die_modDie_self, hdie]
    case queues =>
      intro die cls hhold
      constructor
      · intro r
        exact ⟨_, rfl, s.fillQueue_committed r word (f := fun d => { d with tasks := Tab.put d.tasks cls (s.commitRing word r) }) hhold⟩
      · intro r
        refine ⟨_, rfl, s.fillQueue_committed r word (f := fun d => { d with holds := Tab.put d.holds cls (s.commitRing word r) }) ?_⟩
        exact (congrArg Ring.all (Tab.getD_put_self ..)).trans (Ring.all_commit hhold word _)
    case directory =>
      intro die copy version d p bucket good
      exact ⟨exec_blockDirectoryCommit_bad, fun hgood => ⟨_, exec_blockDirectoryCommit_good hgood, rfl, fun e he => State.die_modDie_ne _ _ he,
        State.die_modDie_self ..⟩⟩

end Sys2Proof.Machine
end

section
/-! PROOFS. Copies: acceptance, packets and their landing, the ends of transfers, frozen channels (05 R120; 09 R221, R222; 04 R90; 14 R322; O33). -/

namespace Sys2Proof.Machine

/-! ### Bytes of a line written under a mask -/

/-- The mask of n bytes from byte o on. -/
def byteMask (o n : Nat) : Nat := (2 ^ (8 * n) - 1) * 2 ^ (8 * o)

theorem testBit_byteMask (o n k : Nat) : (byteMask o n).testBit k = decide (8 * o ≤ k ∧ k < 8 * o + 8 * n) := by
  rw [byteMask, Nat.testBit_mul_two_pow, Nat.testBit_two_pow_sub_one, Bool.eq_iff_iff]
  simp only [Bool.and_eq_true, decide_eq_true_eq]
  omega

theorem testBit_blend (old new mask k : Nat) : (blend old new mask).testBit k = if mask.testBit k then new.testBit k else old.testBit k := by
  rw [blend, Nat.testBit_or, Nat.testBit_and, Nat.testBit_and, Nat.testBit_xor]
  cases mask.testBit k <;> simp

theorem testBit_byteOf (x j i : Nat) : (BitVec.ofNat 8 (x / 256 ^ j)).getLsbD i = (decide (i < 8) && x.testBit (8 * j + i)) := by
  rw [BitVec.getLsbD_ofNat, show (256 : Nat) ^ j = 2 ^ (8 * j) by rw [Nat.pow_mul], Nat.testBit_div_two_pow, Nat.add_comm i]

/-- A byte of a line into which n bytes of a number have been written from byte o on. -/
theorem byteOf_blend (old v o n j : Nat) : BitVec.ofNat 8 (blend old (v * 2 ^ (8 * o)) (byteMask o n) / 256 ^ j) =
    if o ≤ j ∧ j < o + n then BitVec.ofNat 8 (v / 256 ^ (j - o)) else BitVec.ofNat 8 (old / 256 ^ j) := by
  refine BitVec.eq_of_getLsbD_eq fun i hi => ?_
  have hbit : (blend old (v * 2 ^ (8 * o)) (byteMask o n)).testBit (8 * j + i) =
      if o ≤ j ∧ j < o + n then v.testBit (8 * (j - o) + i) else old.testBit (8 * j + i) := by
    rw [testBit_blend, testBit_byteMask, Nat.testBit_mul_two_pow]
    by_cases h : o ≤ j ∧ j < o + n
    · rw [if_pos h, if_pos (by rw [decide_eq_true_eq]; omega), show 8 * j + i - 8 * o = 8 * (j - o) + i by omega]
      simp; omega
    · rw [if_neg h, if_neg (by rw [decide_eq_true_eq]; omega)]
  rw [testBit_byteOf, hbit]
  split <;> rw [testBit_byteOf]

theorem Memory.byteOf_read {m : Memory} (h : m.wf = true) {a n j : Nat} (hj : j < n) : BitVec.ofNat 8 (m.read a n / 256 ^ j) = m.byte (a + j) := by
  have hfield := Memory.read_field h a n j 1 hj
  rw [Memory.read_sum h (a + j) 1, Finset.sum_range_one] at hfield
  apply BitVec.eq_of_toNat_eq
  rw [BitVec.toNat_ofNat]
  simpa using hfield

/-- The bytes of memory after a masked write of a line. -/
theorem Memory.byte_maskedLine {m : Memory} (h : m.wf = true) (line v o n : Nat) (hn : o + n ≤ 128) (b : Nat) :
    (m.write (line * 128) 128 (blend (m.read (line * 128) 128) (v * 2 ^ (8 * o)) (byteMask o n))).byte b =
      if line * 128 + o ≤ b ∧ b < line * 128 + o + n then BitVec.ofNat 8 (v / 256 ^ (b - (line * 128 + o))) else m.byte b := by
  rw [Memory.byte_write]
  by_cases hb : line * 128 ≤ b ∧ b < line * 128 + 128
  · rw [if_pos hb, byteOf_blend, Memory.byteOf_read h (by omega), show line * 128 + (b - line * 128) = b by omega,
      show b - line * 128 - o = b - (line * 128 + o) by omega]
    by_cases hin : line * 128 + o ≤ b ∧ b < line * 128 + o + n
    · rw [if_pos hin, if_pos (by omega)]
    · rw [if_neg hin, if_neg (by omega)]
  · rw [if_neg hb, if_neg (by omega)]

/-! ### An engine's write of a line that stands at its home (12 R287, R291) -/

theorem State.entry?_setEntry (s : State) (e : HomeEntry) : (s.setEntry e).entry? e.line = some e := by
  have hhome : (s.setEntry e).home ((s.setEntry e).homeKey e.line) =
      { s.home (s.homeKey e.line) with entries := (s.home (s.homeKey e.line)).entries.filter (fun f => f.line != e.line) ++ [e] } :=
    Tab.getD_put_self ..
  have hnone : ((s.home (s.homeKey e.line)).entries.filter fun f => f.line != e.line).find? (fun f => f.line == e.line) = none := by
    simp [List.find?_eq_none]
  rw [State.entry?, hhome, List.find?_append, hnone]
  simp

theorem State.entry?_l2Touch (s : State) (line : Nat) (fill dirty : Bool) (l : Nat) : (s.l2Touch line fill dirty).entry? l = s.entry? l := by
  unfold State.l2Touch
  dsimp only
  split
  · rfl
  · have hkey : (s.setHome (s.homeKey line) ((s.home (s.homeKey line)).l2Touch line s.now fill dirty)).homeKey l = s.homeKey l := rfl
    rw [State.entry?, hkey, State.entry?]
    by_cases hk : s.homeKey l = s.homeKey line
    · rw [hk]
      refine (congrArg (fun h => (Home.entries h).find? fun e => e.line == l) (Tab.getD_put_self ..)).trans ?_
      rw [Home.entries_l2Touch]
    · exact congrArg (fun h => (Home.entries h).find? fun e => e.line == l) (Tab.getD_put_ne _ _ _ hk)

theorem State.joinCheck_none {s : State} (h : ∀ d ∈ s.dies, d.2.joiners = []) (line : Nat) : s.joinCheck line = s := by
  refine List.foldlRecOn (motive := fun t => t = s) _ _ rfl fun t ht d hd => ?_
  dsimp only
  rw [ht, h d hd]
  rfl

/-- With no open snapshot and no joiner a masked write changes memory and poison alone. -/
theorem State.putLine_alone {s : State} (hsnap : s.openSnap = none) (hjoin : ∀ d ∈ s.dies, d.2.joiners = []) (c line data mask : Nat) :
    ∃ ps, s.putLine c line data mask = { s with mem := s.mem.write (line * 128) 128 (blend (s.line line) data mask), poison := ps } := by
  have hopen : s.yew.snaps.any (fun n => n.status == 0) = false := by
    rw [List.any_eq_false]
    intro n hn
    simpa using State.openSnap_none.mp hsnap n hn
  have himage : s.imageWrite c line data mask = s := by rw [State.imageWrite, hopen]; rfl
  refine ⟨s.poison.filter fun p => !(p.1 / 16 == line && (wordsCovered mask).contains (p.1 % 16)), ?_⟩
  rw [State.putLine, himage]
  refine State.joinCheck_none ?_ line
  exact hjoin

theorem State.engineWrite_atHome {s : State} {line : Nat} {e : HomeEntry} (hhome : s.AtHome line) (he : s.entry? line = some e)
    (hsnap : s.openSnap = none) (hjoin : ∀ d ∈ s.dies, d.2.joiners = []) (c data mask t0 : Nat) : ∃ w : State,
      s.engineWrite c line data mask t0 = (max t0 (e.rts + 1), w) ∧ w = { s with homes := w.homes, mem := w.mem, poison := w.poison } ∧
      w.mem = s.mem.write (line * 128) 128 (blend (s.line line) data mask) ∧
      w.entry? line = some { e with st := .s, wts := max t0 (e.rts + 1), rts := max t0 (e.rts + 1), stamp := s.now } := by
  obtain ⟨ps, hput⟩ := State.putLine_alone hsnap hjoin c line data mask
  have hline : e.line = line := by simpa using List.find?_some he
  have hnow : s.homeNow line = ({ e with stamp := s.now }, s) := by simp [State.homeNow, State.recallNow_of_atHome hhome, he]
  refine ⟨((s.putLine c line data mask).setEntry { e with st := .s, wts := max t0 (e.rts + 1), rts := max t0 (e.rts + 1), stamp := s.now }).l2Touch
    line false true, ?_, ?_, ?_, ?_⟩
  · rw [State.engineWrite, if_neg (by simp [hhome.1]), hnow]
  · rw [hput, State.l2Touch]
    split <;> rfl
  · rw [hput, State.l2Touch]
    split <;> rfl
  · rw [State.entry?_l2Touch, ← hline]
    exact State.entry?_setEntry _ { e with st := .s, wts := max t0 (e.rts + 1), rts := max t0 (e.rts + 1), stamp := s.now }

/-! ### The engine goes on -/

/-- What the copy engine tells itself. -/
def CopyWork (c : Nat) (i : Instr) : Prop := i = .copyAccept c ∨ i = .copyPacketStart c

theorem State.goOn_posts (s : State) (c : Nat) : OnlyPosts (CopyWork c) s (s.goOn c) := by
  unfold State.goOn
  split
  · exact OnlyPosts.postOnce s (.inr rfl)
  · exact OnlyPosts.refl _ s

theorem State.goOn_idle {s : State} {c : Nat} (h : (s.core c).units.transfers = []) : s.goOn c = s := by
  have hnone : (s.core c).nextChan = none := by simp [Core.nextChan, Core.readyOf, h]
  rw [State.goOn, hnone]
  rfl

theorem State.mem_net_goOn {s : State} {c : Nat} {i : Instr} (h : i ∈ s.net) : i ∈ (s.goOn c).net := by
  unfold State.goOn
  split
  · unfold State.postOnce
    split
    · exact h
    · exact List.mem_append_left _ h
  · exact h

/-- A step of the copy engine that changes its core alone, and tells the engine to go on. -/
theorem OnlyPosts.onlyCore {P : Instr → Prop} {s u : State} {c : Nat} {f : Core → Core} (h : OnlyPosts P (s.modCore c f) u) :
    OnlyCore c { s with net := u.net } u ∧ u.core c = f (s.core c) ∧ ∀ i ∈ u.net, i ∈ s.net ∨ P i := by
  obtain ⟨hframe, hnew⟩ := h
  have hcore (e : Nat) : u.core e = (s.modCore c f).core e := by rw [hframe]; rfl
  exact ⟨⟨by rw [hframe]; rfl, fun e he => (hcore e).trans (State.core_modCore_ne _ _ he)⟩, (hcore c).trans (State.core_modCore_self ..), hnew⟩

theorem OnlyPosts.post {P : Instr → Prop} (s : State) {i : Instr} (hi : P i) : OnlyPosts P s (s.post i) where
  frame := rfl
  new j hj := (List.mem_append.mp hj).imp_right fun h => by rw [List.mem_singleton.mp h]; exact hi

theorem OnlyPosts.imp {P Q : Instr → Prop} {s t : State} (h : OnlyPosts P s t) (hpq : ∀ i, P i → Q i) : OnlyPosts Q s t where
  frame := h.frame
  new i hi := (h.new i hi).imp_right (hpq i)

/-! ### Acceptance (05 R120; 04 R90) -/

theorem State.pinAll_eq (s : State) (l : List Nat) : s.pinAll l = { s with pins := s.pins ++ l } := by
  induction l generalizing s with
  | nil => rw [List.append_nil]; rfl
  | cons a l ih =>
    refine (ih (s.pin a)).trans ?_
    rw [State.pin, List.append_assoc]
    rfl

section
variable {s : State} {c : Nat} {r : CopyReq} {rest : List CopyReq} (hq : (s.core c).q.cpq = r :: rest)
include hq

/-- The head of CPQ as an accepted transfer. -/
def State.accepted (s : State) (c : Nat) (r : CopyReq) : Transfer :=
  Transfer.aim { req := r, tc := r.t0, lines := s.copyLines c r } (r.nextPacket none)

omit hq in
theorem State.accepted_eq (s : State) (c : Nat) (r : CopyReq) : s.accepted c r =
    { req := r, tc := r.t0, lines := s.copyLines c r, row := (s.accepted c r).row, byte := (s.accepted c r).byte } := by
  unfold State.accepted Transfer.aim
  split <;> rfl

theorem exec_copyAccept_blocked (h : r.chan ∈ (s.core c).units.frozen ∨
      4096 ≤ ((s.core c).units.transfers.filter fun t => t.req.chan == r.chan && !t.done).length ∨ ∃ l ∈ s.copyLines c r, l ∈ s.pins) :
    exec (.copyAccept c) s = .next s := by
  change execCopyAccept c s = _
  rw [execCopyAccept]
  dsimp only
  rw [hq]
  refine congrArg _ (if_pos ?_)
  simp only [State.anyPinned, Bool.or_eq_true, List.contains_iff_mem, decide_eq_true_eq, List.any_eq_true]
  tauto

/-- The package with the head of CPQ accepted. -/
def State.withAccepted (s : State) (c : Nat) (r : CopyReq) (rest : List CopyReq) : State :=
  ({ s with pins := s.pins ++ s.copyLines c r } : State).modCore c fun k =>
    { k with q := { k.q with cpq := rest }, units := { k.units with transfers := k.units.transfers ++ [s.accepted c r] } }

theorem exec_copyAccept_open (hfrozen : r.chan ∉ (s.core c).units.frozen)
    (hroom : ¬ 4096 ≤ ((s.core c).units.transfers.filter fun t => t.req.chan == r.chan && !t.done).length)
    (hpins : ¬ ∃ l ∈ s.copyLines c r, l ∈ s.pins) (hstop : (s.core c).csr.stopped = false) (hjob : s.jobStopped r.asid = false) :
    ∃ u : State, exec (.copyAccept c) s = .next u ∧ OnlyPosts (CopyWork c) (s.withAccepted c r rest) u := by
  refine ⟨State.goOn (if rest.isEmpty then s.withAccepted c r rest else (s.withAccepted c r rest).postOnce (.copyAccept c)) c, ?_, ?_⟩
  · change execCopyAccept c s = _
    rw [execCopyAccept]
    dsimp only
    rw [hq]
    refine congrArg _ ((if_neg ?_).trans ?_)
    · simp only [State.anyPinned, Bool.or_eq_true, List.contains_iff_mem, decide_eq_true_eq, List.any_eq_true, hstop, hjob,
        Bool.false_eq_true, or_false, not_or]
      exact ⟨⟨hfrozen, hroom⟩, hpins⟩
    · rw [State.pinAll_eq]
      rfl
  · refine OnlyPosts.trans ?_ (State.goOn_posts _ c)
    split
    · exact OnlyPosts.refl _ _
    · exact OnlyPosts.postOnce _ (.inl rfl)
end

/-! ### The start of a packet (09 R221, R222) -/

/-- A packet of n bytes v, to land at an address. -/
def packetAt (pkt a n v : Nat) (o : Option Nat) : Packet :=
  { pkt := pkt, line := a / 128, mask := (2 ^ (8 * n) - 1) * 2 ^ (a % 128 * 8), data := v % 2 ^ (8 * n) * 2 ^ (a % 128 * 8), remote := o }

theorem inExtent_off {r : Nat} (h : recBounds r = 0) (e : Int) (n : Nat) : inExtent r e n = some (0, n) := if_pos h

theorem State.sendPacket_at {z w : State} {c : Nat} {t : Transfer} {de : Int} {n a : Nat} {o : Option Nat} (hn : n ≠ 0) (hh : rqHandler t.req.rq = 0)
    (hplace : z.packetPlace c t.req (de + (0 : Nat)) n = (.at_ a o, w)) (v ts : Nat) : z.sendPacket c t de 0 n v ts =
      (w.modTransfer c t.req.chan t.req.id fun y => { y.pass with tc := max y.tc ts, flying := y.flying ++ [packetAt t.next a n v o] }).post
        (.copyPacketLanding c t.req.chan t.req.id t.next) := by
  rw [State.sendPacket, if_neg hn]
  simp only [Nat.sub_zero, hplace, hh]
  simp [packetAt, lineOf, ones]

theorem exec_copyPacketStart {s z w : State} {c : Nat} {t : Transfer} {se de : Int} {n v ts a : Nat} {o : Option Nat}
    (hnext : (s.core c).nextChan = some t) (hstop : (s.core c).csr.stopped = false) (hpacket : t.packet = (se, de, n)) (hn : n ≠ 0)
    (hsrc : recBounds t.req.src = 0) (hdst : recBounds t.req.dst = 0) (hh : rqHandler t.req.rq = 0)
    (hread : (s.modCore c fun k => { k with units := { k.units with lastChan := t.req.chan } }).readBytes c t.req.asid t.req.cls t.req.src t.req.t0
      (se + (0 : Nat)) n = .ok (v, ts, z))
    (hplace : z.packetPlace c t.req (de + (0 : Nat)) n = (.at_ a o, w)) : exec (.copyPacketStart c) s = .next
      (((w.modTransfer c t.req.chan t.req.id fun y => { y.pass with tc := max y.tc ts, flying := y.flying ++ [packetAt t.next a n v o] }).post
        (.copyPacketLanding c t.req.chan t.req.id t.next)).goOn c) := by
  have hbytes : (s.modCore c fun k => { k with units := { k.units with lastChan := t.req.chan } }).readPacket c t.req se n = .ok (v, ts, z) := by
    rw [State.readPacket, inExtent_off hsrc]
    dsimp only
    rw [if_neg hn, Nat.sub_zero, hread]
    simp
  change execCopyPacketStart c s = _
  rw [execCopyPacketStart, hnext]
  simp only [hstop, Bool.false_eq_true, if_false, hpacket, inExtent_off hdst, hbytes]
  rw [State.sendPacket_at hn hh hplace]

/-! ### The end of a core's only transfer (05 R118, R120) -/

theorem State.modCore_congr {s : State} {c : Nat} {f g : Core → Core} (h : f (s.core c) = g (s.core c)) : s.modCore c f = s.modCore c g :=
  congrArg (s.setCore c) h

theorem State.serve_none {s : State} {c n : Nat} (h : (s.core c).q.waiters = []) (fuel : Nat) : s.serve c n fuel = s := by
  cases fuel with
  | zero => rfl
  | succ k => simp [State.serve, CoreQueues.firstWaiter, h]

/-- A core with one more record in EVQ. -/
def Core.recorded (v : Word) (t : Nat) (k : Core) : Core := { k with q := { k.q with evq := k.q.evq ++ [(v, t)] } }.idleWake

theorem State.arrive_evq {s : State} {c : Nat} (hlen : (s.core c).q.evq.length < 32) (hheld : (s.core c).q.held = []) (hwait : (s.core c).q.waiters = [])
    (v : Word) (t : Nat) : s.arrive c 4 v t = s.modCore c (Core.recorded v t) := by
  have hroom : ((s.core c).q.hasRoom 4 && !((s.core c).q.held.any fun h => h.1 == 4)) = true := by
    rw [hheld]
    simpa [CoreQueues.hasRoom, CoreQueues.count, qdepthOf] using hlen
  refine (if_pos hroom).trans ?_
  refine (State.serve_none ?_ _).trans rfl
  rw [State.core_modCore_self]
  exact hwait

/-- The watermark of a channel past a transfer, and the core without it. -/
def Core.passed (ch id tc : Nat) (k : Core) : Core :=
  { k with units := { k.units with cpdone := Tab.set k.units.cpdone ch ((id + 1) % 2 ^ 48) 0,
                                   cpTc := Tab.put k.units.cpTc ch (max (Tab.getD k.units.cpTc ch 0) tc), transfers := [] } }.idleWake

theorem Core.advance_none {k : Core} (h : k.units.transfers = []) (ch fuel : Nat) : k.advance ch fuel = k := by
  cases fuel with
  | zero => rfl
  | succ n => simp [Core.advance, h]

theorem Core.advance_one {k : Core} {ch id : Nat} {t : Transfer} (ht : k.units.transfers = [t]) (hch : t.req.chan = ch) (hid : t.req.id = id)
    (hdone : t.done = true) (hheld : k.q.held = []) (hcp : k.cpdone ch = id) (fuel : Nat) : k.advance ch (fuel + 1) = k.passed ch id t.tc := by
  have hfind : k.units.transfers.find? (fun t => t.req.chan == ch && t.req.id == k.cpdone ch && t.done) = some t := by simp [ht, hch, hid, hdone, hcp]
  have hleft : k.units.transfers.filter (fun u => !(u.req.chan == ch && u.req.id == k.cpdone ch)) = [] := by simp [ht, hch, hid, hcp]
  rw [Core.advance]
  dsimp only
  rw [hfind]
  simp only [hheld, List.any_nil, Bool.false_eq_true, if_false]
  rw [hleft, Core.advance_none rfl, hcp]
  rfl

/-- A core with one transfer. -/
def State.withOnly (s : State) (c : Nat) (t : Transfer) : State := s.modCore c fun k => { k with units := { k.units with transfers := [t] } }

theorem State.core_withOnly (s : State) (c : Nat) (t : Transfer) :
    (s.withOnly c t).core c = { s.core c with units := { (s.core c).units with transfers := [t] } } := State.core_modCore_self ..

/-- A transfer that is complete. -/
def Transfer.over (t : Transfer) : Transfer := { t with done := true, wait := none, lines := [] }

/-- What the end of a core's only transfer leaves of the core. -/
def Core.completed (ch id : Nat) (t : Transfer) (k : Core) : Core :=
  (k.recorded (completionRecord 0 ch (t.status.getD 0) id) t.tc).passed ch id t.tc

/-- A core's only transfer, about to end: its record finds room in EVQ, and the watermark stands at it. -/
structure LastTransfer (s : State) (c ch id : Nat) (t : Transfer) : Prop where
  only : (s.core c).units.transfers = [t]
  ofChan : t.req.chan = ch
  ofId : t.req.id = id
  more : t.done = false
  unpinned : t.lines = []
  keeps : s.dropsFor (dieOf c) t.req.asid = false
  room : (s.core c).q.evq.length < 32
  held : (s.core c).q.held = []
  waiters : (s.core c).q.waiters = []
  mark : Tab.getD (s.core c).units.cpdone ch 0 = id

section
variable {s : State} {c ch id : Nat} {t : Transfer} (h : LastTransfer s c ch id t)
include h

theorem LastTransfer.is : t.is ch id = true := by simp [Transfer.is, h.ofChan, h.ofId]

theorem LastTransfer.find : (s.core c).units.transfers.find? (fun t => t.is ch id) = some t := by simp [h.only, h.is]

theorem LastTransfer.find_open : (s.core c).units.transfers.find? (fun t => t.is ch id && !t.done) = some t := by simp [h.only, h.is, h.more]

/-- A change of a core's only transfer. -/
theorem LastTransfer.modTransfer (f : Transfer → Transfer) :
    s.modTransfer c ch id f = s.withOnly c (f t) := by
  refine State.modCore_congr ?_
  have hmap : ((s.core c).units.transfers.map fun t => if t.is ch id then f t else t) = [f t] := by simp [h.only, h.is]
  rw [Core.modTransfer, hmap]

/-- The watermark passes a transfer whose record has entered EVQ. -/
theorem LastTransfer.advance (v : Word) (tc : Nat) {u : Transfer} (hch : u.req.chan = ch) (hid : u.req.id = id) (hdone : u.done = true) :
    ((s.withOnly c u).modCore c (Core.recorded v tc)).advance c ch =
      s.modCore c fun k => (k.recorded v tc).passed ch id u.tc := by
  rw [State.advance, State.withOnly, State.modCore_modCore, State.modCore_modCore]
  refine State.modCore_congr ?_
  exact Core.advance_one (k := Core.recorded v tc { s.core c with units := { (s.core c).units with transfers := [u] } })
    rfl hch hid hdone h.held h.mark 1

theorem State.finishTransfer_last (hrec : (rqEvent t.req.rq || t.status.getD 0 != 0) = true) : s.finishTransfer c ch id =
      if (s.core c).q.cpq.isEmpty then s.modCore c (Core.completed ch id t) else (s.modCore c (Core.completed ch id t)).postOnce (.copyAccept c) := by
  have hcore : (s.modCore c (Core.completed ch id t)).core c = (s.core c).completed ch id t := State.core_modCore_self ..
  have hidle : ((s.modCore c (Core.completed ch id t)).core c).units.transfers = [] := by rw [hcore]; rfl
  have hcpq : ((s.modCore c (Core.completed ch id t)).core c).q.cpq = (s.core c).q.cpq := by rw [hcore]; rfl
  have harrive := State.arrive_evq (s := s.withOnly c t.over) (c := c) (by rw [State.core_withOnly]; exact h.room)
    (by rw [State.core_withOnly]; exact h.held) (by rw [State.core_withOnly]; exact h.waiters) (completionRecord 0 ch (t.status.getD 0) id) t.tc
  have hend : (((s.withOnly c t.over).releasePins []).arrive c 4 (completionRecord 0 ch (t.status.getD 0) id) t.tc).advance c ch =
      s.modCore c (Core.completed ch id t) :=
    (congrArg (State.advance · c ch) harrive).trans (h.advance _ t.tc (u := t.over) h.ofChan h.ofId rfl)
  have hcond : ((rqEvent t.req.rq || t.status.getD 0 != 0) && !((s.withOnly c t.over).releasePins []).dropsFor (dieOf c) t.req.asid) = true := by
    rw [hrec]
    exact congrArg not h.keeps
  have hover : s.modTransfer c ch id (fun t => { t with done := true, wait := none, lines := [] }) = s.withOnly c t.over := h.modTransfer _
  unfold State.finishTransfer
  rw [h.find]
  dsimp only
  rw [if_neg (by simp [h.more]), h.unpinned, hover, if_pos hcond, hend, hcpq]
  split
  · exact State.goOn_idle hidle
  · refine State.goOn_idle ?_
    obtain ⟨n, hn, -⟩ := (s.modCore c (Core.completed ch id t)).postOnce_eq (.copyAccept c)
    rw [hn]
    exact hidle
end

/-- The core after a transfer's end. -/
theorem Core.completed_eq (k : Core) (ch id : Nat) (t : Transfer) : k.completed ch id t = { k with
    ctxs := (k.completed ch id t).ctxs
    q := { k.q with evq := k.q.evq ++ [(completionRecord 0 ch (t.status.getD 0) id, t.tc)] }
    units := { k.units with
      transfers := [], cpdone := Tab.set k.units.cpdone ch ((id + 1) % 2 ^ 48) 0
      cpTc := Tab.put k.units.cpTc ch (max (Tab.getD k.units.cpTc ch 0) t.tc) } } := rfl

theorem completionRecord_copy {id : Nat} (h : id < 2 ^ 48) (ch st : Nat) :
    completionRecord 0 ch st id = BitVec.ofNat 64 (ch * 2 ^ 58 + st * 2 ^ 48 + id) := by
  rw [completionRecord, Nat.mod_eq_of_lt h, Nat.zero_mul, Nat.zero_add]

/-- The core after the end of its only transfer, as the statement reads it. -/
theorem Core.completed_reads {k : Core} {ch id : Nat} {t : Transfer} (h : id < 2 ^ 48) : (k.completed ch id t).units.transfers = [] ∧
    Tab.getD (k.completed ch id t).units.cpdone ch 0 = (id + 1) % 2 ^ 48 ∧
    (k.completed ch id t).q = { k.q with evq := k.q.evq ++ [(BitVec.ofNat 64 (ch * 2 ^ 58 + t.status.getD 0 * 2 ^ 48 + id), t.tc)] } := by
  rw [Core.completed_eq, completionRecord_copy h]
  exact ⟨rfl, Tab.getD_set_self .., rfl⟩

/-- The package after the end of a core's only transfer. -/
theorem State.completed_only (s : State) (c : Nat) {ch id : Nat} (t : Transfer) (h : id < 2 ^ 48) :
    let u := (s.withOnly c t).modCore c (Core.completed ch id t)
    u = { s with cores := u.cores } ∧ (u.core c).units.transfers = [] ∧ Tab.getD (u.core c).units.cpdone ch 0 = (id + 1) % 2 ^ 48 ∧
      (u.core c).q = { (s.core c).q with
        evq := (s.core c).q.evq ++ [(BitVec.ofNat 64 (ch * 2 ^ 58 + t.status.getD 0 * 2 ^ 48 + id), t.tc)] } := by
  intro u
  obtain ⟨htransfers, hmark, hqueue⟩ := Core.completed_reads (k := (s.withOnly c t).core c) (ch := ch) (t := t) h
  have hcore : u.core c = ((s.withOnly c t).core c).completed ch id t := State.core_modCore_self ..
  have hq : ((s.withOnly c t).core c).q = (s.core c).q := by rw [State.core_withOnly]
  rw [hq] at hqueue
  exact ⟨rfl, by rw [hcore, htransfers], by rw [hcore, hmark], by rw [hcore, hqueue]⟩

/-! ### Landing (09 R222, R223) -/

theorem State.withOnly_withOnly (s : State) (c : Nat) (t u : Transfer) : (s.withOnly c t).withOnly c u = s.withOnly c u := State.modCore_modCore ..

section
variable {s : State} {c ch id : Nat} {t : Transfer} (h : LastTransfer s c ch id t)
include h

/-- The only transfer changed, but for what its end looks at. -/
theorem LastTransfer.withOnly {u : Transfer} (hreq : u.req = t.req) (hdone : u.done = false) (hlines : u.lines = []) :
    LastTransfer (s.withOnly c u) c ch id u where
  only := by rw [State.core_withOnly]
  ofChan := hreq ▸ h.ofChan
  ofId := hreq ▸ h.ofId
  more := hdone
  unpinned := hlines
  keeps := by rw [hreq]; exact h.keeps
  room := by rw [State.core_withOnly]; exact h.room
  held := by rw [State.core_withOnly]; exact h.held
  waiters := by rw [State.core_withOnly]; exact h.waiters
  mark := by rw [State.core_withOnly]; exact h.mark

/-- Memory and directories play no part in a transfer's end. -/
theorem LastTransfer.of_frame {w : State} (hw : w = { s with homes := w.homes, mem := w.mem, poison := w.poison }) : LastTransfer w c ch id t := by
  obtain ⟨hs, m, ps, rfl⟩ : ∃ hs m ps, w = { s with homes := hs, mem := m, poison := ps } := ⟨_, _, _, hw⟩
  exact ⟨h.only, h.ofChan, h.ofId, h.more, h.unpinned, h.keeps, h.room, h.held, h.waiters, h.mark⟩

/-- The packet in flight has landed or failed. -/
theorem LastTransfer.drop {p : Packet} (hp : t.flying = [p]) :
    s.modTransfer c ch id (fun t => { t with flying := t.flying.filter fun q => q.pkt != p.pkt }) = s.withOnly c { t with flying := [] } := by
  rw [h.modTransfer, hp]
  simp

/-- With no packet in flight a transfer that ends with a status other than ADDRSPACE is complete. -/
theorem LastTransfer.endTransfer (hp : t.flying = []) (hcpq : (s.core c).q.cpq = []) {st : Nat} (h0 : st ≠ 0) (h8 : st ≠ 8) :
    s.endTransfer c ch id st = (s.withOnly c { t with flying := [], status := some st }).modCore c
      (Core.completed ch id { t with flying := [], status := some st }) := by
  have hlast := h.withOnly (u := { t with flying := [], status := some st }) rfl h.more h.unpinned
  have hmod : s.modTransfer c ch id (fun t => { t with status := some st, flying := [] }) = s.withOnly c { t with flying := [], status := some st } :=
    h.modTransfer _
  have hempty : ((s.withOnly c { t with flying := [], status := some st }).core c).q.cpq.isEmpty = true := by
    rw [State.core_withOnly]; simp [hcpq]
  unfold State.endTransfer
  rw [h.find_open]
  dsimp only
  rw [hp, List.foldl_nil, hmod, if_neg h8, State.finishTransfer_last hlast (by simp [h0]), if_pos hempty]

/-- A transfer with its last packet landed is complete. -/
theorem LastTransfer.landed (hp : t.flying = []) (hrow : rqCount t.req.rq ≤ t.row) (hevent : rqEvent t.req.rq)
    (hcpq : (s.core c).q.cpq = []) (line : Nat) :
    ((s.endLine c ch id line).checkTransfer c ch id).goOn c = s.modCore c (Core.completed ch id t) := by
  have hmore : t.more = false := by simp [Transfer.more, hrow]
  have hline : s.endLine c ch id line = s := by
    rw [State.endLine, h.find_open]
    exact if_pos (by simp [h.unpinned])
  have hcheck : s.checkTransfer c ch id = s.modCore c (Core.completed ch id t) := by
    rw [State.checkTransfer, h.find_open]
    dsimp only
    rw [if_pos (by simp [hmore, hp]), State.finishTransfer_last h (by simp [hevent]), if_pos (by simp [hcpq])]
  rw [hline, hcheck]
  refine State.goOn_idle ?_
  rw [State.core_modCore_self]
  rfl

theorem exec_copyPacketLanding_failed {p : Packet} {pkt st : Nat} (hp : t.flying = [p]) (hpkt : p.pkt = pkt % 2 ^ 32)
    (hcpq : (s.core c).q.cpq = []) (hst : pkt / 2 ^ 32 = st) (h0 : st ≠ 0) (h8 : st ≠ 8) : exec (.copyPacketLanding c ch id pkt) s = .next
      ((s.withOnly c { t with flying := [], status := some st }).modCore c (Core.completed ch id { t with flying := [], status := some st })) := by
  have hlast := h.withOnly (u := { t with flying := [] }) rfl h.more h.unpinned
  have hempty : ((s.withOnly c { t with flying := [] }).core c).q.cpq = [] := by rw [State.core_withOnly]; exact hcpq
  have hflying : t.flying.find? (fun p => p.pkt == pkt % 2 ^ 32) = some p := by simp [hp, hpkt]
  change execCopyPacketLanding c ch id pkt s = _
  rw [execCopyPacketLanding, h.find_open]
  dsimp only
  rw [hflying]
  dsimp only
  rw [if_pos (by rw [hst]; simpa using h0), h.drop hp, hst, hlast.endTransfer rfl hempty h0 h8, State.withOnly_withOnly]

theorem exec_copyPacketLanding_last {w : State} {p : Packet} {pkt ts : Nat} (hp : t.flying = [p]) (hpkt : p.pkt = pkt % 2 ^ 32) (hlow : pkt < 2 ^ 32)
    (hcpq : (s.core c).q.cpq = []) (hrow : rqCount t.req.rq ≤ t.row) (hevent : rqEvent t.req.rq)
    (hremote : p.remote = none) (hmask : p.mask ≠ 0) (hwrite : s.engineWrite c p.line p.data p.mask t.req.t0 = (ts, w))
    (hw : w = { s with homes := w.homes, mem := w.mem, poison := w.poison }) : exec (.copyPacketLanding c ch id pkt) s = .next
      ((w.withOnly c { t with tc := max t.tc ts, flying := [] }).modCore c (Core.completed ch id { t with tc := max t.tc ts, flying := [] })) := by
  have hlast := h.of_frame hw
  have hmoved := hlast.withOnly (u := { t with tc := max t.tc ts }) rfl h.more h.unpinned
  have hdropped := hlast.withOnly (u := { t with tc := max t.tc ts, flying := [] }) rfl h.more h.unpinned
  have hcore : w.core c = s.core c := by rw [hw]; rfl
  have hflying : t.flying.find? (fun p => p.pkt == pkt % 2 ^ 32) = some p := by simp [hp, hpkt]
  have hland : s.landPacket c t p = w.withOnly c { t with tc := max t.tc ts } := by
    rw [State.landPacket, if_neg hmask, hwrite, h.ofChan, h.ofId]
    exact hlast.modTransfer _
  change execCopyPacketLanding c ch id pkt s = _
  rw [execCopyPacketLanding, h.find_open]
  dsimp only
  rw [hflying]
  dsimp only
  rw [hremote, if_neg (by simp; omega), if_neg (by simp), if_neg (by simp), hland, hmoved.drop hp, State.withOnly_withOnly,
    hdropped.landed rfl hrow hevent (by rw [State.core_withOnly, hcore]; exact hcpq)]
end

/-! ### Frozen channels (14 R322) -/

/-- A core with a channel open. -/
def Core.thawed (ch : Nat) (k : Core) : Core := { k with units := { k.units with frozen := k.units.frozen.filter (· != ch) } }

theorem State.thaw_posts (s : State) (c ch : Nat) : OnlyPosts (CopyWork c) (s.modCore c (Core.thawed ch)) (s.thaw c ch) :=
  (OnlyPosts.postOnce _ (.inl rfl)).trans (State.goOn_posts _ c)

theorem State.mem_net_thaw (s : State) (c ch : Nat) : .copyAccept c ∈ (s.thaw c ch).net := by
  obtain ⟨n, hn, hmem, -⟩ := (s.modCore c (Core.thawed ch)).postOnce_eq (.copyAccept c)
  refine State.mem_net_goOn ?_
  change _ ∈ ((s.modCore c (Core.thawed ch)).postOnce (.copyAccept c)).net
  rw [hn]
  exact hmem

theorem exec_channelFlush_open {s : State} {c ch : Nat} (h : ch ∉ (s.core c).units.frozen) : exec (.channelFlush c ch) s = .next s :=
  congrArg _ (if_pos (by simpa using h))

/-- A request that is flushed, as a transfer that ends with ADDRSPACE. -/
def flushed (r : CopyReq) : Transfer := { req := r, tc := r.t0, status := some 8 }

/-- A core with its one request of a channel taken out of CPQ, to end. -/
def Core.flushing (ch : Nat) (r : CopyReq) (k : Core) : Core :=
  { k with q := { k.q with cpq := k.q.cpq.filter fun e => e.chan != ch }, units := { k.units with transfers := [flushed r] } }

theorem exec_channelFlush_one {s : State} {c ch : Nat} {r : CopyReq} (hfrozen : ch ∈ (s.core c).units.frozen)
    (hone : (s.core c).q.cpq.filter (fun e => e.chan == ch) = [r]) (hnone : (s.core c).units.transfers = []) :
    exec (.channelFlush c ch) s = .next (((s.modCore c (Core.flushing ch r)).finishTransfer c ch r.id).thaw c ch) := by
  have hcore : { s.core c with q := { (s.core c).q with cpq := (s.core c).q.cpq.filter fun r => r.chan != ch }, units := { (s.core c).units with
      transfers := (s.core c).units.transfers ++ [r].map fun r => { req := r, tc := r.t0, status := some 0x08 } } } = (s.core c).flushing ch r := by
    rw [hnone]; rfl
  change execChannelFlush c ch s = _
  rw [execChannelFlush, if_neg (by simpa using hfrozen)]
  dsimp only
  rw [hone, List.foldl_cons, List.foldl_nil, State.modCore_congr (g := Core.flushing ch r) hcore]

/-- The end of a core's only transfer changes the core, and may look at CPQ again. -/
theorem State.finishTransfer_posts {s : State} {c ch id : Nat} {t : Transfer} (h : LastTransfer s c ch id t)
    (hrec : (rqEvent t.req.rq || t.status.getD 0 != 0) = true) :
    OnlyPosts (CopyWork c) (s.modCore c (Core.completed ch id t)) (s.finishTransfer c ch id) := by
  rw [State.finishTransfer_last h hrec]
  split
  · exact OnlyPosts.refl _ _
  · exact OnlyPosts.postOnce _ (.inl rfl)

/-- Messages do not stand in the way of a change of a core. -/
theorem OnlyPosts.modCore {P : Instr → Prop} {s t : State} (h : OnlyPosts P s t) (c : Nat) (f : Core → Core) :
    OnlyPosts P (s.modCore c f) (t.modCore c f) := by
  obtain ⟨hframe, hnew⟩ := h
  exact ⟨by rw [hframe]; rfl, hnew⟩

/-! ### The statement -/

/-- Settles O33: each instruction's outcome from its own lemma; a transfer's end from `State.finishTransfer_last`, the bytes that a packet
writes from `Memory.byte_maskedLine`. -/
theorem copiesRun : Obligations.CopiesRun := by
  unfold Obligations.CopiesRun
  refine ⟨⟨?accept, ?start, ?landing⟩, ?resume, ?flush⟩
  case accept =>
    intro s c r rest hq k full pinned
    refine ⟨exec_copyAccept_blocked hq, fun hfrozen hfull hpins hstop hjob => ?_⟩
    obtain ⟨u, hu, hposts⟩ := exec_copyAccept_open hq hfrozen hfull hpins hstop hjob
    obtain ⟨honly, hcore, hnew⟩ := hposts.onlyCore
    exact ⟨u, s.accepted c r, hu, honly, by rw [hcore]; rfl, by rw [hcore]; rfl, by rw [hcore]; rfl, s.accepted_eq c r, hnew⟩
  case start =>
    intro s z w c t se de n v ts a o hnext hstop s' hpacket hn hsrc hdst hh hread hplace
    let f := fun (y : Transfer) => { y.pass with tc := max y.tc ts, flying := y.flying ++ [packetAt t.next a n v o] }
    let i := Instr.copyPacketLanding c t.req.chan t.req.id t.next
    have hposts : OnlyPosts (fun j => j = i ∨ CopyWork c j) (w.modTransfer c t.req.chan t.req.id f)
        (((w.modTransfer c t.req.chan t.req.id f).post i).goOn c) :=
      (OnlyPosts.post _ (.inl rfl)).trans ((State.goOn_posts _ c).imp fun _ => .inr)
    obtain ⟨honly, hcore, -⟩ := hposts.onlyCore
    refine ⟨_, packetAt t.next a n v o, exec_copyPacketStart hnext hstop hpacket hn hsrc hdst hh hread hplace, ?_, honly, rfl, ?_, ?_⟩
    · rw [hposts.frame]
      rfl
    · rw [hcore]
      exact List.map_congr_left fun y _ => by simp [Transfer.is, f]
    · exact State.mem_net_goOn (List.mem_append_right _ (List.mem_singleton.mpr rfl))
  case landing =>
    intro s c ch id pkt t p k honly hch hid hdone hstatus hp hpkt hlines hkeeps hroom hheld hwait hcpq hmark hlt
    have h : LastTransfer s c ch id t := ⟨honly, hch, hid, hdone, hlines, hkeeps, hroom, hheld, hwait, hmark⟩
    constructor
    · intro e o n v hlow hrow hevent hremote hhome he hsnap hjoin hwf h1 hn hmask hdata hv ts
      have hmask0 : p.mask ≠ 0 := by
        have hpos := Nat.one_lt_two_pow (n := 8 * n) (by omega)
        rw [hmask]
        exact Nat.mul_ne_zero (by omega) (Nat.two_pow_pos _).ne'
      obtain ⟨w, hwrite, hframe, hmem, hentry⟩ := State.engineWrite_atHome hhome he hsnap hjoin c p.data p.mask t.req.t0
      obtain ⟨hend, htransfers, hdoneMark, hqueue⟩ := w.completed_only c (ch := ch) { t with tc := max t.tc ts, flying := [] } hlt
      have hcore : w.core c = s.core c := by rw [hframe]; rfl
      refine ⟨_, exec_copyPacketLanding_last h hp hpkt hlow hcpq hrow hevent hremote hmask0 hwrite hframe, ?_, fun b => ?_, hentry, htransfers, hdoneMark,
        ?_⟩
      · rw [hend, hframe]
      · refine (congrArg (Memory.byte · b) hmem).trans ?_
        rw [hmask, hdata]
        exact Memory.byte_maskedLine hwf p.line v o n hn b
      · rw [hqueue, hcore, hstatus, Option.getD_none, Nat.zero_mul, Nat.add_zero]
    · intro st hst h0 h8
      obtain ⟨hend, hrest⟩ := s.completed_only c (ch := ch) { t with flying := [], status := some st } hlt
      exact ⟨_, exec_copyPacketLanding_failed h hp hpkt hcpq hst h0 h8, hend, hrest⟩
  case resume =>
    intro s c ch
    obtain ⟨honly, hcore, hnew⟩ := (s.thaw_posts c ch).onlyCore
    refine ⟨_, rfl, honly, ?_, by rw [hcore]; rfl, by rw [hcore]; rfl, s.mem_net_thaw c ch⟩
    have hfilter : (s.core c).units.frozen.filter (· != ch) = (s.core c).units.frozen.filter (· ≠ ch) := List.filter_congr fun x _ => Bool.eq_iff_iff.mpr (by simp)
    rw [hcore, Core.thawed, hfilter]
  case flush =>
    intro s c ch r k
    refine ⟨exec_channelFlush_open, fun hfrozen hone hnone hkeeps hroom hheld hwait hmark hlt => ?_⟩
    have hchan : r.chan = ch := by
      have hr : r ∈ (s.core c).q.cpq.filter (fun e => e.chan == ch) := by rw [hone]; exact List.mem_singleton.mpr rfl
      simpa using (List.mem_filter.mp hr).2
    have hflushing : (s.modCore c (Core.flushing ch r)).core c = (s.core c).flushing ch r := State.core_modCore_self ..
    have h : LastTransfer (s.modCore c (Core.flushing ch r)) c ch r.id (flushed r) :=
      ⟨by rw [hflushing]; rfl, hchan, rfl, rfl, rfl, hkeeps, by rw [hflushing]; exact hroom, by rw [hflushing]; exact hheld,
        by rw [hflushing]; exact hwait, by rw [hflushing]; exact hmark⟩
    have hposts := ((State.finishTransfer_posts h (by simp [flushed])).modCore c (Core.thawed ch)).trans (State.thaw_posts _ c ch)
    rw [State.modCore_modCore, State.modCore_modCore] at hposts
    obtain ⟨honly, hcore, -⟩ := hposts.onlyCore
    obtain ⟨htransfers, hdoneMark, hqueue⟩ := Core.completed_reads (k := (s.core c).flushing ch r) (ch := ch) (t := flushed r) hlt
    refine ⟨_, exec_channelFlush_one hfrozen hone hnone, honly, ?_, ?_, State.mem_net_thaw _ c ch, ?_, ?_⟩ <;> rw [hcore]
    · simp [Core.thawed]
    · exact htransfers
    · exact hdoneMark
    · exact hqueue

end Sys2Proof.Machine
end

section
/-! PROOFS. Words and bundles (07 R150, R151, R157 to R171; O54, O56): the round trip of every word, read through its bytes, and the kind of
a bundle from the L, S and class bits of its two words. -/

namespace Sys2Proof.Laws

/-! ### The word of an instruction, and its bytes -/

/-- Every instruction's word decodes to it (07 R150, R157 to R170): word by word; an event has none. -/
theorem RoundTrip.all (i : Instr) : RoundTrip.Statement i := by
  cases i with
  | nop => exact RoundTrip.nop
  | ksync => exact RoundTrip.ksync
  | idle => exact RoundTrip.idle
  | endThread => exact RoundTrip.endThread
  | ret => exact RoundTrip.ret
  | jmpr a => exact RoundTrip.jmpr a
  | callr a => exact RoundTrip.callr a
  | forkr a => exact RoundTrip.forkr a
  | join a => exact RoundTrip.join a
  | rdw d a => exact RoundTrip.rdw d a
  | rdwc d a => exact RoundTrip.rdwc d a
  | trap a => exact RoundTrip.trap a
  | fenceb => exact RoundTrip.fenceb
  | snap a => exact RoundTrip.snap a
  | yield => exact RoundTrip.yield
  | waitx a c => exact RoundTrip.waitx_all a c
  | br off => exact RoundTrip.br off
  | beqz a off => exact RoundTrip.beqz a off
  | bnez a off => exact RoundTrip.bnez a off
  | bltz a off => exact RoundTrip.bltz a off
  | bgez a off => exact RoundTrip.bgez a off
  | bgtz a off => exact RoundTrip.bgtz a off
  | blez a off => exact RoundTrip.blez a off
  | bfull a off => exact RoundTrip.bfull a off
  | bempty a off => exact RoundTrip.bempty a off
  | jmp e d => exact RoundTrip.jmp e d
  | call e d => exact RoundTrip.call e d
  | fork e d => exact RoundTrip.fork e d
  | send a b => exact RoundTrip.send a b
  | sendu a b => exact RoundTrip.sendu a b
  | csrrd x c => exact RoundTrip.csrrd x c
  | csrwr x c => exact RoundTrip.csrwr x c
  | ldN x bf sz i => exact RoundTrip.ldN x bf sz i
  | ldS x bf sz i => exact RoundTrip.ldS x bf sz i
  | ldeN x bf sz i => exact RoundTrip.ldeN x bf sz i
  | ldeS x bf sz i => exact RoundTrip.ldeS x bf sz i
  | ldxN x bf sz i => exact RoundTrip.ldxN x bf sz i
  | ldxS x bf sz i => exact RoundTrip.ldxS x bf sz i
  | st x bf sz i => exact RoundTrip.st x bf sz i
  | ste x bf sz i => exact RoundTrip.ste x bf sz i
  | stx x bf sz i => exact RoundTrip.stx x bf sz i
  | aswap x bf i => exact RoundTrip.aswap x bf i
  | aadd x bf i => exact RoundTrip.aadd x bf i
  | aand x bf i => exact RoundTrip.aand x bf i
  | aor x bf i => exact RoundTrip.aor x bf i
  | axor x bf i => exact RoundTrip.axor x bf i
  | aminS64 x bf i => exact RoundTrip.aminS64 x bf i
  | amaxS64 x bf i => exact RoundTrip.amaxS64 x bf i
  | aminN64 x bf i => exact RoundTrip.aminN64 x bf i
  | amaxN64 x bf i => exact RoundTrip.amaxN64 x bf i
  | acas x bf i => exact RoundTrip.acas x bf i
  | aamaxF32 x bf i => exact RoundTrip.aamaxF32 x bf i
  | amaxswapF32 x bf i => exact RoundTrip.amaxswapF32 x bf i
  | bfld a bf => exact RoundTrip.bfld a bf
  | bfclr bf => exact RoundTrip.bfclr bf
  | cpy d a => exact RoundTrip.cpy d a
  | cpyNb d a => exact RoundTrip.cpyNb d a
  | vld sz m v bf i => exact RoundTrip.vld sz m v bf i
  | vst sz m v bf i => exact RoundTrip.vst sz m v bf i
  | vldpE2m1 m v bf i => exact RoundTrip.vldpE2m1 m v bf i
  | vldpE3m2 m v bf i => exact RoundTrip.vldpE3m2 m v bf i
  | vstpE2m1 m v bf i => exact RoundTrip.vstpE2m1 m v bf i
  | vstpE3m2 m v bf i => exact RoundTrip.vstpE3m2 m v bf i
  | qpackE4m3 vp bf i => exact RoundTrip.qpackE4m3 vp bf i
  | qpackE3m2 vp bf i => exact RoundTrip.qpackE3m2 vp bf i
  | qpackE2m1 vp bf i => exact RoundTrip.qpackE2m1 vp bf i
  | qpacki vp bf i => exact RoundTrip.qpacki vp bf i
  | accld t vq s => exact RoundTrip.accld t vq s
  | accst t vq s => exact RoundTrip.accst t vq s
  | drain t s => exact RoundTrip.drain t s
  | add d a b => exact RoundTrip.add d a b
  | sub d a b => exact RoundTrip.sub d a b
  | mul d a b => exact RoundTrip.mul d a b
  | mulhS64 d a b => exact RoundTrip.mulhS64 d a b
  | mulhN64 d a b => exact RoundTrip.mulhN64 d a b
  | and d a b => exact RoundTrip.and d a b
  | or d a b => exact RoundTrip.or d a b
  | xor d a b => exact RoundTrip.xor d a b
  | shl d a b => exact RoundTrip.shl d a b
  | shrN64 d a b => exact RoundTrip.shrN64 d a b
  | shrS64 d a b => exact RoundTrip.shrS64 d a b
  | sltS64 d a b => exact RoundTrip.sltS64 d a b
  | sltN64 d a b => exact RoundTrip.sltN64 d a b
  | seq d a b => exact RoundTrip.seq d a b
  | addi d a imm => exact RoundTrip.addi d a imm
  | shli d a n => exact RoundTrip.shli d a n
  | shriN64 d a n => exact RoundTrip.shriN64 d a n
  | shriS64 d a n => exact RoundTrip.shriS64 d a n
  | rotri d a n => exact RoundTrip.rotri d a n
  | li d imm => exact RoundTrip.li d imm
  | lis d imm => exact RoundTrip.lis d imm
  | bfx d a b => exact RoundTrip.bfx d a b
  | bfi d a b => exact RoundTrip.bfi d a b
  | mov d a => exact RoundTrip.mov d a
  | not d a => exact RoundTrip.not d a
  | neg d a => exact RoundTrip.neg d a
  | absS64 d a => exact RoundTrip.absS64 d a
  | popc d a => exact RoundTrip.popc d a
  | clz d a => exact RoundTrip.clz d a
  | ctz d a => exact RoundTrip.ctz d a
  | bswap d a => exact RoundTrip.bswap d a
  | brev d a => exact RoundTrip.brev d a
  | sextS8 d a => exact RoundTrip.sextS8 d a
  | sextS16 d a => exact RoundTrip.sextS16 d a
  | sextS32 d a => exact RoundTrip.sextS32 d a
  | zextN8 d a => exact RoundTrip.zextN8 d a
  | zextN16 d a => exact RoundTrip.zextN16 d a
  | zextN32 d a => exact RoundTrip.zextN32 d a
  | qmaxx d a => exact RoundTrip.qmaxx d a
  | qscaleE4m3 d a => exact RoundTrip.qscaleE4m3 d a
  | qscaleE3m2 d a => exact RoundTrip.qscaleE3m2 d a
  | qscaleE2m1 d a => exact RoundTrip.qscaleE2m1 d a
  | qscalei d a => exact RoundTrip.qscalei d a
  | vlq d => exact RoundTrip.vlq d
  | vlane d ty => exact RoundTrip.vlane_all d ty
  | vadd t m d a b => exact RoundTrip.vadd t m d a b
  | vsub t m d a b => exact RoundTrip.vsub t m d a b
  | vmul t m d a b => exact RoundTrip.vmul t m d a b
  | vfma t m d a b => exact RoundTrip.vfma t m d a b
  | vmin t m d a b => exact RoundTrip.vmin t m d a b
  | vmax t m d a b => exact RoundTrip.vmax t m d a b
  | vaddsat t m d a b => exact RoundTrip.vaddsat t m d a b
  | vsubsat t m d a b => exact RoundTrip.vsubsat t m d a b
  | vand t m d a b => exact RoundTrip.vand t m d a b
  | vor t m d a b => exact RoundTrip.vor t m d a b
  | vxor t m d a b => exact RoundTrip.vxor t m d a b
  | vandn t m d a b => exact RoundTrip.vandn t m d a b
  | vceq t m d a b => exact RoundTrip.vceq t m d a b
  | vclt t m d a b => exact RoundTrip.vclt t m d a b
  | vcle t m d a b => exact RoundTrip.vcle t m d a b
  | vcne t m d a b => exact RoundTrip.vcne t m d a b
  | vcvt dt st rm sat m vd va => exact RoundTrip.vcvt dt st rm sat m vd va
  | vbcast t m d s => exact RoundTrip.vbcast t m d s
  | vaddx t m d s => exact RoundTrip.vaddx t m d s
  | vmulx t m d s => exact RoundTrip.vmulx t m d s
  | vmaxx t m d s => exact RoundTrip.vmaxx t m d s
  | vrsum t m a d => exact RoundTrip.vrsum t m a d
  | vrmax t m a d => exact RoundTrip.vrmax t m a d
  | vrmin t m a d => exact RoundTrip.vrmin t m a d
  | vramax t m a d => exact RoundTrip.vramax t m a d
  | vcompress t m d a h => exact RoundTrip.vcompress t m d a h
  | vexpand t m d a h => exact RoundTrip.vexpand t m d a h
  | vrowmv t m d a w => exact RoundTrip.vrowmv t m d a w
  | vsel t m d a => exact RoundTrip.vsel t m d a
  | mand d a b => exact RoundTrip.mand d a b
  | mor d a b => exact RoundTrip.mor d a b
  | mxor d a b => exact RoundTrip.mxor d a b
  | mandn d a b => exact RoundTrip.mandn d a b
  | mnot d a => exact RoundTrip.mnot d a
  | mmov d a => exact RoundTrip.mmov d a
  | mpop a s => exact RoundTrip.mpop a s
  | mfrom d s => exact RoundTrip.mfrom d s
  | mtolo a s => exact RoundTrip.mtolo a s
  | mtohi a s => exact RoundTrip.mtohi a s
  | bound md t a b => exact RoundTrip.bound md t a b
  | pload d s => exact RoundTrip.pload d s
  | pcomp d a b => exact RoundTrip.pcomp d a b
  | pinv d a => exact RoundTrip.pinv d a
  | prand d s => exact RoundTrip.prand d s
  | pcompact d m s => exact RoundTrip.pcompact d m s
  | pcyc a k s => exact RoundTrip.pcyc a k s
  | pstore a s => exact RoundTrip.pstore a s
  | pidx a s => exact RoundTrip.pidx a s
  | _ => exact RoundTrip.of_event rfl

/-- The bytes of a word, read as a word again (00 R4). -/
theorem wordOfBytes_bytes {v : Nat} (hv : v < 2 ^ 32) :
    wordOfBytes (BitVec.ofNat 8 v) (BitVec.ofNat 8 (v / 256)) (BitVec.ofNat 8 (v / 65536)) (BitVec.ofNat 8 (v / 16777216)) = v := by
  simp only [wordOfBytes, BitVec.toNat_ofNat]
  omega

/-- The decoder on the bytes of a word is the decoder on the word, and leaves what follows. -/
theorem decodeBytes_bytesOfWord {v : Nat} {i : Instr} (hv : v < 2 ^ 32) (h : decode v = .ok i) (rest : List (BitVec 8)) :
    decodeBytes (bytesOfWord v ++ rest) = .ok (i, rest) := by
  simp only [bytesOfWord, List.cons_append, List.nil_append, decodeBytes, wordOfBytes_bytes hv, h]

theorem decodeTableWord_word {v : Nat} {i : Instr} (hv : v < 2 ^ 32) (h : decode v = .ok i) : decodeTableWord 32 v = some i := by
  have hb := decodeBytes_bytesOfWord hv h []
  rw [List.append_nil] at hb
  simp only [decodeTableWord, Nat.mod_eq_of_lt hv, hb, Nat.le_refl, if_true]

/-- A word with its L and S bits has 32 bits (07 R150). -/
theorem flags_lt (l m : Bool) {w : Nat} (hw : w < 2 ^ 30) : flags l m w < 2 ^ 32 := by
  have hl := RoundTrip.bool_lt l
  have hm := RoundTrip.bool_lt m
  simp only [flags]
  omega

theorem flags_false (w : Nat) : flags false false w = w := by simp [flags]

/-! ### Bundles (07 R151) -/

/-- The class of a word is its bit 29 (07 R150). -/
theorem isCWord_eq (w : Nat) : isCWord w = !w.testBit 29 := by
  have hf : fld w 29 1 = w / 2 ^ 29 % 2 := rfl
  rw [isCWord, hf, Nat.testBit_eq_decide_div_mod_eq]
  rcases Nat.mod_two_eq_zero_or_one (w / 2 ^ 29) with h | h <;> rw [h] <;> rfl

/-- The L bit is a word's highest. -/
theorem fld_lone {w : Nat} (h : w < 2 ^ 32) : fld w 31 1 = w / 2 ^ 31 := Nat.mod_eq_of_lt (by omega)

/-- A bundle holds word 0 in its low half and word 1 in its high half. -/
theorem decodeBundle_words {w0 w1 : Nat} (h0 : w0 < 2 ^ 32) (h1 : w1 < 2 ^ 32) : decodeBundle (w1 * 2 ^ 32 + w0) =
    if w0 / 2 ^ 31 = 0 then
      if w0.testBit 29 then .broken w0 else if w1.testBit 29 ∧ w1 / 2 ^ 30 = 0 then .paired w0 w1 else .broken w1
    else if w1 / 2 ^ 31 = 0 then .broken w1 else .lone w0 w1 := by
  have e0 : (w1 * 2 ^ 32 + w0) % 2 ^ 32 = w0 := by omega
  have e1 : (w1 * 2 ^ 32 + w0) / 2 ^ 32 % 2 ^ 32 = w1 := by omega
  have hword1 : (!w1.testBit 29 || decide (w1 / 2 ^ 31 = 1) || decide (fld w1 30 1 = 1)) = !decide (w1.testBit 29 ∧ w1 / 2 ^ 30 = 0) := by
    rw [Bool.eq_iff_iff]
    simp only [Bool.or_eq_true, Bool.not_eq_true', decide_eq_true_eq, decide_eq_false_iff_not, fld]
    cases w1.testBit 29
    · simp only [true_or, reduceCtorEq, false_and, not_false_eq_true]
    · simp only [reduceCtorEq, false_or, true_and]
      omega
  simp only [decodeBundle, e0, e1, isCWord_eq, fld_lone h0, fld_lone h1, hword1, Bool.not_not, Bool.not_eq_true', decide_eq_false_iff_not, ite_not]

end Sys2Proof.Laws

namespace Sys2Proof.Machine

open Sys2Proof.Laws

/-- Settles O54: the round trip of every word (`RoundTrip.all`), read through the word's bytes (`decodeBytes_bytesOfWord`). -/
theorem encodedWordsDecode : Obligations.EncodedWordsDecode := by
  unfold Obligations.EncodedWordsDecode
  intro i w hi
  obtain ⟨hw, hd⟩ := RoundTrip.all i w hi
  have hplain : decode w = .ok i := by rw [← flags_false w]; exact hd false false
  exact ⟨hw, decodeTableWord_word (by omega) hplain, fun l m rest => decodeBytes_bytesOfWord (flags_lt l m hw) (hd l m) rest⟩

/-- Settles O56: a bundle's kind by the L bit of word 0 and what each kind asks of its words; the spec's words by evaluation. -/
theorem specWordsDecode : Obligations.SpecWordsDecode := by
  unfold Obligations.SpecWordsDecode
  refine ⟨fun w0 w1 h0 h1 => ?_, by decide⟩
  dsimp only
  rw [decodeBundle_words h0 h1]
  refine ⟨fun h h' => ?lone, fun h h' => ?short, fun h hc ha hz => ?paired, fun h hbad => ?broken⟩
  case lone => rw [if_neg (by omega), if_neg (by omega)]
  case short => rw [if_neg (by omega), if_pos h']
  case paired => rw [if_pos h, if_neg (by simp [hc]), if_pos ⟨ha, hz⟩]
  case broken =>
    rw [if_pos h]
    split
    · exact ⟨w0, rfl⟩
    · next hc => exact ⟨w1, if_neg fun ⟨ha, hz⟩ => hbad.elim hc fun h1 => h1.elim (fun hn => by rw [ha] at hn; cases hn) fun hn => hn hz⟩

end Sys2Proof.Machine
end

section
/-! PROOFS. Words that decode (07 R157 to R170; O55): a decoder's answer, encoded, is the word's operand bits under its major opcode, so
nothing of the word is left unread; unassigned majors and reserved fields decode to nothing. -/

namespace Sys2Proof.Laws

/-! ### What a piece of a word that reads says of its bits -/

variable {w lo n : Nat}

theorem decOperand_eq {c : Nat} {o : Operand} (h : decOperand c = some o) : c = o.code := by
  unfold decOperand at h
  simp only [Bool.and_eq_true, decide_eq_true_eq, beq_iff_eq] at h
  repeat' split at h
  all_goals cases h
  all_goals simp only [Operand.code, Fin.val_ofNat]; omega

theorem decTy_eq {c : Nat} {t : Ty} (h : decTy c = some t) : c = t.code := by
  unfold decTy at h
  split at h <;> cases h <;> rfl

theorem decCyc_eq {c : Nat} {k : CycKind} (h : decCyc c = some k) : c = k.code := by
  unfold decCyc at h
  split at h <;> cases h <;> rfl

theorem opAt_eq_ok {o : Operand} : opAt w lo = .ok o ↔ fld w lo 8 = o.code := by
  refine ⟨fun h => ?_, opAt_code⟩
  unfold opAt at h
  split at h
  · next a ha => cases h; exact decOperand_eq ha
  · cases h

theorem gAt_eq_ok {a : Fin 128} : gAt w lo = .ok a ↔ fld w lo 8 = a.val := by
  refine ⟨fun h => ?_, gAt_code⟩
  unfold gAt at h
  split at h
  · next hlt => cases h; exact (Nat.mod_eq_of_lt hlt).symm
  · cases h

theorem tyAt_eq_ok {t : Ty} : tyAt w lo = .ok t ↔ fld w lo 4 = t.code := by
  refine ⟨fun h => ?_, tyAt_code⟩
  unfold tyAt at h
  split at h
  · next a ha => cases h; exact decTy_eq ha
  · cases h

theorem zeroAt_eq_ok {u : Unit} : zeroAt w lo n = .ok u ↔ fld w lo n = 0 := by
  unfold zeroAt
  split
  · next h => exact iff_of_true rfl h
  · next h => exact iff_of_false (fun h => nomatch h) h

theorem decRm_code_eq (w lo : Nat) : (decRm (fld w lo 2)).code = fld w lo 2 := by
  have h : fld w lo 2 < 4 := Nat.mod_lt _ (by decide)
  interval_cases fld w lo 2 <;> rfl

/-- What a decoder gives of a word, encoded, is the word's operand bits under a major opcode: every bit of them has been read. -/
def Rebuilds (w op : Nat) (d : Dec Instr) : Prop := ∀ i, d = .ok i → encode i = some (wd op (fld w 0 24))

namespace Rebuilds

variable {w lo n op : Nat}

theorem ok {i : Instr} {v : Nat} (hi : encode i = some v) (hv : v = wd op (fld w 0 24)) : Rebuilds w op (.ok i) := by
  rintro _ ⟨⟩
  rw [hi, hv]

theorem error {e : DecodeError} : Rebuilds w op (.error e) := fun _ h => nomatch h

theorem bind {α : Type} {x : Dec α} {f : α → Dec Instr} (h : ∀ a, x = .ok a → Rebuilds w op (f a)) : Rebuilds w op (x >>= f) := by
  cases x with
  | error e => exact error
  | ok a => exact h a rfl

theorem operand {f : Operand → Dec Instr} (h : ∀ o, fld w lo 8 = o.code → Rebuilds w op (f o)) : Rebuilds w op (opAt w lo >>= f) :=
  bind fun o ho => h o (opAt_eq_ok.mp ho)

theorem gOnly {f : Fin 128 → Dec Instr} (h : ∀ a : Fin 128, fld w lo 8 = a.val → Rebuilds w op (f a)) : Rebuilds w op (gAt w lo >>= f) :=
  bind fun a ha => h a (gAt_eq_ok.mp ha)

theorem type {f : Ty → Dec Instr} (h : ∀ t, fld w lo 4 = t.code → Rebuilds w op (f t)) : Rebuilds w op (tyAt w lo >>= f) :=
  bind fun t ht => h t (tyAt_eq_ok.mp ht)

theorem zero {f : Unit → Dec Instr} (h : fld w lo n = 0 → Rebuilds w op (f ())) : Rebuilds w op (zeroAt w lo n >>= f) :=
  bind fun _ hu => h (zeroAt_eq_ok.mp hu)

end Rebuilds

/-! ### The layouts (07 R157 to R170): the fields of a layout, each read at its place, make up the operand bits again -/

section Layouts

variable {w op d a b fn : Nat} {x i : Operand}

theorem finAt_val {n bits lo : Nat} [NeZero n] (h : n = 2 ^ bits) : (finAt n w lo bits).val = fld w lo bits := by
  subst h
  exact Nat.mod_mod _ _

theorem fld_two_cases (w lo : Nat) : fld w lo 2 = 0 ∨ fld w lo 2 = 1 ∨ fld w lo 2 = 2 ∨ fld w lo 2 = 3 := by
  have h : fld w lo 2 < 4 := Nat.mod_lt _ (by decide)
  omega

theorem fld_two_eq_three {w lo : Nat} (h0 : fld w lo 2 ≠ 0) (h1 : fld w lo 2 ≠ 1) (h2 : fld w lo 2 ≠ 2) : fld w lo 2 = 3 := by
  rcases fld_two_cases w lo with h | h | h | h
  · exact absurd h h0
  · exact absurd h h1
  · exact absurd h h2
  · exact h

theorem w3_eq (hd : fld w 16 8 = d) (ha : fld w 8 8 = a) (hb : fld w 0 8 = b) : w3 op d a b = wd op (fld w 0 24) := by
  simp only [w3, wd, fld] at *; omega

theorem w3_eq_short (h : fld w 8 16 = 0) (hb : fld w 0 8 = b) : w3 op 0 0 b = wd op (fld w 0 24) := by
  simp only [w3, wd, fld] at *; omega

theorem wM_eq (hx : fld w 16 8 = x.code) (hi : fld w 0 8 = i.code) : wM op x (finAt 64 w 10 6) (finAt 4 w 8 2) i = wd op (fld w 0 24) := by
  simp only [wM, Fin.val_ofNat, wd, fld] at *; omega

theorem wAT_eq (hx : fld w 16 8 = x.code) (hfn : fld w 12 4 = fn) (hi : fld w 0 8 = i.code) :
    wAT fn x (finAt 16 w 8 4) i = wd 0x10 (fld w 0 24) := by
  simp only [wAT, Fin.val_ofNat, wd, fld] at *; omega

theorem wB_eq (h0 : fld w 9 3 = 0) (hc : fld w 12 4 = fn) (ha : fld w 16 8 = a) : wB fn a (finAt 512 w 0 9) = wd 0x01 (fld w 0 24) := by
  simp only [wB, Fin.val_ofNat, wd, fld] at *; omega

theorem wJ_eq : wJ op (finAt 16 w 20 4) (BitVec.ofNat 20 (fld w 0 20)) = wd op (fld w 0 24) := by
  simp only [wJ, Fin.val_ofNat, BitVec.toNat_ofNat, wd, fld]; omega

theorem wVM_eq {m v : Nat} (hfn : fld w 22 2 = fn) (hm : fld w 19 3 = m) (hv : fld w 14 5 = v) (hi : fld w 0 8 = i.code) :
    wVM op fn m v (finAt 64 w 8 6) i = wd op (fld w 0 24) := by
  simp only [wVM, Fin.val_ofNat, wd, fld] at *; omega

theorem wMX_eq {v s : Nat} (h0 : fld w 8 5 = 0) (hfn : fld w 20 4 = fn) (hv : fld w 13 5 = v) (hs : fld w 0 8 = s) :
    wMX fn (finAt 4 w 18 2) v s = wd 0x17 (fld w 0 24) := by
  simp only [wMX, Fin.val_ofNat, wd, fld] at *; omega

theorem wV_eq {t : Ty} {vd va vb : Nat} (ht : fld w 20 4 = t.code) (hfn : fld w 18 2 = fn) (hd : fld w 10 5 = vd) (ha : fld w 5 5 = va)
    (hb : fld w 0 5 = vb) : wV op fn t (finAt 8 w 15 3) vd va vb = wd op (fld w 0 24) := by
  simp only [wV, Fin.val_ofNat, wd, fld] at *; omega

theorem wMK_eq {md ma mb s : Nat} (h0 : fld w 8 1 = 0) (hfn : fld w 18 6 = fn) (hd : fld w 15 3 = md) (ha : fld w 12 3 = ma) (hb : fld w 9 3 = mb)
    (hs : fld w 0 8 = s) : wMK fn md ma mb s = wd 0x3D (fld w 0 24) := by
  simp only [wMK, wd, fld] at *; omega

theorem wPM_eq {d a b s : Nat} (h0 : fld w 8 3 = 0) (hfn : fld w 20 4 = fn) (hd : fld w 17 3 = d) (ha : fld w 14 3 = a) (hb : fld w 11 3 = b)
    (hs : fld w 0 8 = s) : wPM fn d a b s = wd 0x3F (fld w 0 24) := by
  simp only [wPM, wd, fld] at *; omega

end Layouts

/-! ### The decoders, major by major. The arms of a decoder's match are named `h_1`, `h_2`, … in their order; arms with the same fields have
the same proof. -/

theorem rebuilds_decCtl : Rebuilds w 0x00 (decCtl w) := by
  unfold decCtl
  split
  case h_6 | h_7 | h_8 | h_9 | h_12 | h_14 | h_16 | h_17 | h_18 | h_19 => exact .zero fun hz => .operand fun a ha => .ok rfl (w3_eq hz ha ‹_›)
  case h_10 | h_11 => exact .operand fun d hd => .gOnly fun a ha => .ok rfl (w3_eq hd ha ‹_›)
  case h_20 => exact .error
  all_goals exact .zero fun hz => .ok rfl (w3_eq_short hz ‹_›)

theorem rebuilds_decBr : Rebuilds w 0x01 (decBr w) := by
  unfold decBr
  refine .zero fun h0 => ?_
  split
  case h_1 => exact .zero fun hz => .ok rfl (wB_eq h0 ‹_› hz)
  case h_8 | h_9 => exact .gOnly fun a ha => .ok rfl (wB_eq h0 ‹_› ha)
  case h_10 => exact .error
  all_goals exact .operand fun a ha => .ok rfl (wB_eq h0 ‹_› ha)

theorem rebuilds_decSend : Rebuilds w 0x05 (decSend w) := by
  unfold decSend
  split
  case h_3 => exact .error
  all_goals exact .operand fun a ha => .operand fun b hb => .ok rfl (w3_eq ha hb ‹_›)

theorem rebuilds_decCsr : Rebuilds w 0x06 (decCsr w) := by
  unfold decCsr
  split
  case h_3 => exact .error
  all_goals exact .operand fun x hx => .ok rfl (by simp only [BitVec.toNat_ofNat, wd, fld] at *; omega)

theorem rebuilds_decM {op : Nat} {mk : Operand → Fin 64 → Fin 4 → Operand → Instr} (hmk : ∀ x bf sz i, encode (mk x bf sz i) = some (wM op x bf sz i)) :
    Rebuilds w op (decM mk w) :=
  .operand fun _ hx => .operand fun _ hi => .ok (hmk ..) (wM_eq hx hi)

theorem rebuilds_decAtom : Rebuilds w 0x10 (decAtom w) := by
  unfold decAtom
  refine .operand fun _ hx => .operand fun _ hi => ?_
  dsimp only
  split
  case h_13 => exact .error
  all_goals exact .ok rfl (wAT_eq hx ‹_› hi)

theorem rebuilds_decBfl : Rebuilds w 0x11 (decBfl w) := by
  unfold decBfl
  refine .zero fun h0 => ?_
  split
  case h_1 => exact .operand fun a ha => .ok rfl (by simp only [Fin.val_ofNat, wd, fld] at *; omega)
  case h_2 => exact .zero fun hz => .ok rfl (by simp only [Fin.val_ofNat, wd, fld] at *; omega)
  case h_3 => exact .error

theorem rebuilds_decCpy : Rebuilds w 0x12 (decCpy w) := by
  unfold decCpy
  refine .zero fun h0 => .operand fun d hd => .gOnly fun a ha => ?_
  split
  all_goals exact .ok rfl (w3_eq hd ha (by simp only [fld] at *; omega))

theorem rebuilds_decVmem {op : Nat} {mk : Fin 4 → Fin 8 → Fin 32 → Fin 64 → Operand → Instr}
    (hmk : ∀ sz m v bf i, encode (mk sz m v bf i) = some (wVM op sz.val m.val v.val bf i)) : Rebuilds w op (decVmem mk w) :=
  .operand fun _ hi => .ok (hmk ..) (wVM_eq (finAt_val rfl).symm (finAt_val rfl).symm (finAt_val rfl).symm hi)

theorem rebuilds_decVldp : Rebuilds w 0x15 (decVldp w) := by
  unfold decVldp
  refine .operand fun _ hi => ?_
  rcases fld_two_cases w 22 with h | h | h | h
  all_goals simp only [h]; exact .ok rfl (wVM_eq h (finAt_val rfl).symm (finAt_val rfl).symm hi)

theorem rebuilds_decQpack : Rebuilds w 0x16 (decQpack w) := by
  unfold decQpack
  refine .zero fun hm => .zero fun hodd => .operand fun _ hi => ?_
  have hv : fld w 14 5 = (finAt 16 w 15 4).val * 2 := by simp only [Fin.val_ofNat, fld] at *; omega
  rcases fld_two_cases w 22 with h | h | h | h
  all_goals simp only [h]; exact .ok rfl (wVM_eq h hm hv hi)

theorem rebuilds_decMtx : Rebuilds w 0x17 (decMtx w) := by
  unfold decMtx
  refine .zero fun h0 => ?_
  split
  case h_4 => exact .error
  case h_3 => exact .zero fun hz => .gOnly fun s hs => .ok rfl (wMX_eq h0 ‹_› hz hs)
  all_goals exact .zero fun hz => .operand fun s hs => .ok rfl (wMX_eq h0 ‹_› (by simp only [Fin.val_ofNat, fld] at *; omega) hs)

/-- The C-class majors (07 R161). -/
theorem rebuilds_decC : Rebuilds w (fld w 24 6) (decC w) := by
  unfold decC
  split
  case h_25 => exact .error
  all_goals rw [‹fld w 24 6 = _›]
  case h_1 => exact rebuilds_decCtl
  case h_2 => exact rebuilds_decBr
  case h_3 | h_4 | h_5 => exact .ok rfl wJ_eq
  case h_6 => exact rebuilds_decSend
  case h_7 => exact rebuilds_decCsr
  case h_17 => exact rebuilds_decAtom
  case h_18 => exact rebuilds_decBfl
  case h_19 => exact rebuilds_decCpy
  case h_20 | h_21 => exact rebuilds_decVmem fun _ _ _ _ _ => rfl
  case h_22 => exact rebuilds_decVldp
  case h_23 => exact rebuilds_decQpack
  case h_24 => exact rebuilds_decMtx
  all_goals exact rebuilds_decM fun _ _ _ _ => rfl

theorem rebuilds_decT {op : Nat} {mk : Operand → Operand → Operand → Instr}
    (hmk : ∀ d a b, encode (mk d a b) = some (w3 op d.code a.code b.code)) : Rebuilds w op (decT mk w) :=
  .operand fun _ hd => .operand fun _ ha => .operand fun _ hb => .ok (hmk ..) (w3_eq hd ha hb)

theorem rebuilds_decShi : Rebuilds w 0x2F (decShi w) := by
  unfold decShi
  refine .operand fun d hd => .operand fun a ha => ?_
  rcases fld_two_cases w 6 with h | h | h | h
  all_goals simp only [h]; exact .ok rfl (w3_eq hd ha (by simp only [Fin.val_ofNat, fld] at *; omega))

/-- The VLANE codes of UN, 0x20 to 0x2F. -/
theorem rebuilds_decVlane (hfn : fld w 0 8 / 16 = 2) : Rebuilds w 0x34 (decVlane w) := by
  unfold decVlane
  exact .zero fun hz => .operand fun d hd => .type fun t ht => .ok rfl (w3_eq hd hz (by simp only [fld] at *; omega))

theorem rebuilds_decUn : Rebuilds w 0x34 (decUn w) := by
  unfold decUn
  split
  case h_21 => exact .zero fun hz => .operand fun d hd => .ok rfl (w3_eq hd hz ‹_›)
  case h_22 =>
    split
    case isTrue h => exact rebuilds_decVlane (by simpa using h)
    case isFalse => exact .error
  all_goals exact .operand fun d hd => .operand fun a ha => .ok rfl (w3_eq hd ha ‹_›)

theorem rebuilds_decV {op fn : Nat} {mk : Ty → Fin 8 → Fin 32 → Fin 32 → Fin 32 → Instr}
    (hmk : ∀ t m d a b, encode (mk t m d a b) = some (wV op fn t m d.val a.val b.val)) (hfn : fld w 18 2 = fn) : Rebuilds w op (decV mk w) :=
  .type fun _ ht => .ok (hmk ..) (wV_eq ht hfn (finAt_val rfl).symm (finAt_val rfl).symm (finAt_val rfl).symm)

theorem rebuilds_decVcmp {op fn : Nat} {mk : Ty → Fin 8 → Fin 8 → Fin 32 → Fin 32 → Instr}
    (hmk : ∀ t m d a b, encode (mk t m d a b) = some (wV op fn t m d.val a.val b.val)) (hfn : fld w 18 2 = fn) : Rebuilds w op (decVcmp mk w) :=
  .zero fun hz => .type fun _ ht => .ok (hmk ..) (wV_eq ht hfn (by simp only [Fin.val_ofNat, fld] at *; omega) (finAt_val rfl).symm (finAt_val rfl).symm)

/-- The layouts VX and VRD (10 R234, R237): an operand in the place of the sources. -/
theorem wVX_eq {op fn : Nat} {t : Ty} {o : Operand} (ht : fld w 20 4 = t.code) (hfn : fld w 18 2 = fn) (h0 : fld w 8 2 = 0) (ho : fld w 0 8 = o.code) :
    wd op (t.code * 2 ^ 20 + fn * 2 ^ 18 + (finAt 8 w 15 3).val * 2 ^ 15 + (finAt 32 w 10 5).val * 2 ^ 10 + o.code) = wd op (fld w 0 24) := by
  simp only [Fin.val_ofNat, wd, fld] at *; omega

theorem rebuilds_decVx {op fn : Nat} {mk : Ty → Fin 8 → Fin 32 → Operand → Instr}
    (hmk : ∀ t m v o, encode (mk t m v o) = some (wd op (t.code * 2 ^ 20 + fn * 2 ^ 18 + m.val * 2 ^ 15 + v.val * 2 ^ 10 + o.code)))
    (hfn : fld w 18 2 = fn) : Rebuilds w op (decVx mk w) :=
  .zero fun hz => .type fun _ ht => .operand fun _ ho => .ok (hmk ..) (wVX_eq ht hfn hz ho)

theorem rebuilds_decVred {op fn : Nat} {mk : Ty → Fin 8 → Fin 32 → Operand → Instr}
    (hmk : ∀ t m v o, encode (mk t m v o) = some (wd op (t.code * 2 ^ 20 + fn * 2 ^ 18 + m.val * 2 ^ 15 + v.val * 2 ^ 10 + o.code)))
    (hfn : fld w 18 2 = fn) : Rebuilds w op (decVec.decVred mk w) :=
  .zero fun hz => .type fun _ ht => .operand fun _ ho => .ok (hmk ..) (wVX_eq ht hfn hz ho)

/-- The element-wise vector majors (07 R168). -/
theorem rebuilds_decVec : Rebuilds w (fld w 24 6) (decVec w) := by
  unfold decVec
  split
  case h_25 => exact .error
  all_goals rw [‹fld w 24 6 = _›]
  case h_1 | h_2 | h_3 | h_5 | h_6 | h_7 | h_9 | h_10 | h_11 => exact rebuilds_decV (fun _ _ _ _ _ => rfl) ‹_›
  case h_4 | h_8 | h_12 => exact rebuilds_decV (fun _ _ _ _ _ => rfl) (fld_two_eq_three ‹_› ‹_› ‹_›)
  case h_13 | h_14 | h_15 => exact rebuilds_decVcmp (fun _ _ _ _ _ => rfl) ‹_›
  case h_16 => exact rebuilds_decVcmp (fun _ _ _ _ _ => rfl) (fld_two_eq_three ‹_› ‹_› ‹_›)
  case h_17 | h_18 | h_19 => exact rebuilds_decVx (fun _ _ _ _ => rfl) ‹_›
  case h_20 => exact rebuilds_decVx (fun _ _ _ _ => rfl) (fld_two_eq_three ‹_› ‹_› ‹_›)
  case h_21 | h_22 | h_23 => exact rebuilds_decVred (fun _ _ _ _ => rfl) ‹_›
  case h_24 => exact rebuilds_decVred (fun _ _ _ _ => rfl) (fld_two_eq_three ‹_› ‹_› ‹_›)

theorem rebuilds_decVpk : Rebuilds w 0x3C (decVpk w) := by
  unfold decVpk
  refine .type fun t ht => ?_
  dsimp only
  split
  case h_1 | h_2 =>
    exact .zero fun hz => .ok rfl (wV_eq ht ‹_› (finAt_val rfl).symm (finAt_val rfl).symm (by simp only [Fin.val_ofNat, fld] at *; omega))
  case h_3 => exact .zero fun hz => .ok rfl (wV_eq ht ‹_› (finAt_val rfl).symm (finAt_val rfl).symm (by simp only [Fin.val_ofNat, fld] at *; omega))
  case h_4 => exact .zero fun hz => .ok rfl (wV_eq ht (fld_two_eq_three ‹_› ‹_› ‹_›) (finAt_val rfl).symm (finAt_val rfl).symm hz)

theorem rebuilds_decMk : Rebuilds w 0x3D (decMk w) := by
  unfold decMk
  refine .zero fun h0 => ?_
  dsimp only
  split
  case h_5 | h_6 => exact .zero fun hs => .zero fun hb => .ok rfl (wMK_eq h0 ‹_› (finAt_val rfl).symm (finAt_val rfl).symm hb hs)
  case h_7 | h_9 | h_10 => exact .zero fun hd => .zero fun hb => .operand fun s hs => .ok rfl (wMK_eq h0 ‹_› hd (finAt_val rfl).symm hb hs)
  case h_8 =>
    exact .zero fun hab => .operand fun s hs => .ok rfl (wMK_eq h0 ‹_› (finAt_val rfl).symm (by simp only [fld] at *; omega) (by simp only [fld] at *; omega) hs)
  case h_11 => exact .error
  all_goals exact .zero fun hs => .ok rfl (wMK_eq h0 ‹_› (finAt_val rfl).symm (finAt_val rfl).symm (finAt_val rfl).symm hs)

theorem rebuilds_decBound : Rebuilds w 0x3E (decBound w) :=
  .zero fun hz => .type fun t ht => .operand fun a ha => .operand fun b hb => .ok rfl (by simp only [Fin.val_ofNat, wd, fld] at *; omega)

theorem rebuilds_decPcyc (h0 : fld w 8 3 = 0) (hfn : fld w 20 4 = 5) : Rebuilds w 0x3F (decPcyc w) := by
  unfold decPcyc
  refine .zero fun hz => ?_
  split
  case h_1 k hk => exact .operand fun s hs => .ok rfl (wPM_eq h0 hfn hz (finAt_val rfl).symm (decCyc_eq hk) hs)
  case h_2 => exact .error

theorem rebuilds_decPerm : Rebuilds w 0x3F (decPerm w) := by
  unfold decPerm
  refine .zero fun h0 => ?_
  dsimp only
  have hab (h : fld w 11 6 = 0) : fld w 14 3 = 0 ∧ fld w 11 3 = 0 := by simp only [fld] at *; omega
  split
  case h_1 => exact .zero fun hz => .operand fun s hs => .ok rfl (wPM_eq h0 ‹_› (finAt_val rfl).symm (hab hz).1 (hab hz).2 hs)
  case h_2 => exact .zero fun hs => .ok rfl (wPM_eq h0 ‹_› (finAt_val rfl).symm (finAt_val rfl).symm (finAt_val rfl).symm hs)
  case h_3 => exact .zero fun hs => .zero fun hb => .ok rfl (wPM_eq h0 ‹_› (finAt_val rfl).symm (finAt_val rfl).symm hb hs)
  case h_4 => exact .zero fun hz => .gOnly fun s hs => .ok rfl (wPM_eq h0 ‹_› (finAt_val rfl).symm (hab hz).1 (hab hz).2 hs)
  case h_5 => exact .zero fun hb => .operand fun s hs => .ok rfl (wPM_eq h0 ‹_› (finAt_val rfl).symm (finAt_val rfl).symm hb hs)
  case h_6 => exact rebuilds_decPcyc h0 ‹_›
  case h_7 | h_8 => exact .zero fun hd => .zero fun hb => .operand fun s hs => .ok rfl (wPM_eq h0 ‹_› hd (finAt_val rfl).symm hb hs)
  case h_9 => exact .error

theorem bool_toNat (w lo : Nat) : (fld w lo 1 == 1).toNat = fld w lo 1 := by
  rcases Nat.mod_two_eq_zero_or_one (w / 2 ^ lo) with h | h <;> simp only [fld, pow_one, h] <;> rfl

/-- VCVT (10 R235). -/
theorem wCVT_eq {dt st : Ty} (hdt : fld w 20 4 = dt.code) (hst : fld w 16 4 = st.code) :
    wd 0x39 (dt.code * 2 ^ 20 + st.code * 2 ^ 16 + (decRm (fld w 14 2)).code * 2 ^ 14 + (fld w 13 1 == 1).toNat * 2 ^ 13
      + (finAt 8 w 10 3).val * 2 ^ 10 + (finAt 32 w 5 5).val * 2 ^ 5 + (finAt 32 w 0 5).val) = wd 0x39 (fld w 0 24) := by
  rw [decRm_code_eq, bool_toNat]
  simp only [Fin.val_ofNat, wd, fld] at *; omega

/-- The A-class majors (07 R162). -/
theorem rebuilds_decA : Rebuilds w (fld w 24 6) (decA w) := by
  unfold decA
  split
  case h_27 => exact rebuilds_decVec
  all_goals rw [‹fld w 24 6 = _›]
  case h_15 => exact .operand fun d hd => .operand fun a ha => .ok rfl (w3_eq hd ha (by simp only [BitVec.toNat_ofNat, fld] at *; omega))
  case h_16 => exact rebuilds_decShi
  case h_17 | h_18 => exact .operand fun d hd => .ok rfl (by simp only [BitVec.toNat_ofNat, wd, fld] at *; omega)
  case h_21 => exact rebuilds_decUn
  case h_22 => exact .type fun dt hdt => .type fun st hst => .ok rfl (wCVT_eq hdt hst)
  case h_23 => exact rebuilds_decVpk
  case h_24 => exact rebuilds_decMk
  case h_25 => exact rebuilds_decBound
  case h_26 => exact rebuilds_decPerm
  all_goals exact rebuilds_decT fun _ _ _ => rfl

/-- What decodes is the instruction of the word without its L and S bits. -/
theorem rebuilds_decode : Rebuilds w (fld w 24 6) (decode w) := by
  unfold decode
  split
  · exact rebuilds_decC
  · exact rebuilds_decA

theorem wd_fld (hw : w < 2 ^ 30) : wd (fld w 24 6) (fld w 0 24) = w := by simp only [wd, fld]; omega

/-! ### Words that decode to nothing -/

theorem decode_cClass (h : fld w 24 6 < 0x20) : decode w = decC w := if_pos (by simp only [fld] at *; omega)

theorem decode_aClass (h : 0x20 ≤ fld w 24 6) : decode w = decA w := if_neg (by simp only [fld] at *; omega)

theorem decC_unassigned (h : 0x18 ≤ fld w 24 6) : decC w = .error .unassignedMajor := by
  unfold decC
  split
  case h_25 => rfl
  all_goals omega

theorem zeroAt_error (h : fld w lo n ≠ 0) : zeroAt w lo n = .error .reservedField := if_neg h

theorem decBr_reserved (h : fld w 9 3 ≠ 0) : decBr w = .error .reservedField := by rw [decBr, zeroAt_error h]; rfl

theorem decMtx_reserved (h : fld w 8 5 ≠ 0) : decMtx w = .error .reservedField := by rw [decMtx, zeroAt_error h]; rfl

theorem decPerm_reserved (h : fld w 8 3 ≠ 0) : decPerm w = .error .reservedField := by rw [decPerm, zeroAt_error h]; rfl

theorem decode_br (h : fld w 24 6 = 0x01) : decode w = decBr w := by
  rw [decode_cClass (by omega)]
  simp only [decC, h]

theorem decode_mtx (h : fld w 24 6 = 0x17) : decode w = decMtx w := by
  rw [decode_cClass (by omega)]
  simp only [decC, h]

theorem decode_perm (h : fld w 24 6 = 0x3F) : decode w = decPerm w := by
  rw [decode_aClass (by omega)]
  simp only [decA, h]

end Sys2Proof.Laws

namespace Sys2Proof.Machine

open Sys2Proof.Laws

/-- Settles O55: a word that decodes is put together again from its fields (`rebuilds_decode`); what is unassigned or reserved is an error of its major's decoder. -/
theorem wordsHaveOneMeaning : Obligations.WordsHaveOneMeaning := by
  unfold Obligations.WordsHaveOneMeaning
  refine ⟨fun w i hw h => ?_, fun w h1 h2 => ?_, fun w hmaj h => ?_, fun w hmaj h => ?_, fun w hmaj h => ?_⟩
  · rw [rebuilds_decode i h, wd_fld hw]
  · exact ⟨_, (decode_cClass (Nat.lt_succ_of_le h2)).trans (decC_unassigned h1)⟩
  · exact ⟨_, (decode_br hmaj).trans (decBr_reserved h)⟩
  · exact ⟨_, (decode_mtx hmaj).trans (decMtx_reserved h)⟩
  · exact ⟨_, (decode_perm hmaj).trans (decPerm_reserved h)⟩

end Sys2Proof.Machine
end

section
/-! PROOFS. The fault record (14 R320): numbers read where one was written, and what entering a record leaves of the jobs and of memory. -/

namespace Sys2Proof.Machine

/-! ### Numbers read where one was written (00 R4) -/

theorem Memory.read_append (l m : Memory) (a n : Nat) : Memory.read (l ++ m) a n = Memory.read l a n + Memory.read m a n := by
  simp only [Memory.read, List.filter_append, List.foldl_append]
  exact Memory.foldl_add _ _ _

theorem Memory.read_outside {m : Memory} {a n : Nat} (h : ∀ c ∈ m, c.1 < a ∨ a + n ≤ c.1) : m.read a n = 0 := by
  have hnil : m.filter (fun c => a ≤ c.1 && c.1 < a + n) = [] :=
    List.filter_eq_nil_iff.mpr fun c hc => by have := h c hc; simp; omega
  rw [Memory.read, hnil, List.foldl_nil]

theorem Memory.read_filter {m : Memory} {p : Nat → Bool} {a n : Nat} (h : ∀ b, a ≤ b → b < a + n → p b) :
    Memory.read (m.filter fun c => p c.1) a n = m.read a n := by
  rw [Memory.read, Memory.read, List.filter_filter]
  congr 1
  refine List.filter_congr fun c _ => ?_
  by_cases hc : a ≤ c.1 ∧ c.1 < a + n
  · simp [hc, h c.1 hc.1 hc.2]
  · rcases not_and_or.mp hc with hc | hc <;> simp [hc]

theorem sum_bytes (v n : Nat) : ∑ i ∈ Finset.range n, v / 256 ^ i % 256 * 256 ^ i = v % 256 ^ n := by
  induction n with
  | zero => simp [Nat.mod_one]
  | succ n ih => rw [Finset.sum_range_succ, ih, Nat.mod_pow_succ, Nat.mul_comm (256 ^ n)]

theorem Memory.read_cellsOf (a n v : Nat) : Memory.read (cellsOf a n v) a n = v % 256 ^ n := by
  rw [Memory.read_sum (cellsOf_wf a n v), ← sum_bytes v n]
  refine Finset.sum_congr rfl fun i hi => ?_
  rw [cellsOf_byte a n v i (Finset.mem_range.mp hi), BitVec.toNat_ofNat]

/-- The number read where one was written. -/
theorem Memory.read_write_same (m : Memory) (a n v : Nat) : (m.write a n v).read a n = v % 256 ^ n := by
  rw [Memory.write, Memory.read_append, Memory.read_append, Memory.read_cellsOf, Memory.read_outside, Memory.read_outside, Nat.zero_add, Nat.add_zero]
  · exact fun c hc => .inr (by simpa using (List.mem_filter.mp hc).2)
  · exact fun c hc => .inl (by simpa using (List.mem_filter.mp hc).2)

/-- A write elsewhere leaves what is read. -/
theorem Memory.read_write_apart {m : Memory} {a n b k : Nat} (v : Nat) (h : a + n ≤ b ∨ b + k ≤ a) : (m.write b k v).read a n = m.read a n := by
  have hcells : Memory.read (cellsOf b k v) a n = 0 := Memory.read_outside fun c hc => by
    obtain ⟨h1, h2, -⟩ := cellsOf_mem hc
    omega
  rw [Memory.write, Memory.read_append, Memory.read_append, hcells, Nat.zero_add]
  rcases h with h | h
  · rw [Memory.read_filter (p := fun x => x < b), Memory.read_outside (m := m.filter fun c => b + k ≤ c.1), Nat.add_zero]
    · exact fun c hc => .inr (by have := (List.mem_filter.mp hc).2; simp at this; omega)
    · exact fun x _ hx => by simp; omega
  · rw [Memory.read_filter (p := fun x => b + k ≤ x), Memory.read_outside (m := m.filter fun c => c.1 < b), Nat.zero_add]
    · exact fun c hc => .inl (by have := (List.mem_filter.mp hc).2; simp at this; omega)
    · exact fun x hx _ => by simp; omega

/-! ### The fault record (14 R320) -/

theorem Memory.read_write_double (m : Memory) (a v : Nat) : (m.write a 8 v).read a 8 = v % 2 ^ 64 := Memory.read_write_same m a 8 v

/-- Memory with a record's doubles at `a`, and the head of its ring at `p`. -/
def ringImage (m : Memory) (a p log2ring written : Nat) (r : FaultRec) : Memory :=
  (((((m.write a 8 r.d0).write (a + 8) 8 r.d1).write (a + 16) 8 r.d2).write (a + 24) 8 r.d3).write p 8 log2ring).write (p + 8) 8 (written + 1)

section RingImage

variable (m : Memory) {a p : Nat} (log2ring written : Nat) (r : FaultRec)

theorem ringImage_record (h : p + 16 ≤ a) :
    let u := ringImage m a p log2ring written r
    u.read a 8 = r.d0 % 2 ^ 64 ∧ u.read (a + 8) 8 = r.d1 % 2 ^ 64 ∧ u.read (a + 16) 8 = r.d2 % 2 ^ 64 ∧ u.read (a + 24) 8 = r.d3 % 2 ^ 64 := by
  intro u
  have hhead {b : Nat} (hb : a ≤ b) : u.read b 8 =
      Memory.read ((((m.write a 8 r.d0).write (a + 8) 8 r.d1).write (a + 16) 8 r.d2).write (a + 24) 8 r.d3) b 8 := by
    simp only [u, ringImage]
    rw [Memory.read_write_apart _ (by omega), Memory.read_write_apart _ (by omega)]
  refine ⟨?_, ?_, ?_, ?_⟩
  · rw [hhead (by omega), Memory.read_write_apart _ (by omega), Memory.read_write_apart _ (by omega), Memory.read_write_apart _ (by omega),
      Memory.read_write_double]
  · rw [hhead (by omega), Memory.read_write_apart _ (by omega), Memory.read_write_apart _ (by omega), Memory.read_write_double]
  · rw [hhead (by omega), Memory.read_write_apart _ (by omega), Memory.read_write_double]
  · rw [hhead (by omega), Memory.read_write_double]

theorem ringImage_head :
    let u := ringImage m a p log2ring written r
    u.read p 8 = log2ring % 2 ^ 64 ∧ u.read (p + 8) 8 = (written + 1) % 2 ^ 64 := by
  refine ⟨?_, Memory.read_write_double ..⟩
  rw [ringImage, Memory.read_write_apart _ (by omega), Memory.read_write_double]

theorem ringImage_byte (b : Nat) (ha : b < a ∨ a + 32 ≤ b) (hp : b < p ∨ p + 16 ≤ b) : (ringImage m a p log2ring written r).byte b = m.byte b := by
  simp only [ringImage, Memory.byte_write]
  repeat' rw [if_neg (by omega)]

end RingImage

/-- What entering a record does to a job that there is. -/
theorem State.record_eq {s : State} {num : Nat} {j : Job} (hj : s.job num = some j) (r : FaultRec) :
    s.record num r = { s.modJob num fun j => j.recorded r with mem := match s.ozineAddr 0 (j.asids.headD 0) j.ring with
      | some p => ringImage s.mem (p + 64 + 32 * (j.written % 2 ^ j.log2ring)) p j.log2ring j.written r
      | none => s.mem } := by
  simp only [State.record, hj]
  cases h : s.ozineAddr 0 (j.asids.headD 0) j.ring with
  | none =>
    rw [show ∀ f, (s.modJob num f).ozineAddr 0 (j.asids.headD 0) j.ring = none from fun _ => h]
    rfl
  | some p =>
    rw [show ∀ f, (s.modJob num f).ozineAddr 0 (j.asids.headD 0) j.ring = some p from fun _ => h]
    rfl

/-- A step whose jobs and memory are as the record's entry leaves them has entered the record. -/
theorem Recorded.of_recordFor {s u : State} {asid : Nat} {r : FaultRec} (hjobs : u.jobs = (s.recordFor asid r).jobs)
    (hmem : u.mem = (s.recordFor asid r).mem) : Recorded s u asid r where
  entry j hasid hj := by
    rw [State.recordFor, hasid] at hjobs
    dsimp only at hjobs
    rw [State.record_eq hj] at hjobs
    rw [State.job, hjobs]
    exact State.job_modJob (f := fun j => j.recorded r) hj fun x => ⟨rfl, rfl⟩
  ring j p hasid hj hp := by
    rw [State.recordFor, hasid] at hmem
    dsimp only at hmem
    rw [State.record_eq hj, hp] at hmem
    dsimp only at hmem ⊢
    rw [hmem]
    obtain ⟨h0, h1, h2, h3⟩ := ringImage_record s.mem (a := p + 64 + 32 * (j.written % 2 ^ j.log2ring)) (p := p) j.log2ring j.written r (by omega)
    obtain ⟨hlog, hwritten⟩ := ringImage_head s.mem (a := p + 64 + 32 * (j.written % 2 ^ j.log2ring)) (p := p) j.log2ring j.written r
    exact ⟨h0, h1, h2, h3, hlog, hwritten, ringImage_byte s.mem j.log2ring j.written r⟩
  none hasid := by
    rw [State.recordFor, hasid] at hjobs hmem
    exact ⟨hjobs, hmem⟩

/-- A record changes the jobs and memory alone. -/
theorem State.recordFor_frame (s : State) (asid : Nat) (r : FaultRec) :
    s.recordFor asid r = { s with jobs := (s.recordFor asid r).jobs, mem := (s.recordFor asid r).mem } := by
  simp only [State.recordFor, State.record]
  (repeat' split) <;> rfl

/-- What stands in the cores does not matter to a record. -/
theorem State.recordFor_cores (s : State) (cores : Tab Core) (asid : Nat) (r : FaultRec) :
    ({ s with cores := cores } : State).recordFor asid r = { s.recordFor asid r with cores := cores } := by
  have hjob (n : Nat) : ({ s with cores := cores } : State).job n = s.job n := rfl
  have haddr (n : Nat) (f : Job → Job) (d a v : Nat) :
    (State.modJob { s with cores := cores } n f).ozineAddr d a v = (s.modJob n f).ozineAddr d a v := rfl
  simp only [State.recordFor, State.record, hjob, haddr]
  cases h : s.jobOf asid with
  | none =>
    simp only [show ({ s with cores := cores } : State).jobOf asid = none from h]
  | some j =>
    simp only [show ({ s with cores := cores } : State).jobOf asid = some j from h]
    (repeat' split) <;> rfl

end Sys2Proof.Machine
end

section
/-! PROOFS. Faults taken (14 R316 to R318, R320, R333): the contexts that freeze, the record, what is posted, and the porter's fault. -/

namespace Sys2Proof.Machine

/-! ### A thread takes a fault (14 R316 to R318) -/

/-- What Ozine is told of a fault: with the job's policy 0, to end the job. -/
def State.faultStops (s : State) (asid : Nat) : List Instr :=
  match s.jobOf asid with
  | some j => if j.policy = 0 then [.stop { die := 0, queue := 64, d := [BitVec.ofNat 64 (2 * 2 ^ 56 + asid), 0] }] else []
  | none => []

/-- The kill of a core that a fault of bad parity, or a mismatch of a pair, brings (14 R324, R326). -/
def faultKills (c code : Nat) (origin : Bool) : List Instr :=
  if code = fcParity ∨ origin then [.coreKill c 1] else if code = fcMismatch then [.coreKill c 3] else []

/-- The contexts that a thread's fault freezes: its own and its partner's; it leaves its gang. -/
def State.freeze (s : State) (c slot code : Nat) (second : Bool) : State :=
  let x := s.ctx c slot
  let s := s.modCtx c slot fun x => x.takeFault code second
  let s := match x.pair with
    | some p => s.modCtx c p fun y => { y.takeFault code second with faddr := pa x.pc.blk x.pc.off }
    | none => s
  s.modCore c fun k => k.leaveGang slot

/-- The record of a thread's fault (14 R320). -/
def State.faultRecord (s : State) (c slot code detail : Nat) (second : Bool) : FaultRec :=
  let x := s.ctx c slot
  faultRec 0 x.asid (s.tid c slot) ((code + (if second then 256 else 0)) * 2 ^ 48 + pa x.pc.blk x.pc.off) detail x.pt

theorem State.freeze_cores (s : State) (c slot code : Nat) (second : Bool) :
    s.freeze c slot code second = { s with cores := (s.freeze c slot code second).cores } := by
  unfold State.freeze
  dsimp only
  split <;> rfl

/-- A live job's number finds a job. -/
theorem State.job_of_jobOf {s : State} {asid : Nat} {j : Job} (h : s.jobOf asid = some j) : ∃ i, s.job j.num = some i := by
  have hmem : j ∈ s.jobs := List.mem_of_find?_eq_some h
  obtain ⟨hlive, -⟩ : (j.st != .ended) = true ∧ _ := Bool.and_eq_true _ _ ▸ List.find?_some h
  exact Option.isSome_iff_exists.mp (List.find?_isSome.mpr ⟨j, hmem, by simp [hlive]⟩)

/-- The job of an ASID is the same one, with the record. -/
theorem State.jobOf_recordFor (s : State) (asid : Nat) (r : FaultRec) : (s.recordFor asid r).jobOf asid = (s.jobOf asid).map fun j => j.recorded r := by
  cases h : s.jobOf asid with
  | none => rw [State.recordFor, h]; exact h
  | some j =>
    obtain ⟨i, hi⟩ := State.job_of_jobOf h
    rw [State.recordFor, h]
    dsimp only
    rw [State.record_eq hi]
    exact State.jobOf_modJob h fun x => ⟨rfl, rfl⟩

/-- The policy of an ASID's job stands when a record is entered. -/
theorem State.faultStops_recordFor (s : State) (asid : Nat) (r : FaultRec) : (s.recordFor asid r).faultStops asid = s.faultStops asid := by
  unfold State.faultStops
  rw [State.jobOf_recordFor]
  cases s.jobOf asid <;> rfl

/-- Ozine is told to end the job where its policy says so; the core is killed where the fault says so. -/
def State.postStop (t : State) (asid : Nat) : State :=
  match t.jobOf asid with
  | some j => if j.policy == 0 then t.post (.stop { die := 0, queue := 64, d := [BitVec.ofNat 64 (2 * 2 ^ 56 + asid), 0] }) else t
  | none => t
def State.postKill (t : State) (c code : Nat) (origin : Bool) : State :=
  if code == fcParity || origin then t.post (.coreKill c 1) else if code == fcMismatch then t.post (.coreKill c 3) else t

theorem State.postStop_eq (t : State) (asid : Nat) : t.postStop asid = { t with net := t.net ++ t.faultStops asid } := by
  unfold State.postStop State.faultStops
  cases t.jobOf asid with
  | none => simp
  | some j => by_cases h : j.policy = 0 <;> simp [h, State.post]

theorem State.postKill_eq (t : State) (c code : Nat) (origin : Bool) :
    t.postKill c code origin = { t with net := t.net ++ faultKills c code origin } := by
  unfold State.postKill faultKills
  simp only [Bool.or_eq_true, beq_iff_eq]
  by_cases h1 : code = fcParity ∨ origin
  · rw [if_pos h1, if_pos h1]; rfl
  · rw [if_neg h1, if_neg h1]
    by_cases h2 : code = fcMismatch
    · rw [if_pos h2, if_pos h2]; rfl
    · rw [if_neg h2, if_neg h2, List.append_nil]

/-- A thread's fault in its parts: what it freezes, the record, and what is posted. -/
theorem State.threadFault_parts (s : State) (c slot code detail : Nat) (second origin : Bool) :
    s.threadFault c slot code detail second origin =
      (((s.freeze c slot code second).recordFor (s.ctx c slot).asid (s.faultRecord c slot code detail second)).postStop
        (s.ctx c slot).asid).postKill c code origin := rfl

/-- A thread's fault by what it changes: the contexts that freeze, the record, and what is posted behind the messages in flight. -/
theorem State.threadFault_eq (s : State) (c slot code detail : Nat) (second origin : Bool) :
    s.threadFault c slot code detail second origin =
      { s with
        cores := (s.freeze c slot code second).cores
        jobs := (s.recordFor (s.ctx c slot).asid (s.faultRecord c slot code detail second)).jobs
        mem := (s.recordFor (s.ctx c slot).asid (s.faultRecord c slot code detail second)).mem
        net := s.net ++ s.faultStops (s.ctx c slot).asid ++ faultKills c code origin } := by
  generalize hr : s.faultRecord c slot code detail second = r
  generalize ha : (s.ctx c slot).asid = a
  have hstop : (s.freeze c slot code second).faultStops a = s.faultStops a := by rw [s.freeze_cores]; rfl
  rw [State.threadFault_parts, hr, ha, State.postKill_eq, State.postStop_eq, State.faultStops_recordFor, hstop, s.freeze_cores, State.recordFor_cores,
    State.recordFor_frame]

/-! ### The contexts that freeze -/

/-- The context that takes a fault keeps all that is not of the fault or of the word's progress. -/
theorem Ctx.takeFault_eq (x : Ctx) (code : Nat) (second : Bool) : x.takeFault code second =
    { x with
      fcode := code + (if second then 256 else 0), faddr := pa x.pc.blk x.pc.off, status := .frozen
      out := (x.takeFault code second).out, latch := (x.takeFault code second).latch, latch1 := (x.takeFault code second).latch1
      phase := 0, phase1 := 0, swapped := false, posted := none, badPages := [] } := by
  unfold Ctx.takeFault Ctx.unswap Ctx.swap Ctx.dropLoads
  cases x.swapped <;> rfl

/-- The core of a thread in no pair that takes a fault. -/
def Core.faulted (k : Core) (slot code : Nat) (second : Bool) : Core := (k.modCtx slot fun x => x.takeFault code second).leaveGang slot

theorem State.freeze_alone {s : State} {c slot : Nat} (hp : (s.ctx c slot).pair = none) (code : Nat) (second : Bool) :
    s.freeze c slot code second = s.modCore c fun k => k.faulted slot code second := by
  simp only [State.freeze, hp]
  exact State.modCore_modCore ..

/-- A thread that leaves no gang leaves the other contexts as they are. -/
theorem Core.leaveGang_ctx_ne {k : Core} {n j : Nat} (hg : (k.ctx n).gang = []) (hj : j ≠ n) : (k.leaveGang n).ctx j = k.ctx j := by
  rw [Core.leaveGang, hg]
  exact Core.ctx_modCtx_ne _ _ hj

theorem Ctx.takeFault_gang (x : Ctx) (code : Nat) (second : Bool) : (x.takeFault code second).gang = x.gang := by rw [Ctx.takeFault_eq]

theorem Core.faulted_ctxs (k : Core) (slot code : Nat) (second : Bool) :
    k.faulted slot code second = { k with ctxs := (k.faulted slot code second).ctxs } := Core.leaveGang_ctxs _ slot

theorem Core.faulted_ctx (k : Core) (slot code : Nat) (second : Bool) : (k.faulted slot code second).ctx slot =
    { (k.ctx slot).takeFault code second with gang := [], tstat := (k.ctx slot).tstat &&& ((k.ctx slot).tstat ^^^ 8) } := by
  rw [Core.faulted, Core.leaveGang_ctx, Core.ctx_modCtx_self, Ctx.takeFault_eq]

theorem Core.faulted_ctx_ne {k : Core} {slot j : Nat} (hg : (k.ctx slot).gang = []) (hj : j ≠ slot) (code : Nat) (second : Bool) :
    (k.faulted slot code second).ctx j = k.ctx j := by
  rw [Core.faulted, Core.leaveGang_ctx_ne _ hj, Core.ctx_modCtx_ne _ _ hj]
  rw [Core.ctx_modCtx_self, Ctx.takeFault_gang, hg]

/-- A thread in no gang and no pair takes a fault; what the issue notes of it is of no matter. -/
theorem State.threadFault_frozen {s : State} {c slot : Nat} (hp : (s.ctx c slot).pair = none) (hg : (s.ctx c slot).gang = []) (code detail : Nat)
    (second origin : Bool) (n : Issue) :
    Frozen s { s.threadFault c slot code detail second origin with iss := n } c slot code detail second (faultKills c code origin) := by
  generalize hu : ({ s.threadFault c slot code detail second origin with iss := n } : State) = u
  have hfreeze : s.freeze c slot code second = s.modCore c fun k => k.faulted slot code second := State.freeze_alone hp code second
  have hcores : u.cores = (s.modCore c fun k => k.faulted slot code second).cores := by rw [← hu, State.threadFault_eq, hfreeze]
  have hcore : u.core c = (s.core c).faulted slot code second := State.core_put hcores
  have hctx : u.ctx c slot = _ := (congrArg (Core.ctx · slot) hcore).trans (Core.faulted_ctx ..)
  constructor
  case state => rw [← hu, State.threadFault_eq]
  case cores => exact fun e he => State.core_put_ne hcores he
  case core => rw [hcore]; exact Core.faulted_ctxs ..
  case ctxs => exact fun j hj => (congrArg (Core.ctx · j) hcore).trans (Core.faulted_ctx_ne hg hj ..)
  case ctx => rw [hctx, Ctx.takeFault_eq, ← hg]; rfl
  case tstat => intro b; rw [hctx]; exact testBit_ungang ..
  case record => rw [← hu, State.threadFault_eq]; exact Recorded.of_recordFor rfl rfl
  case net => rw [← hu, State.threadFault_eq]; rfl


/-- What holds of a context whatever its gang and flags are, holds of it when a member has left its gang. -/
theorem Core.leaveGang_keeps {P : Ctx → Prop} (hP : ∀ x g t, P x → P { x with gang := g, tstat := t }) {k : Core} {j : Nat} (h : P (k.ctx j)) (n : Nat) :
    P ((k.leaveGang n).ctx j) := by
  have hmod {k : Core} (m : Nat) {f : Ctx → Ctx} (hf : ∀ x, P x → P (f x)) (h : P (k.ctx j)) : P ((k.modCtx m f).ctx j) := by
    by_cases hj : j = m
    · subst hj; rw [Core.ctx_modCtx_self]; exact hf _ h
    · rw [Core.ctx_modCtx_ne _ _ hj]; exact h
  have hfold (g : List Nat) (l : List Nat) : ∀ {k : Core}, P (k.ctx j) → P ((l.foldl (fun k m => k.modCtx m fun x => { x with gang := g }) k).ctx j) := by
    induction l with
    | nil => exact fun h => h
    | cons m l ih => exact fun h => ih (hmod m (fun x hx => hP x g x.tstat hx) h)
  exact hfold _ _ (hmod n (fun x hx => hP x [] _ hx) h)

/-- A context frozen at an address with a code. -/
def Ctx.FrozenWith (fcode faddr : Nat) (x : Ctx) : Prop := x.status = .frozen ∧ x.fcode = fcode ∧ x.faddr = faddr

/-- The members of a redundant pair freeze together, with the fault's code and address. -/
theorem State.threadFault_pair {s : State} {c slot p : Nat} (hp : (s.ctx c slot).pair = some p) (hne : p ≠ slot) (code detail : Nat)
    (second origin : Bool) {j : Nat} (hj : j = slot ∨ j = p) :
    ((s.threadFault c slot code detail second origin).ctx c j).FrozenWith (code + (if second then 256 else 0))
      (pa (s.ctx c slot).pc.blk (s.ctx c slot).pc.off) := by
  have hcore : (s.threadFault c slot code detail second origin).core c = (((s.core c).modCtx slot fun x => x.takeFault code second).modCtx p fun y =>
      { y.takeFault code second with faddr := pa (s.ctx c slot).pc.blk (s.ctx c slot).pc.off }).leaveGang slot := by
    have hfreeze : (s.threadFault c slot code detail second origin).core c = (s.freeze c slot code second).core c := by
      rw [State.core, State.threadFault_eq]; rfl
    simp only [hfreeze, State.freeze, hp, State.core_modCore_self, State.core_modCtx_self]
  show Ctx.FrozenWith _ _ (((s.threadFault c slot code detail second origin).core c).ctx j)
  rw [hcore]
  refine Core.leaveGang_keeps (fun x g t h => h) ?_ slot
  rcases hj with rfl | rfl
  · rw [Core.ctx_modCtx_ne _ _ hne.symm, Core.ctx_modCtx_self, Ctx.takeFault_eq]
    exact ⟨rfl, rfl, rfl⟩
  · rw [Core.ctx_modCtx_self, Ctx.takeFault_eq]
    exact ⟨rfl, rfl, rfl⟩

/-! ### The porter's fault (14 R333) -/

/-- What a core whose handler took a fault is left as. -/
def Core.porterEnded (k : Core) : Core := { k.setCtx 63 {} with work := { k.work with porter := none } }

/-- The record of a handler's fault (14 R320, R333). -/
def State.porterRecord (s : State) (c code detail : Nat) (second : Bool) : FaultRec :=
  let x := s.ctx c 63
  faultRec 6 x.asid (s.tid c 63) ((code + (if second then 256 else 0)) * 2 ^ 48 + pa x.pc.blk x.pc.off) detail x.pt

/-- The transfer of a landing packet is told that its handler ended. -/
def State.endLanding (t : State) (asid code : Nat) (item : Option PorterItem) : State :=
  match item.bind PorterItem.land with
  | some l => t.postLanding asid l (handlerStatus code)
  | none => t

/-- What is posted then on this package. -/
def State.landingEnds (s : State) (asid code : Nat) (item : Option PorterItem) : List Instr :=
  match item.bind PorterItem.land with
  | some l => if chipOf l.core = s.chip asid then [.copyPacketLanding (s.phys l.core) l.chan l.id (l.pkt + 2 ^ 32 * handlerStatus code)] else []
  | none => []

theorem State.endLanding_eq (t : State) (asid code : Nat) (item : Option PorterItem) :
    ∃ out, t.endLanding asid code item = { t with net := t.net ++ t.landingEnds asid code item, outbox := out } := by
  unfold State.endLanding State.landingEnds
  cases item.bind PorterItem.land with
  | none => exact ⟨t.outbox, by rw [List.append_nil]⟩
  | some l =>
    by_cases h : chipOf l.core = t.chip asid
    · exact ⟨t.outbox, by simp only [State.postLanding, h, if_true]; rfl⟩
    · exact ⟨_, by simp only [State.postLanding, h, if_false, List.append_nil]; rfl⟩

theorem State.chip_recordFor (s : State) (asid : Nat) (r : FaultRec) : (s.recordFor asid r).chip asid = s.chip asid := by
  unfold State.chip
  rw [State.jobOf_recordFor]
  cases s.jobOf asid <;> rfl

theorem State.landingEnds_recordFor (s : State) (asid code : Nat) (item : Option PorterItem) (r : FaultRec) (c : Nat) (f : Core → Core) :
    ((s.recordFor asid r).modCore c f).landingEnds asid code item = s.landingEnds asid code item := by
  have hchip : ((s.recordFor asid r).modCore c f).chip asid = s.chip asid := State.chip_recordFor s asid r
  have hphys (n : Nat) : ((s.recordFor asid r).modCore c f).phys n = s.phys n := by rw [State.recordFor_frame]; rfl
  simp only [State.landingEnds, hchip, hphys]

/-- A handler's fault that is none of parity: the porter is free, the record, and what is posted. -/
theorem State.porterFault_eq (s : State) {c code : Nat} (hcode : code ≠ fcParity) (detail : Nat) (second : Bool) : ∃ out,
    s.porterFault c code detail second false =
      { s with
        cores := (s.modCore c Core.porterEnded).cores
        jobs := (s.recordFor (s.ctx c 63).asid (s.porterRecord c code detail second)).jobs
        mem := (s.recordFor (s.ctx c 63).asid (s.porterRecord c code detail second)).mem
        net := s.net ++ s.landingEnds (s.ctx c 63).asid code (s.core c).work.porter ++ [.porterHandlerStart c]
        outbox := out } := by
  generalize hr : s.porterRecord c code detail second = r
  obtain ⟨out, hout⟩ := State.endLanding_eq ((s.recordFor (s.ctx c 63).asid r).modCore c Core.porterEnded) (s.ctx c 63).asid code (s.core c).work.porter
  have hparts : s.porterFault c code detail second false = State.post (((s.recordFor (s.ctx c 63).asid r).modCore c Core.porterEnded).endLanding
      (s.ctx c 63).asid code (s.core c).work.porter) (.porterHandlerStart c) := by
    rw [← hr]
    exact if_neg (by simpa using hcode)
  refine ⟨out, ?_⟩
  rw [hparts, hout, State.landingEnds_recordFor, State.recordFor_frame]
  rfl

theorem Core.porterEnded_ctx (k : Core) : k.porterEnded.ctx 63 = {} := Core.ctx_setCtx_self ..
theorem Core.porterEnded_ctx_ne (k : Core) {j : Nat} (h : j ≠ 63) : k.porterEnded.ctx j = k.ctx j := Core.ctx_setCtx_ne _ _ h

end Sys2Proof.Machine
end

section
/-! PROOFS. What a word meets before it acts (07 R171; 11 R254), a frozen thread's releases (14 R317, R318), and that the first fault by rank
freezes its thread (O41). -/

namespace Sys2Proof.Machine

/-! ### The faults that a word meets before it acts (07 R171) -/

/-- A word of the table issues: its meaning is an effect of its own behind the checks that all words share. -/
theorem exec_issue {i : Instr} (h : encode i ≠ none) (s : State) : ∃ body, exec i s = .next (s.issue i body) := by
  cases i
  case nop | ksync | idle | endThread | ret | jmpr | callr | forkr | join | rdw | rdwc | trap | fenceb | snap | yield | waitx | br | beqz | bnez |
      bltz | bgez | bgtz | blez | bfull | bempty | jmp | call | fork | send | sendu | csrrd | csrwr | ldN | ldS | ldeN | ldeS | ldxN | ldxS | st |
      ste | stx | aswap | aadd | aand | aor | axor | aminS64 | amaxS64 | aminN64 | amaxN64 | acas | aamaxF32 | amaxswapF32 | bfld | bfclr | cpy |
      cpyNb | vld | vst | vldpE2m1 | vldpE3m2 | vstpE2m1 | vstpE3m2 | qpackE4m3 | qpackE3m2 | qpackE2m1 | qpacki | accld | accst | drain | add |
      sub | mul | mulhS64 | mulhN64 | and | or | xor | shl | shrN64 | shrS64 | sltS64 | sltN64 | seq | addi | shli | shriN64 | shriS64 | rotri |
      li | lis | bfx | bfi | mov | not | neg | absS64 | popc | clz | ctz | bswap | brev | sextS8 | sextS16 | sextS32 | zextN8 | zextN16 | zextN32
      | qmaxx | qscaleE4m3 | qscaleE3m2 | qscaleE2m1 | qscalei | vlq | vlane | vadd | vsub | vmul | vfma | vmin | vmax | vaddsat | vsubsat | vand
      | vor | vxor | vandn | vceq | vclt | vcle | vcne | vcvt | vbcast | vaddx | vmulx | vmaxx | vrsum | vrmax | vrmin | vramax | vcompress |
      vexpand | vrowmv | vsel | mand | mor | mxor | mandn | mnot | mmov | mpop | mfrom | mtolo | mtohi | bound | pload | pcomp | pinv | prand |
      pcompact | pcyc | pstore | pidx =>
    exact ⟨_, rfl⟩
  all_goals exact absurd rfl h

/-- A word takes the fault that its checks find. -/
theorem faults_of_earlyFault {i : Instr} {s : State} {code detail : Nat} (hw : encode i ≠ none) (hready : s.me.status = .ready)
    (hphase : s.me.phase ≠ 3) (hf : earlyFault s s.iss.core s.iss.slot i s.iss.word = some (code, detail)) : Faults i s code detail false := by
  obtain ⟨body, hexec⟩ := exec_issue hw s
  have hissue : s.issue i body = s.conclude s.iss.core s.iss.slot i (.fault code detail false) := by
    unfold State.me at hready hphase
    simp [State.issue, hready, hphase, hf]
  rw [Faults, hexec, hissue, State.conclude_fault]

section Ranks

variable {s : State} {i : Instr} {word : Nat}

theorem earlyFault_illegal (hwf : wellFormed i = false) : earlyFault s s.iss.core s.iss.slot i word = some (fcIllegal, word) := by
  simp [earlyFault, hwf]

theorem earlyFault_privilege (hwf : wellFormed i) (hpriv : privilegeFault s s.iss.core s.iss.slot i) :
    earlyFault s s.iss.core s.iss.slot i word = some (fcPrivilege, 0) := by
  simp [earlyFault, hwf, hpriv]

variable (hview : s.iss.view = none) (hwf : wellFormed i) (hpriv : privilegeFault s s.iss.core s.iss.slot i = false)
include hview hwf hpriv

theorem earlyFault_window {n : Nat} (hwin : windowFault s.me i = some n) : earlyFault s s.iss.core s.iss.slot i word = some (fcWindow, n) := by
  unfold State.me State.ctx at hwin
  simp [earlyFault, hview, hwf, hpriv, hwin]

variable (hwin : windowFault s.me i = none)
include hwin

theorem earlyFault_hazard {n : Nat} (hdebug : s.debugMode s.iss.core) (hphase : s.me.phase = 0) (hhaz : hazardFault s.me i = some n) :
    earlyFault s s.iss.core s.iss.slot i word = some (fcHazard, n) := by
  unfold State.me State.ctx at hwin hhaz hphase
  simp [earlyFault, State.ctx, hview, hwf, hpriv, hwin, hdebug, hphase, hhaz]

variable (hhaz : s.debugMode s.iss.core → s.me.phase = 0 → hazardFault s.me i = none)
include hhaz

/-- Past the checks of ranks 1 to 4 (the hazard's is made in debug mode, at the word's first issue). -/
theorem earlyFault_last : earlyFault s s.iss.core s.iss.slot i word =
    if engineFault s s.iss.core s.iss.slot i then some (fcPrivilege, 0) else (parityFault (s.core s.iss.core) s.me i).map fun e => (fcParity, e) := by
  unfold State.me State.ctx at *
  have hnone : (if s.debugMode s.iss.core && ((s.core s.iss.core).ctx s.iss.slot).phase == 0 then hazardFault ((s.core s.iss.core).ctx s.iss.slot) i
      else none) = none := by
    split
    · next h =>
      obtain ⟨hdebug, hphase⟩ := Bool.and_eq_true _ _ ▸ h
      exact hhaz hdebug (by simpa using hphase)
    · rfl
  simp only [earlyFault, State.ctx, hview, Option.getD_none, hwf, hpriv, hwin, hnone] <;> rfl

end Ranks

/-! ### Ozine's releases of a frozen thread (14 R317, R318) -/

theorem State.frozenAt_frozen {s : State} {c slot : Nat} (h : (s.ctx c slot).status = .frozen) : s.frozenAt c slot = some (s.ctx c slot) := by
  unfold State.ctx at *
  simp [State.frozenAt, Ctx.isFrozen, h]

theorem Core.release_frozen {k : Core} {slot : Nat} (h : (k.ctx slot).status = .frozen) (hsaved : Tab.get? k.work.saved slot = none) :
    k.release slot = k.modCtx slot Ctx.reissue := by
  have hreleased : (k.ctx slot).released = (k.ctx slot).reissue := if_pos h
  simp [Core.release, Ctx.isFrozen, h, hsaved, Core.modCtx, hreleased]

theorem exec_reissue {s : State} {c slot : Nat} (h : (s.ctx c slot).status = .frozen) (hp : (s.ctx c slot).pair = none)
    (hsaved : Tab.get? (s.core c).work.saved slot = none) : exec (.frozenThreadReissue c slot) s = .next (s.modCtx c slot Ctx.reissue) := by
  show execFrozenThreadReissue c slot s = _
  simp only [execFrozenThreadReissue, State.frozenAt_frozen h, hp]
  rw [State.modCore, Core.release_frozen h hsaved]
  rfl

/-- A frozen thread in no pair ends: it leaves its core. -/
theorem State.endPair_alone {s : State} {c slot : Nat} (h : (s.ctx c slot).status = .frozen) (hp : (s.ctx c slot).pair = none)
    (hw : (s.core c).NoneWaits) : s.endPair c slot (s.ctx c slot) = s.modCore c fun k => k.left slot := by
  have hfrozen : (s.ctx c slot).isFrozen = true := by simp [Ctx.isFrozen, h]
  rw [← State.vacate_noneWaits hw]
  simp only [State.endPair, hp, State.endFrozen, hfrozen, if_true]

theorem State.left_core (s : State) (c slot : Nat) : (s.modCore c fun k => k.left slot).core c = (s.core c).left slot := State.core_modCore_self ..

theorem State.left_ctx (s : State) (c slot : Nat) : (s.modCore c fun k => k.left slot).ctx c slot = {} :=
  (congrArg (Core.ctx · slot) (s.left_core c slot)).trans (Core.left_ctx ..)

theorem State.left_ctx_ne {s : State} {c slot j : Nat} (hg : (s.ctx c slot).gang = []) (hj : j ≠ slot) :
    (s.modCore c fun k => k.left slot).ctx c j = s.ctx c j :=
  (congrArg (Core.ctx · j) (s.left_core c slot)).trans (Core.left_ctx_ne hg hj)

theorem State.left_file (s : State) (c slot : Nat) : ((s.modCore c fun k => k.left slot).core c).file = (s.core c).file := by
  rw [State.left_core, Core.left_frame]

theorem State.left_units (s : State) (c slot : Nat) : ((s.modCore c fun k => k.left slot).core c).units = (s.core c).units := by
  rw [State.left_core, Core.left_frame]

theorem exec_endFrozen {s : State} {c slot : Nat} (h : (s.ctx c slot).status = .frozen) (hp : (s.ctx c slot).pair = none)
    (hw : (s.core c).NoneWaits) : exec (.frozenThreadEnd c slot) s = .next (s.modCore c fun k => k.left slot) := by
  show execFrozenThreadEnd c slot s = _
  simp only [execFrozenThreadEnd, State.frozenAt_frozen h, State.endPair_alone h hp hw]

theorem exec_faultEntry {s : State} {c slot : Nat} (h : (s.ctx c slot).status = .frozen) (hp : (s.ctx c slot).pair = none)
    (hw : (s.core c).NoneWaits) (hc : chipOf (s.coreId (s.ctx c slot).asid c) = s.chip (s.ctx c slot).asid) (entry : Nat) :
    let x := s.ctx c slot
    let m := s.ozineThread c x.asid x.cls x.pt entry [] (bit x.tstat 1)
    ∃ y : Yew, exec (.frozenThreadFaultEntry c slot entry) s =
      .next { s.modCore c fun k => k.left slot with yew := y, net := s.net ++ [.travelMessageArrival m.origin m] } := by
  intro x m
  obtain ⟨y, -, hy⟩ := State.sendTo_here (s := s.modCore c fun k => k.left slot) hc m.cut (.travelMessageArrival m.origin m)
  refine ⟨y, ?_⟩
  show execFrozenThreadFaultEntry c slot entry s = _
  simp only [execFrozenThreadFaultEntry, State.frozenAt_frozen h, State.endPair_alone h hp hw]
  exact congrArg _ hy

/-! ### Faults at issue and at fetch -/

theorem State.takeFault_thread {slot : Nat} (h : slot ≠ 63) (s : State) (c code detail : Nat) (second origin : Bool) :
    s.takeFault c slot code detail second origin = s.threadFault c slot code detail second origin := if_neg (by simpa using h)

theorem State.unload_eq {i : Instr} (h : ∀ w a, i ≠ .pload w a) (s : State) (c slot : Nat) : s.unload c slot i = s := by
  unfold State.unload
  split
  · next w a => exact absurd rfl (h w a)
  · rfl

theorem exec_illegalEncoding (s : State) (c slot word : Nat) :
    exec (.illegalEncoding c slot word) s = .next (s.takeFault c slot fcIllegal word ((s.ctx c slot).pc.word == 1) false) := rfl

/-- A thread's fault at its place leaves it frozen: a word that is no instruction, a flow past its block. -/
theorem State.takeFault_frozen {s : State} {c slot : Nat} (hslot : slot ≠ 63) (hp : (s.ctx c slot).pair = none) (hg : (s.ctx c slot).gang = [])
    (code detail : Nat) : Frozen s (s.takeFault c slot code detail ((s.ctx c slot).pc.word == 1) false) c slot code detail
      ((s.ctx c slot).pc.word = 1) (faultKills c code false) := by
  rw [State.takeFault_thread hslot, beq_eq_decide]
  exact State.threadFault_frozen hp hg code detail _ false _

/-! ### The statement -/

/-- Settles O41: a word's fault by the rank that its checks find first; what a fault leaves from `State.threadFault_frozen`, of a pair from
`State.threadFault_pair`, of the porter from `State.porterFault_eq`; each of Ozine's releases by its own lemma. -/
theorem faultsFreeze : Obligations.FaultsFreeze := by
  unfold Obligations.FaultsFreeze
  refine ⟨⟨?ranks, ?word, ?illegal, ?entry, ?pair, ?porter⟩, ?released⟩
  case ranks =>
    intro i s hw hready hphase hview c slot
    have hfaults {code detail : Nat} := faults_of_earlyFault (code := code) (detail := detail) hw hready hphase
    refine ⟨fun hwf => ?_, fun hwf hpriv => ?_, fun n hwf hpriv hwin => ?_, fun n hwf hpriv hwin hdebug hphase hhaz => ?_,
      fun hwf hpriv hwin hhaz heng => ?_, fun n hwf hpriv hwin hhaz heng hpar => ?_⟩
    · exact hfaults (earlyFault_illegal hwf)
    · exact hfaults (earlyFault_privilege hwf hpriv)
    · exact hfaults (earlyFault_window hview hwf hpriv hwin)
    · exact hfaults (earlyFault_hazard hview hwf hpriv hwin hdebug hphase hhaz)
    · exact hfaults ((earlyFault_last hview hwf hpriv hwin hhaz).trans (if_pos heng))
    · refine hfaults ((earlyFault_last hview hwf hpriv hwin hhaz).trans ?_)
      rw [if_neg (by rw [heng]; exact Bool.false_ne_true), hpar]
      rfl
  case word =>
    intro i s code detail origin hf hload hslot hp hg
    refine ⟨_, hf, ?_⟩
    rw [State.unload_eq hload, State.takeFault_thread hslot, beq_eq_decide]
    exact State.threadFault_frozen hp hg code detail _ origin _
  case illegal => exact fun s c slot word hslot hp hg => ⟨_, rfl, State.takeFault_frozen hslot hp hg fcIllegal word⟩
  case entry => exact fun s c slot hslot hp hg => ⟨_, rfl, State.takeFault_frozen hslot hp hg fcEntry _⟩
  case pair =>
    intro s c slot p word hslot hp hne
    have hfrozen {j : Nat} (hj : j = slot ∨ j = p) := State.threadFault_pair hp hne fcIllegal word ((s.ctx c slot).pc.word == 1) false hj
    obtain ⟨hst, hcode, haddr⟩ := hfrozen (.inl rfl)
    obtain ⟨hst', hcode', haddr'⟩ := hfrozen (.inr rfl)
    refine ⟨_, (exec_illegalEncoding ..).trans (congrArg _ (State.takeFault_thread hslot ..)), hst, hst', hcode'.trans hcode.symm, haddr'.trans haddr.symm, ?_⟩
    rw [hcode, haddr, State.threadFault_eq]
    exact Recorded.of_recordFor rfl rfl
  case porter =>
    intro s c word
    obtain ⟨out, hu⟩ := s.porterFault_eq (c := c) (code := fcIllegal) (by decide) word ((s.ctx c 63).pc.word == 1)
    have hexec : exec (.illegalEncoding c 63 word) s = .next (s.porterFault c fcIllegal word ((s.ctx c 63).pc.word == 1) false) := rfl
    rw [hexec]
    generalize s.porterFault c fcIllegal word ((s.ctx c 63).pc.word == 1) false = u at hu
    have hcore : u.core c = (s.core c).porterEnded := State.core_put (by rw [hu]; rfl)
    have hctx (j : Nat) : u.ctx c j = (s.core c).porterEnded.ctx j := congrArg (Core.ctx · j) hcore
    have hnet : u.net = s.net ++ s.landingEnds (s.ctx c 63).asid fcIllegal (s.core c).work.porter ++ [.porterHandlerStart c] := by rw [hu]
    refine ⟨u, rfl, ?_, ?_, fun j hj => ?_, fun e he => ?_, ?_, fun i l hi hl hchip => ?_, ?_⟩
    · exact (hctx 63).trans (Core.porterEnded_ctx _)
    · rw [hcore]; rfl
    · exact (hctx j).trans (Core.porterEnded_ctx_ne _ hj)
    · exact State.core_put_ne (by rw [hu]; rfl) he
    · rw [hnet]; exact List.mem_append_right _ (List.mem_singleton.mpr rfl)
    · have hland : s.landingEnds (s.ctx c 63).asid fcIllegal (s.core c).work.porter =
          [.copyPacketLanding (s.phys l.core) l.chan l.id (l.pkt + 2 ^ 32 * 3)] := by
        simp only [State.landingEnds, hi, Option.bind_some, hl, hchip, if_true]
        rfl
      rw [hnet, hland]
      exact List.mem_append_left _ (List.mem_append_right _ (List.mem_singleton.mpr rfl))
    · have hrecord := Recorded.of_recordFor (s := s) (u := u) (asid := (s.ctx c 63).asid) (r := s.porterRecord c fcIllegal word ((s.ctx c 63).pc.word == 1))
        (by rw [hu]) (by rw [hu])
      simpa only [State.porterRecord, fcIllegal, beq_iff_eq] using hrecord
  case released =>
    intro s c slot x hst hp hsaved
    refine ⟨⟨_, exec_reissue hst hp hsaved, OnlyCtx.modCtx .., State.ctx_modCtx_self ..⟩, fun hg hw => ?ended, fun entry hg hw hc => ?served⟩
    case ended =>
      exact ⟨_, exec_endFrozen hst hp hw, State.left_ctx .., fun j hj => State.left_ctx_ne hg hj, State.left_file .., State.left_units ..,
        fun e he => State.core_modCore_ne _ _ he, rfl⟩
    case served =>
      obtain ⟨y, hy⟩ := exec_faultEntry hst hp hw hc entry
      refine ⟨_, _, hy, State.left_ctx .., fun j hj => State.left_ctx_ne hg hj, fun e he => State.core_put_ne (t := s) rfl he, rfl, rfl, rfl,
        rfl, rfl, rfl, rfl, rfl, rfl, rfl, ?_, rfl⟩
      show bit x.tstat 1 = true ↔ _
      rw [bit_eq_testBit]

end Sys2Proof.Machine
end

section
/-! PROOFS. Branches, jumps, calls and returns (08 R173 to R176; O3, O4): a branch by its test, a transfer by what its core knows of the
target, a J form by the entry that it names. -/

namespace Sys2Proof.Machine

/-! ### Branches (08 R173) -/

theorem branch_untaken (off : Fin 512) (t : State) : branch false off t = .next t := rfl

theorem branch_taken {off : Fin 512} {t : State} (h : off < (t.core t.iss.core).blockCount t.me.asid t.me.pc.blk) :
    branch true off t = .goto (pa t.me.pc.blk off) t := if_neg (Nat.not_le.2 h)

theorem branch_past {off : Fin 512} {t : State} (h : (t.core t.iss.core).blockCount t.me.asid t.me.pc.blk ≤ off) :
    branch true off t = .fault fcEntry (pa t.me.pc.blk off) false := if_pos h

/-- A word that does nothing but branch by a test of its state and source values. -/
theorem branches_of {i : Instr} {off : Fin 512} {test : List Word → State → Bool} {taken : State → List Word → Prop}
    (hexec : ∀ s, exec i s = .next (s.issue i fun v t => branch (test v t) off t)) (htest : ∀ t v, test v t = true ↔ taken t v) :
    Branches i off taken := by
  intro s vals t hi
  have hoff : off.val % 512 = off.val := Nat.mod_eq_of_lt off.isLt
  refine ⟨fun hn => moved_next hi (hexec s) ?untaken, fun hk hc => ?taken, fun hk hc => ?past⟩
  case untaken => simp only [(htest t vals).not.2 hn, branch_untaken]
  case taken =>
    have := moved_goto hi (hexec s) (show branch (test vals t) off t = .goto (pa t.me.pc.blk off) t by
      rw [(htest t vals).2 hk, branch_taken hc])
    rwa [PC.at_pa, hoff] at this
  case past =>
    have := faults_of hi (hexec s) (show branch (test vals t) off t = .fault fcEntry (pa t.me.pc.blk off) false by
      rw [(htest t vals).2 hk, branch_past hc])
    rwa [pa, hoff] at this

theorem slt_zero_iff (v : Word) : v.slt 0 = true ↔ v.toInt < 0 := by simp [BitVec.slt]
theorem zero_slt_iff (v : Word) : (0 : Word).slt v = true ↔ 0 < v.toInt := by simp [BitVec.slt]

theorem Core.isFull_iff (k : Core) (slot n : Nat) : k.isFull slot n = true ↔ (k.ctx slot).win.mainBase + n ∉ k.empty := by
  simp [Core.isFull]

/-- Settles O3: each branch by its own test (`branches_of`). -/
theorem branchesTaken : Obligations.BranchesTaken := by
  intro a g off
  refine ⟨?br, ?beqz, ?bnez, ?bltz, ?bgez, ?bgtz, ?blez, ?bfull, ?bempty⟩
  case br => exact branches_of (fun _ => rfl) fun _ _ => Iff.rfl.trans (iff_of_true rfl trivial)
  case beqz => exact branches_of (fun _ => rfl) fun _ _ => beq_iff_eq
  case bnez => exact branches_of (fun _ => rfl) fun _ _ => bne_iff_ne
  case bltz => exact branches_of (fun _ => rfl) fun _ v => slt_zero_iff (val0 v)
  case bgez => exact branches_of (fun _ => rfl) fun _ v => by simp [BitVec.slt]
  case bgtz => exact branches_of (fun _ => rfl) fun _ v => zero_slt_iff (val0 v)
  case blez => exact branches_of (fun _ => rfl) fun _ v => by simp [BitVec.slt]
  case bfull => exact branches_of (fun _ => rfl) fun _ _ => Core.isFull_iff ..
  case bempty => exact branches_of (fun _ => rfl) fun _ _ => by simp [Core.isFull]

/-! ### Transfers (08 R174 to R176) -/

@[simp] theorem State.ctx_mapUse (s : State) (c asid blk d slot : Nat) : (s.mapUse c asid blk).ctx d slot = s.ctx d slot := by
  rw [State.mapUse, State.ctx]
  by_cases h : d = c
  · rw [h, State.core_modCore_self]; rfl
  · rw [State.core_modCore_ne _ _ h]; rfl

@[simp] theorem State.me_mapUse (s : State) (c asid blk : Nat) : (s.mapUse c asid blk).me = s.me := State.ctx_mapUse ..

/-- The LINK that a transfer of a kind leaves in a context (08 R175 line 10), the context being at its program address. -/
def Ctx.withLink (x : Ctx) (kind : Nat) : Ctx :=
  if kind = 1 then { x with link := x.pc.blk % 2 ^ 24 * 512 + (x.pc.off + 1) % 512 } else x

theorem State.setLink_eq (s : State) (c slot kind : Nat) (f : Ctx → Ctx) :
    (s.setLink c slot kind).modCtx c slot f = s.modCtx c slot fun x => f (x.withLink kind) := by
  by_cases h : kind = 1
  · simp only [State.setLink, Ctx.withLink, h, if_true, State.modCtx_modCtx]; rfl
  · simp only [State.setLink, Ctx.withLink, h, if_false]

/-- A block whose windows are of the thread's own sizes is gone to without a move. -/
theorem State.settleAt_same {s : State} {c slot kind d : Nat} {p : Placed} (hm : 8 * (p.mainCode + 1) = (s.ctx c slot).mainSize)
    (hv : 4 * p.vecCode = (s.ctx c slot).vecSize) : s.settleAt c slot kind p d = .goto d (s.setLink c slot kind) := by
  have : ((s.core c).ctx slot) = s.ctx c slot := rfl
  simp [State.settleAt, this, hm, hv]

/-- A word that goes on at an address, with the LINK that its kind leaves. -/
theorem ends_linked {i : Instr} {s t w : State} {vals : List Word} {body : List Word → State → Act} {d kind : Nat} (hi : Issues s i vals t)
    (he : exec i s = .next (s.issue i body)) (hb : body vals t = .goto d (w.setLink t.iss.core t.iss.slot kind)) (hw : w.iss = t.iss) :
    ∃ u, Ends i s u ∧ OnlyCtx t.iss.core t.iss.slot w u ∧ u.me = (w.me.withLink kind).complete { blk := d / 512, off := d % 512, word := 0 } := by
  refine ⟨_, ends_goto hi he hb, ?_⟩
  rw [State.setLink_eq]
  refine ⟨.modCtx .., ?_⟩
  rw [State.me, State.iss_modCtx, hw, State.ctx_modCtx_self, State.me, hw]
  rfl

/-- A word that does nothing but transfer to its target (08 R175). -/
theorem transfers_of {i : Instr} {kind : Nat} {target : State → List Word → Nat → Prop} (h3 : kind ≠ 3)
    (hexec : ∀ s vals t d, target t vals d → ∃ body, exec i s = .next (s.issue i body) ∧
      body vals t = t.transfer t.iss.core t.iss.slot kind (.addr d)) :
    Transfers i kind target := by
  intro s vals t d hi ht hs
  obtain ⟨body, he, hb⟩ := hexec s vals t d ht
  refine ⟨fun h => faults_of hi he (hb.trans (State.transfer_bad hs h)),
    fun h h0 hk hl => faults_of hi he (hb.trans (State.transfer_last hs h h0 hk hl)), fun h h0 ho => ⟨?past, ?within, ?miss, ?undeclared, ?here,
    ?away, ?nowhere⟩⟩
  case past => exact fun hd hc => faults_of hi he (hb.trans (State.transfer_past hs h h0 ho hd hc))
  case within => exact fun hd hc => ends_linked hi he (hb.trans (State.transfer_within hs h h0 ho h3 hd hc)) rfl
  case miss => exact fun hd hm => waits_of hi he (hb.trans (State.transfer_miss hs h h0 ho hd hm))
  case undeclared => exact fun descs hd hm hn => faults_of hi he (hb.trans (State.transfer_undeclared hs h h0 ho hd hm hn))
  case here =>
    intro p hd hm hp hmain hvec
    have hb' := hb.trans (State.transfer_here hs h h0 ho h3 hd hm hp)
    rw [State.settleAt_same (by rw [State.ctx_mapUse]; exact hmain) (by rw [State.ctx_mapUse]; exact hvec)] at hb'
    have := ends_linked hi he hb' rfl
    rwa [State.me_mapUse] at this
  case away => exact fun hd hm hp => waits_of hi he (hb.trans (State.transfer_away hs h h0 ho h3 hd hm hp))
  case nowhere => exact fun e hd hm hn hp => waits_of hi he (hb.trans (State.transfer_nowhere hs h h0 ho h3 hd hm hn hp))

/-! ### The targets of J forms (08 R174) -/

/-- The entry `e` of a block at a distance from the thread's own, where its core knows the block's entries. -/
def JTarget (e : Fin 16) (delta : BitVec 20) (s : State) (d : Nat) : Prop :=
  ∃ (b o : Nat) (descs : List Nat), (b : Int) = s.me.pc.blk + delta.toInt ∧ 1 ≤ b ∧ b ≤ 0xFFFFFF ∧
    (if b = s.me.pc.blk then (∃ p, (s.core s.iss.core).placedBlock s.me.asid b = some p ∧ p.descs = descs)
     else (s.core s.iss.core).lists s.me.asid b descs) ∧
    (∃ desc, descs[e.val]? = some desc ∧ desc % 512 = o) ∧ d = b * 512 + o

/-- Whose entries a J form reads: of its own block the text's, of another what the block map gives. -/
theorem Core.jTarget_known {k : Core} {x : Ctx} {e b : Nat} {delta : BitVec 20} {descs : List Nat} (hb : (b : Int) = x.pc.blk + delta.toInt)
    (h1 : 1 ≤ b) (h2 : b ≤ 0xFFFFFF) (hk : if b = x.pc.blk then (∃ p, k.placedBlock x.asid b = some p ∧ p.descs = descs) else k.lists x.asid b descs) :
    k.jTarget x e delta = match descs[e]? with
      | some d => .addr (pa b (descOff d))
      | none => .bad b (jDetail e (x.pc.blk + delta.toInt)) := by
  have hr : ¬ ((b : Int) < 1 ∨ 0xFFFFFF < (b : Int)) := by omega
  have hd : (if b = x.pc.blk then (k.placedBlock x.asid b).map fun p => (p.descs, false) else k.known x.asid b) = some (descs, false) := by
    split at hk
    next heq =>
      obtain ⟨p, hp, hp'⟩ := hk
      rw [if_pos heq, hp, Option.map_some, hp']
    next hne => rw [if_neg hne, Core.known_lists hk]
  simp only [Core.jTarget, signed20, ← hb, Bool.or_eq_true, decide_eq_true_eq, hr, if_false, Int.toNat_natCast, hd]
  cases descs[e]? <;> rfl

theorem Core.jTarget_outside {k : Core} {x : Ctx} {e : Nat} {delta : BitVec 20} (h : x.pc.blk + delta.toInt < 1 ∨ 0xFFFFFF < x.pc.blk + delta.toInt) :
    k.jTarget x e delta = .bad 0 (jDetail e (x.pc.blk + delta.toInt)) :=
  if_pos ((Bool.or_eq_true ..).mpr (h.imp decide_eq_true decide_eq_true))

/-- An entry that the core knows is transferred to by its address. -/
theorem transferJ_addr {e : Fin 16} {delta : BitVec 20} {t : State} {d : Nat} (h : JTarget e delta t d) (kind : Nat) :
    transferJ kind e delta t = t.transfer t.iss.core t.iss.slot kind (.addr d) := by
  obtain ⟨b, o, descs, hb, h1, h2, hk, ⟨desc, hdesc, ho⟩, hd⟩ := h
  have haddr : pa b (descOff desc) = d := by
    have : desc / 2 ^ 0 % 2 ^ 9 = o := by omega
    simp only [pa, descOff, fld, this]
    omega
  show t.transfer t.iss.core t.iss.slot kind ((t.core t.iss.core).jTarget t.me e delta) = _
  rw [Core.jTarget_known hb h1 h2 hk, hdesc, ← haddr]

/-- A J form without an entry to go to faults, of the porter where its block is its own or none. -/
theorem transferJ_bad {e kind blk detail : Nat} {delta : BitVec 20} {t : State}
    (hj : (t.core t.iss.core).jTarget t.me e delta = .bad blk detail) (hs : blk = 0 ∨ blk = t.me.pc.blk ∨ t.iss.slot ≠ 63) :
    transferJ kind e delta t = .fault fcEntry detail false := by
  show t.transfer t.iss.core t.iss.slot kind ((t.core t.iss.core).jTarget t.me e delta) = _
  have hbars : (t.core t.iss.core).porterBars t.me t.iss.slot blk = false := by
    rcases hs with h | h | h
    · simp [Core.porterBars, h]
    · simp [Core.porterBars, h]
    · exact Core.porterBars_other _ _ h blk
  rw [hj]
  simp only [State.transfer, Target.block, show (t.core t.iss.core).ctx t.iss.slot = t.me from rfl, hbars, Bool.false_eq_true, if_false]

/-- The kind of transfer that a J form makes. -/
def jKind : Instr → Nat
  | .call _ _ => 1
  | .fork _ _ => 3
  | _ => 0

theorem exec_jForm {i : Instr} {e : Fin 16} {delta : BitVec 20} (h : i = .jmp e delta ∨ i = .call e delta ∨ i = .fork e delta) (s : State) :
    exec i s = .next (s.issue i fun _ t => transferJ (jKind i) e delta t) := by
  rcases h with rfl | rfl | rfl <;> rfl

/-- Settles O4: each word by its target (`transfers_of`); a J form without an entry by why it has none. -/
theorem transfersGo : Obligations.TransfersGo := by
  refine ⟨⟨fun a => ?jmpr, fun a => ?callr, ?ret, fun kind i e delta h => ?jform⟩, fun i e delta h s vals t hi => ⟨fun hr => ?outside,
    fun p h1 h2 heq hp hlen => ?own, fun descs h1 h2 hne hs hl hlen => ?other⟩⟩
  case jmpr => exact transfers_of (by decide) fun s vals t d hd => ⟨_, rfl, by rw [hd]; rfl⟩
  case callr => exact transfers_of (by decide) fun s vals t d hd => ⟨_, rfl, by rw [hd]; rfl⟩
  case ret => exact transfers_of (by decide) fun s vals t d hd => ⟨_, rfl, by rw [hd, transferTo, BitVec.toNat_ofNat]⟩
  case jform =>
    have hk : kind ≠ 3 ∧ kind = jKind i := by rcases h with ⟨rfl, rfl⟩ | ⟨rfl, rfl⟩ <;> exact ⟨by decide, rfl⟩
    refine transfers_of hk.1 fun s vals t d hd => ⟨_, exec_jForm (h.imp And.right fun h => .inl h.2) s, ?_⟩
    rw [hk.2]
    exact transferJ_addr hd _
  case outside => exact faults_of hi (exec_jForm h s) (transferJ_bad (Core.jTarget_outside hr) (.inl rfl))
  case own =>
    have hblk : ((t.me.pc.blk + delta.toInt).toNat : Int) = t.me.pc.blk + delta.toInt := by omega
    have hj := Core.jTarget_known (k := t.core t.iss.core) (e := e.val) (descs := p.descs) hblk (by omega) (by omega) (by
      rw [if_pos (by omega)]; exact ⟨p, hp, rfl⟩)
    rw [List.getElem?_eq_none hlen] at hj
    exact faults_of hi (exec_jForm h s) (transferJ_bad hj (.inr (.inl (by omega))))
  case other =>
    have hblk : ((t.me.pc.blk + delta.toInt).toNat : Int) = t.me.pc.blk + delta.toInt := by omega
    have hj := Core.jTarget_known (k := t.core t.iss.core) (e := e.val) (descs := descs) hblk (by omega) (by omega) (by
      rw [if_neg (by omega)]; exact hl)
    rw [List.getElem?_eq_none hlen] at hj
    exact faults_of hi (exec_jForm h s) (transferJ_bad hj (.inr (.inr hs)))

end Sys2Proof.Machine
end

section
/-! PROOFS. Words that wait for a cycle or a watermark (08 R189 to R191, R197; 03 R63; O6), and the ends of timed waits. -/

namespace Sys2Proof.Machine

/-! ### Words that change their own context -/

/-- A word whose effect changes its thread's context, and that goes on. -/
theorem ends_modCtx {i : Instr} {s t : State} {vals : List Word} {body : List Word → State → Act} {f : Ctx → Ctx} (hi : Issues s i vals t)
    (he : exec i s = .next (s.issue i body)) (hb : body vals t = .next (t.modCtx t.iss.core t.iss.slot f)) :
    ∃ u, Ends i s u ∧ OnlyCtx t.iss.core t.iss.slot t u ∧ u.me = (f t.me).complete t.nextPlace := by
  refine ⟨_, ends_next hi he hb, ?_⟩
  rw [State.modCtx_modCtx]
  exact ⟨.modCtx .., State.ctx_modCtx_self ..⟩

theorem Ctx.observe_observes (x : Ctx) (time : Nat) : Observes x (x.observe time) time := by
  unfold Observes Ctx.observe
  cases x.pipe <;> simp

/-- A timed step stands at its cycle. -/
theorem State.mem_timers_after (s : State) (n : Nat) (i : Instr) : (s.now + n, i) ∈ (s.after n i).timers := (mem_insertBy ..).2 (.inl rfl)

/-! ### KSYNC (03 R63; 08 R189) -/

theorem foldl_max_le_iff {α : Type} (f : α → Nat) (l : List α) (a n : Nat) :
    l.foldl (fun m r => max m (f r)) a ≤ n ↔ a ≤ n ∧ ∀ r ∈ l, f r ≤ n := by
  induction l generalizing a with
  | nil => simp
  | cons r l ih => simp [ih, and_assoc]

/-- By a cycle every k write and record change of the core is 8 cycles old. -/
def CoreRegs.Old (regs : CoreRegs) (n : Nat) : Prop := (∀ r ∈ regs.kOld, r.at_ + 8 ≤ n) ∧ ∀ r ∈ regs.bufOld, r.at_ + 8 ≤ n

theorem Core.visibleAt_le_iff (k : Core) (n : Nat) : k.visibleAt ≤ n ↔ k.regs.Old n :=
  calc k.visibleAt ≤ n
    _ ↔ _ ∧ ∀ r ∈ k.regs.bufOld, r.at_ + 8 ≤ n := foldl_max_le_iff ..
    _ ↔ (0 ≤ n ∧ ∀ r ∈ k.regs.kOld, r.at_ + 8 ≤ n) ∧ ∀ r ∈ k.regs.bufOld, r.at_ + 8 ≤ n := and_congr_left' (foldl_max_le_iff ..)
    _ ↔ k.regs.Old n := by rw [and_iff_right (Nat.zero_le n), CoreRegs.Old]

section
variable {s t : State} {vals : List Word}

theorem ksync_ends (hi : Issues s .ksync vals t) (h : t.me.phase = 1 ∨ (t.core t.iss.core).regs.Old t.now) :
    ∃ u, Ends .ksync s u ∧ Moved t u t.nextPlace := by
  rw [← Core.visibleAt_le_iff] at h
  exact moved_next hi rfl (if_pos (by simpa using h))

theorem ksync_waits (hi : Issues s .ksync vals t) (hp : t.me.phase = 0) (h : ¬ (t.core t.iss.core).regs.Old t.now) :
    ∃ (u : State) (n : Nat), Waits .ksync s u (.cycle n) ∧ t.now < n ∧ (t.core t.iss.core).regs.Old n ∧ ¬ (t.core t.iss.core).regs.Old (n - 1) ∧
      u = { t with cores := u.cores, timers := u.timers } ∧ (n, .ksyncResume t.iss.core t.iss.slot) ∈ u.timers ∧ u.me = { t.me with phase := 1 } := by
  simp only [← Core.visibleAt_le_iff] at h ⊢
  have hb : ¬ (t.me.phase = 1 ∨ (t.core t.iss.core).visibleAt ≤ t.now) := by omega
  refine ⟨_, (t.core t.iss.core).visibleAt, waits_of hi rfl (if_neg (by simpa using hb)), by omega, le_refl _, by omega, rfl, ?_, ?_⟩
  · have := (t.modCtx t.iss.core t.iss.slot fun x => { x with phase := 1 }).mem_timers_after ((t.core t.iss.core).visibleAt - t.now)
      (.ksyncResume t.iss.core t.iss.slot)
    rwa [State.now_modCtx, Nat.add_sub_cancel' (by omega)] at this
  · exact State.ctx_modCtx_self ..

/-! ### IDLE (08 R191) -/

theorem idle_ends (hi : Issues s .idle vals t)
    (h : t.me.phase = 1 ∨ (t.core t.iss.core).q.inq ≠ [] ∨ (t.core t.iss.core).q.evq ≠ [] ∨ (t.core t.iss.core).q.msq ≠ []) :
    ∃ u, Ends .idle s u ∧ Moved t u t.nextPlace :=
  moved_next hi rfl (if_pos (by simpa [or_assoc] using h))

theorem idle_waits (hi : Issues s .idle vals t) (hp : t.me.phase = 0) (h1 : (t.core t.iss.core).q.inq = []) (h2 : (t.core t.iss.core).q.evq = [])
    (h3 : (t.core t.iss.core).q.msq = []) :
    ∃ u, Waits .idle s u (.idle (t.now + 1024)) ∧ u = { t with cores := u.cores, timers := u.timers } ∧
      (t.now + 1024, .idleTimeout t.iss.core t.iss.slot) ∈ u.timers ∧ u.me = { t.me with phase := 1 } := by
  refine ⟨_, waits_of hi rfl (if_neg ?_), rfl, State.mem_timers_after .., State.ctx_modCtx_self ..⟩
  have hp' : (t.ctx t.iss.core t.iss.slot).phase = 0 := hp
  simp [hp', h1, h2, h3]

end

/-! ### The ends of timed waits -/

/-- A thread parked until a cycle goes on once the cycle has come. -/
theorem State.timeUp_parked {s : State} {c slot n : Nat} {w : Wait} {until_ : Wait → Option Nat} (hs : (s.ctx c slot).status = .parked w)
    (hu : until_ w = some n) :
    OnlyCtx c slot s (s.timeUp c slot until_) ∧
      (s.timeUp c slot until_).ctx c slot = { s.ctx c slot with status := if n ≤ s.now then .ready else .parked w } := by
  refine ⟨.modCtx .., (State.ctx_modCtx_self ..).trans ?_⟩
  simp only [hs, hu]
  split
  · rfl
  · rw [← hs]

/-! ### WAITX (08 R190) -/

theorem reached_iff (a g : Nat) : reached a g = true ↔ ((a : Int) - (g % 2 ^ 48 : Nat)) % 2 ^ 48 < 2 ^ 47 := by
  rw [reached, decide_eq_true_eq]
  omega

/-- Settles O6: each word by whether its wait is over; the three timed steps by `State.timeUp_parked`. -/
theorem timedWaits : Obligations.TimedWaits := by
  refine ⟨⟨fun s vals t hi => ?nop, fun s vals t hi => ⟨?ksyncEnds, ?ksyncWaits⟩, fun s vals t hi => ⟨?idleEnds, ?idleWaits⟩,
    fun s c slot n i w hw hs => ?timer⟩, fun a ch s vals t hi => ⟨fun hd => ?reached, fun hd => ?short⟩⟩
  case nop => exact moved_next hi rfl rfl
  case ksyncEnds => exact ksync_ends hi
  case ksyncWaits => exact ksync_waits hi
  case idleEnds => exact idle_ends hi
  case idleWaits => exact idle_waits hi
  case timer =>
    rcases hw with ⟨rfl, rfl⟩ | ⟨rfl, rfl⟩ | ⟨rfl, rfl⟩ <;> exact ⟨_, rfl, State.timeUp_parked hs rfl⟩
  case reached =>
    have hr : reached (Core.cpdone (t.core t.iss.core) ch) (fld (val0 vals).toNat 0 48) = true := by
      rw [reached_iff]; simpa [fld, Core.cpdone] using hd
    obtain ⟨u, hu, hf, hx⟩ := ends_modCtx hi rfl (if_pos hr)
    exact ⟨u, _, hu, hf, Ctx.observe_observes .., hx⟩
  case short =>
    have hr : ¬ reached (Core.cpdone (t.core t.iss.core) ch) (fld (val0 vals).toNat 0 48) = true := by
      rw [reached_iff]; simpa [fld, Core.cpdone] using hd
    have := waits_of hi (i := .waitx a ch) rfl (if_neg hr)
    simpa [fld] using this

end Sys2Proof.Machine
end

section
/-! PROOFS. Fences, requests and ends (08 R178, R192 to R195; O7): what a handler's END leaves, and each word by its wait. -/

namespace Sys2Proof.Machine

/-! ### The end of a porter's handler (08 R198; 12 R293) -/

/-- The transfer of a landing packet covers the stores of its handler, made up to `pt`. -/
def Transfer.coverLanding (x : Transfer) (l : LandFrom) (pt : Nat) : Transfer :=
  if x.req.chan == l.chan && x.req.id == l.id then { x with tc := max x.tc (pt - 1) } else x

/-- The same at the core that issued the transfer, where that is of this package. -/
def State.coverLanding (s : State) (asid pt : Nat) (l : LandFrom) : State :=
  if chipOf l.core = s.chip asid then
    s.modCore (s.phys l.core) fun k => { k with units := { k.units with transfers := k.units.transfers.map (·.coverLanding l pt) } }
  else s

theorem State.porterEnd_landing {s : State} {c : Nat} {l : LandFrom} (h : (s.core c).work.porter.bind PorterItem.land = some l) :
    s.porterEnd c = (((s.modCore c Core.porterEnded).coverLanding (s.ctx c 63).asid (s.ctx c 63).pt l).postLanding (s.ctx c 63).asid l 0).post
      (.porterHandlerStart c) := by
  unfold State.porterEnd
  simp only [h]
  rfl

theorem State.porterEnd_plain {s : State} {c : Nat} (h : (s.core c).work.porter.bind PorterItem.land = none) :
    s.porterEnd c = (s.modCore c Core.porterEnded).post (.porterHandlerStart c) := by
  unfold State.porterEnd
  simp only [h]
  rfl

/-- A cover changes nothing but the units of a core. -/
theorem State.core_coverLanding (s : State) (asid pt : Nat) (l : LandFrom) (c : Nat) :
    (s.coverLanding asid pt l).core c = { s.core c with units := ((s.coverLanding asid pt l).core c).units } := by
  unfold State.coverLanding
  split
  · by_cases h : c = s.phys l.core
    · rw [h, State.core_modCore_self]
    · rw [State.core_modCore_ne _ _ h]
  · rfl

theorem State.coverLanding_frame (s : State) (asid pt : Nat) (l : LandFrom) :
    s.coverLanding asid pt l = { s with cores := (s.coverLanding asid pt l).cores } := by
  unfold State.coverLanding
  split <;> rfl

/-- A landing packet's transfer is told by a message: here, or on another chip. -/
theorem State.postLanding_frame (s : State) (asid : Nat) (l : LandFrom) (status : Nat) :
    s.postLanding asid l status = { s with net := (s.postLanding asid l status).net, outbox := (s.postLanding asid l status).outbox } := by
  unfold State.postLanding
  split <;> rfl

theorem State.postLanding_here {s : State} {asid : Nat} {l : LandFrom} (h : chipOf l.core = s.chip asid) (status : Nat) :
    (s.postLanding asid l status).net = s.net ++ [.copyPacketLanding (s.phys l.core) l.chan l.id (l.pkt + 2 ^ 32 * status)] := by
  unfold State.postLanding
  rw [if_pos h]
  rfl

/-- A handler's end leaves the porter free, and memory as it is. -/
theorem State.porterEnd_left (s : State) (c : Nat) : (s.porterEnd c).ctx c 63 = {} ∧ ((s.porterEnd c).core c).work.porter = none ∧
    .porterHandlerStart c ∈ (s.porterEnd c).net ∧ (s.porterEnd c).mem = s.mem := by
  have hcore : (s.modCore c Core.porterEnded).core c = (s.core c).porterEnded := State.core_modCore_self ..
  cases h : (s.core c).work.porter.bind PorterItem.land with
  | none =>
    rw [State.porterEnd_plain h]
    exact ⟨(congrArg (Core.ctx · 63) hcore).trans (Core.porterEnded_ctx _), congrArg (·.work.porter) hcore,
      List.mem_append_right _ (List.mem_singleton.mpr rfl), rfl⟩
  | some l =>
    have hcover := (s.modCore c Core.porterEnded).core_coverLanding (s.ctx c 63).asid (s.ctx c 63).pt l c
    rw [hcore] at hcover
    rw [State.porterEnd_landing h, State.postLanding_frame, State.coverLanding_frame]
    exact ⟨(congrArg (Core.ctx · 63) hcover).trans (Core.porterEnded_ctx _), congrArg (·.work.porter) hcover,
      List.mem_append_right _ (List.mem_singleton.mpr rfl), rfl⟩

theorem State.porterEnd_lands {s : State} {c : Nat} {i : PorterItem} {l : LandFrom} (hi : (s.core c).work.porter = some i) (hl : i.land = some l)
    (hc : chipOf l.core = s.chip (s.ctx c 63).asid) : .copyPacketLanding (s.phys l.core) l.chan l.id l.pkt ∈ (s.porterEnd c).net := by
  have h : (s.core c).work.porter.bind PorterItem.land = some l := by rw [hi]; exact hl
  rw [State.porterEnd_landing h]
  refine List.mem_append_left _ ?_
  rw [State.postLanding_here (by rw [State.coverLanding_frame]; exact hc), State.coverLanding_frame]
  exact List.mem_append_right _ (List.mem_singleton.mpr rfl)

/-! ### Requests -/

section
variable {α : Type} {t : State} (a b : α)

/-- A word that waits for outstanding results goes on once they have returned; and so for a thread that settles. -/
theorem ite_returned (h : Returned t) : (if !(t.ctx t.iss.core t.iss.slot).allReturned t.now then a else b) = b :=
  if_neg (by rw [show Ctx.allReturned _ _ = true from (returned_iff t).2 h]; decide)
theorem ite_not_returned (h : ¬ Returned t) : (if !(t.ctx t.iss.core t.iss.slot).allReturned t.now then a else b) = a :=
  if_pos (by rw [show Ctx.allReturned _ _ = false from Bool.eq_false_iff.2 ((returned_iff t).not.2 h)]; decide)
theorem ite_settled (h : Settled t) : (if !(t.ctx t.iss.core t.iss.slot).settled t.now then a else b) = b :=
  if_neg (by rw [show Ctx.settled _ _ = true from (settled_iff t).2 h]; decide)
theorem ite_not_settled (h : ¬ Settled t) : (if !(t.ctx t.iss.core t.iss.slot).settled t.now then a else b) = a :=
  if_pos (by rw [show Ctx.settled _ _ = false from Bool.eq_false_iff.2 ((settled_iff t).not.2 h)]; decide)
theorem ite_fenced (h : Fenced t) : (if !(t.core t.iss.core).fenced t.iss.slot t.now then a else b) = b :=
  if_neg (by rw [(fenced_iff t).2 h]; decide)
theorem ite_not_fenced (h : ¬ Fenced t) : (if !(t.core t.iss.core).fenced t.iss.slot t.now then a else b) = a :=
  if_pos (by rw [Bool.eq_false_iff.2 ((fenced_iff t).not.2 h)]; decide)

end

/-- A save area that holds a thread holds it at any place. -/
theorem SavedFrom.of_complete {s : State} {c slot : Nat} {p : PC} {v : SavedCtx}
    (h : SavedFrom ((s.modCtx c slot fun x => x.complete p).core c) ((s.modCtx c slot fun x => x.complete p).ctx c slot) v) :
    SavedFrom (s.core c) (s.ctx c slot) v := by
  have hcore : (s.modCtx c slot fun x => x.complete p).core c = (s.core c).modCtx slot fun x => x.complete p := State.core_modCore_self ..
  rw [hcore, State.ctx_modCtx_self] at h
  exact h

section
variable {s t : State} {vals : List Word} {a : Operand}

theorem trap_passes (hi : Issues s (.trap a) vals t) (hp : t.me.phase ≠ 2) (hf : Fenced t) :
    ∃ (u : State) (y : Ctx), Waits (.trap a) s u .accept ∧ u = { t with cores := u.cores, net := u.net } ∧
      u.net = t.net ++ [.trapRecordAccept t.iss.core t.iss.slot
        { tid := t.tid t.iss.core t.iss.slot, asid := t.me.asid, cls := t.me.cls, next := t.nextPlace.addr, arg := val0 vals }] ∧
      FenceSeen t y ∧ u.me = { y with phase := 1 } := by
  obtain ⟨y, hy, -, hme, hiss, hnet, hframe⟩ := fenceDone_seen t hf.1.2
  refine ⟨_, y, waits_of hi rfl ((if_neg hp).trans (ite_fenced _ _ hf)), ?_, ?_, hy, ?_⟩
  · rw [hframe]; rfl
  · exact congrArg (· ++ [_]) hnet
  · rw [← hme]
    show State.ctx (State.modCtx ..) _ _ = _
    rw [State.iss_post, State.iss_modCtx, hiss, State.ctx_modCtx_self, State.me, hiss]

theorem snap_passes (hi : Issues s (.snap a) vals t) (hp : t.me.phase ≠ 2) (hr : Returned t) :
    ∃ u : State, Waits (.snap a) s u .accept ∧ u = { t with cores := u.cores, net := u.net } ∧
      u.net = t.net ++ [.snapRequest t.iss.core t.iss.slot ((val0 vals).toNat % 2 ^ 32)] ∧ u.me = { t.me with phase := 1 } := by
  refine ⟨_, waits_of hi rfl ((if_neg hp).trans (ite_returned _ _ hr)), rfl, ?_, State.ctx_modCtx_self ..⟩
  simp [State.post, fld]

theorem yield_saves (hi : Issues s .yield vals t) (hr : Returned t) (hm : .meshInterrupt t.iss.core ∈ t.net) (hc : t.me.cls ≠ 0) :
    ∃ (u : State) (v : SavedCtx), exec .yield s = .next u ∧
      u.ctx t.iss.core t.iss.slot = {} ∧ Tab.get? (u.core t.iss.core).work.saved t.iss.slot = some v ∧
      SavedFrom (t.core t.iss.core) t.me v ∧ v.ctx.pc = t.nextPlace ∧ u.mem = t.mem := by
  obtain ⟨hfree, v, hv, hsaved, hpc, -, -⟩ := (t.modCtx t.iss.core t.iss.slot fun x => x.complete t.nextPlace).saveContext_saved t.iss.core t.iss.slot
  refine ⟨_, v, gone_of hi rfl ((ite_returned _ _ hr).trans (if_pos (by simpa using ⟨hm, hc⟩))), hfree, hv, hsaved.of_complete, ?_, rfl⟩
  rw [hpc, State.ctx_modCtx_self]
  rfl

end

/-- Settles O7: each word by its wait; a handler's END by `State.porterEnd_left`. -/
theorem fencesAndRequests : Obligations.FencesAndRequests := by
  refine ⟨⟨fun s vals t hi => ⟨fun hf => ?fence, fun hf => ?fenceWait⟩, fun a s vals t hi => ⟨fun hp => ?trapDone, fun hp hf => ?trapWait,
    trap_passes hi⟩, fun a s vals t hi => ⟨fun hp => ?snapDone, fun hp hr => ?snapWait, snap_passes hi⟩, fun s vals t hi => ⟨fun hr => ?yieldWait,
    fun hr hn => ?yieldOn, yield_saves hi⟩⟩, fun s vals t hi => ⟨fun hn => ?endWait, fun hs h63 hg hw => ?ended, fun hs h63 => ?porter⟩⟩
  case fence =>
    obtain ⟨y, hy, hframe, hme, hiss, -, -⟩ := fenceDone_seen t hf.1.2
    refine ⟨_, y, ends_next hi rfl (if_pos ((fenced_iff t).2 hf)), hframe.trans (.modCtx ..), hy, ?_⟩
    rw [← hme, State.me, State.iss_modCtx, hiss, State.ctx_modCtx_self, State.me, hiss]
  case fenceWait => exact waits_of hi rfl (if_neg ((fenced_iff t).not.2 hf))
  case trapDone => exact moved_next hi rfl (if_pos hp)
  case trapWait => exact waits_of hi rfl ((if_neg hp).trans (ite_not_fenced _ _ hf))
  case snapDone => exact moved_next hi rfl (if_pos hp)
  case snapWait => exact waits_of hi rfl ((if_neg hp).trans (ite_not_returned _ _ hr))
  case yieldWait => exact waits_of hi rfl (ite_not_returned _ _ hr)
  case yieldOn =>
    refine moved_next hi rfl ((ite_returned _ _ hr).trans (if_neg ?_))
    rcases hn with h | h
    · simp [h]
    · simp [show (t.ctx t.iss.core t.iss.slot).cls = 0 from h]
  case endWait => exact waits_of hi rfl (ite_not_settled _ _ hn)
  case ended =>
    refine ⟨_, gone_of hi rfl ((ite_settled _ _ hs).trans ((if_neg h63).trans (congrArg Act.gone (State.vacate_noneWaits hw _)))), State.left_ctx ..,
      fun j hj => State.left_ctx_ne hg hj, State.left_file .., State.left_units .., fun c hc => State.core_modCore_ne t (fun k => k.left t.iss.slot) hc, rfl, rfl⟩
  case porter =>
    obtain ⟨hctx, hporter, hstart, hmem⟩ := t.porterEnd_left t.iss.core
    have hx : t.me = t.ctx t.iss.core 63 := by rw [State.me, h63]
    exact ⟨_, gone_of hi rfl ((ite_settled _ _ hs).trans (if_pos h63)), hctx, hporter, hstart,
      fun i l hpi hl hchip => State.porterEnd_lands hpi hl (by rwa [← hx]), hmem⟩

end Sys2Proof.Machine
end

section
/-! PROOFS. Messages (08 R182; O8): the target's check, and where what a core sends goes. -/

namespace Sys2Proof.Machine

/-- When a logical core id is valid for a job (01 R21). -/
theorem State.validCore_iff (s : State) (asid : Nat) {dst : Nat} (h : dst < 2 ^ 24) :
    s.validCore asid dst = true ↔ dst % 8 = 0 ∧ dst / 8 % 32 ≤ 15 ∧ dst / 2 ^ 16 % 2 ^ 8 < s.chips asid := by
  simp only [State.validCore, Bool.and_eq_true, decide_eq_true_eq, beq_iff_eq]
  exact ⟨fun ⟨⟨⟨h8, hcore⟩, _⟩, hchip⟩ => ⟨h8, hcore, hchip⟩, fun ⟨h8, hcore, hchip⟩ => ⟨⟨⟨h8, hcore⟩, h⟩, hchip⟩⟩

/-- What is sent to a core of the job's own chip, of a failed link, or of another chip (14 R325). -/
theorem State.sendTo_returned {s : State} {asid dst : Nat} {i j : Instr} (h : chipOf dst ≠ s.chip asid) (hl : s.linkDown asid dst)
    (hj : returned dst i = some j) (cut : Bool) : ∃ y : Yew, s.sendTo asid dst cut i = { s with yew := y, net := s.net ++ [j] } := by
  obtain ⟨y, -, hs⟩ := s.countSent_yew asid cut
  refine ⟨y, ?_⟩
  rw [State.sendTo, if_neg h, if_pos hl, hj, hs]
  rfl

theorem State.sendTo_away {s : State} {asid dst : Nat} (h : chipOf dst ≠ s.chip asid) (hl : ¬ s.linkDown asid dst) (cut : Bool) (i : Instr) :
    s.sendTo asid dst cut i = { s with outbox := s.outbox ++ [⟨chipOf dst, i⟩] } := by
  rw [State.sendTo, if_neg h, if_neg hl]

/-- The step by which a message arrives (08 R183). -/
def messageStep (m : SendMsg) : Instr := if m.unaddressed then .senduArrival m else .sendArrival m

theorem returned_messageStep (m : SendMsg) (dst : Nat) : returned dst (messageStep m) = some (.returnedSend m) := by
  unfold messageStep
  split <;> rfl

/-- Where a message goes that a thread sends. -/
theorem State.sendTo_message (s : State) (asid dst : Nat) (m : SendMsg) : ∃ (y : Yew) (net : List Instr) (out : List OutMsg),
    s.sendTo asid dst m.cut (messageStep m) = { s with yew := y, net := net, outbox := out } ∧
    (if chipOf dst = s.chip asid then net = s.net ++ [messageStep m] ∧ out = s.outbox
     else if s.linkDown asid dst then net = s.net ++ [.returnedSend m] ∧ out = s.outbox
     else out = s.outbox ++ [⟨chipOf dst, messageStep m⟩] ∧ net = s.net) := by
  by_cases hc : chipOf dst = s.chip asid
  · obtain ⟨y, -, hs⟩ := State.sendTo_here hc m.cut (messageStep m)
    exact ⟨y, _, s.outbox, hs, by rw [if_pos hc]; exact ⟨rfl, rfl⟩⟩
  by_cases hl : s.linkDown asid dst
  · obtain ⟨y, hs⟩ := State.sendTo_returned hc hl (returned_messageStep m dst) m.cut
    exact ⟨y, _, s.outbox, hs, by rw [if_neg hc, if_pos hl]; exact ⟨rfl, rfl⟩⟩
  · exact ⟨s.yew, s.net, _, State.sendTo_away hc hl m.cut (messageStep m), by rw [if_neg hc, if_neg hl]; exact ⟨rfl, rfl⟩⟩

/-- The message that a word sends. -/
def State.sendMsg (t : State) (unaddressed : Bool) (vals : List Word) : SendMsg :=
  { unaddressed := unaddressed, tgt := val0 vals, v := val1 vals, tid := t.tid t.iss.core t.iss.slot, asid := t.me.asid,
    cls := t.me.cls, ts := t.me.pt, cut := t.cutBit t.iss.core t.me.asid }

/-- Settles O8: the word's two checks, and then `State.sendTo_message`. -/
theorem sendsLeave : Obligations.SendsLeave := by
  intro a b unaddressed i hi s vals t his dst ok
  have hexec : exec i s = .next (s.issue i fun v t => sendWord unaddressed v t) := by subst hi; cases unaddressed <;> rfl
  have hdst : fld (val0 vals).toNat 14 24 = dst := rfl
  have hok : t.validCore t.me.asid dst = true ↔ ok := t.validCore_iff _ (Nat.mod_lt _ (by decide))
  refine ⟨fun hn => ?check, fun ho hs => ?wait, fun ho hs => ?send⟩
  case check => exact faults_of his hexec (if_pos (by rw [hdst, show t.validCore _ _ = false from Bool.eq_false_iff.2 (hok.not.2 hn)]; decide))
  case wait =>
    exact waits_of his hexec ((if_neg (by rw [hdst, show t.validCore _ _ = true from hok.2 ho]; decide)).trans (ite_not_settled _ _ hs))
  case send =>
    obtain ⟨y, net, out, hsend, hwhere⟩ := (t.modCtx t.iss.core t.iss.slot fun x => { x with pt := x.pt + 1 }).sendTo_message t.me.asid dst
      (t.sendMsg unaddressed vals)
    have hbody : sendWord unaddressed vals t = .next { t.modCtx t.iss.core t.iss.slot fun x => { x with pt := x.pt + 1 } with
        yew := y, net := net, outbox := out } := by
      rw [← hsend]
      exact (if_neg (by rw [hdst, show t.validCore _ _ = true from hok.2 ho]; decide)).trans (ite_settled _ _ hs)
    refine ⟨_, t.sendMsg unaddressed vals, ends_next his hexec hbody, rfl, ?_, rfl, hwhere⟩
    exact (State.ctx_modCtx_self ..).trans (congrArg (Ctx.complete · t.nextPlace) (State.ctx_modCtx_self ..))

end Sys2Proof.Machine
end

section
/-! PROOFS. Forks (08 R178; 02 R47; O13): what a lookup of the block map leaves, and the ways of a child. -/

namespace Sys2Proof.Machine

/-- The porter issues no word that R198 keeps from it. -/
theorem Issues.notPorter {s t : State} {i : Instr} {vals : List Word} (h : Issues s i vals t) (hi : porterForbids i = true) : t.iss.slot ≠ 63 := by
  rw [h.iss]
  intro h63
  have hpriv : privilegeFault s s.iss.core s.iss.slot i = true := by simp [privilegeFault, h63, hi]
  have hclean := h.clean
  cases hwf : wellFormed i with
  | false => simp [earlyFault, hwf] at hclean
  | true => simp [earlyFault, hwf, hpriv] at hclean

/-! ### A lookup of the block map (05 R123) -/

theorem Core.mapEntry_mapUse (k : Core) (asid blk now : Nat) :
    (k.mapUse asid blk now).mapEntry asid blk = (k.mapEntry asid blk).map fun e => { e with used := now } := by
  unfold Core.mapEntry Core.mapUse
  generalize k.work.map = l
  induction l with
  | nil => rfl
  | cons e l ih =>
    by_cases h : (e.asid == asid && e.blk == blk) = true
    · simp only [List.map_cons, h, if_true, List.find?_cons_of_pos, Option.map_some]
    · simpa only [List.map_cons, h, Bool.false_eq_true, if_false, List.find?_cons] using ih

theorem Core.descOf_mapUse (k : Core) (asid d now : Nat) : (k.mapUse asid (d / 512) now).descOf asid d = k.descOf asid d := by
  have hp : (k.mapUse asid (d / 512) now).placedBlock asid (d / 512) = k.placedBlock asid (d / 512) := rfl
  simp only [Core.descOf, Core.descsOf, hp, Core.mapEntry_mapUse]
  cases k.placedBlock asid (d / 512) with
  | some p => rfl
  | none => cases k.mapEntry asid (d / 512) <;> rfl

/-- A transfer looks its block up, unless it is the thread's own. -/
def State.look (t : State) (c asid own blk : Nat) : State := if blk = own then t else t.mapUse c asid blk

section
variable (t : State) (c asid own blk : Nat)

theorem State.look_cases : t.look c asid own blk = t ∨ t.look c asid own blk = t.mapUse c asid blk := by
  unfold State.look
  split
  · exact .inl rfl
  · exact .inr rfl

/-- Nothing of the state but the core's block map differs after a lookup. -/
theorem State.look_frame : t.look c asid own blk = { t with cores := (t.look c asid own blk).cores } := by
  rcases t.look_cases c asid own blk with h | h
  · rw [h]
  · rw [h]; rfl

theorem State.core_look : (t.look c asid own blk).core c = t.core c ∨ (t.look c asid own blk).core c = (t.core c).mapUse asid blk t.now := by
  rcases t.look_cases c asid own blk with h | h
  · exact .inl (by rw [h])
  · exact .inr (by rw [h]; exact State.core_modCore_self ..)

theorem State.core_look_map : (t.look c asid own blk).core c = { t.core c with work := { (t.core c).work with
    map := ((t.look c asid own blk).core c).work.map } } := by
  rcases t.core_look c asid own blk with h | h
  · rw [h]
  · rw [h]; rfl

theorem State.look_onlyCore : OnlyCore c t (t.look c asid own blk) := by
  refine ⟨t.look_frame .., fun e he => ?_⟩
  rcases t.look_cases c asid own blk with h | h
  · rw [h]
  · rw [h, State.mapUse, State.core_modCore_ne _ _ he]

@[simp] theorem State.ctx_look (slot : Nat) : (t.look c asid own blk).ctx c slot = t.ctx c slot := by
  rw [State.ctx, State.core_look_map]; rfl
@[simp] theorem State.now_look : (t.look c asid own blk).now = t.now := by rw [State.look_frame]
@[simp] theorem State.iss_look : (t.look c asid own blk).iss = t.iss := by rw [State.look_frame]
@[simp] theorem State.net_look : (t.look c asid own blk).net = t.net := by rw [State.look_frame]
theorem State.chip_look (a : Nat) : (t.look c asid own blk).chip a = t.chip a := by rw [State.look_frame]; rfl
theorem State.coreId_look (a d : Nat) : (t.look c asid own blk).coreId a d = t.coreId a d := by rw [State.look_frame]; rfl
theorem State.tid_look (slot : Nat) : (t.look c asid own blk).tid c slot = t.tid c slot := by
  simp only [State.tid, State.ctx_look, State.coreId_look]
theorem State.packParity_look (slot desc : Nat) : (t.look c asid own blk).packParity c slot desc = t.packParity c slot desc := by
  unfold State.packParity
  rw [State.core_look_map]; rfl
theorem State.placedBlock_look (a b : Nat) : ((t.look c asid own blk).core c).placedBlock a b = (t.core c).placedBlock a b := by
  rw [State.core_look_map]; rfl
theorem State.freeSlot_look : ((t.look c asid own blk).core c).freeSlot none = (t.core c).freeSlot none := by
  rw [State.core_look_map]; rfl
theorem State.descOf_look (d : Nat) : ((t.look c asid own (d / 512)).core c).descOf asid d = (t.core c).descOf asid d := by
  rcases t.core_look c asid own (d / 512) with h | h
  · rw [h]
  · rw [h, Core.descOf_mapUse]
/-- The entry of the block that was looked up keeps its holders. -/
theorem State.mapEntry_look {e : MapEntry} (h : (t.core c).mapEntry asid blk = some e) : ∃ n, ((t.look c asid own blk).core c).mapEntry asid blk =
    some { e with used := n } := by
  rcases t.core_look c asid own blk with hk | hk <;> rw [hk]
  · exact ⟨e.used, h⟩
  · exact ⟨t.now, by rw [Core.mapEntry_mapUse, h]; rfl⟩

theorem Carries.of_look {t : State} {c asid own blk slot desc : Nat} {m : Travel} (h : Carries (t.look c asid own blk) c slot desc m) :
    Carries t c slot desc m := by
  unfold Carries at h ⊢
  simp only [State.ctx_look, State.coreId_look, State.tid_look] at h
  rw [State.core_look_map] at h
  exact h

end

/-! ### The child (02 R47) -/

/-- A transfer of kind 3 past the checks creates a child. -/
theorem State.transfer_fork {t : State} {c slot d : Nat} (hs : slot ≠ 63) (h : d < 2 ^ 33) (h0 : d / 512 ≠ 0)
    (hk : if d / 512 = (t.ctx c slot).pc.blk then d % 512 < (t.core c).blockCount (t.ctx c slot).asid (d / 512)
      else (t.core c).declares (t.ctx c slot).asid (d / 512) (d % 512)) :
    t.transfer c slot 3 (.addr d) = (t.look c (t.ctx c slot).asid (t.ctx c slot).pc.blk (d / 512)).forkChild c slot d none := by
  rw [State.transfer_checked hs h h0 (fun h => absurd h (by decide)), State.look]
  split at hk
  next hb => rw [if_pos hb, if_pos hb, if_neg (by rw [← hb]; exact Nat.not_le.2 hk), if_pos rfl]
  next hb =>
    obtain ⟨descs, hl, he⟩ := hk
    have he' : entryAt descs (d % 512) ≠ none := Option.isSome_iff_ne_none.1 he
    rw [if_neg hb, if_neg hb, Core.known_lists hl]
    simp [he']

/-- The child's message. -/
def State.childMsg (w : State) (c slot d : Nat) : Travel := w.packTravel c slot d 3 ((w.core c).descOf (w.ctx c slot).asid d) 0 none

theorem State.childMsg_carries (w : State) (c slot d : Nat) : Carries w c slot ((w.core c).descOf (w.ctx c slot).asid d) (w.childMsg c slot d) :=
  w.departMsg_carries c slot d 3 _

section
variable {w : State} {c slot d : Nat}

theorem State.forkChild_taken (hp : (w.ctx c slot).phase = 2) : w.forkChild c slot d none = .next w := if_pos hp

theorem State.forkChild_waits (hp : (w.ctx c slot).phase ≠ 2) (hs : (w.ctx c slot).settled w.now = false) :
    w.forkChild c slot d none = .hold .settle w := by
  unfold State.ctx at *
  simp only [State.forkChild, hp, if_false, hs, Bool.not_false, if_true]

variable (hp : (w.ctx c slot).phase ≠ 2) (hs : (w.ctx c slot).settled w.now = true)
  (hpar : w.packParity c slot ((w.core c).descOf (w.ctx c slot).asid d) = none)
include hp hs hpar

/-- A child for a block held here waits on the core's deque. -/
theorem State.forkChild_here (hb : ((w.core c).placedBlock (w.ctx c slot).asid (d / 512)).isSome) (hroom : (w.core c).work.deque.length < 64)
    (hfull : (w.core c).freeSlot none = none) : w.forkChild c slot d none =
      .next (w.modCore c fun k => k.withChild { body := .travel (w.childMsg c slot d), arrival := w.cycle c }) := by
  have hpush := State.pushDeque_room hroom (w.childMsg c slot d)
  unfold State.childMsg State.ctx at *
  simp only [State.forkChild, hp, if_false, hs, Bool.not_true, Bool.false_eq_true, hpar, hb, if_true, hpush]
  refine congrArg _ (State.readmit_full ?_ 63)
  rw [State.core_modCore_self]
  exact hfull

/-- A child for a block held elsewhere goes to the holder that its entry chooses. -/
theorem State.forkChild_away {e : MapEntry} {h : Nat} (hb : ((w.core c).placedBlock (w.ctx c slot).asid (d / 512)).isSome = false)
    (hm : (w.core c).mapEntry (w.ctx c slot).asid (d / 512) = some e) (hn : e.nholders ≠ 0) (hh : e.choose (w.tid c slot) = some h)
    (hc : chipOf h = w.chip (w.ctx c slot).asid) : ∃ y : Yew, w.forkChild c slot d none =
      .hold .accept { w.modCtx c slot fun x => { x with phase := 1 } with yew := y, net := w.net ++ [.forkChildArrival h { w.childMsg c slot d with
        parent := some (c, slot) }] } := by
  obtain ⟨y, -, hy⟩ := State.sendTo_here (s := w.modCtx c slot fun x => { x with phase := 1 }) hc (w.childMsg c slot d).cut
    (.forkChildArrival h { w.childMsg c slot d with parent := some (c, slot) })
  refine ⟨y, ?_⟩
  have htid : (w.modCtx c slot fun x => { x with phase := 1 }).tid c slot = w.tid c slot := by
    simp only [State.tid, State.ctx_modCtx_self]
    rfl
  unfold State.childMsg State.ctx at *
  simp only [State.forkChild, hp, if_false, hs, Bool.not_true, Bool.false_eq_true, hpar, hb, hm, hn, htid, hh]
  exact congrArg _ hy

end

/-! ### A fork past the checks of its target -/

section
variable {i : Instr} {s t w : State} {vals : List Word} {body : List Word → State → Act} {d : Nat} (hi : Issues s i vals t)
  (he : exec i s = .next (s.issue i body)) (hw : w = t.look t.iss.core t.me.asid t.me.pc.blk (d / 512))
  (hf : body vals t = w.forkChild t.iss.core t.iss.slot d none)
include hi he hw hf

theorem fork_ends (hp : t.me.phase = 2) : ∃ u : State, Ends i s u ∧ Moved w u t.nextPlace := by
  have hx : w.ctx t.iss.core t.iss.slot = t.me := by rw [hw]; exact State.ctx_look ..
  have hiss : w.iss = t.iss := by rw [hw]; exact State.iss_look ..
  have hend := ends_next hi he (hf.trans (State.forkChild_taken ((congrArg Ctx.phase hx).trans hp)))
  rw [← hiss] at hend
  exact ⟨_, hend, .modCtx ..⟩

theorem fork_waits (hp : t.me.phase ≠ 2) (hs : ¬ Settled t) : Waits i s w .settle := by
  have hx : w.ctx t.iss.core t.iss.slot = t.me := by rw [hw]; exact State.ctx_look ..
  have hnow : w.now = t.now := by rw [hw]; exact State.now_look ..
  exact waits_of hi he (hf.trans (State.forkChild_waits (by rw [hx]; exact hp)
    (by rw [hx, hnow]; exact Bool.eq_false_iff.2 ((settled_iff t).not.2 hs))))

variable (hp : t.me.phase ≠ 2) (hs : Settled t)
  (hpar : t.packParity t.iss.core t.iss.slot ((t.core t.iss.core).descOf t.me.asid d) = none)
include hp hs hpar

theorem fork_here (hplaced : ((t.core t.iss.core).placedBlock t.me.asid (d / 512)).isSome) (hroom : (t.core t.iss.core).work.deque.length < 64)
    (hfull : (t.core t.iss.core).freeSlot none = none) : ∃ (u : State) (m : Travel) (q : QSlot), Ends i s u ∧ OnlyCore t.iss.core t u ∧
      (u.core t.iss.core).file = (t.core t.iss.core).file ∧
      (u.core t.iss.core).work = { (w.core t.iss.core).work with deque := (t.core t.iss.core).work.deque ++ [q] } ∧ q.body = .travel m ∧
      q.returned = false ∧ m.kind = 3 ∧ m.dest = d ∧ m.link = 0 ∧ m.parent = none ∧
      Carries t t.iss.core t.iss.slot ((t.core t.iss.core).descOf t.me.asid d) m ∧ u.me = t.me.complete t.nextPlace := by
  subst hw
  have hx := t.ctx_look t.iss.core t.me.asid t.me.pc.blk (d / 512) t.iss.slot
  have hmap := t.core_look_map t.iss.core t.me.asid t.me.pc.blk (d / 512)
  have hcarries := Carries.of_look ((t.look t.iss.core t.me.asid t.me.pc.blk (d / 512)).childMsg_carries t.iss.core t.iss.slot d)
  have honly := t.look_onlyCore t.iss.core t.me.asid t.me.pc.blk (d / 512)
  have hiss := t.iss_look t.iss.core t.me.asid t.me.pc.blk (d / 512)
  rw [hx, State.descOf_look] at hcarries
  have hchild := State.forkChild_here (w := t.look t.iss.core t.me.asid t.me.pc.blk (d / 512)) (c := t.iss.core) (slot := t.iss.slot) (d := d)
    (by rw [hx]; exact hp) (by rw [hx, State.now_look]; exact (settled_iff t).2 hs) (by rw [hx, State.descOf_look, State.packParity_look]; exact hpar)
    (by rw [hx, State.placedBlock_look]; exact hplaced) (by rw [hmap]; exact hroom) (by rw [State.freeSlot_look]; exact hfull)
  generalize t.look t.iss.core t.me.asid t.me.pc.blk (d / 512) = w at *
  have hcore (k : Core → Core) (f : Ctx → Ctx) :
      ((w.modCore t.iss.core k).modCtx t.iss.core t.iss.slot f).core t.iss.core = (k (w.core t.iss.core)).modCtx t.iss.slot f := by
    rw [State.core_modCtx_self, State.core_modCore_self]
  refine ⟨_, w.childMsg t.iss.core t.iss.slot d, { body := .travel (w.childMsg t.iss.core t.iss.slot d), arrival := w.cycle t.iss.core },
    ends_next hi he (hf.trans hchild), ⟨?_, fun e h => ?_⟩, ?_, ?_, rfl, rfl, rfl, rfl, rfl, rfl, hcarries, ?_⟩
  · rw [honly.1]; rfl
  · rw [State.core_modCtx_ne _ _ _ h, State.core_modCore_ne _ _ h, honly.2 e h]
  · rw [hcore, hmap]; rfl
  · rw [hcore, hmap]; rfl
  · rw [State.me, State.iss_modCtx, State.iss_modCore, hiss, State.ctx_modCtx_self, State.ctx, State.core_modCore_self]
    exact congrArg (Ctx.complete · t.nextPlace) hx

theorem fork_away {e : MapEntry} {h : Nat} (hplaced : ((t.core t.iss.core).placedBlock t.me.asid (d / 512)).isSome = false)
    (hm : (t.core t.iss.core).mapEntry t.me.asid (d / 512) = some e) (hn : e.nholders ≠ 0) (hh : e.choose (t.tid t.iss.core t.iss.slot) = some h)
    (hc : chipOf h = t.chip t.me.asid) : ∃ (u : State) (m : Travel), Waits i s u .accept ∧
      u = { w with cores := u.cores, net := u.net, yew := u.yew } ∧ u.net = t.net ++ [.forkChildArrival h m] ∧ m.kind = 3 ∧ m.dest = d ∧
      m.link = 0 ∧ m.parent = some (t.iss.core, t.iss.slot) ∧ Carries t t.iss.core t.iss.slot ((t.core t.iss.core).descOf t.me.asid d) m ∧
      u.me = { t.me with phase := 1 } := by
  subst hw
  have hx := t.ctx_look t.iss.core t.me.asid t.me.pc.blk (d / 512) t.iss.slot
  have hcarries := Carries.of_look ((t.look t.iss.core t.me.asid t.me.pc.blk (d / 512)).childMsg_carries t.iss.core t.iss.slot d)
  rw [hx, State.descOf_look] at hcarries
  obtain ⟨n, hm'⟩ := t.mapEntry_look t.iss.core t.me.asid t.me.pc.blk (d / 512) hm
  obtain ⟨y, hy⟩ := State.forkChild_away (w := t.look t.iss.core t.me.asid t.me.pc.blk (d / 512)) (c := t.iss.core) (slot := t.iss.slot) (d := d)
    (e := { e with used := n }) (h := h) (by rw [hx]; exact hp) (by rw [hx, State.now_look]; exact (settled_iff t).2 hs)
    (by rw [hx, State.descOf_look, State.packParity_look]; exact hpar) (by rw [hx, State.placedBlock_look]; exact hplaced) (by rw [hx]; exact hm') hn
    (by rw [State.tid_look]; exact hh) (by rw [hx, State.chip_look]; exact hc)
  refine ⟨_, _, waits_of hi he (hf.trans hy), rfl, congrArg (· ++ [_]) (t.net_look ..), rfl, rfl, rfl, rfl, hcarries, ?_⟩
  show State.ctx (State.modCtx ..) (State.look ..).iss.core (State.look ..).iss.slot = _
  rw [State.iss_look, State.ctx_modCtx_self, hx]

end

/-! ### The statement -/

/-- Settles O13: the faults and the wait from the cases of a transfer; past them the ways of the child. -/
theorem forksSpawn : Obligations.ForksSpawn := by
  intro i target hform s vals t d hi ht c slot k x blk w known
  have hbody : ∃ body, exec i s = .next (s.issue i body) ∧ body vals t = t.transfer c slot 3 (.addr d) := by
    rcases hform with ⟨a, rfl, rfl⟩ | ⟨e, delta, rfl, rfl⟩
    · exact ⟨_, rfl, by rw [ht]; rfl⟩
    · exact ⟨_, rfl, transferJ_addr ht 3⟩
  have hslot : slot ≠ 63 := hi.notPorter (by rcases hform with ⟨a, rfl, -⟩ | ⟨e, delta, rfl, -⟩ <;> rfl)
  obtain ⟨body, he, hb⟩ := hbody
  have hnone : (3 : Nat) = 1 → x.pc.off + 1 < k.blockCount x.asid x.pc.blk := fun h => absurd h (by decide)
  have hfork (h : d < 2 ^ 33) (h0 : blk ≠ 0) (hk : known) : body vals t = w.forkChild c slot d none :=
    hb.trans (State.transfer_fork hslot h h0 hk)
  refine ⟨fun h => ?bad, fun h h0 hown hc => ?past, fun h h0 hne hm => ?miss, fun h h0 _ hk => ⟨fork_ends hi he rfl (hfork h h0 hk),
    fork_waits hi he rfl (hfork h h0 hk), fork_here hi he rfl (hfork h h0 hk), fun _ _ hp hs hpar => fork_away hi he rfl (hfork h h0 hk) hp hs hpar⟩⟩
  case bad => exact faults_of hi he (hb.trans (State.transfer_bad hslot h))
  case past => exact faults_of hi he (hb.trans (State.transfer_past hslot h h0 hnone hown (by rw [hown] at hc; exact hc)))
  case miss => exact waits_of hi he (hb.trans (State.transfer_miss hslot h h0 hnone hne hm))

end Sys2Proof.Machine
end

section
/-! PROOFS. Waiting reads and joins (08 R179, R180; 05 R129; O5): a register read once it is full, an address through bf0, and an access
that no cache serves. -/

namespace Sys2Proof.Machine

/-! ### Waiting reads (08 R180) -/

/-- The state with register `n` of a slot emptied where a read clears it. -/
def State.drained (t : State) (c slot n : Nat) (clear : Bool) : State := if clear then t.modCore c fun k => k.setFull slot n false else t

theorem State.drained_frame (t : State) (c slot n : Nat) (clear : Bool) :
    t.drained c slot n clear = { t with cores := (t.drained c slot n clear).cores } := by
  unfold State.drained
  split <;> rfl

theorem State.core_drained_ne (t : State) {c e : Nat} (slot n : Nat) (clear : Bool) (h : e ≠ c) : (t.drained c slot n clear).core e = t.core e := by
  unfold State.drained
  split
  · exact State.core_modCore_ne _ _ h
  · rfl

theorem State.core_drained (t : State) (c slot n : Nat) (clear : Bool) :
    (t.drained c slot n clear).core c = { t.core c with empty := ((t.drained c slot n clear).core c).empty } := by
  unfold State.drained
  split
  · rw [State.core_modCore_self]; rfl
  · rfl

theorem State.mem_empty_drained (t : State) (c slot n : Nat) (clear : Bool) (x : Nat) :
    x ∈ ((t.drained c slot n clear).core c).empty ↔ x ∈ (t.core c).empty ∨ clear ∧ x = (t.ctx c slot).win.mainBase + n := by
  unfold State.drained
  cases clear with
  | false => simp
  | true =>
    have hmem : x ∈ ((t.core c).setFull slot n false).empty ↔ x = (t.ctx c slot).win.mainBase + n ∨ x ∈ (t.core c).empty ∧
        x ≠ (t.ctx c slot).win.mainBase + n := by
      refine (mem_insertBy ..).trans ?_
      simp [State.ctx]
    rw [if_pos rfl, State.core_modCore_self, hmem]
    tauto

section
variable {i : Instr} {d : Operand} {a : Fin 128} {clear : Bool} {t : State}

theorem waitingRead_waits (hp : t.me.phase ≠ 2) (he : t.me.win.mainBase + a.val ∈ (t.core t.iss.core).empty) :
    waitingRead i clear d a t = .hold (.full a) t :=
  (if_neg hp).trans (if_pos (by rw [Bool.eq_false_iff.2 fun h => (Core.isFull_iff ..).1 h he]; rfl))

/-- A full register that waits for no result is read, and its value goes on. -/
theorem waitingRead_reads (hp : t.me.phase ≠ 2) (he : t.me.win.mainBase + a.val ∉ (t.core t.iss.core).empty)
    (hn : ((t.view t.iss.core).ctx t.iss.slot).pendFor (.g a) = none) (hd : ∀ n, d ≠ .q n) : waitingRead i clear d a t =
      (t.drained t.iss.core t.iss.slot a clear).result t.iss.core t.iss.slot i d
        (Tab.getD (t.view t.iss.core).file (((t.view t.iss.core).ctx t.iss.slot).win.mainBase + a.val) 0) := by
  have hread : t.readMains t.iss.core t.iss.slot a 1 = ([(t.view t.iss.core).readMain ((t.view t.iss.core).ctx t.iss.slot) a], t) := by
    simp only [State.readMains, State.readEither_plain hn]
  obtain ⟨u, hu, -, -⟩ := (t.drained t.iss.core t.iss.slot a clear).result_writes t.iss.core t.iss.slot i d
    ((t.view t.iss.core).readMain ((t.view t.iss.core).ctx t.iss.slot) a) hd {}
  refine (if_neg hp).trans ((if_neg (by rw [(Core.isFull_iff ..).2 he]; decide)).trans ?_)
  simp only [hread]
  exact (congrArg (Act.orBack · t) hu).trans hu.symm

end

/-! ### An address through bf0 (04 R99) -/

/-- bf0 names virtual addresses from 0 on, without bounds. -/
theorem State.locate_flat (s : State) (c asid cls : Nat) (v : Word) (n align : Nat) (kind : Purpose) :
    s.locate c asid cls flatRecord v.toInt n align kind true =
      if 2 ^ 48 ≤ v.toNat then .fault 4 fcTranslation v.toNat false
      else if v.toNat % align ≠ 0 then .fault 5 fcAlignment v.toNat false
      else s.translate c asid v.toNat kind 0 := by
  have haddr : wrap64 (recBase flatRecord + v.toInt) = v.toNat := by
    have hbase : recBase flatRecord = 0 := by decide
    rw [hbase, Nat.cast_zero, zero_add, wrap64, BitVec.toInt_eq_toNat_cond]
    have := v.isLt
    split <;> omega
  have hspace : recSpace flatRecord = 0 := by decide
  have hbounds : recBounds flatRecord = 0 := by decide
  have hpol : recPolicy flatRecord = 0 := by decide
  simp [State.locate, State.locateAt, hspace, hbounds, hpol, haddr]

/-! ### An access that no cache serves (04 R88; 12 R283) -/

/-- The one access of a thread asks for the fill of its line, which neither its core's cache nor its hedge's victim cache holds. -/
theorem State.access_missing {s : State} {c slot : Nat} {a : Access} (hp : (s.ctx c slot).pipe = []) (hk : a.kind ≠ .none) (ho : a.owner = none)
    (ha : a.posted = false) (hx : a.excl = false) (hs : isSramLine a.line = false) (hc : ∀ l ∈ (s.core c).cache, l.line ≠ a.line)
    (hv : ∀ l ∈ (s.hedge (hedgeKey c)).victim, l.line ≠ a.line) :
    s.access c slot [a] = (s.modCtx c slot fun x => { x with pipe := [{ a with posted := true }] }).post (.fillRequest c slot a.line) := by
  have hpipe : ((s.modCtx c slot fun x => { x with pipe := x.pipe ++ [a] }).ctx c slot).pipe = [a] := by
    rw [State.ctx_modCtx_self]; simp [hp]
  have hcached : ((s.modCtx c slot fun x => { x with pipe := x.pipe ++ [a] }).core c).cached a.line = none := by
    rw [State.core_modCtx_self]; simpa [Core.cached] using hc
  have hvictim : (s.modCtx c slot fun x => { x with pipe := x.pipe ++ [a] }).fromVictim c a.line = s.modCtx c slot fun x =>
      { x with pipe := x.pipe ++ [a] } := by
    have : (((s.modCtx c slot fun x => { x with pipe := x.pipe ++ [a] }).hedge (hedgeKey c)).victim.find? fun l => l.line == a.line) = none := by
      show ((s.hedge (hedgeKey c)).victim.find? fun l => l.line == a.line) = none
      simpa using hv
    simp only [State.fromVictim, this]
  have hhead : (s.modCtx c slot fun x => { x with pipe := x.pipe ++ [a] }).headAccess c slot =
      ((s.modCtx c slot fun x => { x with pipe := [{ a with posted := true }] }).post (.fillRequest c slot a.line), false) := by
    simp only [State.headAccess, hpipe, hk, if_false, ho, hs, Bool.false_eq_true, hcached, Option.isNone_none, Bool.true_and, hvictim, ite_self, hx, ha,
      State.modCtx_modCtx]
  simp only [State.access, State.pumpAll, State.pump, hhead]

/-- The load of a join counter, asked for. -/
theorem State.join_missing {s : State} {c slot pa : Nat} (hp : (s.ctx c slot).pipe = []) (hs : isSramLine (pa / 128) = false)
    (hc : ∀ l ∈ (s.core c).cache, l.line ≠ pa / 128) (hv : ∀ l ∈ (s.hedge (hedgeKey c)).victim, l.line ≠ pa / 128) (va : Nat) (x : Ctx)
    (forced : Bool) : s.access c slot [joinAccess pa va x forced] =
      (s.modCtx c slot fun y => { y with pipe := [{ joinAccess pa va x forced with posted := true }] }).post (.fillRequest c slot (pa / 128)) :=
  State.access_missing hp (by exact AccKind.noConfusion) rfl rfl rfl hs hc hv

/-! ### Joins (08 R179; 05 R129) -/

/-- The use of a translation orders the TLBs of a core and its hedge, and nothing else. -/
theorem State.useTlb_frame (s : State) (c asid va : Nat) :
    s.useTlb c asid va = { s with cores := (s.useTlb c asid va).cores, hedges := (s.useTlb c asid va).hedges } := by
  unfold State.useTlb
  split <;> rfl

theorem State.ctx_useTlb (s : State) (c asid va slot : Nat) : (s.useTlb c asid va).ctx c slot = s.ctx c slot := by
  unfold State.useTlb
  split
  · simp only [State.fillTlb, State.ctx, State.core_modHedge, State.core_modCore_self]; rfl
  · rfl

section
variable {a : Operand} {s t : State} {vals : List Word}

/-- What a JOIN does by where its counter is found. -/
def State.joinBy (t : State) (va : Nat) : Found → Act
  | .fault _ code d g => .fault code d g
  | .hold _ w => .hold w t
  | .at_ pa _ _ => .hold (.join pa) (((t.modCtx t.iss.core t.iss.slot fun x => { x with phase := 1 }).useTlb t.iss.core t.me.asid va).access
      t.iss.core t.iss.slot [joinAccess pa va t.me false])
  | _ => .next t

theorem exec_join (a : Operand) (s : State) {t : State} {vals : List Word} (hp : t.me.phase ≠ 2) :
    ∃ body, exec (.join a) s = .next (s.issue (.join a) body) ∧
      body vals t = t.joinBy (val0 vals).toNat (t.withPoison t.iss.core t.iss.slot 8 .load (val0 vals).toNat
        (t.locate t.iss.core t.me.asid t.me.cls flatRecord (val0 vals).toInt 8 8 .load true)) := by
  refine ⟨_, rfl, (if_neg hp).trans ?_⟩
  unfold State.joinBy
  rfl

theorem join_faults {rank code d : Nat} {g : Bool} (hi : Issues s (.join a) vals t) (hp : t.me.phase ≠ 2)
    (hf : t.withPoison t.iss.core t.iss.slot 8 .load (val0 vals).toNat
      (t.locate t.iss.core t.me.asid t.me.cls flatRecord (val0 vals).toInt 8 8 .load true) = .fault rank code d g) : Faults (.join a) s code d g := by
  obtain ⟨body, he, hb⟩ := exec_join a s (vals := vals) hp
  rw [hf] at hb
  exact faults_of hi he hb

/-- A JOIN whose counter is found parks on it, and asks for its line. -/
theorem join_parks {pa pol : Nat} (hi : Issues s (.join a) vals t) (hp : t.me.phase ≠ 2)
    (hf : t.withPoison t.iss.core t.iss.slot 8 .load (val0 vals).toNat
      (t.locate t.iss.core t.me.asid t.me.cls flatRecord (val0 vals).toInt 8 8 .load true) = .at_ pa pol none)
    (hpipe : t.me.pipe = []) (hm : Missing t pa) : ∃ (u : State) (b : Access),
      Waits (.join a) s u (.join pa) ∧ u = { t with cores := u.cores, hedges := u.hedges, net := u.net } ∧ u.mem = t.mem ∧
      u.net = t.net ++ [.fillRequest t.iss.core t.iss.slot (pa / 128)] ∧ b.join = some pa ∧ b.line = pa / 128 ∧ b.kind = .load ∧
      b.segs = [(pa % 128 * 8, 64, 0)] ∧ u.me = { t.me with phase := 1, pipe := [b] } := by
  obtain ⟨body, he, hb⟩ := exec_join a s (vals := vals) hp
  replace hb : body vals t = .hold (.join pa) (((t.modCtx t.iss.core t.iss.slot fun x => { x with phase := 1 }).useTlb t.iss.core t.me.asid
    (val0 vals).toNat).access t.iss.core t.iss.slot [joinAccess pa (val0 vals).toNat t.me false]) := by rw [hb, hf]; rfl
  have hframe := (t.modCtx t.iss.core t.iss.slot fun x => { x with phase := 1 }).useTlb_frame t.iss.core t.me.asid (val0 vals).toNat
  have hlocate := LocateFrame.useTlb t.iss.core t.iss.slot (t.modCtx t.iss.core t.iss.slot fun x => { x with phase := 1 }) t.me.asid (val0 vals).toNat
  have hctx := (t.modCtx t.iss.core t.iss.slot fun x => { x with phase := 1 }).ctx_useTlb t.iss.core t.me.asid (val0 vals).toNat t.iss.slot
  generalize (t.modCtx t.iss.core t.iss.slot fun x => { x with phase := 1 }).useTlb t.iss.core t.me.asid (val0 vals).toNat = w at *
  rw [State.ctx_modCtx_self] at hctx
  obtain ⟨hsram, hcache, hvictim⟩ := hm
  have hmiss := State.join_missing (s := w) (c := t.iss.core) (slot := t.iss.slot) (pa := pa) (by rw [hctx]; exact hpipe) hsram
    (by rw [hlocate.core, State.core_modCtx_self]; exact hcache) (by rw [hlocate.hedges]; exact hvictim) (val0 vals).toNat t.me false
  refine ⟨_, { joinAccess pa (val0 vals).toNat t.me false with posted := true }, waits_of hi he (hb.trans (congrArg (Act.hold (.join pa)) hmiss)), ?_, ?_, ?_, rfl, rfl, rfl, rfl, ?_⟩
  · rw [hframe]; rfl
  · rw [hframe]; rfl
  · rw [hframe]; rfl
  · have hiss : w.iss = t.iss := by rw [hframe]; rfl
    rw [State.me, State.iss_post, State.iss_modCtx, hiss]
    exact (State.ctx_modCtx_self ..).trans (by rw [hctx])

end

/-! ### The wake at a counter's home (05 R129) -/

/-- What the wake does for one joiner. -/
def State.wakeJoiner (addr die : Nat) (s : State) (j : Nat × Nat × Nat × Nat) : State :=
  if j.2.1 = schedWaiter then s.post (.counterZeroWake die j.2.2.2)
  else if (s.ctx j.2.1 j.2.2.1).status == .parked (.join addr) then
    s.access j.2.1 j.2.2.1 [joinAccess addr j.2.2.2 (s.ctx j.2.1 j.2.2.1) true]
  else s

/-- The joiners of a counter, and a die that has forgotten them. -/
def Die.joinersAt (d : Die) (addr : Nat) : List (Nat × Nat × Nat × Nat) := d.joiners.filter fun j => j.1 = addr
def Die.woken (d : Die) (addr : Nat) : Die := { d with joiners := d.joiners.filter fun j => j.1 ≠ addr }

theorem exec_joinWake (s : State) (die addr : Nat) : exec (.joinWake die addr) s =
    .next (((s.die die).joinersAt addr).foldl (State.wakeJoiner addr die) (s.modDie die (·.woken addr))) := by
  have hwoken : (fun d : Die => { d with joiners := d.joiners.filter fun j => j.1 != addr }) = (·.woken addr) := by
    funext d; simp [Die.woken, bne, beq_eq_decide]
  show execJoinWake die addr s = _
  unfold execJoinWake
  rw [hwoken]
  rfl

theorem State.foldl_wakeJoiner_sched (addr die : Nat) (l : List (Nat × Nat × Nat × Nat)) (h : ∀ j ∈ l, j.2.1 = schedWaiter) : ∀ s : State,
    l.foldl (State.wakeJoiner addr die) s = { s with net := s.net ++ l.map fun j => .counterZeroWake die j.2.2.2 } := by
  induction l with
  | nil => exact fun s => by rw [List.map_nil, List.append_nil]; rfl
  | cons j l ih =>
    intro s
    rw [List.foldl_cons, State.wakeJoiner, if_pos (h j (List.mem_cons_self ..)), ih fun k hk => h k (List.mem_cons_of_mem _ hk)]
    simp [State.post]

/-- A thread parked on the counter loads it again, at the home. -/
theorem joinWake_loads {die addr c slot va : Nat} {s : State} (hj : (s.die die).joiners = [(addr, c, slot, va)]) (hc : c ≠ schedWaiter)
    (hst : (s.ctx c slot).status = .parked (.join addr)) (hpipe : (s.ctx c slot).pipe = []) (hsram : isSramLine (addr / 128) = false)
    (hcache : ∀ l ∈ (s.core c).cache, l.line ≠ addr / 128) (hvictim : ∀ l ∈ (s.hedge (hedgeKey c)).victim, l.line ≠ addr / 128) :
    ∃ (u : State) (b : Access), exec (.joinWake die addr) s = .next u ∧ (u.die die).joiners = [] ∧ u.mem = s.mem ∧
      u.net = s.net ++ [.fillRequest c slot (addr / 128)] ∧ b.join = some addr ∧ b.forced ∧ b.line = addr / 128 ∧
      u.ctx c slot = { s.ctx c slot with pipe := [b] } := by
  have hat : (s.die die).joinersAt addr = [(addr, c, slot, va)] := by simp [Die.joinersAt, hj]
  have hrest : ((s.die die).woken addr).joiners = [] := by simp [Die.woken, hj]
  have hctx : (s.modDie die (·.woken addr)).ctx c slot = s.ctx c slot := rfl
  have hmiss := State.join_missing (s := s.modDie die (·.woken addr)) (c := c) (slot := slot) (pa := addr) hpipe hsram hcache hvictim va (s.ctx c slot) true
  have hwake : State.wakeJoiner addr die (s.modDie die (·.woken addr)) (addr, c, slot, va) =
      (s.modDie die (·.woken addr)).access c slot [joinAccess addr va (s.ctx c slot) true] := by
    rw [State.wakeJoiner, if_neg hc, if_pos (by rw [hctx, hst]; exact beq_self_eq_true _), hctx]
  have hexec := exec_joinWake s die addr
  rw [hat, List.foldl_cons, List.foldl_nil, hwake, hmiss] at hexec
  refine ⟨_, { joinAccess addr va (s.ctx c slot) true with posted := true }, hexec, ?_, rfl, rfl, rfl, rfl, rfl, State.ctx_modCtx_self ..⟩
  exact (congrArg Die.joiners (State.die_modDie_self s die (·.woken addr))).trans hrest

/-- Settles O5: a waiting read by its register's full bit, a JOIN by where its counter is found, the wake by each joiner. -/
theorem waitingReads : Obligations.WaitingReads := by
  refine ⟨fun d a clear i hic s vals t hi => ⟨fun hp he => ?waits, fun hp he hn hd => ?reads⟩, fun a s vals t hi => ⟨fun hp => ?released,
    fun hp hva => ?beyond, fun hp hva hal => ?misaligned, fun rank code d g hp hf => join_faults hi hp hf, fun rank w hp hf => ?hold,
    fun pa pol hp hf hpipe hm => join_parks hi hp hf hpipe hm⟩, fun die addr s hj => ?scheduler,
    fun die addr c slot va s hj hc hst hpipe hsram hcache hvictim => ?joiner⟩
  case waits =>
    subst hic
    cases clear
    · exact waits_of hi rfl (waitingRead_waits hp he)
    · exact waits_of hi rfl (waitingRead_waits hp he)
  case reads =>
    have hexec : exec i s = .next (s.issue i fun _ t => waitingRead i clear d a t) := by subst hic; cases clear <;> rfl
    refine ⟨t.drained t.iss.core t.iss.slot a clear, State.drained_frame .., fun c hc => State.core_drained_ne _ _ _ _ hc, State.core_drained ..,
      State.mem_empty_drained _ _ _ _ _, yields_of hi hd hexec (by rw [State.drained_frame]) ?_ (waitingRead_reads hp he hn hd)⟩
    have hiss : (t.drained t.iss.core t.iss.slot a clear).iss = t.iss := by rw [State.drained_frame]
    rw [State.me, hiss, State.ctx, State.core_drained]
    rfl
  case released => exact moved_next hi rfl (if_pos hp)
  case beyond => exact join_faults hi hp (by rw [State.locate_flat, if_pos hva]; rfl)
  case misaligned => exact join_faults hi hp (by rw [State.locate_flat, if_neg (Nat.not_le.2 hva), if_pos hal]; rfl)
  case hold =>
    obtain ⟨body, he, hb⟩ := exec_join a s (vals := vals) hp
    rw [hf] at hb
    exact waits_of hi he hb
  case scheduler =>
    have hwake := (exec_joinWake s die addr).trans (congrArg _ (State.foldl_wakeJoiner_sched addr die _
      (fun j h => hj j (List.mem_filter.1 h).1 (of_decide_eq_true (List.mem_filter.1 h).2)) _))
    exact ⟨_, hwake, rfl, congrArg Die.joiners (State.die_modDie_self s die (·.woken addr)), rfl⟩
  case joiner => exact joinWake_loads hj hc hst hpipe hsram hcache hvictim

end Sys2Proof.Machine
end

section
/-! PROOFS. The porter (08 R182, R185, R186; 09 R222, R223; 04 R86, R98; O32): what joins its queue, and what it does with the oldest item. -/

namespace Sys2Proof.Machine

/-! ### Arrivals -/

section
variable {s : State} {dst : Nat} {i : PorterItem}

/-- An arrival that does not wait at the router is taken by the porter's core. -/
theorem exec_activeMessageArrival (hr : Reaches s dst i.asid) (h : s.itemAway i = false ∨ s.splitWaits (s.phys dst) = false) :
    ∃ y : Yew, exec (.activeMessageArrival dst i) s = .next (({ s with yew := y } : State).activeArrive (s.phys dst) i) := by
  obtain ⟨y, -, hacc⟩ := State.accepting_closed hr.open_ (s.phys dst) i.asid i.cut (.activeMessageArrival dst i)
  refine ⟨y, ?_⟩
  have hrouter : (s.itemAway i && s.splitWaits (s.phys dst)) = false := by rcases h with h | h <;> simp [h]
  show execActiveMessageArrival dst i s = _
  simp only [execActiveMessageArrival, hr.kept, hr.serves, hr.runs, hrouter, hacc, Bool.false_eq_true, if_false, bne_self_eq_false]

theorem exec_activeMessageArrival_held (hr : Reaches s dst i.asid) (h : s.itemAway i) (hw : s.splitWaits (s.phys dst)) :
    exec (.activeMessageArrival dst i) s = .next (s.hold (.activeMessageArrival dst i)) := by
  show execActiveMessageArrival dst i s = _
  simp only [execActiveMessageArrival, hr.kept, hr.serves, hr.runs, h, hw, Bool.false_eq_true, if_false, bne_self_eq_false, Bool.and_self, if_true]

/-- What the porter of a core can take joins its queue; an active message without a handler goes back. -/
theorem State.activeArrive_queues {c : Nat} (h : i.wr.isSome ∨ (carriedMsg i).isSome ∨ ((s.core c).handlerOf i).isSome) :
    s.activeArrive c i = s.queuePorter c i := by
  refine if_neg ?_
  rcases h with h | h | h <;> rw [Option.isSome_iff_ne_none] at h <;> simp [h]

theorem State.activeArrive_returns {c : Nat} {m : SendMsg} (hw : i.wr = none) (hc : carriedMsg i = none) (hl : i.land = none)
    (hh : (s.core c).handlerOf i = none) (hm : i.msg = some m) (hhere : chipOf (m.tid / 64) = s.chip m.asid) :
    s.activeArrive c i = s.post (.returnedSend m) := by
  simp [State.activeArrive, hw, hc, hh, State.refuseItem, hl, hm, State.returnSend, hhere]

end

/-- Between two states nothing differs but that an item has joined the queue of a core's porter, its start asked for, and messages counted. -/
structure Queued (s u : State) (c : Nat) (i : PorterItem) : Prop where
  state : u = { s with cores := u.cores, net := u.net, yew := u.yew }
  net : u.net = s.net ++ [.porterHandlerStart c]
  work : (u.core c).work = { (s.core c).work with porterQ := (s.core c).work.porterQ ++ [i] }
  ctxs : (u.core c).ctxs = (s.core c).ctxs

theorem State.queuePorter_queued {s w : State} {c : Nat} (hs : w = { s with cores := w.cores, yew := w.yew })
    (hwork : (w.core c).work = (s.core c).work) (hctxs : (w.core c).ctxs = (s.core c).ctxs) (i : PorterItem) : Queued s (w.queuePorter c i) c i := by
  have hcore : (w.queuePorter c i).core c = { w.core c with work := { (w.core c).work with porterQ := (w.core c).work.porterQ ++ [i] } } :=
    State.core_modCore_self w c fun k => { k with work := { k.work with porterQ := k.work.porterQ ++ [i] } }
  refine ⟨?_, ?_, ?_, ?_⟩
  · rw [hs]; rfl
  · show w.net ++ _ = _
    rw [hs]
  · rw [hcore, ← hwork]
  · rw [hcore, ← hctxs]

/-- The issuer of a landing packet marks it as taken: units of one core. -/
theorem State.handOver_closed {s : State} (h : s.openSnap = none) (asid : Nat) (l : LandFrom) (cut : Bool) :
    s.handOver asid l cut = if chipOf l.core = s.chip asid then s.modCore (s.phys l.core) fun k => k.hand l else s := by
  have hopen : (s.modCore (s.phys l.core) fun k => k.hand l).openSnap = none := h
  simp only [State.handOver, hopen]
  by_cases hc : chipOf l.core = s.chip asid <;> simp [hc]

theorem State.core_handOver {s : State} (h : s.openSnap = none) (asid : Nat) (l : LandFrom) (cut : Bool) (c : Nat) :
    ((s.handOver asid l cut).core c) = { s.core c with units := ((s.handOver asid l cut).core c).units } := by
  rw [State.handOver_closed h]
  split
  · by_cases hc : c = s.phys l.core
    · rw [hc, State.core_modCore_self]; rfl
    · rw [State.core_modCore_ne _ _ hc]
  · rfl

theorem State.handOver_frame {s : State} (h : s.openSnap = none) (asid : Nat) (l : LandFrom) (cut : Bool) :
    s.handOver asid l cut = { s with cores := (s.handOver asid l cut).cores } := by
  rw [State.handOver_closed h]
  split <;> rfl

section
variable {s : State} {dst : Nat} {m : SendMsg}

/-- A SEND of another chip's thread that a slot is to take, and a SENDU, join the porter's queue (08 R182). -/
theorem exec_sendArrival_away (hr : Reaches s (sendCore m) m.asid) (ha : s.fromAway m) (hw : s.splitWaits (s.phys (sendCore m)) = false)
    (hslot : sendSlot m ≠ 63) : ∃ y : Yew,
      exec (.sendArrival m) s = .next (({ s with yew := y } : State).queuePorter (s.phys (sendCore m)) (carriedItem m)) := by
  obtain ⟨y, -, hacc⟩ := State.accepting_closed hr.open_ (s.phys (sendCore m)) m.asid m.cut (.sendArrival m)
  refine ⟨y, ?_⟩
  show execSendArrival m s = _
  simp only [execSendArrival, hr.kept, hr.serves, hr.runs, hw, ha, hacc, hslot, Bool.false_eq_true, if_false, bne_self_eq_false, Bool.and_false, if_true]

theorem exec_senduArrival_away (hr : Reaches s (sendCore m) m.asid) (ha : s.fromAway m) (hw : s.splitWaits (s.phys (sendCore m)) = false) :
    ∃ y : Yew, exec (.senduArrival m) s = .next (({ s with yew := y } : State).queuePorter (s.phys (sendCore m)) (carriedItem m)) := by
  obtain ⟨y, -, hacc⟩ := State.accepting_closed hr.open_ (s.phys (sendCore m)) m.asid m.cut (.senduArrival m)
  refine ⟨y, ?_⟩
  show execSenduArrival m s = _
  simp only [execSenduArrival, hr.kept, hr.serves, hr.runs, hw, ha, hacc, Bool.false_eq_true, if_false, bne_self_eq_false, Bool.and_false, if_true]

end

section
variable {s : State} {dst : Nat} {i : PorterItem} {l : LandFrom} (hr : Reaches s dst i.asid) (hw : s.splitWaits (s.phys dst) = false)
  (hl : i.land = some l)
include hr hw hl

/-- A landing packet whose handler its owner holds is queued; else its transfer ends with status 3 (09 R222). -/
theorem exec_landingPacketArrival_queues (hown : (s.core (s.phys dst)).csr.shasid = i.asid) (hh : ((s.core (s.phys dst)).handlerOf i).isSome) :
    ∃ u, exec (.landingPacketArrival dst i) s = .next u ∧ Queued s u (s.phys dst) i := by
  obtain ⟨y, hy, hacc⟩ := State.accepting_closed hr.open_ (s.phys dst) i.asid i.cut (.landingPacketArrival dst i)
  have hopen : ({ s with yew := y } : State).openSnap = none := by rw [State.openSnap, hy]; exact hr.open_
  have hcore := State.core_handOver hopen i.asid l i.cut (s.phys dst)
  have htake : ((s.core (s.phys dst)).csr.shasid != i.asid || ((s.core (s.phys dst)).handlerOf i).isNone) = false := by
    simp [hown, hh]
  refine ⟨(({ s with yew := y } : State).handOver i.asid l i.cut).queuePorter (s.phys dst) i, ?_, State.queuePorter_queued ?_ ?_ ?_ i⟩
  · show execLandingPacketArrival dst i s = _
    simp only [execLandingPacketArrival, hr.kept, hr.serves, hr.runs, hw, hacc, hl, Bool.false_eq_true, if_false, bne_self_eq_false]
    exact congrArg _ (if_neg (by rw [Bool.not_eq_true]; exact htake))
  · rw [State.handOver_frame hopen]
  · rw [hcore]; rfl
  · rw [hcore]; rfl

theorem exec_landingPacketArrival_refused (hm : i.msg = none) (hwr : i.wr = none) (hc : chipOf l.core = s.chip i.asid)
    (h : (s.core (s.phys dst)).csr.shasid ≠ i.asid ∨ (s.core (s.phys dst)).handlerOf i = none) :
    ∃ u : State, exec (.landingPacketArrival dst i) s = .next u ∧ u = { s with net := u.net, yew := u.yew } ∧
      u.net = s.net ++ [.copyPacketLanding (s.phys l.core) l.chan l.id (l.pkt + 2 ^ 32 * 3)] := by
  obtain ⟨y, -, hacc⟩ := State.accepting_closed hr.open_ (s.phys dst) i.asid i.cut (.landingPacketArrival dst i)
  have htake : ((s.core (s.phys dst)).csr.shasid != i.asid || ((s.core (s.phys dst)).handlerOf i).isNone) = true := by
    rcases h with h | h <;> simp [h]
  have hrefuse : ({ s with yew := y } : State).refuseItem (s.phys dst) i 3 =
      ({ s with yew := y } : State).post (.copyPacketLanding (s.phys l.core) l.chan l.id (l.pkt + 2 ^ 32 * 3)) := by
    simp only [State.refuseItem, hm, hl, hwr, Option.isSome_none, Bool.false_and, Bool.false_eq_true, if_false]
    exact if_pos hc
  refine ⟨({ s with yew := y } : State).post _, ?_, rfl, rfl⟩
  rw [← hrefuse]
  show execLandingPacketArrival dst i s = _
  simp only [execLandingPacketArrival, hr.kept, hr.serves, hr.runs, hw, hacc, Bool.false_eq_true, if_false, bne_self_eq_false]
  exact congrArg _ (if_pos htake)

end

end Sys2Proof.Machine
end

section
/-! PROOFS. What the porter does with the oldest item of its queue (08 R183, R185, R186; 04 R98; O32). -/

namespace Sys2Proof.Machine

/-! ### Registers written into a window -/

/-- Registers of a slot written one after another. -/
def Core.writeAll (k : Core) (slot : Nat) (l : List (Nat × Word)) : Core := l.foldl (fun k r => k.writeMain slot r.1 r.2) k

theorem Core.writeAll_cons (k : Core) (slot : Nat) (r : Nat × Word) (l : List (Nat × Word)) :
    k.writeAll slot (r :: l) = (k.writeMain slot r.1 r.2).writeAll slot l := rfl

theorem Core.writeAll_frame (slot : Nat) (l : List (Nat × Word)) : ∀ k : Core, k.writeAll slot l =
    { k with file := (k.writeAll slot l).file, empty := (k.writeAll slot l).empty, badMain := (k.writeAll slot l).badMain } := by
  induction l with
  | nil => exact fun k => rfl
  | cons r l ih => intro k; rw [Core.writeAll_cons, ih]; rfl

theorem Core.getD_file_writeMain (k : Core) (slot n e : Nat) (v : Word) : Tab.getD (k.writeMain slot n v).file e 0 =
    if e = (k.ctx slot).win.mainBase + n then v else Tab.getD k.file e 0 := Tab.getD_set ..

theorem Core.mem_empty_writeMain (k : Core) (slot n e : Nat) (v : Word) :
    e ∈ (k.writeMain slot n v).empty ↔ e ∈ k.empty ∧ e ≠ (k.ctx slot).win.mainBase + n := by
  simp [Core.writeMain]

section
variable {slot b e : Nat} {l : List (Nat × Word)}

theorem Core.getD_file_writeAll_other (he : ∀ r ∈ l, e ≠ b + r.1) : ∀ k : Core, (k.ctx slot).win.mainBase = b →
    Tab.getD (k.writeAll slot l).file e 0 = Tab.getD k.file e 0 := by
  induction l with
  | nil => exact fun k _ => rfl
  | cons r l ih =>
    intro k hb
    rw [Core.writeAll_cons, ih (fun q hq => he q (List.mem_cons_of_mem _ hq)) (k.writeMain slot r.1 r.2) hb, Core.getD_file_writeMain, hb,
      if_neg (he r (List.mem_cons_self ..))]

theorem Core.getD_file_writeAll (hn : (l.map Prod.fst).Nodup) {r : Nat × Word} (hr : r ∈ l) : ∀ k : Core, (k.ctx slot).win.mainBase = b →
    Tab.getD (k.writeAll slot l).file (b + r.1) 0 = r.2 := by
  induction l with
  | nil => exact absurd hr List.not_mem_nil
  | cons q l ih =>
    intro k hb
    rw [List.map_cons, List.nodup_cons] at hn
    obtain ⟨hq, hl⟩ := hn
    rw [Core.writeAll_cons]
    rcases List.mem_cons.1 hr with rfl | hm
    · have hother : ∀ p ∈ l, b + r.1 ≠ b + p.1 := fun p hp h => hq (by rw [Nat.add_left_cancel h]; exact List.mem_map_of_mem hp)
      rw [Core.getD_file_writeAll_other hother (k.writeMain slot r.1 r.2) hb, Core.getD_file_writeMain, hb, if_pos rfl]
    · exact ih hl hm (k.writeMain slot q.1 q.2) hb

theorem Core.mem_empty_writeAll : ∀ k : Core, e ∈ (k.writeAll slot l).empty → e ∈ k.empty := by
  induction l with
  | nil => exact fun k h => h
  | cons r l ih => exact fun k h => ((Core.mem_empty_writeMain ..).1 (ih (k.writeMain slot r.1 r.2) h)).1

end

/-! ### A handler's start (08 R185, R186) -/

/-- A core whose porter has its windows, empty, for a handler. -/
def Core.porterReady (k : Core) (x : Ctx) : Core := ((k.clearMain 2016 32).clearVec 252 4).setCtx 63 x

theorem Core.startHandler_eq (k : Core) (i : PorterItem) (p : Placed) (off : Nat) : k.startHandler i p off =
    { (k.porterReady (porterCtx i p off)).writeAll 63 i.regs with work := { k.work with porter := some i } } := by
  have hwork : ((k.porterReady (porterCtx i p off)).writeAll 63 i.regs).work = k.work := by rw [Core.writeAll_frame]; rfl
  rw [← hwork]
  rfl

theorem Core.porterReady_base (k : Core) (i : PorterItem) (p : Placed) (off : Nat) :
    ((k.porterReady (porterCtx i p off)).ctx 63).win.mainBase = 2016 := by
  rw [Core.porterReady, Core.ctx_setCtx_self]; rfl

theorem Core.getD_file_porterReady (k : Core) (x : Ctx) (e : Nat) :
    Tab.getD (k.porterReady x).file e 0 = if 2016 ≤ e ∧ e < 2048 then 0 else Tab.getD k.file e 0 := by
  refine (Tab.getD_filter k.file (fun e => !(decide (2016 ≤ e) && decide (e < 2016 + 32))) e 0).trans ?_
  by_cases h : 2016 ≤ e ∧ e < 2048 <;> simp [h]

theorem Core.getD_vfile_porterReady (k : Core) (x : Ctx) {e : Nat} (h : 252 ≤ e ∧ e < 256) : Tab.getD (k.porterReady x).vfile e 0 = 0 := by
  refine (Tab.getD_filter k.vfile (fun e => !(decide (252 ≤ e) && decide (e < 252 + 4))) e 0).trans ?_
  simp [h]

theorem Core.empty_porterReady (k : Core) (x : Ctx) {e : Nat} (h : 2016 ≤ e ∧ e < 2048) : e ∉ (k.porterReady x).empty := by
  simp [Core.porterReady, Core.setCtx, Core.clearVec, Core.clearMain, h]

/-! ### The oldest item -/

/-- A core whose porter has taken an item, the others left. -/
def Core.itemTaken (k : Core) (l : List PorterItem) : Core := { k with work := { k.work with porterQ := l } }

section
variable {s : State} {c : Nat} {i : PorterItem} {l : List PorterItem}

theorem State.modCore_itemTaken (hq : (s.core c).work.porterQ = i :: l) :
    (s.modCore c fun k => { k with work := { k.work with porterQ := k.work.porterQ.erase i } }) = s.modCore c (·.itemTaken l) := by
  simp [State.modCore, Core.itemTaken, hq]

variable (hp : (s.core c).work.porter = none) (hrun : (s.core c).csr.stopped = false) (hq : (s.core c).work.porterQ = i :: l)
  (hj : s.jobStopped i.asid = false) (hrolled : (s.core c).work.porters = [])
include hp hrun hq hj hrolled

theorem exec_porterHandlerStart_handler {p : Placed} {off : Nat} (hw : i.wr = none) (hm : carriedMsg i = none)
    (hh : (s.core c).handlerOf i = some (p, off)) :
    exec (.porterHandlerStart c) s = .next ((s.modCore c (·.itemTaken l)).modCore c fun k => k.startHandler i p off) := by
  show execPorterHandlerStart c s = _
  simp only [execPorterHandlerStart, hp, hrun, hrolled]
  simp [hq, hj, hw, hm, hh, State.modCore_itemTaken hq]

theorem exec_porterHandlerStart_send {m : SendMsg} (hw : i.wr = none) (hm : carriedMsg i = some m) (hu : m.unaddressed = false) :
    exec (.porterHandlerStart c) s = .next (((s.modCore c (·.itemTaken l)).sendDeliver c m).post (.porterHandlerStart c)) := by
  show execPorterHandlerStart c s = _
  simp only [execPorterHandlerStart, hp, hrun, hrolled]
  simp [hq, hj, hw, hm, hu, State.modCore_itemTaken hq]

theorem exec_porterHandlerStart_write {w : RemoteWrite} {u : State} (hw : i.wr = some w)
    (hu : (s.modCore c (·.itemTaken l)).remoteWrite c i w = some u) : exec (.porterHandlerStart c) s = .next (u.post (.porterHandlerStart c)) := by
  show execPorterHandlerStart c s = _
  simp only [execPorterHandlerStart, hp, hrun, hrolled]
  simp [hq, hj, hw, hu, State.modCore_itemTaken hq]

end

end Sys2Proof.Machine
end

section
/-! PROOFS. What the porter carries out for other chips (08 R182, R183; 04 R98; 12 R286; O32), and the statement. -/

namespace Sys2Proof.Machine

/-! ### A handler has started -/

/-- The core after the start of a handler, and what stays of it. -/
theorem Core.startHandler_started {k : Core} {i : PorterItem} {p : Placed} {off : Nat} {l : List PorterItem} {v : Core}
    (hv : v = (k.itemTaken l).startHandler i p off) (hn : (i.regs.map Prod.fst).Nodup) (hlt : ∀ r ∈ i.regs, r.1 < 32) :
    v.work = { k.work with porterQ := l, porter := some i } ∧ (∀ j, j ≠ 63 → v.ctx j = k.ctx j) ∧ v.ctx 63 = porterCtx i p off ∧
      (∀ r ∈ i.regs, Tab.getD v.file (2016 + r.1) 0 = r.2) ∧
      (∀ n < 32, (∀ r ∈ i.regs, r.1 ≠ n) → Tab.getD v.file (2016 + n) 0 = 0) ∧ (∀ n < 32, 2016 + n ∉ v.empty) ∧
      (∀ n < 4, Tab.getD v.vfile (252 + n) 0 = 0) ∧ (∀ e < 2016, Tab.getD v.file e 0 = Tab.getD k.file e 0) := by
  subst hv
  have hbase := (k.itemTaken l).porterReady_base i p off
  have hframe := Core.writeAll_frame 63 i.regs ((k.itemTaken l).porterReady (porterCtx i p off))
  rw [Core.startHandler_eq]
  refine ⟨rfl, fun j hj => ?others, ?own, fun r hr => Core.getD_file_writeAll hn hr _ hbase, fun n hn hr => ?zero, fun n hn h => ?full, fun n hn => ?vecs,
    fun e he => ?below⟩
  case others =>
    show ((((k.itemTaken l).porterReady (porterCtx i p off)).writeAll 63 i.regs).ctx j) = _
    rw [hframe]
    exact Core.ctx_setCtx_ne _ _ hj
  case own =>
    show ((((k.itemTaken l).porterReady (porterCtx i p off)).writeAll 63 i.regs).ctx 63) = _
    rw [hframe]
    exact Core.ctx_setCtx_self ..
  case zero =>
    refine (Core.getD_file_writeAll_other (fun r hm h => hr r hm (Nat.add_left_cancel h).symm) _ hbase).trans ?_
    rw [Core.getD_file_porterReady, if_pos (by omega)]
  case full => exact Core.empty_porterReady _ _ (by omega) (Core.mem_empty_writeAll _ h)
  case vecs =>
    show Tab.getD (((k.itemTaken l).porterReady (porterCtx i p off)).writeAll 63 i.regs).vfile (252 + n) 0 = 0
    rw [hframe]
    exact Core.getD_vfile_porterReady (k.itemTaken l) (porterCtx i p off) (by omega)
  case below =>
    refine (Core.getD_file_writeAll_other (fun r hm h => ?_) _ hbase).trans ?_
    · have := hlt r hm
      omega
    · rw [Core.getD_file_porterReady, if_neg (by omega)]
      rfl

/-! ### An addressed message's write (08 R183) -/

/-- An observation leaves the status and the results of a thread free. -/
theorem Observes.of_result (x : Ctx) (out : List Pending) (st : Status) (time : Nat) :
    Observes { x with out := out, status := st } { ({ x with out := out }).observe time with status := st } time := by
  unfold Observes Ctx.observe
  cases x.pipe <;> simp

/-- A thread's context after an addressed message, whatever waits it ends. -/
def Ctx.taken (x : Ctx) (m : SendMsg) : Ctx := (x.clash (.g (sendReg m)) m.v.toNat).observe m.ts

theorem Ctx.taken_parts (x : Ctx) (m : SendMsg) : (x.taken m).win = x.win ∧ (x.taken m).out = (x.clash (.g (sendReg m)) m.v.toNat).out := by
  unfold Ctx.taken Ctx.observe
  split <;> exact ⟨rfl, rfl⟩

/-- The core that an addressed message has written: waits of the target may have ended. -/
theorem State.core_sendWrite (s : State) (c slot : Nat) (m : SendMsg) : ∃ wakes : Nat → Ctx → Wait → Bool,
    (∀ j x w, j ≠ slot → wakes j x w = false) ∧ (s.sendWrite c slot m).core c =
      (((s.core c).modCtx slot (·.taken m)).writeMain slot (sendReg m) m.v).wakeIf wakes :=
  ⟨_, fun j x w hj => by simp [hj], State.core_modCore_self ..⟩

theorem Core.ctx_writeMain (k : Core) (slot n j : Nat) (v : Word) : (k.writeMain slot n v).ctx j = k.ctx j := rfl

/-- The target of an addressed message has observed it. -/
theorem State.ctx_sendWrite (s : State) (c slot : Nat) (m : SendMsg) :
    ∃ st, (s.sendWrite c slot m).ctx c slot = { (s.ctx c slot).taken m with status := st } := by
  obtain ⟨wakes, -, hcore⟩ := s.core_sendWrite c slot m
  rw [State.ctx, hcore, Core.ctx_wakeIf, Core.ctx_writeMain, Core.ctx_modCtx_self]
  split
  · split
    · exact ⟨_, rfl⟩
    · exact ⟨((s.ctx c slot).taken m).status, rfl⟩
  · exact ⟨((s.ctx c slot).taken m).status, rfl⟩

theorem State.ctx_sendWrite_ne (s : State) (c : Nat) {slot j : Nat} (m : SendMsg) (hj : j ≠ slot) : (s.sendWrite c slot m).ctx c j = s.ctx c j := by
  obtain ⟨wakes, hwakes, hcore⟩ := s.core_sendWrite c slot m
  rw [State.ctx, hcore, Core.ctx_wakeIf, Core.ctx_writeMain, Core.ctx_modCtx_ne _ _ hj]
  split
  · rw [if_neg (by simp [hwakes _ _ _ hj])]
    rfl
  · rfl

theorem State.observes_sendWrite (s : State) (c slot : Nat) (m : SendMsg) :
    Observes { s.ctx c slot with out := ((s.sendWrite c slot m).ctx c slot).out, status := ((s.sendWrite c slot m).ctx c slot).status }
      ((s.sendWrite c slot m).ctx c slot) m.ts := by
  obtain ⟨st, h⟩ := s.ctx_sendWrite c slot m
  rw [h]
  show Observes { s.ctx c slot with out := ((s.ctx c slot).taken m).out, status := st } _ _
  rw [((s.ctx c slot).taken_parts m).2]
  exact Observes.of_result ..

/-- The register of an addressed message is written, full. -/
theorem State.file_sendWrite (s : State) (c slot : Nat) (m : SendMsg) (e : Nat) :
    Tab.getD ((s.sendWrite c slot m).core c).file e 0 =
      if e = (s.ctx c slot).win.mainBase + sendReg m then m.v else Tab.getD (s.core c).file e 0 := by
  obtain ⟨wakes, -, hcore⟩ := s.core_sendWrite c slot m
  have hfile := ((s.core c).modCtx slot (·.taken m)).getD_file_writeMain slot (sendReg m) e m.v
  rw [Core.ctx_modCtx_self, (Ctx.taken_parts _ m).1] at hfile
  rw [hcore]
  exact hfile

theorem State.empty_sendWrite (s : State) (c slot : Nat) (m : SendMsg) (e : Nat) :
    e ∈ ((s.sendWrite c slot m).core c).empty ↔ e ∈ (s.core c).empty ∧ e ≠ (s.ctx c slot).win.mainBase + sendReg m := by
  obtain ⟨wakes, -, hcore⟩ := s.core_sendWrite c slot m
  have hempty := ((s.core c).modCtx slot (·.taken m)).mem_empty_writeMain slot (sendReg m) e m.v
  rw [Core.ctx_modCtx_self, (Ctx.taken_parts _ m).1] at hempty
  rw [hcore]
  exact hempty

/-- A message for a thread that stands in its slot, alone, writes its register. -/
theorem State.sendDeliver_writes {s : State} {c : Nat} {m : SendMsg} (hst : (s.ctx c (sendSlot m)).status ≠ .free)
    (ha : (s.ctx c (sendSlot m)).asid = m.asid) (hn : sendReg m < (s.ctx c (sendSlot m)).mainSize) (hp : (s.ctx c (sendSlot m)).pair = none) :
    s.sendDeliver c m = s.sendWrite c (sendSlot m) m := by
  simp [State.sendDeliver, hst, ha, State.sendInto, hn, hp]

/-! ### A store of another chip (04 R98; 12 R286, R293) -/

/-- The engine of a copy whose packet an item is has been told that it landed (09 R223). -/
def State.tellLanding (u : State) (i : PorterItem) : State :=
  match i.land with
  | some l => u.postLanding i.asid l 0
  | none => u

theorem State.tellLanding_frame (u : State) (i : PorterItem) :
    u.tellLanding i = { u with net := (u.tellLanding i).net, outbox := (u.tellLanding i).outbox } := by
  unfold State.tellLanding
  split
  · exact State.postLanding_frame ..
  · rfl

theorem State.tellLanding_away {u : State} {i : PorterItem} {q : LandFrom} (hl : i.land = some q) (hc : chipOf q.core ≠ u.chip i.asid) :
    u.tellLanding i = { u with outbox := u.outbox ++ [⟨chipOf q.core, .copyPacketLanding (u.phys q.core) q.chan q.id (q.pkt + 2 ^ 32 * 0)⟩] } := by
  rw [State.tellLanding, hl]
  exact if_neg hc

/-- A line's SRAM with bytes of a value written at a time, whatever marks of poison are left. -/
def State.sramStored (s : State) (a bytes value ts : Nat) (ps : Tab Bool) : State :=
  { s with
    mem := s.mem.write (a / 128 * 128) 128 (blend (s.line (a / 128)) (value * 2 ^ (8 * (a % 128))) (byteMask (a % 128) bytes))
    poison := ps
    sramT := Tab.set s.sramT (a / 128) (ts, ts) (0, 0) }

theorem State.sramStored_stores {s : State} (hwf : s.mem.wf) {a bytes : Nat} (ha : a % 128 + bytes ≤ 128) (value ts : Nat) (ps : Tab Bool) :
    Stores s (s.sramStored a bytes value ts ps) a bytes value := by
  intro b
  have hline : a / 128 * 128 + a % 128 = a := by omega
  have hbyte := Memory.byte_maskedLine hwf (a / 128) value (a % 128) bytes ha b
  rw [hline] at hbyte
  exact hbyte

/-- A store into an open view, on a line that is not pinned, is performed past the line's lease. -/
theorem State.remoteWrite_stores {s : State} {c : Nat} {i : PorterItem} {w : RemoteWrite} {a : Nat} (hop : w.op = 0) (hh : w.h = 0)
    (hopen : s.viewOpen c i.asid i.cls) (ha : a = sramAt c ((privateView (s.core c).csr.lsplit i.cls).1 + w.offset))
    (hend : w.offset + w.bytes ≤ (privateView (s.core c).csr.lsplit i.cls).2) (hpin : a / 128 ∉ s.pins) (hsnap : s.openSnap = none)
    (hjoin : ∀ d ∈ s.dies, d.2.joiners = []) :
    ∃ ps, s.remoteWrite c i w = some ((s.sramStored a w.bytes w.value (max i.pt ((Tab.getD s.sramT (a / 128) (0, 0)).2 + 1)) ps).tellLanding i) := by
  obtain ⟨ps, hput⟩ := State.putLine_alone hsnap hjoin c (a / 128) (w.value * 2 ^ (8 * (a % 128))) (byteMask (a % 128) w.bytes)
  refine ⟨ps, ?_⟩
  have hatom : atomOfCode 0 = none := rfl
  have h13 : ((0 : Nat) = 13) = False := eq_false (by decide)
  have hshift : a % 128 * 8 = 8 * (a % 128) := Nat.mul_comm ..
  have hmask : ones (8 * w.bytes) * 2 ^ (8 * (a % 128)) = byteMask (a % 128) w.bytes := rfl
  have hpin' : s.pins.contains (a / 128) = false := by simpa using hpin
  simp only [State.remoteWrite, hop, hh, h13, hopen, hend, decide_true, Bool.and_self, Bool.not_true, Bool.false_eq_true, if_false, ← ha, lineOf, hpin',
    hatom, Option.isSome_none, hshift, bne_self_eq_false, Bool.and_false, hmask, Option.isSome_some, stampOf, if_true, hput]
  rfl

/-! ### The statement -/

section
variable {s : State} {c : Nat} {i : PorterItem} {l : List PorterItem} (hp : (s.core c).work.porter = none) (hrun : (s.core c).csr.stopped = false)
  (hq : (s.core c).work.porterQ = i :: l) (hj : s.jobStopped i.asid = false) (hrolled : (s.core c).work.porters = [])
include hp hrun hq hj hrolled

/-- The porter writes the register of a SEND that it carries. -/
theorem porter_sends {m : SendMsg} (hw : i.wr = none) (hm : i.msg = some m) (hu : m.unaddressed = false) (h63 : sendSlot m ≠ 63)
    (hst : (s.ctx c (sendSlot m)).status ≠ .free) (ha : (s.ctx c (sendSlot m)).asid = m.asid) (hn : sendReg m < (s.ctx c (sendSlot m)).mainSize)
    (hpair : (s.ctx c (sendSlot m)).pair = none) : ∃ u : State,
      exec (.porterHandlerStart c) s = .next u ∧ u = { s with cores := u.cores, net := s.net ++ [.porterHandlerStart c] } ∧
      (∀ e, e ≠ c → u.core e = s.core e) ∧ (u.core c).work = { (s.core c).work with porterQ := l } ∧
      (∀ j, j ≠ sendSlot m → u.ctx c j = s.ctx c j) ∧
      (∀ e, Tab.getD (u.core c).file e 0 = if e = (s.ctx c (sendSlot m)).win.mainBase + sendReg m then m.v else Tab.getD (s.core c).file e 0) ∧
      (∀ e, e ∈ (u.core c).empty ↔ e ∈ (s.core c).empty ∧ e ≠ (s.ctx c (sendSlot m)).win.mainBase + sendReg m) ∧
      Observes { s.ctx c (sendSlot m) with out := (u.ctx c (sendSlot m)).out, status := (u.ctx c (sendSlot m)).status } (u.ctx c (sendSlot m)) m.ts := by
  have hcarried : carriedMsg i = some m := by simp [carriedMsg, hm, h63]
  have htaken : (s.modCore c (·.itemTaken l)).core c = (s.core c).itemTaken l := State.core_modCore_self ..
  have hctx (j : Nat) : (s.modCore c (·.itemTaken l)).ctx c j = s.ctx c j := by rw [State.ctx, htaken]; rfl
  have hdeliver := State.sendDeliver_writes (s := s.modCore c (·.itemTaken l)) (c := c) (m := m) (by rw [hctx]; exact hst) (by rw [hctx]; exact ha)
    (by rw [hctx]; exact hn) (by rw [hctx]; exact hpair)
  obtain ⟨wakes, -, hcore⟩ := (s.modCore c (·.itemTaken l)).core_sendWrite c (sendSlot m) m
  have hexec := exec_porterHandlerStart_send hp hrun hq hj hrolled hw hcarried hu
  rw [hdeliver] at hexec
  refine ⟨_, hexec, rfl, fun e he => ?_, ?_, fun j hne => ?_, fun e => ?_, fun e => ?_, ?_⟩
  · rw [State.core_post, State.sendWrite, State.core_modCore_ne _ _ he, State.core_modCore_ne _ _ he]
  · exact (congrArg Core.work hcore).trans (congrArg Core.work htaken)
  · exact (State.ctx_sendWrite_ne _ _ _ hne).trans (hctx j)
  · refine (State.file_sendWrite ..).trans ?_
    rw [hctx, htaken]
    rfl
  · refine (State.empty_sendWrite ..).trans ?_
    rw [hctx, htaken]
    rfl
  · have := (s.modCore c (·.itemTaken l)).observes_sendWrite c (sendSlot m) m
    rw [hctx] at this
    exact this

/-- The porter performs a store of another chip. -/
theorem porter_stores {w : RemoteWrite} {a : Nat} (hw : i.wr = some w) (hop : w.op = 0) (hh : w.h = 0) (hopen : s.viewOpen c i.asid i.cls)
    (ha : a = sramAt c ((privateView (s.core c).csr.lsplit i.cls).1 + w.offset))
    (hend : w.offset + w.bytes ≤ (privateView (s.core c).csr.lsplit i.cls).2) (hpin : a / 128 ∉ s.pins) (hline : a % 128 + w.bytes ≤ 128)
    (hsnap : s.openSnap = none) (hjoin : ∀ d ∈ s.dies, d.2.joiners = []) (hwf : s.mem.wf) :
    ∃ (u : State), exec (.porterHandlerStart c) s = .next u ∧
      u = { s with cores := u.cores, mem := u.mem, poison := u.poison, sramT := u.sramT, net := u.net, outbox := u.outbox } ∧
      Stores s u a w.bytes w.value ∧ (i.land = none → u.net = s.net ++ [.porterHandlerStart c] ∧ u.outbox = s.outbox) ∧
      (∀ q, i.land = some q → chipOf q.core ≠ s.chip i.asid → u.net = s.net ++ [.porterHandlerStart c] ∧
        u.outbox = s.outbox ++ [{ chip := chipOf q.core, msg := .copyPacketLanding (s.phys q.core) q.chan q.id q.pkt }]) ∧
      (u.core c).work = { (s.core c).work with porterQ := l } ∧ (u.core c).ctxs = (s.core c).ctxs ∧
      (let ts := max i.pt ((Tab.getD s.sramT (a / 128) (0, 0)).2 + 1)
       Tab.getD u.sramT (a / 128) (0, 0) = (ts, ts)) := by
  have htaken : (s.modCore c (·.itemTaken l)).core c = (s.core c).itemTaken l := State.core_modCore_self ..
  have hopen' : (s.modCore c (·.itemTaken l)).viewOpen c i.asid i.cls = true := by
    rw [State.viewOpen, htaken]; exact hopen
  obtain ⟨ps, (hwrite : _ = some (State.tellLanding (State.sramStored _ a w.bytes w.value (max i.pt ((Tab.getD s.sramT (a / 128) (0, 0)).2 + 1)) ps) i))⟩ :=
    State.remoteWrite_stores (s := s.modCore c (·.itemTaken l)) hop hh hopen' (by rw [htaken]; exact ha) (by rw [htaken]; exact hend)
    hpin hsnap hjoin
  have hstores := State.sramStored_stores (s := s.modCore c (·.itemTaken l)) hwf hline w.value
    (max i.pt ((Tab.getD s.sramT (a / 128) (0, 0)).2 + 1)) ps
  have hframe := ((s.modCore c (·.itemTaken l)).sramStored a w.bytes w.value (max i.pt ((Tab.getD s.sramT (a / 128) (0, 0)).2 + 1)) ps).tellLanding_frame i
  have hcore : ((State.tellLanding (State.sramStored (s.modCore c (·.itemTaken l)) a w.bytes w.value (max i.pt ((Tab.getD s.sramT (a / 128) (0, 0)).2 + 1)) ps)
      i).post (.porterHandlerStart c)).core c = (s.core c).itemTaken l := by
    rw [State.core_post, hframe]; exact htaken
  refine ⟨_, exec_porterHandlerStart_write hp hrun hq hj hrolled hw hwrite, ?_, ?_, fun hl => ?_, fun q hl hc => ?_, ?_, ?_, ?_⟩
  · rw [hframe]; rfl
  · rw [hframe]; exact hstores
  · simp only [State.tellLanding, hl]
    exact ⟨rfl, rfl⟩
  · rw [State.tellLanding_away hl (by exact hc)]
    exact ⟨rfl, rfl⟩
  · rw [hcore]; rfl
  · rw [hcore]; rfl
  · rw [hframe]
    exact Tab.getD_set_self ..

end

/-- Settles O32: an arrival by what the porter's core can take of it, a start by what the oldest item is. -/
theorem porterServes : Obligations.PorterServes := by
  refine ⟨fun s dst i hr => ⟨fun ha hw => ?held, fun ha hi => ?active, fun hw hc hl hh m hm hhere => ?refused, fun m hd hi ha hw => ⟨fun hu h63 => ?send, ?sendu⟩,
    fun l hl hm hwr hc hw => ⟨fun hown hh => ?landing, fun h => ?failed⟩⟩, fun s c i l hp hrun hq hj hrolled => ⟨fun p off hw hm hh hn hlt => ?handler,
    fun m hw hm hu h63 hst ha hn hpair => ?sends,
    fun w hw hop hh hopen hend hpin hline hsnap hjoin hwf _ _ => porter_stores hp hrun hq hj hrolled hw hop hh hopen rfl hend hpin hline hsnap hjoin hwf⟩⟩
  case held => exact ⟨_, exec_activeMessageArrival_held hr ha hw, rfl, State.mem_timers_hold ..⟩
  case active =>
    obtain ⟨y, hy⟩ := exec_activeMessageArrival hr ha
    rw [State.activeArrive_queues (s := { s with yew := y }) hi] at hy
    obtain ⟨hstate, hnet, hwork, hctxs⟩ := State.queuePorter_queued (s := s) (w := { s with yew := y }) (c := s.phys dst) rfl rfl rfl i
    exact ⟨_, hy, hstate, hnet, hwork, hctxs⟩
  case refused =>
    obtain ⟨y, hy⟩ := exec_activeMessageArrival hr (.inl (by simp [State.itemAway, hw, hm, State.fromAway, hhere]))
    rw [State.activeArrive_returns (s := { s with yew := y }) hw hc hl hh hm hhere] at hy
    exact ⟨_, hy, rfl, rfl⟩
  case send =>
    subst hd hi
    obtain ⟨y, hy⟩ := exec_sendArrival_away hr (by simpa [State.fromAway] using ha) hw h63
    obtain ⟨hstate, hnet, hwork, hctxs⟩ := State.queuePorter_queued (s := s) (w := { s with yew := y }) (c := s.phys (sendCore m)) rfl rfl rfl (carriedItem m)
    exact ⟨_, hy, hstate, hnet, hwork, hctxs⟩
  case sendu =>
    subst hd hi
    obtain ⟨y, hy⟩ := exec_senduArrival_away hr (by simpa [State.fromAway] using ha) hw
    obtain ⟨hstate, hnet, hwork, hctxs⟩ := State.queuePorter_queued (s := s) (w := { s with yew := y }) (c := s.phys (sendCore m)) rfl rfl rfl (carriedItem m)
    exact ⟨_, hy, hstate, hnet, hwork, hctxs⟩
  case landing =>
    obtain ⟨u, hu, hstate, hnet, hwork, hctxs⟩ := exec_landingPacketArrival_queues hr hw hl hown hh
    exact ⟨u, hu, hstate, hnet, hwork, hctxs⟩
  case failed => exact exec_landingPacketArrival_refused hr hw hl hm hwr hc h
  case sends =>
    have hreg : sendReg m = m.tgt.toNat % 2 ^ 7 := by simp [sendReg, fld]
    have h := porter_sends hp hrun hq hj hrolled hw hm hu h63 hst ha (by rw [hreg]; exact hn) hpair
    rw [hreg] at h
    exact h
  case handler =>
    have hcore : ((s.modCore c (·.itemTaken l)).modCore c fun k => k.startHandler i p off).core c = ((s.core c).itemTaken l).startHandler i p off := by
      rw [State.core_modCore_self, State.core_modCore_self]
    obtain ⟨hwork, hothers, hown, hrest⟩ := Core.startHandler_started hcore hn hlt
    exact ⟨_, exec_porterHandlerStart_handler hp hrun hq hj hrolled hw hm hh, ⟨rfl, fun e he => by
      rw [State.core_modCore_ne _ _ he, State.core_modCore_ne _ _ he]⟩, hwork, hothers, hown, hrest⟩

end Sys2Proof.Machine
end

section
/-! PROOFS. Messages delivered (08 R183; O31): the case in which the statement fails. -/

namespace Sys2Proof.Machine

/-- A message of this chip for slot 63 that reaches its core is the porter's (08 R185). -/
theorem exec_sendArrival_porter {s : State} {m : SendMsg} (hr : Reaches s (sendCore m) m.asid) (hhere : chipOf (m.tid / 64) = s.chip m.asid)
    (hslot : sendSlot m = 63) : ∃ y : Yew,
      exec (.sendArrival m) s = .next (({ s with yew := y } : State).activeArrive (s.phys (sendCore m)) (activeItem m)) := by
  obtain ⟨y, -, hacc⟩ := State.accepting_closed hr.open_ (s.phys (sendCore m)) m.asid m.cut (.sendArrival m)
  have haway : s.fromAway m = false := by simp [State.fromAway, hhere]
  refine ⟨y, ?_⟩
  show execSendArrival m s = _
  simp only [execSendArrival, hr.kept, hr.serves, hr.runs, haway, hacc, hslot, Bool.false_eq_true, if_false, bne_self_eq_false, Bool.false_and, if_true]

/-- A message that names slot 63 and is marked as unaddressed. SENDs send none such, but the statement takes every message. -/
def strayMsg : SendMsg := { unaddressed := true, tgt := 63 * 2 ^ 8, v := 0, tid := 0, asid := 0, cls := 0, ts := 0, cut := false }

theorem strayMsg_reaches : Reaches State.reset (sendCore strayMsg) strayMsg.asid where
  open_ := rfl
  kept := rfl
  serves := by rw [State.rename_reset]
  runs := by rw [State.core_reset]

/-- The porter takes it for a message that it is to carry, although the core holds no block of a handler. -/
theorem exec_strayMsg : ∃ u, exec (.sendArrival strayMsg) State.reset = .next u ∧
    u.net = [.porterHandlerStart (State.reset.phys (sendCore strayMsg))] := by
  obtain ⟨y, hy⟩ := exec_sendArrival_porter strayMsg_reaches rfl (by decide)
  rw [State.activeArrive_queues (s := { State.reset with yew := y }) (.inr (.inl (by decide)))] at hy
  exact ⟨_, hy, rfl⟩

/-- Refutes O31: on the machine fresh from reset, `strayMsg` for slot 63, whose handler the core does not hold, joins the porter's queue and
does not go back. -/
theorem not_messagesDelivered : ¬ Obligations.MessagesDelivered := by
  intro h
  obtain ⟨⟨hsend, -⟩, -⟩ := h
  obtain ⟨-, -, -, hback, -⟩ := hsend State.reset strayMsg strayMsg_reaches rfl
  have hnone : (State.reset.core (State.reset.phys (sendCore strayMsg))).handlerOf (activeItem strayMsg) = none := by
    rw [State.core_reset]; rfl
  obtain ⟨u, hu, -, hnet⟩ := hback (by decide) hnone
  obtain ⟨w, hw, hstart⟩ := exec_strayMsg
  obtain rfl : u = w := Host.Outcome.next.inj (hu.symm.trans hw)
  rw [hnet] at hstart
  exact Instr.noConfusion (List.singleton_inj.1 hstart)

end Sys2Proof.Machine
end

section
/-! PROOFS. What goes on once a page is copied, and what a change of its leaf leaves (15 R340 to R343, R348; 04 R105; O39). -/

namespace Sys2Proof.Machine

/-! ### What waits at a page's key -/

/-- Between two states only units of cores differ, and messages are added. -/
structure Wakes (s u : State) : Prop where
  state : u = { s with cores := u.cores, net := u.net }
  core : ∀ c, u.core c = { s.core c with units := (u.core c).units }

theorem Wakes.refl (s : State) : Wakes s s := ⟨rfl, fun _ => rfl⟩

theorem Wakes.trans {s t u : State} (h : Wakes s t) (g : Wakes t u) : Wakes s u where
  state := by rw [g.state, h.state]
  core c := by rw [g.core, h.core]

theorem Wakes.foldl {α : Type} {f : State → α → State} (hf : ∀ s a, Wakes s (f s a)) (l : List α) (s : State) : Wakes s (l.foldl f s) :=
  List.foldlRecOn (motive := Wakes s) l f (.refl s) fun t h a _ => h.trans (hf t a)

theorem Wakes.post (s : State) (i : Instr) : Wakes s (s.post i) := ⟨rfl, fun _ => rfl⟩

theorem Wakes.postOnce (s : State) (i : Instr) : Wakes s (s.postOnce i) := by
  unfold State.postOnce
  split
  · exact .refl s
  · exact .post s i

theorem Wakes.modUnits (s : State) (c : Nat) (f : CoreUnits → CoreUnits) : Wakes s (s.modCore c fun k => { k with units := f k.units }) where
  state := rfl
  core e := by
    by_cases h : e = c
    · rw [h, State.core_modCore_self]
    · rw [State.core_modCore_ne _ _ h]

theorem Wakes.ctx {s u : State} (h : Wakes s u) (c slot : Nat) : u.ctx c slot = s.ctx c slot := by
  rw [State.ctx, h.core]; rfl
theorem Wakes.yew {s u : State} (h : Wakes s u) : u.yew = s.yew := by rw [h.state]
theorem Wakes.mem {s u : State} (h : Wakes s u) : u.mem = s.mem := by rw [h.state]

/-- Units that no longer wait at a key. -/
def CoreUnits.goneOn (u : CoreUnits) (key : Nat) : CoreUnits :=
  { u with transfers := u.transfers.map fun x => if x.wait == some key then { x with wait := none } else x
           chain := u.chain.map fun r => if r.wait == some key then { r with wait := none } else r }

theorem State.wakeKey_wakes (s : State) (key : Nat) : Wakes s (s.wakeKey key) := by
  refine Wakes.foldl (fun t e => ?_) s.cores s
  have hunits : Wakes t ((t.modCore e.1 fun k => { k with units := k.units.goneOn key }).postOnce (.copyPacketStart e.1)) :=
    (Wakes.modUnits t e.1 (·.goneOn key)).trans (.postOnce ..)
  dsimp only
  split
  · split
    · exact hunits.trans (.postOnce ..)
    · exact hunits
  · exact .refl t

theorem State.wakeWaiters_wakes (s : State) (key : Nat) : Wakes s (s.wakeWaiters key) := by
  refine (s.wakeKey_wakes key).trans (Wakes.foldl (fun t d => ?_) _ _)
  refine (Wakes.foldl (fun u r => ?_) d.2.recs t).trans (Wakes.foldl (fun u q => ?_) d.2.roots _)
  · split
    · exact .post ..
    · exact .refl u
  · split
    · exact .postOnce ..
    · exact .refl u

/-- The threads of every core whose wait satisfies a test go on. -/
def State.wakeAll (s : State) (p : Wait → Bool) : State :=
  { s with cores := s.cores.map fun (e : Nat × Core) => (e.1, e.2.wakeIf fun _ _ w => p w) }

theorem State.core_wakeAll (s : State) (p : Wait → Bool) (c : Nat) : (s.wakeAll p).core c = (s.core c).wakeIf fun _ _ w => p w :=
  Tab.getD_mapVal s.cores (fun k => k.wakeIf fun _ _ w => p w) c {}

theorem State.ctx_wakeAll_woken {s : State} {p : Wait → Bool} {c slot : Nat} {w : Wait} (h : (s.ctx c slot).status = .parked w) (hp : p w) :
    (s.wakeAll p).ctx c slot = { s.ctx c slot with status := .ready } := by
  unfold State.ctx at *
  rw [State.core_wakeAll, Core.ctx_wakeIf, h]
  exact if_pos hp

theorem State.ctx_wakeAll_left {s : State} {p : Wait → Bool} {c slot : Nat} (h : ∀ w, (s.ctx c slot).status = .parked w → p w = false) :
    (s.wakeAll p).ctx c slot = s.ctx c slot := by
  unfold State.ctx at *
  rw [State.core_wakeAll, Core.ctx_wakeIf]
  split
  next w hw => rw [if_neg (by rw [h w hw]; decide)]
  next => rfl

/-- Every writer that waits for a copy looks again: wakes, after threads have become ready. -/
theorem State.wakeCopies_wakes (s : State) : ∃ p, Wakes (s.wakeAll p) s.wakeCopies :=
  ⟨_, Wakes.foldl (fun t key => t.wakeWaiters_wakes key) _ _⟩

/-! ### A leaf that changes (04 R105) -/

theorem State.mem_setLeaf (s : State) (asid va slot entry st : Nat) :
    (s.setLeaf asid va slot entry st).mem = s.mem.write slot 8 (entry % 2 ^ 61 + st * 2 ^ 61) := rfl

theorem State.core_setLeaf (s : State) (asid va slot entry st c : Nat) : (s.setLeaf asid va slot entry st).core c = (s.core c).dropPage asid va :=
  (s.core_dropTlb asid va (fun _ => true) c).trans (if_pos rfl)

theorem State.ctx_setLeaf (s : State) (asid va slot entry st c t : Nat) : (s.setLeaf asid va slot entry st).ctx c t = s.ctx c t :=
  s.ctx_dropTlb asid va (fun _ => true) c t

theorem State.setLeaf_stores (s : State) (asid va slot entry st : Nat) :
    Stores s (s.setLeaf asid va slot entry st) slot 8 (entry % 2 ^ 61 + st * 2 ^ 61) := fun a => by
  rw [State.mem_setLeaf, Memory.byte_write]

/-- Between two states Yew and the main registers of every core stay. -/
structure Undisturbed (s u : State) : Prop where
  yew : u.yew = s.yew
  file : ∀ c, (u.core c).file = (s.core c).file

theorem Undisturbed.trans {s t u : State} (h : Undisturbed s t) (g : Undisturbed t u) : Undisturbed s u :=
  ⟨g.yew.trans h.yew, fun c => (g.file c).trans (h.file c)⟩

theorem Wakes.undisturbed {s u : State} (h : Wakes s u) : Undisturbed s u := ⟨h.yew, fun c => by rw [h.core]⟩

theorem State.normalLeaves_undisturbed (s : State) (asids : List Nat) : Undisturbed s (s.normalLeaves asids) := by
  refine List.foldlRecOn (motive := Undisturbed s) _ _ ⟨rfl, fun _ => rfl⟩ fun t h l _ => h.trans ?_
  dsimp only
  split
  · exact ⟨rfl, fun c => by rw [State.core_setLeaf]; rfl⟩
  · exact ⟨rfl, fun _ => rfl⟩

theorem State.wakeAll_undisturbed (s : State) (p : Wait → Bool) : Undisturbed s (s.wakeAll p) :=
  ⟨rfl, fun c => by rw [State.core_wakeAll]; rfl⟩

theorem State.wakeCopies_undisturbed (s : State) : Undisturbed s s.wakeCopies := by
  obtain ⟨p, h⟩ := s.wakeCopies_wakes
  exact (s.wakeAll_undisturbed p).trans h.undisturbed

end Sys2Proof.Machine
end

section
/-! PROOFS. The open snapshot and its cuts (15 R337 to R339; O39). -/

namespace Sys2Proof.Machine

/-! ### The open snapshot -/

theorem State.openSnap_status {s : State} {n : Snap} (h : s.openSnap = some n) : n.status = 0 := by
  simpa using List.find?_some h

/-- A change of snapshots that keeps their states changes the open one. -/
theorem State.openSnap_mapSnaps {s : State} {g : Snap → Snap} (hg : ∀ n, (g n).status = n.status) :
    ({ s with yew := { s.yew with snaps := s.yew.snaps.map g } } : State).openSnap = s.openSnap.map g := by
  have hp : ((fun n : Snap => n.status == 0) ∘ g) = fun n : Snap => n.status == 0 := by
    funext n
    simp [hg]
  exact List.find?_map.trans (by rw [hp]; rfl)

theorem State.openSnap_modSnap {s : State} {n : Snap} {f : Snap → Snap} (h : s.openSnap = some n) (hf : ∀ n, (f n).status = n.status) :
    (s.modSnap n.job n.tag f).openSnap = some (f n) := by
  refine (State.openSnap_mapSnaps (s := s) fun o => ?_).trans ?_
  · split
    · exact hf o
    · rfl
  · simp [h, State.openSnap_status h]

/-- A change of other snapshots leaves the open one. -/
theorem State.openSnap_mapOthers {s : State} {g : Snap → Snap} (hg : ∀ n, (g n).status = n.status) (hopen : ∀ n, n.status = 0 → g n = n) :
    ({ s with yew := { s.yew with snaps := s.yew.snaps.map g } } : State).openSnap = s.openSnap := by
  rw [State.openSnap_mapSnaps hg]
  cases h : s.openSnap with
  | none => rfl
  | some n => exact congrArg some (hopen n (State.openSnap_status h))

/-! ### The cut of a core (15 R339) -/

/-- The open snapshot is n with a core's cut taken. -/
def State.HasCut (u : State) (n : Snap) (c : Nat) (image : Core) : Prop :=
  ∃ n', u.openSnap = some n' ∧ n'.job = n.job ∧ n'.tag = n.tag ∧ (∃ k ∈ n'.cores, k.core = c ∧ k.image = image) ∧ c ∉ n'.wantCores

theorem State.HasCut.cutHedge_ite {u : State} {n : Snap} {c : Nat} {image : Core} (h : u.HasCut n c image) (b : Bool) (e : Nat) :
    (if b then u.cutHedge e else u).HasCut n c image := by
  cases b
  · exact h
  · change (u.cutHedge e).HasCut n c image
    obtain ⟨n', ho, hkeep⟩ := h
    unfold State.HasCut State.cutHedge
    simp only [ho]
    exact ⟨_, State.openSnap_modSnap ho fun _ => rfl, hkeep⟩

theorem State.cutCore_hasCut {s : State} {n : Snap} {c : Nat} (h : s.openSnap = some n) (hc : ∀ k ∈ n.cores, k.core ≠ c) :
    (s.cutCore c).HasCut n c (s.cutImage c (s.snapAsids n)) := by
  have hnew : (n.cores.any fun k => k.core == c) = false := by simpa using hc
  unfold State.cutCore
  simp only [h, hnew, Bool.false_eq_true, if_false]
  refine State.HasCut.cutHedge_ite ?_ _ _
  refine ⟨_, (State.openSnap_mapOthers (fun o => ?_) fun o ho => ?_).trans (State.openSnap_modSnap h fun _ => rfl), ?_⟩
  · split <;> rfl
  · simp [ho]
  · exact ⟨rfl, rfl, ⟨_, List.mem_append_right _ (List.mem_singleton_self _), rfl, rfl⟩, by simp⟩

/-- A core's cut changes Yew and cut bits in the core's cache. -/
structure CutFrame (s u : State) (c : Nat) : Prop where
  state : ∃ y k, u = { s with yew := y, cores := k }
  cache : ∀ a, u.core a = { s.core a with cache := (u.core a).cache }
  other : ∀ a, a ≠ c → u.core a = s.core a

theorem CutFrame.refl (s : State) (c : Nat) : CutFrame s s c := ⟨⟨_, _, rfl⟩, fun _ => rfl, fun _ _ => rfl⟩

theorem CutFrame.setYew {s u : State} {c : Nat} (h : CutFrame s u c) (y : Yew) : CutFrame s { u with yew := y } c where
  state := by
    obtain ⟨_, k, rfl⟩ := h.state
    exact ⟨y, k, rfl⟩
  cache := h.cache
  other := h.other

theorem CutFrame.cutHedge_ite {s u : State} {c : Nat} (h : CutFrame s u c) (b : Bool) (e : Nat) : CutFrame s (if b then u.cutHedge e else u) c := by
  cases b
  · exact h
  · change CutFrame s (u.cutHedge e) c
    unfold State.cutHedge
    split
    · exact h
    · exact h.setYew _

theorem CutFrame.modCache {s u : State} {c : Nat} (h : CutFrame s u c) (f : Core → List CacheLine) :
    CutFrame s (u.modCore c fun k => { k with cache := f k }) c where
  state := by
    obtain ⟨y, _, rfl⟩ := h.state
    exact ⟨y, _, rfl⟩
  cache a := by
    by_cases ha : a = c
    · rw [ha, State.core_modCore_self, h.cache]
    · rw [State.core_modCore_ne _ _ ha, h.cache]
  other a ha := by rw [State.core_modCore_ne _ _ ha, h.other a ha]

theorem State.cutCore_frame (s : State) (c : Nat) : CutFrame s (s.cutCore c) c := by
  unfold State.cutCore
  dsimp only
  split
  · exact .refl s c
  · split
    · exact .refl s c
    · exact .cutHedge_ite (.modCache (.setYew (.refl s c) _) _) _ _

theorem CutFrame.eq {s u : State} {c : Nat} (h : CutFrame s u c) : u = { s with yew := u.yew, cores := u.cores } := by
  obtain ⟨_, _, rfl⟩ := h.state
  rfl

theorem CutFrame.mem {s u : State} {c : Nat} (h : CutFrame s u c) : u.mem = s.mem := by rw [h.eq]
theorem CutFrame.net {s u : State} {c : Nat} (h : CutFrame s u c) : u.net = s.net := by rw [h.eq]
theorem CutFrame.timers {s u : State} {c : Nat} (h : CutFrame s u c) : u.timers = s.timers := by rw [h.eq]
theorem CutFrame.ctx {s u : State} {c : Nat} (h : CutFrame s u c) (a slot : Nat) : u.ctx a slot = s.ctx a slot := by
  rw [State.ctx, h.cache]; rfl

end Sys2Proof.Machine
end

section
/-! PROOFS. A snapshot opens (08 R195; 15 R337, R345; O39). -/

namespace Sys2Proof.Machine

theorem State.foldl_posts {α : Type} (f : α → Instr) : ∀ (l : List α) (s : State),
    l.foldl (fun s a => s.post (f a)) s = { s with net := s.net ++ l.map f }
  | [], s => by simp
  | a :: l, s => by rw [List.foldl_cons, State.foldl_posts f l]; simp [State.post]

/-- Yew has opened a snapshot n of a job: markers are on their way to its cores, and it looks again after 64 cycles. -/
structure Opened (s u : State) (job tag : Nat) (n : Snap) : Prop where
  state : ∃ y l o t, u = { s with yew := y, net := l, outbox := o, timers := t }
  opened : u.openSnap = some n
  hasJob : n.job = job
  hasTag : n.tag = tag
  uncut : n.cores = []
  asked : ∀ e ∈ s.cores, e.2.csr.stopped = false → .snapshotMarker e.1 tag ∈ u.net ∧ e.1 ∈ n.wantCores
  finish : (s.now + 64, .snapshotFinish job tag) ∈ u.timers

theorem Opened.mem {s u : State} {job tag : Nat} {n : Snap} (h : Opened s u job tag n) : u.mem = s.mem := by
  obtain ⟨_, _, _, _, rfl⟩ := h.state
  rfl

theorem Opened.cores {s u : State} {job tag : Nat} {n : Snap} (h : Opened s u job tag n) : u.cores = s.cores := by
  obtain ⟨_, _, _, _, rfl⟩ := h.state
  rfl

theorem Opened.cutImage {s u : State} {job tag : Nat} {n : Snap} (h : Opened s u job tag n) (c : Nat) (asids : List Nat) :
    u.cutImage c asids = s.cutImage c asids := by
  obtain ⟨_, _, _, _, rfl⟩ := h.state
  rfl

theorem Opened.snapAsids {s u : State} {job tag : Nat} {n : Snap} {j : Job} (h : Opened s u job tag n) (hj : s.job job = some j) : u.snapAsids n = j.asids := by
  have hjob : u.job n.job = some j := by
    rw [h.hasJob, ← hj]
    obtain ⟨_, _, _, _, rfl⟩ := h.state
    rfl
  rw [State.snapAsids, hjob]
  rfl

theorem State.openSnapshot_opened {s : State} {job tag : Nat} {j : Job} (hnone : s.openSnap = none) (hj : s.job job = some j) :
    ∃ n, Opened s (s.openSnapshot job tag) job tag n := by
  have hopen : ∀ (g : Snap → Snap) (n : Snap), (∀ o, (g o).status = o.status) → n.status = 0 →
      (s.yew.snaps.map g ++ [n]).find? (fun o => o.status == 0) = some n := by
    intro g n hg h0
    rw [List.find?_append, show (s.yew.snaps.map g).find? (fun o => o.status == 0) = none from
      (State.openSnap_mapSnaps hg).trans (by rw [hnone]; rfl)]
    simp [h0]
  unfold State.openSnapshot
  simp only [hj, State.foldl_posts]
  refine ⟨_, ⟨_, _, _, _, rfl⟩, hopen _ _ (fun o => by split <;> rfl) rfl, rfl, rfl, rfl, fun e he hstop => ?_, ?_⟩
  · have hwant : e.1 ∈ (s.cores.filter fun e => !e.2.csr.stopped).map Prod.fst :=
      List.mem_map_of_mem (List.mem_filter.2 ⟨he, by simp [hstop]⟩)
    exact ⟨List.mem_append_left _ (List.mem_append_left _ (List.mem_append_right _ (List.mem_map_of_mem hwant))), hwant⟩
  · exact State.mem_timers_after ..

/-! ### What the three messages of an opening do -/

/-- 08 R195: with no snapshot open a request opens one, and the requesting core takes its cut. -/
theorem execSnapRequest_opens {s : State} {c slot tag : Nat} {j : Job} (hof : s.jobOf (s.ctx c slot).asid = some j) (hj : s.job j.num = some j)
    (hnone : s.openSnap = none) : ∃ (u : State) (n : Snap), exec (.snapRequest c slot tag) s = .next u ∧ u.openSnap = some n ∧
      n.job = j.num ∧ n.tag = tag ∧ (∃ k ∈ n.cores, k.core = c ∧ k.image = s.cutImage c j.asids) ∧ .snapAnswer c slot ∈ u.net ∧
      (∀ e ∈ s.cores, e.2.csr.stopped = false → .snapshotMarker e.1 tag ∈ u.net) ∧ (s.now + 64, .snapshotFinish j.num tag) ∈ u.timers ∧ u.mem = s.mem := by
  obtain ⟨n, hn⟩ := State.openSnapshot_opened (tag := tag) hnone hj
  obtain ⟨n', ho, hjob, htag, hcut, -⟩ := State.cutCore_hasCut (c := c) hn.opened (by simp [hn.uncut])
  have hframe := (s.openSnapshot j.num tag).cutCore_frame c
  rw [hn.cutImage, hn.snapAsids hj] at hcut
  refine ⟨((s.openSnapshot j.num tag).cutCore c).post (.snapAnswer c slot), n', ?_, ho, hjob.trans hn.hasJob, htag.trans hn.hasTag, hcut,
    List.mem_append_right _ (List.mem_singleton_self _), fun e he hstop => List.mem_append_left _ ?_, ?_, hframe.mem.trans hn.mem⟩
  · simp only [exec, execSnapRequest, hof, hnone]
  · rw [hframe.net]
    exact (hn.asked e he hstop).1
  · exact hframe.timers ▸ hn.finish

/-- 08 R195: a request for the snapshot that is open is answered at once, and one for another is held. -/
theorem execSnapRequest_held {s : State} {c slot tag : Nat} {j : Job} {n : Snap} (hof : s.jobOf (s.ctx c slot).asid = some j) (ho : s.openSnap = some n) :
    (n.job = j.num → n.tag = tag → exec (.snapRequest c slot tag) s = .next { s with net := s.net ++ [.snapAnswer c slot] }) ∧
    (n.job ≠ j.num ∨ n.tag ≠ tag → (s.yew.held.filter fun r => r.job == j.num).length < 4 → exec (.snapRequest c slot tag) s =
      .next { s with net := s.net ++ [.snapAnswer c slot], yew := { s.yew with held := s.yew.held ++ [{ job := j.num, tag := tag }] } }) := by
  refine ⟨fun hjob htag => ?_, fun hother hroom => ?_⟩
  · simp [exec, execSnapRequest, hof, ho, hjob, htag, State.post]
  · have hnot : (decide (n.job = j.num) && decide (n.tag = tag)) = false := by
      rw [Bool.and_eq_false_iff, decide_eq_false_iff_not, decide_eq_false_iff_not]
      exact hother
    simp [exec, execSnapRequest, hof, ho, hnot, hroom, State.post]

/-- 15 R337: a held request opens when nothing is open and no message is cut. -/
theorem execSnapshotOpen_opens {s : State} {job tag : Nat} {j : Job} (hnone : s.openSnap = none) (hq : s.quiet) (hj : s.job job = some j) :
    ∃ (u : State) (n : Snap), exec (.snapshotOpen job tag) s = .next u ∧ u.openSnap = some n ∧ n.job = job ∧ n.tag = tag ∧ n.cores = [] ∧
      (∀ e ∈ s.cores, e.2.csr.stopped = false → .snapshotMarker e.1 tag ∈ u.net ∧ e.1 ∈ n.wantCores) ∧
      (s.now + 64, .snapshotFinish job tag) ∈ u.timers ∧ u.mem = s.mem ∧ u.cores = s.cores := by
  obtain ⟨n, hn⟩ := State.openSnapshot_opened (tag := tag)
    (s := { s with yew := { s.yew with held := s.yew.held.eraseP fun (r : SnapReq) => r.job == job && r.tag == tag } }) hnone hj
  refine ⟨_, n, ?_, hn.opened, hn.hasJob, hn.hasTag, hn.uncut, hn.asked, hn.finish, hn.mem, hn.cores⟩
  simp [exec, execSnapshotOpen, hnone, hq, hn.opened]

/-- 15 R337, R339: a marker of the open snapshot makes its core cut. -/
theorem execSnapshotMarker_cuts {s : State} {c tag : Nat} {n : Snap} (ho : s.openSnap = some n) (htag : n.tag = tag) (hstop : (s.core c).csr.stopped = false)
    (hc : ∀ k ∈ n.cores, k.core ≠ c) : ∃ (u : State) (n' : Snap), exec (.snapshotMarker c tag) s = .next u ∧
      u.openSnap = some n' ∧ (∃ k ∈ n'.cores, k.core = c ∧ k.image = s.cutImage c (s.snapAsids n)) ∧ c ∉ n'.wantCores ∧ u.mem = s.mem ∧
      (∀ a slot, u.ctx a slot = s.ctx a slot) ∧ ∀ a, a ≠ c → u.core a = s.core a := by
  obtain ⟨n', ho', -, -, hcut, hwant⟩ := State.cutCore_hasCut ho hc
  have hframe := s.cutCore_frame c
  refine ⟨_, n', ?_, ho', hcut, hwant, hframe.mem, hframe.ctx, hframe.other⟩
  simp [exec, execSnapshotMarker, ho, htag, hstop]

end Sys2Proof.Machine
end

section
/-! PROOFS. The finish of a snapshot, and its release (15 R345, R348, R349; O39). -/

namespace Sys2Proof.Machine

theorem State.openSnap_only {s : State} {n : Snap} (hs : s.yew.snaps = [n]) (h0 : n.status = 0) : s.openSnap = some n := by
  simp [State.openSnap, hs, h0]

theorem State.modSnap_only {s : State} {n : Snap} (hs : s.yew.snaps = [n]) (h0 : n.status = 0) (f : Snap → Snap) :
    s.modSnap n.job n.tag f = { s with yew := { s.yew with snaps := [f n] } } := by
  simp [State.modSnap, hs, h0]

theorem State.finishedAt_only {s : State} {n : Snap} (hs : s.yew.snaps = [n]) :
    s.finishedAt n.job n.tag = if n.status = 1 then some 0 else none := by
  simp [State.finishedAt, hs, List.findIdx?_cons]

/-! ### The finish (15 R345) -/

theorem execSnapshotFinish_only {s : State} {n : Snap} (hs : s.yew.snaps = [n]) (h0 : n.status = 0) (hhedges : n.wantHedges = []) (hlines : s.cutLines = []) :
    (n.wantCores = [] ∧ n.pinned = [] ∧ n.leaves = [] ∧ s.channelsClosed n.job = true → s.yew.held = [] → exec (.snapshotFinish n.job n.tag) s =
      .next { s with yew := { s.yew with snaps := [{ n with status := 1, finished := s.now }] } }) ∧
    (¬(n.wantCores = [] ∧ n.pinned = [] ∧ n.leaves = [] ∧ s.channelsClosed n.job = true) →
      exec (.snapshotFinish n.job n.tag) s = .next (s.after 64 (.snapshotFinish n.job n.tag))) := by
  have ho := State.openSnap_only hs h0
  have hold : s.finishedAt n.job n.tag = none := by simp [State.finishedAt_only hs, h0]
  refine ⟨fun hall hheld => ?_, fun hwait => ?_⟩
  · simp [exec, execSnapshotFinish, ho, hhedges, hlines, hall, hold, State.modSnap_only hs h0, State.openHeld, hheld]
  · have hgo : (n.wantCores.isEmpty && n.wantHedges.isEmpty && s.cutLines.isEmpty && n.pinned.isEmpty && n.leaves.isEmpty && s.channelsClosed n.job) = false := by
      rw [Bool.eq_false_iff]
      intro h
      simp only [Bool.and_eq_true, List.isEmpty_iff] at h
      obtain ⟨⟨⟨⟨⟨hc, -⟩, -⟩, hp⟩, hl⟩, hch⟩ := h
      exact hwait ⟨hc, hp, hl, hch⟩
    simp only [exec, execSnapshotFinish, ho, hhedges, hlines, List.filter_nil, List.foldl_nil, bne_self_eq_false, Bool.or_self, Bool.false_eq_true, if_false]
    rw [hhedges, hlines] at hgo
    rw [hgo]
    rfl

/-! ### The release (15 R348, R349) -/

theorem State.dropSnap_only {s : State} {n : Snap} (hs : s.yew.snaps = [n]) :
    (s.dropSnap 0 3).yew.snaps = [n.freed 3] ∧ ∀ c, ((s.dropSnap 0 3).core c).file = (s.core c).file := by
  have hfreed : (n.freed 3).held n.job = false := by simp [Snap.held, Snap.freed]
  have hkeep : ∀ (t : State) (asids : List Nat), Undisturbed t (t.normalLeaves asids).wakeCopies := fun t asids =>
    (t.normalLeaves_undisturbed asids).trans (State.wakeCopies_undisturbed _)
  unfold State.dropSnap
  simp only [hs, List.getElem?_cons_zero, List.zipIdx_cons, List.zipIdx_nil, List.map_cons, List.map_nil, beq_self_eq_true, if_true, State.restock,
    List.any_cons, List.any_nil, hfreed, Bool.or_self, Bool.false_eq_true, if_false]
  exact ⟨congrArg Yew.snaps (hkeep _ _).yew, (hkeep _ _).file⟩

theorem execYewRelease_only {s : State} {n : Snap} (hs : s.yew.snaps = [n]) :
    (n.status ≠ 1 → exec (.yewRelease n.job n.tag) s = .next (s.yewAnswer n.job 1)) ∧
    (n.status = 1 → exec (.yewRelease n.job n.tag) s = .next ((s.dropSnap 0 3).yewAnswer n.job 0)) :=
  ⟨fun h => by simp [exec, execYewRelease, State.finishedAt_only hs, h], fun h => by simp [exec, execYewRelease, State.finishedAt_only hs, h]⟩

end Sys2Proof.Machine
end

section
/-! PROOFS. Copies of pages for the one snapshot, and the leaves of its pages (15 R340 to R343; 04 R105; O39). -/

namespace Sys2Proof.Machine

/-! ### The copy of a page -/

/-- The one snapshot of u is the one that s has, n, with the copy of a page. -/
def Copied (s : State) (n : Snap) (base : Nat) (u : State) : Prop :=
  ∃ n', u.yew.snaps = [n'] ∧ n'.pages = n.pages ++ [(base, (s.pageImage base).1, (s.pageImage base).2)] ∧
    base ∉ n'.uncopied ∧ base ∉ n'.pinned ∧ n'.cores = n.cores ∧ n'.status = n.status

theorem copied_of_take {s u : State} {n : Snap} {base : Nat} (ha : n.awaits base) (leaves : List (Nat × Nat × Nat))
    (hu : u.yew.snaps = [{ n.take base (s.pageImage base) with leaves := leaves }]) : Copied s n base u := by
  refine ⟨_, hu, ?_⟩
  simp [Snap.take, ha]

/-- The store's marks, and what Ozine is told of them, change with a copy; of the rest of the state only the snapshot does. -/
theorem State.copyPage_room {s : State} {n : Snap} {base : Nat} (hs : s.yew.snaps = [n]) (ha : n.awaits base)
    (hroom : s.storeUsed (s.pageDie base) + pageUnits base ≤ 16 * (s.die (s.pageDie base)).yew.size) :
    ∃ d h, s.copyPage base = ({ s with yew := { s.yew with snaps := [n.take base (s.pageImage base)] }, dies := d, host := h }, true) := by
  have hany : (s.yew.snaps.any fun n => n.awaits base) = true := by simp [hs, ha]
  unfold State.copyPage
  simp only [hany, Bool.not_true, Bool.false_eq_true, if_false, if_neg (Nat.not_lt.2 hroom)]
  split
  · exact ⟨_, _, by rw [hs]; rfl⟩
  · exact ⟨_, _, by rw [hs]; rfl⟩

theorem execSramPageCopy_room {s : State} {n : Snap} {page : Nat} (hs : s.yew.snaps = [n]) (ha : n.awaits (page * 4096))
    (hroom : s.storeUsed (s.pageDie (page * 4096)) + pageUnits (page * 4096) ≤ 16 * (s.die (s.pageDie (page * 4096))).yew.size) :
    ∃ u : State, exec (.sramPageCopy page) s = .next u ∧ Copied s n (page * 4096) u ∧ u.mem = s.mem ∧ ∀ c slot, u.ctx c slot =
      if (s.ctx c slot).status = .parked (.sramCopy page) then { s.ctx c slot with status := .ready } else s.ctx c slot := by
  obtain ⟨d, h, hcopy⟩ := State.copyPage_room hs ha hroom
  simp only [exec, execSramPageCopy, hcopy]
  have hw := State.wakeWaiters_wakes (State.wakeAll
    { s with yew := { s.yew with snaps := [n.take (page * 4096) (s.pageImage (page * 4096))] }, dies := d, host := h } (· == .sramCopy page)) (sramKey page)
  refine ⟨_, rfl, copied_of_take ha _ (congrArg Yew.snaps hw.yew), hw.mem, fun c slot => (hw.ctx c slot).trans ?_⟩
  split
  next hwait => exact State.ctx_wakeAll_woken hwait (beq_self_eq_true _)
  next hother =>
    refine State.ctx_wakeAll_left fun w hw => beq_eq_false_iff_ne.2 ?_
    rintro rfl
    exact hother hw

theorem execPinnedPageCopy_room {s : State} {n : Snap} {base : Nat} (hs : s.yew.snaps = [n]) (ha : n.awaits base)
    (hroom : s.storeUsed (s.pageDie base) + pageUnits base ≤ 16 * (s.die (s.pageDie base)).yew.size) :
    ∃ u : State, exec (.pinnedPageCopy base) s = .next u ∧ Copied s n base u ∧ u.mem = s.mem := by
  obtain ⟨d, h, hcopy⟩ := State.copyPage_room hs ha hroom
  simp only [exec, execPinnedPageCopy, hcopy]
  obtain ⟨p, hw⟩ := State.wakeCopies_wakes { s with yew := { s.yew with snaps := [n.take base (s.pageImage base)] }, dies := d, host := h }
  exact ⟨_, rfl, copied_of_take ha _ (congrArg Yew.snaps hw.yew), hw.mem⟩

/-! ### A page of memory, and its leaf -/

/-- The state of a leaf (04 R105). -/
theorem fld_leaf_state {e : Nat} (he : e < 2 ^ 64) : fld e 61 3 = e / 2 ^ 61 := Nat.mod_eq_of_lt (by omega)

/-- A thread waits for the copy of the page of an address. -/
def Wait.forPage (va : Nat) : Wait → Bool
  | .pageCopy v => v / 65536 == va / 65536
  | _ => false

/-- What the copy of a page of memory ends with: its leaf awaits no rewrite, and its writers go on. -/
def State.pageCopied (s : State) (die asid va : Nat) : State :=
  let drop := fun (n : Snap) => { n with leaves := n.leaves.filter fun l => l != (die, asid, va / 65536 * 65536) }
  (State.wakeAll { s with yew := { s.yew with snaps := s.yew.snaps.map drop } } (Wait.forPage va)).wakeWaiters (vaKey va)

theorem State.snaps_pageCopied {s : State} {n : Snap} (hs : s.yew.snaps = [n]) (die asid va : Nat) :
    (s.pageCopied die asid va).yew.snaps = [{ n with leaves := n.leaves.filter fun l => l != (die, asid, va / 65536 * 65536) }] :=
  (congrArg Yew.snaps (State.wakeWaiters_wakes _ _).yew).trans (congrArg (List.map _) hs)

theorem State.mem_pageCopied (s : State) (die asid va : Nat) : (s.pageCopied die asid va).mem = s.mem := (State.wakeWaiters_wakes _ _).mem

theorem State.ctx_pageCopied {s : State} {c t v va : Nat} (h : (s.ctx c t).status = .parked (.pageCopy v)) (hv : v / 65536 = va / 65536) (die asid : Nat) :
    (s.pageCopied die asid va).ctx c t = { s.ctx c t with status := .ready } :=
  ((State.wakeWaiters_wakes _ _).ctx c t).trans (State.ctx_wakeAll_woken h (by simp [Wait.forPage, hv]))

theorem execSnapPageCopy_room {s : State} {n : Snap} {die asid va slot e : Nat} (hs : s.yew.snaps = [n]) (ha : n.awaits (pteAddr e false 0))
    (hroom : s.storeUsed (s.pageDie (pteAddr e false 0)) + pageUnits (pteAddr e false 0) ≤ 16 * (s.die (s.pageDie (pteAddr e false 0))).yew.size)
    (hleaf : s.leafOf die asid va = some (slot, e)) (he : e < 2 ^ 64) :
    ∃ u : State, exec (.snapPageCopy die asid va) s = .next u ∧ Copied s n (pteAddr e false 0) u ∧
      (e / 2 ^ 61 = 1 ∨ e / 2 ^ 61 = 3 → Stores s u slot 8 (e % 2 ^ 61 + 4 * 2 ^ 61)) ∧ (e / 2 ^ 61 ≠ 1 → e / 2 ^ 61 ≠ 3 → u.mem = s.mem) ∧
      ∀ c t v, (s.ctx c t).status = .parked (.pageCopy v) → v / 65536 = va / 65536 → u.ctx c t = { s.ctx c t with status := .ready } := by
  obtain ⟨d, h, hcopy⟩ := State.copyPage_room hs ha hroom
  let t : State := { s with yew := { s.yew with snaps := [n.take (pteAddr e false 0) (s.pageImage (pteAddr e false 0))] }, dies := d, host := h }
  have hexec : exec (.snapPageCopy die asid va) s = .next
      ((if fld e 61 3 == 1 || fld e 61 3 == 3 then t.setLeaf asid va slot e 4 else t).pageCopied die asid va) := by
    simp only [exec, execSnapPageCopy, hleaf, hcopy]
    rfl
  rw [hexec, fld_leaf_state he]
  by_cases hshared : e / 2 ^ 61 = 1 ∨ e / 2 ^ 61 = 3
  · rw [if_pos (by simpa using hshared)]
    refine ⟨_, rfl, copied_of_take ha _ (State.snaps_pageCopied rfl ..), fun _ => ?_, fun h1 h3 => absurd hshared (not_or.2 ⟨h1, h3⟩), fun c k v hw hv => ?_⟩
    · intro a
      rw [State.mem_pageCopied]
      exact t.setLeaf_stores asid va slot e 4 a
    · exact (State.ctx_pageCopied ((congrArg Ctx.status (t.ctx_setLeaf asid va slot e 4 c k)).trans hw) hv die asid).trans
        (by rw [State.ctx_setLeaf]; rfl)
  · rw [if_neg (by simpa using hshared)]
    exact ⟨_, rfl, copied_of_take ha _ (State.snaps_pageCopied rfl ..), fun h => absurd h hshared, fun _ _ => State.mem_pageCopied ..,
      fun c k v hw hv => State.ctx_pageCopied (s := t) hw hv die asid⟩

/-! ### Lines and leaves -/

/-- A line that has been copied loses its cut bit. -/
def CacheLine.copied (line : Nat) (l : CacheLine) : CacheLine := if l.line = line then { l with cut := false } else l

def Core.lineCopied (line : Nat) (k : Core) : Core := { k with cache := k.cache.map (CacheLine.copied line) }
def Hedge.lineCopied (line : Nat) (k : Hedge) : Hedge := { k with victim := k.victim.map (CacheLine.copied line) }

theorem execCutLineCopy_clears (s : State) (line : Nat) : ∃ u : State, exec (.cutLineCopy line) s = .next u ∧
    u = { s with cores := u.cores, hedges := u.hedges } ∧ (∀ c, u.core c = { s.core c with cache := (s.core c).cache.map (CacheLine.copied line) }) ∧
    ∀ h, (u.hedge h).victim = (s.hedge h).victim.map (CacheLine.copied line) := by
  have hclear : (fun l : CacheLine => if l.line == line then { l with cut := false } else l) = CacheLine.copied line := by
    funext l
    simp [CacheLine.copied]
  simp only [exec, execCutLineCopy, hclear]
  exact ⟨_, rfl, rfl, fun c => Tab.getD_mapVal s.cores (Core.lineCopied line) c {},
    fun h => congrArg Hedge.victim (Tab.getD_mapVal s.hedges (Hedge.lineCopied line) h {})⟩

theorem execSnapshotLeafRewrite_other {s : State} {n : Snap} {die asid va : Nat} (hs : s.yew.snaps = [n]) (h : (die, asid, va) ∉ n.leaves) :
    exec (.snapshotLeafRewrite die asid va) s = .next s := by
  simp [exec, execSnapshotLeafRewrite, hs, h]

theorem execSnapshotLeafRewrite_shares {s : State} {n : Snap} {die asid va slot e : Nat} (hs : s.yew.snaps = [n]) (h : (die, asid, va) ∈ n.leaves)
    (hleaf : s.leafOf die asid va = some (slot, e)) (hst : e / 2 ^ 61 = 1 ∨ e / 2 ^ 61 = 4) (hn : n.status ≤ 1) (hun : pteAddr e false 0 ∈ n.uncopied) :
    exec (.snapshotLeafRewrite die asid va) s = .next
      (State.setLeaf { s with yew := { s.yew with snaps := [{ n with leaves := n.leaves.filter fun l => l != (die, asid, va) }] } } asid va slot e 3) := by
  have hfld : (fld e 61 3 == 1 || fld e 61 3 == 4) = true := by
    rw [fld_leaf_state (by omega)]
    simpa using hst
  have hleaf' : ∀ y, State.leafOf { s with yew := y } die asid va = some (slot, e) := fun _ => hleaf
  simp [exec, execSnapshotLeafRewrite, hs, h, hleaf', hfld, hn, hun]

theorem Core.hits_dropPage {k : Core} {asid va : Nat} {t : TlbEntry} (h : t ∈ (k.dropPage asid va).tlb) : t.hits asid va = false := by
  simpa using (List.mem_filter.1 h).2

end Sys2Proof.Machine
end

section
/-! PROOFS. Snapshots (O39). -/

namespace Sys2Proof.Machine

/-- Settles O39: an opening keeps the cores, so the requester's cut is of what it was; the finish, the release and the copies are read off the one snapshot,
and what follows them, wakes and leaves, changes neither memory nor snapshots further. -/
theorem snapshotsTaken : Obligations.SnapshotsTaken := by
  unfold Obligations.SnapshotsTaken
  refine ⟨⟨fun s c slot tag j hof hj => ⟨execSnapRequest_opens hof hj, fun n ho => (execSnapRequest_held hof ho).1, fun n ho hother hroom => ?_⟩,
    fun s job tag j => ⟨fun ho => ?_, execSnapshotOpen_opens⟩, fun s c tag n ho => ⟨fun hother => ?_, execSnapshotMarker_cuts ho⟩, ?_, ?_⟩,
    fun s n base hs ha hroom => ⟨?_, execPinnedPageCopy_room hs ha hroom, ?_⟩, fun s line => ?_,
    fun s n die asid va slot e hs => ⟨execSnapshotLeafRewrite_other hs, fun hmem hleaf hst hn hun _ => ?_⟩⟩
  case refine_1 => exact ⟨_, (execSnapRequest_held hof ho).2 hother hroom, rfl, rfl, rfl⟩
  case refine_2 => simp [exec, execSnapshotOpen, ho]
  case refine_3 => simp [exec, execSnapshotMarker, ho, hother]
  case refine_4 =>
    rintro s job tag n hs h0 rfl rfl hhedges hlines
    obtain ⟨hdone, hwait⟩ := execSnapshotFinish_only hs h0 hhedges hlines
    refine ⟨fun hc hp hl hch hheld => ⟨_, hdone ⟨hc, hp, hl, hch⟩ hheld, rfl, rfl⟩, fun hsome => ⟨_, hwait ?_, rfl, State.mem_timers_after ..⟩⟩
    rintro ⟨hc, hp, hl, hch⟩
    simp [hc, hp, hl, hch] at hsome
  case refine_5 =>
    rintro s job tag n hs rfl rfl
    obtain ⟨hnone, hrelease⟩ := execYewRelease_only hs
    obtain ⟨hsnaps, hfile⟩ := State.dropSnap_only hs
    exact ⟨fun h => ⟨_, hnone h, rfl, rfl⟩,
      fun h => ⟨_, _, hrelease h, List.mem_append_right _ (List.mem_singleton_self _), hsnaps, rfl, rfl, rfl, hfile⟩⟩
  case refine_6 =>
    rintro page rfl
    exact execSramPageCopy_room hs ha hroom
  case refine_7 =>
    rintro die asid va slot e hleaf rfl he -
    exact execSnapPageCopy_room hs ha hroom hleaf he
  case refine_8 =>
    obtain ⟨u, hu, hstate, hcore, hvictim⟩ := execCutLineCopy_clears s line
    exact ⟨u, hu, hstate, fun c => by rw [hcore]; exact ⟨rfl, rfl⟩, hvictim⟩
  case refine_9 =>
    refine ⟨_, { n with leaves := n.leaves.filter fun l => l != (die, asid, va) }, execSnapshotLeafRewrite_shares hs hmem hleaf hst hn hun,
      State.setLeaf_stores _ asid va slot e 3, rfl, rfl, by simp, fun c t ht => ?_, fun c t => State.ctx_setLeaf ..⟩
    rw [State.core_setLeaf] at ht
    exact Core.hits_dropPage ht

end Sys2Proof.Machine
end
